-- ==== Sys2Proof/Word.lean ====
section
/-! DEFINITION. The plain word types of the TH-KZ8 (f01, f04, f12). -/
namespace Sys2Proof

/-- One byte of memory (f01 R3). -/
abbrev Byte := BitVec 8
/-- One instruction word (f12 R302) and one vector lane (f05 R126). -/
abbrev Word := BitVec 32
/-- One D register, CSR or meter (f01 R11, f12 R313). -/
abbrev DWord := BitVec 64
/-- A capability (f04 R90). -/
abbrev CapBits := BitVec 128
/-- A sealed capability (f04 R95), a flit (f08 R205), a host ring half-slot. -/
abbrev Sealed := BitVec 256
/-- One ring slot of 64 bytes (f09 R236). -/
abbrev Slot := BitVec 512

end Sys2Proof
end

