-- ==== Sys2Proof/Machine/Payload.lean ====
section
/-! DEFINITION. What the steps without an instruction word carry: the host's packets, frames, flits and messages. -/
namespace Sys2Proof.Machine

/-- Where a host packet came from and how it answers (f09 R236, R238): function, queue, RIDX of the packet
(0xFFFF_FFFF for a LAUNCH write), TAG, COMP. -/
structure Pkt where
  fn   : Nat
  q    : Nat
  pidx : BitVec 32
  tag  : BitVec 32
  comp : Bool
  /-- it took slots of its queue's ring; a LAUNCH write took none (f09 R235) -/
  ring : Bool
  deriving DecidableEq, Repr

/-- A launch (f09 R235, R239): graph, argument index, class, sequence number. -/
structure LaunchReq where
  graph  : Nat
  argidx : Nat
  cls    : Nat
  seq    : Nat
  deriving DecidableEq, Repr

/-- Where a flit stands: router 0..191 (24 per die) with input port and lane, or on its way out (f08 R204, R205).
`owner` is the timetable's key plus one, or 0 for the untimed class with its tenant; `addr` is the device address the
flit's 32 bytes are written to when it leaves at a memory attachment. -/
structure Flit where
  owner  : Nat
  tenant : Nat
  stream : Nat
  data   : BitVec 256
  addr   : Option Nat
  deriving DecidableEq, Repr

/-- A barrier message of one timetable between packages (f08 R210, f03 R68): a report goes up the alignment tree, a
start and a failure go down (a failure also up), and so does a stop with its cause (f17 R335); a subtree all of whose packages have ended
says so once and for all. -/
inductive BarMsg where
  | report (key last vmax : Nat)
  | start (key gcy b : Nat)
  | fail (key : Nat)
  | stop (key cause : Nat)
  | ended (key : Nat)
  deriving DecidableEq, Repr

/-- What the members of one collective send each other over a tree link (f08 R220..R225, f17 R332): header digests and
marks both ways, exponents up and down, partials up, results and contributions on. `unit` is the chunk of the
contribution; `special` says per element which kinds of contribution it has (NaN 1, +∞ 2, −∞ 4, finite non-zero 8, +0 16). -/
inductive GMsg where
  | digest (words : List Nat) (up : Bool)
  | marks (bits : List Bool) (up : Bool)
  | expo (unit : Nat) (words : List Int) (up : Bool)
  | partial_ (unit : Nat) (words : List Int) (special : List Nat)
  | result (unit : Nat) (bytes : List Byte)
  | contrib (member unit : Nat) (bytes : List Byte)
  /-- the unit is over at the sender and behind it (log entry 167) -/
  | here (unit : Nat)
  | hold
  | abort (mgen : Nat) (lost : Nat)
  deriving DecidableEq, Repr

/-- A message of a collective on a link: its timetable, the package that sends it, the tree, the membership generation and
the number of the collective within it. -/
structure GFlit where
  tt   : Nat
  pkg  : Nat
  tree : Nat
  mgen : Nat
  no   : Nat
  msg  : GMsg
  deriving DecidableEq, Repr

/-- A Hen request that crosses packages (f07 R193): the operation with the bytes it carries. `at_` gives the address of each byte. -/
inductive RemoteOp where
  | acc (at_ : List Nat) (ty : Nat) (bytes : List Byte)
  | stage (at_ : List Nat) (ty : Nat) (tt strand order : Nat) (bytes : List Byte)
  | cas (addr n : Nat) (expect new : List (BitVec 64))
  /-- the header's and the record's address, ARG, the window's length, and the runs of it that are resident: offset, address, bytes -/
  | enq (hdr recAddr arg len : Nat) (window : List (Nat × Nat × Nat))
  /-- the line's address and bytes, the routine, its D2, D5 and D6, ORD, and what the job's capability checks cover (f18 R339) -/
  | run (addr routine : Nat) (arg d5 d6 : BitVec 64) (ord : Bool) (ok : List (Nat × Nat)) (bytes : List Byte)
  | read (addr n : Nat)
  | write (addr : Nat) (bytes : List Byte)
  /-- bytes that arrive at a sync word (f07 R198, R199) -/
  | count (addr n : Nat)
  /-- what the timetable has staged at a Hen commits, or is discarded (f06 R168, f07 R189) -/
  | commit (hen tt : Nat)
  | discard (hen tt : Nat)
  /-- a gate of another package asked for, bound to a window or with an emptied list, and released (f06 R162..R164) -/
  | acq (gate strand : Nat)
  | bind (gate strand : Nat) (window : Option (Nat × Nat × Nat × Nat))
  | rel (gate strand : Nat) (poison : Bool)
  deriving DecidableEq, Repr

/-- A suspended timetable on its way to another device (f10 R277): whose it is, with the graph, sequence number, node and class of its
launch; its save area's length, bytes that are not 0 and banks; the migration record and its signature. -/
structure Moved where
  tenant : Nat
  graph  : Nat
  seq    : Nat
  node   : Nat
  cls    : Nat
  len    : Nat
  area   : List (Nat × Byte)
  banks  : List (Nat × Nat)
  record : List Byte
  sig    : List Byte
  deriving DecidableEq, Repr

/-- What an untimed message between packages carries (f07 R193, f08 R219..R227, f10 R277). -/
inductive Msg where
  | goose (f : GFlit)
  /-- source package, source core, sequence number, operation -/
  | request (pkg core seq : Nat) (op : RemoteOp)
  /-- Hen of the domain, source core, sequence number, status and reply bytes -/
  | reply (hen core seq status : Nat) (bytes : List Byte)
  | moved (m : Moved)
  deriving DecidableEq, Repr

/-- An untimed message on its way to another package (f08 R212): the package, the tenant, the router it stands at, the routers and
bridges of this package it has still to pass, the link it leaves by, its flits sent so far, and what it carries. -/
structure Post where
  dest   : Nat
  tenant : Nat
  seat   : Nat
  hops   : List Nat
  link   : Option Nat
  sent   : Nat
  msg    : Msg
  deriving DecidableEq, Repr

/-- One flit of an untimed message in a frame: its lane, its number among the message's flits, whether it is the last; the message, with
its tenant and the package it is for. -/
structure PostFlit where
  lane   : Nat
  no     : Nat
  last   : Bool
  tenant : Nat
  dest   : Nat
  msg    : Msg
  deriving DecidableEq, Repr

/-- The content of one frame (f08 R210): the sequence number and whether the CRC held; the send timestamp, the sender's OREF (in
half gcy), the tenants whose stop bit is set, a barrier message; the circuit flits with their lanes, and the lanes with an
uncorrectable codeword; the flits of untimed messages; packages whose ALIGNLOSS the sender tells of (how a loss is told is not said: DESIGN
CHOICE, log entry 176). -/
structure Frame where
  seq     : Nat
  crcOk   : Bool
  sentAt  : Nat
  oref    : Int
  stop    : List Nat
  barrier : Option BarMsg
  lanes   : List (Nat × Flit)
  bad     : List Nat
  posts   : List PostFlit
  losses  : List Nat
  deriving DecidableEq, Repr

/-- The key of a link in the live link table: (package a, link of a, package b, link of b), a < b (f08 R211). -/
structure LinkKey where
  a  : Nat
  ja : Nat
  b  : Nat
  jb : Nat
  deriving DecidableEq, Repr

/-- One logical core's entry of a place table (f04 R108), with the physical bank of every logical bank. -/
structure Place where
  pkg   : Nat
  die   : Nat
  clu   : Nat
  core  : Nat
  mask  : Nat
  v     : Bool
  banks : List Nat
  deriving DecidableEq, Repr

/-- The outcome a teardown or a TDISP message names (f09 R230, R251). -/
inductive TdiState where
  | unlocked | locked | run | error
  deriving DecidableEq, Repr

/-- What the host's and system software's register writes name: a BAR0 offset of a function (f09 R229, R232), or one of the
settings the spec names without an address, set through the physical function (f02 R31, R34, R35, R42, R45, f03 R87, f04 R104,
f07 R188, f10 R269, R272; the reserve of a kind as stride · 256 + phase, 0 for None; the PASID of a function, f09 R228). -/
inductive HostReg where
  | at_ (off : Nat)
  | compactWait | ageBound | preemptDl | preemptLimit | estQrate | estSrate
  | entitle (tenant : Nat)
  | hide (fn : Nat)
  | reserve (kind : Nat)
  | turn (server entry : Nat)
  | pinPart (tenant : Nat)
  | xlatPart (tenant : Nat)
  | stagePart (tenant : Nat)
  | pasid (fn : Nat)
  /-- an entry of the untimed reserve in the slot table of a router, bridge or link (f08 R205) -/
  | slot (kind inst entry : Nat)
  deriving DecidableEq, Repr

/-- The secured session messages of R231 that follow KEY_EXCHANGE. -/
inductive SessMsg where
  | finish | heartbeat | keyUpdate | endSession
  deriving DecidableEq, Repr

end Sys2Proof.Machine
end

