-- ==== Sys2Proof/Syntax.lean ====
section
/-! DEFINITION. Every row of spec/opcode_table.json: the instruction words with their encoded fields (f12 R302..R312,
f09 R244), and the device's steps that have no word, with what each carries.  Field names are the table's. -/
namespace Sys2Proof
open Machine

/-- One row of the opcode table. -/
inductive Instr where
  /-- BNDL (R59). A strand issues the next bundle header and all its slot words in one vcy, DELTA vcy after its predecessor. -/
  | bndl (d : BitVec 8) (s : BitVec 1) (f : BitVec 1) (l : BitVec 2) (m : BitVec 4)
  /-- NOP (R378). Occupies the S slot and changes no state. -/
  | nop
  /-- ADD (R341). Dd := Da + Db modulo 2^64. -/
  | add (d : BitVec 6) (a : BitVec 6) (b : BitVec 6)
  /-- SUB (R341). Dd := Da - Db modulo 2^64. -/
  | sub (d : BitVec 6) (a : BitVec 6) (b : BitVec 6)
  /-- MUL (R341). Dd := low 64 bits of Da times Db. -/
  | mul (d : BitVec 6) (a : BitVec 6) (b : BitVec 6)
  /-- MULH (R341). Dd := high 64 bits of the signed 128-bit product. -/
  | mulh (d : BitVec 6) (a : BitVec 6) (b : BitVec 6)
  /-- DIV (R341). Signed division rounded toward zero, with defined results for zero divisor and overflow. -/
  | div (d : BitVec 6) (a : BitVec 6) (b : BitVec 6)
  /-- REM (R341). Signed remainder, with defined results for zero divisor and overflow. -/
  | rem (d : BitVec 6) (a : BitVec 6) (b : BitVec 6)
  /-- AND (R341). Bitwise AND of Da and Db. -/
  | and_ (d : BitVec 6) (a : BitVec 6) (b : BitVec 6)
  /-- OR (R341). Bitwise OR of Da and Db. -/
  | or_ (d : BitVec 6) (a : BitVec 6) (b : BitVec 6)
  /-- XOR (R341). Bitwise XOR of Da and Db. -/
  | xor_ (d : BitVec 6) (a : BitVec 6) (b : BitVec 6)
  /-- SHL (R341). Shift Da left by Db mod 64. -/
  | shl (d : BitVec 6) (a : BitVec 6) (b : BitVec 6)
  /-- SHR (R341). Logical right shift of Da by Db mod 64. -/
  | shr (d : BitVec 6) (a : BitVec 6) (b : BitVec 6)
  /-- SAR (R341). Arithmetic right shift of Da by Db mod 64. -/
  | sar (d : BitVec 6) (a : BitVec 6) (b : BitVec 6)
  /-- MIN (R341). Signed minimum of Da and Db. -/
  | min (d : BitVec 6) (a : BitVec 6) (b : BitVec 6)
  /-- MAX (R341). Signed maximum of Da and Db. -/
  | max (d : BitVec 6) (a : BitVec 6) (b : BitVec 6)
  /-- SLT (R341). Dd := 1 when Da is less than Db signed, else 0. -/
  | slt (d : BitVec 6) (a : BitVec 6) (b : BitVec 6)
  /-- SEL (R341). Dd := Da when Dx is non-zero, else Db. -/
  | sel (d : BitVec 6) (a : BitVec 6) (b : BitVec 6) (x : BitVec 6)
  /-- CLZ (R341). Dd := count of leading zero bits of Da. -/
  | clz (d : BitVec 6) (a : BitVec 6)
  /-- POPC (R341). Dd := number of set bits of Da. -/
  | popc (d : BitVec 6) (a : BitVec 6)
  /-- AGEN (R343). Dd := Da + Db shifted left by the immediate x, keeping taint. -/
  | agen (d : BitVec 6) (a : BitVec 6) (b : BitVec 6) (x : BitVec 6)
  /-- GETCYC_GCLK (R354). Dd := GCLK of the gcy of the issue vcy. -/
  | getcycGclk (d : BitVec 6)
  /-- GETCYC_VCLK (R354). Dd := the issue vcy. -/
  | getcycVclk (d : BitVec 6)
  /-- CINC (R347). Derives Cd from Ca by advancing the window base by Db. -/
  | cinc (d : BitVec 6) (a : BitVec 6) (b : BitVec 6)
  /-- CSETB (R347). Derives Cd from Ca with window length Db. -/
  | csetb (d : BitVec 6) (a : BitVec 6) (b : BitVec 6)
  /-- CRESTR (R347). Derives Cd from Ca with rights masked by Db. -/
  | crestr (d : BitVec 6) (a : BitVec 6) (b : BitVec 6)
  /-- CLRT (R349). Clears the taint bits of four named D registers. -/
  | clrt (d : BitVec 6) (a : BitVec 6) (b : BitVec 6) (x : BitVec 6)
  /-- ADDI (R342). Dd := Da plus the sign-extended 12-bit immediate. -/
  | addi (d : BitVec 6) (a : BitVec 6) (i : BitVec 12)
  /-- BFX (R344). Extracts a bit field of Da into Dd. -/
  | bfx (d : BitVec 6) (a : BitVec 6) (l : BitVec 6) (w : BitVec 6)
  /-- BFI (R344). Inserts the low bits of Da into a bit field of Dd. -/
  | bfi (d : BitVec 6) (a : BitVec 6) (l : BitVec 6) (w : BitVec 6)
  /-- RDCSR (R391). Reads the numbered CSR into Dd, untainted. -/
  | rdcsr (d : BitVec 6) (c : BitVec 12)
  /-- WRCSR (R430). Writes Da to the numbered CSR one vcy after issue. -/
  | wrcsr (a : BitVec 6) (c : BitVec 12)
  /-- MOVI (R375). Dd := sign-extended imm16 shifted by 16h. -/
  | movi (d : BitVec 6) (h : BitVec 2) (i : BitVec 16)
  /-- MOVHI (R375). Replaces one 16-bit part of Dd with imm16. -/
  | movhi (d : BitVec 6) (h : BitVec 2) (i : BitVec 16)
  /-- TRAP (R407). Records fault TRAP with its code and stops the strand and timetable deliberately. -/
  | trap (i : BitVec 16)
  /-- BR (R346). Branches to header plus off15 when Da meets the condition. -/
  | br (a : BitVec 6) (c : BitVec 3) (o : BitVec 15)
  /-- JMP (R346). Branches unconditionally to header plus off15. -/
  | jmp (o : BitVec 15)
  /-- CALL (R346). Writes the return address to Da and branches. -/
  | call (a : BitVec 6) (o : BitVec 15)
  /-- RET (R346). Branches to the word address held in Da. -/
  | ret (a : BitVec 6)
  /-- LOOP_IMM (R72). Opens a hardware loop with an immediate count. -/
  | loopImm (l : BitVec 2) (n : BitVec 8) (c : BitVec 13)
  /-- LOOP_REG (R72). Opens a hardware loop with its count read from a D register. -/
  | loopReg (l : BitVec 2) (n : BitVec 8) (r : BitVec 6)
  /-- LDS (R364). Timed scalar load of 8 bytes through a capability. -/
  | lds (d : BitVec 6) (a : BitVec 6) (b : BitVec 6) (x : BitVec 6)
  /-- STS (R400). Timed scalar store of 8 bytes through a capability. -/
  | sts (d : BitVec 6) (a : BitVec 6) (b : BitVec 6) (x : BitVec 6)
  /-- SFADD (R396). Scalar F32 addition rounded to nearest even. -/
  | sfadd (d : BitVec 6) (a : BitVec 6) (b : BitVec 6)
  /-- SFMUL (R396). Scalar F32 multiplication rounded to nearest even. -/
  | sfmul (d : BitVec 6) (a : BitVec 6) (b : BitVec 6)
  /-- SFMA (R396). Scalar F32 fused multiply-add with one rounding. -/
  | sfma (d : BitVec 6) (a : BitVec 6) (b : BitVec 6) (x : BitVec 6)
  /-- SFCMP (R397). Scalar F32 comparison under the condition x. -/
  | sfcmp (d : BitVec 6) (a : BitVec 6) (b : BitVec 6) (x : BitVec 6)
  /-- SFCVT (R398). Scalar conversion selected by kind and rounding mode. -/
  | sfcvt (d : BitVec 6) (a : BitVec 6) (x : BitVec 6)
  /-- SDOT4 (R393). Adds the I8 dot product of Da and Db to Dx. -/
  | sdot4 (d : BitVec 6) (a : BitVec 6) (b : BitVec 6) (x : BitVec 6)
  /-- EXIT (R352). Names a successor or none, drains the strand's queues and ends it. -/
  | exit (n : BitVec 12)
  /-- SSTEP (R399). Closes the current step and opens a C-step at the barrier. -/
  | sstep
  /-- SSTEP_M (R399). Closes the current C-step and opens the named M-step at the barrier. -/
  | sstepM (n : BitVec 11)
  /-- SVC_NULL (R266). Calls firmware service NULL, which returns 0. -/
  | svcNull
  /-- SVC_HOSTEV (R266). Calls firmware service HOSTEV, adding to a host event counter. -/
  | svcHostev
  /-- SVC_SNAPSHOT (R266). Calls firmware service SNAPSHOT, writing a signed meter snapshot. -/
  | svcSnapshot
  /-- SVC_LINKGEN (R266). Calls firmware service LINKGEN, returning LGEN and the installed MGEN. -/
  | svcLinkgen
  /-- SVC_COMPLETE (R401). The Mule answers an SVC and the strand writes D60 and D61 and resumes. -/
  | svcComplete (sid : Nat)
  /-- WQPOP (R428). Takes the oldest work record into eight D registers and writes a status. -/
  | wqpop (d : BitVec 6) (a : BitVec 6) (q : BitVec 2)
  /-- WQWAIT (R429). Freezes the strand until the named work queue holds a record. -/
  | wqwait (q : BitVec 2)
  /-- WQWAIT_COMPLETE (R429). The work queue gains a record and a frozen WQWAIT resumes. -/
  | wqwaitComplete (sid : Nat)
  /-- VADD (R409). Element-wise addition of va and vb. -/
  | vadd (z : BitVec 1) (d : BitVec 6) (a : BitVec 6) (b : BitVec 6) (g : BitVec 4) (t : BitVec 2)
  /-- VSUB (R409). Element-wise subtraction. -/
  | vsub (z : BitVec 1) (d : BitVec 6) (a : BitVec 6) (b : BitVec 6) (g : BitVec 4) (t : BitVec 2)
  /-- VMUL (R409). Element-wise multiplication. -/
  | vmul (z : BitVec 1) (d : BitVec 6) (a : BitVec 6) (b : BitVec 6) (g : BitVec 4) (t : BitVec 2)
  /-- VFMA (R409). Element-wise fused multiply-add into vd. -/
  | vfma (z : BitVec 1) (d : BitVec 6) (a : BitVec 6) (b : BitVec 6) (g : BitVec 4) (t : BitVec 2)
  /-- VMIN (R409). Element-wise minimum. -/
  | vmin (z : BitVec 1) (d : BitVec 6) (a : BitVec 6) (b : BitVec 6) (g : BitVec 4) (t : BitVec 2)
  /-- VMAX (R409). Element-wise maximum. -/
  | vmax (z : BitVec 1) (d : BitVec 6) (a : BitVec 6) (b : BitVec 6) (g : BitVec 4) (t : BitVec 2)
  /-- VABS (R409). Element-wise absolute value. -/
  | vabs (z : BitVec 1) (d : BitVec 6) (a : BitVec 6) (g : BitVec 4) (t : BitVec 2)
  /-- VAND (R409). Bitwise AND of whole lanes. -/
  | vand (z : BitVec 1) (d : BitVec 6) (a : BitVec 6) (b : BitVec 6) (g : BitVec 4) (t : BitVec 2)
  /-- VOR (R409). Bitwise OR of whole lanes. -/
  | vor (z : BitVec 1) (d : BitVec 6) (a : BitVec 6) (b : BitVec 6) (g : BitVec 4) (t : BitVec 2)
  /-- VXOR (R409). Bitwise XOR of whole lanes. -/
  | vxor (z : BitVec 1) (d : BitVec 6) (a : BitVec 6) (b : BitVec 6) (g : BitVec 4) (t : BitVec 2)
  /-- VSHL (R409). Element-wise left shift by per-lane counts. -/
  | vshl (z : BitVec 1) (d : BitVec 6) (a : BitVec 6) (b : BitVec 6) (g : BitVec 4) (t : BitVec 2)
  /-- VSHR (R409). Element-wise logical right shift. -/
  | vshr (z : BitVec 1) (d : BitVec 6) (a : BitVec 6) (b : BitVec 6) (g : BitVec 4) (t : BitVec 2)
  /-- VSAR (R409). Element-wise arithmetic right shift. -/
  | vsar (z : BitVec 1) (d : BitVec 6) (a : BitVec 6) (b : BitVec 6) (g : BitVec 4) (t : BitVec 2)
  /-- VCMP_EQ (R412). Writes a predicate bit per lane for equality. -/
  | vcmpEq (p : BitVec 6) (a : BitVec 6) (b : BitVec 6) (g : BitVec 4) (t : BitVec 2)
  /-- VCMP_NE (R412). Writes a predicate bit per lane for inequality. -/
  | vcmpNe (p : BitVec 6) (a : BitVec 6) (b : BitVec 6) (g : BitVec 4) (t : BitVec 2)
  /-- VCMP_LT (R412). Writes a predicate bit per lane for less-than. -/
  | vcmpLt (p : BitVec 6) (a : BitVec 6) (b : BitVec 6) (g : BitVec 4) (t : BitVec 2)
  /-- VCMP_LE (R412). Writes a predicate bit per lane for less-or-equal. -/
  | vcmpLe (p : BitVec 6) (a : BitVec 6) (b : BitVec 6) (g : BitVec 4) (t : BitVec 2)
  /-- VSEL (R425). Selects each lane from va or vb by a predicate. -/
  | vsel (d : BitVec 6) (a : BitVec 6) (b : BitVec 6) (s : BitVec 4)
  /-- VADD_H16 (R409). Addition on F16 pairs. -/
  | vaddH16 (z : BitVec 1) (d : BitVec 6) (a : BitVec 6) (b : BitVec 6) (g : BitVec 4)
  /-- VADD_B16 (R409). Addition on BF16 pairs. -/
  | vaddB16 (z : BitVec 1) (d : BitVec 6) (a : BitVec 6) (b : BitVec 6) (g : BitVec 4)
  /-- VSUB_H16 (R409). Subtraction on F16 pairs. -/
  | vsubH16 (z : BitVec 1) (d : BitVec 6) (a : BitVec 6) (b : BitVec 6) (g : BitVec 4)
  /-- VSUB_B16 (R409). Subtraction on BF16 pairs. -/
  | vsubB16 (z : BitVec 1) (d : BitVec 6) (a : BitVec 6) (b : BitVec 6) (g : BitVec 4)
  /-- VMUL_H16 (R409). Multiplication on F16 pairs. -/
  | vmulH16 (z : BitVec 1) (d : BitVec 6) (a : BitVec 6) (b : BitVec 6) (g : BitVec 4)
  /-- VMUL_B16 (R409). Multiplication on BF16 pairs. -/
  | vmulB16 (z : BitVec 1) (d : BitVec 6) (a : BitVec 6) (b : BitVec 6) (g : BitVec 4)
  /-- VFMA_H16 (R409). Fused multiply-add on F16 pairs. -/
  | vfmaH16 (z : BitVec 1) (d : BitVec 6) (a : BitVec 6) (b : BitVec 6) (g : BitVec 4)
  /-- VFMA_B16 (R409). Fused multiply-add on BF16 pairs. -/
  | vfmaB16 (z : BitVec 1) (d : BitVec 6) (a : BitVec 6) (b : BitVec 6) (g : BitVec 4)
  /-- VMIN_H16 (R409). Minimum on F16 pairs. -/
  | vminH16 (z : BitVec 1) (d : BitVec 6) (a : BitVec 6) (b : BitVec 6) (g : BitVec 4)
  /-- VMIN_B16 (R409). Minimum on BF16 pairs. -/
  | vminB16 (z : BitVec 1) (d : BitVec 6) (a : BitVec 6) (b : BitVec 6) (g : BitVec 4)
  /-- VMAX_H16 (R409). Maximum on F16 pairs. -/
  | vmaxH16 (z : BitVec 1) (d : BitVec 6) (a : BitVec 6) (b : BitVec 6) (g : BitVec 4)
  /-- VMAX_B16 (R409). Maximum on BF16 pairs. -/
  | vmaxB16 (z : BitVec 1) (d : BitVec 6) (a : BitVec 6) (b : BitVec 6) (g : BitVec 4)
  /-- VCVT (R414). Converts a slice of elements between formats under a control word. -/
  | vcvt (z : BitVec 1) (d : BitVec 6) (a : BitVec 6) (c : BitVec 6) (g : BitVec 4)
  /-- VSF (R426). Applies a correctly rounded special function to each active F32 lane. -/
  | vsf (z : BitVec 1) (d : BitVec 6) (a : BitVec 6) (f : BitVec 6) (g : BitVec 4)
  /-- VROTR (R410). Rotates each row by a distance from a D register. -/
  | vrotr (z : BitVec 1) (d : BitVec 6) (a : BitVec 6) (b : BitVec 6) (g : BitVec 4)
  /-- VROTC (R410). Rotates each column by a distance from a D register. -/
  | vrotc (z : BitVec 1) (d : BitVec 6) (a : BitVec 6) (b : BitVec 6) (g : BitVec 4)
  /-- VBCR (R410). Broadcasts one column across each row. -/
  | vbcr (z : BitVec 1) (d : BitVec 6) (a : BitVec 6) (c : BitVec 6) (g : BitVec 4)
  /-- VBCC (R410). Broadcasts one row down each column. -/
  | vbcc (z : BitVec 1) (d : BitVec 6) (a : BitVec 6) (r : BitVec 6) (g : BitVec 4)
  /-- VREDR (R423). Pairwise reduction of each row over its columns. -/
  | vredr (z : BitVec 1) (d : BitVec 6) (a : BitVec 6) (o : BitVec 6) (g : BitVec 4) (t : BitVec 2)
  /-- VREDC (R423). Pairwise reduction of each column over its rows. -/
  | vredc (z : BitVec 1) (d : BitVec 6) (a : BitVec 6) (o : BitVec 6) (g : BitVec 4) (t : BitVec 2)
  /-- VCOMP (R413). Compresses masked lanes to the low lanes. -/
  | vcomp (z : BitVec 1) (d : BitVec 6) (a : BitVec 6) (m : BitVec 4)
  /-- VEXPD (R413). Expands the low lanes into the masked lanes. -/
  | vexpd (z : BitVec 1) (d : BitVec 6) (a : BitVec 6) (m : BitVec 4)
  /-- VSLUP (R410). Slides lanes up by a distance from a D register. -/
  | vslup (z : BitVec 1) (d : BitVec 6) (a : BitVec 6) (b : BitVec 6) (g : BitVec 4)
  /-- VSLDN (R410). Slides lanes down by a distance from a D register. -/
  | vsldn (z : BitVec 1) (d : BitVec 6) (a : BitVec 6) (b : BitVec 6) (g : BitVec 4)
  /-- VPERM (R410). Permutes lanes by an index register. -/
  | vperm (z : BitVec 1) (d : BitVec 6) (a : BitVec 6) (b : BitVec 6) (g : BitVec 4)
  /-- VMOV (R410). Copies lanes of va to vd. -/
  | vmov (z : BitVec 1) (d : BitVec 6) (a : BitVec 6) (g : BitVec 4)
  /-- VSPLATI (R427). Writes a sign-extended 12-bit immediate to every active lane. -/
  | vsplati (z : BitVec 1) (d : BitVec 6) (i : BitVec 12) (g : BitVec 4) (t : BitVec 2)
  /-- VSPLATS (R427). Writes a D register value to every active lane. -/
  | vsplats (z : BitVec 1) (d : BitVec 6) (a : BitVec 6) (g : BitVec 4) (t : BitVec 2)
  /-- VGET (R417). Moves one vector lane into a D register. -/
  | vget (d : BitVec 6) (a : BitVec 6) (b : BitVec 6)
  /-- VPUT (R417). Moves a D register into one vector lane. -/
  | vput (d : BitVec 6) (a : BitVec 6) (b : BitVec 6)
  /-- VMMUL (R411). Per-lane Barrett modular multiply. -/
  | vmmul (z : BitVec 1) (d : BitVec 6) (a : BitVec 6) (b : BitVec 6) (g : BitVec 4) (k : BitVec 2)
  /-- VMADD (R411). Per-lane modular addition. -/
  | vmadd (z : BitVec 1) (d : BitVec 6) (a : BitVec 6) (b : BitVec 6) (g : BitVec 4) (k : BitVec 2)
  /-- VMSUB (R411). Per-lane modular subtraction. -/
  | vmsub (z : BitVec 1) (d : BitVec 6) (a : BitVec 6) (b : BitVec 6) (g : BitVec 4) (k : BitVec 2)
  /-- VMRED (R411). Per-lane modular reduction. -/
  | vmred (z : BitVec 1) (d : BitVec 6) (a : BitVec 6) (g : BitVec 4) (k : BitVec 2)
  /-- VBFLY (R411). Cooley-Tukey modular butterfly on lane pairs. -/
  | vbfly (z : BitVec 1) (d : BitVec 6) (a : BitVec 6) (b : BitVec 6) (g : BitVec 4) (k : BitVec 2)
  /-- VBFLY_GS (R411). Gentleman-Sande modular butterfly on lane pairs. -/
  | vbflyGs (z : BitVec 1) (d : BitVec 6) (a : BitVec 6) (b : BitVec 6) (g : BitVec 4) (k : BitVec 2)
  /-- VNTTP (R422). Applies one stage of the butterfly permutation network. -/
  | vnttp (z : BitVec 1) (d : BitVec 6) (a : BitVec 6) (s : BitVec 6) (g : BitVec 4)
  /-- VRNG (R424). Writes Philox words keyed by logical coordinates to active lanes. -/
  | vrng (z : BitVec 1) (d : BitVec 6) (b : BitVec 6) (g : BitVec 4)
  /-- VLNMUL (R420). Multiplies LN6 elements by adding logarithms. -/
  | vlnmul (z : BitVec 1) (d : BitVec 6) (a : BitVec 6) (b : BitVec 6) (g : BitVec 4)
  /-- VLNADD (R420). Accumulates LN6 products into an F32 lane with one rounding. -/
  | vlnadd (z : BitVec 1) (d : BitVec 6) (a : BitVec 6) (b : BitVec 6) (g : BitVec 4)
  /-- VMQSET (R421). Loads a modulus set and its Barrett constants. -/
  | vmqset (a : BitVec 6) (b : BitVec 6) (k : BitVec 2)
  /-- PAND (R384). Bitwise AND of two predicates. -/
  | pand (d : BitVec 6) (a : BitVec 6) (b : BitVec 6) (e : BitVec 1) (f : BitVec 1) (g : BitVec 1)
  /-- POR (R384). Bitwise OR of two predicates. -/
  | por (d : BitVec 6) (a : BitVec 6) (b : BitVec 6) (e : BitVec 1) (f : BitVec 1) (g : BitVec 1)
  /-- PXOR (R384). Bitwise XOR of two predicates. -/
  | pxor (d : BitVec 6) (a : BitVec 6) (b : BitVec 6) (e : BitVec 1) (f : BitVec 1) (g : BitVec 1)
  /-- PNOT (R384). Bitwise NOT of a predicate. -/
  | pnot (d : BitVec 6) (a : BitVec 6) (e : BitVec 1) (f : BitVec 1)
  /-- PCNT (R385). Counts the set bits of a predicate into a D register. -/
  | pcnt (d : BitVec 6) (a : BitVec 6) (f : BitVec 1)
  /-- PFIRST (R385). Writes the index of a predicate's first set bit to a D register. -/
  | pfirst (d : BitVec 6) (a : BitVec 6) (f : BitVec 1)
  /-- PSET (R387). Sets the first n bits of a predicate and clears the rest. -/
  | pset (d : BitVec 6) (n : BitVec 12) (e : BitVec 1)
  /-- MMA (R372). Matrix multiply-accumulate of register operands into a tile. -/
  | mma (c : BitVec 8) (a : BitVec 6) (b : BitVec 6) (f : BitVec 4)
  /-- MMA_RS (R372). MMA that also updates the INT8 row sums. -/
  | mmaRs (c : BitVec 8) (a : BitVec 6) (b : BitVec 6) (f : BitVec 4)
  /-- MMAS (R374). MMA with the B operand read from scratchpad. -/
  | mmas (c : BitVec 8) (a : BitVec 6) (b : BitVec 6) (f : BitVec 4)
  /-- MMAS_RS (R374). MMAS that also updates the row sums. -/
  | mmasRs (c : BitVec 8) (a : BitVec 6) (b : BitVec 6) (f : BitVec 4)
  /-- MZERO (R376). Zeroes a tile and its row sums. -/
  | mzero (c : BitVec 8)
  /-- MLOAD (R371). Loads a tile from a vector register. -/
  | mload (c : BitVec 8) (a : BitVec 6)
  /-- MDRAIN (R368). Drains a tile through the requantising pipeline into a vector register. -/
  | mdrain (c : BitVec 8) (a : BitVec 6) (b : BitVec 6) (f : BitVec 4)
  /-- MDRAINS (R369). Drains a tile through the pipeline into scratchpad. -/
  | mdrains (c : BitVec 8) (a : BitVec 6) (b : BitVec 6) (f : BitVec 4)
  /-- MLEASE (R370). Takes the matrix lease, waiting while the cluster is dark or it is held. -/
  | mlease
  /-- MFREE (R370). Ends the strand's matrix lease. -/
  | mfree
  /-- LEASE_GRANT (R80). A free lease in a lit window is granted to the next waiting co-resident strand in rotation. -/
  | leaseGrant (sid : Nat)
  /-- VLD (R418). Timed vector load of 1024 lanes. -/
  | vld (r : BitVec 6) (c : BitVec 5) (k : BitVec 6) (p : BitVec 7)
  /-- VST (R418). Timed vector store of 1024 lanes. -/
  | vst (r : BitVec 6) (c : BitVec 5) (k : BitVec 6) (p : BitVec 7)
  /-- VLDX (R418). Timed indexed vector load under a mask. -/
  | vldx (r : BitVec 6) (c : BitVec 5) (k : BitVec 6) (p : BitVec 7)
  /-- VSTX (R418). Timed indexed vector store under a mask. -/
  | vstx (r : BitVec 6) (c : BitVec 5) (k : BitVec 6) (p : BitVec 7)
  /-- PLD (R386). Timed load of a 128-byte predicate. -/
  | pld (r : BitVec 6) (c : BitVec 5) (k : BitVec 6) (h : BitVec 1)
  /-- PST (R386). Timed store of a 128-byte predicate. -/
  | pst (r : BitVec 6) (c : BitVec 5) (k : BitVec 6) (h : BitVec 1)
  /-- LDC (R363). Loads a 64-bit word observed under a gate and taints the result. -/
  | ldc (r : BitVec 6) (c : BitVec 5) (k : BitVec 6) (g : BitVec 5)
  /-- LDC_ARRIVAL (R157). The observed value arrives and the frozen LDC writes its tainted destination. -/
  | ldcArrival (sid : Nat)
  /-- CLD (R348). Timed load and verification of a sealed capability. -/
  | cld (r : BitVec 6) (c : BitVec 5) (k : BitVec 6) (i : BitVec 7)
  /-- CST (R348). Timed store of a capability in sealed form. -/
  | cst (r : BitVec 6) (c : BitVec 5) (k : BitVec 6) (i : BitVec 7)
  /-- QBBIND (R388). Binds a queue-buffer handle to a region of window C1. -/
  | qbbind (r : BitVec 6) (h : BitVec 4)
  /-- QBWAIT (R390). Waits until a queue buffer holds n filled slots. -/
  | qbwait (k : BitVec 6) (h : BitVec 4)
  /-- QBWAIT_E (R390). Waits until a queue buffer has n free slots. -/
  | qbwaitE (k : BitVec 6) (h : BitVec 4)
  /-- QBWAIT_COMPLETE (R390). The visible pointers satisfy a frozen QBWAIT and the strand resumes. -/
  | qbwaitComplete (sid : Nat)
  /-- QBTAKE (R389). Claims consumption of n slots of a queue buffer. -/
  | qbtake (k : BitVec 6) (h : BitVec 4)
  /-- QBGIVE (R389). Claims production of n slots of a queue buffer. -/
  | qbgive (k : BitVec 6) (h : BitVec 4)
  /-- QB_VISIBLE_UPDATE (R389). A held QBGIVE or QBTAKE pointer update becomes visible once the strand's earlier timed accesses have performed. -/
  | qbVisibleUpdate (sid : Nat)
  /-- SEMWAIT (R395). Takes one unit of a semaphore, waiting up to a timeout. -/
  | semwait (r : BitVec 6) (s : BitVec 8) (t : BitVec 7)
  /-- SEMWAIT_SERVED (R183). A semaphore serves a frozen SEMWAIT, which takes a unit and reports the status. -/
  | semwaitServed (sid : Nat)
  /-- SEMWAIT_TIMEOUT (R395). A SEMWAIT's timeout expires and it completes with TO set, taking nothing. -/
  | semwaitTimeout (sid : Nat)
  /-- SEMSIG (R394). Adds an amount to a semaphore after the strand's earlier timed writes. -/
  | semsig (s : BitVec 8) (n : BitVec 7)
  /-- SEMSIG_APPLY (R394). A SEMSIG's units are applied once the strand's earlier timed writes have performed. -/
  | semsigApply (sid : Nat)
  /-- SYNCARM (R402). Arms a sync word with a target byte count. -/
  | syncarm (r : BitVec 6) (c : BitVec 5) (k : BitVec 6) (i : BitVec 7)
  /-- SYNCWAIT (R404). Waits until a sync word's generation exceeds an operand. -/
  | syncwait (r : BitVec 6) (c : BitVec 5) (k : BitVec 6) (i : BitVec 7)
  /-- SYNCWAIT_COMPLETE (R404). A sync word's generation passes the operand and a frozen SYNCWAIT resumes. -/
  | syncwaitComplete (sid : Nat)
  /-- FENCE (R353). Pushes a marker onto each named queue. -/
  | fence (g : BitVec 1) (q : BitVec 4)
  /-- JOIN (R362). Waits until every marker the strand pushed has reached its queue head. -/
  | join
  /-- JOIN_COMPLETE (R362). The last outstanding marker reaches its head and a frozen JOIN resumes. -/
  | joinComplete (sid : Nat)
  /-- ACQ (R340). Requests a gate and freezes until it is granted. -/
  | acq (c : BitVec 5)
  /-- GATE_GRANT (R163). The gate's Hen grants the gate to the next waiting requester, which resumes. -/
  | gateGrant (gate : Nat)
  /-- REL (R392). Gives up a gate and pushes release markers onto all five queues. -/
  | rel (c : BitVec 5)
  /-- GATE_RELEASE (R164). Once markers and writes have performed, the Hen releases the gate and increments GEN. -/
  | gateRelease (sid : Nat)
  /-- BIND (R345). Adds a window to a gate's list, or empties it, and waits for the status. -/
  | bind (r : BitVec 6) (c : BitVec 5) (k : BitVec 5)
  /-- BIND_ANSWER (R345). The gate's Hen answers a BIND and the strand writes the status and resumes. -/
  | bindAnswer (sid : Nat)
  /-- WSSEAL (R431). Asks the weight-store port to set an object's state. -/
  | wsseal (r : BitVec 6) (c : BitVec 5) (s : BitVec 1)
  /-- WSSEAL_ANSWER (R431). The weight-store port answers a WSSEAL and the strand writes the status and resumes. -/
  | wssealAnswer (sid : Nat)
  /-- OXCOPY (R185). Copies a source traversal to a destination traversal, timed or asynchronously. -/
  | oxcopy (d : BitVec 5) (s : BitVec 5) (p : BitVec 6) (q : BitVec 2) (t : BitVec 1)
  /-- OXGATH (R186). Fills destination rows from source rows chosen by an index list. -/
  | oxgath (d : BitVec 5) (s : BitVec 5) (p : BitVec 6) (q : BitVec 2) (t : BitVec 1)
  /-- OXSCAT (R186). Writes source rows to destination rows chosen by an index list. -/
  | oxscat (d : BitVec 5) (s : BitVec 5) (p : BitVec 6) (q : BitVec 2) (t : BitVec 1)
  /-- OXFILL (R187). Fills a destination traversal with an 8-byte pattern. -/
  | oxfill (d : BitVec 5) (p : BitVec 6) (q : BitVec 2) (t : BitVec 1)
  /-- OXACC (R188). Accumulates elements at the destination Hen, ordered or unordered. -/
  | oxacc (d : BitVec 5) (s : BitVec 5) (p : BitVec 6) (o : BitVec 1) (q : BitVec 2)
  /-- OXCAS (R190). Atomic compare-and-swap of up to four words at the Hen. -/
  | oxcas (d : BitVec 5) (s : BitVec 5) (p : BitVec 6) (q : BitVec 2)
  /-- OXENQ (R191). Atomically appends a record to a linked list at the Hen. -/
  | oxenq (d : BitVec 5) (p : BitVec 6) (q : BitVec 2)
  /-- OXCHASE (R192). Follows a linked list at the Hen, copying node payloads. -/
  | oxchase (d : BitVec 5) (s : BitVec 5) (p : BitVec 6) (q : BitVec 2)
  /-- OXHEN (R382). Invokes a catalogued Hen routine on each destination line. -/
  | oxhen (d : BitVec 5) (s : BitVec 5) (p : BitVec 6) (o : BitVec 1) (q : BitVec 2)
  /-- OXPAGE (R383). Asks the Mule to make a window resident and signals when done. -/
  | oxpage (d : BitVec 5) (p : BitVec 6) (q : BitVec 2)
  /-- COLL (R350). Enqueues a collective on the strand's Goose queue. -/
  | coll (d : BitVec 5) (s : BitVec 5) (p : BitVec 6)
  /-- HNEXT (R359). Ends the current Hen request and takes the next. -/
  | hnext
  /-- HLDL (R358). Loads a 128-byte port line into the request buffer. -/
  | hldl (a : BitVec 6)
  /-- HSTL (R358). Stores the request buffer as a port line. -/
  | hstl (a : BitVec 6)
  /-- HCMP (R356). Compares buffer words with port words and swaps on a match. -/
  | hcmp (d : BitVec 6) (a : BitVec 6) (b : BitVec 6) (x : BitVec 6)
  /-- HADDL (R355). Adds the buffer element-wise into a port line. -/
  | haddl (a : BitVec 6) (t : BitVec 12)
  /-- HREPLY (R360). Sends the reply and completion of the current request. -/
  | hreply (a : BitVec 6) (b : BitVec 6)
  /-- HSTAGE (R361). Stages the buffer for ordered commit of a line. -/
  | hstage (a : BitVec 6) (b : BitVec 6) (x : BitVec 6)
  /-- HCOMMIT (R357). Commits a timetable's staged lines in strand order. -/
  | hcommit (a : BitVec 6)
  /-- VB_RFETCH (R245). Retires the fetched packet and fetches and checks the next ring packet. -/
  | vbRfetch (s : BitVec 5) (a : BitVec 5) (d : BitVec 5)
  /-- VB_BFX (R245). Extracts a bit field on the Mule. -/
  | vbBfx (s : BitVec 5) (a : BitVec 5) (d : BitVec 5)
  /-- VB_SIGWAIT (R245). Sleeps until a masked Mule signal is pending or a timeout ends. -/
  | vbSigwait (s : BitVec 5) (a : BitVec 5) (d : BitVec 5)
  /-- VB_DISPATCH (R245). Hands an admission request to the weaver and commits its packet or launch. -/
  | vbDispatch (s : BitVec 5) (a : BitVec 5) (d : BitVec 5)
  /-- TIMED_PERFORM (R62). A timed write of an issued instruction or timed Ox line lands at the end of its perform vcy. -/
  | timedPerform (tt : Nat)
  /-- SYNC_MEETING (R64). The last sibling reaches a SYNC bundle and all siblings are released with the greatest VCLK. -/
  | syncMeeting (tt lc : Nat)
  /-- MSTEP_ARRIVAL (R68). A strand that closed an M-step arrives at the barrier at the end of step vcy L + 95. -/
  | mstepArrival (sid : Nat)
  /-- BARRIER_RELEASE (R68). When every strand has arrived, the barrier value is set and the next step starts on its start gcy. -/
  | barrierRelease (tt : Nat)
  /-- BARRIER_MESSAGE (R68). A cross-package barrier report or start message travels one hop of the alignment tree. -/
  | barrierMessage (link : Nat) (msg : BarMsg)
  /-- STRAND_END (R82). An exiting strand's drain completes and it ends. -/
  | strandEnd (sid : Nat)
  /-- TIMETABLE_STOP (R260). A timetable stops for a fault, step failure, machine check, teardown or TRAP and its state is settled. -/
  | timetableStop (tt : Nat)
  /-- OX_JOB_START (R180). An asynchronous job reaches its queue head, takes its WSEM unit and starts. -/
  | oxJobStart (sid q : Nat)
  /-- OX_JOB_FINISH (R153). A job's bytes have all performed; it counts its sync word, advances its queue buffer and signals. -/
  | oxJobFinish (job : Nat)
  /-- HEN_REQUEST (R196). A Hen takes one request on its tenant turn and runs its routine to completion. -/
  | henRequest (port : Nat)
  /-- RETRANSMIT_TIMEOUT (R213). An untimed cross-package request without reply after 2^16 gcy is retransmitted, or finishes NOREPLY after eight. -/
  | retransmitTimeout (job : Nat)
  /-- PRI_RESPONSE (R103). A host page response arrives and the held access is retranslated or abandoned. -/
  | priResponse (fn page : Nat) (ok : Bool)
  /-- EXTENT_RESIDENT (R111). The Mule makes a device-managed extent resident and held accesses proceed. -/
  | extentResident (tenant obj ext : Nat)
  /-- EXTENT_MIGRATE (R106). The Mule migrates an unpinned extent and writes its new base. -/
  | extentMigrate (tenant obj ext base : Nat)
  /-- COLL_START (R220). The Goose reads and checks a collective's header and computes its trees. -/
  | collStart (sid : Nat)
  /-- COLL_COMPLETE (R226). Every result byte has performed at a member; STATUS 0 is written and SSEM signalled. -/
  | collComplete (ctx : Nat)
  /-- COLL_TIMEOUT (R225). No flit arrives from a tree neighbour for TIMEOUT, so it is named silent and ABORT is sent. -/
  | collTimeout (ctx pkg : Nat)
  /-- ABORT (R225). A Goose receives ABORT, forwards it once, ORs LOST and aborts the collective. -/
  | abort (ctx pkg mgen lost : Nat)
  /-- HOLD_SEND (R332). A waiting Goose sends a HOLD flit on every tree link every TIMEOUT x 256 gcy. -/
  | holdSend (ctx : Nat)
  /-- HOLD (R332). A received HOLD flit restarts the receiver's progress timeout for its sender. -/
  | hold (ctx pkg : Nat)
  /-- MEMBERSHIP_AGREE (R218). Surviving root Mules agree a new group record with MGEN increased. -/
  | membershipAgree (tt : Nat) (lost : List Nat)
  /-- RECORD_INSTALL (R333). The Goose installs the agreed record once no collective is in flight, releasing a held COLL. -/
  | recordInstall (tt : Nat)
  /-- LINK_FRAME (R210). A Zhoez frame of circuit flits and a control flit is received and decoded. -/
  | linkFrame (link : Nat) (frame : Frame)
  /-- BRIDGE_FLIT (R208). A die-to-die bridge flit is received with SECDED correction or dropped. -/
  | bridgeFlit (src dst lane : Nat) (flit : Flit) (errs : Nat)
  /-- ROUTER_FLIT (R206). A router forwards flits along its slot table entry or drops those on unheld connections. -/
  | routerFlit (router port lane : Nat)
  /-- LINK_LOSS (R211). A link loses lock, exceeds its drop limit or its package loses alignment, and leaves the live link table. -/
  | linkLoss (key : LinkKey)
  /-- LINK_TRAINING (R211). A link trains, measures its transit and enters the live link table. -/
  | linkTraining (key : LinkKey) (transit : Nat)
  /-- ALIGN_EXCHANGE (R214). At GCLK mod 2^20 = 0 parent and child exchange timestamps and the child computes OREF. -/
  | alignExchange (t1 t2 t3 t4 : Int)
  /-- COUNTER_HOLD (R26). GCLK is held for one gcy in the whole package to correct OREF. -/
  | counterHold
  /-- ALIGNLOSS (R215). A package too deep or with OREF off by 2 gcy twice raises ALIGNLOSS and leaves the live table. -/
  | alignloss
  /-- GCLK_LOAD (R216). After a cold reset a package loads its GCLK once from its parent link. -/
  | gclkLoad
  /-- TOKEN_WINDOW (R48). A 1024-gcy token window begins; clusters light or go dark and leases end. -/
  | tokenWindow
  /-- REFRESH_WINDOW (R50). A bank group's refresh window ends and frozen weight-store reads perform. -/
  | refreshWindow
  /-- MACHINE_CHECK (R264). An uncorrectable error is read by a timetable, which stops at once. -/
  | machineCheck (tt unit addr : Nat)
  /-- SCRUB_ERROR (R264). The background scrub finds an uncorrectable error in an unread word and logs and zeroes it. -/
  | scrubError (addr : Nat)
  /-- ADMIT (R36). The weaver coordinator runs admission for the next request in its order. -/
  | admitNext
  /-- COMPACTION_UPDATE (R41). The last held timetable arrives and all re-phased pairs and the request's pair enter the weaves in one update. -/
  | compactionUpdate
  /-- COMPACT_TIMEOUT (R42). COMPACT_WAIT passes before every held timetable arrives, so the compaction is cancelled. -/
  | compactTimeout
  /-- AGE_RAISE (R87). A request waiting AGE_BOUND gcy is raised one priority class. -/
  | ageRaise (req : Nat)
  /-- PREEMPT_REQUEST (R269). A cluster receives a pre-emption request and chooses its mode by the estimator. -/
  | preemptRequest (tt cluster : Nat)
  /-- SAVE_COMMIT (R275). Every byte of a save area has performed and COMMIT is written. -/
  | saveCommit (tt : Nat)
  /-- VICTIM_VACATED (R43). Every cluster has saved or discarded the victim, and Admit reruns for the request. -/
  | victimVacated (tt : Nat)
  /-- PREEMPT_CANCEL (R273). PREEMPT_LIMIT passes without vacating, so the pre-emption is cancelled and the request refused. -/
  | preemptCancel (tt : Nat)
  /-- PLACE_TABLE_WRITE (R437). System software refills a suspended timetable's place table, requesting its resume. -/
  | placeTableWrite (tt : Nat) (table : List Place)
  /-- KICK (R234). A write of the write index updates the kick latch or puts the queue in OVERRUN. -/
  | kick (fn q : Nat) (v : BitVec 64)
  /-- LAUNCH_WRITE (R235). A write to LAUNCH enters the launch FIFO or is discarded. -/
  | launchWrite (fn q : Nat) (v : BitVec 64)
  /-- ENABLE (R233). QCTL ENABLE moves a disabled queue to RUNNING or reports BADCFG. -/
  | enable (fn q : Nat)
  /-- PAUSE (R233). QCTL PAUSE stops further fetch of a running queue. -/
  | pause (fn q : Nat)
  /-- RESUME (R233). QCTL RESUME returns a paused queue to RUNNING. -/
  | resume (fn q : Nat)
  /-- RESET (R233). QCTL RESET disables the queue once fetched packets have completed. -/
  | reset (fn q : Nat)
  /-- CQHEAD_WRITE (R238). The host advances CQHEAD, releasing held completion records and fetch. -/
  | cqheadWrite (fn q : Nat) (v : BitVec 64)
  /-- REGISTER_WRITE (R229). A write to a register with no behaviour of its own stores its value. -/
  | registerWrite (byFn fn : Nat) (reg : HostReg) (v : BitVec 64)
  /-- REG_GRAPH (R240). Registers and checks a graph and builds its weave plans. -/
  | regGraph (p : Pkt) (desc : BitVec 64) (count : Nat)
  /-- LAUNCH (R240). Launch packet: starts a registered graph and completes at its end. -/
  | launch (p : Pkt) (r : LaunchReq)
  /-- FEED (R240). Appends work records to a node's work queue. -/
  | feed (p : Pkt) (graph seq node wq : Nat) (recs : List Slot)
  /-- MAP_OBJ_CREATE (R240). Creates an object table entry and returns its sealed capability. -/
  | mapObjCreate (p : Pkt) (tenant obj : Nat) (image : Sealed) (result : BitVec 64) (rights : Byte) (wbase wlen : BitVec 64)
  /-- MAP_OBJ_RESIZE (R240). Resizes an object unless it is pinned. -/
  | mapObjResize (p : Pkt) (tenant obj : Nat) (image : Sealed)
  /-- MAP_OBJ_FREE (R240). Frees an object unless it is pinned. -/
  | mapObjFree (p : Pkt) (tenant obj : Nat)
  /-- MAP_OBJ_DERIVE (R240). Seals a new capability for an object with supplied rights and window. -/
  | mapObjDerive (p : Pkt) (tenant obj : Nat) (result : BitVec 64) (rights : Byte) (wbase wlen : BitVec 64)
  /-- COPY (R240). Bulk copy between two capability windows on tenant turns. -/
  | copy (p : Pkt) (dst : Sealed) (doff len : BitVec 64) (src : Sealed) (soff : BitVec 64)
  /-- WS_LOAD (R240). Copies data into a WRITABLE weight-store object. -/
  | wsLoad (p : Pkt) (dst : Sealed) (doff len : BitVec 64) (src : Sealed) (soff : BitVec 64)
  /-- SIGNAL_HOST_EVENT (R240). SIGNAL kind 0 adds an amount to a host event counter. -/
  | signalHostEvent (p : Pkt) (event : Nat) (amount : BitVec 32)
  /-- SIGNAL_SEMAPHORE (R240). SIGNAL kind 1 signals a semaphore of every logical core of a node. -/
  | signalSemaphore (p : Pkt) (idx graph node seq : Nat) (amount : BitVec 32)
  /-- WAIT (R240). Holds the queue's fetch until a host event reaches a value. -/
  | wait (p : Pkt) (event : Nat) (value timeout : BitVec 64)
  /-- WAIT_RELEASE (R240). The host event reaches the value and the held queue resumes fetching. -/
  | waitRelease (fn q : Nat)
  /-- WAIT_TIMEOUT (R240). A WAIT's timeout expires and it completes with TIMEOUT. -/
  | waitTimeout (fn q : Nat)
  /-- METER (R254). Writes a signed meter snapshot of the tenant. -/
  | meter (p : Pkt) (addr : BitVec 64)
  /-- RESET_Q (R240). Resets another queue of the function. -/
  | resetQ (p : Pkt) (target : Nat)
  /-- DEREG_GRAPH (R240). Frees a graph handle unless a launch is live. -/
  | deregGraph (p : Pkt) (graph : Nat)
  /-- MULE_RESTART (R243). The Mule firmware restarts while the queue front end keeps its state. -/
  | muleRestart
  /-- TENANT_CREATE (R251). Setting a TENANT_EN bit creates a tenant, its keys, table and meters. -/
  | tenantCreate (tenant : Nat)
  /-- TENANT_TEARDOWN (R251). Clearing the bit, an FLR or TDISP ERROR tears down a tenant. -/
  | tenantTeardown (tenant : Nat)
  /-- TDI_ERROR (R230). A virtual function's TDI enters ERROR, disabling its queues and stopping its timetables. -/
  | tdiError (fn : Nat)
  /-- GET_VERSION (R231). SPDM request for supported versions. -/
  | getVersion (fn : Nat)
  /-- GET_CAPABILITIES (R231). SPDM request for capabilities. -/
  | getCapabilities (fn : Nat)
  /-- NEGOTIATE_ALGORITHMS (R231). SPDM negotiation of ECDSA P-384 and SHA-384. -/
  | negotiateAlgorithms (fn : Nat) (p384 sha384 : Bool)
  /-- GET_DIGESTS (R231). SPDM request for certificate chain digests. -/
  | getDigests (fn : Nat)
  /-- GET_CERTIFICATE (R231). SPDM request for the certificate chain. -/
  | getCertificate (fn off len : Nat)
  /-- CHALLENGE (R231). SPDM challenge signed under the device alias key. -/
  | challenge (fn : Nat) (nonce : Sealed)
  /-- GET_MEASUREMENTS (R255). SPDM request for measurement indices including a fresh tenant snapshot. -/
  | getMeasurements (fn index : Nat)
  /-- KEY_EXCHANGE (R231). SPDM key exchange opening a secured session. -/
  | keyExchange (fn : Nat) (nonce : Sealed)
  /-- SELECT_TENANT (R255). Vendor request selecting the tenant for later measurements in the session. -/
  | selectTenant (fn tenant : Nat)
  /-- LIFECYCLE_READ (R23). The board controller reads the life-cycle state over MCTP. -/
  | lifecycleRead
  /-- PROVISION (R256). Vendor provisioning moves the device from MANUFACTURE to PROVISIONED. -/
  | provision
  /-- CLAIM (R256). Operator claim moves the device from PROVISIONED to DEPLOYED. -/
  | claim (byFn : Nat)
  /-- RETURN (R256). A signed return authorisation moves the device to RETURNED. -/
  | return_ (auth sig : List Byte)
  /-- COLD_RESET (R257). A cold reset verifies firmware, wipes memory, trains links and brings up PCIe. -/
  | coldReset (image sig : List Byte)
  /-- CONFIG_REQUEST (R257). A PCIe configuration request before bring-up completes receives Request Retry Status. -/
  | configRequest
  /-- TENANT_TURN (R35). On a reserve gcy an untimed server performs one piece of untimed work of the tenant its turn table names, and a COPY or WS_LOAD whose last piece performs there completes. -/
  | tenantTurn (server : Nat)
  /-- EVICTION (R112). The Mule evicts an unpinned device-managed extent, keeping a backing copy and marking its base non-resident. -/
  | eviction (tenant obj ext : Nat)
  /-- SIGWAIT_WAKE (R245). A Mule hart sleeping in vb.sigwait wakes when a masked signal becomes pending or its timeout ends, and writes rd. -/
  | sigwaitWake (hart : Nat)
  /-- TDISP_MESSAGE (R230). A TDISP request moves a virtual function's TDI into CONFIG_LOCKED or RUN, or back out of them. -/
  | tdispMessage (fn : Nat) (dest : TdiState)
  /-- ATS_INVALIDATION (R228). The host sends an ATS invalidation request, and the device drops the named translations and completes it. -/
  | atsInvalidation (fn page : Nat)
  /-- SPDM_SESSION_MESSAGE (R231). A secured SPDM session message after KEY_EXCHANGE, which finishes or ends the session, arrives on a function's DOE. -/
  | spdmSessionMessage (fn : Nat) (msg : SessMsg)
  deriving DecidableEq, Repr

end Sys2Proof
end

