-- ==== Sys2Proof/Machine/Uses.lean ====
section
/-! DEFINITION. What the finaliser reads off an instruction word: the registers it reads and writes (f09 R247, f10 R271), its
latency, unit and occupancy (f12 R318), whether it is a local wait (f03 R66) or barred from a restartable step (R271). -/
namespace Sys2Proof.Machine

/-! ### Registers -/

/-- A register by class: 0 D, 1 C, 2 V, 3 P, 4 accumulator tile. -/
abbrev Reg := Nat × Nat
def rD (x : BitVec 6) : Reg := (0, x.toNat)
def rC {n : Nat} (x : BitVec n) : Reg := (1, x.toNat)
def rV {n : Nat} (x : BitVec n) : Reg := (2, x.toNat)
def rP {n : Nat} (x : BitVec n) : Reg := (3, x.toNat)
def rA (x : BitVec 8) : Reg := (4, x.toNat)
/-- `n` registers of a class from `x` up. -/
def rMany (k x n : Nat) : List Reg := (List.range n).map fun i => (k, x + i)
/-- A predicate numbered by a field and its high bit. -/
def rPh (x : BitVec 6) (h : BitVec 1) : Reg := (3, x.toNat + 64 * h.toNat)

/-- The destination of a guarded V word, read too where inactive lanes are kept. -/
def kept (z : BitVec 1) (d : BitVec 6) (g : BitVec 4) : List Reg := if z = 1 ∨ g = 0 then [rP g] else [rP g, rV d]

/-- Registers whose values a strand's word uses. -/
def readsOf : Instr → List Reg
  | .add _ a b | .sub _ a b | .mul _ a b | .mulh _ a b | .div _ a b | .rem _ a b | .and_ _ a b | .or_ _ a b | .xor_ _ a b
  | .shl _ a b | .shr _ a b | .sar _ a b | .min _ a b | .max _ a b | .slt _ a b | .agen _ a b _ => [rD a, rD b]
  | .sel _ a b x => [rD a, rD b, rD x]
  | .clz _ a | .popc _ a | .addi _ a _ | .bfx _ a _ _ | .wrcsr a _ | .br a _ _ | .ret a => [rD a]
  | .cinc _ a b | .csetb _ a b | .crestr _ a b => [rC a, rD b]
  | .clrt d a b x => [rD d, rD a, rD b, rD x]
  | .bfi d a _ _ => [rD d, rD a]
  | .movhi d _ _ => [rD d]
  | .loopReg _ _ r => [rD r]
  | .lds _ a b _ => [rC a, rD b]
  | .sts d a b _ => [rD d, rC a, rD b]
  | .sfadd _ a b | .sfmul _ a b | .sfcmp _ a b _ => [rD a, rD b]
  | .sdot4 _ a b x => [rD a, rD b, rD x]
  | .sfma _ a b x => [rD a, rD b, rD x]
  | .sfcvt _ a _ => [rD a]
  | .svcNull | .svcHostev | .svcSnapshot | .svcLinkgen => rMany 0 60 4
  | .vadd z d a b g _ | .vsub z d a b g _ | .vmul z d a b g _ | .vmin z d a b g _ | .vmax z d a b g _ | .vand z d a b g _
  | .vor z d a b g _ | .vxor z d a b g _ | .vshl z d a b g _ | .vshr z d a b g _ | .vsar z d a b g _ =>
    [rV a, rV b] ++ kept z d g
  | .vfma _ d a b g _ => [rV a, rV b, rV d, rP g]
  | .vabs z d a g _ => rV a :: kept z d g
  | .vcmpEq p a b g _ | .vcmpNe p a b g _ | .vcmpLt p a b g _ | .vcmpLe p a b g _ =>
    if g = 0 then [rV a, rV b] else [rV a, rV b, rP g, rP p]
  | .vsel _ a b s => [rV a, rV b, rP s]
  | .vaddH16 z d a b g | .vaddB16 z d a b g | .vsubH16 z d a b g | .vsubB16 z d a b g | .vmulH16 z d a b g
  | .vmulB16 z d a b g | .vminH16 z d a b g | .vminB16 z d a b g | .vmaxH16 z d a b g | .vmaxB16 z d a b g =>
    [rV a, rV b] ++ kept z d g
  | .vfmaH16 _ d a b g | .vfmaB16 _ d a b g => [rV a, rV b, rV d, rP g]
  | .vcvt z d a c g => [rV a, rD c, rV d] ++ kept z d g
  | .vsf z d a _ g | .vbcr z d a _ g | .vbcc z d a _ g | .vmov z d a g | .vnttp z d a _ g => rV a :: kept z d g
  | .vrotr z d a b g | .vrotc z d a b g | .vslup z d a b g | .vsldn z d a b g => [rV a, rD b] ++ kept z d g
  | .vredr z d a _ g _ | .vredc z d a _ g _ => rV a :: kept z d g
  | .vcomp z d a m | .vexpd z d a m => if z = 1 then [rV a, rP m] else [rV a, rP m, rV d]
  | .vperm z d a b g => [rV a, rV b] ++ kept z d g
  | .vsplati z d _ g _ => kept z d g
  | .vsplats z d a g _ => rD a :: kept z d g
  | .vget _ a b => [rV a, rD b]
  | .vput d a b => [rV d, rD a, rD b]
  | .vmmul z d a b g _ | .vmadd z d a b g _ | .vmsub z d a b g _ | .vbfly z d a b g _ | .vbflyGs z d a b g _ =>
    [rV a, rV b] ++ kept z d g
  | .vmred z d a g _ => rV a :: kept z d g
  | .vrng z d b g => rD b :: kept z d g
  | .vlnmul z d a b g => [rV a, rV b] ++ kept z d g
  | .vlnadd _ d a b g => [rV a, rV b, rV d, rP g]
  | .vmqset a b _ => [rV a, rV b]
  | .pand _ a b _ f g | .por _ a b _ f g | .pxor _ a b _ f g => [rPh a f, rPh b g]
  | .pnot _ a _ f | .pcnt _ a f | .pfirst _ a f => [rPh a f]
  | .mma c a b _ | .mmaRs c a b _ => [rA c, rV a] ++ rMany 2 b.toNat 4
  | .mmas c a b _ | .mmasRs c a b _ => [rA c, rD a, rD b, rC (1#5), rV a]
  | .mload _ a => [rV a]
  | .mdrain c _ b f => [rA c, rV b, (2, b.toNat + 1), (0, f.toNat)]
  | .mdrains c a b f => [rA c, rD a, rV b, (2, b.toNat + 1), (0, f.toNat), rC (1#5)]
  | .vld _ c k _ => [rC c, rD k]
  | .vst r c k _ => [rC c, rD k, rV r]
  | .vldx r c k p | .vstx r c k p => [rC c, rV k, rP p, rV r]
  | .pld _ c k _ => [rC c, rD k]
  | .pst r c k h => [rPh r h, rC c, rD k]
  | .ldc _ c k _ | .cld _ c k _ => [rC c, rD k]
  | .cst r c k _ => [rC r, rC c, rD k]
  | .qbbind r _ => [rD r, rC (1#5)]
  | .qbwait k _ | .qbwaitE k _ | .qbtake k _ | .qbgive k _ => [rD k]
  | .syncarm r c k _ | .syncwait r c k _ => [rD r, rC c, rD k]
  | .acq c | .rel c => [rC c]
  | .bind _ c k => [rC c, rC k]
  | .wsseal _ c _ => [rC c]
  | .oxcopy d s p _ _ | .oxgath d s p _ _ | .oxscat d s p _ _ => [rC d, rC s, rC (1#5)] ++ rMany 0 p.toNat 8
  | .oxfill d p _ _ => [rC d, rC (1#5)] ++ rMany 0 p.toNat 8
  | .oxacc d s p _ _ | .oxhen d s p _ _ => [rC d, rC s, rC (1#5)] ++ rMany 0 p.toNat 8
  | .oxcas d s p _ | .oxchase d s p _ => [rC d, rC s, rC (1#5)] ++ rMany 0 p.toNat 8
  | .oxenq d p _ | .oxpage d p _ => [rC d, rC (1#5)] ++ rMany 0 p.toNat 8
  | .coll d s p => [rC d, rC s, rC (1#5), rD p, (0, p.toNat + 1)]
  | _ => []

/-- Registers a strand's word writes. -/
def writesOf : Instr → List Reg
  | .add d _ _ | .sub d _ _ | .mul d _ _ | .mulh d _ _ | .div d _ _ | .rem d _ _ | .and_ d _ _ | .or_ d _ _ | .xor_ d _ _
  | .shl d _ _ | .shr d _ _ | .sar d _ _ | .min d _ _ | .max d _ _ | .slt d _ _ | .sel d _ _ _ | .clz d _ | .popc d _
  | .agen d _ _ _ | .getcycGclk d | .getcycVclk d | .addi d _ _ | .bfx d _ _ _ | .bfi d _ _ _ | .rdcsr d _ | .movi d _ _
  | .movhi d _ _ | .call d _ | .lds d _ _ _ | .sfadd d _ _ | .sfmul d _ _ | .sfma d _ _ _ | .sfcmp d _ _ _
  | .sfcvt d _ _ | .sdot4 d _ _ _ | .vget d _ _ | .pcnt d _ _ | .pfirst d _ _ | .ldc d _ _ _ | .semwait d _ _
  | .bind d _ _ | .wsseal d _ _ => [rD d]
  | .clrt d a b x => [rD d, rD a, rD b, rD x]
  | .cinc d _ _ | .csetb d _ _ | .crestr d _ _ => [rC d]
  | .cld r _ _ _ => [rC r]
  | .svcNull | .svcHostev | .svcSnapshot | .svcLinkgen => rMany 0 60 2
  | .wqpop d a _ => rD a :: rMany 0 d.toNat 8
  | .vadd _ d _ _ _ _ | .vsub _ d _ _ _ _ | .vmul _ d _ _ _ _ | .vfma _ d _ _ _ _ | .vmin _ d _ _ _ _ | .vmax _ d _ _ _ _
  | .vand _ d _ _ _ _ | .vor _ d _ _ _ _ | .vxor _ d _ _ _ _ | .vshl _ d _ _ _ _ | .vshr _ d _ _ _ _ | .vsar _ d _ _ _ _
  | .vabs _ d _ _ _ | .vsel d _ _ _ | .vaddH16 _ d _ _ _ | .vaddB16 _ d _ _ _ | .vsubH16 _ d _ _ _ | .vsubB16 _ d _ _ _
  | .vmulH16 _ d _ _ _ | .vmulB16 _ d _ _ _ | .vfmaH16 _ d _ _ _ | .vfmaB16 _ d _ _ _ | .vminH16 _ d _ _ _
  | .vminB16 _ d _ _ _ | .vmaxH16 _ d _ _ _ | .vmaxB16 _ d _ _ _ | .vcvt _ d _ _ _ | .vsf _ d _ _ _ | .vrotr _ d _ _ _
  | .vrotc _ d _ _ _ | .vbcr _ d _ _ _ | .vbcc _ d _ _ _ | .vredr _ d _ _ _ _ | .vredc _ d _ _ _ _ | .vcomp _ d _ _
  | .vexpd _ d _ _ | .vslup _ d _ _ _ | .vsldn _ d _ _ _ | .vperm _ d _ _ _ | .vmov _ d _ _ | .vsplati _ d _ _ _
  | .vsplats _ d _ _ _ | .vput d _ _ | .vmmul _ d _ _ _ _ | .vmadd _ d _ _ _ _ | .vmsub _ d _ _ _ _ | .vmred _ d _ _ _
  | .vbfly _ d _ _ _ _ | .vbflyGs _ d _ _ _ _ | .vnttp _ d _ _ _ | .vrng _ d _ _ | .vlnmul _ d _ _ _ | .vlnadd _ d _ _ _ =>
    [rV d]
  | .vcmpEq p _ _ _ _ | .vcmpNe p _ _ _ _ | .vcmpLt p _ _ _ _ | .vcmpLe p _ _ _ _ => [rP p]
  | .pand d _ _ e _ _ | .por d _ _ e _ _ | .pxor d _ _ e _ _ | .pnot d _ e _ => [rPh d e]
  | .pset d _ e => [rPh d e]
  | .mma c _ _ _ | .mmaRs c _ _ _ | .mmas c _ _ _ | .mmasRs c _ _ _ | .mzero c | .mload c _ => [rA c]
  | .mdrain _ a _ _ => [rV a]
  | .vld r _ _ p | .vldx r _ _ p => [rV r, rP p]
  | .vst _ _ _ p | .vstx _ _ _ p => [rP p]
  | .pld r _ _ h => [rPh r h]
  | _ => []

/-! ### Units, occupancy and latency (f12 R318) -/

/-- A word that f03 R66 lists as a local wait (an X-slot command, which may wait for its lease, is one by its slot). -/
def waitsOf : Instr → Bool
  | .qbwait _ _ | .qbwaitE _ _ | .semwait _ _ _ | .syncwait _ _ _ _ | .join | .acq _ | .ldc _ _ _ _ | .bind _ _ _
  | .wsseal _ _ _ | .mlease | .wqwait _ | .svcNull | .svcHostev | .svcSnapshot | .svcLinkgen | .exit _ | .trap _ => true
  | _ => false

/-- A word that bars its step from the RESTART section (f10 R271). -/
def barsOf : Instr → Bool
  | .oxacc _ _ _ _ _ | .oxcas _ _ _ _ | .oxenq _ _ _ | .oxchase _ _ _ _ | .oxhen _ _ _ _ _ | .oxpage _ _ _ | .coll _ _ _
  | .semsig _ _ | .semwait _ _ _ | .syncarm _ _ _ _ | .syncwait _ _ _ _ | .qbbind _ _ | .qbgive _ _ | .qbtake _ _
  | .qbwait _ _ | .qbwaitE _ _ | .acq _ | .rel _ | .bind _ _ _ | .ldc _ _ _ _ | .wqpop _ _ _ | .wqwait _ | .svcNull
  | .svcHostev | .svcSnapshot | .svcLinkgen | .cst _ _ _ _ | .exit _ => true
  | _ => false

/-- The parameter block of an OXCOPY, OXGATH, OXSCAT or OXFILL. -/
def blockOf : Instr → Option Nat
  | .oxcopy _ _ p _ _ | .oxgath _ _ p _ _ | .oxscat _ _ p _ _ | .oxfill _ p _ _ => some p.toNat
  | _ => none

/-- Latency rows by level; where the level is not known, the largest figure of the row (f09 R434). -/
def rowOf (levels : Nat → Nat) (l : Option Nat) : Nat := (l.map levels).getD 160

/-- Latency of a word at a slot, by the levels its capability registers reach, when it writes at all: the S and V rows first,
then memory. Timed Ox jobs have theirs in `oxRows`. -/
def latencyOf (lev : Nat → Option Nat) : Instr → Option Nat
  | .add _ _ _ | .sub _ _ _ | .and_ _ _ _ | .or_ _ _ _ | .xor_ _ _ _ | .shl _ _ _ | .shr _ _ _ | .sar _ _ _ | .min _ _ _
  | .max _ _ _ | .slt _ _ _ | .sel _ _ _ _ | .clz _ _ | .popc _ _ | .agen _ _ _ _ | .addi _ _ _ | .bfx _ _ _ _
  | .bfi _ _ _ _ | .movi _ _ _ | .movhi _ _ _ | .getcycGclk _ | .getcycVclk _ | .rdcsr _ _ | .wrcsr _ _ | .clrt _ _ _ _
  | .call _ _ => some 1
  | .mul _ _ _ | .mulh _ _ _ => some 3
  | .div _ _ _ | .rem _ _ _ => some 18
  | .cinc _ _ _ | .csetb _ _ _ | .crestr _ _ _ => some 2
  | .sfadd _ _ _ | .sfmul _ _ _ | .sfcvt _ _ _ => some 4
  | .sfma _ _ _ _ => some 6
  | .sfcmp _ _ _ _ => some 2
  | .sdot4 _ _ _ _ => some 3
  | .lds _ a _ _ | .sts _ a _ _ => some (rowOf (fun l => if l = 0 then 8 else if l = 1 then 40 else if l = 2 then 60 else 160)
      (lev a.toNat))
  | .vadd _ _ _ _ _ _ | .vsub _ _ _ _ _ _ | .vmin _ _ _ _ _ _ | .vmax _ _ _ _ _ _ | .vabs _ _ _ _ _ | .vand _ _ _ _ _ _
  | .vor _ _ _ _ _ _ | .vxor _ _ _ _ _ _ | .vshl _ _ _ _ _ _ | .vshr _ _ _ _ _ _ | .vsar _ _ _ _ _ _
  | .vcmpEq _ _ _ _ _ | .vcmpNe _ _ _ _ _ | .vcmpLt _ _ _ _ _ | .vcmpLe _ _ _ _ _ | .vsel _ _ _ _ | .vmov _ _ _ _
  | .vsplati _ _ _ _ _ | .vsplats _ _ _ _ _ | .vmadd _ _ _ _ _ _ | .vmsub _ _ _ _ _ _ | .vaddH16 _ _ _ _ _
  | .vaddB16 _ _ _ _ _ | .vsubH16 _ _ _ _ _ | .vsubB16 _ _ _ _ _ | .vminH16 _ _ _ _ _ | .vminB16 _ _ _ _ _
  | .vmaxH16 _ _ _ _ _ | .vmaxB16 _ _ _ _ _ | .vrotr _ _ _ _ _ | .vbcr _ _ _ _ _ | .vslup _ _ _ _ _ | .vsldn _ _ _ _ _
  | .vget _ _ _ | .vput _ _ _ => some 6
  | .vmul _ _ _ _ _ _ | .vfma _ _ _ _ _ _ | .vmulH16 _ _ _ _ _ | .vmulB16 _ _ _ _ _ | .vfmaH16 _ _ _ _ _
  | .vfmaB16 _ _ _ _ _ | .vcvt _ _ _ _ _ | .vlnmul _ _ _ _ _ | .vlnadd _ _ _ _ _ | .vmqset _ _ _ | .mload _ _ => some 8
  | .vrotc _ _ _ _ _ | .vbcc _ _ _ _ _ | .vredr _ _ _ _ _ _ | .vperm _ _ _ _ _ | .vcomp _ _ _ _ | .vexpd _ _ _ _
  | .vnttp _ _ _ _ _ => some 10
  | .vredc _ _ _ _ _ _ => some 14
  | .vsf _ _ _ _ _ | .vmmul _ _ _ _ _ _ | .vmred _ _ _ _ _ | .vbfly _ _ _ _ _ _ | .vbflyGs _ _ _ _ _ _ => some 12
  | .vrng _ _ _ _ => some 16
  | .pand _ _ _ _ _ _ | .por _ _ _ _ _ _ | .pxor _ _ _ _ _ _ | .pnot _ _ _ _ | .pset _ _ _ | .mzero _ => some 2
  | .pcnt _ _ _ | .pfirst _ _ _ => some 4
  | .mma _ _ _ _ | .mmaRs _ _ _ _ | .mmas _ _ _ _ | .mmasRs _ _ _ _ | .mdrains _ _ _ _ => some 24
  | .mdrain _ _ _ _ => some 20
  | .vld _ c _ _ | .vst _ c _ _ | .cld _ c _ _ | .cst _ c _ _ | .pld _ c _ _ | .pst _ c _ _ => some (rowOf (fun l =>
      if l = 0 then 10 else if l = 1 then 40 else if l = 2 then 60 else 160) (lev c.toNat))
  | .vldx _ c _ _ | .vstx _ c _ _ => some (4 + rowOf (fun l =>
      if l = 0 then 10 else if l = 1 then 40 else if l = 2 then 60 else 160) (lev c.toNat))
  | _ => none

/-- The unit a word keeps busy and for how long: 1 the vector unit, 2 the timed memory port, 3 the matrix array; an MMA's
occupancy is `m` of its entry. The scalar unit's is 1, which no bundle can come within. -/
def occOf (m : BitVec 4 → Nat) : Instr → Option (Nat × Nat)
  | .vrng _ _ _ _ => some (1, 8)
  | .vget _ _ _ | .vput _ _ _ | .pand _ _ _ _ _ _ | .por _ _ _ _ _ _ | .pxor _ _ _ _ _ _ | .pnot _ _ _ _ | .pset _ _ _
  | .pcnt _ _ _ | .pfirst _ _ _ => some (1, 1)
  | .vld _ _ _ _ | .vst _ _ _ _ | .vldx _ _ _ _ | .vstx _ _ _ _ | .cld _ _ _ _ | .cst _ _ _ _ => some (2, 4)
  | .pld _ _ _ _ | .pst _ _ _ _ => some (2, 1)
  | .mma _ _ _ f | .mmaRs _ _ _ f | .mmas _ _ _ f | .mmasRs _ _ _ f => some (3, m f)
  | .mzero _ => some (3, 1)
  | .mload _ _ | .mdrain _ _ _ _ | .mdrains _ _ _ _ => some (3, 4)
  | .mlease | .mfree => some (3, 0)
  | i => match writesOf i with
    | [(2, _)] => some (1, 4)
    | _ => match i with
      | .vcmpEq _ _ _ _ _ | .vcmpNe _ _ _ _ _ | .vcmpLt _ _ _ _ _ | .vcmpLe _ _ _ _ _ | .vmqset _ _ _ => some (1, 4)
      | _ => none

/-- A timed Ox word: its destination and source registers (none for OXFILL) and its engine. -/
def timedOxOf : Instr → Option (Nat × Option Nat × Nat)
  | .oxcopy d s _ q 1 | .oxgath d s _ q 1 | .oxscat d s _ q 1 => some (d.toNat, some s.toNat, q.toNat)
  | .oxfill d _ q 1 => some (d.toNat, none, q.toNat)
  | _ => none

/-- The capability register of a timed read, and of any timed access, that is not an Ox job. -/
def readsBy : Instr → Option Nat
  | .lds _ a _ _ => some a.toNat
  | .vld _ c _ _ | .vldx _ c _ _ | .pld _ c _ _ | .cld _ c _ _ => some c.toNat
  | _ => none
def storesBy : Instr → Option Nat
  | .sts _ a _ _ => some a.toNat
  | .vst _ c _ _ | .vstx _ c _ _ | .pst _ c _ _ | .cst _ c _ _ => some c.toNat
  | _ => none

end Sys2Proof.Machine
end

