-- ==== Sys2Proof/WellFormed.lean ====
section
/-! DEFINITION. Which instruction words are legal: the field values f12 R302..R312 and the entries of f18, f19, f20 allow.
What depends on the timetable (a tile beyond the window, a semaphore beyond the allotment) is checked at run time. -/
namespace Sys2Proof

/-- A field that names one of V0..V47 (f12 R303). -/
def isV (x : BitVec 6) : Bool := decide (x.toNat < 48)
/-- A field that names one of C0..C31 (f12 R303). -/
def isC (x : BitVec 6) : Bool := decide (x.toNat < 32)
/-- A field bit range LO, WM1 that lies inside 64 bits (f18 R344). -/
def isField (l w : BitVec 6) : Bool := decide (l.toNat + w.toNat + 1 ≤ 64)
/-- A readable CSR number (f12 R313). -/
def isCsr (c : BitVec 12) : Bool :=
  let n := c.toNat
  decide (n < 6) || decide (0x10 ≤ n ∧ n < 0x14) || decide (0x20 ≤ n ∧ n < 0x25) || decide (0x30 ≤ n ∧ n < 0x33) ||
    decide (0x40 ≤ n ∧ n < 0x50) || decide (0x80 ≤ n ∧ n < 0x90)
/-- A writable CSR number (f12 R313, f20 R430). -/
def isRwCsr (c : BitVec 12) : Bool :=
  let n := c.toNat
  decide (n = 0x10) || decide (n = 0x20) || decide (n = 0x24) || decide (0x30 ≤ n ∧ n < 0x33) ||
    decide (0x40 ≤ n ∧ n < 0x50) || decide (0x80 ≤ n ∧ n < 0x90)
/-- A conversion code of SFCVT (f19 R398): kinds 0..7, modes 0..3, kinds 5 and 7 with mode RNE alone. -/
def isSfcvt (x : BitVec 6) : Bool :=
  decide (x.toNat % 8 < 4) && (decide (x.toNat / 8 ≠ 5 ∧ x.toNat / 8 ≠ 7) || decide (x.toNat % 8 = 0))
/-- A parameter block register: 8, 16, .., 56 (f07 R172). -/
def isBlock (p : BitVec 6) : Bool := decide (p.toNat % 8 = 0 ∧ p.toNat ≠ 0)

/-- The legal forms of every row; a step without a word is always well formed. -/
def Instr.wellFormed : Instr → Bool
  | .bndl d _ _ _ _ => decide (d ≠ 0)
  | .cinc d a _ | .csetb d a _ | .crestr d a _ => isC d && isC a
  | .getcycGclk _ | .getcycVclk _ => true
  | .bfx _ _ l w | .bfi _ _ l w => isField l w
  | .rdcsr _ c => isCsr c
  | .wrcsr _ c => isRwCsr c
  | .br _ c _ => decide (c.toNat ≤ 5)
  | .loopImm l n _ => decide (l ≠ 3) && decide (n ≠ 0)
  | .loopReg l n _ => decide (l ≠ 3) && decide (n ≠ 0)
  | .lds _ a _ _ | .sts _ a _ _ => isC a
  | .sfcmp _ _ _ x => decide (x.toNat ≤ 4)
  | .sfcvt _ _ x => isSfcvt x
  | .exit n => decide (n.toNat < 64) || decide (n.toNat = 0xFFF)
  | .wqpop d a _ => decide (d.toNat % 8 = 0 ∧ d.toNat ≠ 0) && decide (a.toNat / 8 ≠ d.toNat / 8)
  | .vadd _ d a b _ _ | .vsub _ d a b _ _ | .vmul _ d a b _ _ | .vfma _ d a b _ _ | .vmin _ d a b _ _
  | .vmax _ d a b _ _ | .vand _ d a b _ _ | .vor _ d a b _ _ | .vxor _ d a b _ _ | .vshl _ d a b _ _
  | .vshr _ d a b _ _ | .vsar _ d a b _ _ => isV d && isV a && isV b
  | .vabs _ d a _ _ => isV d && isV a
  | .vcmpEq _ a b _ _ | .vcmpNe _ a b _ _ | .vcmpLt _ a b _ _ | .vcmpLe _ a b _ _ => isV a && isV b
  | .vsel d a b _ => isV d && isV a && isV b
  | .vaddH16 _ d a b _ | .vaddB16 _ d a b _ | .vsubH16 _ d a b _ | .vsubB16 _ d a b _ | .vmulH16 _ d a b _
  | .vmulB16 _ d a b _ | .vfmaH16 _ d a b _ | .vfmaB16 _ d a b _ | .vminH16 _ d a b _ | .vminB16 _ d a b _
  | .vmaxH16 _ d a b _ | .vmaxB16 _ d a b _ => isV d && isV a && isV b
  | .vcvt _ d a _ _ => isV d && isV a
  | .vsf _ d a f _ => isV d && isV a && decide (f.toNat < 8)
  | .vrotr _ d a _ _ | .vrotc _ d a _ _ | .vslup _ d a _ _ | .vsldn _ d a _ _ => isV d && isV a
  | .vbcr _ d a _ _ => isV d && isV a
  | .vbcc _ d a r _ => isV d && isV a && decide (r.toNat < 16)
  | .vredr _ d a o _ _ | .vredc _ d a o _ _ => isV d && isV a && decide (o.toNat < 3)
  | .vcomp _ d a _ | .vexpd _ d a _ => isV d && isV a
  | .vperm _ d a b _ => isV d && isV a && isV b
  | .vmov _ d a _ => isV d && isV a
  | .vsplati _ d i _ t => isV d && (decide (t ≠ 3) || (i.sle 127#12 && (-128#12).sle i))
  | .vsplats _ d _ _ _ => isV d
  | .vget _ a _ => isV a
  | .vput d _ _ => isV d
  | .vmmul _ d a b _ _ | .vmadd _ d a b _ _ | .vmsub _ d a b _ _ | .vbfly _ d a b _ _ | .vbflyGs _ d a b _ _ =>
    isV d && isV a && isV b
  | .vmred _ d a _ _ => isV d && isV a
  | .vnttp _ d a s _ => isV d && isV a && decide (s.toNat < 10)
  | .vrng _ d _ _ => isV d
  | .vlnmul _ d a b _ | .vlnadd _ d a b _ => isV d && isV a && isV b
  | .vmqset a b _ => isV a && decide (b.toNat < 47)
  | .pset _ n _ => decide (n.toNat ≤ 1024)
  | .mma _ a b _ | .mmaRs _ a b _ => isV a && decide (b.toNat ≤ 44)
  | .mmas _ a _ _ | .mmasRs _ a _ _ => isV a
  | .mload _ a => isV a
  | .mdrain _ a b _ => isV a && decide (b.toNat ≤ 46)
  | .mdrains _ _ b _ => decide (b.toNat ≤ 46)
  | .vld r _ _ _ | .vst r _ _ _ => isV r
  | .vldx r _ k _ | .vstx r _ k _ => isV r && isV k
  | .ldc r _ _ _ => decide (r ≠ 0)
  | .cld r _ _ _ | .cst r _ _ _ => isC r
  | .semwait _ _ t => decide (t.toNat ≤ 54)
  | .semsig _ n => decide (n ≠ 0)
  | .oxcopy _ _ p _ _ | .oxgath _ _ p _ _ | .oxscat _ _ p _ _ => isBlock p
  | .oxfill _ p _ _ => isBlock p
  | .oxacc _ _ p _ _ | .oxhen _ _ p _ _ => isBlock p
  | .oxcas _ _ p _ | .oxchase _ _ p _ => isBlock p
  | .oxenq _ p _ | .oxpage _ p _ => isBlock p
  | .coll _ _ p => decide (p ≠ 0)
  | .haddl a t => decide (a.toNat < 32) && decide (t.toNat < 3)
  | .hldl a | .hstl a | .hcommit a => decide (a.toNat < 32)
  | .hcmp d a b _ => decide (d.toNat < 32) && decide (a.toNat < 32) && decide (b.toNat < 32)
  | .hreply a b => decide (a.toNat < 32) && decide (b.toNat < 32)
  | .hstage a b x => decide (a.toNat < 32) && decide (b.toNat < 32) && decide (x.toNat < 3)
  | _ => true

end Sys2Proof
end

