-- ==== Sys2Proof/Decode.lean ====
section
/-! DEFINITION. The decoder of the instruction words, written from the maps of f12 and the fields of the opcode table;
total, rejecting a word that is not an instruction (`none`).  After it, the encoder. -/
namespace Sys2Proof

/-- Bits lo + len - 1 .. lo of a word. -/
def fld (w : Word) (lo len : Nat) : BitVec len := w.extractLsb' lo len

/-- Which decoding map a word of an instruction belongs to (f12 R304, R305; f09 R244). -/
inductive MapKind where
  | common | sPriv | vMap | xMap | tMap | hMap | virbel
  deriving DecidableEq, Repr

/-- The common map (f12 R306), header words included. -/
def rawCommon (w : Word) : Option Instr :=
  match (fld w 24 8).toNat with
  | 0x00 => if fld w 0 24 = 0 then some .nop
    else none
  | 0x01 => if fld w 0 6 = 0 then some (.add (fld w 18 6) (fld w 12 6) (fld w 6 6))
    else none
  | 0x02 => if fld w 0 6 = 0 then some (.sub (fld w 18 6) (fld w 12 6) (fld w 6 6))
    else none
  | 0x03 => if fld w 0 6 = 0 then some (.mul (fld w 18 6) (fld w 12 6) (fld w 6 6))
    else none
  | 0x04 => if fld w 0 6 = 0 then some (.mulh (fld w 18 6) (fld w 12 6) (fld w 6 6))
    else none
  | 0x05 => if fld w 0 6 = 0 then some (.div (fld w 18 6) (fld w 12 6) (fld w 6 6))
    else none
  | 0x06 => if fld w 0 6 = 0 then some (.rem (fld w 18 6) (fld w 12 6) (fld w 6 6))
    else none
  | 0x07 => if fld w 0 6 = 0 then some (.and_ (fld w 18 6) (fld w 12 6) (fld w 6 6))
    else none
  | 0x08 => if fld w 0 6 = 0 then some (.or_ (fld w 18 6) (fld w 12 6) (fld w 6 6))
    else none
  | 0x09 => if fld w 0 6 = 0 then some (.xor_ (fld w 18 6) (fld w 12 6) (fld w 6 6))
    else none
  | 0x0A => if fld w 0 6 = 0 then some (.shl (fld w 18 6) (fld w 12 6) (fld w 6 6))
    else none
  | 0x0B => if fld w 0 6 = 0 then some (.shr (fld w 18 6) (fld w 12 6) (fld w 6 6))
    else none
  | 0x0C => if fld w 0 6 = 0 then some (.sar (fld w 18 6) (fld w 12 6) (fld w 6 6))
    else none
  | 0x0D => if fld w 0 6 = 0 then some (.min (fld w 18 6) (fld w 12 6) (fld w 6 6))
    else none
  | 0x0E => if fld w 0 6 = 0 then some (.max (fld w 18 6) (fld w 12 6) (fld w 6 6))
    else none
  | 0x0F => if fld w 0 6 = 0 then some (.slt (fld w 18 6) (fld w 12 6) (fld w 6 6))
    else none
  | 0x10 => some (.sel (fld w 18 6) (fld w 12 6) (fld w 6 6) (fld w 0 6))
  | 0x11 => if fld w 0 12 = 0 then some (.clz (fld w 18 6) (fld w 12 6))
    else none
  | 0x12 => if fld w 0 12 = 0 then some (.popc (fld w 18 6) (fld w 12 6))
    else none
  | 0x13 => some (.agen (fld w 18 6) (fld w 12 6) (fld w 6 6) (fld w 0 6))
  | 0x14 => if fld w 0 18 = 0 then some (.getcycGclk (fld w 18 6))
    else if fld w 0 18 = 1 then some (.getcycVclk (fld w 18 6))
    else none
  | 0x15 => if fld w 0 6 = 0 then some (.cinc (fld w 18 6) (fld w 12 6) (fld w 6 6))
    else none
  | 0x16 => if fld w 0 6 = 0 then some (.csetb (fld w 18 6) (fld w 12 6) (fld w 6 6))
    else none
  | 0x17 => if fld w 0 6 = 0 then some (.crestr (fld w 18 6) (fld w 12 6) (fld w 6 6))
    else none
  | 0x18 => some (.clrt (fld w 18 6) (fld w 12 6) (fld w 6 6) (fld w 0 6))
  | 0x20 => some (.addi (fld w 18 6) (fld w 12 6) (fld w 0 12))
  | 0x21 => some (.bfx (fld w 18 6) (fld w 12 6) (fld w 6 6) (fld w 0 6))
  | 0x22 => some (.bfi (fld w 18 6) (fld w 12 6) (fld w 6 6) (fld w 0 6))
  | 0x23 => if fld w 12 6 = 0 then some (.rdcsr (fld w 18 6) (fld w 0 12))
    else none
  | 0x24 => if fld w 18 6 = 0 then some (.wrcsr (fld w 12 6) (fld w 0 12))
    else none
  | 0x28 => some (.movi (fld w 18 6) (fld w 16 2) (fld w 0 16))
  | 0x29 => some (.movhi (fld w 18 6) (fld w 16 2) (fld w 0 16))
  | 0x2A => if fld w 16 8 = 0 then some (.trap (fld w 0 16))
    else none
  | 0x30 => some (.br (fld w 18 6) (fld w 15 3) (fld w 0 15))
  | 0x31 => if fld w 15 9 = 0 then some (.jmp (fld w 0 15))
    else none
  | 0x32 => if fld w 15 3 = 0 then some (.call (fld w 18 6) (fld w 0 15))
    else none
  | 0x33 => if fld w 0 18 = 0 then some (.ret (fld w 18 6))
    else none
  | 0x38 => if fld w 13 1 = 0 then some (.loopImm (fld w 22 2) (fld w 14 8) (fld w 0 13))
    else if fld w 6 8 = 128 then some (.loopReg (fld w 22 2) (fld w 14 8) (fld w 0 6))
    else none
  | 0x7F => if fld w 4 8 = 0 then some (.bndl (fld w 16 8) (fld w 15 1) (fld w 14 1) (fld w 12 2) (fld w 0 4))
    else none
  | _ => none

/-- The S-private map (f12 R307). An SVC of an unlisted number has no row; `Scalar` gives it its status. -/
def rawS (w : Word) : Option Instr :=
  match (fld w 24 8).toNat with
  | 0x81 => some (.lds (fld w 18 6) (fld w 12 6) (fld w 6 6) (fld w 0 6))
  | 0x82 => some (.sts (fld w 18 6) (fld w 12 6) (fld w 6 6) (fld w 0 6))
  | 0x88 => if fld w 0 6 = 0 then some (.sfadd (fld w 18 6) (fld w 12 6) (fld w 6 6))
    else none
  | 0x89 => if fld w 0 6 = 0 then some (.sfmul (fld w 18 6) (fld w 12 6) (fld w 6 6))
    else none
  | 0x8A => some (.sfma (fld w 18 6) (fld w 12 6) (fld w 6 6) (fld w 0 6))
  | 0x8B => some (.sfcmp (fld w 18 6) (fld w 12 6) (fld w 6 6) (fld w 0 6))
  | 0x8C => if fld w 6 6 = 0 then some (.sfcvt (fld w 18 6) (fld w 12 6) (fld w 0 6))
    else none
  | 0x90 => some (.sdot4 (fld w 18 6) (fld w 12 6) (fld w 6 6) (fld w 0 6))
  | 0xA0 => if fld w 12 12 = 0 then some (.exit (fld w 0 12))
    else none
  | 0xA1 => if fld w 0 24 = 0 then some .sstep
    else if fld w 11 13 = 1 then some (.sstepM (fld w 0 11))
    else none
  | 0xA2 => if fld w 0 24 = 0 then some .svcNull
    else if fld w 0 24 = 1 then some .svcHostev
    else if fld w 0 24 = 2 then some .svcSnapshot
    else if fld w 0 24 = 3 then some .svcLinkgen
    else none
  | 0xA8 => if fld w 2 10 = 0 then some (.wqpop (fld w 18 6) (fld w 12 6) (fld w 0 2))
    else none
  | 0xA9 => if fld w 2 22 = 0 then some (.wqwait (fld w 0 2))
    else none
  | _ => none

/-- The V map (f12 R308, R309). -/
def rawV (w : Word) : Option Instr :=
  match (fld w 25 7).toNat with
  | 0x40 => some (.vadd (fld w 24 1) (fld w 18 6) (fld w 12 6) (fld w 6 6) (fld w 2 4) (fld w 0 2))
  | 0x41 => some (.vsub (fld w 24 1) (fld w 18 6) (fld w 12 6) (fld w 6 6) (fld w 2 4) (fld w 0 2))
  | 0x42 => some (.vmul (fld w 24 1) (fld w 18 6) (fld w 12 6) (fld w 6 6) (fld w 2 4) (fld w 0 2))
  | 0x43 => some (.vfma (fld w 24 1) (fld w 18 6) (fld w 12 6) (fld w 6 6) (fld w 2 4) (fld w 0 2))
  | 0x44 => some (.vmin (fld w 24 1) (fld w 18 6) (fld w 12 6) (fld w 6 6) (fld w 2 4) (fld w 0 2))
  | 0x45 => some (.vmax (fld w 24 1) (fld w 18 6) (fld w 12 6) (fld w 6 6) (fld w 2 4) (fld w 0 2))
  | 0x46 => if fld w 6 6 = 0 then some (.vabs (fld w 24 1) (fld w 18 6) (fld w 12 6) (fld w 2 4) (fld w 0 2))
    else none
  | 0x47 => some (.vand (fld w 24 1) (fld w 18 6) (fld w 12 6) (fld w 6 6) (fld w 2 4) (fld w 0 2))
  | 0x48 => some (.vor (fld w 24 1) (fld w 18 6) (fld w 12 6) (fld w 6 6) (fld w 2 4) (fld w 0 2))
  | 0x49 => some (.vxor (fld w 24 1) (fld w 18 6) (fld w 12 6) (fld w 6 6) (fld w 2 4) (fld w 0 2))
  | 0x4A => some (.vshl (fld w 24 1) (fld w 18 6) (fld w 12 6) (fld w 6 6) (fld w 2 4) (fld w 0 2))
  | 0x4B => some (.vshr (fld w 24 1) (fld w 18 6) (fld w 12 6) (fld w 6 6) (fld w 2 4) (fld w 0 2))
  | 0x4C => some (.vsar (fld w 24 1) (fld w 18 6) (fld w 12 6) (fld w 6 6) (fld w 2 4) (fld w 0 2))
  | 0x4D => if fld w 24 1 = 0 then some (.vcmpEq (fld w 18 6) (fld w 12 6) (fld w 6 6) (fld w 2 4) (fld w 0 2))
    else if fld w 24 1 = 1 then some (.vcmpNe (fld w 18 6) (fld w 12 6) (fld w 6 6) (fld w 2 4) (fld w 0 2))
    else none
  | 0x4E => if fld w 24 1 = 0 then some (.vcmpLt (fld w 18 6) (fld w 12 6) (fld w 6 6) (fld w 2 4) (fld w 0 2))
    else if fld w 24 1 = 1 then some (.vcmpLe (fld w 18 6) (fld w 12 6) (fld w 6 6) (fld w 2 4) (fld w 0 2))
    else none
  | 0x4F => if fld w 0 2 = 0 ∧ fld w 24 1 = 0 then some (.vsel (fld w 18 6) (fld w 12 6) (fld w 6 6) (fld w 2 4))
    else none
  | 0x50 => if fld w 0 2 = 2 then some (.vaddH16 (fld w 24 1) (fld w 18 6) (fld w 12 6) (fld w 6 6) (fld w 2 4))
    else none
  | 0x51 => if fld w 0 2 = 2 then some (.vaddB16 (fld w 24 1) (fld w 18 6) (fld w 12 6) (fld w 6 6) (fld w 2 4))
    else none
  | 0x52 => if fld w 0 2 = 2 then some (.vsubH16 (fld w 24 1) (fld w 18 6) (fld w 12 6) (fld w 6 6) (fld w 2 4))
    else none
  | 0x53 => if fld w 0 2 = 2 then some (.vsubB16 (fld w 24 1) (fld w 18 6) (fld w 12 6) (fld w 6 6) (fld w 2 4))
    else none
  | 0x54 => if fld w 0 2 = 2 then some (.vmulH16 (fld w 24 1) (fld w 18 6) (fld w 12 6) (fld w 6 6) (fld w 2 4))
    else none
  | 0x55 => if fld w 0 2 = 2 then some (.vmulB16 (fld w 24 1) (fld w 18 6) (fld w 12 6) (fld w 6 6) (fld w 2 4))
    else none
  | 0x56 => if fld w 0 2 = 2 then some (.vfmaH16 (fld w 24 1) (fld w 18 6) (fld w 12 6) (fld w 6 6) (fld w 2 4))
    else none
  | 0x57 => if fld w 0 2 = 2 then some (.vfmaB16 (fld w 24 1) (fld w 18 6) (fld w 12 6) (fld w 6 6) (fld w 2 4))
    else none
  | 0x58 => if fld w 0 2 = 2 then some (.vminH16 (fld w 24 1) (fld w 18 6) (fld w 12 6) (fld w 6 6) (fld w 2 4))
    else none
  | 0x59 => if fld w 0 2 = 2 then some (.vminB16 (fld w 24 1) (fld w 18 6) (fld w 12 6) (fld w 6 6) (fld w 2 4))
    else none
  | 0x5A => if fld w 0 2 = 2 then some (.vmaxH16 (fld w 24 1) (fld w 18 6) (fld w 12 6) (fld w 6 6) (fld w 2 4))
    else none
  | 0x5B => if fld w 0 2 = 2 then some (.vmaxB16 (fld w 24 1) (fld w 18 6) (fld w 12 6) (fld w 6 6) (fld w 2 4))
    else none
  | 0x5C => if fld w 0 2 = 0 then some (.vcvt (fld w 24 1) (fld w 18 6) (fld w 12 6) (fld w 6 6) (fld w 2 4))
    else none
  | 0x5D => if fld w 0 2 = 0 then some (.vsf (fld w 24 1) (fld w 18 6) (fld w 12 6) (fld w 6 6) (fld w 2 4))
    else none
  | 0x5E => if fld w 0 2 = 0 then some (.vrotr (fld w 24 1) (fld w 18 6) (fld w 12 6) (fld w 6 6) (fld w 2 4))
    else none
  | 0x5F => if fld w 0 2 = 0 then some (.vrotc (fld w 24 1) (fld w 18 6) (fld w 12 6) (fld w 6 6) (fld w 2 4))
    else none
  | 0x60 => if fld w 0 2 = 0 then some (.vbcr (fld w 24 1) (fld w 18 6) (fld w 12 6) (fld w 6 6) (fld w 2 4))
    else none
  | 0x61 => if fld w 0 2 = 0 then some (.vbcc (fld w 24 1) (fld w 18 6) (fld w 12 6) (fld w 6 6) (fld w 2 4))
    else none
  | 0x62 => some (.vredr (fld w 24 1) (fld w 18 6) (fld w 12 6) (fld w 6 6) (fld w 2 4) (fld w 0 2))
  | 0x63 => some (.vredc (fld w 24 1) (fld w 18 6) (fld w 12 6) (fld w 6 6) (fld w 2 4) (fld w 0 2))
  | 0x64 => if fld w 0 2 = 0 ∧ fld w 6 6 = 0 then some (.vcomp (fld w 24 1) (fld w 18 6) (fld w 12 6) (fld w 2 4))
    else none
  | 0x65 => if fld w 0 2 = 0 ∧ fld w 6 6 = 0 then some (.vexpd (fld w 24 1) (fld w 18 6) (fld w 12 6) (fld w 2 4))
    else none
  | 0x66 => if fld w 0 2 = 0 then some (.vslup (fld w 24 1) (fld w 18 6) (fld w 12 6) (fld w 6 6) (fld w 2 4))
    else none
  | 0x67 => if fld w 0 2 = 0 then some (.vsldn (fld w 24 1) (fld w 18 6) (fld w 12 6) (fld w 6 6) (fld w 2 4))
    else none
  | 0x68 => if fld w 0 2 = 0 then some (.vperm (fld w 24 1) (fld w 18 6) (fld w 12 6) (fld w 6 6) (fld w 2 4))
    else none
  | 0x69 => if fld w 0 2 = 0 ∧ fld w 6 6 = 0 then some (.vmov (fld w 24 1) (fld w 18 6) (fld w 12 6) (fld w 2 4))
    else none
  | 0x6A => some (.vsplati (fld w 24 1) (fld w 18 6) (fld w 6 12) (fld w 2 4) (fld w 0 2))
  | 0x6B => if fld w 6 6 = 0 then some (.vsplats (fld w 24 1) (fld w 18 6) (fld w 12 6) (fld w 2 4) (fld w 0 2))
    else none
  | 0x6C => if fld w 0 6 = 0 ∧ fld w 24 1 = 0 then some (.vget (fld w 18 6) (fld w 12 6) (fld w 6 6))
    else none
  | 0x6D => if fld w 0 6 = 0 ∧ fld w 24 1 = 0 then some (.vput (fld w 18 6) (fld w 12 6) (fld w 6 6))
    else none
  | 0x6E => some (.vmmul (fld w 24 1) (fld w 18 6) (fld w 12 6) (fld w 6 6) (fld w 2 4) (fld w 0 2))
  | 0x6F => some (.vmadd (fld w 24 1) (fld w 18 6) (fld w 12 6) (fld w 6 6) (fld w 2 4) (fld w 0 2))
  | 0x70 => some (.vmsub (fld w 24 1) (fld w 18 6) (fld w 12 6) (fld w 6 6) (fld w 2 4) (fld w 0 2))
  | 0x71 => if fld w 6 6 = 0 then some (.vmred (fld w 24 1) (fld w 18 6) (fld w 12 6) (fld w 2 4) (fld w 0 2))
    else none
  | 0x72 => some (.vbfly (fld w 24 1) (fld w 18 6) (fld w 12 6) (fld w 6 6) (fld w 2 4) (fld w 0 2))
  | 0x73 => some (.vbflyGs (fld w 24 1) (fld w 18 6) (fld w 12 6) (fld w 6 6) (fld w 2 4) (fld w 0 2))
  | 0x74 => if fld w 0 2 = 0 then some (.vnttp (fld w 24 1) (fld w 18 6) (fld w 12 6) (fld w 6 6) (fld w 2 4))
    else none
  | 0x75 => if fld w 0 2 = 0 ∧ fld w 12 6 = 0 then some (.vrng (fld w 24 1) (fld w 18 6) (fld w 6 6) (fld w 2 4))
    else none
  | 0x76 => if fld w 0 2 = 0 then some (.vlnmul (fld w 24 1) (fld w 18 6) (fld w 12 6) (fld w 6 6) (fld w 2 4))
    else none
  | 0x77 => if fld w 0 2 = 0 then some (.vlnadd (fld w 24 1) (fld w 18 6) (fld w 12 6) (fld w 6 6) (fld w 2 4))
    else none
  | 0x78 => if fld w 2 4 = 0 ∧ fld w 18 7 = 0 then some (.vmqset (fld w 12 6) (fld w 6 6) (fld w 0 2))
    else none
  | 0x79 => if fld w 0 3 = 0 ∧ fld w 24 1 = 0 then some (.pand (fld w 18 6) (fld w 12 6) (fld w 6 6) (fld w 5 1) (fld w 4 1) (fld w 3 1))
    else if fld w 0 3 = 1 ∧ fld w 24 1 = 0 then some (.por (fld w 18 6) (fld w 12 6) (fld w 6 6) (fld w 5 1) (fld w 4 1) (fld w 3 1))
    else if fld w 0 3 = 2 ∧ fld w 24 1 = 0 then some (.pxor (fld w 18 6) (fld w 12 6) (fld w 6 6) (fld w 5 1) (fld w 4 1) (fld w 3 1))
    else if fld w 0 4 = 3 ∧ fld w 6 6 = 0 ∧ fld w 24 1 = 0 then some (.pnot (fld w 18 6) (fld w 12 6) (fld w 5 1) (fld w 4 1))
    else none
  | 0x7A => if fld w 0 4 = 0 ∧ fld w 5 7 = 0 ∧ fld w 24 1 = 0 then some (.pcnt (fld w 18 6) (fld w 12 6) (fld w 4 1))
    else none
  | 0x7B => if fld w 0 4 = 0 ∧ fld w 5 7 = 0 ∧ fld w 24 1 = 0 then some (.pfirst (fld w 18 6) (fld w 12 6) (fld w 4 1))
    else none
  | 0x7C => if fld w 0 5 = 0 ∧ fld w 24 1 = 0 then some (.pset (fld w 18 6) (fld w 6 12) (fld w 5 1))
    else none
  | _ => none

/-- The X map (f12 R310). -/
def rawX (w : Word) : Option Instr :=
  match (fld w 24 8).toNat with
  | 0x90 => some (.mma (fld w 16 8) (fld w 10 6) (fld w 4 6) (fld w 0 4))
  | 0x91 => some (.mmaRs (fld w 16 8) (fld w 10 6) (fld w 4 6) (fld w 0 4))
  | 0x92 => some (.mmas (fld w 16 8) (fld w 10 6) (fld w 4 6) (fld w 0 4))
  | 0x93 => some (.mmasRs (fld w 16 8) (fld w 10 6) (fld w 4 6) (fld w 0 4))
  | 0x98 => if fld w 0 16 = 0 then some (.mzero (fld w 16 8))
    else none
  | 0x99 => if fld w 0 10 = 0 then some (.mload (fld w 16 8) (fld w 10 6))
    else none
  | 0x9A => some (.mdrain (fld w 16 8) (fld w 10 6) (fld w 4 6) (fld w 0 4))
  | 0x9B => some (.mdrains (fld w 16 8) (fld w 10 6) (fld w 4 6) (fld w 0 4))
  | 0x9E => if fld w 0 24 = 0 then some .mlease
    else none
  | 0x9F => if fld w 0 24 = 0 then some .mfree
    else none
  | _ => none

/-- The T map (f12 R311) with the Ox commands (f07 R172). -/
def rawT (w : Word) : Option Instr :=
  match (fld w 24 8).toNat with
  | 0x80 => some (.vld (fld w 18 6) (fld w 13 5) (fld w 7 6) (fld w 0 7))
  | 0x81 => some (.vst (fld w 18 6) (fld w 13 5) (fld w 7 6) (fld w 0 7))
  | 0x82 => some (.vldx (fld w 18 6) (fld w 13 5) (fld w 7 6) (fld w 0 7))
  | 0x83 => some (.vstx (fld w 18 6) (fld w 13 5) (fld w 7 6) (fld w 0 7))
  | 0x84 => if fld w 0 6 = 0 then some (.pld (fld w 18 6) (fld w 13 5) (fld w 7 6) (fld w 6 1))
    else none
  | 0x85 => if fld w 0 6 = 0 then some (.pst (fld w 18 6) (fld w 13 5) (fld w 7 6) (fld w 6 1))
    else none
  | 0x88 => if fld w 5 2 = 0 then some (.ldc (fld w 18 6) (fld w 13 5) (fld w 7 6) (fld w 0 5))
    else none
  | 0x89 => some (.cld (fld w 18 6) (fld w 13 5) (fld w 7 6) (fld w 0 7))
  | 0x8A => some (.cst (fld w 18 6) (fld w 13 5) (fld w 7 6) (fld w 0 7))
  | 0x90 => if fld w 4 14 = 0 then some (.qbbind (fld w 18 6) (fld w 0 4))
    else none
  | 0x91 => if fld w 4 3 = 0 ∧ fld w 13 11 = 0 then some (.qbwait (fld w 7 6) (fld w 0 4))
    else if fld w 4 3 = 1 ∧ fld w 13 11 = 0 then some (.qbwaitE (fld w 7 6) (fld w 0 4))
    else none
  | 0x92 => if fld w 4 3 = 0 ∧ fld w 13 11 = 0 then some (.qbtake (fld w 7 6) (fld w 0 4))
    else none
  | 0x93 => if fld w 4 3 = 0 ∧ fld w 13 11 = 0 then some (.qbgive (fld w 7 6) (fld w 0 4))
    else none
  | 0x98 => if fld w 15 3 = 0 then some (.semwait (fld w 18 6) (fld w 7 8) (fld w 0 7))
    else none
  | 0x99 => if fld w 15 9 = 0 then some (.semsig (fld w 7 8) (fld w 0 7))
    else none
  | 0x9A => some (.syncarm (fld w 18 6) (fld w 13 5) (fld w 7 6) (fld w 0 7))
  | 0x9B => some (.syncwait (fld w 18 6) (fld w 13 5) (fld w 7 6) (fld w 0 7))
  | 0xA0 => if fld w 5 19 = 0 then some (.fence (fld w 4 1) (fld w 0 4))
    else none
  | 0xA1 => if fld w 0 24 = 0 then some .join
    else none
  | 0xA2 => if fld w 0 13 = 0 ∧ fld w 18 6 = 0 then some (.acq (fld w 13 5))
    else none
  | 0xA3 => if fld w 0 13 = 0 ∧ fld w 18 6 = 0 then some (.rel (fld w 13 5))
    else none
  | 0xA4 => if fld w 0 7 = 0 ∧ fld w 12 1 = 0 then some (.bind (fld w 18 6) (fld w 13 5) (fld w 7 5))
    else none
  | 0xA8 => if fld w 1 12 = 0 then some (.wsseal (fld w 18 6) (fld w 13 5) (fld w 0 1))
    else none
  | 0xC0 => if fld w 3 5 = 0 then some (.oxcopy (fld w 19 5) (fld w 14 5) (fld w 8 6) (fld w 1 2) (fld w 0 1))
    else none
  | 0xC1 => if fld w 3 5 = 0 then some (.oxgath (fld w 19 5) (fld w 14 5) (fld w 8 6) (fld w 1 2) (fld w 0 1))
    else none
  | 0xC2 => if fld w 3 5 = 0 then some (.oxscat (fld w 19 5) (fld w 14 5) (fld w 8 6) (fld w 1 2) (fld w 0 1))
    else none
  | 0xC3 => if fld w 3 5 = 0 ∧ fld w 14 5 = 0 then some (.oxfill (fld w 19 5) (fld w 8 6) (fld w 1 2) (fld w 0 1))
    else none
  | 0xC4 => if fld w 0 1 = 0 ∧ fld w 4 4 = 0 then some (.oxacc (fld w 19 5) (fld w 14 5) (fld w 8 6) (fld w 3 1) (fld w 1 2))
    else none
  | 0xC5 => if fld w 0 1 = 0 ∧ fld w 3 5 = 0 then some (.oxcas (fld w 19 5) (fld w 14 5) (fld w 8 6) (fld w 1 2))
    else none
  | 0xC6 => if fld w 0 1 = 0 ∧ fld w 3 5 = 0 ∧ fld w 14 5 = 0 then some (.oxenq (fld w 19 5) (fld w 8 6) (fld w 1 2))
    else none
  | 0xC7 => if fld w 0 1 = 0 ∧ fld w 3 5 = 0 then some (.oxchase (fld w 19 5) (fld w 14 5) (fld w 8 6) (fld w 1 2))
    else none
  | 0xC8 => if fld w 0 1 = 0 ∧ fld w 4 4 = 0 then some (.oxhen (fld w 19 5) (fld w 14 5) (fld w 8 6) (fld w 3 1) (fld w 1 2))
    else none
  | 0xC9 => if fld w 0 1 = 0 ∧ fld w 3 5 = 0 ∧ fld w 14 5 = 0 then some (.oxpage (fld w 19 5) (fld w 8 6) (fld w 1 2))
    else none
  | 0xCA => if fld w 0 8 = 0 then some (.coll (fld w 19 5) (fld w 14 5) (fld w 8 6))
    else none
  | _ => none

/-- The H map (f12 R312). -/
def rawH (w : Word) : Option Instr :=
  match (fld w 24 8).toNat with
  | 0x81 => if fld w 0 24 = 0 then some .hnext
    else none
  | 0x82 => if fld w 0 12 = 0 ∧ fld w 18 6 = 0 then some (.hldl (fld w 12 6))
    else none
  | 0x83 => if fld w 0 12 = 0 ∧ fld w 18 6 = 0 then some (.hstl (fld w 12 6))
    else none
  | 0x84 => some (.hcmp (fld w 18 6) (fld w 12 6) (fld w 6 6) (fld w 0 6))
  | 0x85 => if fld w 18 6 = 0 then some (.haddl (fld w 12 6) (fld w 0 12))
    else none
  | 0x86 => if fld w 0 6 = 0 ∧ fld w 18 6 = 0 then some (.hreply (fld w 12 6) (fld w 6 6))
    else none
  | 0x87 => if fld w 18 6 = 0 then some (.hstage (fld w 12 6) (fld w 6 6) (fld w 0 6))
    else none
  | 0x88 => if fld w 0 12 = 0 ∧ fld w 18 6 = 0 then some (.hcommit (fld w 12 6))
    else none
  | _ => none

/-- The Virbel words of the Mule (f09 R244). -/
def rawVirbel (w : Word) : Option Instr :=
  match (fld w 12 3).toNat with
  | 0x00 => if fld w 0 7 = 11 ∧ fld w 25 7 = 0 then some (.vbRfetch (fld w 20 5) (fld w 15 5) (fld w 7 5))
    else none
  | 0x01 => if fld w 0 7 = 11 ∧ fld w 25 7 = 0 then some (.vbBfx (fld w 20 5) (fld w 15 5) (fld w 7 5))
    else none
  | 0x02 => if fld w 0 7 = 11 ∧ fld w 25 7 = 0 then some (.vbSigwait (fld w 20 5) (fld w 15 5) (fld w 7 5))
    else none
  | 0x03 => if fld w 0 7 = 11 ∧ fld w 25 7 = 0 then some (.vbDispatch (fld w 20 5) (fld w 15 5) (fld w 7 5))
    else none
  | _ => none

/-- Only a well-formed instruction is accepted: any other word is illegal (f12 R316). -/
def checked (o : Option Instr) : Option Instr :=
  match o with
  | some i => if i.wellFormed then some i else none
  | none => none

/-- The decoder of one map. -/
def decode (k : MapKind) (w : Word) : Option Instr :=
  checked (match k with
    | .common => rawCommon w
    | .sPriv => rawS w
    | .vMap => rawV w
    | .xMap => rawX w
    | .tMap => rawT w
    | .hMap => rawH w
    | .virbel => rawVirbel w)

/-- A word in slot position 0 S, 1 V, 2 X, 3 T (f12 R304): bit 31 selects the map; a common word only in the S slot, and
never a header. -/
def decodeSlot (slot : Nat) (w : Word) : Option Instr :=
  if fld w 31 1 = 0 then
    if slot = 0 ∧ fld w 24 7 ≠ 0x7F then decode .common w else none
  else
    match slot with
    | 0 => decode .sPriv w
    | 1 => decode .vMap w
    | 2 => decode .xMap w
    | 3 => decode .tMap w
    | _ => none

/-- A header word (f12 R304): BNDL with op 0x7F. -/
def decodeHeader (w : Word) : Option Instr :=
  if fld w 24 8 = 0x7F then decode .common w else none

/-- A word of Hen code (f12 R305). LOOP, CINC, CSETB, CRESTR, RDCSR, WRCSR, TRAP, CLRT and BNDL are illegal there. -/
def decodeHen (w : Word) : Option Instr :=
  if fld w 31 1 = 1 then decode .hMap w
  else if (fld w 24 7).toNat ∈ [0x15, 0x16, 0x17, 0x18, 0x23, 0x24, 0x2A, 0x38, 0x7F] then none
  else decode .common w

/-- A word of the Mule: the four Virbel instructions (f09 R244). -/
def decodeMule (w : Word) : Option Instr := if fld w 0 7 = 0x0B ∧ fld w 25 7 = 0 then decode .virbel w else none

/-- Four bytes, the lowest address first, as one word (f01 R3). -/
def wordOfBytes (b0 b1 b2 b3 : Byte) : Word := b3 ++ b2 ++ b1 ++ b0

/-- Byte k of a word. -/
def byteOfWord (w : Word) (k : Nat) : Byte := w.extractLsb' (8 * k) 8

/-- The map a bare word is read in when no position is given: the first of header and common, H, S-private, T, X, V and
Virbel that accepts it (DESIGN CHOICE, log entry 16: the table lists the six maps side by side, and one word can stand in
several). -/
def anyMap (w : Word) : Option (MapKind × Instr) :=
  [MapKind.common, .hMap, .sPriv, .tMap, .xMap, .vMap, .virbel].findSome? fun k => (decode k w).map fun i => (k, i)

/-- An instruction from bytes as they lie in memory, and the bytes behind it. -/
def decodeBytes : List Byte → Option (Instr × List Byte)
  | b0 :: b1 :: b2 :: b3 :: t => (anyMap (wordOfBytes b0 b1 b2 b3)).map fun p => (p.2, t)
  | _ => none

/-- The instruction the decoder reads from a word numbered as the opcode table numbers it. -/
def decodeTableWord (nbits w : Nat) : Option Instr :=
  let v : Word := BitVec.ofNat 32 w
  if nbits = 32 ∧ w < 2 ^ 32 then
    (decodeBytes [byteOfWord v 0, byteOfWord v 1, byteOfWord v 2, byteOfWord v 3]).map (·.1)
  else none

/-- The word of an instruction, from the encoding tables of f12; a step without a word has none. -/
def encode : Instr → Option Word
  | .bndl d s f l m => some (0x7F#8 ++ d ++ s ++ f ++ l ++ 0x0#8 ++ m)
  | .nop => some (0x0#32)
  | .add d a b => some (0x1#8 ++ d ++ a ++ b ++ 0x0#6)
  | .sub d a b => some (0x2#8 ++ d ++ a ++ b ++ 0x0#6)
  | .mul d a b => some (0x3#8 ++ d ++ a ++ b ++ 0x0#6)
  | .mulh d a b => some (0x4#8 ++ d ++ a ++ b ++ 0x0#6)
  | .div d a b => some (0x5#8 ++ d ++ a ++ b ++ 0x0#6)
  | .rem d a b => some (0x6#8 ++ d ++ a ++ b ++ 0x0#6)
  | .and_ d a b => some (0x7#8 ++ d ++ a ++ b ++ 0x0#6)
  | .or_ d a b => some (0x8#8 ++ d ++ a ++ b ++ 0x0#6)
  | .xor_ d a b => some (0x9#8 ++ d ++ a ++ b ++ 0x0#6)
  | .shl d a b => some (0xA#8 ++ d ++ a ++ b ++ 0x0#6)
  | .shr d a b => some (0xB#8 ++ d ++ a ++ b ++ 0x0#6)
  | .sar d a b => some (0xC#8 ++ d ++ a ++ b ++ 0x0#6)
  | .min d a b => some (0xD#8 ++ d ++ a ++ b ++ 0x0#6)
  | .max d a b => some (0xE#8 ++ d ++ a ++ b ++ 0x0#6)
  | .slt d a b => some (0xF#8 ++ d ++ a ++ b ++ 0x0#6)
  | .sel d a b x => some (0x10#8 ++ d ++ a ++ b ++ x)
  | .clz d a => some (0x11#8 ++ d ++ a ++ 0x0#12)
  | .popc d a => some (0x12#8 ++ d ++ a ++ 0x0#12)
  | .agen d a b x => some (0x13#8 ++ d ++ a ++ b ++ x)
  | .getcycGclk d => some (0x14#8 ++ d ++ 0x0#18)
  | .getcycVclk d => some (0x14#8 ++ d ++ 0x1#18)
  | .cinc d a b => some (0x15#8 ++ d ++ a ++ b ++ 0x0#6)
  | .csetb d a b => some (0x16#8 ++ d ++ a ++ b ++ 0x0#6)
  | .crestr d a b => some (0x17#8 ++ d ++ a ++ b ++ 0x0#6)
  | .clrt d a b x => some (0x18#8 ++ d ++ a ++ b ++ x)
  | .addi d a i => some (0x20#8 ++ d ++ a ++ i)
  | .bfx d a l w => some (0x21#8 ++ d ++ a ++ l ++ w)
  | .bfi d a l w => some (0x22#8 ++ d ++ a ++ l ++ w)
  | .rdcsr d c => some (0x23#8 ++ d ++ 0x0#6 ++ c)
  | .wrcsr a c => some (0x900#14 ++ a ++ c)
  | .movi d h i => some (0x28#8 ++ d ++ h ++ i)
  | .movhi d h i => some (0x29#8 ++ d ++ h ++ i)
  | .trap i => some (0x2A00#16 ++ i)
  | .br a c o => some (0x30#8 ++ a ++ c ++ o)
  | .jmp o => some (0x6200#17 ++ o)
  | .call a o => some (0x32#8 ++ a ++ 0x0#3 ++ o)
  | .ret a => some (0x33#8 ++ a ++ 0x0#18)
  | .loopImm l n c => some (0x38#8 ++ l ++ n ++ 0x0#1 ++ c)
  | .loopReg l n r => some (0x38#8 ++ l ++ n ++ 0x80#8 ++ r)
  | .lds d a b x => some (0x81#8 ++ d ++ a ++ b ++ x)
  | .sts d a b x => some (0x82#8 ++ d ++ a ++ b ++ x)
  | .sfadd d a b => some (0x88#8 ++ d ++ a ++ b ++ 0x0#6)
  | .sfmul d a b => some (0x89#8 ++ d ++ a ++ b ++ 0x0#6)
  | .sfma d a b x => some (0x8A#8 ++ d ++ a ++ b ++ x)
  | .sfcmp d a b x => some (0x8B#8 ++ d ++ a ++ b ++ x)
  | .sfcvt d a x => some (0x8C#8 ++ d ++ a ++ 0x0#6 ++ x)
  | .sdot4 d a b x => some (0x90#8 ++ d ++ a ++ b ++ x)
  | .exit n => some (0xA0000#20 ++ n)
  | .sstep => some (0xA1000000#32)
  | .sstepM n => some (0x142001#21 ++ n)
  | .svcNull => some (0xA2000000#32)
  | .svcHostev => some (0xA2000001#32)
  | .svcSnapshot => some (0xA2000002#32)
  | .svcLinkgen => some (0xA2000003#32)
  | .wqpop d a q => some (0xA8#8 ++ d ++ a ++ 0x0#10 ++ q)
  | .wqwait q => some (0x2A400000#30 ++ q)
  | .vadd z d a b g t => some (0x40#7 ++ z ++ d ++ a ++ b ++ g ++ t)
  | .vsub z d a b g t => some (0x41#7 ++ z ++ d ++ a ++ b ++ g ++ t)
  | .vmul z d a b g t => some (0x42#7 ++ z ++ d ++ a ++ b ++ g ++ t)
  | .vfma z d a b g t => some (0x43#7 ++ z ++ d ++ a ++ b ++ g ++ t)
  | .vmin z d a b g t => some (0x44#7 ++ z ++ d ++ a ++ b ++ g ++ t)
  | .vmax z d a b g t => some (0x45#7 ++ z ++ d ++ a ++ b ++ g ++ t)
  | .vabs z d a g t => some (0x46#7 ++ z ++ d ++ a ++ 0x0#6 ++ g ++ t)
  | .vand z d a b g t => some (0x47#7 ++ z ++ d ++ a ++ b ++ g ++ t)
  | .vor z d a b g t => some (0x48#7 ++ z ++ d ++ a ++ b ++ g ++ t)
  | .vxor z d a b g t => some (0x49#7 ++ z ++ d ++ a ++ b ++ g ++ t)
  | .vshl z d a b g t => some (0x4A#7 ++ z ++ d ++ a ++ b ++ g ++ t)
  | .vshr z d a b g t => some (0x4B#7 ++ z ++ d ++ a ++ b ++ g ++ t)
  | .vsar z d a b g t => some (0x4C#7 ++ z ++ d ++ a ++ b ++ g ++ t)
  | .vcmpEq p a b g t => some (0x9A#8 ++ p ++ a ++ b ++ g ++ t)
  | .vcmpNe p a b g t => some (0x9B#8 ++ p ++ a ++ b ++ g ++ t)
  | .vcmpLt p a b g t => some (0x9C#8 ++ p ++ a ++ b ++ g ++ t)
  | .vcmpLe p a b g t => some (0x9D#8 ++ p ++ a ++ b ++ g ++ t)
  | .vsel d a b s => some (0x9E#8 ++ d ++ a ++ b ++ s ++ 0x0#2)
  | .vaddH16 z d a b g => some (0x50#7 ++ z ++ d ++ a ++ b ++ g ++ 0x2#2)
  | .vaddB16 z d a b g => some (0x51#7 ++ z ++ d ++ a ++ b ++ g ++ 0x2#2)
  | .vsubH16 z d a b g => some (0x52#7 ++ z ++ d ++ a ++ b ++ g ++ 0x2#2)
  | .vsubB16 z d a b g => some (0x53#7 ++ z ++ d ++ a ++ b ++ g ++ 0x2#2)
  | .vmulH16 z d a b g => some (0x54#7 ++ z ++ d ++ a ++ b ++ g ++ 0x2#2)
  | .vmulB16 z d a b g => some (0x55#7 ++ z ++ d ++ a ++ b ++ g ++ 0x2#2)
  | .vfmaH16 z d a b g => some (0x56#7 ++ z ++ d ++ a ++ b ++ g ++ 0x2#2)
  | .vfmaB16 z d a b g => some (0x57#7 ++ z ++ d ++ a ++ b ++ g ++ 0x2#2)
  | .vminH16 z d a b g => some (0x58#7 ++ z ++ d ++ a ++ b ++ g ++ 0x2#2)
  | .vminB16 z d a b g => some (0x59#7 ++ z ++ d ++ a ++ b ++ g ++ 0x2#2)
  | .vmaxH16 z d a b g => some (0x5A#7 ++ z ++ d ++ a ++ b ++ g ++ 0x2#2)
  | .vmaxB16 z d a b g => some (0x5B#7 ++ z ++ d ++ a ++ b ++ g ++ 0x2#2)
  | .vcvt z d a c g => some (0x5C#7 ++ z ++ d ++ a ++ c ++ g ++ 0x0#2)
  | .vsf z d a f g => some (0x5D#7 ++ z ++ d ++ a ++ f ++ g ++ 0x0#2)
  | .vrotr z d a b g => some (0x5E#7 ++ z ++ d ++ a ++ b ++ g ++ 0x0#2)
  | .vrotc z d a b g => some (0x5F#7 ++ z ++ d ++ a ++ b ++ g ++ 0x0#2)
  | .vbcr z d a c g => some (0x60#7 ++ z ++ d ++ a ++ c ++ g ++ 0x0#2)
  | .vbcc z d a r g => some (0x61#7 ++ z ++ d ++ a ++ r ++ g ++ 0x0#2)
  | .vredr z d a o g t => some (0x62#7 ++ z ++ d ++ a ++ o ++ g ++ t)
  | .vredc z d a o g t => some (0x63#7 ++ z ++ d ++ a ++ o ++ g ++ t)
  | .vcomp z d a m => some (0x64#7 ++ z ++ d ++ a ++ 0x0#6 ++ m ++ 0x0#2)
  | .vexpd z d a m => some (0x65#7 ++ z ++ d ++ a ++ 0x0#6 ++ m ++ 0x0#2)
  | .vslup z d a b g => some (0x66#7 ++ z ++ d ++ a ++ b ++ g ++ 0x0#2)
  | .vsldn z d a b g => some (0x67#7 ++ z ++ d ++ a ++ b ++ g ++ 0x0#2)
  | .vperm z d a b g => some (0x68#7 ++ z ++ d ++ a ++ b ++ g ++ 0x0#2)
  | .vmov z d a g => some (0x69#7 ++ z ++ d ++ a ++ 0x0#6 ++ g ++ 0x0#2)
  | .vsplati z d i g t => some (0x6A#7 ++ z ++ d ++ i ++ g ++ t)
  | .vsplats z d a g t => some (0x6B#7 ++ z ++ d ++ a ++ 0x0#6 ++ g ++ t)
  | .vget d a b => some (0xD8#8 ++ d ++ a ++ b ++ 0x0#6)
  | .vput d a b => some (0xDA#8 ++ d ++ a ++ b ++ 0x0#6)
  | .vmmul z d a b g k => some (0x6E#7 ++ z ++ d ++ a ++ b ++ g ++ k)
  | .vmadd z d a b g k => some (0x6F#7 ++ z ++ d ++ a ++ b ++ g ++ k)
  | .vmsub z d a b g k => some (0x70#7 ++ z ++ d ++ a ++ b ++ g ++ k)
  | .vmred z d a g k => some (0x71#7 ++ z ++ d ++ a ++ 0x0#6 ++ g ++ k)
  | .vbfly z d a b g k => some (0x72#7 ++ z ++ d ++ a ++ b ++ g ++ k)
  | .vbflyGs z d a b g k => some (0x73#7 ++ z ++ d ++ a ++ b ++ g ++ k)
  | .vnttp z d a s g => some (0x74#7 ++ z ++ d ++ a ++ s ++ g ++ 0x0#2)
  | .vrng z d b g => some (0x75#7 ++ z ++ d ++ 0x0#6 ++ b ++ g ++ 0x0#2)
  | .vlnmul z d a b g => some (0x76#7 ++ z ++ d ++ a ++ b ++ g ++ 0x0#2)
  | .vlnadd z d a b g => some (0x77#7 ++ z ++ d ++ a ++ b ++ g ++ 0x0#2)
  | .vmqset a b k => some (0x3C00#14 ++ a ++ b ++ 0x0#4 ++ k)
  | .pand d a b e f g => some (0xF2#8 ++ d ++ a ++ b ++ e ++ f ++ g ++ 0x0#3)
  | .por d a b e f g => some (0xF2#8 ++ d ++ a ++ b ++ e ++ f ++ g ++ 0x1#3)
  | .pxor d a b e f g => some (0xF2#8 ++ d ++ a ++ b ++ e ++ f ++ g ++ 0x2#3)
  | .pnot d a e f => some (0xF2#8 ++ d ++ a ++ 0x0#6 ++ e ++ f ++ 0x3#4)
  | .pcnt d a f => some (0xF4#8 ++ d ++ a ++ 0x0#7 ++ f ++ 0x0#4)
  | .pfirst d a f => some (0xF6#8 ++ d ++ a ++ 0x0#7 ++ f ++ 0x0#4)
  | .pset d n e => some (0xF8#8 ++ d ++ n ++ e ++ 0x0#5)
  | .mma c a b f => some (0x90#8 ++ c ++ a ++ b ++ f)
  | .mmaRs c a b f => some (0x91#8 ++ c ++ a ++ b ++ f)
  | .mmas c a b f => some (0x92#8 ++ c ++ a ++ b ++ f)
  | .mmasRs c a b f => some (0x93#8 ++ c ++ a ++ b ++ f)
  | .mzero c => some (0x98#8 ++ c ++ 0x0#16)
  | .mload c a => some (0x99#8 ++ c ++ a ++ 0x0#10)
  | .mdrain c a b f => some (0x9A#8 ++ c ++ a ++ b ++ f)
  | .mdrains c a b f => some (0x9B#8 ++ c ++ a ++ b ++ f)
  | .mlease => some (0x9E000000#32)
  | .mfree => some (0x9F000000#32)
  | .vld r c k p => some (0x80#8 ++ r ++ c ++ k ++ p)
  | .vst r c k p => some (0x81#8 ++ r ++ c ++ k ++ p)
  | .vldx r c k p => some (0x82#8 ++ r ++ c ++ k ++ p)
  | .vstx r c k p => some (0x83#8 ++ r ++ c ++ k ++ p)
  | .pld r c k h => some (0x84#8 ++ r ++ c ++ k ++ h ++ 0x0#6)
  | .pst r c k h => some (0x85#8 ++ r ++ c ++ k ++ h ++ 0x0#6)
  | .ldc r c k g => some (0x88#8 ++ r ++ c ++ k ++ 0x0#2 ++ g)
  | .cld r c k i => some (0x89#8 ++ r ++ c ++ k ++ i)
  | .cst r c k i => some (0x8A#8 ++ r ++ c ++ k ++ i)
  | .qbbind r h => some (0x90#8 ++ r ++ 0x0#14 ++ h)
  | .qbwait k h => some (0x48800#19 ++ k ++ 0x0#3 ++ h)
  | .qbwaitE k h => some (0x48800#19 ++ k ++ 0x1#3 ++ h)
  | .qbtake k h => some (0x49000#19 ++ k ++ 0x0#3 ++ h)
  | .qbgive k h => some (0x49800#19 ++ k ++ 0x0#3 ++ h)
  | .semwait r s t => some (0x98#8 ++ r ++ 0x0#3 ++ s ++ t)
  | .semsig s n => some (0x13200#17 ++ s ++ n)
  | .syncarm r c k i => some (0x9A#8 ++ r ++ c ++ k ++ i)
  | .syncwait r c k i => some (0x9B#8 ++ r ++ c ++ k ++ i)
  | .fence g q => some (0x5000000#27 ++ g ++ q)
  | .join => some (0xA1000000#32)
  | .acq c => some (0x2880#14 ++ c ++ 0x0#13)
  | .rel c => some (0x28C0#14 ++ c ++ 0x0#13)
  | .bind r c k => some (0xA4#8 ++ r ++ c ++ 0x0#1 ++ k ++ 0x0#7)
  | .wsseal r c s => some (0xA8#8 ++ r ++ c ++ 0x0#12 ++ s)
  | .oxcopy d s p q t => some (0xC0#8 ++ d ++ s ++ p ++ 0x0#5 ++ q ++ t)
  | .oxgath d s p q t => some (0xC1#8 ++ d ++ s ++ p ++ 0x0#5 ++ q ++ t)
  | .oxscat d s p q t => some (0xC2#8 ++ d ++ s ++ p ++ 0x0#5 ++ q ++ t)
  | .oxfill d p q t => some (0xC3#8 ++ d ++ 0x0#5 ++ p ++ 0x0#5 ++ q ++ t)
  | .oxacc d s p o q => some (0xC4#8 ++ d ++ s ++ p ++ 0x0#4 ++ o ++ q ++ 0x0#1)
  | .oxcas d s p q => some (0xC5#8 ++ d ++ s ++ p ++ 0x0#5 ++ q ++ 0x0#1)
  | .oxenq d p q => some (0xC6#8 ++ d ++ 0x0#5 ++ p ++ 0x0#5 ++ q ++ 0x0#1)
  | .oxchase d s p q => some (0xC7#8 ++ d ++ s ++ p ++ 0x0#5 ++ q ++ 0x0#1)
  | .oxhen d s p o q => some (0xC8#8 ++ d ++ s ++ p ++ 0x0#4 ++ o ++ q ++ 0x0#1)
  | .oxpage d p q => some (0xC9#8 ++ d ++ 0x0#5 ++ p ++ 0x0#5 ++ q ++ 0x0#1)
  | .coll d s p => some (0xCA#8 ++ d ++ s ++ p ++ 0x0#8)
  | .hnext => some (0x81000000#32)
  | .hldl a => some (0x2080#14 ++ a ++ 0x0#12)
  | .hstl a => some (0x20C0#14 ++ a ++ 0x0#12)
  | .hcmp d a b x => some (0x84#8 ++ d ++ a ++ b ++ x)
  | .haddl a t => some (0x2140#14 ++ a ++ t)
  | .hreply a b => some (0x2180#14 ++ a ++ b ++ 0x0#6)
  | .hstage a b x => some (0x21C0#14 ++ a ++ b ++ x)
  | .hcommit a => some (0x2200#14 ++ a ++ 0x0#12)
  | .vbRfetch s a d => some (0x0#7 ++ s ++ a ++ 0x0#3 ++ d ++ 0xB#7)
  | .vbBfx s a d => some (0x0#7 ++ s ++ a ++ 0x1#3 ++ d ++ 0xB#7)
  | .vbSigwait s a d => some (0x0#7 ++ s ++ a ++ 0x2#3 ++ d ++ 0xB#7)
  | .vbDispatch s a d => some (0x0#7 ++ s ++ a ++ 0x3#3 ++ d ++ 0xB#7)
  | .svcComplete _ => none
  | .wqwaitComplete _ => none
  | .leaseGrant _ => none
  | .ldcArrival _ => none
  | .qbwaitComplete _ => none
  | .qbVisibleUpdate _ => none
  | .semwaitServed _ => none
  | .semwaitTimeout _ => none
  | .semsigApply _ => none
  | .syncwaitComplete _ => none
  | .joinComplete _ => none
  | .gateGrant _ => none
  | .gateRelease _ => none
  | .bindAnswer _ => none
  | .wssealAnswer _ => none
  | .timedPerform _ => none
  | .syncMeeting _ _ => none
  | .mstepArrival _ => none
  | .barrierRelease _ => none
  | .barrierMessage _ _ => none
  | .strandEnd _ => none
  | .timetableStop _ => none
  | .oxJobStart _ _ => none
  | .oxJobFinish _ => none
  | .henRequest _ => none
  | .retransmitTimeout _ => none
  | .priResponse _ _ _ => none
  | .extentResident _ _ _ => none
  | .extentMigrate _ _ _ _ => none
  | .collStart _ => none
  | .collComplete _ => none
  | .collTimeout _ _ => none
  | .abort _ _ _ _ => none
  | .holdSend _ => none
  | .hold _ _ => none
  | .membershipAgree _ _ => none
  | .recordInstall _ => none
  | .linkFrame _ _ => none
  | .bridgeFlit _ _ _ _ _ => none
  | .routerFlit _ _ _ => none
  | .linkLoss _ => none
  | .linkTraining _ _ => none
  | .alignExchange _ _ _ _ => none
  | .counterHold => none
  | .alignloss => none
  | .gclkLoad => none
  | .tokenWindow => none
  | .refreshWindow => none
  | .machineCheck _ _ _ => none
  | .scrubError _ => none
  | .admitNext => none
  | .compactionUpdate => none
  | .compactTimeout => none
  | .ageRaise _ => none
  | .preemptRequest _ _ => none
  | .saveCommit _ => none
  | .victimVacated _ => none
  | .preemptCancel _ => none
  | .placeTableWrite _ _ => none
  | .kick _ _ _ => none
  | .launchWrite _ _ _ => none
  | .enable _ _ => none
  | .pause _ _ => none
  | .resume _ _ => none
  | .reset _ _ => none
  | .cqheadWrite _ _ _ => none
  | .registerWrite _ _ _ _ => none
  | .regGraph _ _ _ => none
  | .launch _ _ => none
  | .feed _ _ _ _ _ _ => none
  | .mapObjCreate _ _ _ _ _ _ _ _ => none
  | .mapObjResize _ _ _ _ => none
  | .mapObjFree _ _ _ => none
  | .mapObjDerive _ _ _ _ _ _ _ => none
  | .copy _ _ _ _ _ _ => none
  | .wsLoad _ _ _ _ _ _ => none
  | .signalHostEvent _ _ _ => none
  | .signalSemaphore _ _ _ _ _ _ => none
  | .wait _ _ _ _ => none
  | .waitRelease _ _ => none
  | .waitTimeout _ _ => none
  | .meter _ _ => none
  | .resetQ _ _ => none
  | .deregGraph _ _ => none
  | .muleRestart => none
  | .tenantCreate _ => none
  | .tenantTeardown _ => none
  | .tdiError _ => none
  | .getVersion _ => none
  | .getCapabilities _ => none
  | .negotiateAlgorithms _ _ _ => none
  | .getDigests _ => none
  | .getCertificate _ _ _ => none
  | .challenge _ _ => none
  | .getMeasurements _ _ => none
  | .keyExchange _ _ => none
  | .selectTenant _ _ => none
  | .lifecycleRead => none
  | .provision => none
  | .claim _ => none
  | .return_ _ _ => none
  | .coldReset _ _ => none
  | .configRequest => none
  | .tenantTurn _ => none
  | .eviction _ _ _ => none
  | .sigwaitWake _ => none
  | .tdispMessage _ _ => none
  | .atsInvalidation _ _ => none
  | .spdmSessionMessage _ _ => none

/-- The map an instruction word belongs to. -/
def Instr.mapKind : Instr → Option MapKind
  | .bndl _ _ _ _ _ => some .common
  | .nop => some .common
  | .add _ _ _ => some .common
  | .sub _ _ _ => some .common
  | .mul _ _ _ => some .common
  | .mulh _ _ _ => some .common
  | .div _ _ _ => some .common
  | .rem _ _ _ => some .common
  | .and_ _ _ _ => some .common
  | .or_ _ _ _ => some .common
  | .xor_ _ _ _ => some .common
  | .shl _ _ _ => some .common
  | .shr _ _ _ => some .common
  | .sar _ _ _ => some .common
  | .min _ _ _ => some .common
  | .max _ _ _ => some .common
  | .slt _ _ _ => some .common
  | .sel _ _ _ _ => some .common
  | .clz _ _ => some .common
  | .popc _ _ => some .common
  | .agen _ _ _ _ => some .common
  | .getcycGclk _ => some .common
  | .getcycVclk _ => some .common
  | .cinc _ _ _ => some .common
  | .csetb _ _ _ => some .common
  | .crestr _ _ _ => some .common
  | .clrt _ _ _ _ => some .common
  | .addi _ _ _ => some .common
  | .bfx _ _ _ _ => some .common
  | .bfi _ _ _ _ => some .common
  | .rdcsr _ _ => some .common
  | .wrcsr _ _ => some .common
  | .movi _ _ _ => some .common
  | .movhi _ _ _ => some .common
  | .trap _ => some .common
  | .br _ _ _ => some .common
  | .jmp _ => some .common
  | .call _ _ => some .common
  | .ret _ => some .common
  | .loopImm _ _ _ => some .common
  | .loopReg _ _ _ => some .common
  | .lds _ _ _ _ => some .sPriv
  | .sts _ _ _ _ => some .sPriv
  | .sfadd _ _ _ => some .sPriv
  | .sfmul _ _ _ => some .sPriv
  | .sfma _ _ _ _ => some .sPriv
  | .sfcmp _ _ _ _ => some .sPriv
  | .sfcvt _ _ _ => some .sPriv
  | .sdot4 _ _ _ _ => some .sPriv
  | .exit _ => some .sPriv
  | .sstep => some .sPriv
  | .sstepM _ => some .sPriv
  | .svcNull => some .sPriv
  | .svcHostev => some .sPriv
  | .svcSnapshot => some .sPriv
  | .svcLinkgen => some .sPriv
  | .wqpop _ _ _ => some .sPriv
  | .wqwait _ => some .sPriv
  | .vadd _ _ _ _ _ _ => some .vMap
  | .vsub _ _ _ _ _ _ => some .vMap
  | .vmul _ _ _ _ _ _ => some .vMap
  | .vfma _ _ _ _ _ _ => some .vMap
  | .vmin _ _ _ _ _ _ => some .vMap
  | .vmax _ _ _ _ _ _ => some .vMap
  | .vabs _ _ _ _ _ => some .vMap
  | .vand _ _ _ _ _ _ => some .vMap
  | .vor _ _ _ _ _ _ => some .vMap
  | .vxor _ _ _ _ _ _ => some .vMap
  | .vshl _ _ _ _ _ _ => some .vMap
  | .vshr _ _ _ _ _ _ => some .vMap
  | .vsar _ _ _ _ _ _ => some .vMap
  | .vcmpEq _ _ _ _ _ => some .vMap
  | .vcmpNe _ _ _ _ _ => some .vMap
  | .vcmpLt _ _ _ _ _ => some .vMap
  | .vcmpLe _ _ _ _ _ => some .vMap
  | .vsel _ _ _ _ => some .vMap
  | .vaddH16 _ _ _ _ _ => some .vMap
  | .vaddB16 _ _ _ _ _ => some .vMap
  | .vsubH16 _ _ _ _ _ => some .vMap
  | .vsubB16 _ _ _ _ _ => some .vMap
  | .vmulH16 _ _ _ _ _ => some .vMap
  | .vmulB16 _ _ _ _ _ => some .vMap
  | .vfmaH16 _ _ _ _ _ => some .vMap
  | .vfmaB16 _ _ _ _ _ => some .vMap
  | .vminH16 _ _ _ _ _ => some .vMap
  | .vminB16 _ _ _ _ _ => some .vMap
  | .vmaxH16 _ _ _ _ _ => some .vMap
  | .vmaxB16 _ _ _ _ _ => some .vMap
  | .vcvt _ _ _ _ _ => some .vMap
  | .vsf _ _ _ _ _ => some .vMap
  | .vrotr _ _ _ _ _ => some .vMap
  | .vrotc _ _ _ _ _ => some .vMap
  | .vbcr _ _ _ _ _ => some .vMap
  | .vbcc _ _ _ _ _ => some .vMap
  | .vredr _ _ _ _ _ _ => some .vMap
  | .vredc _ _ _ _ _ _ => some .vMap
  | .vcomp _ _ _ _ => some .vMap
  | .vexpd _ _ _ _ => some .vMap
  | .vslup _ _ _ _ _ => some .vMap
  | .vsldn _ _ _ _ _ => some .vMap
  | .vperm _ _ _ _ _ => some .vMap
  | .vmov _ _ _ _ => some .vMap
  | .vsplati _ _ _ _ _ => some .vMap
  | .vsplats _ _ _ _ _ => some .vMap
  | .vget _ _ _ => some .vMap
  | .vput _ _ _ => some .vMap
  | .vmmul _ _ _ _ _ _ => some .vMap
  | .vmadd _ _ _ _ _ _ => some .vMap
  | .vmsub _ _ _ _ _ _ => some .vMap
  | .vmred _ _ _ _ _ => some .vMap
  | .vbfly _ _ _ _ _ _ => some .vMap
  | .vbflyGs _ _ _ _ _ _ => some .vMap
  | .vnttp _ _ _ _ _ => some .vMap
  | .vrng _ _ _ _ => some .vMap
  | .vlnmul _ _ _ _ _ => some .vMap
  | .vlnadd _ _ _ _ _ => some .vMap
  | .vmqset _ _ _ => some .vMap
  | .pand _ _ _ _ _ _ => some .vMap
  | .por _ _ _ _ _ _ => some .vMap
  | .pxor _ _ _ _ _ _ => some .vMap
  | .pnot _ _ _ _ => some .vMap
  | .pcnt _ _ _ => some .vMap
  | .pfirst _ _ _ => some .vMap
  | .pset _ _ _ => some .vMap
  | .mma _ _ _ _ => some .xMap
  | .mmaRs _ _ _ _ => some .xMap
  | .mmas _ _ _ _ => some .xMap
  | .mmasRs _ _ _ _ => some .xMap
  | .mzero _ => some .xMap
  | .mload _ _ => some .xMap
  | .mdrain _ _ _ _ => some .xMap
  | .mdrains _ _ _ _ => some .xMap
  | .mlease => some .xMap
  | .mfree => some .xMap
  | .vld _ _ _ _ => some .tMap
  | .vst _ _ _ _ => some .tMap
  | .vldx _ _ _ _ => some .tMap
  | .vstx _ _ _ _ => some .tMap
  | .pld _ _ _ _ => some .tMap
  | .pst _ _ _ _ => some .tMap
  | .ldc _ _ _ _ => some .tMap
  | .cld _ _ _ _ => some .tMap
  | .cst _ _ _ _ => some .tMap
  | .qbbind _ _ => some .tMap
  | .qbwait _ _ => some .tMap
  | .qbwaitE _ _ => some .tMap
  | .qbtake _ _ => some .tMap
  | .qbgive _ _ => some .tMap
  | .semwait _ _ _ => some .tMap
  | .semsig _ _ => some .tMap
  | .syncarm _ _ _ _ => some .tMap
  | .syncwait _ _ _ _ => some .tMap
  | .fence _ _ => some .tMap
  | .join => some .tMap
  | .acq _ => some .tMap
  | .rel _ => some .tMap
  | .bind _ _ _ => some .tMap
  | .wsseal _ _ _ => some .tMap
  | .oxcopy _ _ _ _ _ => some .tMap
  | .oxgath _ _ _ _ _ => some .tMap
  | .oxscat _ _ _ _ _ => some .tMap
  | .oxfill _ _ _ _ => some .tMap
  | .oxacc _ _ _ _ _ => some .tMap
  | .oxcas _ _ _ _ => some .tMap
  | .oxenq _ _ _ => some .tMap
  | .oxchase _ _ _ _ => some .tMap
  | .oxhen _ _ _ _ _ => some .tMap
  | .oxpage _ _ _ => some .tMap
  | .coll _ _ _ => some .tMap
  | .hnext => some .hMap
  | .hldl _ => some .hMap
  | .hstl _ => some .hMap
  | .hcmp _ _ _ _ => some .hMap
  | .haddl _ _ => some .hMap
  | .hreply _ _ => some .hMap
  | .hstage _ _ _ => some .hMap
  | .hcommit _ => some .hMap
  | .vbRfetch _ _ _ => some .virbel
  | .vbBfx _ _ _ => some .virbel
  | .vbSigwait _ _ _ => some .virbel
  | .vbDispatch _ _ _ => some .virbel
  | .svcComplete _ => none
  | .wqwaitComplete _ => none
  | .leaseGrant _ => none
  | .ldcArrival _ => none
  | .qbwaitComplete _ => none
  | .qbVisibleUpdate _ => none
  | .semwaitServed _ => none
  | .semwaitTimeout _ => none
  | .semsigApply _ => none
  | .syncwaitComplete _ => none
  | .joinComplete _ => none
  | .gateGrant _ => none
  | .gateRelease _ => none
  | .bindAnswer _ => none
  | .wssealAnswer _ => none
  | .timedPerform _ => none
  | .syncMeeting _ _ => none
  | .mstepArrival _ => none
  | .barrierRelease _ => none
  | .barrierMessage _ _ => none
  | .strandEnd _ => none
  | .timetableStop _ => none
  | .oxJobStart _ _ => none
  | .oxJobFinish _ => none
  | .henRequest _ => none
  | .retransmitTimeout _ => none
  | .priResponse _ _ _ => none
  | .extentResident _ _ _ => none
  | .extentMigrate _ _ _ _ => none
  | .collStart _ => none
  | .collComplete _ => none
  | .collTimeout _ _ => none
  | .abort _ _ _ _ => none
  | .holdSend _ => none
  | .hold _ _ => none
  | .membershipAgree _ _ => none
  | .recordInstall _ => none
  | .linkFrame _ _ => none
  | .bridgeFlit _ _ _ _ _ => none
  | .routerFlit _ _ _ => none
  | .linkLoss _ => none
  | .linkTraining _ _ => none
  | .alignExchange _ _ _ _ => none
  | .counterHold => none
  | .alignloss => none
  | .gclkLoad => none
  | .tokenWindow => none
  | .refreshWindow => none
  | .machineCheck _ _ _ => none
  | .scrubError _ => none
  | .admitNext => none
  | .compactionUpdate => none
  | .compactTimeout => none
  | .ageRaise _ => none
  | .preemptRequest _ _ => none
  | .saveCommit _ => none
  | .victimVacated _ => none
  | .preemptCancel _ => none
  | .placeTableWrite _ _ => none
  | .kick _ _ _ => none
  | .launchWrite _ _ _ => none
  | .enable _ _ => none
  | .pause _ _ => none
  | .resume _ _ => none
  | .reset _ _ => none
  | .cqheadWrite _ _ _ => none
  | .registerWrite _ _ _ _ => none
  | .regGraph _ _ _ => none
  | .launch _ _ => none
  | .feed _ _ _ _ _ _ => none
  | .mapObjCreate _ _ _ _ _ _ _ _ => none
  | .mapObjResize _ _ _ _ => none
  | .mapObjFree _ _ _ => none
  | .mapObjDerive _ _ _ _ _ _ _ => none
  | .copy _ _ _ _ _ _ => none
  | .wsLoad _ _ _ _ _ _ => none
  | .signalHostEvent _ _ _ => none
  | .signalSemaphore _ _ _ _ _ _ => none
  | .wait _ _ _ _ => none
  | .waitRelease _ _ => none
  | .waitTimeout _ _ => none
  | .meter _ _ => none
  | .resetQ _ _ => none
  | .deregGraph _ _ => none
  | .muleRestart => none
  | .tenantCreate _ => none
  | .tenantTeardown _ => none
  | .tdiError _ => none
  | .getVersion _ => none
  | .getCapabilities _ => none
  | .negotiateAlgorithms _ _ _ => none
  | .getDigests _ => none
  | .getCertificate _ _ _ => none
  | .challenge _ _ => none
  | .getMeasurements _ _ => none
  | .keyExchange _ _ => none
  | .selectTenant _ _ => none
  | .lifecycleRead => none
  | .provision => none
  | .claim _ => none
  | .return_ _ _ => none
  | .coldReset _ _ => none
  | .configRequest => none
  | .tenantTurn _ => none
  | .eviction _ _ _ => none
  | .sigwaitWake _ => none
  | .tdispMessage _ _ => none
  | .atsInvalidation _ _ => none
  | .spdmSessionMessage _ _ => none

end Sys2Proof
end

