-- ==== Sys2Proof/Config.lean ====
section
/-! DEFINITION. What one implementation fixes and what the spec leaves open (free values: constants with no body). -/
namespace Sys2Proof.Config

/-- DESIGN CHOICE (log entry 10): the free choices of the machine.  The k-th free choice of a run is `choose k`;
nothing constrains it.  Used where the spec leaves an order or a value open (f06 R150, R152). -/
opaque choose : Nat → Nat

/-- The free 64-bit value number k (log entry 10): a register result the spec does not state. -/
opaque freeD : Nat → BitVec 64

/-- The 128-bit sealing key of the k-th key generated (f04 R95: made by the root Mule, read by nobody). -/
opaque sealKey : Nat → BitVec 128

/-- SHA-384 as the spec uses it (f04 R250, f09 R254): a public standard, left as an opaque function of the bytes
(PRESUMED, log entry 14). -/
opaque sha384 : List (BitVec 8) → BitVec 384

/-- The device alias key that the boot ROM derives from the device identity key (its number, 0 for none) and the firmware image measured
(f09 R231, R256; DESIGN CHOICE, log entry 14). -/
opaque aliasKey : Nat → List (BitVec 8) → Nat

/-- ECDSA P-384 signature of a message under a device alias key (f09 R254, R231), opaque (PRESUMED, log entry 14). -/
opaque sign : Nat → List (BitVec 8) → BitVec 768

/-- Whether a signature supplied from outside verifies (f09 R256, R257; f10 R277). -/
opaque verify : List (BitVec 8) → List (BitVec 8) → Bool

/-- The certificate chain of a function's SPDM responder, which ends in the device alias key (f09 R231). -/
opaque certChain : Nat → Nat → List (BitVec 8)

/-- Responder values of SPDM the spec does not fix (nonces, exchange data), by request count (f09 R231). -/
opaque spdmBytes : Nat → List (BitVec 8)

/-- The fuse bits of measurement 0x04 and the digest of measurement 0x01 (f09 R255). -/
opaque measured : Nat → BitVec 384

/-- The latency of a timed Ox job whose source lies on another die and whose destination lies at home, by the route's hop
latency: f07 R177 has no row for it (DESIGN CHOICE, log entry 28). -/
opaque oxRemoteSource : Nat → Nat

/-- The place-table entry of a logical core of a pinned timetable, by its image and logical core: which packages a timetable
that spans packages has is said by no rule (DESIGN CHOICE, log entry 38). -/
opaque farPlace : BitVec 384 → Nat → BitVec 32

/-- The slot entry number `k` of a router's record in a route rebuilt over the live table, by image, logical die and router: the spec gives no
way routes are found (f02 R54; DESIGN CHOICE, log entry 137). -/
opaque rerouted : BitVec 384 → Nat → Nat → Nat → BitVec 32

/-- The route records (kind, logical die, unit, P, H, slots) of an M-step that lead over other links where a lost link has none in its stead, by
image, M-step and the live link table (f02 R54; DESIGN CHOICE, log entry 137). -/
opaque otherRoutes : BitVec 384 → Nat → List (Nat × Nat × Nat × Nat) → List (Nat × Nat × Nat × Nat × Nat × List (BitVec 32))

/-- Where an extent of an object that is moved to another package at a timetable's admission comes to lie there, as package, die, level and
offset in extents, or that there is no room: the other package's Mule says so (f04 R105; DESIGN CHOICE, log entry 138). -/
opaque farRoom : Nat → Nat → Nat → Nat → Bool
opaque farExtent : Nat → Nat → Nat → Nat → Nat

/-- The words of a core's code store that are a tenant's partition: the spec divides it by tenant and gives no sizes (f01 R10; DESIGN CHOICE, log
entry 161). -/
opaque codePart : Nat → Nat

/-- The unit (f10 R263) and instance in which an error is corrected on a gcy; unit 0 for none: what errors come is no rule's (DESIGN CHOICE, log
entry 155). -/
opaque softError : Nat → Nat × Nat

/-- Whether an image of another latency set can be re-timed, and the DELTA it gives the header at a word of a class: the spec
gives the figures of no other set (DESIGN CHOICE, log entry 48). -/
opaque retimes : BitVec 384 → Bool
opaque retimed : BitVec 384 → Nat → Nat → BitVec 8

/-- Latency (in vcy) that another latency set gives a word. f09 R247 step 3 speaks of it; the spec holds the set 0x0801 alone (log entry
48). -/
opaque latencyIn : BitVec 64 → BitVec 32 → Nat

/-- Result and flags of a floating-point word of RV64GC, by word, operands and rounding mode: f09 R244 names the instruction set, and IEEE 754
arithmetic is outside the spec (PRESUMED, log entry 59). -/
opaque fpu : BitVec 32 → BitVec 64 → BitVec 64 → BitVec 64 → BitVec 3 → BitVec 64 × BitVec 5

/-- What a 64-byte admission request of vb.dispatch names, as launch, node and class, and whether the weaver's order has room beside
so many requests: the spec gives neither (DESIGN CHOICE, log entry 57). -/
opaque requestOf : BitVec 512 → Nat × Nat × Nat
opaque orderRoom : Nat → Bool

end Sys2Proof.Config
end

