-- ==== Sys2Proof/Machine/SMap.lean ====
section
/-! DEFINITION. Sparse maps from Nat in one canonical form: keys strictly rising, no entry equal to the default. -/
namespace Sys2Proof.Machine

/-- A sparse map; what an unlisted key holds is the default given to `SMap.get` and `SMap.set`. -/
abbrev SMap (α : Type) := List (Nat × α)

namespace SMap

/-- The value at key `x`; `d` where nothing is listed. -/
def get {α : Type} (d : α) : SMap α → Nat → α
  | [], _ => d
  | e :: t, x => if x = e.1 then e.2 else get d t x

/-- Every entry at `k` taken out. -/
def erase {α : Type} (m : SMap α) (k : Nat) : SMap α := m.filter (fun e => e.1 != k)

/-- An entry put in behind the lower keys, in place of one with its own. -/
def insert {α : Type} (k : Nat) (v : α) : SMap α → SMap α
  | [] => [(k, v)]
  | e :: t => if e.1 < k then e :: insert k v t else (k, v) :: if e.1 = k then t else e :: t

/-- The map with `v` at `k`: writing the default takes the entry out, so equal maps are equal lists. -/
def set {α : Type} [DecidableEq α] (d : α) (m : SMap α) (k : Nat) (v : α) : SMap α :=
  if v = d then erase m k else insert k v m

/-- The map that holds `f i` at every `i < n`. -/
def ofFn {α : Type} [DecidableEq α] (d : α) (n : Nat) (f : Nat → α) : SMap α :=
  (List.range n).filterMap (fun i => if f i = d then none else some (i, f i))

/-- The canonical form, as a Bool. -/
def wf {α : Type} [DecidableEq α] (d : α) : SMap α → Bool
  | [] => true
  | e :: t => decide (e.2 ≠ d) && (t.all fun x => decide (e.1 < x.1)) && wf d t

/-- Every listed value changed by `f` (the default must be a fixed point for the form to be kept). -/
def mapVals {α : Type} (f : Nat → α → α) (m : SMap α) : SMap α := m.map (fun e => (e.1, f e.1 e.2))

/-- The listed keys, rising. -/
def keys {α : Type} (m : SMap α) : List Nat := m.map (·.1)

end SMap

end Sys2Proof.Machine
end

