-- ==== Sys2Proof/Machine/State.lean ====
section
/-! DEFINITION. The state of one TH-KZ8 package, as plain data: everything the spec names, and the model's own
scheduling fields.  INVENTORY.md lists each piece with the rule that names it and its reset value. -/
namespace Sys2Proof.Machine

/-- A vector register, modulus set or tile: 1024 lanes of 32 bits, the unlisted ones 0 (f01 R11). -/
abbrev VReg := SMap (BitVec 32)
/-- A predicate: 1024 bits, the unlisted ones 0 (f01 R11). -/
abbrev PReg := SMap Bool
/-- Bytes by 57-bit device address (f04 R101); an unlisted address reads 0 (f04 R117, R118; host half: log entry 4). -/
abbrev Memory := SMap Byte

/-- A capability register: the 128 bits of f04 R90, and whether it names the strand's own scratchpad window
(f04 R94, R107): the spec gives that window no object number (log entry 15). -/
structure Cap where
  bits : BitVec 128
  win  : Bool
  deriving DecidableEq, Repr

/-- The null capability (f04 R90). -/
def Cap.null : Cap := ⟨0, false⟩

/-- A queue-buffer descriptor (f07 R200) with both values of each pointer (f19 R389). -/
structure QB where
  prod  : BitVec 16
  cons  : BitVec 16
  vprod : BitVec 16
  vcons : BitVec 16
  nm1   : BitVec 12
  sz    : BitVec 5
  v     : Bool
  base  : BitVec 23
  deriving DecidableEq, Repr

/-- An unbound descriptor (f07 R200: zeroed at admission). -/
def QB.zero : QB := ⟨0, 0, 0, 0, 0, 0, false, 0⟩

/-- Where a timed load puts what it reads (f18 R348, R364; f19 R386; f20 R418, R419). `resid` names the predicate the
residency bits go to (none: not reported); `clear` is the VLDX and VSTX form of the report. -/
inductive LoadDst where
  | d (r : Nat) (taint : Bool)
  | v (r : Nat) (act : PReg) (resid : Option Nat) (clear : Bool)
  | p (r : Nat)
  | c (r creg off : Nat)
  deriving DecidableEq, Repr

/-- What lands at the end of a perform vcy (f03 R62).  Addresses are device addresses, translated at issue; `none` is a
byte of a non-resident extent (f04 R110).  `load`, `mmas` and `ox` are sampled first (f06 R149, f14 R327). -/
inductive Eff where
  | d (r : Nat) (v : BitVec 64) (taint : Bool)
  | clrt (mask : BitVec 64)
  | c (r : Nat) (v : Cap)
  | v (r : Nat) (mask : PReg) (val : VReg)
  /-- the bits of `mask` of each lane: a VCVT writes elements (f20 R415, R416) -/
  | vbits (r : Nat) (mask val : VReg)
  | p (r : Nat) (mask : PReg) (val : PReg)
  | mq (k : Nat) (val : VReg)
  | mb (k : Nat) (val : SMap (BitVec 64))
  | csr (n : Nat) (v : BitVec 64)
  | flags (bits : BitVec 8)
  | tile (t : Nat) (val : VReg)
  | rowsum (t : Nat) (val : VReg)
  | mma (t : Nat) (ft : BitVec 64) (a : VReg) (b : List VReg) (sc : VReg) (rs : Bool)
  | mmas (t : Nat) (ft : BitVec 64) (a : VReg) (issue occ : Nat) (lines : List (List (Option Nat)))
      (got : List (List Byte)) (sc : VReg) (rs : Bool)
  | store (bytes : List (Option Nat × Byte)) (resid : Option Nat) (clear : Bool) (lanes : List Nat)
  | load (dst : LoadDst) (addrs : List (Option Nat)) (got : Option (List Byte))
  | ox (dst : List (Option Nat)) (src : List (Option Nat)) (got : Option (List Byte)) (fixed : List (Option Byte))
      (sync : Option Nat) (rpred : Option Nat) (line : Nat)
  | qb (h : Nat) (q : QB)
  | arm (addr : Nat) (target : BitVec 64)
  | meter (idx n : Nat)
  deriving DecidableEq, Repr

/-- A write that has been issued and has not performed (f03 R62): the vcy at whose end it lands, the vcy at whose start
it samples memory, its slot class (0 S, 1 V, 2 X, 3 T) and issue order for f03 R63. -/
structure Pend where
  due  : Nat
  samp : Option Nat
  slot : Nat
  seq  : Nat
  eff  : Eff
  deriving DecidableEq, Repr

/-- The local waits of f03 R66 a strand can be frozen in; `done` has been answered and completes on the strand's next
vcy (f02 R25), performing its writes (f12 R319). -/
inductive Wait where
  | none
  | meet
  | lease
  | mlease
  | ldc (r : Nat) (cap : Cap) (o : Nat) (gate : Option Nat)
  | sem (r idx : Nat) (left : Option Nat)
  | sync (addr : Nat) (gen : BitVec 64)
  | qb (h : Nat) (e : Bool) (n : Nat)
  | join
  | acq (gate : Nat)
  | bind (r gate : Nat) (win : Option (Nat × Nat × Nat × Nat))
  /-- an ACQ (no register) or a BIND of a gate in a non-resident extent, held until it is resident (f04 R111) -/
  | held (cap : Cap) (bind : Option (Nat × Option (Nat × Nat × Nat × Nat)))
  | wsseal (r tenant obj : Nat) (wbase wlen : Nat) (st : Bool)
  | wq (q : Nat)
  | svc (n : Nat) (d61 d62 : BitVec 64) (taint : Bool)
  | exit (node : Option Nat)
  | barrier
  | refresh (until_ : Nat)
  | done (effs : List Eff)
  deriving DecidableEq, Repr

/-- An active hardware loop (f03 R72): its level, the word addresses of its first body bundle and of the bundle after
its last, its count and its step. -/
structure Loop where
  level : Nat
  first : Nat
  after : Nat
  count : BitVec 64
  step  : BitVec 64
  deriving DecidableEq, Repr

/-- How far an Ox job or a COLL has come (f07 R180, f08 R220). -/
inductive JobState where
  | queued | started | finished
  deriving DecidableEq, Repr

/-- An asynchronous Ox job (f07 R171..R180): its word's fields, its parameter block as read at issue, its capabilities
(C1 among them), the bundle it was issued in, and, once started, the pieces not yet performed (window offsets of the
destination and the source, or a constant), the Hen requests outstanding, the status, the host pages
it waits for, and the node an OXCHASE has come to with the hops made. -/
structure Job where
  id     : Nat
  sid    : Nat
  q      : Nat
  /-- the command word, as a queue image holds it (f10 R275) -/
  word   : BitVec 32
  op     : Nat
  ord    : Bool
  blk    : List (BitVec 64)
  cd     : Cap
  cs     : Cap
  c1     : Cap
  /-- the capability registers the word named -/
  kd     : Nat
  ks     : Nat
  taint  : Bool
  order  : Nat
  bundle : Nat
  st     : JobState
  pieces : List (List (Nat × Option Nat × Byte))
  hens   : Nat
  status : Nat
  /-- every byte is read before any is written (f07 R181) -/
  whole  : Bool
  wait   : List Nat
  node   : Nat
  hops   : Nat
  /-- issued again by the replay of a discarded step in which it had started: counted then (f09 R253) -/
  again  : Bool
  deriving DecidableEq, Repr

/-- No job. -/
def Job.none : Job where
  id := 0
  sid := 0
  q := 0
  word := 0
  op := 0
  ord := false
  blk := []
  cd := Cap.null
  cs := Cap.null
  c1 := Cap.null
  kd := 0
  ks := 0
  taint := false
  order := 0
  bundle := 0
  st := .finished
  pieces := []
  hens := 0
  status := 0
  whole := false
  wait := []
  node := 0
  hops := 0
  again := false

/-- A collective command waiting in a GQ (f18 R350). -/
structure CollCmd where
  word  : BitVec 32
  cd    : Cap
  cs    : Cap
  kd    : Nat
  ks    : Nat
  o     : Nat
  taint : Bool
  order : Nat
  bundle : Nat
  deriving DecidableEq, Repr

/-- An entry of an engine queue (f06 R152, R164): a job, a collective, or a marker with its number. -/
inductive QEnt where
  | job (j : Job)
  | coll (c : CollCmd)
  | marker (n : Nat)
  deriving DecidableEq, Repr

/-- One strand (f01 R11, f03, f12 R313).  Registers are sparse with default 0 (C: null; the QBs unbound). `csr` holds the
writable CSRs by their numbers; VCLK, FAULT and TAINT stand apart. -/
structure Strand where
  /-- 0 no strand here; 1 runs; 2 ended; 3 stopped; 4 suspended. -/
  life    : Nat
  psg     : Nat
  lcore   : Nat
  sib     : Nat
  cls     : Nat
  d       : SMap (BitVec 64)
  taint   : BitVec 64
  c       : SMap Cap
  v       : SMap VReg
  p       : SMap PReg
  mq      : SMap VReg
  mb      : SMap (SMap (BitVec 64))
  csr     : SMap (BitVec 64)
  fault   : BitVec 64
  qb      : SMap QB
  vclk    : Nat
  started : Bool
  /-- the strand ran a vcy on this gcy -/
  ran     : Bool
  /-- the strand has been taken up on this gcy -/
  begun   : Bool
  pc      : Nat
  bundle  : Nat
  slots   : List Nat
  slotPc  : Nat
  lastIss : Option Nat
  minGap  : Nat
  redir   : Option Nat
  loops   : List Loop
  met     : Bool
  wait    : Wait
  /-- further waits of the same bundle, taken up after the first -/
  more    : List Wait
  /-- writes of waits already answered, due with the last of them -/
  owed    : List Eff
  pend    : List Pend
  seq     : Nat
  occV    : Nat
  occT    : Nat
  oq      : SMap (List QEnt)
  markers : Nat
  order   : Nat
  qbheld  : List (Nat × Bool × Nat × Nat)
  /-- SEMSIGs to apply: semaphore, units, the vcy they wait for, the bundle that sent them -/
  sigs    : List (Nat × Nat × Nat × Nat)
  rels    : List (Nat × Nat × Nat)
  arrived : Option Nat
  /-- vcy frozen at the barrier it stands at that have been counted (f03 R68) -/
  barMet  : Nat
  leaves  : Option Nat
  sstep   : Nat
  node    : Option Nat
  halt    : Bool
  /-- suspended, or resumed and still to run its first vcy: the stride and phase it held at its stop point and the gcy of the stop (f09
  R252) -/
  susp    : Option (Nat × Nat × Nat)
  /-- the code address of the last safe point passed in this step (f10 R272) -/
  safeAt  : Option Nat
  /-- the first bundle of the step and the order number it found (f10 R271) -/
  stepPc  : Nat
  stepOrder : Nat
  /-- LC0..LC2 as the step found them -/
  stepLc  : List (BitVec 64)
  /-- one more than the vcy at which a discarded strand stopped, and the order numbers of the step's jobs that had started (f09 R253) -/
  replay  : Nat
  performed : List Nat
  /-- being discarded: it issues nothing and settles (f10 R270) -/
  skip    : Bool
  /-- FLAGS bits raised on this gcy, for f05 R120 -/
  raised  : BitVec 8
  /-- events of this gcy by ECSEL source, added at its end (f12 R315) -/
  events  : SMap Nat
  /-- ECSEL writes of this gcy, taken over at its end (f20 R430) -/
  ecsel   : List (Nat × BitVec 64)
  deriving DecidableEq, Repr

/-- A slot group with no strand, and what every strand of a timetable starts from (f04 R118, f12 R313): registers zero,
C1..C31 null, FTSEL with LCSEL 0b11 (f03 R77). -/
def Strand.blank : Strand where
  life := 0
  psg := 0
  lcore := 0
  sib := 0
  cls := 0
  d := []
  taint := 0
  c := []
  v := []
  p := []
  mq := []
  mb := []
  csr := [(0x020, 3)]
  fault := 0
  qb := []
  vclk := 0
  started := false
  ran := false
  begun := false
  pc := 0
  bundle := 0
  slots := []
  slotPc := 0
  lastIss := none
  minGap := 1
  redir := none
  loops := []
  met := false
  wait := .none
  more := []
  owed := []
  pend := []
  seq := 0
  occV := 0
  occT := 0
  oq := []
  markers := 0
  order := 0
  qbheld := []
  sigs := []
  rels := []
  arrived := none
  barMet := 0
  leaves := none
  sstep := 0
  node := none
  halt := false
  susp := none
  safeAt := none
  stepPc := 0
  stepOrder := 0
  stepLc := []
  replay := 0
  performed := []
  skip := false
  raised := 0
  events := []
  ecsel := []

/-- A live map of a safe point (f10 R274). -/
structure LiveMap where
  dmask : BitVec 64
  cmask : BitVec 32
  vmask : BitVec 48
  pmask : BitVec 128
  gap   : Nat
  tmask : BitVec 256
  bmask : BitVec 64
  deriving DecidableEq, Repr

/-- A route record of an M-step (f09 R246): resource kind, logical die, unit, P, H and the virtual slot entries. -/
structure Route where
  kind  : Nat
  ldie  : Nat
  unit  : Nat
  p     : Nat
  h     : Nat
  slots : List Word
  deriving DecidableEq, Repr

/-- An entry of the M-step table (f09 R246): length, sync words (logical core, offset / 32), routes. -/
structure MStep where
  len    : Nat
  syncs  : List (Nat × Nat)
  routes : List Route
  deriving DecidableEq, Repr

/-- A declared object (f09 R246, R434). -/
structure ObjDecl where
  creg  : Nat
  timed : Bool
  ldie  : Nat
  level : Nat
  minLen : Nat
  deriving DecidableEq, Repr

/-- A finalised image (f09 R246, R247). -/
structure Image where
  hash    : BitVec 384
  d       : Nat
  c       : Nat
  width   : Nat
  strides : BitVec 8
  elastic : Bool
  longc   : Nat
  code    : SMap (SMap Word)
  codeLen : SMap Nat
  classes : List Nat
  loops   : List (Nat × Nat × Nat)
  ft      : List (BitVec 64)
  safe    : List (Nat × Nat × LiveMap)
  objs    : List ObjDecl
  msteps  : List MStep
  restart : List Nat
  banks   : Nat
  tiles   : Nat
  sems    : Nat
  promise : Bool
  deriving DecidableEq, Repr

/-- No image: shape 1 × 1, width 1, nothing else. -/
def Image.none : Image :=
  ⟨0, 1, 1, 1, 0, false, 0, [], [], [], [], [], [], [], [], [], 0, 0, 0, true⟩

/-- A matrix lease of one core within a timetable (f03 R78..R80): the holder (strand key), commands left, the window it
ends with, the previous holder's slot group, and until which vcy of which strand the array is occupied. -/
structure Lease where
  holder : Option Nat
  left   : Nat
  window : Nat
  prev   : Nat
  busy   : List (Nat × Nat)
  /-- the first gcy on which it can be granted again after an MFREE or EXIT -/
  freed  : Nat
  deriving DecidableEq, Repr

/-- No lease held; at admission the previous holder is the highest slot group (f03 R80). -/
def Lease.free : Lease := ⟨none, 0, 0, 3, [], 0⟩

/-- A group record of the Goose (f08 R217): MGEN, members, link snapshot, its LGEN. -/
structure Group where
  mgen    : Nat
  members : List Nat
  links   : List LinkKey
  lgen    : Nat
  deriving DecidableEq, Repr

/-- Where the save area of a suspended timetable lies (f10 R275): its object in the tenant's table, and the live scratchpad banks it
holds, each by window key and the offset of its bytes; the GCLK of the save. The strands' own records, the tiles and the
semaphores stay with the timetable beside it (log entry 37). -/
structure Saved where
  obj    : Nat
  banks  : List (Nat × Nat)
  at_    : Nat
  /-- the strands the lease rotation of each core stood at -/
  rot    : List Nat
  deriving DecidableEq, Repr

/-- One timetable (f02, f03).  Strand k of it is strand key `tt · 2^32 + k`. -/
structure Timetable where
  /-- 0 none; 1 granted and running; 2 stopping; 3 suspended; 4 departed; 5 placed, waiting for its pair. -/
  life    : Nat
  tenant  : Nat
  launch  : Nat
  node    : Nat
  cls     : Nat
  img     : Image
  strides : BitVec 8
  elastic : Bool
  pin     : Option (Nat × Nat)
  stride  : Nat
  phase   : Nat
  t0      : Nat
  admitted : Nat
  place   : List Place
  runProm : Bool
  step    : Nat
  mstep   : Option Nat
  vcy0    : Nat
  start   : Option (Nat × Nat)
  last    : Nat
  /-- held at its barrier by compaction (f02 R41) -/
  held    : Bool
  /-- the start gcy it would have had without the hold (f02 R42) -/
  wouldBe : Option Nat
  /-- its start has been put off by a commit still to come (f06 R168) -/
  late    : Bool
  /-- a promotion found for its next SSTEP, and whether it is still considered (f02 R47) -/
  newPair : Option (Nat × Nat)
  rising  : Bool
  touched : List (Nat × Nat)
  gens    : List (BitVec 64)
  /-- an aligned package on its way has raised ALIGNLOSS in this M-step (f08 R215) -/
  lost    : Bool
  /-- the step in progress fails at its barrier: a sync meeting had to wait in it, or another package has failed it (f10 R262) -/
  failed  : Bool
  wq      : SMap (List (Nat × Slot))
  /-- records of each work queue taken on this gcy, dropped at its end -/
  wqTaken : SMap Nat
  sems    : SMap (BitVec 32)
  tiles   : SMap VReg
  rows    : SMap VReg
  leases  : SMap Lease
  /-- the leases as this gcy began (f19 R391) -/
  leasesWas : SMap Lease
  /-- timed Ox engines in use: engine, strand, the vcy of that strand at which it is free (f07 R178) -/
  oxbusy  : List (Nat × Nat × Nat)
  group   : Option Group
  pending : Option Group
  member  : Option Nat
  /-- a collective of the group has aborted here and the agreed record is not yet installed (f17 R333) -/
  aborted : Bool
  /-- the member its own collectives missed, as the set of them in bits (f08 R218) -/
  silent : Nat
  /-- collectives begun under the installed generation, and messages of later ones that have come early -/
  collNo  : Nat
  early   : List GFlit
  firstFault : Option Nat
  cause   : Nat
  causeAux : Nat
  stopSid : Option Nat
  modes   : List (Nat × Nat)
  dropped : Nat
  stagedDrop : Nat
  saved   : Option Saved
  pins    : List (Nat × Nat)
  reports : List (Nat × Nat × Nat)
  /-- of one that spans packages: the start gcy of the step in progress, the children whose subtrees have ended, and whether its own end
  or stop has been told (f03 R68, f17 R335) -/
  opened  : Nat
  gone    : List Nat
  told    : Bool
  meters  : SMap (BitVec 64)
  /-- the capabilities and register values of the argument block as read at the node's admission (f09 R242) -/
  caps0   : SMap Cap
  regs0   : SMap (BitVec 64)
  /-- of a timetable whose save area comes from another device: its migration record and signature (f10 R277) -/
  foreign : Option (List Byte × List Byte)
  deriving DecidableEq, Repr

/-- No timetable. -/
def Timetable.blank : Timetable where
  life := 0
  tenant := 0
  launch := 0
  node := 0
  cls := 0
  img := Image.none
  strides := 0
  elastic := false
  pin := none
  stride := 1
  phase := 0
  t0 := 0
  admitted := 0
  place := []
  runProm := true
  step := 0
  mstep := none
  vcy0 := 0
  start := none
  last := 0
  held := false
  wouldBe := none
  late := false
  newPair := none
  rising := false
  touched := []
  gens := []
  lost := false
  failed := false
  wq := []
  wqTaken := []
  sems := []
  tiles := []
  rows := []
  leases := []
  leasesWas := []
  oxbusy := []
  group := none
  pending := none
  member := none
  aborted := false
  silent := 0
  collNo := 0
  early := []
  firstFault := none
  cause := 0
  causeAux := 0
  stopSid := none
  modes := []
  dropped := 0
  stagedDrop := 0
  saved := none
  pins := []
  reports := []
  opened := 0
  gone := []
  told := false
  meters := []
  caps0 := []
  regs0 := []
  foreign := none

/-- A gate (f06 R161..R166); its image is also kept in memory for the loads that read it. -/
structure Gate where
  live    : Bool
  holder  : Option Nat
  poison  : Bool
  gen     : BitVec 63
  binds   : List (Nat × Nat × Nat × Nat)
  waiters : List Nat
  /-- a REL has been issued and the release is still to come -/
  freeing : Option Nat
  deriving DecidableEq, Repr

/-- A word that is no gate. -/
def Gate.none : Gate := ⟨false, Option.none, false, 0, [], [], Option.none⟩

/-- An ordered contribution staged at a Hen (f07 R188, f18 R361). -/
structure Staged where
  /-- the address of each byte -/
  at_    : List Nat
  ty     : Nat
  tt     : Nat
  strand : Nat
  order  : Nat
  tenant : Nat
  bytes  : List Byte
  /-- the sync word its bytes count into when they commit -/
  sync   : Option Nat
  deriving DecidableEq, Repr

/-- A request at a Hen (f18 R339): job 0 with `from_` set is one from another package (f07 R193). -/
structure HenReq where
  job    : Nat
  op     : Nat
  tenant : Nat
  tt     : Nat
  strand : Nat
  order  : Nat
  ord    : Bool
  arg    : BitVec 64
  line   : Nat
  len    : Nat
  /-- the address of each byte of the payload -/
  at_    : List Nat
  ok     : List (Nat × Nat)
  rb     : List (BitVec 64)
  from_  : Option (Nat × Nat × Nat)
  remote : Option RemoteOp
  routine : Nat
  /-- bytes performed and lines staged so far for another package's request -/
  wrote  : Nat
  lines  : Nat
  deriving DecidableEq, Repr

/-- What a Hen agent holds for one tenant (f07 R196, f18 R339): the queue, the request in progress, its context, its code position in the
routine directory, and the staging. A routine runs on its own tenant's turns, so that each tenant has its own (f02 R35, R55). -/
structure Hen where
  queue  : List HenReq
  cur    : Option HenReq
  d      : SMap (BitVec 64)
  rb     : List (BitVec 64)
  pc     : Nat
  base   : Nat
  len    : Nat
  replied : Option (Nat × List (BitVec 64))
  staged : List Staged
  deriving DecidableEq, Repr

/-- An idle Hen. -/
def Hen.idle : Hen := ⟨[], Option.none, [], [], 0, 0, 0, Option.none, []⟩

/-- A collective in progress at this member (f08 R219..R227): its header, trees, the destination chunks it skips and the
ranges that have performed, the messages received (sender, tree), what it has sent (kind, unit, neighbour), when each
neighbour was last heard and when it last sent HOLD. -/
structure Coll where
  live    : Bool
  sid     : Nat
  /-- the bundle of its COLL -/
  bundle  : Nat
  die     : Nat
  cd      : Cap
  cs      : Cap
  c1      : Cap
  o       : Nat
  op      : Nat
  red     : Nat
  ty      : Nat
  ord     : Bool
  ssem    : Nat
  len     : Nat
  soff    : Nat
  doff    : Nat
  root    : Nat
  tmo     : Nat
  resume  : Bool
  group   : Group
  trees   : List (Nat × List LinkKey)
  no      : Nat
  agreed  : Bool
  merged  : Bool
  skip    : List Nat
  done    : List (Nat × Nat)
  inbox   : List (Nat × Nat × GMsg)
  sent    : List (Nat × Nat × Nat)
  heard   : List (Nat × Nat)
  began   : Nat
  held    : Nat
  /-- it aborts: the status and the silent set, while its last bytes perform (f08 R225) -/
  ending  : Option (Nat × Nat)
  deriving DecidableEq, Repr

/-- No collective. -/
def Coll.none : Coll where
  live := false
  sid := 0
  bundle := 0
  die := 0
  cd := Cap.null
  cs := Cap.null
  c1 := Cap.null
  o := 0
  op := 0
  red := 0
  ty := 0
  ord := false
  ssem := 0
  len := 0
  soff := 0
  doff := 0
  root := 0
  tmo := 0
  resume := false
  group := ⟨0, [], [], 0⟩
  trees := []
  no := 0
  agreed := false
  merged := false
  skip := []
  done := []
  inbox := []
  sent := []
  heard := []
  began := 0
  held := 0
  ending := Option.none

/-- An object's table entry (f04 R99) with its count of pins and the extents in migration or evicted (f04 R106, R112). -/
structure Obj where
  entry : BitVec 256
  pins  : Nat
  mig   : List Nat
  backing : List (Nat × List (Nat × Byte))
  written : Bool
  loading : Nat
  deriving DecidableEq, Repr

/-- An unused entry: KIND 0 (f04 R98). -/
def Obj.free : Obj := ⟨0, 0, [], [], false, 0⟩

/-- A tenant (f02 R31, f04 R95..R104, f09 R250..R254). -/
structure Tenant where
  live    : Bool
  /-- torn down, with timetables still to stop -/
  closing : Bool
  key     : Nat
  entitle : Nat
  hide    : Bool
  objs    : SMap Obj
  meters  : SMap (BitVec 64)
  /-- the meters as the gcy in progress began (f09 R254) -/
  before  : SMap (BitVec 64)
  snaps   : Nat
  prev    : BitVec 384
  last    : List Byte
  images  : List (BitVec 384 × Image)
  pinPart : Nat
  xlatPart : Nat
  stagePart : Nat
  deriving DecidableEq, Repr

/-- A tenant that does not exist; the partitions are those after reset (f04 R104, f07 R188). -/
def Tenant.none : Tenant := ⟨false, false, 0, 1, false, [], [], [], 0, 0, [], [], 16, 4, 16384⟩

/-- A completion record not yet in host memory (f09 R238). -/
structure Comp where
  opc    : Nat
  status : Nat
  tag    : BitVec 32
  seq    : Nat
  pidx   : BitVec 32
  prom   : Bool
  data   : BitVec 128
  deriving DecidableEq, Repr

/-- A submission queue's page and front-end state (f09 R232..R238, R243). -/
structure Queue where
  /-- 0 DISABLED, 1 RUNNING, 2 PAUSED, 3 ERROR, 4 OVERRUN -/
  st      : Nat
  ecode   : Nat
  ridx    : BitVec 32
  qcfg    : BitVec 64
  cqcfg   : BitVec 64
  cqhead  : BitVec 32
  latch   : BitVec 32
  cidx    : BitVec 32
  comps   : List Comp
  /-- the bytes of the packet at RIDX that vb.rfetch has fetched and nothing has committed (f09 R243, R245) -/
  fetched : Option (List Byte)
  running : Nat
  resetting : Bool
  wait    : Option (Pkt × Nat × BitVec 64 × Option Nat)
  deriving DecidableEq, Repr

/-- A queue after reset (f09 R232). -/
def Queue.off : Queue := ⟨0, 0, 0, 0, 0, 0, 0, 0, [], Option.none, 0, false, Option.none⟩

/-- A weave plan (f02 R52): a placement, a pair, the merged slot-table entries (kind, instance, entry, word) of each M-step, and where the
links its routes use led: logical die, local link, the package at the other end (f02 R54). -/
structure Plan where
  place   : List Place
  pair    : Nat × Nat
  entries : List (List (Nat × Nat × Nat × Word))
  links   : List (Nat × Nat × Nat)
  deriving DecidableEq, Repr

/-- A graph node (f09 R241) with its image and its weave plan (f02 R52). -/
structure Node where
  image   : Image
  pred    : BitVec 64
  succ    : BitVec 64
  strides : BitVec 8
  flags   : BitVec 8
  pins    : Nat
  pinph   : Nat
  plan    : Option Plan
  stale   : Bool
  deriving DecidableEq, Repr

/-- A live or finished launch (f09 R240..R242): node states 0 waiting, 1 handed on, 2 running, 3 done, 4 skipped. -/
structure Launch where
  live   : Bool
  fn     : Nat
  pkt    : Pkt
  req    : LaunchReq
  nodes  : List Nat
  prom   : Bool
  /-- the status and data of its first node that did not end well; 0 while none -/
  status : Nat
  data   : BitVec 128
  /-- host bytes read for it that count with its first grant (f14 R321) -/
  owed   : Nat
  deriving DecidableEq, Repr

/-- No launch. -/
def Launch.none : Launch := ⟨false, 0, ⟨0, 0, 0, 0, false, false⟩, ⟨0, 0, 0, 0⟩, [], true, 0, 0, 0⟩

/-- One PCIe function (f09 R228..R235, R240) with its SPDM responder (f09 R231, R255). -/
structure Func where
  argcfg  : BitVec 64
  drop    : BitVec 64
  bad     : BitVec 64
  planMiss : BitVec 64
  he      : SMap (BitVec 64)
  queues  : SMap Queue
  fifo    : List (Nat × BitVec 64)
  graphs  : SMap (List Node)
  tdi     : TdiState
  pasid   : BitVec 20
  pri     : List Nat
  /-- pages the queue front end and the DMA engine have asked for, and those of them the host has refused -/
  asked   : List Nat
  refused : List Nat
  ats     : List Nat
  session : Bool
  sel     : Nat
  deriving DecidableEq, Repr

/-- A function after reset. -/
def Func.off : Func := ⟨0, 0, 0, 0, [], [], [], [], .unlocked, 0, [], [], [], [], false, 0⟩

/-- What a successor inherits (f03 R83) when it is placed anew (f02 R53): the bytes of the scratchpad banks that are not zero, by logical
core and window offset, and the accumulator tiles with their row sums. -/
structure Heir where
  bytes : List (Nat × Nat × Byte)
  tiles : SMap VReg
  rows  : SMap VReg
  deriving DecidableEq, Repr

/-- A request in the admission order (f02 R36, f03 R87): kind 0 a node of a launch, 1 a resume, 2 a successor in its
predecessor's placement that needs a pair of its own (f02 R53). -/
structure AdmReq where
  id     : Nat
  kind   : Nat
  launch : Nat
  node   : Nat
  tt     : Nat
  cls    : Nat
  base   : Nat
  at_    : Nat
  raised : Nat
  place  : List Place
  /-- the node's weave plan has been tried for this launch and is discarded (f02 R52) -/
  missed : Bool
  /-- the inheritance a successor carries to wherever it is placed (f02 R53) -/
  heir  : Option Heir
  deriving DecidableEq, Repr

/-- A compaction that has succeeded and waits for its timetables (f02 R41, R42). -/
structure Compaction where
  req   : Nat
  pair  : Nat × Nat
  moves : List (Nat × Nat × Nat)
  since : Nat
  deriving DecidableEq, Repr

/-- A pre-emption under way (f10 R269): the victim, the request it is for, the gcy of the request, and the resources the request touches
(f02 R45). -/
structure Preemption where
  victim : Nat
  req    : Nat
  since  : Nat
  touched : List (Nat × Nat)
  deriving DecidableEq, Repr

/-- One pair in a weave (f02 R28, R33): resource kind and instance, owner (timetable key plus one; 0 the untimed
reserve), stride, phase. -/
structure Pair where
  kind  : Nat
  inst  : Nat
  owner : Nat
  s     : Nat
  ph    : Nat
  deriving DecidableEq, Repr

/-- One Zhoez link (f08 R210..R215). -/
structure Link where
  trained : Bool
  transit : Nat
  drops   : Nat
  since   : Nat
  /-- it has dropped too much since its training, and stays out of the table until the next -/
  bad     : Bool
  stops   : List Nat
  /-- OREF and send timestamp of the last control flit (f08 R214) -/
  oref    : Int
  sentAt  : Nat
  /-- sequence numbers: of the next frame sent, of the last received -/
  seqOut  : Nat
  seqIn   : Nat
  /-- barrier messages that its control flits repeat in turn, each with the gcy it was put there (f03 R68); the circuit flits of this gcy's
  frame with their lanes -/
  bars    : List (BarMsg × Nat)
  out     : List (Nat × Flit)
  /-- flits that have come of the untimed message in progress, by tenant -/
  got     : SMap Nat
  /-- the counters' flits of the last exchange: when the other end's was sent and when it came, and when this end's was sent (f08 R214) -/
  exch    : Nat × Nat
  exchOut : Nat
  /-- packages whose ALIGNLOSS the next frame passes on -/
  tell    : List Nat
  deriving DecidableEq, Repr

/-- An untrained link. -/
def Link.down : Link := ⟨false, 0, 0, 0, false, [], 0, 0, 0, 0, [], [], [], (0, 0), 0, []⟩

/-- A flit in a seat of a router, bridge or link stage (f08 R207): input port and lane, the gcy it came on, and how many of its owner's gcy it
still stands there. -/
structure Seated where
  port : Nat
  lane : Nat
  at_  : Nat
  left : Nat
  flit : Flit
  deriving DecidableEq, Repr

/-- One Mule hart (f09 R244, R245) with the trap registers the RISC-V privileged architecture gives it (PRESUMED, log
entry 9). `mode`: 3 machine, 1 supervisor, 0 user. -/
structure Hart where
  x       : SMap (BitVec 64)
  pc      : BitVec 64
  mode    : Nat
  mstatus : BitVec 64
  mepc    : BitVec 64
  mcause  : BitVec 64
  mtval   : BitVec 64
  mtvec   : BitVec 64
  sleep   : Option (Nat × BitVec 64 × Nat)
  /-- its vb.rfetch has committed a packet and waits for a host page of the next (f09 R245) -/
  retired : Bool
  /-- the floating-point registers; the other CSRs that hold a value, by number; the bytes LR has reserved (RV64GC: PRESUMED, log entry 59) -/
  f       : SMap (BitVec 64)
  csrs    : SMap (BitVec 64)
  resv    : Option Nat
  deriving DecidableEq, Repr

/-- A hart after reset: machine mode (PRESUMED, log entry 9). -/
def Hart.zero : Hart := ⟨[], 0, 3, 0, 0, 0, 0, 0, Option.none, false, [], [], Option.none⟩

/-- An untimed bulk move of the host's: COPY or WS_LOAD (f09 R240): both windows, the pieces still to perform (destination and
source offset of each byte), and the object a WS_LOAD fills. -/
structure Bulk where
  id     : Nat
  pkt    : Pkt
  opc    : Nat
  cd     : Cap
  cs     : Cap
  pieces : List (List (Nat × Nat))
  obj    : Option (Nat × Nat)
  deriving DecidableEq, Repr

/-- Whose untimed bytes these are: an Ox job's, a host's bulk move's, a collective's. -/
inductive Mover where
  | job (id : Nat)
  | bulk (id : Nat)
  | coll (ctx : Nat)
  deriving DecidableEq, Repr

/-- What becomes of the bytes of a piece once they are read: written to the destination, written back to the operand window of OXCAS, or
sent to a Hen as a request. -/
inductive PortUse where
  | dest | back | request
  deriving DecidableEq, Repr

/-- A piece of untimed work between its engine and the ports (f02 R34, R35): each byte's destination offset, and the source offset at
which it is still to be read, or the byte. -/
structure PortOp where
  who    : Mover
  tenant : Nat
  use    : PortUse
  /-- the router it has come to, and the routers and bridges it has still to pass (f08 R212) -/
  seat   : Nat
  hops   : List Nat
  bytes  : List (Nat × Option Nat × Byte)
  deriving DecidableEq, Repr

/-- The replay cache of a Hen for one source core (f07 R193): the highest number executed, and the replies kept. -/
structure Replay where
  top  : Nat
  kept : List (Nat × List Byte)
  deriving DecidableEq, Repr

/-- A cross-package request without a reply (f07 R193, f08 R213): the Hen of the domain, its number, when it was sent last, how often
again, and the operation; and the strand it is for. -/
structure Remote where
  hen   : Nat
  sid   : Nat
  seq   : Nat
  sent  : Nat
  tries : Nat
  op    : RemoteOp
  deriving DecidableEq, Repr

def Remote.none : Remote := ⟨0, 0, 0, 0, 0, .read 0 0⟩

/-- A line staged at another package's Hen (f07 R188, R189): its timetable, the Hen of the domain, its bytes and their sync word. -/
structure FarLine where
  tt   : Nat
  hen  : Nat
  n    : Nat
  sync : Option Nat
  deriving DecidableEq, Repr

/-- What the device sends outward, for whoever stands outside (frames on links, replies on DOE and MCTP, PCIe). -/
inductive Sent where
  | frame (link : Nat) (f : Frame)
  | spdm (fn code : Nat) (bytes : List Byte)
  | mctp (bytes : List Byte)
  | retry
  | pri (fn page : Nat)
  | atsDone (fn page : Nat)
  | refusal (fn : Nat) (record : BitVec 128)
  | error (record : List Byte)
  /-- the bytes of an extent that goes to another package, to an address there (f04 R105) -/
  | moved (base : Nat) (bytes : List (Nat × Byte))
  deriving DecidableEq, Repr

/-- Which agent's word the next step fetches (the model's own, log entry 11). -/
inductive Agent where
  | none
  | strand (sid : Nat)
  | hen (port : Nat)
  | hart (h : Fin 32)
  deriving DecidableEq, Repr

/-- Where in a gcy the machine stands (the model's own, log entry 11): outside events, strands take up their vcy, loads
sample, untimed work, writes land, semaphores and barriers, then the clock ticks. -/
inductive Stage where
  | outside | clock | takeUp | meet | lease | issue | sample | untimed | land | settle | tick
  deriving DecidableEq, Repr

/-- The machine. -/
structure State where
  gclk    : BitVec 64
  pkg     : Nat
  mem     : Memory
  strands : SMap Strand
  tts     : SMap Timetable
  nextTt  : Nat
  gates   : SMap Gate
  /-- the Hens: what port p holds for tenant n is p · 256 + n (f02 R35) -/
  hens    : SMap Hen
  /-- the replay cache of the Hen of each port, by source core (f07 R193) -/
  replays : SMap (SMap Replay)
  /-- pieces of untimed work at the ports -/
  ports   : List PortOp
  /-- translation caches: extents (tenant, object, number) a tenant's partition at a memory port holds, the newest first (f04 R104) -/
  xlat    : SMap (List (Nat × Nat × Nat))
  /-- lines staged at other packages -/
  farLines : List FarLine
  /-- requests of other packages for gates here, by the number that stands for their strand: who asked, and the port -/
  asks    : SMap (Nat × Nat × Nat × Nat)
  jobs    : SMap Job
  nextJob : Nat
  colls   : SMap Coll
  tenants : SMap Tenant
  keys    : Nat
  funcs   : SMap Func
  launches : SMap Launch
  nextLaunch : Nat
  requests : List AdmReq
  nextReq : Nat
  compact : Option Compaction
  preempt : Option Preemption
  pairs   : List Pair
  reserve : SMap (Nat × Nat)
  turns   : SMap (SMap Nat)
  compactWait : Nat
  ageBound : Nat
  preemptDl : Nat
  preemptLimit : Nat
  estQrate : Nat
  estSrate : Nat
  links   : SMap Link
  table   : List LinkKey
  lgen    : Nat
  /-- the domain's trained links, in the live link table or not (f08 R214) -/
  trained : List LinkKey
  aligned : Bool
  /-- OREF of f08 R214 in half gcy -/
  oref    : Int
  offCount : Nat
  /-- other packages whose ALIGNLOSS has been told and not yet acted on (f08 R215) -/
  losses  : List Nat
  okCount : Nat
  holdLeft : Nat
  fastPll : Bool
  loaded  : Bool
  /-- GCLK as it was loaded (f08 R216) -/
  loadedAt : Nat
  /-- after ALIGNLOSS, until the links rejoin the live table (f08 R215) -/
  alignOut : Bool
  routers : SMap (SMap Word)
  bridges : SMap (SMap Word)
  linkTabs : SMap (SMap Word)
  rerr    : SMap Nat
  /-- flits in their seats: router 0..191, bridge 192 + 8 · from + to, link stage 256 + link -/
  flits   : SMap (List Seated)
  /-- flits of M-steps that have been dropped on their way: timetable, address / 32 (f08 R208, R209) -/
  lostFlits : List (Nat × Nat)
  remoteSeq : SMap Nat
  /-- untimed messages to other packages that have not left yet (f08 R212) -/
  post    : List Post
  /-- cross-package requests without a reply, by the key of what asked (f08 R213) -/
  remotes : SMap Remote
  /-- residency requests at the Mule: tenant, object, extent (f04 R111, R112) -/
  wanted  : List (Nat × Nat × Nat)
  /-- what the code store of each core holds (f01 R10, f04 R119): tenant, timetable, words of its class's section -/
  codeStores : SMap (List (Nat × Nat × Nat))
  /-- sync words whose generation has advanced since their last SYNCARM (f07 R198) -/
  synced  : List Nat
  /-- SYNCARMs that land on this gcy, and untimed bytes written on it to the words they name, which follow them (f19 R403) -/
  arming  : List (Nat × BitVec 64)
  lateBytes : List (Nat × Byte)
  routines : List Byte
  /-- the Mule cores: n is core n mod 4 of die n / 4 (f01 R12, R13) -/
  harts   : Vector Hart 32
  /-- the hart a queue (function · 17 + queue) or a launch FIFO (queue 16) is assigned to; an unlisted one hart 0 (f09 R245) -/
  served  : SMap Nat
  /-- the Mule's firmware image (f09 R257) -/
  firmware : List Byte
  /-- the number of the device identity key; 0 while there is none (f09 R256) -/
  identity : Nat
  /-- the Mule signals WEAVER, DONE, CALL, HOSTMB, LINK and TIMER (f09 R245); KICK and LAUNCH are read off the queues -/
  mule    : BitVec 8
  /-- the firmware has restarted and has run no vb.dispatch yet (f09 R243) -/
  muleDown : Bool
  sram    : Memory
  sramBase : Nat
  sramLen : Nat
  rotate  : Nat
  bulks   : List Bulk
  errlog  : List (List Byte)
  lifecycle : Nat
  bringup : Nat
  secded  : SMap Nat
  choices : Nat
  cur     : Agent
  /-- agents whose turn to run a word comes on this gcy -/
  todo    : List Agent
  stage   : Stage
  agenda  : List (Nat × Instr)
  landed  : List (Nat × Nat × Nat)
  outbox  : List Sent
  deriving DecidableEq, Repr

/-- Why a step stops. -/
inductive Fault where
  /-- Raised by a step of the device whose subject is not in the situation the step is about (a completion of a wait
  nobody is in, a release of a barrier nobody stands at): the spec describes no such step, and the scheduler never takes
  one.  Safe: the machine stops where the hardware has no behaviour. -/
  | notEnabled (what : String)
  deriving DecidableEq, Repr

/-- Why a step is refused. -/
inductive Refusal where
  /-- Raised by an instruction's arm of `exec` that has no meaning in the model yet. Safe. -/
  | notModelled (mnemonic : String)
  deriving DecidableEq, Repr

/-- The machine right after reset: no tenant but 0, no timetable, no queue enabled, memory with nothing listed. The
entry numbers of values the spec does not give stand in INVENTORY.md. -/
def State.reset : State where
  gclk := 0
  pkg := 0
  mem := []
  strands := []
  tts := []
  nextTt := 0
  gates := []
  hens := []
  replays := []
  ports := []
  xlat := []
  farLines := []
  asks := []
  jobs := []
  nextJob := 1
  colls := []
  tenants := [(0, { Tenant.none with live := true })]
  keys := 1
  funcs := []
  launches := []
  nextLaunch := 1
  requests := []
  nextReq := 1
  compact := none
  preempt := none
  pairs := []
  reserve := [(0x04, (16, 15)), (0x05, (16, 15)), (0x07, (16, 15)), (0x08, (16, 15)), (0x09, (16, 15)),
    (0x0A, (16, 15))]
  turns := []
  compactWait := 2 ^ 24
  ageBound := 2 ^ 26
  preemptDl := 2 ^ 20
  preemptLimit := 2 ^ 28
  estQrate := 16
  estSrate := 64
  links := []
  table := []
  lgen := 0
  trained := []
  aligned := false
  oref := 0
  offCount := 0
  losses := []
  okCount := 0
  holdLeft := 0
  fastPll := false
  loaded := false
  loadedAt := 0
  alignOut := false
  routers := []
  bridges := []
  linkTabs := []
  rerr := []
  flits := []
  lostFlits := []
  remoteSeq := []
  post := []
  remotes := []
  wanted := []
  codeStores := []
  synced := []
  arming := []
  lateBytes := []
  routines := []
  harts := Vector.replicate 32 Hart.zero
  served := []
  firmware := []
  identity := 0
  mule := 0
  muleDown := false
  sram := []
  sramBase := 0
  sramLen := 2 ^ 20
  rotate := 0
  bulks := []
  errlog := []
  lifecycle := 0
  bringup := 5
  secded := []
  choices := 0
  cur := .none
  todo := []
  stage := .outside
  agenda := []
  landed := []
  outbox := []

end Sys2Proof.Machine
end

