-- ==== Sys2Proof/Machine/Ops.lean ====
section
/-! DEFINITION. The named operations over registers, memory and pending writes, and taking a fault: recording a sticky
fault, suppression, and the trap of a Mule hart. -/
namespace Sys2Proof.Machine

abbrev Result := Host.Outcome State Fault Refusal

/-! ### Bits and bytes -/

/-- Bytes of a value, the lowest first (f01 R3). -/
def bytesOf : (n : Nat) → Nat → List Byte
  | 0, _ => []
  | n + 1, v => BitVec.ofNat 8 v :: bytesOf n (v / 256)

/-- The number that little-endian bytes hold. -/
def natOf : List Byte → Nat
  | [] => 0
  | b :: t => b.toNat + 256 * natOf t

/-- Bits hi..lo of a 64-bit value as a number. -/
def bits (v : BitVec 64) (hi lo : Nat) : Nat := v.toNat / 2 ^ lo % 2 ^ (hi + 1 - lo)

/-- A flag as a number. -/
def b2n (b : Bool) : Nat := if b then 1 else 0

/-! ### Memory (f04 R101) -/

/-- One byte; what nothing has written reads 0. -/
def Memory.read (m : Memory) (a : Nat) : Byte := SMap.get 0 m a

/-- One byte written. -/
def Memory.write (m : Memory) (a : Nat) (b : Byte) : Memory := SMap.set 0 m a b

/-- `n` bytes from `a` up. -/
def Memory.readN (m : Memory) (a n : Nat) : List Byte := (List.range n).map fun i => m.read (a + i)

/-- Bytes written from `a` up. -/
def Memory.writeN (m : Memory) (a : Nat) : List Byte → Memory
  | [] => m
  | b :: t => Memory.writeN (m.write a b) (a + 1) t

/-- Bytes written each at its own address, in order. -/
def Memory.writeAll (m : Memory) (l : List (Nat × Byte)) : Memory := l.foldl (fun m e => m.write e.1 e.2) m

/-- The canonical form of a memory: addresses strictly rising, no listed byte 0. -/
def Memory.wf (m : Memory) : Bool := SMap.wf 0 m

/-! ### Parts of the state by key -/

def State.strand (s : State) (sid : Nat) : Strand := SMap.get Strand.blank s.strands sid
def State.setStrand (s : State) (sid : Nat) (st : Strand) : State :=
  { s with strands := SMap.set Strand.blank s.strands sid st }
def State.tt (s : State) (t : Nat) : Timetable := SMap.get Timetable.blank s.tts t
def State.setTt (s : State) (t : Nat) (x : Timetable) : State := { s with tts := SMap.set Timetable.blank s.tts t x }
def State.tenant (s : State) (n : Nat) : Tenant := SMap.get Tenant.none s.tenants n
def State.setTenant (s : State) (n : Nat) (x : Tenant) : State := { s with tenants := SMap.set Tenant.none s.tenants n x }
def State.func (s : State) (n : Nat) : Func := SMap.get Func.off s.funcs n
def State.setFunc (s : State) (n : Nat) (x : Func) : State := { s with funcs := SMap.set Func.off s.funcs n x }
def State.hen (s : State) (n : Nat) : Hen := SMap.get Hen.idle s.hens n
def State.setHen (s : State) (n : Nat) (x : Hen) : State := { s with hens := SMap.set Hen.idle s.hens n x }
def State.hart (s : State) (n : Fin 32) : Hart := s.harts[n]
def State.setHart (s : State) (n : Fin 32) (x : Hart) : State := { s with harts := s.harts.set n x }
def State.gate (s : State) (a : Nat) : Gate := SMap.get Gate.none s.gates a

/-- Timetable of a strand key, and the strand number of f03 R56 in it. -/
def ttOf (sid : Nat) : Nat := sid / 2 ^ 32
def strandNo (sid : Nat) : Nat := sid % 2 ^ 32
def sidOf (tt k : Nat) : Nat := tt * 2 ^ 32 + k

/-- A queue of a function. -/
def Func.queue (f : Func) (q : Nat) : Queue := SMap.get Queue.off f.queues q
def Func.setQueue (f : Func) (q : Nat) (x : Queue) : Func := { f with queues := SMap.set Queue.off f.queues q x }
def State.queue (s : State) (fn q : Nat) : Queue := (s.func fn).queue q
def State.setQueue (s : State) (fn q : Nat) (x : Queue) : State := s.setFunc fn ((s.func fn).setQueue q x)

/-- Number of strands of a timetable: d · c · width (f03 R56). -/
def Timetable.count (t : Timetable) : Nat := t.img.d * t.img.c * t.img.width

/-- The strand keys of a timetable, in increasing strand number. -/
def State.sids (s : State) (t : Nat) : List Nat := (List.range (s.tt t).count).map (sidOf t)

/-! ### Registers of a strand (f12 R303) -/

/-- D0 reads 0. -/
def Strand.rd (st : Strand) (r : Nat) : BitVec 64 := if r = 0 then 0 else SMap.get 0 st.d r
/-- The taint bit of a D register; D0 is never tainted (f06 R158). -/
def Strand.rt (st : Strand) (r : Nat) : Bool := if r = 0 then false else st.taint.getLsbD r
/-- The OR of the taint bits of the registers read (f18 R338). -/
def Strand.taints (st : Strand) (l : List Nat) : Bool := l.any st.rt
/-- C0 reads null. -/
def Strand.rc (st : Strand) (r : Nat) : Cap := if r = 0 then Cap.null else SMap.get Cap.null st.c r
def Strand.rv (st : Strand) (r : Nat) : VReg := SMap.get [] st.v r
/-- Lane ℓ of a vector register. -/
def Strand.lane (st : Strand) (r l : Nat) : BitVec 32 := SMap.get 0 (st.rv r) l
/-- Bit ℓ of a predicate; P0 reads as all ones. -/
def Strand.pb (st : Strand) (r l : Nat) : Bool := if r = 0 then decide (l < 1024) else SMap.get false (SMap.get [] st.p r) l
/-- The whole predicate. -/
def Strand.rp (st : Strand) (r : Nat) : PReg := SMap.ofFn false 1024 (st.pb r)
def Strand.getCsr (st : Strand) (n : Nat) : BitVec 64 := SMap.get 0 st.csr n
def Strand.setCsr (st : Strand) (n : Nat) (v : BitVec 64) : Strand := { st with csr := SMap.set 0 st.csr n v }
def Strand.qbuf (st : Strand) (h : Nat) : QB := SMap.get QB.zero st.qb h
def Strand.setQb (st : Strand) (h : Nat) (q : QB) : Strand := { st with qb := SMap.set QB.zero st.qb h q }
def Strand.queue (st : Strand) (q : Nat) : List QEnt := SMap.get [] st.oq q
def Strand.setQueue (st : Strand) (q : Nat) (l : List QEnt) : Strand := { st with oq := SMap.set [] st.oq q l }

/-- A write to D0 is discarded. -/
def Strand.wd (st : Strand) (r : Nat) (v : BitVec 64) (t : Bool) : Strand :=
  if r = 0 then st
  else { st with d := SMap.set 0 st.d r v,
                 taint := if t then st.taint ||| BitVec.twoPow 64 r else st.taint &&& ~~~ BitVec.twoPow 64 r }
/-- A write to C0 is discarded. -/
def Strand.wc (st : Strand) (r : Nat) (v : Cap) : Strand :=
  if r = 0 then st else { st with c := SMap.set Cap.null st.c r v }
/-- The lanes of `mask` written. -/
def Strand.wv (st : Strand) (r : Nat) (mask : PReg) (val : VReg) : Strand :=
  let new := SMap.ofFn 0 1024 fun l => if SMap.get false mask l then SMap.get 0 val l else st.lane r l
  { st with v := SMap.set [] st.v r new }
/-- The bits of `mask` in each lane written. -/
def Strand.wvBits (st : Strand) (r : Nat) (mask val : VReg) : Strand :=
  let new := SMap.ofFn 0 1024 fun l => (st.lane r l &&& ~~~ SMap.get 0 mask l) ||| (SMap.get 0 val l &&& SMap.get 0 mask l)
  { st with v := SMap.set [] st.v r new }
/-- The bits of `mask` written; a write to P0 is discarded. -/
def Strand.wp (st : Strand) (r : Nat) (mask val : PReg) : Strand :=
  let new := SMap.ofFn false 1024 fun l => if SMap.get false mask l then SMap.get false val l else st.pb r l
  if r = 0 then st else { st with p := SMap.set [] st.p r new }

/-- All 1024 lanes. -/
def allLanes : PReg := SMap.ofFn false 1024 fun _ => true

/-! ### Pending writes (f03 R62) -/

/-- A write of the word in slot class `slot` that performs at the end of the issue vcy plus `lat`. -/
def Strand.push (st : Strand) (slot lat : Nat) (e : Eff) : Strand :=
  { st with pend := st.pend ++ [⟨st.vclk + lat, none, slot, st.seq, e⟩], seq := st.seq + 1 }

/-- A write that samples memory at the start of its perform vcy (f06 R149). -/
def Strand.pushLoad (st : Strand) (slot lat : Nat) (e : Eff) : Strand :=
  { st with pend := st.pend ++ [⟨st.vclk + lat, some (st.vclk + lat), slot, st.seq, e⟩], seq := st.seq + 1 }

/-- Several writes in order. -/
def Strand.pushAll (st : Strand) (slot lat : Nat) (l : List Eff) : Strand := l.foldl (fun st e => st.push slot lat e) st

/-- The latest perform vcy of the timed writes issued so far, or the issue vcy (f19 R394). -/
def Strand.lastWrite (st : Strand) : Nat :=
  st.pend.foldl (fun m p => match p.eff with
    | .store _ _ _ _ | .ox _ _ _ _ _ _ _ | .tile _ _ | .rowsum _ _ | .mma _ _ _ _ _ _ | .mmas _ _ _ _ _ _ _ _ _ => max m p.due
    | _ => m) st.vclk

/-- The latest perform vcy of the timed reads issued so far, or the issue vcy (f19 R389). -/
def Strand.lastRead (st : Strand) : Nat :=
  st.pend.foldl (fun m p => match p.eff with
    | .load _ _ _ | .ox _ _ _ _ _ _ _ | .mmas _ _ _ _ _ _ _ _ _ => max m p.due
    | _ => m) st.vclk

/-- A timed operation of the strand is in flight (f03 R70, R82). -/
def Strand.inFlight (st : Strand) : Bool := st.pend.any fun p => decide (st.vclk < p.due)

/-! ### Counting (f12 R315, f09 R252) -/

/-- Events of one strand at an ECSEL source, added to its counters at the end of the gcy. -/
def Strand.count (st : Strand) (src n : Nat) : Strand :=
  { st with events := SMap.set 0 st.events src (SMap.get 0 st.events src + n) }

/-- Units added to a meter of a tenant (f09 R252). -/
def State.meter (s : State) (tenant idx n : Nat) : State :=
  let t := s.tenant tenant
  if n = 0 ∨ t.live = false then s
  else s.setTenant tenant { t with meters := SMap.set 0 t.meters idx (SMap.get 0 t.meters idx + BitVec.ofNat 64 n) }

/-- Units added to a meter of a timetable's owner, and to the timetable's own totals (f10 R277). While a discarded strand
replays, what it performs is not counted again (f09 R253). -/
def State.meterTt (s : State) (tt idx n : Nat) : State :=
  let t := s.tt tt
  let s := s.meter t.tenant idx n
  if n = 0 then s
  else s.setTt tt { t with meters := SMap.set 0 t.meters idx (SMap.get 0 t.meters idx + BitVec.ofNat 64 n) }

/-- The meters of a timetable and its owner as they stood in `old`: what a replay performs again is not added again (f09
R253). -/
def State.keepMeters (s old : State) (tt : Nat) : State :=
  let owner := (s.tt tt).tenant
  let s := s.setTenant owner { s.tenant owner with meters := (old.tenant owner).meters }
  s.setTt tt { s.tt tt with meters := (old.tt tt).meters }

/-- A discarded strand is running again what it had run (f10 R271). -/
def Strand.replaying (st : Strand) : Bool := decide (st.vclk < st.replay)

/-! ### Faults (f10 R258..R260) -/

/-- The sticky fault codes (f10 R259). -/
def Code.illop : Nat := 0x01
def Code.capNull : Nat := 0x02
def Code.capTenant : Nat := 0x03
def Code.capRights : Nat := 0x04
def Code.capBound : Nat := 0x05
def Code.capUnpin : Nat := 0x06
def Code.capTimed : Nat := 0x07
def Code.capDerive : Nat := 0x08
def Code.capTag : Nat := 0x09
def Code.capState : Nat := 0x0A
def Code.ftCode : Nat := 0x0B
def Code.ftFmt : Nat := 0x0C
def Code.mxBusy : Nat := 0x0D
def Code.oxOvl : Nat := 0x0E
def Code.oxBusy : Nat := 0x0F
def Code.pbFmt : Nat := 0x10
def Code.semRange : Nat := 0x11
def Code.semOvf : Nat := 0x12
def Code.gateWr : Nat := 0x13
def Code.gateState : Nat := 0x14
def Code.qbState : Nat := 0x15
def Code.oxDest : Nat := 0x16
def Code.trap : Nat := 0x17
def Code.gqFull : Nat := 0x18

/-- FAULT with its fields (f10 R258). -/
def faultWord (code slot creg offset : Nat) : BitVec 64 :=
  BitVec.ofNat 64 (code * 2 ^ 56 + slot % 4 * 2 ^ 54 + creg % 32 * 2 ^ 48 + offset % 2 ^ 48)

/-- Taking a sticky fault, the one operation: the first is kept, a further one sets MORE and changes nothing else. -/
def Strand.takeFault (st : Strand) (code slot creg offset : Nat) : Strand :=
  if st.fault.toNat / 2 ^ 56 = 0 then { st with fault := faultWord code slot creg offset }
  else { st with fault := st.fault ||| BitVec.twoPow 64 53 }

/-- A strand stops at its fault boundary (f03 R71): it runs no further vcy, so a write still to come never performs (f10
R260), and the timetable stops with the cause `kind` of f10 R261 unless it is stopping already. -/
def State.reachBoundary (s : State) (sid kind : Nat) : State :=
  let st := s.strand sid
  let s := s.setStrand sid { st with halt := true }
  let t := s.tt (ttOf sid)
  if t.cause = 0 then s.setTt (ttOf sid) { t with cause := kind, stopSid := some sid } else s

/-- A strand that has ended or drains at EXIT (f03 R71). -/
def Strand.ending (st : Strand) : Bool :=
  decide (st.life = 2) || (match st.wait with | .exit _ => true | _ => false)

/-- A sticky fault of a strand; the timetable remembers the first strand that records one (f10 R261), and a strand that has
ended or is draining reaches its fault boundary at once (f03 R71). -/
def State.fault (s : State) (sid code slot creg offset : Nat) : State :=
  let st := s.strand sid
  let s := s.setStrand sid (st.takeFault code slot creg offset)
  let t := s.tt (ttOf sid)
  let s := match t.firstFault with
    | none => s.setTt (ttOf sid) { t with firstFault := some sid }
    | some _ => s
  if st.ending then s.reachBoundary sid 1 else s

/-- Suppression of the current word: its fault recorded, counted as suppressed (f12 R315 source 8), no further effect. -/
def State.suppress (s : State) (sid code slot creg offset : Nat) : State :=
  let s := s.fault sid code slot creg offset
  s.setStrand sid ((s.strand sid).count 8 1)

/-- The same with the bundle word address as OFFSET, for codes that are not about an access (f10 R258). -/
def State.suppressHere (s : State) (sid code slot : Nat) : State :=
  s.suppress sid code slot 0 (s.strand sid).bundle

/-- A Mule hart takes an exception (f09 R244, R245; the trap registers PRESUMED, log entry 9): pc to mepc, cause and value
saved, MIE to MPIE, the mode to MPP, machine mode, pc at the base of mtvec. -/
def Hart.trap (h : Hart) (cause : Nat) (val : BitVec 64) : Hart :=
  let mie := h.mstatus.getLsbD 3
  let cleared := h.mstatus &&& ~~~ (0x1888#64)
  { h with mepc := h.pc, mcause := BitVec.ofNat 64 cause, mtval := val,
           mstatus := cleared ||| (if mie then 0x80#64 else 0) ||| BitVec.ofNat 64 (h.mode * 2 ^ 11),
           mode := 3, pc := h.mtvec &&& ~~~ 3#64 }

/-- The return from it (MRET of the RISC-V privileged architecture): MPIE to MIE, MPP to the mode, mepc to pc. -/
def Hart.mret (h : Hart) : Hart :=
  let mpie := h.mstatus.getLsbD 7
  let cleared := h.mstatus &&& ~~~ (0x1888#64)
  { h with pc := h.mepc, mode := h.mstatus.toNat / 2 ^ 11 % 4,
           mstatus := cleared ||| (if mpie then 0x8#64 else 0) ||| 0x80#64 }

/-! ### The Hen's context (f18 R339) -/

def Hen.rd (h : Hen) (r : Nat) : BitVec 64 := if r = 0 then 0 else SMap.get 0 h.d r
def Hen.wd (h : Hen) (r : Nat) (v : BitVec 64) : Hen := if r = 0 then h else { h with d := SMap.set 0 h.d r v }
/-- Word k of the request buffer. -/
def Hen.buf (h : Hen) (k : Nat) : BitVec 64 := h.rb.getD k 0

/-! ### Locations written on one gcy (f03 R63, f06 R150) -/

/-- Bytes as locations: the owning tenant, the 1024-byte block, a mask in it. -/
def byteLocs (owner : Nat) (l : List Nat) : List (Nat × Nat × Nat) :=
  (l.foldl (fun (acc : List (Nat × Nat × Nat)) a =>
    match acc with
    | (o, p, m) :: t => if p = 2 ^ 40 + a / 1024 then (o, p, m ||| 2 ^ (a % 1024)) :: t
      else (owner, 2 ^ 40 + a / 1024, 2 ^ (a % 1024)) :: acc
    | [] => [(owner, 2 ^ 40 + a / 1024, 2 ^ (a % 1024))]) []).reverse

/-- Some location is in both lists. -/
def meetLocs (a b : List (Nat × Nat × Nat)) : Bool :=
  a.any fun x => b.any fun y => x.1 == y.1 && x.2.1 == y.2.1 && (x.2.2 &&& y.2.2) != 0

/-! ### Choosing and failing -/

/-- A free choice below `n`: the next opaque value, and the counter advanced (log entry 10). -/
def State.pick (s : State) (n : Nat) : Nat × State := (Config.choose s.choices % n, { s with choices := s.choices + 1 })

/-- A step whose subject is not in the situation it is about. -/
def notEnabled (what : String) : Result := .fault (.notEnabled what)

/-- Updates a strand in place. -/
def State.modStrand (s : State) (sid : Nat) (f : Strand → Strand) : State := s.setStrand sid (f (s.strand sid))
def State.modTt (s : State) (t : Nat) (f : Timetable → Timetable) : State := s.setTt t (f (s.tt t))

end Sys2Proof.Machine
end

