-- ==== Sys2Proof/Machine/Caps.lean ====
section
/-! DEFINITION. Capabilities, objects, device addresses and the checks of an access (f04). -/
namespace Sys2Proof.Machine

/-! ### The fields of a capability (f04 R90) -/

def capTid (c : BitVec 128) : Nat := c.toNat / 2 ^ 120 % 2 ^ 8
def capObj (c : BitVec 128) : Nat := c.toNat / 2 ^ 96 % 2 ^ 24
def capRights (c : BitVec 128) : Nat := c.toNat / 2 ^ 88 % 2 ^ 8
def capBase (c : BitVec 128) : Nat := c.toNat / 2 ^ 44 % 2 ^ 44
def capLen (c : BitVec 128) : Nat := c.toNat % 2 ^ 44
/-- A capability from its fields. -/
def capMake (tid obj rights base len : Nat) : BitVec 128 :=
  BitVec.ofNat 128 (tid % 2 ^ 8 * 2 ^ 120 + obj % 2 ^ 24 * 2 ^ 96 + rights % 2 ^ 8 * 2 ^ 88 + base % 2 ^ 44 * 2 ^ 44 +
    len % 2 ^ 44)

/-- The rights bits (f04 R90). -/
def rightR : Nat := 0x01
def rightW : Nat := 0x02
def rightA : Nat := 0x04
def rightG : Nat := 0x08
def rightD : Nat := 0x10
def rightS : Nat := 0x20
def rightT : Nat := 0x40

/-- Whether `have_` holds every right of `need`. -/
def hasRights (have_ need : Nat) : Bool := have_ &&& need == need

/-! ### The sealed form (f04 R95) -/

/-- One SipHash round (PRESUMED, log entry 14: the public definition of SipHash). -/
def sipRound (v : BitVec 64 × BitVec 64 × BitVec 64 × BitVec 64) : BitVec 64 × BitVec 64 × BitVec 64 × BitVec 64 :=
  let (v0, v1, v2, v3) := v
  let v0 := v0 + v1
  let v1 := v1.rotateLeft 13 ^^^ v0
  let v0 := v0.rotateLeft 32
  let v2 := v2 + v3
  let v3 := v3.rotateLeft 16 ^^^ v2
  let v0 := v0 + v3
  let v3 := v3.rotateLeft 21 ^^^ v0
  let v2 := v2 + v1
  let v1 := v1.rotateLeft 17 ^^^ v2
  let v2 := v2.rotateLeft 32
  (v0, v1, v2, v3)

/-- SipHash-2-4 of sixteen bytes held as a 128-bit value (PRESUMED, log entry 14). -/
def sipHash (key msg : BitVec 128) : BitVec 64 :=
  let k0 := key.extractLsb' 0 64
  let k1 := key.extractLsb' 64 64
  let absorb := fun (v : BitVec 64 × BitVec 64 × BitVec 64 × BitVec 64) (m : BitVec 64) =>
    let v := (v.1, v.2.1, v.2.2.1, v.2.2.2 ^^^ m)
    let v := sipRound (sipRound v)
    (v.1 ^^^ m, v.2.1, v.2.2.1, v.2.2.2)
  let v := (k0 ^^^ 0x736f6d6570736575#64, k1 ^^^ 0x646f72616e646f6d#64, k0 ^^^ 0x6c7967656e657261#64,
    k1 ^^^ 0x7465646279746573#64)
  let v := absorb v (msg.extractLsb' 0 64)
  let v := absorb v (msg.extractLsb' 64 64)
  let v := absorb v (BitVec.ofNat 64 (16 * 2 ^ 56))
  let v := (v.1, v.2.1, v.2.2.1 ^^^ 0xff#64, v.2.2.2)
  let v := sipRound (sipRound (sipRound (sipRound v)))
  v.1 ^^^ v.2.1 ^^^ v.2.2.1 ^^^ v.2.2.2

/-- The sealed form under the key numbered `key`: capability, tag, eight zero bytes. -/
def sealCap (key : Nat) (c : BitVec 128) : Sealed := (0#64 ++ sipHash (Config.sealKey key) c) ++ c

/-- What a sealed form holds, when it passes the checks of f04 R96 for a tenant. -/
def unsealCap (key tenant : Nat) (w : Sealed) : Option (BitVec 128) :=
  let c := w.extractLsb' 0 128
  if w.extractLsb' 128 64 = sipHash (Config.sealKey key) c ∧ w.extractLsb' 192 64 = 0 ∧ capTid c = tenant ∧
      capRights c < 128 then some c
  else none

/-! ### Object table entries (f04 R99) -/

def entField (e : BitVec 256) (lo len : Nat) : Nat := e.toNat / 2 ^ lo % 2 ^ len
def entSet (e : BitVec 256) (lo len v : Nat) : BitVec 256 :=
  BitVec.ofNat 256 (e.toNat - entField e lo len * 2 ^ lo + v % 2 ^ len * 2 ^ lo)
def entKind (e : BitVec 256) : Nat := entField e 252 4
def entHome (e : BitVec 256) : Nat := entField e 249 3
def entDie (e : BitVec 256) : Nat := entField e 246 3
def entTp (e : BitVec 256) : Nat := entField e 245 1
def entWst (e : BitVec 256) : Nat := entField e 244 1
def entMig (e : BitVec 256) : Nat := entField e 242 1
def entNx (e : BitVec 256) : Nat := entField e 239 3
def entXsz (e : BitVec 256) : Nat := entField e 234 5
def entLen (e : BitVec 256) : Nat := entField e 180 44
/-- Inline extent base i. -/
def entX (e : BitVec 256) (i : Nat) : Nat := entField e (135 - 45 * i) 45

/-- An object of a tenant. -/
def Tenant.obj (t : Tenant) (n : Nat) : Obj := SMap.get Obj.free t.objs n
def State.obj (s : State) (tenant n : Nat) : Obj := (s.tenant tenant).obj n
def State.setObj (s : State) (tenant n : Nat) (o : Obj) : State :=
  let t := s.tenant tenant
  s.setTenant tenant { t with objs := SMap.set Obj.free t.objs n o }

/-! ### Device addresses (f04 R101, R102) -/

def devAddr (pkg die level off : Nat) : Nat := 2 ^ 56 + pkg % 512 * 2 ^ 47 + die % 8 * 2 ^ 44 + level % 8 * 2 ^ 41 + off
def addrDev (a : Nat) : Bool := a / 2 ^ 56 % 2 == 1
def addrPkg (a : Nat) : Nat := a / 2 ^ 47 % 512
def addrDie (a : Nat) : Nat := a / 2 ^ 44 % 8
def addrLevel (a : Nat) : Nat := a / 2 ^ 41 % 8
def addrOff (a : Nat) : Nat := a % 2 ^ 41
/-- The level code of an address, 4 for the host half. -/
def homeOf (a : Nat) : Nat := if addrDev a then addrLevel a else 4

/-- Capacity of a level in the offset bits it uses (f04 R102, f01 R7). -/
def levelCap : Nat → Nat
  | 0 => 12 * 2 ^ 23
  | 1 => 2 ^ 28
  | 2 => 2 ^ 31
  | 3 => 2 ^ 35
  | _ => 0

/-- A legal address: of the host half, or of a level of R102 and inside it. -/
def addrOk (a : Nat) : Bool :=
  decide (a < 2 ^ 57) && (!addrDev a || (decide (addrLevel a < 4) && decide (addrOff a < levelCap (addrLevel a))))

/-- The Hen that serves an address: DRAM channel group 0..31, deep-store port 32..39, of its die (f04 R102, f01 R12). -/
def henOf (a : Nat) : Nat :=
  addrDie a * 40 + (if addrLevel a = 3 then addrOff a / 2 ^ 30 else 32 + addrOff a / 2 ^ 25)

/-- Bank group of a weight-store address (f02 R50). -/
def bankGroup (a : Nat) : Nat := addrOff a / 4096 % 16

/-- What one byte of an object translates to. -/
inductive XAddr where
  | at_ (a : Nat)
  | absent
  | bad
  deriving DecidableEq, Repr

/-- The extent base word of all ones: non-resident (f04 R99). -/
def absentBase : Nat := 2 ^ 45 - 1

/-- Where an address of a function stands in memory: a host address lies in the space of the function's PASID (f09 R228, f04 R101). -/
def State.spaceOf (s : State) (fn a : Nat) : Nat :=
  if addrDev a then a else (s.func fn).pasid.toNat * 2 ^ 57 + a % 2 ^ 57

/-- Base of extent e of an entry of a tenant (f04 R100). Bits 63..45 of a word of an extent table, which R100 has zero, are masked off
(DESIGN CHOICE, log entry 142). -/
def extentBase (s : State) (tenant : Nat) (ent : BitVec 256) (e : Nat) : Option Nat :=
  if entNx ent = 7 then some (natOf (s.mem.readN (s.spaceOf tenant (entX ent 0 * 4096 + 8 * e)) 8) % 2 ^ 45)
  else if e < entNx ent then some (entX ent e) else none

/-- Offset x of an object of a tenant to an address (f04 R100, R102). An extent that lies in the other half of R101
than its object's HOME, or whose host address has bit 55 set (f04 R103), translates to nothing. -/
def translate (s : State) (tenant : Nat) (ent : BitVec 256) (x : Nat) : XAddr :=
  let sz := 2 ^ (12 + entXsz ent)
  match extentBase s tenant ent (x / sz) with
  | none => .bad
  | some b =>
    if b = absentBase then .absent
    else
      let a := b * 4096 + x % sz
      if addrOk a ∧ (if entHome ent = 4 then a < 2 ^ 55 else addrDev a) then .at_ (s.spaceOf tenant a) else .bad

/-! ### The window of a strand (f04 R94, R107) -/

/-- Place of a logical core of a timetable. -/
def Timetable.placeOf (t : Timetable) (lc : Nat) : Place := t.place.getD lc ⟨0, 0, 0, 0, 0, false, []⟩

/-- The physical core a logical core of a timetable is placed on (f01 R9). -/
def Place.coreNo (p : Place) : Nat := 96 * p.die + 8 * p.clu + p.core

/-- Window offset x of a logical core's scratchpad window to a device address. -/
def windowAddr (t : Timetable) (lc x : Nat) : XAddr :=
  let p := t.placeOf lc
  if x < t.img.banks * 131072 then
    .at_ (devAddr p.pkg p.die 0 (p.clu * 2 ^ 23 + p.banks.getD (x / 131072) 0 * 131072 + x % 131072))
  else .bad

/-- The window capability every strand holds in C1 at VCLK 0: rights R, W, A, G, D and T (f04 R94). Its object number
is the model's (DESIGN CHOICE, log entry 15). -/
def windowCap (t : Timetable) : Cap :=
  ⟨capMake t.tenant 0xFFFFFF (rightR + rightW + rightA + rightG + rightD + rightT) 0 (t.img.banks * 131072), true⟩

/-! ### Access checks (f04 R91) -/

/-- The strand's timetable, its tenant and its logical core's place. -/
def State.ttOfStrand (s : State) (sid : Nat) : Timetable := s.tt (ttOf sid)
def State.owner (s : State) (sid : Nat) : Nat := (s.ttOfStrand sid).tenant
def State.placeOfStrand (s : State) (sid : Nat) : Place := (s.ttOfStrand sid).placeOf (s.strand sid).lcore

/-- The entry a capability of a tenant names. -/
def State.entryOf (s : State) (c : Cap) : BitVec 256 := (s.obj (capTid c.bits) (capObj c.bits)).entry

/-- The HOME an access through a capability reaches (f04 R99): 0 scratchpad .. 4 host. -/
def State.homeOfCap (s : State) (c : Cap) : Nat := if c.win then 0 else entHome (s.entryOf c)

/-- The byte at window offset o of a capability held by a strand. -/
def State.capAddr (s : State) (sid : Nat) (c : Cap) (o : Nat) : XAddr :=
  if c.win then windowAddr (s.ttOfStrand sid) (s.strand sid).lcore (capBase c.bits + o)
  else translate s (capTid c.bits) (s.entryOf c) (capBase c.bits + o)

/-- The object's LEN (f04 R91): the window's size for the window capability. -/
def State.objLen (s : State) (sid : Nat) (c : Cap) : Nat :=
  if c.win then (s.ttOfStrand sid).img.banks * 131072 else entLen (s.entryOf c)

/-- The access leaves the strand's own die or package (f04 R89). -/
def State.isRemote (s : State) (sid a : Nat) : Bool :=
  let p := s.placeOfStrand sid
  addrDev a && (decide (addrPkg a ≠ p.pkg) || decide (addrDie a ≠ p.die))

/-- Whether the strand's timetable is in an M-step (f03 R65). -/
def State.inMStep (s : State) (sid : Nat) : Bool := (s.ttOfStrand sid).mstep.isSome

/-- The object is pinned for the strand's timetable (f04 R91 check 6); the window always is. -/
def State.isPinned (s : State) (sid : Nat) (c : Cap) : Bool :=
  c.win || (s.ttOfStrand sid).pins.any fun p => p.1 == capObj c.bits

/-- The window offsets at which an access of n bytes at o can change extent: its ends and every 4 KiB between. -/
def probes (o n : Nat) : List Nat :=
  if n = 0 then [] else (List.range ((n + 4095) / 4096)).map (fun i => o + 4096 * i) ++ [o + n - 1]

/-- The device addresses at those offsets. -/
def State.probeAddrs (s : State) (sid : Nat) (c : Cap) (o n : Nat) : List XAddr :=
  (probes o n).map (s.capAddr sid c)

/-- An access reaches beyond the strand's timed reach (f04 R91 check 5). -/
def State.outOfReach (s : State) (sid : Nat) (c : Cap) (o n : Nat) : Bool :=
  decide (s.homeOfCap c = 4) || (!(s.inMStep sid) && (s.probeAddrs sid c o n).any fun x =>
    match x with
    | .at_ a => s.isRemote sid a
    | _ => false)

/-- The issuing unit's checks of f04 R91 in their order for n bytes at window offset o, with the rights `need` (T among them
for a timed access): the first failing check's code. -/
def State.capIssue (s : State) (sid : Nat) (c : Cap) (o n need : Nat) : Option Nat :=
  let timed := hasRights need rightT
  if capObj c.bits = 0 then some Code.capNull
  else if capTid c.bits ≠ s.owner sid then some Code.capTenant
  else if ¬ hasRights (capRights c.bits) need then some Code.capRights
  else if capLen c.bits < o + n then some Code.capBound
  else if timed ∧ s.outOfReach sid c o n then some Code.capTimed
  else if timed ∧ ¬ s.isPinned sid c then some Code.capUnpin
  else none

/-- The port's checks: the object table entry, LEN and the address. -/
def State.capPort (s : State) (sid : Nat) (c : Cap) (o n : Nat) : Option Nat :=
  if ¬ c.win ∧ entKind (s.entryOf c) = 0 then some Code.capNull
  else if s.objLen sid c < capBase c.bits + o + n then some Code.capBound
  else if (s.probeAddrs sid c o n).any (· == .bad) then some Code.capBound
  else none

/-- Both, in their order. -/
def State.capCheck (s : State) (sid : Nat) (c : Cap) (o n need : Nat) : Option Nat :=
  match s.capIssue sid c o n need with
  | some code => some code
  | none => s.capPort sid c o n

/-- The state rule of the weight store (f04 R113): a write to a READABLE object, a read of a WRITABLE one. -/
def State.badState (s : State) (c : Cap) (write : Bool) : Bool :=
  decide (s.homeOfCap c = 2) && (if write then decide (entWst (s.entryOf c) = 0) else decide (entWst (s.entryOf c) = 1))

/-- A byte of a live gate word (f06 R161). -/
def State.inGate (s : State) (a : Nat) : Bool := (s.gate (a / 64 * 64)).live

/-- The addresses of n bytes from offset o; `none` for a non-resident byte. -/
def State.capBytes (s : State) (sid : Nat) (c : Cap) (o n : Nat) : List (Option Nat) :=
  (List.range n).map fun i =>
    match s.capAddr sid c (o + i) with
    | .at_ a => some a
    | _ => none

/-- The checks of a read of n bytes: R91, then the weight store's state. -/
def State.readCheck (s : State) (sid : Nat) (c : Cap) (o n need : Nat) : Option Nat :=
  match s.capCheck sid c o n need with
  | some code => some code
  | none => if s.badState c false then some Code.capState else none

/-- The checks of a write of n bytes: R91, the weight store's state, live gate words (f06 R161). -/
def State.writeCheck (s : State) (sid : Nat) (c : Cap) (o n need : Nat) : Option Nat :=
  match s.capCheck sid c o n need with
  | some code => some code
  | none =>
    if s.badState c true then some Code.capState
    else if (s.capBytes sid c o n).any (fun a => match a with | some a => s.inGate a | none => false) then some Code.gateWr
    else none

/-! ### Refresh windows (f02 R50) -/

/-- A bank group has still to be refreshed since GCLK was loaded: its first window after that has not ended (f08 R216; DEDUCED, log entry
120). -/
def State.unrefreshed (s : State) (group : Nat) : Bool :=
  let next := s.loadedAt + (4096 * group + 65536 - s.loadedAt % 65536) % 65536
  s.loaded && decide (s.gclk.toNat < next + 512)

/-- An address in its bank group's refresh window on this gcy (f02 R50), or not yet open for its first access. -/
def State.inRefresh (s : State) (a : Nat) : Bool :=
  homeOf a == 2 && ((let g := s.gclk.toNat % 65536; decide (4096 * bankGroup a ≤ g) && decide (g < 4096 * bankGroup a + 512)) ||
    s.unrefreshed (bankGroup a))

/-- Lines of an MMAS whose vcy has come. -/
def mmasTaken (issue occ v n : Nat) : Nat := (List.range n).countP fun i => decide (issue + i * occ / n ≤ v)

/-- A weight-store read of the strand would perform at vcy v, or at one before it that a meeting has passed over, in a refresh window of
its bank group (f02 R50). In an M-step no read waits for one (f03 R66, f18 R338). -/
def State.refreshHeld (s : State) (sid v : Nat) : Bool :=
  !s.inMStep sid && (s.strand sid).pend.any fun p =>
    let hit := fun (l : List (Option Nat)) => l.any fun a => match a with | some a => s.inRefresh a | none => false
    let now := match p.samp with | some t => decide (t ≤ v) | none => false
    match p.eff with
    | .load _ addrs none => now && hit addrs
    | .ox _ src none _ _ _ _ => now && hit src
    | .mmas _ _ _ issue occ lines got _ _ =>
      hit (((lines.take (mmasTaken issue occ v lines.length)).drop got.length).flatten)
    | _ => false

/-- A timed read that issues in an M-step and would perform `lat` vcy later in a refresh window of the weight store: a local wait there is
illegal (f03 R66, f18 R338). -/
def State.refreshInM (s : State) (sid lat : Nat) (addrs : List (Option Nat)) : Bool :=
  let later := { s with gclk := s.gclk + BitVec.ofNat 64 (lat * (s.ttOfStrand sid).stride) }
  s.inMStep sid && addrs.any fun a => match a with | some a => later.inRefresh a | none => false

/-- The strand is held back at its next bundle: it has come to the vcy of that bundle and has not run it (f03 R64, R78). -/
def Strand.heldBack (st : Strand) : Bool :=
  match st.wait with
  | .meet | .lease => true
  | .refresh _ => st.met
  | _ => false

/-- The vcy a strand runs next. -/
def Strand.nextVcy (st : Strand) : Nat := if st.started && !st.heldBack then st.vclk + 1 else st.vclk

/-! ### Latencies of timed accesses (f12 R318, f08 R209) -/

/-- Latency rows of LDS and STS, and of VLD, by level. -/
def ldsLat : Nat → Nat
  | 0 => 8
  | 1 => 40
  | 2 => 60
  | 3 => 160
  | _ => 8
def vldLat : Nat → Nat
  | 0 => 10
  | 1 => 40
  | 2 => 60
  | 3 => 160
  | _ => 10

/-- The hop latency of the M-step's route toward a die: the route record that names a logical die there, else the
largest (DEDUCED, log entry 17). -/
def Timetable.hops (t : Timetable) (pkg die : Nat) : Nat :=
  match t.mstep with
  | none => 0
  | some m =>
    let routes := match t.img.msteps[m]? with
      | some e => e.routes
      | none => []
    let there := routes.filter fun r =>
      let p := t.placeOf (r.ldie * t.img.c)
      decide (p.pkg = pkg) && decide (p.die = die)
    let pool := if there.isEmpty then routes else there
    pool.foldl (fun m r => max m r.h) 0

/-- Latency of a timed access at window offset o: the level's row, or f08 R209 for remote memory.  Where the object does
not resolve, the scratchpad's row (DESIGN CHOICE, log entry 18). -/
def State.accLat (s : State) (sid : Nat) (c : Cap) (o : Nat) (row : Nat → Nat) (load : Bool) : Nat :=
  match s.capAddr sid c o with
  | .at_ a =>
    if s.isRemote sid a then
      vldLat (homeOf a) + (if load then 2 else 1) * (s.ttOfStrand sid).hops (addrPkg a) (addrDie a)
    else row (homeOf a)
  | _ => row (s.homeOfCap c)

end Sys2Proof.Machine
end

