-- ==== Sys2Proof/Machine/Flags.lean ====
section
/-! DEFINITION. The status flags (f05 R120) and how an instruction raises them. -/
namespace Sys2Proof.Machine

/-- FLAGS bits (f05 R120). -/
def Flag.none : BitVec 8 := 0
def Flag.nv : BitVec 8 := 0x01
def Flag.dz : BitVec 8 := 0x02
def Flag.of_ : BitVec 8 := 0x04
def Flag.uf : BitVec 8 := 0x08
def Flag.ix : BitVec 8 := 0x10
def Flag.sat : BitVec 8 := 0x20
def Flag.modErr : BitVec 8 := 0x40
def Flag.nanLost : BitVec 8 := 0x80

/-- A flag when a condition holds. -/
def flagIf (c : Bool) (f : BitVec 8) : BitVec 8 := if c then f else 0

/-- The OR of a list of flags: only active lanes are in it (f20 R405). -/
def orFlags (l : List (BitVec 8)) : BitVec 8 := l.foldl (· ||| ·) 0

/-- The flags of a write, raised at its perform vcy; nothing is pushed when none is raised. -/
def Strand.pushFlags (st : Strand) (slot lat : Nat) (f : BitVec 8) : Strand :=
  if f = 0 then st else st.push slot lat (.flags f)

/-- Raising at the perform vcy: OR-ed into FLAGS, and remembered for a WRCSR landing in the same vcy. -/
def Strand.raise (st : Strand) (f : BitVec 8) : Strand :=
  { st.setCsr 0x010 (st.getCsr 0x010 ||| f.setWidth 64) with raised := st.raised ||| f }

/-- Writable bits of a CSR: reserved bits ignore a write (f01 R5, f20 R430; f03 R77, f05 R120, R131, f12 R315). -/
def csrMask (n : Nat) : BitVec 64 :=
  if n = 0x010 then 0xFF
  else if n = 0x020 then 0xF3
  else if 0x080 ≤ n ∧ n < 0x088 then 0xFF
  else if 0x040 ≤ n ∧ n < 0x050 then 0xFF000003FF
  else BitVec.allOnes 64

/-- Bits of a CSR that read as they stand: the reserved fields of an FT entry read 0 (f01 R5, f05 R131). An entry of the image's format table
stands as the image has it, for the check of f05 R132. -/
def readMask (n : Nat) : BitVec 64 := if 0x040 ≤ n ∧ n < 0x050 then 0xFF000003FF else BitVec.allOnes 64

/-- A CSR write landing: FLAGS takes the bits raised in the same vcy too (f05 R120); an ECSEL is taken over at the end of
the gcy (f20 R430). -/
def Strand.landCsr (st : Strand) (n : Nat) (v : BitVec 64) : Strand :=
  let w := v &&& csrMask n
  if n = 0x010 then st.setCsr n (w ||| st.raised.setWidth 64)
  else if 0x080 ≤ n ∧ n < 0x088 then { st with ecsel := st.ecsel ++ [(n, w)] }
  else st.setCsr n w

end Sys2Proof.Machine
end

