-- ==== Sys2Proof/Machine/Operands.lean ====
section
/-! DEFINITION. The operand forms: who executes a word (a strand's slot, a Hen's routine, a Mule hart), reading its operands,
and writing its result under f03 R62 in a strand or at once in a Hen (f12 R305, f18 R339). -/
namespace Sys2Proof.Machine

def State.job (s : State) (n : Nat) : Job := SMap.get Job.none s.jobs n
def State.setJob (s : State) (n : Nat) (j : Job) : State := { s with jobs := SMap.set Job.none s.jobs n j }
def State.coll (s : State) (ctx : Nat) : Coll := SMap.get Coll.none s.colls ctx
def State.setColl (s : State) (ctx : Nat) (c : Coll) : State := { s with colls := SMap.set Coll.none s.colls ctx c }

/-- A Hen's reply leaves for the package that asked, from the router its port is attached to (f08 R204, R212). -/
def State.replyMail (s : State) (port : Nat) (x : Nat × Nat × Nat) (bytes : List Byte) : State :=
  let (pkg, core, seq) := x
  let p := port / 256
  let router := p / 40 * 24 + (if p % 40 < 32 then 12 + p % 40 / 4 else p % 40 - 32)
  { s with post := s.post ++ [⟨pkg, port % 256, router, [0x08 * 2 ^ 16 + router], none, 0,
    .reply (s.pkg * 320 + p) core seq ((bytes.headD 0).toNat) bytes.tail⟩] }

/-- A reply to another package, kept with the replies to the 64 newest numbers of its source core (f07 R193): status byte
and data. -/
def State.henReply (s : State) (port : Nat) (x : Nat × Nat × Nat) (status : Nat) (data : List Byte) : State :=
  let (pkg, core, seq) := x
  let bytes := BitVec.ofNat 8 status :: data
  let cache := SMap.get [] s.replays (port / 256)
  let key := pkg * 2 ^ 16 + core
  let r := SMap.get ⟨0, []⟩ cache key
  let kept := (r.kept ++ [(seq, bytes)]).filter fun x => decide ((r.top + 2 ^ 16 - x.1) % 2 ^ 16 < 64)
  { s with
    replays := SMap.set [] s.replays (port / 256) (SMap.set ⟨0, []⟩ cache key ⟨r.top, kept⟩) }.replyMail port x bytes

/-- The end of a Hen's current request (f18 R359, R360): the reply is the one sent, else `status` with the data given; a
job counts it off and keeps the first non-zero status (f19 R382); a request of another package is answered outward, with what it has
performed and staged (log entry 149). -/
def State.henEnd (s : State) (port status : Nat) : State :=
  let h := s.hen port
  let (st, data) := h.replied.getD (status, [])
  let s := s.setHen port { h with cur := none, replied := none }
  match h.cur with
  | none => s
  | some r =>
    match r.from_ with
    | some x => s.henReply port x st ((data.flatMap fun w => bytesOf 8 w.toNat) ++ bytesOf 8 r.wrote ++ bytesOf 8 r.lines)
    | none =>
      let j := s.job r.job
      s.setJob r.job { j with hens := j.hens - 1, status := if j.status = 0 then st else j.status }

/-- An illegal word in Hen code: the request ends with NOROUTINE (f12 R317). -/
def State.henIllegal (s : State) (port : Nat) : State := s.henEnd port 0x09

/-- A word the Mule hart does not have: the illegal-instruction exception, mcause 2 (f09 R244; PRESUMED, log entry 9). -/
def State.hartIllegal (s : State) (n : Fin 32) : State := s.setHart n ((s.hart n).trap 2 0)

/-- A word a strand's slot has no map for: suppressed, ILLOP recorded, no unit held (f12 R317). -/
def State.slotIllegal (s : State) (sid slot : Nat) : State := s.suppressHere sid Code.illop slot

/-- The agent whose word this is: a strand, a Hen, or a hart. -/
def byAgent (s : State) (onStrand : Nat → State) (onHen : Nat → State) (onHart : Fin 32 → State) : Result :=
  match s.cur with
  | .strand sid => .next (onStrand sid)
  | .hen p => .next (onHen p)
  | .hart h => .next (onHart h)
  | .none => notEnabled "no agent"

/-- A word only a strand has: in a Hen it ends the request with NOROUTINE, in a Mule hart it is illegal. -/
def strandOnly (s : State) (f : Nat → State) : Result := byAgent s f s.henIllegal s.hartIllegal

/-- A word only a Hen has; in a strand's slot it is illegal. -/
def henOnly (s : State) (f : Nat → State) : Result := byAgent s (fun sid => s.slotIllegal sid 0) f s.hartIllegal

/-- A word only a Mule hart has. -/
def hartOnly (s : State) (f : Fin 32 → State) : Result := byAgent s (fun sid => s.slotIllegal sid 0) s.henIllegal f

/-- The mould of a D result (f18 R341): `val` of the registers read, written to Dd at issue + `lat` in a strand, at once in
a Hen, where registers above D31 are illegal (f18 R339). -/
def dResult (s : State) (lat : Nat) (d : BitVec 6) (srcs : List (BitVec 6)) (tainted : Bool)
    (val : (Nat → BitVec 64) → BitVec 64) : Result :=
  byAgent s
    (fun sid =>
      let st := s.strand sid
      s.setStrand sid (st.push 0 lat (.d d.toNat (val st.rd) (tainted && st.taints (srcs.map (·.toNat))))))
    (fun p =>
      let h := s.hen p
      if d.toNat < 32 ∧ (srcs.all fun r => decide (r.toNat < 32)) then s.setHen p (h.wd d.toNat (val h.rd))
      else s.henIllegal p)
    s.hartIllegal

/-- Signed reading of a 64-bit pattern (f18 R338). -/
def sgn (v : BitVec 64) : Int := v.toInt

/-- Wrap64 (f18 R338). -/
def wrap64 (x : Int) : BitVec 64 := BitVec.ofInt 64 x

/-- The index of a lane of a mask register guard: P0..P15 (f12 R308). -/
def Strand.guard (st : Strand) (g : BitVec 4) (l : Nat) : Bool := st.pb g.toNat l

/-- Window offset formed from a register and a scaled signed immediate (f18 R348). -/
def offImm (base : BitVec 64) (scale : Nat) (imm : BitVec 7) : Nat :=
  (wrap64 ((base.toNat : Int) + (scale : Int) * imm.toInt)).toNat

/-- A local wait is illegal in an M-step: suppressed with ILLOP, and it does not wait (f18 R338). -/
def State.noWait (s : State) (sid : Nat) : Bool := s.inMStep sid

/-- The strand goes into a local wait. Two waits of one bundle are taken up one after the other, EXIT and a barrier last
(DEDUCED, log entry 20). -/
def Strand.enter (st : Strand) (w : Wait) : Strand :=
  match st.wait with
  | .none => { st with wait := w }
  | .exit _ | .barrier => { st with wait := w, more := st.more ++ [st.wait] }
  | _ => { st with more := st.more ++ [w] }
def State.freeze (s : State) (sid : Nat) (w : Wait) : State := s.modStrand sid fun st => st.enter w

/-- A wait has been answered: its writes are owed to the strand's next vcy, and the next wait of the bundle, if any, is
taken up (f12 R319). -/
def Strand.answer (st : Strand) (effs : List Eff) : Strand :=
  match st.more with
  | [] => { st with wait := .done (st.owed ++ effs), owed := [] }
  | w :: rest => { st with wait := w, more := rest, owed := st.owed ++ effs }

/-- The gate a capability names: the address of offset 0 of its window, when it passes the checks of f18 R340 (none where its extent is
not resident); else the fault code. -/
def State.gateOf (s : State) (sid : Nat) (c : Cap) : Except Nat (Option Nat) :=
  match s.capCheck sid c 0 64 rightG with
  | some code => .error code
  | none =>
    if capBase c.bits % 64 ≠ 0 then .error Code.capBound
    else if s.homeOfCap c ≠ 1 ∧ s.homeOfCap c ≠ 3 then .error Code.oxDest
    else match s.capAddr sid c 0 with
      | .at_ a => .ok (some a)
      | _ => .ok none

/-- The count of a semaphore of the strand's logical core (f07 R182, f19 R377); `none` beyond the allotment. -/
def State.semKey (s : State) (sid idx : Nat) : Option Nat :=
  if idx < (s.ttOfStrand sid).img.sems then some ((s.strand sid).lcore * 256 + idx) else none

def Timetable.sem (t : Timetable) (k : Nat) : BitVec 32 := SMap.get 0 t.sems k
def Timetable.setSem (t : Timetable) (k : Nat) (v : BitVec 32) : Timetable := { t with sems := SMap.set 0 t.sems k v }

/-- COUNT of a semaphore and its other fields (f07 R182). -/
def semCount (v : BitVec 32) : Nat := v.toNat % 2 ^ 16
def semWith (v : BitVec 32) (count : Nat) : BitVec 32 :=
  BitVec.ofNat 32 (v.toNat / 2 ^ 16 * 2 ^ 16 + count % 2 ^ 16)

/-- A signal of `n` units (f07 R182): clipped at 65 535; with an error, ERR is set and STAT written when ERR was 0. -/
def semSignal (v : BitVec 32) (n : Nat) (err : Option Nat) : BitVec 32 × Bool :=
  let c := semCount v + n
  let w := semWith v (if 65535 < c then 65535 else c)
  let w := match err with
    | none => w
    | some st => if w.getLsbD 31 then w else w ||| BitVec.ofNat 32 (2 ^ 31 + st % 128 * 2 ^ 24)
  (w, decide (65535 < c))

/-- A signal to an allotment entry of a strand's logical core; a clipped one records SEMOVF in the strand, with the bundle that sent it (f07
R182, f10 R258). -/
def State.signal (s : State) (sid idx n : Nat) (err : Option Nat) (bundle : Nat) : State :=
  match s.semKey sid idx with
  | none => s
  | some k =>
    let t := s.ttOfStrand sid
    let (v, clipped) := semSignal (t.sem k) n err
    let s := s.setTt (ttOf sid) (t.setSem k v)
    if clipped then s.fault sid Code.semOvf 3 0 bundle else s

end Sys2Proof.Machine
end

