-- ==== Sys2Proof/Machine/Numfmt.lean ====
section
/-! DEFINITION. Number formats, rounding and exact arithmetic (f05 R121..R144).  A finite value is (−1)^neg · m · 2^e, held
exactly; every rounding goes through `roundTo`. -/
namespace Sys2Proof.Machine

/-- A floating-point format (f05 R122): field widths, bias; `kind` 0 has infinities and NaNs as IEEE, 1 is F8E4 (one NaN
pattern, no infinity), 2 has numbers only. -/
structure Fmt where
  ebits : Nat
  mbits : Nat
  bias  : Nat
  kind  : Nat
  deriving DecidableEq, Repr

def fF32 : Fmt := ⟨8, 23, 127, 0⟩
def fF16 : Fmt := ⟨5, 10, 15, 0⟩
def fBF16 : Fmt := ⟨8, 7, 127, 0⟩
def fF8E4 : Fmt := ⟨4, 3, 7, 1⟩
def fF8E5 : Fmt := ⟨5, 2, 15, 0⟩
/-- E3M4 without infinity, the finaliser's emulation (f05 R130). -/
def fF8E3 : Fmt := ⟨3, 4, 3, 1⟩
def fF6E3 : Fmt := ⟨3, 2, 3, 2⟩
def fF6E2 : Fmt := ⟨2, 3, 1, 2⟩
def fF4E2 : Fmt := ⟨2, 1, 1, 2⟩

/-- A value: NaN (signalling or not), infinity, or finite with its sign (a zero keeps its sign). -/
inductive FV where
  | nan (sig : Bool)
  | inf (neg : Bool)
  | fin (neg : Bool) (m : Nat) (e : Int)
  deriving DecidableEq, Repr

def FV.isNan : FV → Bool
  | .nan _ => true
  | _ => false
def FV.isSig : FV → Bool
  | .nan s => s
  | _ => false
def FV.isInf : FV → Bool
  | .inf _ => true
  | _ => false
def FV.isZero : FV → Bool
  | .fin _ m _ => m == 0
  | _ => false
def FV.neg? : FV → Bool
  | .nan _ => false
  | .inf n => n
  | .fin n _ _ => n

/-- Width of a format in bits. -/
def Fmt.width (f : Fmt) : Nat := 1 + f.ebits + f.mbits

/-- The value of a code (f05 R122). F8E4 and F8E5 NaNs are quiet (R121). -/
def Fmt.decode (f : Fmt) (c : Nat) : FV :=
  let s := c / 2 ^ (f.ebits + f.mbits) % 2 == 1
  let e := c / 2 ^ f.mbits % 2 ^ f.ebits
  let m := c % 2 ^ f.mbits
  if f.kind = 0 ∧ e = 2 ^ f.ebits - 1 then
    if m = 0 then .inf s else .nan (decide (f.mbits > 2) && m / 2 ^ (f.mbits - 1) == 0)
  else if f.kind = 1 ∧ e = 2 ^ f.ebits - 1 ∧ m = 2 ^ f.mbits - 1 then .nan false
  else if e = 0 then .fin s m (1 - (f.bias : Int) - f.mbits)
  else .fin s (2 ^ f.mbits + m) ((e : Int) - f.bias - f.mbits)

/-- Canonical quiet NaN (f05 R121, R141): F8E4 0x7F, F8E5 0x7E. -/
def Fmt.nan (f : Fmt) : Nat :=
  if f.kind = 1 then 2 ^ (f.ebits + f.mbits) - 1
  else (2 ^ f.ebits - 1) * 2 ^ f.mbits + 2 ^ (f.mbits - 1)

/-- Infinity of a sign; F8E4 has none. -/
def Fmt.inf (f : Fmt) (neg : Bool) : Nat := b2n neg * 2 ^ (f.ebits + f.mbits) + (2 ^ f.ebits - 1) * 2 ^ f.mbits

/-- Zero of a sign. -/
def Fmt.zero (f : Fmt) (neg : Bool) : Nat := b2n neg * 2 ^ (f.ebits + f.mbits)

/-- Code of the largest finite magnitude (f05 R122). -/
def Fmt.maxCode (f : Fmt) : Nat :=
  if f.kind = 0 then (2 ^ f.ebits - 1) * 2 ^ f.mbits - 1
  else if f.kind = 1 then 2 ^ (f.ebits + f.mbits) - 2
  else 2 ^ (f.ebits + f.mbits) - 1

/-- Rounding modes (f05 R139); SR carries the element's random word. -/
inductive RMode where
  | rne | rtz | rup | rdn
  | sr (u : Nat)
  deriving DecidableEq, Repr

/-- Overflow and special handling of a destination (f05 R141, R142): IEEE and OVF, SATF, or the clipping of the formats
without specials. -/
inductive Ovf where
  | ieee | satf
  deriving DecidableEq, Repr

/-- Whether the magnitude is rounded up, from the remainder over 2^k and the parity of what was kept. -/
def roundsUp (mode : RMode) (neg : Bool) (n rem k : Nat) : Bool :=
  if rem = 0 then false
  else match mode with
    | .rne => decide (2 * rem > 2 ^ k) || (decide (2 * rem = 2 ^ k) && n % 2 == 1)
    | .rtz => false
    | .rup => !neg
    | .rdn => neg
    | .sr u => decide (u < rem * 2 ^ 32 / 2 ^ k)

/-- m · 2^e on the grid 2^q: the integer multiple and whether it is inexact. -/
def onGrid (mode : RMode) (neg : Bool) (m : Nat) (e q : Int) : Nat × Bool :=
  if q ≤ e then (m * 2 ^ (e - q).toNat, false)
  else
    let k := (q - e).toNat
    let n := m / 2 ^ k
    let rem := m % 2 ^ k
    (if roundsUp mode neg n rem k then n + 1 else n, decide (rem ≠ 0))

/-- A rounded magnitude before overflow is judged: code (sign 0) with unbounded exponent field, inexact, tiny. -/
def roundMag (f : Fmt) (mode : RMode) (neg : Bool) (m : Nat) (e : Int) : Nat × Bool × Bool :=
  if m = 0 then (0, false, false)
  else
    let top : Int := (Nat.log2 m : Int) + e
    let emin : Int := 1 - (f.bias : Int)
    let q := (if top < emin then emin else top) - f.mbits
    let (n, ix) := onGrid mode neg m e q
    let code := if n < 2 ^ f.mbits then n else (q + f.mbits + f.bias - 1).toNat * 2 ^ f.mbits + n
    let (n', _) := onGrid mode neg m e (top - f.mbits)
    let tiny := decide (top < emin) && !(decide (n' = 2 ^ (f.mbits + 1)) && decide (top + 1 = emin))
    (code, ix, tiny)

/-- Whether an overflow goes to the largest finite value (f05 R141: RTZ, or a directed mode toward zero). -/
def towardZero (mode : RMode) (neg : Bool) : Bool :=
  match mode with
  | .rtz => true
  | .rup => neg
  | .rdn => !neg
  | _ => false

/-- A finite value rounded into a format, with its flags (f05 R139..R142). -/
def roundTo (f : Fmt) (mode : RMode) (ovf : Ovf) (neg : Bool) (m : Nat) (e : Int) : Nat × BitVec 8 :=
  let (code, ix, tiny) := roundMag f mode neg m e
  let sign := b2n neg * 2 ^ (f.ebits + f.mbits)
  if code ≤ f.maxCode then
    (sign + code, flagIf ix Flag.ix ||| flagIf (ix && tiny) Flag.uf)
  else if f.kind = 2 ∨ ovf = .satf then (sign + f.maxCode, Flag.sat ||| Flag.ix)
  else if towardZero mode neg then (sign + f.maxCode, Flag.of_ ||| Flag.ix)
  else if f.kind = 1 then (f.nan, Flag.of_ ||| Flag.ix)
  else (f.inf neg, Flag.of_ ||| Flag.ix)

/-- Infinity into a format (f05 R141, R142). -/
def infTo (f : Fmt) (ovf : Ovf) (neg : Bool) (fromF8rule : Bool) : Nat × BitVec 8 :=
  let sign := b2n neg * 2 ^ (f.ebits + f.mbits)
  if f.kind = 2 then (sign + f.maxCode, Flag.sat)
  else if f.width = 8 ∧ ovf = .satf then (sign + f.maxCode, Flag.sat)
  else if f.kind = 1 then (f.nan, Flag.of_)
  else (f.inf neg, flagIf (decide (f.width = 8) && fromF8rule) Flag.of_)

/-- NaN into a format: its canonical NaN, or +0 with NANLOST where it has none (f05 R121, R141, R142). -/
def nanTo (f : Fmt) (sig : Bool) : Nat × BitVec 8 :=
  if f.kind = 2 then (0, Flag.nanLost ||| flagIf sig Flag.nv) else (f.nan, flagIf sig Flag.nv)

/-- The overflow rule a format follows: F16, BF16 and F32 follow IEEE whatever mode the control word names (f05 R141). -/
def Fmt.ovfRule (f : Fmt) (ovf : Ovf) : Ovf := if 8 < f.width then .ieee else ovf

/-- A value converted into a format (f05 R139..R142). -/
def convTo (f : Fmt) (mode : RMode) (ovf : Ovf) (x : FV) : Nat × BitVec 8 :=
  match x with
  | .nan s => nanTo f s
  | .inf n => infTo f ovf n true
  | .fin n m e => if m = 0 then (f.zero n, 0) else roundTo f mode (f.ovfRule ovf) n m e

/-! ### IEEE arithmetic (f05 R137) -/

/-- Signed mantissa on exponent `q ≤ e`. -/
def scaled (neg : Bool) (m : Nat) (e q : Int) : Int := (if neg then -1 else 1) * ((m * 2 ^ (e - q).toNat : Nat) : Int)

/-- Exact sum of two finite values; an exact zero sum is −0 only when both are −0 (round to nearest). -/
def finAdd (n1 : Bool) (m1 : Nat) (e1 : Int) (n2 : Bool) (m2 : Nat) (e2 : Int) : Bool × Nat × Int :=
  let q := if e1 ≤ e2 then e1 else e2
  let x := scaled n1 m1 e1 q + scaled n2 m2 e2 q
  if x = 0 then (n1 && n2 && decide (m1 = 0) && decide (m2 = 0), 0, q) else (decide (x < 0), x.natAbs, q)

/-- Rounded to nearest even into an IEEE format, zero keeping its sign. -/
def finish (f : Fmt) (r : Bool × Nat × Int) : Nat × BitVec 8 :=
  if r.2.1 = 0 then (f.zero r.1, 0) else roundTo f .rne .ieee r.1 r.2.1 r.2.2

/-- NV where an operand is a signalling NaN (f05 R121). -/
def sigFlag (l : List FV) : BitVec 8 := flagIf (l.any FV.isSig) Flag.nv

/-- a + b. -/
def fAdd (f : Fmt) (a b : FV) : Nat × BitVec 8 :=
  match a, b with
  | .nan _, _ => (f.nan, sigFlag [a, b])
  | _, .nan _ => (f.nan, sigFlag [a, b])
  | .inf n, .inf k => if n = k then (f.inf n, 0) else (f.nan, Flag.nv)
  | .inf n, .fin _ _ _ => (f.inf n, 0)
  | .fin _ _ _, .inf n => (f.inf n, 0)
  | .fin n1 m1 e1, .fin n2 m2 e2 => finish f (finAdd n1 m1 e1 n2 m2 e2)

/-- The negated value. -/
def FV.negate : FV → FV
  | .nan s => .nan s
  | .inf n => .inf (!n)
  | .fin n m e => .fin (!n) m e

/-- The exact product, or a NaN for ∞ × 0; the flag is NV in that case. -/
def fProd (a b : FV) : FV × BitVec 8 :=
  match a, b with
  | .nan _, _ => (.nan false, 0)
  | _, .nan _ => (.nan false, 0)
  | .inf n, .inf k => (.inf (n != k), 0)
  | .inf n, .fin k m _ => if m = 0 then (.nan false, Flag.nv) else (.inf (n != k), 0)
  | .fin k m _, .inf n => if m = 0 then (.nan false, Flag.nv) else (.inf (n != k), 0)
  | .fin n1 m1 e1, .fin n2 m2 e2 => (.fin (n1 != n2) (m1 * m2) (e1 + e2), 0)

/-- a × b. -/
def fMul (f : Fmt) (a b : FV) : Nat × BitVec 8 :=
  let (p, fl) := fProd a b
  match p with
  | .nan _ => (f.nan, fl ||| sigFlag [a, b])
  | .inf n => (f.inf n, 0)
  | .fin n m e => finish f (n, m, e)

/-- a × b + c with one rounding; NV for ∞ × 0 whatever c holds (f20 R409, f19 R396). -/
def fFma (f : Fmt) (a b c : FV) : Nat × BitVec 8 :=
  let (p, fl) := fProd a b
  let fl := fl ||| sigFlag [a, b, c]
  match p, c with
  | .nan _, _ => (f.nan, fl)
  | _, .nan _ => (f.nan, fl)
  | .inf n, .inf k => if n = k then (f.inf n, fl) else (f.nan, fl ||| Flag.nv)
  | .inf n, .fin _ _ _ => (f.inf n, fl)
  | .fin _ _ _, .inf n => (f.inf n, fl)
  | .fin n1 m1 e1, .fin n2 m2 e2 => finish f (finAdd n1 m1 e1 n2 m2 e2)

/-- a < b for values that are no NaN, with −0 = +0. -/
def fvLt (a b : FV) : Bool :=
  match a, b with
  | .nan _, _ => false
  | _, .nan _ => false
  | .inf n, .inf k => n && !k
  | .inf n, .fin _ _ _ => n
  | .fin _ _ _, .inf k => !k
  | .fin n1 m1 e1, .fin n2 m2 e2 =>
    let q := if e1 ≤ e2 then e1 else e2
    decide (scaled n1 m1 e1 q < scaled n2 m2 e2 q)

/-- a = b for values that are no NaN, with −0 = +0. -/
def fvEq (a b : FV) : Bool :=
  match a, b with
  | .nan _, _ => false
  | _, .nan _ => false
  | _, _ => !fvLt a b && !fvLt b a

/-- minimumNumber and maximumNumber (f05 R137): a number beats a NaN, −0 is less than +0; NV for a signalling NaN. -/
def fMinMax (f : Fmt) (isMax : Bool) (a b : Nat) : Nat × BitVec 8 :=
  let x := f.decode a
  let y := f.decode b
  let fl := sigFlag [x, y]
  if x.isNan && y.isNan then (f.nan, fl)
  else if x.isNan then (b, fl)
  else if y.isNan then (a, fl)
  else
    let less := fvLt x y || (fvEq x y && x.neg? && !y.neg?)
    (if less != isMax then a else b, fl)

/-- The comparisons of f19 R397 and f20 R412: 0 EQ, 1 NE, 2 LT, 3 LE, 4 UNORD. -/
def fCompare (f : Fmt) (cond : Nat) (a b : Nat) : Bool × BitVec 8 :=
  let x := f.decode a
  let y := f.decode b
  let un := x.isNan || y.isNan
  let sig := x.isSig || y.isSig
  match cond with
  | 0 => (fvEq x y, flagIf sig Flag.nv)
  | 1 => (!fvEq x y, flagIf sig Flag.nv)
  | 2 => (fvLt x y, flagIf un Flag.nv)
  | 3 => (fvLt x y || fvEq x y, flagIf un Flag.nv)
  | _ => (un, flagIf sig Flag.nv)

/-! ### Integers (f05 R125, R144) -/

/-- An integer type: width and signedness. -/
structure ITy where
  w : Nat
  signed : Bool
  deriving DecidableEq, Repr

def ITy.lo (t : ITy) : Int := if t.signed then -(2 ^ (t.w - 1) : Nat) else 0
def ITy.hi (t : ITy) : Int := if t.signed then (2 ^ (t.w - 1) : Nat) - 1 else (2 ^ t.w : Nat) - 1
/-- The number a pattern stands for. -/
def ITy.value (t : ITy) (c : Nat) : Int :=
  let c := c % 2 ^ t.w
  if t.signed ∧ 2 ^ (t.w - 1) ≤ c then (c : Int) - (2 ^ t.w : Nat) else c
/-- The pattern of a number, modulo 2^w. -/
def ITy.code (t : ITy) (x : Int) : Nat := (x % ((2 ^ t.w : Nat) : Int)).toNat

/-- A finite value rounded to an integer under a mode, and whether it was inexact. -/
def toInteger (mode : RMode) (neg : Bool) (m : Nat) (e : Int) : Int × Bool :=
  let (n, ix) := onGrid mode neg m e 0
  (if neg then -(n : Int) else n, ix)

/-- A value to an integer type (f05 R144). -/
def convToInt (t : ITy) (mode : RMode) (x : FV) : Nat × BitVec 8 :=
  match x with
  | .nan _ => (0, Flag.nv)
  | .inf n => (t.code (if n then t.lo else t.hi), Flag.sat)
  | .fin n m e =>
    let (v, ix) := toInteger mode n m e
    if v < t.lo then (t.code t.lo, Flag.sat ||| Flag.ix)
    else if t.hi < v then (t.code t.hi, Flag.sat ||| Flag.ix)
    else (t.code v, flagIf ix Flag.ix)

/-- Clipped to a type's range, SAT when clipped (f05 R125). -/
def satInt (t : ITy) (v : Int) : Int × BitVec 8 :=
  if v < t.lo then (t.lo, Flag.sat) else if t.hi < v then (t.hi, Flag.sat) else (v, 0)

/-- An integer as a value. -/
def FV.ofInt (v : Int) : FV := .fin (decide (v < 0)) v.natAbs 0

/-! ### LN6 (f05 R123, R124) -/

/-- Largest x with x·x ≤ n, by bits from 2^k down. -/
def isqrtAux (n : Nat) : Nat → Nat → Nat
  | 0, r => r
  | k + 1, r => let c := r + 2 ^ k; isqrtAux n k (if c * c ≤ n then c else r)

def isqrt (n : Nat) : Nat := isqrtAux n (Nat.log2 n / 2 + 1) 0

/-- Working bits of the values that are not exact (DEDUCED to be enough, log entry 19). -/
def workBits : Nat := 256

/-- 2^(t/4) as m · 2^e: exact when 4 divides t, else cut at `workBits` with a sticky last bit. -/
def root4 (t : Int) : Nat × Int :=
  let n := t / 4
  let f := (t % 4).toNat
  if f = 0 then (1, n)
  else (2 * isqrt (isqrt (2 ^ (f + 4 * workBits))) + 1, n - workBits - 1)

/-- The value of an LN6 element (f05 R123), irrational ones with a sticky bit. -/
def lnDecode (c : Nat) : FV :=
  let s := c / 32 % 2 == 1
  let l := c % 32
  if l = 0 then .fin s 0 0 else let (m, e) := root4 ((l : Int) - 16); .fin s m e

/-- Floor and exactness of y = 4·log2 |x| + 16 for |x| = m · 2^e (f05 R123). -/
def lnFloor (m : Nat) (e : Int) : Int × Bool :=
  let p := m ^ 4
  let k := Nat.log2 p
  ((k : Int) + 4 * e + 16, decide (p = 2 ^ k))

/-- Magnitude of a candidate as an integer scaled by 2^workBits. -/
def lnMagScaled (l : Int) : Nat :=
  if l ≤ 0 then 0
  else
    let (m, e) := root4 (l - 16)
    let sh := e + workBits
    if 0 ≤ sh then m * 2 ^ sh.toNat else m / 2 ^ (-sh).toNat

/-- A finite non-zero value into LN6 (f05 R123). -/
def lnEncode (mode : RMode) (neg : Bool) (m : Nat) (e : Int) : Nat × BitVec 8 :=
  let (fl, exact) := lnFloor m e
  let sgn := b2n neg * 32
  let lo : Int := if fl < 1 then 0 else fl
  let hi : Int := if fl < 1 then 1 else fl + 1
  let isExact := exact && decide (1 ≤ fl)
  let pickHi : Bool :=
    if isExact then false
    else match mode with
      | .rne =>
        -- y − lo against 1/2: x^8 against 2^(2(lo − 16) + 1)
        let p := m ^ 8
        let s := 2 * (lo - 16) + 1 - 8 * e
        if 0 ≤ s then decide (2 ^ s.toNat < p) || (decide (2 ^ s.toNat = p) && decide (lo % 2 = 1))
        else decide (1 < p * 2 ^ (-s).toNat) || (decide (1 = p * 2 ^ (-s).toNat) && decide (lo % 2 = 1))
      | .rtz => false
      | .rup => !neg
      | .rdn => neg
      | .sr u =>
        let a := lnMagScaled lo
        let b := lnMagScaled hi
        let x := let sh := e + workBits; if 0 ≤ sh then m * 2 ^ sh.toNat else m / 2 ^ (-sh).toNat
        decide (u < (x - a) * 2 ^ 32 / (b - a))
  let l := if pickHi then hi else lo
  if 31 < l then (sgn + 31, Flag.sat ||| Flag.ix)
  else if l ≤ 0 then (sgn, Flag.uf ||| Flag.ix)
  else (sgn + l.toNat, flagIf (!isExact) Flag.ix)

/-- A value into LN6 (f05 R123, R142). -/
def convToLn (mode : RMode) (x : FV) : Nat × BitVec 8 :=
  match x with
  | .nan s => (0, Flag.nanLost ||| flagIf s Flag.nv)
  | .inf n => (b2n n * 32 + 31, Flag.sat)
  | .fin n m e => if m = 0 then (b2n n * 32, 0) else lnEncode mode n m e

/-- The F32 constants of f05 R124. -/
def lnT : Nat → Nat
  | 0 => 0x3F800000
  | 1 => 0x3F9837F0
  | 2 => 0x3FB504F3
  | _ => 0x3FD744FD

/-- LnProd of two LN6 elements (f05 R124), exact. -/
def lnProd (a b : Nat) : FV :=
  let s := (a / 32 % 2 == 1) != (b / 32 % 2 == 1)
  let la := a % 32
  let lb := b % 32
  if la = 0 ∨ lb = 0 then .fin s 0 0
  else
    let t : Int := (la : Int) + lb - 32
    match fF32.decode (lnT (t % 4).toNat) with
    | .fin _ m e => .fin s m (e + t / 4)
    | x => x

/-- One element of VLNMUL (f20 R420). -/
def lnMul (a b : Nat) : Nat × BitVec 8 :=
  let s := b2n ((a / 32 % 2 == 1) != (b / 32 % 2 == 1)) * 32
  let la := a % 32
  let lb := b % 32
  if la = 0 ∨ lb = 0 then (s, 0)
  else if 16 + 31 < la + lb then (s + 31, Flag.sat)
  else if la + lb < 17 then (s, Flag.uf)
  else (s + (la + lb - 16), 0)

/-! ### Exact sums (f05 R134) -/

/-- Exact sum of finite values: negative zero only when every term is −0. -/
def sumFin (l : List (Bool × Nat × Int)) : Bool × Nat × Int :=
  match l with
  | [] => (false, 0, 0)
  | _ =>
    let q := l.foldl (fun q t => if t.2.2 < q then t.2.2 else q) (match l.head? with | some t => t.2.2 | none => 0)
    let x := l.foldl (fun a t => a + scaled t.1 t.2.1 t.2.2 q) 0
    if x = 0 then (l.all fun t => t.1 && decide (t.2.1 = 0), 0, q) else (decide (x < 0), x.natAbs, q)

end Sys2Proof.Machine
end

