-- ==== Sys2Proof/Machine/Vsf.lean ====
section
/-! DEFINITION. The special functions of VSF (f20 R426).  Exact results are kept exact; a result that is not a dyadic number
is evaluated to 800 fraction bits and carries a sticky bit, then rounded once (DEDUCED to round correctly, log entry 19). -/
namespace Sys2Proof.Machine

/-- Fraction bits of the evaluation. -/
def vP : Nat := 800
/-- One, scaled. -/
def vOne : Nat := 2 ^ vP

/-- Σ over odd k of x^k / k with alternating or equal signs, x = num/den below 1 (arctangent, inverse hyperbolic tangent):
`n` terms, scaled. -/
def oddSeries (alt : Bool) (x : Int) (n : Nat) : Int :=
  let x2 := x * x / (vOne : Int)
  let r := (List.range n).foldl (fun (acc : Int × Int) k =>
    let term := acc.2 / ((2 * k + 1 : Nat) : Int)
    (acc.1 + (if alt && k % 2 == 1 then -term else term), acc.2 * x2 / (vOne : Int))) (0, x)
  r.1

/-- π, scaled (Machin's formula). -/
def vPi : Int := 16 * oddSeries true ((vOne : Int) / 5) 180 - 4 * oddSeries true ((vOne : Int) / 239) 60
/-- ln 2, scaled. -/
def vLn2 : Int := 2 * oddSeries false ((vOne : Int) / 3) 260

/-- e^x for a scaled x of magnitude below 4, scaled. -/
def vExp (x : Int) : Int :=
  ((List.range 240).foldl (fun (acc : Int × Int) k =>
    (acc.1 + acc.2, acc.2 * x / (vOne : Int) / ((k + 1 : Nat) : Int))) (0, (vOne : Int))).1

/-- sin x (`odd`) or cos x for a scaled x of magnitude below 4, scaled. -/
def vTrig (odd : Bool) (x : Int) : Int :=
  let x2 := x * x / (vOne : Int)
  let start : Int := if odd then x else (vOne : Int)
  let off := if odd then 1 else 0
  ((List.range 130).foldl (fun (acc : Int × Int) k =>
    let a := 2 * k + 1 + off
    (acc.1 + acc.2, -(acc.2 * x2 / (vOne : Int)) / ((a * (a + 1) : Nat) : Int))) (0, start)).1

/-- ln y for a scaled y in 1 ≤ y < 2, scaled. -/
def vLn (y : Int) : Int := 2 * oddSeries false ((y - vOne) * (vOne : Int) / (y + vOne)) 260

/-- A dyadic number scaled to `vP` fraction bits, cut. -/
def vScale (neg : Bool) (m : Nat) (e : Int) : Int :=
  let sh := e + vP
  let a : Nat := if 0 ≤ sh then m * 2 ^ sh.toNat else m / 2 ^ (-sh).toNat
  if neg then -(a : Int) else a

/-- A scaled result that is not exact, rounded to F32: its sticky bit set. -/
def vRound (x : Int) : Nat × BitVec 8 :=
  roundTo fF32 .rne .ieee (decide (x < 0)) (2 * x.natAbs + 1) (-(vP : Int) - 1)

/-- 2^x rounded, for a finite x that is not an integer. -/
def exp2Round (neg : Bool) (m : Nat) (e : Int) : Nat × BitVec 8 :=
  let x := vScale neg m e
  let n := x / (vOne : Int)
  let f := x - n * vOne
  let y := vExp (f * vLn2 / (vOne : Int))
  roundTo fF32 .rne .ieee false (2 * y.natAbs + 1) (n - vP - 1)

/-- A value far above or below every F32, for arguments out of range. -/
def huge : Nat × BitVec 8 := roundTo fF32 .rne .ieee false 1 300
def minute : Nat × BitVec 8 := roundTo fF32 .rne .ieee false 1 (-300)

/-- Whether |x| ≥ 2^k. -/
def atLeast (m : Nat) (e k : Int) : Bool := decide (m ≠ 0) && decide (k ≤ (Nat.log2 m : Int) + e)

/-- x reduced modulo 2π, scaled, exactly up to the evaluation's precision. -/
def vReduce (neg : Bool) (m : Nat) (e : Int) : Int :=
  let x := vScale neg m e
  let r := x % (2 * vPi)
  if vPi < r then r - 2 * vPi else r

/-- e^x, scaled, and the exponent it is to be multiplied by: e^x = y · 2^n. -/
def vExpFull (x : Int) : Int × Int :=
  let n := x / vLn2
  (vExp (x - n * vLn2), n)

/-- 1 / (1 + e^−x) rounded, |x| below 2^8. -/
def sigmRound (neg : Bool) (m : Nat) (e : Int) : Nat × BitVec 8 :=
  let x := vScale neg m e
  let (y, n) := vExpFull x
  -- e^x / (1 + e^x), with e^x = y 2^n
  let num : Int := if 0 ≤ n then y * 2 ^ n.toNat else y
  let den : Int := if 0 ≤ n then num + vOne else y + vOne * 2 ^ (-n).toNat
  roundTo fF32 .rne .ieee false (2 * (num * (vOne : Int) / den).natAbs + 1) (-(vP : Int) - 1)

/-- tanh x rounded, |x| below 2^8. -/
def tanhRound (neg : Bool) (m : Nat) (e : Int) : Nat × BitVec 8 :=
  let x := vScale false m e
  let (y, n) := vExpFull (2 * x)
  let num : Int := if 0 ≤ n then y * 2 ^ n.toNat else y
  let one : Int := if 0 ≤ n then vOne else vOne * 2 ^ (-n).toNat
  let q := (num - one) * (vOne : Int) / (num + one)
  vRound (if neg then -q else q)

/-- The eight functions on a code of F32 (f20 R426), with their special cases. -/
def vsf (fn : Nat) (c : Nat) : Nat × BitVec 8 :=
  let x := fF32.decode c
  let one := 0x3F800000
  match x with
  | .nan s => (fF32.nan, flagIf s Flag.nv)
  | .inf n =>
    match fn with
    | 0 => (if n then 0 else fF32.inf false, 0)
    | 1 => if n then (fF32.nan, Flag.nv) else (fF32.inf false, 0)
    | 2 => (fF32.zero n, 0)
    | 3 => if n then (fF32.nan, Flag.nv) else (0, 0)
    | 4 => (fF32.nan, Flag.nv)
    | 5 => (fF32.nan, Flag.nv)
    | 6 => (if n then 0 else one, 0)
    | _ => (one + b2n n * 2 ^ 31, 0)
  | .fin n m e =>
    if m = 0 then
      match fn with
      | 0 => (one, 0)
      | 1 => (fF32.inf true, Flag.dz)
      | 2 => (fF32.inf n, Flag.dz)
      | 3 => (fF32.inf n, Flag.dz)
      | 4 => (c, 0)
      | 5 => (one, 0)
      | 6 => (0x3F000000, 0)
      | _ => (c, 0)
    else
      match fn with
      | 0 =>
        if atLeast m e 9 then (if n then minute else huge)
        else if m % 2 ^ (if e < 0 then (-e).toNat else 0) = 0 then
          let k : Nat := if e < 0 then m / 2 ^ (-e).toNat else m * 2 ^ e.toNat
          roundTo fF32 .rne .ieee false 1 (if n then -(k : Int) else k)
        else exp2Round n m e
      | 1 =>
        if n then (fF32.nan, Flag.nv)
        else
          let k := Nat.log2 m
          if m = 2 ^ k then
            let v : Int := (k : Int) + e
            if v = 0 then (0, 0) else roundTo fF32 .rne .ieee (decide (v < 0)) v.natAbs 0
          else
            let y := vScale false m (-(k : Int))
            vRound (((k : Int) + e) * vOne + vLn y * (vOne : Int) / vLn2)
      | 2 =>
        let q := 2 ^ vP / m
        let exact := decide (q * m = 2 ^ vP)
        roundTo fF32 .rne .ieee n (2 * q + b2n (!exact)) (-e - vP - 1)
      | 3 =>
        if n then (fF32.nan, Flag.nv)
        else
          -- 1/√(m 2^e): make the exponent even, then ⌊√(2^(2 vP) / m)⌋
          let (m', e') := if e % 2 = 0 then (m, e) else (2 * m, e - 1)
          let r := isqrt (2 ^ (2 * vP) / m')
          let exact := decide (r * r * m' = 2 ^ (2 * vP))
          roundTo fF32 .rne .ieee false (2 * r + b2n (!exact)) (-(e' / 2) - vP - 1)
      | 4 => vRound (vTrig true (vReduce n m e))
      | 5 => vRound (vTrig false (vReduce n m e))
      | 6 =>
        if atLeast m e 8 then
          (if n then minute else roundTo fF32 .rne .ieee false (2 ^ 300 - 1) (-300))
        else sigmRound n m e
      | _ =>
        if atLeast m e 8 then roundTo fF32 .rne .ieee n (2 ^ 300 - 1) (-300) else tanhRound n m e

end Sys2Proof.Machine
end

