-- ==== Sys2Proof/Machine/Scalar.lean ====
section
/-! DEFINITION. The integer and control-register words of the common map (f12 R306, f18 R341..R349, f19 R391, f20 R430), and
the S-private arithmetic (f12 R307, f19 R393..R398). -/
namespace Sys2Proof.Machine

/-! ### The integer mould (f18 R341) -/

/-- DIV: toward zero; all ones for a zero divisor; −2^63 / −1 wraps to −2^63. -/
def divVal (a b : BitVec 64) : BitVec 64 :=
  if b = 0 then BitVec.allOnes 64 else wrap64 ((sgn a).tdiv (sgn b))
/-- REM: a for a zero divisor; 0 for −2^63 rem −1. -/
def remVal (a b : BitVec 64) : BitVec 64 := if b = 0 then a else wrap64 ((sgn a).tmod (sgn b))
/-- Leading zero bits. -/
def clzVal (a : BitVec 64) : BitVec 64 := if a = 0 then 64 else BitVec.ofNat 64 (63 - Nat.log2 a.toNat)
/-- Set bits. -/
def popcVal (a : BitVec 64) : BitVec 64 := BitVec.ofNat 64 ((List.range 64).countP fun i => a.getLsbD i)
/-- Bits 127..64 of the signed product. -/
def mulhVal (a b : BitVec 64) : BitVec 64 := wrap64 ((sgn a * sgn b) / 2 ^ 64)

def execNop (s : State) : Result := byAgent s (fun _ => s) (fun _ => s) s.hartIllegal
def execAdd (d a b : BitVec 6) (s : State) : Result := dResult s 1 d [a, b] true fun r => r a.toNat + r b.toNat
def execSub (d a b : BitVec 6) (s : State) : Result := dResult s 1 d [a, b] true fun r => r a.toNat - r b.toNat
def execMul (d a b : BitVec 6) (s : State) : Result := dResult s 3 d [a, b] true fun r => r a.toNat * r b.toNat
def execMulh (d a b : BitVec 6) (s : State) : Result := dResult s 3 d [a, b] true fun r => mulhVal (r a.toNat) (r b.toNat)
def execDiv (d a b : BitVec 6) (s : State) : Result := dResult s 18 d [a, b] true fun r => divVal (r a.toNat) (r b.toNat)
def execRem (d a b : BitVec 6) (s : State) : Result := dResult s 18 d [a, b] true fun r => remVal (r a.toNat) (r b.toNat)
def execAnd (d a b : BitVec 6) (s : State) : Result := dResult s 1 d [a, b] true fun r => r a.toNat &&& r b.toNat
def execOr (d a b : BitVec 6) (s : State) : Result := dResult s 1 d [a, b] true fun r => r a.toNat ||| r b.toNat
def execXor (d a b : BitVec 6) (s : State) : Result := dResult s 1 d [a, b] true fun r => r a.toNat ^^^ r b.toNat
def execShl (d a b : BitVec 6) (s : State) : Result :=
  dResult s 1 d [a, b] true fun r => r a.toNat <<< ((r b.toNat).toNat % 64)
def execShr (d a b : BitVec 6) (s : State) : Result :=
  dResult s 1 d [a, b] true fun r => r a.toNat >>> ((r b.toNat).toNat % 64)
def execSar (d a b : BitVec 6) (s : State) : Result :=
  dResult s 1 d [a, b] true fun r => (r a.toNat).sshiftRight ((r b.toNat).toNat % 64)
def execMin (d a b : BitVec 6) (s : State) : Result :=
  dResult s 1 d [a, b] true fun r => if (r b.toNat).slt (r a.toNat) then r b.toNat else r a.toNat
def execMax (d a b : BitVec 6) (s : State) : Result :=
  dResult s 1 d [a, b] true fun r => if (r a.toNat).slt (r b.toNat) then r b.toNat else r a.toNat
def execSlt (d a b : BitVec 6) (s : State) : Result :=
  dResult s 1 d [a, b] true fun r => if (r a.toNat).slt (r b.toNat) then 1 else 0
def execSel (d a b x : BitVec 6) (s : State) : Result :=
  dResult s 1 d [a, b, x] true fun r => if r x.toNat ≠ 0 then r a.toNat else r b.toNat
def execClz (d a : BitVec 6) (s : State) : Result := dResult s 1 d [a] true fun r => clzVal (r a.toNat)
def execPopc (d a : BitVec 6) (s : State) : Result := dResult s 1 d [a] true fun r => popcVal (r a.toNat)

/-- AGEN (f18 R343). -/
def execAgen (d a b x : BitVec 6) (s : State) : Result :=
  dResult s 1 d [a, b] true fun r => r a.toNat + r b.toNat <<< x.toNat
/-- ADDI (f18 R342). -/
def execAddi (d a : BitVec 6) (i : BitVec 12) (s : State) : Result :=
  dResult s 1 d [a] true fun r => r a.toNat + i.signExtend 64
/-- The field mask of w = WM1 + 1 bits. -/
def fieldMask (w : BitVec 6) : BitVec 64 := BitVec.ofNat 64 (2 ^ (w.toNat + 1) - 1)
/-- BFX (f18 R344). -/
def execBfx (d a l w : BitVec 6) (s : State) : Result :=
  dResult s 1 d [a] true fun r => (r a.toNat >>> l.toNat) &&& fieldMask w
/-- BFI (f18 R344): reads Dd too. -/
def execBfi (d a l w : BitVec 6) (s : State) : Result :=
  dResult s 1 d [d, a] true fun r =>
    (r d.toNat &&& ~~~ (fieldMask w <<< l.toNat)) ||| ((r a.toNat &&& fieldMask w) <<< l.toNat)
/-- MOVI (f18 R375): untainted. -/
def execMovi (d : BitVec 6) (h : BitVec 2) (i : BitVec 16) (s : State) : Result :=
  dResult s 1 d [] false fun _ => i.signExtend 64 <<< (16 * h.toNat)
/-- MOVHI (f18 R375): keeps the other bits of Dd, untainted. -/
def execMovhi (d : BitVec 6) (h : BitVec 2) (i : BitVec 16) (s : State) : Result :=
  dResult s 1 d [d] false fun r =>
    (r d.toNat &&& ~~~ (0xFFFF#64 <<< (16 * h.toNat))) ||| (i.setWidth 64 <<< (16 * h.toNat))

/-- GETCYC GCLK (f18 R354). -/
def execGetcycGclk (d : BitVec 6) (s : State) : Result := dResult s 1 d [] false fun _ => s.gclk
/-- GETCYC VCLK (f18 R354): the issue vcy.  A Hen has no VCLK: there the value is free (log entry 12). -/
def execGetcycVclk (d : BitVec 6) (s : State) : Result :=
  byAgent s
    (fun sid =>
      let st := s.strand sid
      s.setStrand sid (st.push 0 1 (.d d.toNat (BitVec.ofNat 64 st.vclk) false)))
    (fun p =>
      if d.toNat < 32 then
        let s' := { s with choices := s.choices + 1 }
        s'.setHen p ((s'.hen p).wd d.toNat (Config.freeD s.choices))
      else s.henIllegal p)
    s.hartIllegal

/-! ### Capability derivation (f18 R347) -/

/-- The derivation of Cd from Ca: `f` gives the new base, length and rights, or fails. -/
def derive (s : State) (d a b : BitVec 6) (f : (base len rights v : Nat) → Option (Nat × Nat × Nat)) : Result :=
  strandOnly s fun sid =>
    let st := s.strand sid
    let c := st.rc a.toNat
    let x := c.bits
    let r := if hasRights (capRights x) rightD then f (capBase x) (capLen x) (capRights x) (st.rd b.toNat).toNat else none
    match r with
    | some (base, len, rights) =>
      s.setStrand sid (st.push 0 2 (.c d.toNat ⟨capMake (capTid x) (capObj x) rights base len, c.win⟩))
    | none =>
      (s.setStrand sid (st.push 0 2 (.c d.toNat Cap.null))).suppressHere sid Code.capDerive 0

def execCinc (d a b : BitVec 6) (s : State) : Result :=
  derive s d a b fun base len rights v =>
    if len < v ∨ 2 ^ 44 ≤ base + v then none else some (base + v, len - v, rights)
def execCsetb (d a b : BitVec 6) (s : State) : Result :=
  derive s d a b fun base len rights v => if len < v then none else some (base, v, rights)
def execCrestr (d a b : BitVec 6) (s : State) : Result :=
  derive s d a b fun base len rights v => some (base, len, rights &&& (v % 256) &&& 0x7F)

/-- CLRT (f18 R349): the taint bits cleared at the end of the issue vcy, where the row of f12 R318 says latency 1 (DEDUCED, log entry
135). -/
def execClrt (d a b x : BitVec 6) (s : State) : Result :=
  strandOnly s fun sid =>
    s.modStrand sid fun st => st.push 0 0 (.clrt ([d, a, b, x].foldl (fun m r => m ||| BitVec.twoPow 64 r.toNat) 0))

/-! ### CSRs (f12 R313..R315, f02 R49, R51, f03 R79, f09 R249) -/

/-- Whether cluster c of a die is lit in the token window of a gcy, and its position (f02 R48). -/
def tokenPos (clu gclk : Nat) : Nat := (((clu : Int) - (gclk / 1024 : Nat)) % 12).toNat
def lit (clu gclk : Nat) : Bool := decide (tokenPos clu gclk < 9)

/-- TOKWIN (f02 R49). -/
def tokwin (clu gclk : Nat) : BitVec 64 :=
  let w := gclk / 1024
  let pos := tokenPos clu gclk
  -- pos falls by one each window: lit while pos < 9; it changes when pos leaves 0 (to 11) or leaves 9 (to 8)
  let more := if pos < 9 then pos + 1 else pos - 8
  BitVec.ofNat 64 ((w + more) * 1024 % 2 ^ 32 * 2 ^ 32 + pos * 16 + b2n (lit clu gclk))

/-- WSREF (f02 R51): the bank group whose window is in progress, or the next to begin. -/
def wsref (gclk : Nat) : BitVec 64 :=
  let r := gclk % 65536
  let b := r / 4096
  let now := decide (r % 4096 < 512)
  let bg := if now then b else (b + 1) % 16
  let start := if now then gclk / 4096 * 4096 else (gclk / 4096 + 1) * 4096
  BitVec.ofNat 64 (start % 2 ^ 32 * 2 ^ 32 + b2n now * 16 + bg)

/-- The lease of a strand's core within its timetable (f03 R79). -/
def State.lease (s : State) (sid : Nat) : Lease :=
  SMap.get Lease.free (s.ttOfStrand sid).leases (s.placeOfStrand sid).coreNo

/-- LEASEST (f03 R79), as the gcy began (f19 R391); END is the last gcy of the token window, with which the lease ends (f03 R78; DEDUCED, log entry 61). -/
def State.leasest (s : State) (sid : Nat) : BitVec 64 :=
  let l := SMap.get Lease.free (s.ttOfStrand sid).leasesWas (s.placeOfStrand sid).coreNo
  match l.holder with
  | none => 0
  | some h =>
    let mine := decide (h = sid)
    BitVec.ofNat 64 ((l.window * 1024 + 1023) % 2 ^ 32 * 2 ^ 32 + l.left * 2 ^ 8 + (s.strand h).psg % 4 * 4 +
      b2n (!mine) * 2 + b2n mine)

/-- What RDCSR of a number reads at the start of the issue vcy (f19 R391). Before a timetable is granted STRIDE and LSHAPE read their reset
value 0 (f12 R314). -/
def State.readCsr (s : State) (sid n : Nat) : BitVec 64 :=
  let st := s.strand sid
  let t := s.ttOfStrand sid
  match n with
  | 0x000 => s.gclk
  | 0x001 => BitVec.ofNat 64 st.vclk
  | 0x002 => if t.life = 0 then 0 else BitVec.ofNat 64 t.stride
  | 0x003 => BitVec.ofNat 64 t.phase
  | 0x004 => BitVec.ofNat 64 (st.lcore / t.img.c * 2 ^ 16 + st.lcore % t.img.c * 2 ^ 8 + st.sib)
  | 0x005 => if t.life = 0 then 0 else BitVec.ofNat 64 (t.img.d * 2 ^ 16 + t.img.c * 2 ^ 8 + t.img.width)
  | 0x011 => st.fault
  | 0x012 => BitVec.ofNat 64 (2 * b2n t.runProm + b2n t.img.promise)
  | 0x013 => st.taint &&& ~~~ 1#64
  | 0x021 => s.leasest sid
  | 0x022 => tokwin (s.placeOfStrand sid).clu s.gclk.toNat
  | 0x023 => wsref s.gclk.toNat
  | _ => st.getCsr n &&& readMask n

/-- RDCSR (f19 R391): untainted, at issue + 1. -/
def execRdcsr (d : BitVec 6) (c : BitVec 12) (s : State) : Result :=
  strandOnly s fun sid => s.modStrand sid fun st => st.push 0 1 (.d d.toNat (s.readCsr sid c.toNat) false)

/-- WRCSR (f20 R430): at the end of issue + 1. A read-only number is illegal; FAULT is suppressed with ILLOP (f10 R258). -/
def execWrcsr (a : BitVec 6) (c : BitVec 12) (s : State) : Result :=
  strandOnly s fun sid =>
    if isRwCsr c then s.modStrand sid fun st => st.push 0 1 (.csr c.toNat (st.rd a.toNat))
    else s.slotIllegal sid 0

/-! ### S-private arithmetic -/

/-- A D result of an S-private word with its flags (f19 R396..R398). -/
def sResult (s : State) (lat : Nat) (d : BitVec 6) (srcs : List (BitVec 6))
    (val : (Nat → BitVec 64) → BitVec 64 × BitVec 8) : Result :=
  strandOnly s fun sid =>
    let st := s.strand sid
    let (v, fl) := val st.rd
    s.setStrand sid ((st.push 0 lat (.d d.toNat v (st.taints (srcs.map (·.toNat))))).pushFlags 0 lat fl)

/-- The F32 value in bits 31..0 of a register. -/
def f32Of (v : BitVec 64) : FV := fF32.decode (v.toNat % 2 ^ 32)
/-- A code in the low bits, zero above, with its flags. -/
def low (r : Nat × BitVec 8) : BitVec 64 × BitVec 8 := (BitVec.ofNat 64 r.1, r.2)

def execSfadd (d a b : BitVec 6) (s : State) : Result :=
  sResult s 4 d [a, b] fun r => low (fAdd fF32 (f32Of (r a.toNat)) (f32Of (r b.toNat)))
def execSfmul (d a b : BitVec 6) (s : State) : Result :=
  sResult s 4 d [a, b] fun r => low (fMul fF32 (f32Of (r a.toNat)) (f32Of (r b.toNat)))
def execSfma (d a b x : BitVec 6) (s : State) : Result :=
  sResult s 6 d [a, b, x] fun r => low (fFma fF32 (f32Of (r a.toNat)) (f32Of (r b.toNat)) (f32Of (r x.toNat)))
/-- SFCMP (f19 R397): x selects EQ, NE, LT, LE, UNORD. -/
def execSfcmp (d a b x : BitVec 6) (s : State) : Result :=
  sResult s 2 d [a, b] fun r =>
    let (c, fl) := fCompare fF32 x.toNat ((r a.toNat).toNat % 2 ^ 32) ((r b.toNat).toNat % 2 ^ 32)
    (BitVec.ofNat 64 (b2n c), fl)

/-- The rounding mode of a mode field (f19 R398, f20 R414). -/
def rmOf (m u : Nat) : RMode :=
  match m with
  | 0 => .rne
  | 1 => .rtz
  | 2 => .rup
  | 3 => .rdn
  | _ => .sr u

/-- SFCVT (f19 R398): x = 8 · kind + mode. -/
def sfcvtVal (x : Nat) (v : BitVec 64) : BitVec 64 × BitVec 8 :=
  let m := rmOf (x % 8) 0
  match x / 8 with
  | 0 => let (c, fl) := convToInt ⟨32, true⟩ m (f32Of v); (wrap64 ((⟨32, true⟩ : ITy).value c), fl)
  | 1 => low (convToInt ⟨64, true⟩ m (f32Of v))
  | 2 => low (convTo fF32 m .ieee (FV.ofInt ((⟨32, true⟩ : ITy).value v.toNat)))
  | 3 => low (convTo fF32 m .ieee (FV.ofInt (sgn v)))
  | 4 => low (convTo fF16 m .ieee (f32Of v))
  | 5 => low (convTo fF32 .rne .ieee (fF16.decode (v.toNat % 2 ^ 16)))
  | 6 => low (convTo fBF16 m .ieee (f32Of v))
  | _ => low (convTo fF32 .rne .ieee (fBF16.decode (v.toNat % 2 ^ 16)))

def execSfcvt (d a x : BitVec 6) (s : State) : Result :=
  sResult s 4 d [a] fun r => sfcvtVal x.toNat (r a.toNat)

/-- The sum of SDOT4 (f19 R393). -/
def sdot4Sum (a b : BitVec 64) : Int :=
  ((List.range 4).map fun f => (a.extractLsb' (8 * f) 8).toInt * (b.extractLsb' (8 * f) 8).toInt).foldl (· + ·) 0
def execSdot4 (d a b x : BitVec 6) (s : State) : Result :=
  sResult s 3 d [a, b, x] fun r => (r x.toNat + wrap64 (sdot4Sum (r a.toNat) (r b.toNat)), 0)

/-! ### LDS and STS (f18 R364, f19 R400) -/

/-- The offset of LDS and STS: Db + 8 · x. -/
def ldsOff (st : Strand) (b x : BitVec 6) : Nat := (st.rd b.toNat + 8 * x.setWidth 64).toNat

/-- A checked timed load: its bytes are read at the start of the perform vcy; one that would have to wait in an M-step is suppressed. -/
def State.timedLoad (s : State) (sid slot lat : Nat) (dst : LoadDst) (addrs : List (Option Nat)) : State :=
  if s.refreshInM sid lat addrs then s.slotIllegal sid slot
  else s.modStrand sid fun st => st.pushLoad slot lat (.load dst addrs none)

def execLds (d a b x : BitVec 6) (s : State) : Result :=
  strandOnly s fun sid =>
    let st := s.strand sid
    let c := st.rc a.toNat
    let o := ldsOff st b x
    let lat := s.accLat sid c o ldsLat true
    let fail := fun (code : Nat) =>
      (s.setStrand sid (st.push 0 lat (.d d.toNat 0 (st.rt b.toNat)))).suppress sid code 0 a.toNat o
    if (capBase c.bits + o) % 8 ≠ 0 then fail Code.capBound
    else match s.readCheck sid c o 8 (rightR + rightT) with
      | some code => fail code
      | none => s.timedLoad sid 0 lat (.d d.toNat (st.rt b.toNat)) (s.capBytes sid c o 8)

def execSts (d a b x : BitVec 6) (s : State) : Result :=
  strandOnly s fun sid =>
    let st := s.strand sid
    let c := st.rc a.toNat
    let o := ldsOff st b x
    let lat := s.accLat sid c o ldsLat false
    if (capBase c.bits + o) % 8 ≠ 0 then s.suppress sid Code.capBound 0 a.toNat o
    else match s.writeCheck sid c o 8 (rightW + rightT) with
      | some code => s.suppress sid code 0 a.toNat o
      | none =>
        s.setStrand sid (st.push 0 lat
          (.store ((s.capBytes sid c o 8).zip (bytesOf 8 (st.rd d.toNat).toNat)) none false []))

end Sys2Proof.Machine
end

