-- ==== Sys2Proof/Machine/Control.lean ====
section
/-! DEFINITION. Bundles, branches, loops, steps and the ends of strands (f03 R58..R83, f12 R304..R306, f18 R346, R352, R365,
f19 R399, f20 R407). -/
namespace Sys2Proof.Machine

/-! ### Code (f09 R246, f12 R304) -/

/-- The word at a word address of a strand's CODE section, and the section's length. -/
def State.codeWord (s : State) (sid pc : Nat) : Word :=
  SMap.get 0 (SMap.get [] (s.ttOfStrand sid).img.code (s.strand sid).cls) pc
def State.codeLen (s : State) (sid : Nat) : Nat := SMap.get 0 (s.ttOfStrand sid).img.codeLen (s.strand sid).cls

/-- A word whose op is BNDL's (f12 R304). -/
def isHeader (w : Word) : Bool := w.extractLsb' 24 8 == 0x7F#8
/-- Slot words a header announces. -/
def slotCount (w : Word) : Nat := (List.range 4).countP fun i => w.getLsbD i
/-- Words of the bundle at a header; a header other than BNDL is an empty bundle (f12 R317). -/
def bundleLen (w : Word) : Nat := if isHeader w then 1 + slotCount w else 1
/-- The gap the header at `pc` asks for: its DELTA, or 1 where the header is no legal one (f03 R59, f12 R317) or lies
outside the section (DEDUCED, log entry 21). -/
def State.headerGap (s : State) (sid : Nat) : Nat :=
  let w := s.codeWord sid (s.strand sid).pc
  match decodeHeader w with
  | some (.bndl d _ _ _ _) => d.toNat
  | _ => 1

/-- The word at a strand's pc is a legal header. -/
def State.legalHeader (s : State) (sid : Nat) : Bool :=
  match decodeHeader (s.codeWord sid (s.strand sid).pc) with
  | some (.bndl _ _ _ _ _) => true
  | _ => false

/-- The vcy at which the next bundle issues (f03 R59, R60). A header that is no legal one issues one vcy after its predecessor, also where a
taken transfer leads to it: R346 sends such a target to f12 R317. -/
def State.dueAt (s : State) (sid : Nat) : Nat :=
  let st := s.strand sid
  match st.lastIss with
  | none => 0
  | some v => v + (if s.legalHeader sid then Nat.max (s.headerGap sid) st.minGap else 1)

/-! ### Loops (f03 R72..R75) -/

/-- The word address after `n` bundles from `pc`, and the slot words in them. -/
def State.skipBundles (s : State) (sid : Nat) : Nat → Nat → Nat × Nat
  | 0, pc => (pc, 0)
  | n + 1, pc =>
    let len := bundleLen (s.codeWord sid pc)
    let (pc', k) := s.skipBundles sid n (pc + len)
    (pc', k + (len - 1))

/-- LEND the innermost active loop whose body ends at the bundle before `next` calls for (f03 R73). -/
def lendFor (loops : List Loop) (next : Nat) : Nat :=
  match loops.find? fun l => l.after == next with
  | some l => l.level + 1
  | none => 0

/-- The loop in disagreement ends after its current pass (f03 R73): the innermost one whose body ends here, `want`, and one that LEND
names though its body does not end here. An enclosing loop that ends here too goes by its len alone. -/
def endAfterPass (loops : List Loop) (next want lend : Nat) : List Loop :=
  loops.map fun l =>
    if l.level + 1 = want ∨ (l.level + 1 = lend ∧ l.after ≠ next) then { l with count := 0 } else l

/-- Start and step of the LOOP at a code address (f03 R75): temporal, over cores, over dies. -/
def State.loopKind (s : State) (sid addr : Nat) : BitVec 64 × BitVec 64 :=
  let t := s.ttOfStrand sid
  let st := s.strand sid
  match t.img.loops.find? fun l => l.1 == addr && l.2.1 == st.cls with
  | some (_, _, 1) => (BitVec.ofNat 64 (st.lcore % t.img.c), BitVec.ofNat 64 t.img.c)
  | some (_, _, 2) => (BitVec.ofNat 64 (st.lcore / t.img.c), BitVec.ofNat 64 t.img.d)
  | _ => (0, 1)

/-- The bodies that end at `pc`, innermost first: each adds its step to its counter and goes back, or ends and leaves the
enclosing body to its own end (f03 R72, f18 R365). -/
def loopBack (st : Strand) (pc : Nat) : List Loop → List (Nat × BitVec 64) × List Loop × Nat
  | [] => ([], [], pc)
  | l :: rest =>
    if l.after = pc then
      let lc := st.getCsr (0x030 + l.level) + l.step
      if lc.toNat < l.count.toNat then ([(0x030 + l.level, lc)], l :: rest, l.first)
      else
        let (w, loops, pc') := loopBack st pc rest
        ((0x030 + l.level, lc) :: w, loops, pc')
    else ([], l :: rest, pc)

/-- After the last word of a bundle: a taken branch decides the next bundle, or the loops that end here do. A branch taken from a body's last
bundle steps no counter and tests none (DESIGN CHOICE, log entry 171). -/
def State.finishBundle (s : State) (sid : Nat) : State :=
  s.modStrand sid fun st =>
    match st.redir with
    | some pc => { st with pc := pc, redir := none }
    | none =>
      let (ws, loops, pc) := loopBack st st.pc st.loops
      let st' := ws.foldl (fun st w => st.push 0 0 (.csr w.1 w.2)) st
      { st' with pc := pc, loops := loops }

/-! ### Bundles -/

/-- A bundle is issued: its vcy counts for the tenant and for the strand's ISSUE counter (f09 R252, f12 R315). -/
def State.issued (s : State) (sid next : Nat) : State :=
  s.modStrand sid fun st =>
    let st' := (st.count 2 1).push 0 0 (.meter 21 1)
    { st' with lastIss := some st.vclk, bundle := st.pc, slotPc := st.pc + 1, pc := next, slots := [], minGap := 1, met := false }

/-- A header that is no legal one: of another op it is an empty bundle; with DELTA 0 or reserved bits its whole bundle is
suppressed. ILLOP either way, one vcy after the predecessor (f03 R59, f12 R317). Where the slot words of such a header also run past the
section, R59 applies to it and R435 to the header after it (DESIGN CHOICE, log entry 132). -/
def State.badHeader (s : State) (sid : Nat) : State :=
  let w := s.codeWord sid (s.strand sid).pc
  let s := s.issued sid ((s.strand sid).pc + bundleLen w)
  let s := s.fault sid Code.illop 0 0 (s.strand sid).bundle
  let s := s.modStrand sid fun st => st.count 8 (bundleLen w - 1)
  s.finishBundle sid

/-- A header beyond the section, or slot words that run past it: not issued, ILLOP, stopped there (f03 R435). -/
def State.pastEnd (s : State) (sid : Nat) : State :=
  (s.fault sid Code.illop 0 0 (s.strand sid).pc).reachBoundary sid 1

/-- Pre-emption has been requested for the strand's timetable (f10 R267). -/
def State.preempting (s : State) (tt : Nat) : Bool :=
  match s.preempt with
  | some p => p.victim == tt
  | none => false

/-- A sticky fault of the strand, or its timetable's stop, waits for a boundary (f03 R71). -/
def State.stopDue (s : State) (sid : Nat) : Bool :=
  decide ((s.strand sid).fault.toNat / 2 ^ 56 ≠ 0) || decide ((s.ttOfStrand sid).cause ≠ 0)

/-- The strand stops at a stop point of pre-emption and is suspended (f10 R267). -/
def State.park (s : State) (sid : Nat) : State :=
  let t := s.ttOfStrand sid
  s.modStrand sid fun st => { st with life := 4, slots := [], susp := some (t.stride, t.phase, s.gclk.toNat) }

/-- The live map of the safe point at a code address (f10 R274). -/
def State.liveMap (s : State) (sid addr : Nat) : Option LiveMap :=
  ((s.ttOfStrand sid).img.safe.find? fun x => x.1 == addr && x.2.1 == (s.strand sid).cls).map fun x => x.2.2

/-- The matrix lease can be granted to a strand now (f03 R78): its cluster is lit, nobody holds the lease, and the occupancy of every
X-slot command of the timetable on that core has ended. -/
def State.leaseFree (s : State) (sid : Nat) : Bool :=
  let l := s.lease sid
  lit (s.placeOfStrand sid).clu s.gclk.toNat && l.holder == none && decide (l.freed ≤ s.gclk.toNat) &&
    l.busy.all fun b => decide (b.2 ≤ (s.strand b.1).vclk)

/-- The strand's own previous X-slot command still occupies the array (f03 R81). -/
def State.ownBusy (s : State) (sid : Nat) : Bool :=
  (s.lease sid).busy.any fun b => b.1 == sid && decide ((s.strand sid).vclk < b.2)

/-- The strand holds the lease of its core. -/
def State.holdsLease (s : State) (sid : Nat) : Bool := (s.lease sid).holder == some sid

/-- Lease `l` for the strand's core. -/
def State.setLease (s : State) (sid : Nat) (l : Lease) : State :=
  s.modTt (ttOf sid) fun t => { t with leases := SMap.set Lease.free t.leases (s.placeOfStrand sid).coreNo l }

/-- The lease ends (f03 R78, R80): the holder becomes the previous one. -/
def State.endLease (s : State) (sid : Nat) : State :=
  let l := s.lease sid
  if l.holder = some sid then s.setLease sid
    { l with holder := none, left := 0, prev := (s.strand sid).psg % 4, freed := s.gclk.toNat + 1 } else s

/-- The lease is granted: 64 counted commands, to the end of this token window (f03 R78, f02 R48). -/
def State.grantLease (s : State) (sid : Nat) : State :=
  s.setLease sid { s.lease sid with holder := some sid, left := 64, window := s.gclk.toNat / 1024 }

/-- The accumulator tile an X-slot command names. -/
def accOf : Instr → Option (BitVec 8)
  | .mma c _ _ _ | .mmaRs c _ _ _ | .mmas c _ _ _ | .mmasRs c _ _ _ | .mzero c | .mload c _ | .mdrain c _ _ _
  | .mdrains c _ _ _ => some c
  | _ => none

/-- An X-slot command whose tile lies inside the timetable's window; outside it the word is illegal (f12 R317). -/
def State.inWindow (s : State) (sid : Nat) (acc : Option (BitVec 8)) : Bool :=
  match acc with
  | some a => decide (a.toNat < (s.ttOfStrand sid).img.tiles)
  | none => true

/-- A word is an X-slot command that issues only with the lease: any legal word of the X map but MFREE, MLEASE taking it as it issues
(f03 R78, f18 R370; DEDUCED, log entry 60). An illegal word holds no unit and asks for none (f12 R317). -/
def State.needsLease (s : State) (sid : Nat) (w : Word) : Bool :=
  match decode .xMap w with
  | some .mfree | none => false
  | some i => s.inWindow sid (accOf i)

/-- The X slot word of the bundle at pc under a mask. -/
def State.xWord (s : State) (sid pc : Nat) (m : BitVec 4) : Option Word :=
  if m.getLsbD 2 then some (s.codeWord sid (pc + 1 + b2n (m.getLsbD 0) + b2n (m.getLsbD 1))) else none

/-- The bundle holds an X-slot command that needs the lease. One that R81 will suppress at its issue needs none. -/
def State.wantsLease (s : State) (sid pc : Nat) (m : BitVec 4) : Bool :=
  match s.xWord sid pc m with
  | some w => s.needsLease sid w && !s.ownBusy sid
  | none => false

/-- BNDL (f03 R58..R74): the bundle issues with all its slot words, unless the strand stops at a safe point or at the end
of its section, waits at a meeting, or waits for a lease. -/
def execBndl (_d : BitVec 8) (sy : BitVec 1) (f : BitVec 1) (l : BitVec 2) (m : BitVec 4) (s : State) : Result :=
  strandOnly s fun sid =>
    let st := s.strand sid
    let n := (List.range 4).countP fun i => m.getLsbD i
    if s.codeLen sid < st.pc + 1 + n then s.pastEnd sid
    else if f = 1 ∧ s.stopDue sid then s.reachBoundary sid 1
    else if f = 1 ∧ s.preempting (ttOf sid) then s.park sid
    else if sy = 1 ∧ ¬ st.met then s.modStrand sid fun st => { st with wait := .meet, ran := false }
    else if (s.wantsLease sid st.pc m && !s.holdsLease sid && !s.leaseFree sid && !s.noWait sid) = true then
      s.modStrand sid fun st => { st with wait := .lease, ran := false }
    else
      let next := st.pc + 1 + n
      let want := lendFor st.loops next
      let pc := st.pc
      let s := s.issued sid next
      let s := s.modStrand sid fun st =>
        let slots := (List.range 4).filter fun i => m.getLsbD i
        let st := { st with slots := slots }
        if f = 1 then { st with safeAt := some pc } else st
      let s := if want = l.toNat then s
        else (s.fault sid Code.illop 0 0 pc).modStrand sid fun st =>
          { st with loops := endAfterPass st.loops next want l.toNat }
      if n = 0 then s.finishBundle sid else s

/-! ### Branches (f18 R346, f03 R60, R74) -/

/-- A taken transfer to `target` (an absolute word address): outside the section ILLOP, and not taken; a loop whose body
does not hold the target ends. -/
def State.branchTo (s : State) (sid : Nat) (target : Int) : State :=
  if 0 ≤ target ∧ target < s.codeLen sid then
    s.modStrand sid fun st =>
      let pc := target.toNat
      { st with redir := some pc, minGap := 2,
                loops := st.loops.dropWhile fun l => decide (pc < l.first) || decide (l.after ≤ pc) }
  else s.fault sid Code.illop 0 0 (s.strand sid).bundle

/-- In Hen code a transfer goes to a word of the routine; outside it the request ends (f12 R305, R317). -/
def State.henBranch (s : State) (p : Nat) (target : Int) : State :=
  let h := s.hen p
  if 0 ≤ target ∧ target < h.len then s.setHen p { h with pc := target.toNat } else s.henIllegal p

/-- Offset targets: from the bundle header, or in Hen code from the branch word itself. -/
def relBranch (s : State) (o : BitVec 15) (link : Option (BitVec 6)) (taken : (Nat → BitVec 64) → Bool)
    (regs : List (BitVec 6)) : Result :=
  byAgent s
    (fun sid =>
      let st := s.strand sid
      let s := match link with
        | some d => s.setStrand sid (st.push 0 1 (.d d.toNat (BitVec.ofNat 64 st.pc) false))
        | none => s
      if taken st.rd then s.branchTo sid ((st.bundle : Int) + o.toInt) else s)
    (fun p =>
      let h := s.hen p
      if (regs.all fun r => decide (r.toNat < 32)) = false then s.henIllegal p
      else
        let s := match link with
          | some d => s.setHen p (h.wd d.toNat (BitVec.ofNat 64 h.pc))
          | none => s
        if taken h.rd then s.henBranch p ((h.pc : Int) - 1 + o.toInt) else s)
    s.hartIllegal

/-- The conditions of BR (f12 R306). -/
def brCond (c : BitVec 3) (v : BitVec 64) : Bool :=
  match c.toNat with
  | 0 => v == 0
  | 1 => v != 0
  | 2 => v.slt 0
  | 3 => !v.slt 0
  | 4 => (0#64).slt v
  | 5 => !(0#64).slt v
  | _ => false

def execBr (a : BitVec 6) (c : BitVec 3) (o : BitVec 15) (s : State) : Result :=
  relBranch s o none (fun r => brCond c (r a.toNat)) [a]
def execJmp (o : BitVec 15) (s : State) : Result := relBranch s o none (fun _ => true) []
def execCall (a : BitVec 6) (o : BitVec 15) (s : State) : Result := relBranch s o (some a) (fun _ => true) [a]
def execRet (a : BitVec 6) (s : State) : Result :=
  byAgent s
    (fun sid => s.branchTo sid ((s.strand sid).rd a.toNat).toNat)
    (fun p => if a.toNat < 32 then s.henBranch p ((s.hen p).rd a.toNat).toNat else s.henIllegal p)
    s.hartIllegal

/-! ### LOOP (f03 R72..R75, f18 R365) -/

/-- A loop opens with a count: its counter is set at the end of the issue vcy; with nothing to do, or with ILLOP for a body larger than
the loop buffer (f03 R74), the bundle after the body is next. -/
def State.openLoop (s : State) (sid level len : Nat) (count : BitVec 64) : State :=
  let st := s.strand sid
  let (k0, kstep) := s.loopKind sid (st.slotPc - 1)
  let (after, words) := s.skipBundles sid len st.pc
  if 256 < words then
    (s.modStrand sid fun st => { st.push 0 0 (.csr (0x030 + level) k0) with pc := after }).fault sid Code.illop 0 0 st.bundle
  else
    s.modStrand sid fun st =>
      let st := st.push 0 0 (.csr (0x030 + level) k0)
      if k0.toNat < count.toNat then { st with loops := ⟨level, st.pc, after, count, kstep⟩ :: st.loops }
      else { st with pc := after }

def execLoopImm (l : BitVec 2) (n : BitVec 8) (c : BitVec 13) (s : State) : Result :=
  strandOnly s fun sid => s.openLoop sid l.toNat n.toNat (c.setWidth 64)
def execLoopReg (l : BitVec 2) (n : BitVec 8) (r : BitVec 6) (s : State) : Result :=
  strandOnly s fun sid => s.openLoop sid l.toNat n.toNat ((s.strand sid).rd r.toNat)

/-- The loops among the bundles from `pc` up to `target` whose bodies enclose `target`, innermost first: level, body and count as their
LOOP words with an immediate count give them (f16 R328). -/
def State.loopsFrom (s : State) (sid target : Nat) : (fuel : Nat) → (pc : Nat) → List Loop → List Loop
  | 0, _, acc => acc
  | fuel + 1, pc, acc =>
    if target ≤ pc then acc
    else
      let next := pc + bundleLen (s.codeWord sid pc)
      let acc := match decodeHeader (s.codeWord sid pc), decodeSlot 0 (s.codeWord sid (pc + 1)) with
        | some (.bndl _ _ _ _ m), some (.loopImm l n c) =>
          let (after, _) := s.skipBundles sid n.toNat next
          if m.getLsbD 0 ∧ next ≤ target ∧ target < after then
            ⟨l.toNat, next, after, c.setWidth 64, (s.loopKind sid (pc + 1)).2⟩ :: acc
          else acc
        | _, _ => acc
      s.loopsFrom sid target fuel next acc
def State.loopsAt (s : State) (sid target : Nat) : List Loop := s.loopsFrom sid target target 0 []

/-! ### Ends and steps -/

/-- Markers pushed behind what each named queue holds (f18 R353): queues 0..3 are OQ0..OQ3, 4 is GQ. -/
def Strand.mark (st : Strand) (queues : List Nat) : Strand :=
  queues.foldl (fun st q => { (st.setQueue q (st.queue q ++ [.marker st.markers])) with markers := st.markers + 1 }) st

/-- Some marker of the strand has not reached its queue head (f18 R362). -/
def Strand.marked (st : Strand) : Bool :=
  (List.range 5).any fun q => (st.queue q).any fun e => match e with | .marker _ => true | _ => false

/-- EXIT (f18 R352): the strand's drain begins. Its lease and its loops end with the drain. -/
def execExit (n : BitVec 12) (s : State) : Result :=
  strandOnly s fun sid =>
    if s.noWait sid ∨ (64 ≤ n.toNat ∧ n.toNat ≠ 0xFFF) then s.suppressHere sid Code.illop 0
    else
      let node := if n.toNat = 0xFFF then none else some n.toNat
      let s := s.modStrand sid fun st => { (st.mark [0, 1, 2, 3, 4]).enter (.exit node) with redir := none }
      if s.stopDue sid then s.reachBoundary sid 1 else s

/-- The step number after the current one is an M-step (f03 R65: they alternate, step 0 being a C-step). -/
def Timetable.opensM (t : Timetable) : Bool := t.step % 2 == 0

/-- SSTEP (f19 R399): the strand goes to the barrier, at the end of this vcy, or at step vcy L + 95 when it closes an
M-step.  A kind that breaks the alternation records ILLOP and is taken as the alternation has it. -/
def State.closeStep (s : State) (sid : Nat) (m : Bool) (n : Nat) : State :=
  let t := s.ttOfStrand sid
  let s := if m = t.opensM then s else s.fault sid Code.illop 0 0 (s.strand sid).bundle
  s.modStrand sid fun st =>
    let leaves := match t.mstep with
      | some k => match t.img.msteps[k]? with
        | some e => some (t.vcy0 + e.len + 95)
        | none => none
      | none => none
    { st.enter .barrier with sstep := n, arrived := none, leaves := some (leaves.getD st.vclk) }

def execSstep (s : State) : Result := strandOnly s fun sid => s.closeStep sid false 0
def execSstepM (n : BitVec 11) (s : State) : Result := strandOnly s fun sid => s.closeStep sid true n.toNat

/-- TRAP (f20 R407): FAULT takes code 0x17, or MORE; the strand stops after its bundle. -/
def execTrap (i : BitVec 16) (s : State) : Result :=
  strandOnly s fun sid =>
    if s.noWait sid then s.suppressHere sid Code.illop 0
    else
      let s := s.fault sid Code.trap 0 0 i.toNat
      let t := s.ttOfStrand sid
      let s := if t.cause = 0 then s.setTt (ttOf sid) { t with cause := 4, stopSid := some sid } else s
      s.modStrand sid fun st => { st with halt := true }

end Sys2Proof.Machine
end

