-- ==== Sys2Proof/Machine/Meters.lean ====
section
/-! DEFINITION. Snapshots of a tenant's meters (f09 R252..R254) and host event counters (f09 R235, R240). -/
namespace Sys2Proof.Machine

/-- Meter k of a tenant. -/
def Tenant.meter (t : Tenant) (k : Nat) : BitVec 64 := SMap.get 0 t.meters k

/-- The 384 bytes of a tenant's snapshot at the current GCLK: its meters as they stood when this gcy began (f09 R254). -/
def State.snapBody (s : State) (tenant : Nat) : List Byte :=
  let t := s.tenant tenant
  bytesOf 8 t.snaps ++ bytesOf 8 s.gclk.toNat ++ [BitVec.ofNat 8 tenant] ++ bytesOf 7 0 ++ bytesOf 48 t.prev.toNat ++
    ((List.range 32).flatMap fun k => bytesOf 8 (SMap.get 0 t.before k).toNat) ++ bytesOf 56 0

/-- The signature of a message under the device alias key (f09 R231, R254). -/
def State.aliasOf (s : State) : Nat := Config.aliasKey s.identity s.firmware
def State.signed (s : State) (msg : List Byte) : List Byte := bytesOf 96 (Config.sign s.aliasOf msg).toNat

/-- Host bytes that the front end or the Mule moves for a function (f09 R252 meters 19 and 20). -/
def State.meterHost (s : State) (fn n : Nat) (write : Bool) : State := s.meter fn (if write then 20 else 19) n

/-- A snapshot is taken: its number, its 480 bytes with the signature over its hash, and the tenant's chain moved on. -/
def State.snapshot (s : State) (tenant : Nat) : Nat × List Byte × State :=
  let t := s.tenant tenant
  let body := s.snapBody tenant
  let hash := Config.sha384 body
  let signed := body ++ s.signed (bytesOf 48 hash.toNat)
  (t.snaps, signed, s.setTenant tenant { t with snaps := t.snaps + 1, prev := hash, last := signed })

/-- The function that launched a timetable (f09 R240). -/
def State.launchFn (s : State) (tt : Nat) : Nat := (SMap.get Launch.none s.launches (s.tt tt).launch).fn

/-- An amount added to host event counter HEn of a function (f09 R240). -/
def State.hostEvent (s : State) (fn n amount : Nat) : State :=
  let f := s.func fn
  s.setFunc fn { f with he := SMap.set 0 f.he n (SMap.get 0 f.he n + BitVec.ofNat 64 amount) }

/-- Bytes of a list of addresses, as they stand. -/
def State.readAddrs (s : State) (l : List Nat) : List Byte := l.map s.mem.read

/-- Untimed bytes written, each at its address. -/
def State.writeBytes (s : State) (l : List (Nat × Byte)) : State := { s with mem := s.mem.writeAll l }

/-- Untimed bytes of a tenant that perform on this gcy (f06 R150); those of a sync word that a SYNCARM reaches on it follow that (f19 R403). -/
def State.untimedWrite (s : State) (tenant : Nat) (l : List (Nat × Byte)) : State :=
  let late := fun (x : Nat × Byte) => s.arming.any fun w => decide (w.1 ≤ x.1) && decide (x.1 < w.1 + 32)
  let s := { s.writeBytes (l.filter fun x => !late x) with lateBytes := s.lateBytes ++ l.filter late }
  { s with landed := s.landed ++ byteLocs tenant (l.map fun x : Nat × Byte => x.1) }

/-- `bytes` at consecutive addresses from `a` up. -/
def runAt (a : Nat) (bytes : List Byte) : List (Nat × Byte) := bytes.zipIdx.map fun x : Byte × Nat => (a + x.2, x.1)

/-- The meter of bytes moved at an address: scratchpad, deep store, weight store, DRAM, host read or written (f09 R252). -/
def byteMeter (a : Nat) (write : Bool) : Nat :=
  match homeOf a with
  | 0 => 11
  | 1 => 12
  | 2 => 13
  | 3 => 14
  | _ => if write then 20 else 19

/-- Bytes counted at the units that performed them. -/
def State.meterBytes (s : State) (tt : Nat) (l : List Nat) (write : Bool) : State :=
  [11, 12, 13, 14, 19, 20].foldl (fun s k => s.meterTt tt k (l.countP fun a => byteMeter a write == k)) s

/-- Bytes that cross bridges or links on the way between a strand's die and an address: meters 15..18 (f09 R252; counted once,
however many stages the way has: DEDUCED, log entry 55). -/
def State.meterCross (s : State) (sid : Nat) (l : List Nat) (timed : Bool) : State :=
  let p := s.placeOfStrand sid
  let far := l.countP fun a => addrDev a && addrPkg a != p.pkg
  let near := l.countP fun a => addrDev a && addrPkg a == p.pkg && addrDie a != p.die
  let k := if timed then 0 else 1
  (s.meterTt (ttOf sid) (15 + k) near).meterTt (ttOf sid) (17 + k) far

/-- Bytes a strand's timed accesses or its jobs move: at the unit, and on the way. -/
def State.meterMove (s : State) (sid : Nat) (l : List Nat) (write timed : Bool) : State :=
  (s.meterBytes (ttOf sid) l write).meterCross sid l timed

end Sys2Proof.Machine
end

