-- ==== Sys2Proof/Machine/Turns.lean ====
section
/-! DEFINITION. The untimed servers: their tenant turns, the ports of the memories, what holds an untimed access there, and the pieces of
untimed work on their way through the ports (f02 R34, R35, f04 R103, R104, R106, R111, R114, f06 R150, f07 R196, f08 R212).  A server is
kind · 2^16 + instance: the kinds of f02 R33 and, beyond them, 0x0B the Goose of a die, 0x0C the PCIe DMA engine, 0x0D the untimed port of
a scratchpad bank and 0x0E that of a weight-store bank group. -/
namespace Sys2Proof.Machine

/-! ### Turns (f02 R35) -/

def serverOf (kind inst : Nat) : Nat := kind * 2 ^ 16 + inst
def oxServer (p : Place) (q : Nat) : Nat := serverOf 0x04 ((p.die * 12 + p.clu) * 4 + q)
/-- The slots of a Hen's port: 0..31 of a die are DRAM channel groups, 32..39 deep-store ports (f01 R12). -/
def henServer (port : Nat) : Nat :=
  if port % 40 < 32 then serverOf 0x07 (port / 40 * 32 + port % 40) else serverOf 0x05 (port / 40 * 8 + (port % 40 - 32))
def gooseServer (die : Nat) : Nat := serverOf 0x0B die
def dmaServer : Nat := serverOf 0x0C 0
def bankServer (die bank : Nat) : Nat := serverOf 0x0D (die * 768 + bank)
def groupServer (die group : Nat) : Nat := serverOf 0x0E (die * 16 + group)

/-- Entry e of a server's turn table; after reset it names tenant e. -/
def State.turnEntry (s : State) (server e : Nat) : Nat :=
  match (SMap.get [] s.turns server).find? fun x => x.1 == e with
  | some x => x.2
  | none => e

/-- The tenant whose turn it is at a server on this gcy; none outside its reserve. Every gcy of the Goose, the DMA engine and the
untimed ports is a reserve gcy. -/
def State.turn (s : State) (server : Nat) : Option Nat :=
  let g := s.gclk.toNat
  if 0x0B ≤ server / 2 ^ 16 then some (s.turnEntry server (g % 256))
  else
    let (st, ph) := SMap.get (0, 0) s.reserve (server / 2 ^ 16)
    if st ≠ 0 ∧ g % st = ph then some (s.turnEntry server (g / st % 256)) else none

/-- Package link number of local link j of a die (f08 R204). -/
def linkNo (die j : Nat) : Nat := if die < 4 then 5 * die + j else 20 + 4 * (die - 4) + j

/-! ### The mesh (f08 R204) -/

/-- What stands at a port of a router. -/
inductive Att where
  | router (r port : Nat)
  | memory
  | bridge (die : Nat)
  | link (n : Nat)
  | unit
  | nothing
  deriving DecidableEq, Repr

/-- The k-th other die. -/
def otherDie (die k : Nat) : Nat := if k < die then k else k + 1

/-- The neighbour at a mesh port: N is row − 1 and E is column + 1 (DESIGN CHOICE, log entry 54). -/
def meshPort (die r p : Nat) : Att :=
  let col := r % 6
  let row := r / 6
  match p with
  | 0 => if row = 0 then .nothing else .router (die * 24 + r - 6) 2
  | 1 => if col = 5 then .nothing else .router (die * 24 + r + 1) 3
  | 2 => if row = 3 then .nothing else .router (die * 24 + r + 6) 0
  | _ => if col = 0 then .nothing else .router (die * 24 + r - 1) 1

/-- What is attached at A0..A3 of a router. -/
def attached (die r k : Nat) : Att :=
  if r < 12 then (match k with
    | 0 => .memory
    | 1 => .unit
    | 2 => if r < 8 then .memory else .nothing
    | _ => .nothing)
  else if r < 20 then .memory
  else if r = 20 then (match k with
    | 2 => if die = 0 then .unit else .nothing
    | 3 => if die < 4 then .link (linkNo die 4) else .nothing
    | _ => .unit)
  else if r = 21 then .bridge (otherDie die k)
  else if r = 22 then (if k < 3 then .bridge (otherDie die (k + 4)) else .link (linkNo die 0))
  else if k < 3 then .link (linkNo die (k + 1)) else .nothing

/-- What a port of router 0..191 leads to. -/
def portTo (router port : Nat) : Att :=
  if port < 4 then meshPort (router / 24) (router % 24) port else attached (router / 24) (router % 24) (port - 4)

/-! ### Ways through the package (f08 R204, R212) -/

/-- The bridge of a die toward another. -/
def bridgeNo (src dst : Nat) : Nat := src * 8 + (if dst < src then dst else dst - 1)

/-- The router and port of a bridge end: die `die`'s bridge to `other`. -/
def bridgeSeat (die other : Nat) : Nat × Nat :=
  let k := if other < die then other else other - 1
  if k < 4 then (die * 24 + 21, 4 + k) else (die * 24 + 22, k)

/-- The router and port of a package link. -/
def linkSeat (n : Nat) : Nat × Nat :=
  let die := if n < 20 then n / 5 else 4 + (n - 20) / 4
  let j := if n < 20 then n % 5 else (n - 20) % 4
  match j with
  | 0 => (die * 24 + 22, 7)
  | 4 => (die * 24 + 20, 7)
  | _ => (die * 24 + 23, 3 + j)

/-- The router a memory is attached to; the weight store, which the table of R204 leaves out, is reached where the die is. -/
def memRouter (a : Nat) : Option Nat :=
  match addrLevel a with
  | 0 => some (addrDie a * 24 + addrOff a / 2 ^ 23)
  | 1 => some (addrDie a * 24 + addrOff a / 2 ^ 25)
  | 3 => some (addrDie a * 24 + 12 + addrOff a / 2 ^ 32)
  | _ => none

/-- The routers and bridges untimed bytes pass from router `from_` to router `dst` of die `die`: a turn at the last router of each die and at
the bridge between two; those between carry them on in the same turn (DESIGN CHOICE, log entry 164). -/
def wayTo (from_ die : Nat) (dst : Option Nat) : List Nat :=
  let cross := if from_ / 24 = die then [] else
    [serverOf 0x08 (bridgeSeat (from_ / 24) die).1, serverOf 0x09 (bridgeNo (from_ / 24) die), serverOf 0x08 (bridgeSeat die (from_ / 24)).1]
  let last := match dst with
    | some r => [serverOf 0x08 r]
    | none => []
  ((cross ++ last).filter (· != serverOf 0x08 from_)).eraseDups

/-! ### Ports -/

/-- The untimed server of a device address of this package: its scratchpad bank, Hen or weight-store bank group. -/
def State.portAt (s : State) (a : Nat) : Option Nat :=
  if addrDev a ∧ addrPkg a = s.pkg then
    some (match addrLevel a with
      | 0 => bankServer (addrDie a) (addrOff a / 131072)
      | 2 => groupServer (addrDie a) (bankGroup a)
      | _ => henServer (henOf a))
  else none

/-- An address in another package. -/
def State.farAway (s : State) (a : Nat) : Bool := addrDev a && decide (addrPkg a ≠ s.pkg)

/-- A host address: it has no port of this device. -/
def State.direct (s : State) (a : Nat) : Bool := (s.portAt a).isNone && !s.farAway a

/-- It is the tenant's turn at the port of an address; the host's memory has no turns. -/
def State.turnAt (s : State) (tenant a : Nat) : Bool :=
  match s.portAt a with
  | some p => s.turn p == some tenant
  | none => true

/-- The memory port whose object cache serves an address (f04 R104): a Hen's, a die's weight-store port, a cluster's scratchpad port. -/
def cachePort (a : Nat) : Nat :=
  match addrLevel a with
  | 0 => 2 ^ 16 + addrDie a * 12 + addrOff a / 2 ^ 23
  | 2 => 2 * 2 ^ 16 + addrDie a
  | _ => henOf a

/-- The extent of an object a window offset lies in. -/
def State.extentOf (s : State) (c : Cap) (o : Nat) : Nat := (capBase c.bits + o) / 2 ^ (12 + entXsz (s.entryOf c))

/-- A port can translate the byte: the window, a pinned object, or an extent in the tenant's part of the translation cache. A part of no
entries keeps nothing, and its accesses are translated one by one (DESIGN CHOICE, log entry 146). -/
def State.xlatHit (s : State) (tenant a : Nat) (c : Cap) (o : Nat) : Bool :=
  c.win || entTp (s.entryOf c) == 1 || (s.tenant tenant).xlatPart == 0 ||
    (SMap.get [] s.xlat (cachePort a * 256 + tenant)).contains (capTid c.bits, capObj c.bits, s.extentOf c o)

/-- A miss is filled; where the tenant's partition is full its oldest entry goes (DESIGN CHOICE, log entry 146). -/
def State.xlatFill (s : State) (tenant a : Nat) (c : Cap) (o : Nat) : State :=
  let k := cachePort a * 256 + tenant
  let l := (capTid c.bits, capObj c.bits, s.extentOf c o) :: SMap.get [] s.xlat k
  { s with xlat := SMap.set [] s.xlat k (l.take (s.tenant tenant).xlatPart) }

/-! ### What holds an untimed access -/

/-- No routine of the tenant is running at the port of an address (f07 R196: its run is atomic; another tenant's touches none of the
tenant's bytes, log entry 147). -/
def State.portIdle (s : State) (tenant a : Nat) : Bool :=
  if addrDev a ∧ addrPkg a = s.pkg ∧ (addrLevel a = 1 ∨ addrLevel a = 3) then (s.hen (henOf a * 256 + tenant)).cur.isNone else true

/-- The extent an address lies in is in migration: accesses to it wait (f04 R106). -/
def State.migratingAt (s : State) (a : Nat) : Bool :=
  s.tenants.any fun t => t.2.objs.any fun o => o.2.mig.any fun e =>
    match extentBase s t.1 o.2.entry e with
    | some b => decide (b * 4096 ≤ a) && decide (a < b * 4096 + 2 ^ (12 + entXsz o.2.entry))
    | none => false

/-- A Hen can perform an access of the tenant to an address now: no routine of the tenant runs there, and its extent is not in migration. -/
def State.henFree (s : State) (tenant a : Nat) : Bool := s.portIdle tenant a && !s.migratingAt a

/-- A link to a package shows the stop bit of a tenant (f08 R212). -/
def State.stopFor (s : State) (tenant pkg : Nat) : Bool :=
  s.trained.any fun k =>
    let mine := if k.a = s.pkg then some (k.ja, k.b) else if k.b = s.pkg then some (k.jb, k.a) else none
    match mine with
    | some (j, peer) => peer == pkg && (SMap.get Link.down s.links j).stops.contains tenant
    | none => false

/-- The stop bit holds what goes to an address of another package. -/
def State.stopBit (s : State) (tenant a : Nat) : Bool := s.farAway a && s.stopFor tenant (addrPkg a)

/-- A host page the device holds a translation of (f04 R103, f09 R228); device memory needs none. -/
def State.pageOk (s : State) (fn a : Nat) : Bool := addrDev a || (s.func fn).ats.contains (a % 2 ^ 57 / 4096)

/-- Nothing at the port holds a byte at its address: no routine's run, no refresh (f04 R114), no migration of its extent (f04 R106). -/
def State.portFree (s : State) (tenant a : Nat) (c : Cap) (o : Nat) : Bool :=
  s.portIdle tenant a && !s.inRefresh a && (c.win || !(s.obj (capTid c.bits) (capObj c.bits)).mig.contains (s.extentOf c o))

/-- An untimed access to the byte can perform now: resident (f04 R111), free at its port, its host page translated (R103). -/
def State.byteReady (s : State) (sid : Nat) (c : Cap) (o : Nat) : Bool :=
  match s.capAddr sid c o with
  | .at_ a => s.pageOk (s.launchFn (ttOf sid)) a && s.portFree (s.owner sid) a c o && !s.stopBit (s.owner sid) a
  | .absent => false
  | .bad => true

/-- Residency is asked of the Mule, once (f04 R111). -/
def State.want (s : State) (x : Nat × Nat × Nat) : State :=
  if s.wanted.contains x then s else { s with wanted := s.wanted ++ [x] }

/-- Whether a function can ask for a page: at most 512 of its page requests are outstanding (f09 R228). -/
def Func.priRoom (f : Func) : Bool := decide (f.pri.length < 512)

/-- A page request of a function, once (f04 R103); with 512 outstanding it is put off to the access's next turn. -/
def State.askPage (s : State) (fn page : Nat) : State :=
  let f := s.func fn
  if f.pri.contains page ∨ f.priRoom = false then s
  else { s.setFunc fn { f with pri := f.pri ++ [page] } with outbox := s.outbox ++ [.pri fn page] }

/-- What an access waits for is asked for: a non-resident extent of the Mule, a host page of the host. -/
def State.askByte (s : State) (sid : Nat) (c : Cap) (o : Nat) : State :=
  match s.capAddr sid c o with
  | .absent => s.want (capTid c.bits, capObj c.bits, s.extentOf c o)
  | .at_ a => if s.pageOk (s.launchFn (ttOf sid)) a then s else s.askPage (s.launchFn (ttOf sid)) (a % 2 ^ 57 / 4096)
  | .bad => s

/-- Host pages among the bytes that are not translated yet. -/
def State.pagesOf (s : State) (sid : Nat) (l : List (Cap × Nat)) : List Nat :=
  l.filterMap fun x => match s.capAddr sid x.1 x.2 with
    | .at_ a => if s.pageOk (s.launchFn (ttOf sid)) a then none else some (a % 2 ^ 57 / 4096)
    | _ => none

/-- The address of a window offset where it has one. -/
def State.addrOf (s : State) (sid : Nat) (c : Cap) (o : Nat) : Option Nat :=
  match s.capAddr sid c o with
  | .at_ a => some a
  | _ => none

/-! ### Requests to other packages (f07 R193, f08 R213) -/

/-- A Hen of the domain. -/
def henKey (a : Nat) : Nat := addrPkg a * 320 + henOf a

/-- An untimed message for another package starts at a router of this one (f08 R212). -/
def State.mail (s : State) (dest tenant router : Nat) (m : Msg) : State :=
  { s with post := s.post ++ [⟨dest, tenant, router, [serverOf 0x08 router], none, 0, m⟩] }

/-- One that leaves by a link of this package. -/
def State.mailBy (s : State) (link dest tenant router : Nat) (m : Msg) : State :=
  let out := (linkSeat link).1
  { s with post := s.post ++ [⟨dest, tenant, out, serverOf 0x08 router :: wayTo router (out / 24) (some out), some link, 0, m⟩] }

/-- A request to a Hen of another package: numbered per pair of source core and Hen, from 1 (f07 R193; DEDUCED, log entry 31). -/
def State.sendHen (s : State) (key sid hen : Nat) (op : RemoteOp) : State :=
  let pair := (s.placeOfStrand sid).coreNo * 2 ^ 32 + hen
  let seq := (SMap.get 0 s.remoteSeq pair + 1) % 2 ^ 16
  { s with
    remoteSeq := SMap.set 0 s.remoteSeq pair seq,
    remotes := SMap.set Remote.none s.remotes key ⟨hen, sid, seq, s.gclk.toNat, 0, op⟩ }.mail (hen / 320) (s.owner sid)
      ((s.placeOfStrand sid).die * 24 + (s.placeOfStrand sid).clu) (.request s.pkg (s.placeOfStrand sid).coreNo seq op)

/-- A request about an address of another package. -/
def State.sendFar (s : State) (key sid a : Nat) (op : RemoteOp) : State := s.sendHen key sid (henKey a) op

/-- A request is unanswered. -/
def State.awaiting (s : State) (key : Nat) : Bool := s.remotes.any fun x => x.1 == key

/-- The keys of what asks another package: a job its number, a strand in a wait, a gate's release, a Hen's commit. -/
def waitKey (sid : Nat) : Nat := 2 ^ 64 + sid
def relKey (gate : Nat) : Nat := 2 ^ 128 + gate
def commitKey (tt hen : Nat) : Nat := 2 ^ 192 + tt * 2 ^ 32 + hen
def countKey (n : Nat) : Nat := 2 ^ 224 + n

/-- A strand and a timetable of another package, where those of this one are numbered. -/
def farStrand (pkg strand : Nat) : Nat := 2 ^ 80 + pkg * 2 ^ 64 + strand
def farTt (pkg tt : Nat) : Nat := 2 ^ 40 * (pkg + 1) + tt

/-! ### Pieces at the ports (f02 R34, R35, f06 R150) -/

/-- The strand and the capability of one side of a piece. -/
def State.opCap (s : State) (p : PortOp) (dst : Bool) : Nat × Cap :=
  match p.who with
  | .job id => let j := s.job id; (j.sid, if dst ∧ p.use ≠ .back then j.cd else j.cs)
  | .bulk id => match s.bulks.find? fun b => b.id == id with
    | some b => (0, if dst then b.cd else b.cs)
    | none => (0, Cap.null)
  | .coll ctx => let c := s.coll ctx; (c.sid, c.cd)

def State.opAddr (s : State) (p : PortOp) (dst : Bool) (o : Nat) : XAddr := let (sid, c) := s.opCap p dst; s.capAddr sid c o

/-- The bytes that come next, each with its address: those still to be read, else those to be written. -/
def State.opNext (s : State) (p : PortOp) : Bool × List (Nat × XAddr) :=
  let unread := p.bytes.filterMap (·.2.1)
  if unread.isEmpty then (true, p.bytes.map fun x => (x.1, s.opAddr p true x.1))
  else (false, unread.map fun o => (o, s.opAddr p false o))

/-- The address a piece has come to; none where the byte is not resident or is nowhere. -/
def State.opAt (s : State) (p : PortOp) : Option Nat :=
  match (s.opNext p).2 with
  | (_, .at_ a) :: _ => some a
  | _ => none

/-- The server a piece waits for: the next router or bridge on its way, else the port it has come to. -/
def State.opServer (s : State) (p : PortOp) : Option Nat :=
  match p.hops with
  | h :: _ => some h
  | [] => (s.opAt p).bind s.portAt

/-- The way of a piece from the router it stands at to the port of its next byte. -/
def State.wayOf (s : State) (p : PortOp) : List Nat :=
  match s.opAt p with
  | some a => if (s.portAt a).isSome then wayTo p.seat (addrDie a) (memRouter a) else []
  | none => []

/-- A piece takes its place among those on the way. -/
def State.putOp (s : State) (p : PortOp) : State :=
  let seat := match s.opAt p with
    | some a => if (s.portAt a).isSome then (memRouter a).getD (if p.seat / 24 = addrDie a then p.seat else (bridgeSeat (addrDie a) (p.seat / 24)).1)
      else p.seat
    | none => p.seat
  { s with ports := s.ports ++ [{ p with hops := p.hops ++ s.wayOf p, seat := seat }] }

/-- A job of whose pieces every byte is read before any is written has bytes still to read. -/
def State.wholeHeld (s : State) (p : PortOp) : Bool :=
  match p.who with
  | .job id => (s.job id).whole && (!(s.job id).pieces.isEmpty ||
      s.ports.any fun q => q.who == p.who && q.bytes.any fun x => x.2.1.isSome)
  | _ => false

/-- A piece has read its bytes and is on its way to a Hen as a request. -/
def PortOp.asks (p : PortOp) : Bool := p.use == .request && p.bytes.all fun x => x.2.1.isNone

/-- What serving a piece does for the one it belongs to: bytes read at addresses, bytes written (offset, address, byte), a piece whose bytes
are all read and go to a Hen. -/
structure MoverFx where
  read    : List Nat → State → State
  write   : List (Nat × Nat × Byte) → State → State
  request : PortOp → State → State

/-- A piece moves on: the bytes that may be read are, and, once all are, those that may be written are; what is left waits at its port. -/
def State.moveOn (s : State) (p : PortOp) (fx : MoverFx) (canRead canWrite : Nat → Bool) : State :=
  let from_ := fun (o : Nat) => match s.opAddr p false o with
    | .at_ a => if canRead a then some a else none
    | _ => none
  let bytes := p.bytes.map fun x => match x.2.1.bind from_ with
    | some a => (x.1, none, s.mem.read a)
    | none => x
  let s := fx.read (p.bytes.filterMap fun x => x.2.1.bind from_) s
  let p := { p with bytes := bytes }
  if bytes.any fun x => x.2.1.isSome then s.putOp p
  else if p.use = .request then (if (s.wayOf p).isEmpty then fx.request p s else s.putOp p)
  else if s.wholeHeld p then s.putOp p
  else
    let into := fun (x : Nat × Option Nat × Byte) => match s.opAddr p true x.1 with
      | .at_ a => if canWrite a then some (x.1, a, x.2.2) else none
      | _ => none
    let left := bytes.filter fun x => (into x).isNone && s.opAddr p true x.1 != .bad
    let s := fx.write (bytes.filterMap into) s
    if left.isEmpty then s else s.putOp { p with bytes := left }

/-- Pieces at the ports that belong to one. -/
def State.opsOf (s : State) (who : Mover) : List PortOp := s.ports.filter fun p => p.who == who

/-- They are given up. -/
def State.dropOps (s : State) (who : Mover) : State := { s with ports := s.ports.filter fun p => p.who != who }

/-- Every byte at the server a piece waits for can be served now. -/
def State.opReady (s : State) (p : PortOp) (server : Nat) : Bool :=
  let (dst, l) := s.opNext p
  let c := (s.opCap p dst).2
  !(dst && s.wholeHeld p) && l.all fun x => match x.2 with
    | .at_ a => s.portAt a != some server || s.portFree p.tenant a c x.1
    | _ => true

/-- The first byte at the server that its cache cannot translate. -/
def State.opMiss (s : State) (p : PortOp) (server : Nat) : Option (Nat × Cap × Nat) :=
  let (dst, l) := s.opNext p
  let c := (s.opCap p dst).2
  l.findSome? fun x => match x.2 with
    | .at_ a => if s.portAt a = some server ∧ s.xlatHit p.tenant a c x.1 = false then some (a, c, x.1) else none
    | _ => none

/-- A piece that has come to a byte that is not resident asks for it; bytes that are nowhere any more are dropped. -/
def State.nudge (s : State) (p : PortOp) : State :=
  let (dst, l) := s.opNext p
  let (sid, c) := s.opCap p dst
  let gone := l.filterMap fun x => if x.2 = .bad then some x.1 else none
  let keep := p.bytes.filter fun x => if dst then !gone.contains x.1 else (x.2.1.elim true fun o => !gone.contains o)
  let s := l.foldl (fun s x => if x.2 = .absent then s.askByte sid c x.1 else s) s
  if gone.isEmpty then s
  else { s with ports := s.ports.flatMap fun q => if q == p then (if keep.isEmpty then [] else [{ p with bytes := keep }]) else [q] }

end Sys2Proof.Machine
end

