-- ==== Sys2Proof/Machine/Sync.lean ====
section
/-! DEFINITION. Queue buffers, semaphores, sync words, fences, gates, observed loads, work queues and firmware services: the
words and the steps that answer them (f07 R182..R203, f06 R152..R166, f18 R340, R345, R353, R362, R363, f19 R388..R395,
R402..R404, f20 R428..R431, f10 R266). -/
namespace Sys2Proof.Machine

/-- A T-slot word of a strand that a local wait forbids in an M-step (f18 R338). -/
def waitWord (s : State) (f : Nat → State) : Result :=
  strandOnly s fun sid => if s.noWait sid then s.slotIllegal sid 3 else f sid

/-! ### Queue buffers (f07 R200..R203, f19 R388..R390) -/

/-- Slots filled and free by a pair of pointers. -/
def filled (prod cons : BitVec 16) : Nat := (prod - cons).toNat
def QB.slots (q : QB) : Nat := q.nm1.toNat + 1
def QB.free (q : QB) (prod cons : BitVec 16) : Nat := q.slots - filled prod cons

/-- An unfinished job of the strand advances this handle (f07 R201). -/
def Strand.qbBusy (st : Strand) (h : Nat) : Bool :=
  (List.range 4).any fun q => (st.queue q).any fun e =>
    match e with
    | .job j => (j.blk.getD 6 0).getLsbD 18 && bits (j.blk.getD 6 0) 27 24 == h
    | _ => false

/-- QBBIND (f19 R388). -/
def execQbbind (r : BitVec 6) (h : BitVec 4) (s : State) : Result :=
  strandOnly s fun sid =>
    let st := s.strand sid
    let v := st.rd r.toNat
    let sz := bits v 28 24
    let base := bits v 22 0
    let n := bits v 43 32 + 1
    if bits v 63 44 ≠ 0 ∨ bits v 31 29 ≠ 0 ∨ v.getLsbD 23 ∨ sz < 6 ∨ 20 < sz ∨ base % 2 ^ sz ≠ 0 ∨
        capLen (st.rc 1).bits < base + n * 2 ^ sz ∨ st.qbBusy h.toNat then
      s.suppressHere sid Code.qbState 3
    else
      s.setStrand sid (st.push 3 0 (.qb h.toNat
        ⟨0, 0, 0, 0, BitVec.ofNat 12 (n - 1), BitVec.ofNat 5 sz, true, BitVec.ofNat 23 base⟩))

/-- The condition of QBWAIT on the visible pointers. -/
def QB.holds (q : QB) (e : Bool) (n : Nat) : Bool :=
  if e then decide (n ≤ q.free q.vprod q.vcons) else decide (n ≤ filled q.vprod q.vcons)

/-- QBWAIT (f19 R390, f07 R201). -/
def qbWait (s : State) (e : Bool) (k : BitVec 6) (h : BitVec 4) : Result :=
  waitWord s fun sid =>
    let st := s.strand sid
    let n := (st.rd k.toNat).toNat
    let q := st.qbuf h.toNat
    if q.v = false ∨ q.slots < n then s.suppressHere sid Code.qbState 3
    else if n = 0 ∨ q.holds e n then s
    else s.freeze sid (.qb h.toNat e n)

def execQbwait (k : BitVec 6) (h : BitVec 4) (s : State) : Result := qbWait s false k h
def execQbwaitE (k : BitVec 6) (h : BitVec 4) (s : State) : Result := qbWait s true k h

/-- QBWAIT_COMPLETE: the visible pointers satisfy the wait. -/
def execQbwaitComplete (sid : Nat) (s : State) : Result :=
  let st := s.strand sid
  match st.wait with
  | .qb h e n => if (st.qbuf h).holds e n then .next (s.setStrand sid (st.answer [])) else notEnabled "QBWAIT_COMPLETE"
  | _ => notEnabled "QBWAIT_COMPLETE"

/-- A claim of n slots whose visible update is held until vcy `at` (f19 R389). -/
def QB.claim (q : QB) (give : Bool) (n : Nat) : QB :=
  if give then { q with prod := q.prod + BitVec.ofNat 16 n } else { q with cons := q.cons + BitVec.ofNat 16 n }
def QB.show_ (q : QB) (give : Bool) (n : Nat) : QB :=
  if give then { q with vprod := q.vprod + BitVec.ofNat 16 n } else { q with vcons := q.vcons + BitVec.ofNat 16 n }

/-- QBGIVE and QBTAKE (f19 R389). -/
def qbClaim (s : State) (give : Bool) (k : BitVec 6) (h : BitVec 4) : Result :=
  strandOnly s fun sid =>
    let st := s.strand sid
    let n := (st.rd k.toNat).toNat
    let q := st.qbuf h.toNat
    let room := if give then q.free q.prod q.cons else filled q.prod q.cons
    if q.v = false ∨ room < n then s.suppressHere sid Code.qbState 3
    else if n = 0 then s
    else
      let at_ := if give then st.lastWrite else st.lastRead
      let st := st.setQb h.toNat (q.claim give n)
      s.setStrand sid { st with qbheld := st.qbheld ++ [(h.toNat, give, n, at_)] }

def execQbtake (k : BitVec 6) (h : BitVec 4) (s : State) : Result := qbClaim s false k h
def execQbgive (k : BitVec 6) (h : BitVec 4) (s : State) : Result := qbClaim s true k h

/-- Everything of vcy `v` has performed: the strand has run it. A strand held back at its next bundle has not (f03 R64). -/
def Strand.passed (st : Strand) (v : Nat) : Bool :=
  decide (v < st.vclk) || (decide (v = st.vclk) && !st.heldBack)

/-- QB_VISIBLE_UPDATE: the oldest held update whose accesses have performed becomes visible. -/
def execQbVisibleUpdate (sid : Nat) (s : State) : Result :=
  let st := s.strand sid
  match st.qbheld.find? fun u => st.passed u.2.2.2 with
  | some u =>
    let st := st.setQb u.1 ((st.qbuf u.1).show_ u.2.1 u.2.2.1)
    .next (s.setStrand sid { st with qbheld := st.qbheld.erase u })
  | none => notEnabled "QB_VISIBLE_UPDATE"

/-! ### Semaphores (f07 R182, R183, f19 R394, R395) -/

/-- SEMWAIT (f19 R395): the strand becomes a taker; it is served at the end of this gcy or later. -/
def execSemwait (r : BitVec 6) (n : BitVec 8) (t : BitVec 7) (s : State) : Result :=
  waitWord s fun sid =>
    match s.semKey sid n.toNat with
    | none => s.suppressHere sid Code.semRange 3
    | some _ => s.freeze sid (.sem r.toNat n.toNat (if t = 0 then none else some (2 ^ (t.toNat + 9))))

/-- The status word of SEMWAIT. -/
def semStatus (v : BitVec 32) : BitVec 64 := (v &&& 0xFF000000#32).setWidth 64

/-- SEMWAIT_SERVED: the taker takes a unit, and ERR and STAT are cleared. In its issue gcy the strand has not frozen and
its status is written at once; else it is written in the strand's next vcy. -/
def execSemwaitServed (sid : Nat) (s : State) : Result :=
  let st := s.strand sid
  match st.wait with
  | .sem r idx _ =>
    match s.semKey sid idx with
    | none => notEnabled "SEMWAIT_SERVED"
    | some k =>
      let t := s.ttOfStrand sid
      let v := t.sem k
      if semCount v = 0 then notEnabled "SEMWAIT_SERVED"
      else
        let s := s.setTt (ttOf sid) (t.setSem k (BitVec.ofNat 32 (semCount v - 1)))
        if st.ran ∧ st.more = [] ∧ st.owed = [] then
          .next (s.setStrand sid { (st.wd r (semStatus v) false) with wait := .none })
        else .next (s.setStrand sid (st.answer [.d r (semStatus v) false]))
  | _ => notEnabled "SEMWAIT_SERVED"

/-- SEMWAIT_TIMEOUT: nothing is taken, TO is 1. -/
def execSemwaitTimeout (sid : Nat) (s : State) : Result :=
  let st := s.strand sid
  match st.wait with
  | .sem r _ (some 0) => .next (s.setStrand sid (st.answer [.d r (BitVec.twoPow 64 32) false]))
  | _ => notEnabled "SEMWAIT_TIMEOUT"

/-- SEMSIG (f19 R394): its units are applied once every earlier timed write has performed. -/
def execSemsig (n : BitVec 8) (a : BitVec 7) (s : State) : Result :=
  strandOnly s fun sid =>
    match s.semKey sid n.toNat with
    | none => s.suppressHere sid Code.semRange 3
    | some _ => s.modStrand sid fun st => { st with sigs := st.sigs ++ [(n.toNat, a.toNat, st.lastWrite, st.bundle)] }

/-- SEMSIG_APPLY. -/
def execSemsigApply (sid : Nat) (s : State) : Result :=
  let st := s.strand sid
  match st.sigs.find? fun x => st.passed x.2.2.1 with
  | some x =>
    let s := s.setStrand sid { st with sigs := st.sigs.erase x }
    .next (s.signal sid x.1 x.2.1 none x.2.2.2)
  | none => notEnabled "SEMSIG_APPLY"

/-! ### Sync words (f07 R197, R198, f19 R402..R404) -/

/-- The checks SYNCARM and SYNCWAIT share: the device address of the word, or the fault code. -/
def State.syncAddr (s : State) (sid : Nat) (c : Cap) (o right : Nat) : Except Nat Nat :=
  if (capBase c.bits + o) % 32 ≠ 0 then .error Code.capBound
  else match s.capCheck sid c o 32 right with
    | some code => .error code
    | none =>
      if s.homeOfCap c ≠ 0 then .error Code.oxDest
      else match s.capAddr sid c o with
        | .at_ a => .ok a
        | _ => .error Code.capBound

/-- Advance of a sync word: target, count, generation and advances so far; bounded by the count. -/
def syncAdvance : Nat → Nat → Nat → Nat → Nat → Nat × Nat × Nat
  | 0, _, count, gen, n => (count, gen, n)
  | fuel + 1, target, count, gen, n =>
    if target ≠ 0 ∧ target ≤ count then syncAdvance fuel target (count - target) (gen + 1) (n + 1) else (count, gen, n)

/-- A sync word with its advances in closed form: ⌊COUNT / TARGET⌋ of them. -/
def syncSteps (target count : Nat) : Nat := if target = 0 then 0 else count / target

/-- The unit of a sync word as 256 bits. -/
def State.syncWord (s : State) (a : Nat) : BitVec 256 := BitVec.ofNat 256 (natOf (s.mem.readN a 32))
def syncTarget (w : BitVec 256) : Nat := (w.extractLsb' 0 64).toNat
def syncCount (w : BitVec 256) : Nat := (w.extractLsb' 64 64).toNat
def syncGen (w : BitVec 256) : BitVec 64 := w.extractLsb' 128 64
/-- The generation already advanced since SYNCARM: kept in no bit of the word, so the model's own record says it (log entry
26): `adv`. -/
def syncPut (target count : Nat) (gen : BitVec 64) (armed multi : Bool) : BitVec 256 :=
  BitVec.ofNat 256 (target % 2 ^ 64 + count % 2 ^ 64 * 2 ^ 64 + gen.toNat * 2 ^ 128 + b2n armed * 2 ^ 192 +
    b2n multi * 2 ^ 193)

/-- SYNCARM (f19 R402): applied at the end of the issue vcy. -/
def execSyncarm (r : BitVec 6) (c : BitVec 5) (k : BitVec 6) (i : BitVec 7) (s : State) : Result :=
  strandOnly s fun sid =>
    let st := s.strand sid
    let o := offImm (st.rd k.toNat) 32 i
    match s.syncAddr sid (st.rc c.toNat) o rightW with
    | .error code => s.suppress sid code 3 c.toNat o
    | .ok a => s.setStrand sid (st.push 3 0 (.arm a (st.rd r.toNat)))

/-- SYNCWAIT (f19 R404). -/
def execSyncwait (r : BitVec 6) (c : BitVec 5) (k : BitVec 6) (i : BitVec 7) (s : State) : Result :=
  waitWord s fun sid =>
    let st := s.strand sid
    let o := offImm (st.rd k.toNat) 32 i
    match s.syncAddr sid (st.rc c.toNat) o rightR with
    | .error code => s.suppress sid code 3 c.toNat o
    | .ok a =>
      let g := st.rd r.toNat
      if g.toNat < (syncGen (s.syncWord a)).toNat then s else s.freeze sid (.sync a g)

/-- SYNCWAIT_COMPLETE. -/
def execSyncwaitComplete (sid : Nat) (s : State) : Result :=
  let st := s.strand sid
  match st.wait with
  | .sync a g =>
    if g.toNat < (syncGen (s.syncWord a)).toNat then .next (s.setStrand sid (st.answer []))
    else notEnabled "SYNCWAIT_COMPLETE"
  | _ => notEnabled "SYNCWAIT_COMPLETE"

/-! ### Fences (f06 R164, f18 R353, R362) -/

/-- FENCE: bit k of q names OQk, g names GQ. -/
def execFence (g : BitVec 1) (q : BitVec 4) (s : State) : Result :=
  strandOnly s fun sid =>
    s.modStrand sid fun st => st.mark (((List.range 4).filter fun k => q.getLsbD k) ++ (if g = 1 then [4] else []))

/-- JOIN. -/
def execJoin (s : State) : Result :=
  waitWord s fun sid => if (s.strand sid).marked then s.freeze sid .join else s

/-- JOIN_COMPLETE. -/
def execJoinComplete (sid : Nat) (s : State) : Result :=
  let st := s.strand sid
  match st.wait with
  | .join => if st.marked then notEnabled "JOIN_COMPLETE" else .next (s.setStrand sid (st.answer []))
  | _ => notEnabled "JOIN_COMPLETE"

/-! ### Gates (f06 R161..R166, f18 R340, R345, f19 R392) -/

/-- The image of a gate, as loads read it (f06 R161): HELD while a strand holds it or its release is still to come. -/
def gateImage (g : Gate) : List Byte :=
  bytesOf 64 (b2n (g.holder.isSome || g.freeing.isSome) + b2n g.poison * 2 + g.gen.toNat * 4 + g.binds.length * 2 ^ 65)

/-- A gate's state changed, its image written with it. -/
def State.setGate (s : State) (a : Nat) (g : Gate) : State :=
  { s with gates := SMap.set Gate.none s.gates a g, mem := s.mem.writeN a (gateImage g) }

/-- A strand joins a gate's waiters, in another package by a request of f08 R213. -/
def State.joinGate (s : State) (sid a : Nat) : State :=
  let g := s.gate a
  if s.farAway a then s.sendFar (waitKey sid) sid a (.acq a sid)
  else { s with gates := SMap.set Gate.none s.gates a { g with waiters := g.waiters ++ [sid] } }

/-- ACQ (f18 R340): the request goes to the gate's Hen, in another package as a request of f08 R213, and the strand freezes. A gate
in an extent that is not resident holds it until the extent is (f04 R111). -/
def execAcq (c : BitVec 5) (s : State) : Result :=
  waitWord s fun sid =>
    let cap := (s.strand sid).rc c.toNat
    match s.gateOf sid cap with
    | .error code => s.suppress sid code 3 c.toNat 0
    | .ok none => s.freeze sid (.held cap none)
    | .ok (some a) =>
      if (s.gate a).holder = some sid then s.suppressHere sid Code.gateState 3
      else (s.joinGate sid a).freeze sid (.acq a)

/-- A strand of a stopping timetable is stopped in place in its wait, which is abandoned (f03 R71). -/
def State.abandons (s : State) (sid : Nat) : Bool := decide ((s.ttOfStrand sid).cause ≠ 0) || (s.strand sid).halt

/-- Who asked for a gate from another package, under the number of its strand. -/
def State.ask (s : State) (w : Nat) : Option (Nat × Nat × Nat × Nat) := (s.asks.find? fun x => x.1 == w).map (·.2)

/-- The tenant whose turns serve a waiter. -/
def State.waiterTenant (s : State) (w : Nat) : Nat :=
  match s.ask w with
  | some x => x.2.2.2 % 256
  | none => s.owner w

/-- A strand has its gate: it goes on, or, in another package, is told. -/
def State.granted (s : State) (w : Nat) : State :=
  match s.ask w with
  | some (pkg, core, seq, port) => State.henReply { s with asks := SMap.erase s.asks w } port (pkg, core, seq) 0 []
  | none => s.modStrand w fun st => match st.wait with
    | .acq _ => st.answer []
    | _ => st

/-- GATE_GRANT (f06 R163): on its tenant's turn the first waiter whose wait is not abandoned holds the gate. -/
def execGateGrant (gate : Nat) (s : State) : Result :=
  let g := s.gate gate
  match g.holder, g.freeing, g.waiters.filter (fun w => !s.abandons w) with
  | Option.none, Option.none, w :: rest =>
    if s.turnAt (s.waiterTenant w) gate ∧ s.henFree (s.waiterTenant w) gate then .next ((s.setGate gate { g with holder := some w, waiters := rest }).granted w)
    else notEnabled "GATE_GRANT"
  | _, _, _ => notEnabled "GATE_GRANT"

/-- REL (f19 R392): the strand no longer holds the gate; a marker goes onto each of its five queues. -/
def execRel (c : BitVec 5) (s : State) : Result :=
  strandOnly s fun sid =>
    match s.gateOf sid ((s.strand sid).rc c.toNat) with
    | .error code => s.suppress sid code 3 c.toNat 0
    | .ok none => s.suppressHere sid Code.gateState 3
    | .ok (some a) =>
      let g := s.gate a
      if g.holder ≠ some sid then s.suppressHere sid Code.gateState 3
      else
        let s := s.setGate a { g with holder := none, freeing := some sid }
        s.modStrand sid fun st =>
          let st' := st.mark [0, 1, 2, 3, 4]
          { st' with rels := st'.rels ++ [(a, st.markers, st.lastWrite)] }

/-- A marker of the strand is still in a queue. -/
def Strand.holdsMarker (st : Strand) (m : Nat) : Bool :=
  (List.range 5).any fun q => (st.queue q).any fun e => match e with | .marker k => k == m | _ => false

/-- A release of the strand can be made (f06 R164). -/
def Strand.canRelease (st : Strand) (x : Nat × Nat × Nat) : Bool :=
  st.passed x.2.2 && ((List.range 5).all fun k => !st.holdsMarker (x.2.1 + k))

/-- The gate is released: GEN counts, HELD and POISON clear, or POISON is set where its holder ended (f06 R164, R166). -/
def Gate.release (g : Gate) (poison : Bool) : Gate :=
  { g with holder := .none, freeing := .none, poison := poison, gen := g.gen + 1 }

/-- A gate is released at its Hen: in another package by a request; here only whether it is live is kept of that one. -/
def State.releaseGate (s : State) (sid a : Nat) (poison : Bool) : State :=
  if s.farAway a then
    ({ s with gates := SMap.set Gate.none s.gates a { Gate.none with live := (s.gate a).live } }).sendFar (relKey a) sid a (.rel a sid poison)
  else s.setGate a ((s.gate a).release poison)

/-- GATE_RELEASE: once nothing at the Hen holds it (f04 R106, f07 R196). -/
def execGateRelease (sid : Nat) (s : State) : Result :=
  let st := s.strand sid
  match st.rels.find? st.canRelease with
  | some x =>
    if s.farAway x.1 ∨ s.henFree (s.owner sid) x.1 then
      .next ((s.setStrand sid { st with rels := st.rels.erase x }).releaseGate sid x.1 false)
    else notEnabled "GATE_RELEASE"
  | none => notEnabled "GATE_RELEASE"

/-- The wait for a BIND of the gate at a capability's offset 0, which is held while that is not resident (f04 R111). -/
def State.bindWait (s : State) (sid : Nat) (c : Cap) (r : Nat) (w : Option (Nat × Nat × Nat × Nat)) : Wait :=
  match s.addrOf sid c 0 with
  | some a => .bind r a w
  | none => .held c (some (r, w))

/-- BIND (f18 R345): the capability check of the gate's 64 bytes and that of the window; all else is the Hen's answer. -/
def execBind (r : BitVec 6) (c : BitVec 5) (k : BitVec 5) (s : State) : Result :=
  waitWord s fun sid =>
    let st := s.strand sid
    let w := (st.rc k.toNat)
    match s.capCheck sid (st.rc c.toNat) 0 64 rightG with
    | some code => s.suppress sid code 3 c.toNat 0
    | none =>
      if k = 0 then s.freeze sid (s.bindWait sid (st.rc c.toNat) r.toNat none)
      else match s.capCheck sid w 0 (capLen w.bits) rightG with
        | some code => s.suppress sid code 3 k.toNat 0
        | none =>
          s.freeze sid (s.bindWait sid (st.rc c.toNat) r.toNat (some (capTid w.bits, capObj w.bits, capBase w.bits, capLen w.bits)))

/-- The status of a BIND by a strand, and the gate after it (f06 R162). -/
def Gate.bindTo (g : Gate) (sid : Nat) (w : Option (Nat × Nat × Nat × Nat)) : Nat × Gate :=
  if g.holder ≠ some sid then (2, g)
  else match w with
    | .none => (0, { g with binds := [], live := true })
    | some x => if 8 ≤ g.binds.length then (1, g) else (0, { g with binds := g.binds ++ [x], live := true })

/-- A BIND at the gate's Hen. -/
def State.bindAt (s : State) (sid a : Nat) (w : Option (Nat × Nat × Nat × Nat)) : Nat × State :=
  let (status, g) := (s.gate a).bindTo sid w
  (status, if status = 0 then s.setGate a g else s)

/-- BIND_ANSWER (f06 R162): on the tenant's turn at the gate's Hen; another package's is asked. -/
def execBindAnswer (sid : Nat) (s : State) : Result :=
  let st := s.strand sid
  match st.wait with
  | .bind r a w =>
    if s.farAway a then
      (if s.awaiting (waitKey sid) then notEnabled "BIND_ANSWER" else .next (s.sendFar (waitKey sid) sid a (.bind a sid w)))
    else if s.turnAt (s.owner sid) a = false ∨ s.henFree (s.owner sid) a = false then notEnabled "BIND_ANSWER"
    else
      let (status, s) := s.bindAt sid a w
      .next (s.setStrand sid (st.answer [.d r (BitVec.ofNat 64 status) false]))
  | _ => notEnabled "BIND_ANSWER"

/-- A held ACQ or BIND: the extent is asked for, and once it is resident the strand's request goes to its gate's Hen (f04 R111). -/
def State.gateThere (s : State) (sid : Nat) : State :=
  let st := s.strand sid
  match st.wait with
  | .held c b =>
    match s.addrOf sid c 0 with
    | none => s.askByte sid c 0
    | some a => match b with
      | none => (s.joinGate sid a).modStrand sid fun st => { st with wait := .acq a }
      | some (r, w) => s.setStrand sid { st with wait := .bind r a w }
  | _ => s

/-! ### The state of a weight-store object (f20 R431, f04 R113) -/

/-- WSSEAL. -/
def execWsseal (r : BitVec 6) (c : BitVec 5) (t : BitVec 1) (s : State) : Result :=
  waitWord s fun sid =>
    let cap := (s.strand sid).rc c.toNat
    let x := cap.bits
    match s.capCheck sid cap 0 (capLen x) rightW with
    | some code => s.suppress sid code 3 c.toNat 0
    | none => s.freeze sid (.wsseal r.toNat (capTid x) (capObj x) (capBase x) (capLen x) (t == 1))

/-- WSSEAL_ANSWER: 0 OK, 1 BUSY, 2 NOTWS, 3 NOTWHOLE. -/
def execWssealAnswer (sid : Nat) (s : State) : Result :=
  let st := s.strand sid
  match st.wait with
  | .wsseal r tenant obj wbase wlen want =>
    let o := s.obj tenant obj
    let e := o.entry
    let status : Nat :=
      if entHome e ≠ 2 then 2
      else if wbase ≠ 0 ∨ wlen ≠ entLen e then 3
      else if o.loading ≠ 0 ∨ (want ∧ entTp e = 1) then 1
      else 0
    let s := if status = 0 then s.setObj tenant obj { o with entry := entSet e 244 1 (b2n want) } else s
    .next (s.setStrand sid (st.answer [.d r (BitVec.ofNat 64 status) false]))
  | _ => notEnabled "WSSEAL_ANSWER"

/-! ### Observed loads (f18 R363, f06 R157) -/

/-- LDC. -/
def execLdc (r : BitVec 6) (c : BitVec 5) (k : BitVec 6) (g : BitVec 5) (s : State) : Result :=
  waitWord s fun sid =>
    let st := s.strand sid
    let cap := st.rc c.toNat
    let o := (st.rd k.toNat).toNat
    let fail := fun (code creg off : Nat) =>
      (s.setStrand sid (st.push 3 0 (.d r.toNat 0 true))).suppress sid code 3 creg off
    if (capBase cap.bits + o) % 8 ≠ 0 then fail Code.capBound c.toNat o
    else match s.readCheck sid cap o 8 rightR with
      | some code => fail code c.toNat o
      | none =>
        if g = 0 then s.freeze sid (.ldc r.toNat cap o none)
        else
          let gc := st.rc g.toNat
          match s.capCheck sid gc 0 64 rightG with
          | some code => fail code g.toNat 0
          | none =>
            match s.capAddr sid gc 0 with
            | .at_ a => s.freeze sid (.ldc r.toNat cap o (some a))
            | _ => s.freeze sid (.ldc r.toNat cap o none)

/-- LDC_ARRIVAL (f06 R157): the word as it stands at the Hen, which has made every release before this step; on the tenant's turn there
(f02 R35), once nothing holds the access (f04 R103, R106, R111, R114, f07 R196). Another package's Hen is asked for it (f08 R213). -/
def execLdcArrival (sid : Nat) (s : State) : Result :=
  let st := s.strand sid
  match st.wait with
  | .ldc r cap o _ =>
    match s.capAddr sid cap o with
    | .at_ a =>
      if s.farAway a then
        (if s.awaiting (waitKey sid) ∨ s.stopBit (s.owner sid) a then notEnabled "LDC_ARRIVAL"
         else .next (s.sendFar (waitKey sid) sid a (.read a 8)))
      else if s.byteReady sid cap o ∧ s.turnAt (s.owner sid) a then
        let v := BitVec.ofNat 64 (natOf (s.mem.readN a 8))
        let s := s.setStrand sid (st.answer [.d r v true])
        .next (s.meterBytes (ttOf sid) ((List.range 8).map (a + ·)) false)
      else notEnabled "LDC_ARRIVAL"
    | _ => notEnabled "LDC_ARRIVAL"
  | _ => notEnabled "LDC_ARRIVAL"

/-! ### Work queues (f03 R84, R85, f20 R428, R429) -/

/-- Records of a work queue that count on this gcy: appended on an earlier one. -/
def State.wqReady (s : State) (tt q : Nat) : List Slot :=
  ((SMap.get [] (s.tt tt).wq q).filter fun r => decide (r.1 < s.gclk.toNat)).map (·.2)

/-- WQPOP: the oldest record not taken on this gcy by an earlier strand. -/
def execWqpop (d a : BitVec 6) (q : BitVec 2) (s : State) : Result :=
  strandOnly s fun sid =>
    let t := s.ttOfStrand sid
    let n := SMap.get 0 t.wqTaken q.toNat
    match (s.wqReady (ttOf sid) q.toNat).drop n with
    | [] => s.modStrand sid fun st => st.push 0 0 (.d a.toNat 0 false)
    | rec :: _ =>
      let s := s.setTt (ttOf sid) { t with wqTaken := SMap.set 0 t.wqTaken q.toNat (n + 1) }
      s.modStrand sid fun st =>
        let st := (List.range 8).foldl (fun st i =>
          st.push 0 0 (.d (d.toNat + i) (BitVec.ofNat 64 (rec.toNat / 2 ^ (64 * i))) false)) st
        st.push 0 0 (.d a.toNat 1 false)

/-- WQWAIT. -/
def execWqwait (q : BitVec 2) (s : State) : Result :=
  strandOnly s fun sid =>
    if s.noWait sid then s.slotIllegal sid 0
    else if (s.wqReady (ttOf sid) q.toNat).isEmpty then s.freeze sid (.wq q.toNat)
    else s

/-- WQWAIT_COMPLETE. -/
def execWqwaitComplete (sid : Nat) (s : State) : Result :=
  let st := s.strand sid
  match st.wait with
  | .wq q =>
    if (s.wqReady (ttOf sid) q).isEmpty then notEnabled "WQWAIT_COMPLETE" else .next (s.setStrand sid (st.answer []))
  | _ => notEnabled "WQWAIT_COMPLETE"

/-! ### Firmware services (f10 R266, f19 R401) -/

/-- SVC n: D60..D63 are read and the strand freezes. -/
def svcCall (s : State) (n : Nat) : Result :=
  strandOnly s fun sid =>
    if s.noWait sid then s.slotIllegal sid 0
    else let st := s.strand sid; s.freeze sid (.svc n (st.rd 61) (st.rd 62) (st.taints [60, 61, 62, 63]))

def execSvcNull (s : State) : Result := svcCall s 0
def execSvcHostev (s : State) : Result := svcCall s 1
def execSvcSnapshot (s : State) : Result := svcCall s 2
def execSvcLinkgen (s : State) : Result := svcCall s 3

/-- The answer of a service: status and result, untainted (f10 R266). -/
def svcAnswer (status : Nat) (d61 : BitVec 64) : List Eff := [.d 60 (BitVec.ofNat 64 status) false, .d 61 d61 false]

/-- SVC_COMPLETE: the answer; a SNAPSHOT's block is first asked for where it is not there (f04 R103, R111). LINKGEN's D62, of which R266 does
not speak, has the taint of the registers read at issue (f06 R158). -/
def execSvcComplete (sid : Nat) (s : State) : Result :=
  let st := s.strand sid
  let done := fun (s : State) (effs : List Eff) => Host.Outcome.next (s.modStrand sid fun st => st.answer effs)
  match st.wait with
  | .svc 0 _ _ _ => done s (svcAnswer 0 0)
  | .svc 1 amount ev _ =>
    if amount = 0 ∨ 2 ^ 31 < amount.toNat then done s (svcAnswer 2 0)
    else done (s.hostEvent (s.launchFn (ttOf sid)) (bits ev 5 0) amount.toNat) (svcAnswer 0 0)
  | .svc 2 off _ _ =>
    let o := off.toNat
    let c := st.rc 1
    if o % 64 ≠ 0 ∨ (s.writeCheck sid c o 480 (rightR + rightW)).isSome then done s (svcAnswer 2 0)
    else if (List.range 480).all fun i => s.byteReady sid c (o + i) then
      let (seq, bytes, s) := s.snapshot (s.owner sid)
      let l := ((s.capBytes sid c o 480).zip bytes).filterMap fun y => y.1.map fun a => (a, y.2)
      let s := (s.untimedWrite (s.owner sid) l).meterBytes (ttOf sid) (l.map (·.1)) true
      done s (svcAnswer 0 (BitVec.ofNat 64 seq))
    else .next ((List.range 480).foldl (fun s i => s.askByte sid c (o + i)) s)
  | .svc 3 _ _ x =>
    let mgen := match (s.ttOfStrand sid).group with
      | some g => g.mgen
      | none => 0
    done s (svcAnswer 0 (BitVec.ofNat 64 s.lgen) ++ [.d 62 (BitVec.ofNat 64 mgen) x])
  | .svc _ _ _ _ => done s (svcAnswer 1 0)
  | _ => notEnabled "SVC_COMPLETE"

end Sys2Proof.Machine
end

