-- ==== Sys2Proof/Machine/Ox.lean ====
section
/-! DEFINITION. Ox commands: the parameter block, timed lines, and asynchronous jobs from issue to finish (f07 R171..R195, f19
R379..R383, f14 R327). -/
namespace Sys2Proof.Machine

/-! ### The parameter block (f07 R173, R174) -/

abbrev PBlk := List (BitVec 64)
def PBlk.w (b : PBlk) (i : Nat) : BitVec 64 := b.getD i 0
def PBlk.doff (b : PBlk) : Nat := (b.w 0).toNat
def PBlk.soff (b : PBlk) : Nat := (b.w 1).toNat
/-- Count of dimension i. -/
def PBlk.n (b : PBlk) (i : Nat) : Nat := bits (b.w 2) (16 * i + 15) (16 * i)
def strideInt (v : Nat) : Int := (BitVec.ofNat 32 v).toInt
/-- Strides of dimensions 1..3. -/
def PBlk.dst (b : PBlk) : List Int := [strideInt (bits (b.w 3) 31 0), strideInt (bits (b.w 3) 63 32), strideInt (bits (b.w 5) 31 0)]
def PBlk.sst (b : PBlk) : List Int := [strideInt (bits (b.w 4) 31 0), strideInt (bits (b.w 4) 63 32), strideInt (bits (b.w 5) 63 32)]
def PBlk.arg (b : PBlk) : Nat := (b.w 7).toNat
def PBlk.ctl (b : PBlk) (hi lo : Nat) : Nat := bits (b.w 6) hi lo
def PBlk.esz (b : PBlk) : Nat := 2 ^ b.ctl 37 35
def PBlk.rpen (b : PBlk) : Bool := (b.w 6).getLsbD 20
def PBlk.syen (b : PBlk) : Bool := (b.w 6).getLsbD 19
def PBlk.qben (b : PBlk) : Bool := (b.w 6).getLsbD 18
def PBlk.sen (b : PBlk) : Bool := (b.w 6).getLsbD 17
def PBlk.wen (b : PBlk) : Bool := (b.w 6).getLsbD 16
def PBlk.rpred (b : PBlk) : Nat := b.ctl 34 28
def PBlk.qbh (b : PBlk) : Nat := b.ctl 27 24
def PBlk.ssem (b : PBlk) : Nat := b.ctl 15 8
def PBlk.wsem (b : PBlk) : Nat := b.ctl 7 0
def PBlk.syoff (b : PBlk) : Nat := b.ctl 63 46 * 32
/-- Bytes of a row: w of f07 R186 and R192. -/
def PBlk.row (b : PBlk) : Nat := b.n 0 * b.esz
/-- Bytes of the whole traversal. -/
def PBlk.total (b : PBlk) : Nat := b.row * b.n 1 * b.n 2 * b.n 3
/-- Words of OXCAS: n of f07 R190. -/
def PBlk.casN (b : PBlk) : Nat := b.arg % 4 + 1

/-- Window offsets of a traversal, byte by byte in stream order (f07 R176). -/
def PBlk.stream (b : PBlk) (off : Nat) (st : List Int) : List Int :=
  (List.range (b.n 3)).flatMap fun k3 : Nat => (List.range (b.n 2)).flatMap fun k2 : Nat =>
    (List.range (b.n 1)).flatMap fun k1 : Nat =>
    (List.range b.row).map fun i : Nat =>
      (off : Int) + (i : Int) + k1 * st.getD 0 0 + k2 * st.getD 1 0 + k3 * st.getD 2 0

/-- Lowest offset of a traversal, and the bytes from it to the highest. -/
def PBlk.extent (b : PBlk) (off : Nat) (st : List Int) : Int × Nat :=
  let steps := (List.range 3).map fun i => ((b.n (i + 1) : Int) - 1) * st.getD i 0
  let lo := steps.foldl (fun a x => a + Min.min x 0) (off : Int)
  let hi := steps.foldl (fun a x => a + Max.max x 0) (off : Int)
  (lo, (hi - lo).toNat + b.row)

/-- Where the rows of a traversal begin. -/
def PBlk.rows (b : PBlk) (off : Nat) (st : List Int) : List Int :=
  (List.range (b.n 3)).flatMap fun k3 : Nat => (List.range (b.n 2)).flatMap fun k2 : Nat =>
    (List.range (b.n 1)).map fun k1 : Nat => (off : Int) + k1 * st.getD 0 0 + k2 * st.getD 1 0 + k3 * st.getD 2 0

/-- Dense on a side (f07 R176). -/
def PBlk.dense (b : PBlk) (st : List Int) : Bool :=
  (List.range 3).all fun i =>
    let size := b.row * (List.range i).foldl (fun a k => a * b.n (k + 1)) 1
    decide (b.n (i + 1) ≤ 1) || st.getD i 0 == (size : Int)

/-! ### What the members are -/

def opCopy : Nat := 0x40
def opGath : Nat := 0x41
def opScat : Nat := 0x42
def opFill : Nat := 0x43
def opAcc : Nat := 0x44
def opCas : Nat := 0x45
def opEnq : Nat := 0x46
def opChase : Nat := 0x47
def opHen : Nat := 0x48
def opPage : Nat := 0x49

/-- Commands whose destination or node bytes a Hen serves request by request. -/
def henOp (op : Nat) : Bool := op == opAcc || op == opCas || op == opEnq || op == opChase || op == opHen

/-- An entry of the routine directory (f07 R436): its rights, flags, length in words and code offset. -/
structure Routine where
  cdr  : Nat
  cs   : Bool
  float : Bool
  words : Nat
  code : Nat

def dirNat (d : List Byte) (at_ n : Nat) : Nat := natOf ((d.drop at_).take n)

/-- The entry of a routine number; none where the catalogue has none. -/
def State.routine (s : State) (num : Nat) : Option Routine :=
  let d := s.routines
  if num = 0 then none
  else ((List.range (dirNat d 0 4)).find? fun i => dirNat d (16 + 32 * i) 2 == num).map fun i =>
    let a := 16 + 32 * i
    let flags := dirNat d (a + 3) 1
    ⟨dirNat d (a + 2) 1, flags % 2 == 1, flags / 2 % 2 == 1, dirNat d (a + 4) 4, dirNat d (a + 8) 8⟩

/-- The HOME of a capability that names a memory; none where it names no object. -/
def State.homeOpt (s : State) (c : Cap) : Option Nat :=
  if c.win then some 0 else if entKind (s.entryOf c) = 0 then none else some (entHome (s.entryOf c))

/-- A Hen serves this destination: HOME deep store or DRAM. Where the capability names no object, the check of the
capability decides (DEDUCED, log entry 27). -/
def State.henServed (s : State) (c : Cap) : Bool :=
  match s.homeOpt c with
  | some h => h == 1 || h == 3
  | none => true

/-- Whether an object offset pair lies at different ports (f07 R191); undecided where a byte is not resident. -/
def State.portsDiffer (s : State) (sid : Nat) (c : Cap) (a b : Nat) : Bool :=
  match s.capAddr sid c a, s.capAddr sid c b with
  | .at_ x, .at_ y => decide (addrPkg x ≠ addrPkg y) || decide (henOf x ≠ henOf y)
  | _, _ => false

/-- The checks of f07 R175. -/
def State.blockCheck (s : State) (sid op : Nat) (timed : Bool) (b : PBlk) : Option Nat :=
  let counts := op ≠ opCas ∧ op ≠ opEnq
  if b.ctl 45 38 ≠ 0 ∨ b.ctl 23 21 ≠ 0 ∨ (counts ∧ (b.total = 0 ∨ 2 ^ 36 < b.total)) ∨ (b.rpen ∧ b.rpred = 0) ∨
      (timed ∧ (b.wen ∨ b.sen ∨ b.qben)) then some Code.pbFmt
  else if (b.wen ∧ (s.semKey sid b.wsem).isNone) ∨ (b.sen ∧ (s.semKey sid b.ssem).isNone) then some Code.semRange
  else none

/-- The ARG, count and HOME rules of the command's row (f19 R380, f07 R185..R195, R436); `ks` is the register of cs. -/
def State.rowCheck (s : State) (op : Nat) (b : PBlk) (cd cs : Cap) (ks : Nat) : Option Nat :=
  let pb := fun (c : Bool) => if c then some Code.pbFmt else none
  let hen := fun (c : Cap) => if s.henServed c then none else some Code.oxDest
  let noCounts := (b.w 2 ||| b.w 3 ||| b.w 4 ||| b.w 5) == 0
  let flat := b.n 2 == 1 && b.n 3 == 1
  if op = opCopy then pb (b.arg != 0)
  else if op = opGath ∨ op = opScat then pb (b.arg / 2 ^ 23 != 0 || b.arg % 4 != 0 || !flat)
  else if op = opAcc then
    match pb (b.arg / 4 != 0 || b.arg == 3 || b.esz != (if b.arg = 0 then 2 else 4)) with
    | some c => some c
    | none => hen cd
  else if op = opCas then
    match pb (b.arg / 4 != 0 || !noCounts || b.doff % 8 != 0 || decide (32 < b.doff % 32 + 8 * b.casN)) with
    | some c => some c
    | none => hen cd
  else if op = opEnq then
    match pb (!noCounts || b.arg % 8 != 0 || b.doff % 32 != 0) with
    | some c => some c
    | none => hen cd
  else if op = opChase then
    match pb (b.arg / 2 ^ 16 != 0 || b.arg % 8 != 0 || !flat) with
    | some c => some c
    | none => hen cs
  else if op = opHen then
    match s.routine (b.arg % 2 ^ 16) with
    | some r => match pb (r.cs != (ks != 0)) with
      | some c => some c
      | none => hen cd
    | none => hen cd
  else if op = opPage then pb (b.arg != 0 || b.syen || b.qben)
  else none

/-- One side to check: the capability with its register, lowest offset, bytes, rights, whether it is written, and the runs of bytes
written. -/
structure Side where
  cap   : Cap
  creg  : Nat
  lo    : Int
  len   : Nat
  need  : Nat
  write : Bool
  runs  : List (Nat × Nat)

/-- The sides a row checks at issue, in its order (f19 R380). -/
def State.sides (s : State) (op : Nat) (timed : Bool) (b : PBlk) (cd cs c1 : Cap) (kd ks : Nat) : List Side :=
  let t := if timed then rightT else 0
  let rwa := rightR + rightW + rightA
  let dtrav := b.extent b.doff b.dst
  let strav := b.extent b.soff b.sst
  let d := fun (lo : Int) (n need : Nat) => Side.mk cd kd lo n (need + t) true [(lo.toNat, n)]
  let dt := fun (need : Nat) =>
    Side.mk cd kd dtrav.1 dtrav.2 (need + t) true ((b.rows b.doff b.dst).map fun o => (o.toNat, b.row))
  let r := fun (lo : Int) (n need : Nat) => Side.mk cs ks lo n (need + t) false []
  let list := Side.mk c1 1 b.arg (4 * b.n 1) (rightR + t) false []
  if op = opCopy then [dt rightW, r strav.1 strav.2 rightR]
  else if op = opGath then [d b.doff (b.n 1 * b.row) rightW, r 0 0 rightR, list]
  else if op = opScat then [d 0 0 rightW, r b.soff (b.n 1 * b.row) rightR, list]
  else if op = opFill then [dt rightW]
  else if op = opAcc then [dt rwa, r strav.1 strav.2 rightR]
  else if op = opCas then
    [d b.doff (8 * b.casN) rwa, Side.mk cs ks b.soff (24 * b.casN + 8) (rightR + rightW) true [(b.soff + 16 * b.casN, 8 * b.casN + 8)]]
  else if op = opEnq then [d b.doff 32 rwa, d b.arg 8 rwa]
  else if op = opChase then [d b.doff (64 + b.n 1 * b.row) rightW, r 0 0 rightR]
  else if op = opHen then
    match s.routine (b.arg % 2 ^ 16) with
    | some rt => dt rt.cdr :: (if rt.cs then [r strav.1 strav.2 rightR] else [])
    | none => []
  else [Side.mk cd kd b.doff b.total rightR false []]

/-- The issuing unit's checks of one side; a lowest offset below 0 fails check 4 (f07 R176). -/
def State.sideIssue (s : State) (sid : Nat) (x : Side) : Option Nat :=
  s.capIssue sid x.cap x.lo.toNat (if x.lo < 0 then 2 ^ 64 else x.len) x.need

/-- The first of some runs of bytes that touches a live gate word (f06 R161). -/
def State.gateRun (s : State) (sid : Nat) (c : Cap) (runs : List (Nat × Nat)) : Option (Nat × Nat) :=
  if s.gates.any fun g => g.2.live then
    runs.find? fun x => x.2 ≠ 0 && (List.range ((x.2 + 63) / 64 + 1)).any fun i =>
      match s.capAddr sid c (x.1 + Nat.min (64 * i) (x.2 - 1)) with
      | .at_ a => s.inGate a
      | _ => false
  else none

/-- The port's checks of one side: LEN and the address, the weight store's state, live gate words (f19 R379, f04 R113, f06
R161). A side whose rows depend on data has only its object's state to be checked, where the job is timed (f07 R177). -/
def State.sidePort (s : State) (sid : Nat) (x : Side) : Option Nat :=
  if x.len = 0 then
    (if hasRights x.need rightT ∧ s.badState x.cap x.write then some Code.capState else none)
  else match s.capPort sid x.cap x.lo.toNat x.len with
    | some c => some c
    | none =>
      if s.badState x.cap x.write then some Code.capState
      else if (s.gateRun sid x.cap x.runs).isSome then some Code.gateWr
      else none

/-- The sync word of a job (f07 R199): the capability, its register and the offset. -/
def State.syncSpec (s : State) (b : PBlk) (cd c1 : Cap) (kd : Nat) : Cap × Nat × Nat :=
  if s.homeOpt cd = some 0 then (cd, kd, b.syoff) else (c1, 1, b.syoff)

/-- Byte sets that overlap in one object (f07 R181). -/
def overlaps (cd cs : Cap) (dst src : List Int) : Bool :=
  let same := cd.win == cs.win && (cd.win || (capObj cd.bits == capObj cs.bits && capTid cd.bits == capTid cs.bits))
  let a := dst.map (· + (capBase cd.bits : Int))
  let b := src.map (· + (capBase cs.bits : Int))
  same && a.any b.contains

/-! ### The stream of a command -/

/-- A stream byte: destination and source offsets in their windows (none: the byte is dropped; none: `c` is written). -/
structure SByte where
  dst : Option Nat
  src : Option Nat
  c   : Byte
  deriving DecidableEq, Repr

/-- Pairs of offsets as stream bytes. -/
def sbytes (dst : List Int) (src : List Int) : List SByte := (dst.zip src).map fun x => ⟨some x.1.toNat, some x.2.toNat, 0⟩

/-- OXFILL's stream (f07 R187). -/
def fillBytes (dst : List Int) (arg : Nat) : List SByte :=
  dst.zipIdx.map fun x => ⟨some x.1.toNat, none, (bytesOf 8 arg).getD (x.2 % 8) 0⟩

/-- The index list of OXGATH and OXSCAT, as it stands in memory (f07 R186). A timed job reads a byte of it that lies in a non-resident extent
as 0 (DESIGN CHOICE, log entry 158). -/
def State.indexList (s : State) (sid : Nat) (b : PBlk) (c1 : Cap) : List Nat :=
  (List.range (b.n 1)).map fun k =>
    natOf ((s.capBytes sid c1 (b.arg + 4 * k) 4).map fun a => match a with | some a => s.mem.read a | none => 0)

/-- A row at the data-dependent side: its window offset, or none where it fails a check (f19 R380). -/
def State.rowAt (s : State) (sid : Nat) (timed : Bool) (cap : Cap) (off w i : Nat) (write : Bool) : Option Nat :=
  let x := Side.mk cap 0 (off + i * w : Nat) w ((if write then rightW else rightR) + (if timed then rightT else 0)) write []
  if (s.sideIssue sid x).isNone ∧ (s.sidePort sid x).isNone then some (off + i * w) else none

/-- The rows of OXGATH and OXSCAT as the index list names them (f07 R186). -/
def State.rowsOf (s : State) (sid op : Nat) (timed : Bool) (b : PBlk) (cd cs : Cap) (idx : List Nat) : List (Option Nat) :=
  idx.map fun i =>
    if op = opGath then s.rowAt sid timed cs b.soff b.row i false else s.rowAt sid timed cd b.doff b.row i true

/-- The row of an OXSCAT that would write a live gate word: the job is suppressed (f06 R161). -/
def State.gateRow (s : State) (sid op : Nat) (b : PBlk) (cd : Cap) (rows : List (Option Nat)) : Option (Nat × Nat) :=
  if op = opScat then s.gateRun sid cd (rows.filterMap fun r => r.map fun o => (o, b.row)) else none

/-- The stream of OXGATH, where a bad row is zeros (f04 R115), and of OXSCAT, where it is dropped. -/
def rowBytes (op : Nat) (b : PBlk) (rows : List (Option Nat)) : List SByte :=
  rows.zipIdx.flatMap fun x => (List.range b.row).map fun i =>
    if op = opGath then ⟨some (b.doff + x.2 * b.row + i), x.1.map (· + i), 0⟩
    else ⟨x.1.map (· + i), some (b.soff + x.2 * b.row + i), 0⟩

/-- The offset of the first bad row. -/
def badRow (off w : Nat) (idx : List Nat) (rows : List (Option Nat)) : Option Nat :=
  ((idx.zip rows).find? fun x => x.2.isNone).map fun x => off + x.1 * w

/-- The stream of OXCOPY, OXFILL, OXGATH, OXSCAT, OXACC and OXHEN. -/
def State.streamOf (s : State) (sid op : Nat) (timed : Bool) (b : PBlk) (cd cs c1 : Cap) : List SByte :=
  let d := b.stream b.doff b.dst
  if op = opFill then fillBytes d b.arg
  else if op = opGath ∨ op = opScat then rowBytes op b (s.rowsOf sid op timed b cd cs (s.indexList sid b c1))
  else if op = opHen ∧ ¬ ((s.routine (b.arg % 2 ^ 16)).any fun r => r.cs) then d.map fun x => ⟨some x.toNat, none, 0⟩
  else sbytes d (b.stream b.soff b.sst)

/-- R181 for a stream: none where nothing overlaps, else whether the job may run. It holds of every job with a source, also where the row of
f19 R380 does not name it (DEDUCED, log entry 157). -/
def overlapVerdict (op : Nat) (b : PBlk) (cd cs : Cap) (str : List SByte) : Option Bool :=
  if op = opCopy ∨ op = opGath ∨ op = opScat ∨ op = opAcc ∨ op = opHen then
    let dst := str.filterMap fun x => x.dst.map fun n => (n : Int)
    let src := str.filterMap fun x => x.src.map fun n => (n : Int)
    if overlaps cd cs dst src then some (op != opGath && op != opScat && b.dense b.dst && b.dense b.sst) else none
  else none

/-- The stream with every source byte as memory holds it now. -/
def State.frozen (s : State) (sid : Nat) (cs : Cap) (str : List SByte) : List SByte :=
  str.map fun x => match x.src with
    | some o => match s.capAddr sid cs o with
      | .at_ a => { x with src := none, c := s.mem.read a }
      | _ => x
    | none => x

/-! ### Timed mode (f07 R177, R178, f14 R327) -/

/-- L and B by source and destination level (f07 R177); none for OXFILL. -/
def oxRow (src : Option Nat) (dst : Nat) : Nat × Nat :=
  let base := fun (s d : Nat) => match s, d with
    | 0, 0 => (12, 256)
    | 1, 0 | 0, 1 => (44, 256)
    | 2, 0 | 2, 1 => (64, 256)
    | 3, 0 | 0, 3 => (164, 128)
    | 1, 3 | 3, 1 => (204, 128)
    | 3, 3 => (324, 128)
    | 1, 1 => (84, 256)
    | _, _ => (224, 128)
  match src with
  | some h => base h dst
  | none => let (l, b) := base 0 dst; (4 + l, b)

/-- The latency and rate of a timed job. A source on another die and a destination at home have no row: the latency is a
free value there (DESIGN CHOICE, log entry 28). -/
def State.oxTiming (s : State) (sid op : Nat) (cd cs : Cap) (str : List SByte) : Nat × Nat :=
  let first := fun (c : Cap) (f : SByte → Option Nat) => (str.findSome? f).bind fun o => match s.capAddr sid c o with
    | .at_ a => some a
    | _ => none
  let t := s.ttOfStrand sid
  let src := if op = opFill then none else some (s.homeOfCap cs)
  let row := oxRow src (s.homeOfCap cd)
  match first cd (·.dst), first cs (·.src) with
  | some a, other =>
    if s.isRemote sid a then (16 + t.hops (addrPkg a) (addrDie a), 32)
    else match other with
      | some x => if s.isRemote sid x ∧ op ≠ opFill then (Config.oxRemoteSource (t.hops (addrPkg x) (addrDie x)), row.2) else row
      | none => row
  | none, _ => row

/-- The engine of a strand's cluster. -/
def State.engine (s : State) (sid q : Nat) : Nat :=
  let p := s.placeOfStrand sid
  (p.die * 12 + p.clu) * 4 + q

/-- An earlier timed job of the timetable occupies the engine (f07 R178). -/
def State.engineBusy (s : State) (sid q : Nat) : Bool :=
  (s.ttOfStrand sid).oxbusy.any fun x => x.1 == s.engine sid q && decide ((s.strand x.2.1).vclk < x.2.2)

/-- Line i of a stream as a pending write: it samples at issue + 128 i / B and lands L vcy later. -/
def State.oxLine (s : State) (sid : Nat) (cd cs : Cap) (rpred sync : Option Nat) (l b i : Nat) (line : List SByte)
    (seq : Nat) : Pend :=
  let v := (s.strand sid).vclk
  let addr := fun (c : Cap) (o : Nat) => match s.capAddr sid c o with
    | .at_ a => some a
    | _ => none
  let kept := line.filter fun x => x.dst.isSome
  let dst := kept.map fun x => x.dst.bind (addr cd)
  let src := kept.map fun x => x.src.bind (addr cs)
  let fixed := kept.map fun x => if x.src.isSome then none else some x.c
  ⟨v + l + 128 * i / b, some (v + 128 * i / b), 3, seq, .ox dst src none fixed sync rpred i⟩

/-- Chunks of 128 bytes, numbered. -/
def linesOf : (n : Nat) → List SByte → List (List SByte)
  | 0, _ => []
  | n + 1, l => l.take 128 :: linesOf n (l.drop 128)
def streamLines (str : List SByte) : List (List SByte) := linesOf ((str.length + 127) / 128) str

/-- A timed job takes its seat: all its lines are pending, and the engine is occupied for n / B vcy. -/
def State.oxSeat (s : State) (sid op q : Nat) (b : PBlk) (cd cs : Cap) (kd : Nat) (c1 : Cap) (str : List SByte) : State :=
  let (l, rate) := s.oxTiming sid op cd cs str
  let (sc, _, so) := s.syncSpec b cd c1 kd
  let sync := if b.syen then (match s.capAddr sid sc so with | .at_ a => some a | _ => none) else none
  let rpred := if b.rpen then some b.rpred else none
  let st := s.strand sid
  let lines := (streamLines str).zipIdx.map fun x => s.oxLine sid cd cs rpred sync l rate x.2 x.1 (st.seq + x.2)
  let s := s.setStrand sid { st with pend := st.pend ++ lines, seq := st.seq + lines.length }
  s.modTt (ttOf sid) fun t =>
    let own := t.oxbusy.filter fun x => x.1 != s.engine sid q
    { t with oxbusy := own ++ [(s.engine sid q, sid, st.vclk + (str.length + rate - 1) / rate)] }

/-! ### Issue (f19 R379) -/

/-- The job status of a suppressing code (f19 R379, f07 R184; the codes of ports DEDUCED, log entry 29). -/
def statusOf (code : Nat) : Nat :=
  if code = Code.oxOvl then 0x02
  else if code = Code.pbFmt ∨ code = Code.semRange then 0x03
  else if code = Code.oxDest then 0x0B
  else if code = Code.qbState then 0x0C
  else 0x01

/-- A command is suppressed; an asynchronous one with SEN and a valid SSEM signals the error. -/
def State.oxSuppress (s : State) (sid : Nat) (timed : Bool) (b : PBlk) (code creg off : Nat) : State :=
  let s := s.suppress sid code 3 creg off
  if timed = false ∧ b.sen then s.signal sid b.ssem 1 (some (statusOf code)) (s.strand sid).bundle else s

/-- An asynchronous command is appended to its queue, or refused when the queue holds 64 jobs (f07 R171). -/
def State.oxEnqueue (s : State) (sid op q : Nat) (word : BitVec 32) (ord : Bool) (b : PBlk) (cd cs c1 : Cap) (kd ks : Nat)
    (taint : Bool) : State :=
  let st := s.strand sid
  let jobs := (st.queue q).countP fun e => match e with | .job _ => true | _ => false
  if 64 ≤ jobs then (if b.sen then s.signal sid b.ssem 1 (some 0x04) st.bundle else s)
  else
    let j : Job := { Job.none with
      id := s.nextJob, sid := sid, q := q, word := word, op := op, ord := ord, blk := b, cd := cd, cs := cs, c1 := c1, kd := kd, ks := ks, taint := taint,
      order := st.order, bundle := st.bundle, st := .queued, node := b.soff, again := st.performed.contains st.order }
    let s := { s with nextJob := s.nextJob + 1 }
    let s := s.setJob j.id j
    s.modStrand sid fun st => { (st.setQueue q (st.queue q ++ [.job j])) with order := st.order + 1 }

/-- The word of a member of the Ox mould (f12 R311, f19 R379). -/
def oxWord (op : Nat) (d cs : BitVec 5) (p : BitVec 6) (q : BitVec 2) (timed ord : Bool) : BitVec 32 :=
  1#1 ++ BitVec.ofNat 7 op ++ d ++ cs ++ p ++ 0#4 ++ BitVec.ofBool ord ++ q ++ BitVec.ofBool timed

/-- Commands whose ARG is a window offset (f07 R173). -/
def argOffset (op : Nat) : Bool := op == opGath || op == opScat || op == opEnq || op == opChase

/-- A timed job in an M-step would read the weight store in a refresh window, which is a local wait and illegal there (f03 R66, f18 R338). -/
def State.oxWaitsInM (s : State) (sid op : Nat) (cd cs : Cap) (str : List SByte) : Bool :=
  let rate := (s.oxTiming sid op cd cs str).2
  (streamLines str).zipIdx.any fun x => s.refreshInM sid (128 * x.2 / rate) (x.1.map fun y => y.src.bind fun o => match s.capAddr sid cs o with
    | .at_ a => some a
    | _ => none)

/-- Every member of the Ox mould at issue. -/
def oxCommand (s : State) (op : Nat) (d cs : BitVec 5) (p : BitVec 6) (q : BitVec 2) (timed ord : Bool) : Result :=
  strandOnly s fun sid =>
    let st := s.strand sid
    if p.toNat % 8 ≠ 0 ∨ p = 0 then s.slotIllegal sid 3
    else
      let b : PBlk := (List.range 8).map fun i => st.rd (p.toNat + i)
      let cd := st.rc d.toNat
      let sc := st.rc cs.toNat
      let c1 := st.rc 1
      -- ARG is an address operand where it is an offset (f07 R173)
      let taint := st.taints ([p.toNat, p.toNat + 1] ++ if argOffset op then [p.toNat + 7] else [])
      let here := fun (code : Nat) => s.oxSuppress sid timed b code 0 st.bundle
      match s.blockCheck sid op timed b with
      | some code => here code
      | none =>
      match s.rowCheck op b cd sc cs.toNat with
      | some code => here code
      | none =>
      let bad := (s.sides op timed b cd sc c1 d.toNat cs.toNat).findSome? fun x =>
        match s.sideIssue sid x with
        | some c => some (c, x)
        | none => if timed then (s.sidePort sid x).map fun c => (c, x) else none
      match bad with
      | some (code, x) => s.oxSuppress sid timed b code x.creg (x.lo % (2 ^ 48 : Nat)).toNat
      | none =>
      let (yc, yk, yo) := s.syncSpec b cd c1 d.toNat
      match (if b.syen then s.capIssue sid yc yo 32 rightW else none) with
      | some code => s.oxSuppress sid timed b code yk yo
      | none =>
      if b.qben ∧ (st.qbuf b.qbh).v = false then here Code.qbState
      else if op = opEnq ∧ s.portsDiffer sid cd b.doff b.arg then here Code.oxDest
      else if ¬ timed ∧ (op = opCopy ∨ op = opAcc ∨ op = opHen) then
        match overlapVerdict op b cd sc (s.streamOf sid op timed b cd sc c1) with
        | some false => here Code.oxOvl
        | _ => s.oxEnqueue sid op q.toNat (oxWord op d cs p q timed ord) ord b cd sc c1 d.toNat cs.toNat taint
      else if ¬ timed then s.oxEnqueue sid op q.toNat (oxWord op d cs p q timed ord) ord b cd sc c1 d.toNat cs.toNat taint
      else
        let str := s.streamOf sid op timed b cd sc c1
        match overlapVerdict op b cd sc str with
        | some false => here Code.oxOvl
        | v =>
          let idx := if op = opGath ∨ op = opScat then s.indexList sid b c1 else []
          let rows := s.rowsOf sid op timed b cd sc idx
          if s.engineBusy sid q.toNat then here Code.oxBusy
          else if s.oxWaitsInM sid op cd sc str then here Code.illop
          else match s.gateRow sid op b cd rows with
          | some (o, _) => s.oxSuppress sid timed b Code.gateWr d.toNat (o % 2 ^ 48)
          | none =>
            let str := if v.isSome then s.frozen sid sc str else str
            let (wk, wo) := if op = opGath then (cs.toNat, b.soff) else (d.toNat, b.doff)
            let s := match badRow wo b.row idx rows with
              | some o => s.fault sid Code.capBound 3 wk (o % 2 ^ 48)
              | none => s
            let s := s.meterBytes (ttOf sid) ((s.capBytes sid c1 b.arg (4 * idx.length)).filterMap id) false
            s.oxSeat sid op q.toNat b cd sc d.toNat c1 str

def execOxcopy (d c : BitVec 5) (p : BitVec 6) (q : BitVec 2) (t : BitVec 1) (s : State) : Result :=
  oxCommand s opCopy d c p q (t == 1) false
def execOxgath (d c : BitVec 5) (p : BitVec 6) (q : BitVec 2) (t : BitVec 1) (s : State) : Result :=
  oxCommand s opGath d c p q (t == 1) false
def execOxscat (d c : BitVec 5) (p : BitVec 6) (q : BitVec 2) (t : BitVec 1) (s : State) : Result :=
  oxCommand s opScat d c p q (t == 1) false
def execOxfill (d : BitVec 5) (p : BitVec 6) (q : BitVec 2) (t : BitVec 1) (s : State) : Result :=
  oxCommand s opFill d 0 p q (t == 1) false
def execOxacc (d c : BitVec 5) (p : BitVec 6) (o : BitVec 1) (q : BitVec 2) (s : State) : Result :=
  oxCommand s opAcc d c p q false (o == 1)
def execOxcas (d c : BitVec 5) (p : BitVec 6) (q : BitVec 2) (s : State) : Result := oxCommand s opCas d c p q false false
def execOxenq (d : BitVec 5) (p : BitVec 6) (q : BitVec 2) (s : State) : Result := oxCommand s opEnq d 0 p q false false
def execOxchase (d c : BitVec 5) (p : BitVec 6) (q : BitVec 2) (s : State) : Result :=
  oxCommand s opChase d c p q false false
def execOxhen (d c : BitVec 5) (p : BitVec 6) (o : BitVec 1) (q : BitVec 2) (s : State) : Result :=
  oxCommand s opHen d c p q false (o == 1)
def execOxpage (d : BitVec 5) (p : BitVec 6) (q : BitVec 2) (s : State) : Result := oxCommand s opPage d 0 p q false false

end Sys2Proof.Machine
end

