-- ==== Sys2Proof/Machine/Jobs.lean ====
section
/-! DEFINITION. Asynchronous Ox jobs after issue: starting, the pieces an engine performs on its tenant turns, requests to
Hens and to other packages, and finishing (f06 R150..R153, f07 R180..R193, f08 R213, f19 R379..R383). -/
namespace Sys2Proof.Machine

/-! ### Starting (f07 R180) -/

/-- Neighbouring elements that belong together, in runs. -/
def runs {α : Type} (same : α → α → Bool) : List α → List (List α)
  | [] => []
  | x :: t => match runs same t with
    | (y :: g) :: rest => if same x y then (x :: y :: g) :: rest else [x] :: (y :: g) :: rest
    | r => [x] :: r

/-- The pieces of a move: each in one aligned 32-byte unit of the destination (f06 R150). -/
def movePieces (cd : Cap) (str : List SByte) : List (List (Nat × Option Nat × Byte)) :=
  let moved := str.filterMap fun x => x.dst.map fun d => (d, x.src, x.c)
  runs (fun a b => (capBase cd.bits + a.1) / 32 == (capBase cd.bits + b.1) / 32) moved

/-- The requests to Hens: one for each line of the stream (f07 R188, f19 R382). -/
def linePieces (str : List SByte) : List (List (Nat × Option Nat × Byte)) :=
  let moved := str.zipIdx.filterMap fun x => x.1.dst.map fun d => (x.2, d, x.1.src, x.1.c)
  (runs (fun a b => a.1 / 128 == b.1 / 128) moved).map fun g => g.map (·.2)

/-- Rows that no later row overwrites (f07 R186). -/
def lastRows (rows : List (Option Nat)) : List (Option Nat) :=
  rows.zipIdx.map fun x => if (rows.drop (x.2 + 1)).contains x.1 then none else x.1

/-- A started job that moves nothing: it finishes with the status; the fault, where there is one, in its strand. -/
def State.jobRefused (s : State) (j : Job) (status : Nat) (fault : Option (Nat × Nat × Nat)) : State :=
  let s := s.setJob j.id { j with st := .started, pieces := [], status := status }
  match fault with
  | some (code, creg, off) => s.fault j.sid code 3 creg off
  | none => s

/-- The check every port makes before the job writes: the object's entry (CAPNULL, f04 R98), LEN and the address (f19 R379), the weight
store's state, gate words. -/
def State.jobPorts (s : State) (j : Job) : Option (Nat × Nat × Nat) :=
  let b : PBlk := j.blk
  (s.sides j.op false b j.cd j.cs j.c1 j.kd j.ks).findSome? fun x => (s.sidePort j.sid x).map fun code =>
    (code, x.creg, (x.lo % (2 ^ 48 : Nat)).toNat)

/-- A source byte lies in another package, which is asked for it: of a dense job whose sides overlap every byte is then read before any is
written (f07 R181). -/
def State.readsFar (s : State) (j : Job) (str : List SByte) : Bool :=
  str.any fun x => (x.src.bind (s.addrOf j.sid j.cs)).any s.farAway

/-- A job starts: its ports check it, OXGATH and OXSCAT read their lists and are judged, and its pieces are laid out. -/
def State.startJob (s : State) (j : Job) : State :=
  let b : PBlk := j.blk
  match s.jobPorts j with
  | some f => s.jobRefused j 0x01 (some f)
  | none =>
  if j.op = opHen ∧ (s.routine (b.arg % 2 ^ 16)).isNone then s.jobRefused j 0x09 none
  else if j.op = opEnq ∧ s.portsDiffer j.sid j.cd b.doff b.arg then
    s.jobRefused j 0x0B (some (Code.oxDest, 0, j.bundle))
  else if j.op = opCas ∨ j.op = opEnq ∨ j.op = opChase ∨ j.op = opPage then
    s.setJob j.id { j with st := .started, pieces := [[(b.doff, none, 0)]] }
  else if j.op = opGath ∨ j.op = opScat then
    let idx := s.indexList j.sid b j.c1
    let rows := s.rowsOf j.sid j.op false b j.cd j.cs idx
    let str := rowBytes j.op b (if j.op = opScat then lastRows rows else rows)
    match s.gateRow j.sid j.op b j.cd rows, overlapVerdict j.op b j.cd j.cs (rowBytes j.op b rows) with
    | some (o, _), _ => s.jobRefused j 0x01 (some (Code.gateWr, j.kd, o % 2 ^ 48))
    | none, some _ => s.jobRefused j 0x02 (some (Code.oxOvl, 0, j.bundle))
    | none, none =>
      let s := s.meterMove j.sid ((s.capBytes j.sid j.c1 b.arg (4 * idx.length)).filterMap id) false false
      let status := if rows.any Option.isNone then 0x0A else j.status
      s.setJob j.id { j with st := .started, pieces := movePieces j.cd str, status := status }
  else
    let str := s.streamOf j.sid j.op false b j.cd j.cs j.c1
    let laid := (overlapVerdict j.op b j.cd j.cs str).isSome
    let far := s.readsFar j str
    let str := if laid ∧ ¬ far then s.frozen j.sid j.cs str else str
    s.setJob j.id { j with
      st := .started, whole := laid && far, pieces := if henOp j.op then linePieces str else movePieces j.cd str }

/-- The job at the head of a queue, when it waits to start. -/
def State.waitingJob (s : State) (sid q : Nat) : Option Job :=
  match (s.strand sid).queue q with
  | .job j :: _ => let j := s.job j.id; if j.st = .queued then some j else none
  | _ => none

/-- What a job reads as it starts and cannot read yet (f04 R103, R111): its index list; and, for a dense copy whose sides overlap, the source
bytes, which are those from before the job began (f07 R181). -/
def State.startLacks (s : State) (j : Job) : List (Cap × Nat) :=
  let b : PBlk := j.blk
  let list := if j.op = opGath ∨ j.op = opScat then (List.range (4 * b.n 1)).map fun i => (j.c1, b.arg + i) else []
  let str := if j.op = opCopy ∧ overlaps j.cd j.cs (b.stream b.doff b.dst) (b.stream b.soff b.sst) then
    (b.stream b.soff b.sst).map fun o => (j.cs, o.toNat) else []
  (list ++ str).filter fun x => !s.byteReady j.sid x.1 x.2

/-- OX_JOB_START: the job at the head of its queue takes its WSEM unit and starts. While what it reads first cannot be read it asks
for it, having taken its unit: WEN is cleared in the waiting job. -/
def execOxJobStart (sid q : Nat) (s : State) : Result :=
  match s.waitingJob sid q with
  | none => notEnabled "OX_JOB_START"
  | some j =>
    let b : PBlk := j.blk
    let ready := fun (s : State) =>
      let lacks := s.startLacks j
      if lacks.isEmpty then (let s' := s.startJob j; if j.again then s'.keepMeters s (ttOf sid) else s')
      else lacks.foldl (fun s x => s.askByte sid x.1 x.2)
        (s.setJob j.id { j with blk := b.set 6 (b.w 6 &&& ~~~ BitVec.twoPow 64 16) })
    if b.wen then
      match s.semKey sid b.wsem with
      | none => notEnabled "OX_JOB_START"
      | some k =>
        let t := s.ttOfStrand sid
        let v := t.sem k
        if semCount v = 0 then notEnabled "OX_JOB_START"
        else .next (ready (s.setTt (ttOf sid) (t.setSem k (semWith v (semCount v - 1)))))
    else .next (ready s)

/-! ### Requests to Hens and to other packages -/

/-- The parts of the destination the capability checks covered, as device address ranges (f18 R339). -/
def State.covered (s : State) (j : Job) : List (Nat × Nat) :=
  let b : PBlk := j.blk
  let (lo, n) := b.extent b.doff b.dst
  let base := capBase j.cd.bits + lo.toNat
  let cuts := (List.range ((base + n + 4095) / 4096 - base / 4096)).map fun i => Nat.max base ((base / 4096 + i) * 4096)
  cuts.filterMap fun x =>
    let len := Nat.min ((x / 4096 + 1) * 4096) (base + n) - x
    (s.addrOf j.sid j.cd (x - capBase j.cd.bits)).map fun a => (a, len)

/-- Words of at most 128 bytes. -/
def wordsOf (l : List Byte) : List (BitVec 64) := (List.range 16).map fun i => BitVec.ofNat 64 (natOf ((l.drop (8 * i)).take 8))

/-- A request for one line of a job. -/
def State.henReqOf (s : State) (j : Job) (line len : Nat) (at_ : List Nat) (bytes : List Byte) : HenReq where
  job := j.id
  op := j.op
  tenant := s.owner j.sid
  tt := ttOf j.sid
  strand := strandNo j.sid
  order := j.order
  ord := j.ord
  arg := PBlk.w j.blk 7
  line := line
  len := len
  at_ := at_
  wrote := 0
  lines := 0
  ok := if j.op = opHen then s.covered j else []
  rb := wordsOf bytes
  from_ := none
  remote := none
  routine := PBlk.arg j.blk % 2 ^ 16

/-- A request put into the queue that the Hen of a port keeps for its tenant. -/
def State.toHen (s : State) (port : Nat) (r : HenReq) : State :=
  let k := port * 256 + r.tenant
  let h := s.hen k
  s.setHen k { h with queue := h.queue ++ [r] }

/-- The node of an OXCHASE, or none where the chase ends there; the Bool says it ends with ROWBOUND (f07 R192, f19 R381). -/
def State.chaseNode (s : State) (j : Job) : Option Nat × Bool :=
  let b : PBlk := j.blk
  let span := Nat.max b.row (b.arg + 8)
  if b.n 1 ≤ j.hops ∨ j.node = 2 ^ 64 - 1 then (none, false)
  else if j.node % 8 ≠ 0 ∨ (s.sidePort j.sid (Side.mk j.cs 0 j.node span rightR false [])).isSome ∨
      capLen j.cs.bits < j.node + span then (none, true)
  else (some j.node, false)

/-- Counted bytes arrive at a sync word (f07 R198). -/
def State.syncArrive (s : State) (a m : Nat) : State :=
  let w := s.syncWord a
  let target := syncTarget w
  let count := syncCount w + m
  let n := syncSteps target count
  let multi := w.getLsbD 193 || decide (1 < n) || (n == 1 && s.synced.contains a)
  let word := syncPut target (count - n * target) (syncGen w + BitVec.ofNat 64 n) (w.getLsbD 192) multi
  let s := { s with mem := s.mem.writeN a (bytesOf 32 word.toNat) }
  if n ≠ 0 ∧ ¬ s.synced.contains a then { s with synced := s.synced ++ [a] } else s

/-- Bytes arrive at a sync word of a strand's job, in another package by a request (f07 R193, R199). -/
def State.countAt (s : State) (sid : Nat) (a : Option Nat) (n : Nat) : State :=
  match a with
  | none => s
  | some a =>
    if n = 0 then s
    else if s.farAway a then ({ s with choices := s.choices + 1 }).sendFar (countKey s.choices) sid a (.count a n)
    else s.syncArrive a n

/-- The sync word of a job. -/
def State.jobSync (s : State) (j : Job) : Option Nat :=
  let b : PBlk := j.blk
  let (sc, _, so) := s.syncSpec b j.cd j.c1 0
  if b.syen then s.addrOf j.sid sc so else none

/-- Bytes of a job have performed, and arrive at its sync word (f07 R199, f19 R404). -/
def State.countJob (s : State) (jid n : Nat) : State := s.countAt (s.job jid).sid (s.jobSync (s.job jid)) n

/-- Bytes an engine or a Hen writes for a job, untimed; they count as performed. -/
def State.jobWrite (s : State) (jid : Nat) (l : List (Nat × Byte)) : State :=
  let j := s.job jid
  let s := s.untimedWrite (s.owner j.sid) l
  (s.meterMove j.sid (l.map (·.1)) true false).countJob jid l.length

/-- Bytes at window offsets from `o` up with their addresses. -/
def State.placed (s : State) (sid : Nat) (c : Cap) (o : Nat) (l : List Byte) : List (Nat × Byte) :=
  l.zipIdx.filterMap fun x => (s.addrOf sid c (o + x.2)).map fun a => (a, x.1)

/-- Bytes at window offsets from `o` up, as they stand. -/
def State.readCap (s : State) (sid : Nat) (c : Cap) (o n : Nat) : List Byte :=
  (List.range n).map fun i => match s.addrOf sid c (o + i) with
    | some a => s.mem.read a
    | none => 0

/-- The runs of a window that lie in one extent each: offset, address, bytes. -/
def State.windowRuns (s : State) (sid : Nat) (c : Cap) : List (Nat × Nat × Nat) :=
  let base := capBase c.bits
  let len := capLen c.bits
  let sz := 2 ^ (12 + entXsz (s.entryOf c))
  ((List.range ((base + len + sz - 1) / sz - base / sz)).map fun i => Nat.max base ((base / sz + i) * sz)).filterMap fun x =>
    (s.addrOf sid c (x - base)).map fun a => (x - base, a, Nat.min ((x / sz + 1) * sz) (base + len) - x)

/-- Bytes of a request with the addresses they go to, by the Hen that serves the element they belong to: an element goes whole to the Hen of
its first byte (f07 R188). None while a byte has no address. -/
def State.byHen (s : State) (j : Job) (w : Nat) (bytes : List (Nat × Option Nat × Byte)) : Option (List (List (Nat × Nat × Byte))) :=
  let at_ := bytes.map fun x => s.addrOf j.sid j.cd x.1
  if at_.any Option.isNone then none
  else
    let l := (at_.filterMap id).zip (bytes.map (·.2.2))
    let l := l.zipIdx.map fun x => (henKey ((l.getD (x.2 / w * w) (0, 0)).1), x.1.1, x.1.2)
    some (((l.map (·.1)).eraseDups).map fun k => l.filter fun x => x.1 == k)

/-- One request of OXACC or OXHEN. -/
def State.sendLine (s : State) (jid : Nat) (l : List (Nat × Nat × Byte)) : State :=
  let j := s.job jid
  let b : PBlk := j.blk
  match l with
  | [] => s
  | (_, a, _) :: _ =>
    let at_ := l.map (·.2.1)
    let bytes := l.map (·.2.2)
    let s := s.setJob jid { j with hens := j.hens + 1 }
    if s.farAway a then s.sendFar jid j.sid a
      (if j.op = opHen then .run a (b.arg % 2 ^ 16) (b.w 7) (BitVec.ofNat 64 (strandNo j.sid % 2 ^ 32 + j.order * 2 ^ 32))
          (BitVec.ofNat 64 (ttOf j.sid % 2 ^ 32)) j.ord (s.covered j) bytes
        else if j.ord then .stage at_ (b.arg % 4) (ttOf j.sid) (strandNo j.sid) j.order bytes else .acc at_ (b.arg % 4) bytes)
    else s.toHen (henOf a) (s.henReqOf j a l.length at_ bytes)

/-- The bytes of a request are all there: it goes to the Hen of its destination, a line of OXACC or OXHEN to each Hen that serves part of it
(f07 R188, R190, R191, f19 R382). Where a destination byte is not resident any more it waits for it. -/
def State.sendRequest (s : State) (jid : Nat) (p : PortOp) : State :=
  let j := s.job jid
  let b : PBlk := j.blk
  if j.op = opAcc ∨ j.op = opHen then
    match s.byHen j (if j.op = opAcc then b.esz else 1) p.bytes with
    | none => s.putOp p
    | some ls => ls.foldl (fun s l => s.sendLine jid l) s
  else match s.addrOf j.sid j.cd b.doff with
    | none => s.putOp p
    | some a =>
      let bytes := p.bytes.map (·.2.2)
      let s := s.setJob jid { j with hens := j.hens + 1 }
      if s.farAway a then s.sendFar jid j.sid a
        (if j.op = opCas then .cas a b.casN ((wordsOf bytes).take b.casN) (((wordsOf bytes).drop b.casN).take b.casN)
          else .enq a ((s.addrOf j.sid j.cd b.arg).getD 0) b.arg (capLen j.cd.bits) (s.windowRuns j.sid j.cd))
      else s.toHen (henOf a) (s.henReqOf j a (if j.op = opCas then 8 * b.casN else 32) [] bytes)

/-- What serving a job's pieces does. -/
def jobFx (j : Job) (use : PortUse) : MoverFx where
  read l s := s.meterMove j.sid l false false
  write l s := match use with
    | .back => (s.untimedWrite (s.owner j.sid) (l.map (·.2))).meterMove j.sid (l.map fun x => x.2.1) true false
    | _ => s.jobWrite j.id (l.map (·.2))
  request p s := s.sendRequest j.id p

/-- Bytes of a job go on their way; the host's are read and written at once. -/
def State.postJob (s : State) (jid : Nat) (use : PortUse) (bytes : List (Nat × Option Nat × Byte)) : State :=
  let p := s.placeOfStrand (s.job jid).sid
  let seat := p.die * 24 + p.clu
  s.moveOn ⟨.job jid, s.owner (s.job jid).sid, use, seat, [serverOf 0x08 seat], bytes⟩ (jobFx (s.job jid) use) s.direct s.direct

/-- The same for bytes at consecutive offsets, in units of 32. -/
def State.postRun (s : State) (jid : Nat) (use : PortUse) (c : Cap) (off : Nat) (bytes : List Byte) : State :=
  (runs (fun a b => (capBase c.bits + a.1) / 32 == (capBase c.bits + b.1) / 32)
    (bytes.zipIdx.map fun x => (off + x.2, (none : Option Nat), x.1))).foldl (fun s p => s.postJob jid use p) s

/-- The chase goes on to its next node's Hen, or ends: the count is written at DOFF (f07 R192, f19 R381). -/
def State.chaseOn (s : State) (jid : Nat) : State :=
  let j := s.job jid
  let b : PBlk := j.blk
  match s.chaseNode j with
  | (some p, _) =>
    match s.addrOf j.sid j.cs p with
    | some a =>
      let s := s.setJob jid { j with pieces := [], hens := 1 }
      if s.farAway a then s.sendFar jid j.sid a (.read a (Nat.max b.row (b.arg + 8)))
      else s.toHen (henOf a) (s.henReqOf j a b.row [] [])
    | none => s.askByte j.sid j.cs p
  | (none, bad) =>
    let s := s.setJob jid { j with pieces := [], hens := 0, status := if bad then 0x0A else j.status }
    s.postRun jid .dest j.cd b.doff (bytesOf 8 j.hops ++ List.replicate 56 0)

/-- A node has been read: its payload goes out, and once that has performed the engine follows the link. -/
def State.chaseGot (s : State) (jid : Nat) (node : List Byte) : State :=
  let j := s.job jid
  let b : PBlk := j.blk
  let s := s.setJob jid { j with
    hops := j.hops + 1, node := natOf ((node.drop b.arg).take 8), hens := 0, pieces := [[(b.doff, none, 0)]] }
  s.postRun jid .dest j.cd (b.doff + 64 + j.hops * b.row) (node.take b.row)

/-! ### A tenant's turn at an engine (f02 R35, f06 R150) -/

/-- Everything a piece touches. -/
def pieceBytes (j : Job) (p : List (Nat × Option Nat × Byte)) : List (Cap × Nat) :=
  let b : PBlk := j.blk
  if j.op = opCas then
    (List.range (8 * b.casN)).map (fun i => (j.cd, b.doff + i)) ++
      (List.range (24 * b.casN + 8)).map fun i => (j.cs, b.soff + i)
  else if j.op = opEnq then
    (List.range 32).map (fun i => (j.cd, b.doff + i)) ++ (List.range 8).map fun i => (j.cd, b.arg + i)
  else if j.op = opChase then (List.range 64).map fun i => (j.cd, b.doff + i)
  else if j.op = opPage then []
  else p.flatMap fun x => (j.cd, x.1) :: (match x.2.1 with | some o => [(j.cs, o)] | none => [])

/-- A byte is resident, and its host page translated. -/
def State.byteHere (s : State) (sid : Nat) (c : Cap) (o : Nat) : Bool :=
  match s.capAddr sid c o with
  | .at_ a => s.pageOk (s.launchFn (ttOf sid)) a && !s.stopBit (s.owner sid) a
  | .absent => false
  | .bad => true

def State.pieceReady (s : State) (j : Job) (p : List (Nat × Option Nat × Byte)) : Bool :=
  (pieceBytes j p).all fun x => s.byteHere j.sid x.1 x.2

/-- Host pages a job has still to wait for: before every page it touches is translated it moves no byte (f04 R103). -/
def State.jobPages (s : State) (j : Job) : List Nat :=
  if s.homeOpt j.cd = some 4 ∨ s.homeOpt j.cs = some 4 then
    (s.pagesOf j.sid (j.pieces.flatMap (pieceBytes j))).eraseDups
  else []

/-- A run of consecutive addresses at the front of a list. -/
def runLen : Nat → List Nat → Nat
  | _, [] => 0
  | a, x :: t => if x = a then 1 + runLen (a + 1) t else 0

/-- The pages of an OXPAGE: the Mule is asked for what is absent (f07 R195, f19 R383). -/
def State.pageRequest (s : State) (j : Job) : State :=
  let b : PBlk := j.blk
  let sz := 2 ^ (12 + entXsz (s.entryOf j.cd))
  let first := (capBase j.cd.bits + b.doff) / sz
  let n := (capBase j.cd.bits + b.doff + b.total - 1) / sz + 1 - first
  let absent := (List.range n).filter fun i =>
    extentBase s (capTid j.cd.bits) (s.entryOf j.cd) (first + i) == some absentBase && s.homeOpt j.cd != some 4
  if absent.isEmpty ∨ j.cd.win then s.setJob j.id { j with pieces := [] }
  else absent.foldl (fun s i => s.want (capTid j.cd.bits, capObj j.cd.bits, first + i)) s

/-- The engine takes a piece of a job: a move or a request goes to its ports, OXCHASE goes on, OXPAGE asks. -/
def State.workPiece (s : State) (j : Job) (i : Nat) : State :=
  let b : PBlk := j.blk
  match j.pieces[i]? with
  | none => s
  | some p =>
    let s' := s.setJob j.id { j with pieces := j.pieces.eraseIdx i }
    if j.op = opPage then s.pageRequest j
    else if j.op = opChase then s.chaseOn j.id
    else if j.op = opAcc ∨ j.op = opHen then s'.postJob j.id .request p
    else if j.op = opCas then s'.postJob j.id .request ((List.range (16 * b.casN)).map fun i => (b.doff, some (b.soff + i), 0))
    else if j.op = opEnq then s'.postJob j.id .request [(b.doff, none, 0)]
    else s'.postJob j.id .dest p

/-- The pieces of a job that an engine may take: any of a move; of requests to Hens the first, once those before it are on their way
(f07 R188). -/
def State.openPieces (s : State) (j : Job) : List Nat :=
  if henOp j.op then (if j.pieces.isEmpty ∨ ¬ (s.opsOf (.job j.id)).isEmpty then [] else [0]) else List.range j.pieces.length

/-- A piece of a job that has come to a byte of another package, or to none. -/
def State.strayOp (s : State) (j : Job) : Option PortOp :=
  (s.opsOf (.job j.id)).find? fun p => p.hops.isEmpty && match s.opAt p with
    | some a => s.farAway a && !s.stopBit p.tenant a && !((s.opNext p).1 && s.wholeHeld p)
    | none => true

/-- Another package is asked for the run of bytes a piece has come to, or sent it; what is nowhere is dropped. -/
def State.sendStray (s : State) (j : Job) (p : PortOp) : State :=
  match s.opAt p with
  | none => s.nudge p
  | some a =>
    let l := (s.opNext p).2.map fun x => match x.2 with
      | .at_ a => a
      | _ => 0
    let n := runLen a l
    if p.asks then { s with ports := s.ports.erase p }.sendRequest j.id p
    else if (s.opNext p).1 then s.sendFar j.id j.sid a (.write a ((p.bytes.take n).map (·.2.2)))
    else s.sendFar j.id j.sid a (.read a n)

/-- The running jobs of a tenant on one engine. -/
def State.engineJobs (s : State) (server tenant : Nat) : List Job :=
  (s.jobs.map (·.2)).filter fun j =>
    j.st == .started && oxServer (s.placeOfStrand j.sid) j.q == server && s.owner j.sid == tenant && !s.awaiting j.id

/-- The untimed requests of a core that are outstanding: pieces of its strands' jobs on their way, and requests to Hens (f01 R10). -/
def State.outstanding (s : State) (core : Nat) : Nat :=
  let here := fun (sid : Nat) => (s.placeOfStrand sid).coreNo == core
  (s.ports.countP fun p => match p.who with
    | .job id => here (s.job id).sid
    | _ => false) + ((s.jobs.filter fun j => here j.2.sid).map fun j => j.2.hens).sum

/-- A core's untimed request table holds 1536 entries; a job that has to read everything first is not held by it (log entry 165). -/
def State.tableRoom (s : State) (j : Job) : Bool := j.whole || decide (s.outstanding (s.placeOfStrand j.sid).coreNo < 1536)

/-- The turn of a tenant at an Ox engine: a piece that has come to another package goes on; else one ready piece is taken, which of them is
free (f06 R150); where none is ready, what the first one lacks is asked for. -/
def State.engineTurn (s : State) (server tenant : Nat) : Option State :=
  let jobs := s.engineJobs server tenant
  match jobs.findSome? fun j => (s.strayOp j).map fun p => (j, p) with
  | some (j, p) => some (s.sendStray j p)
  | none =>
  let open_ := jobs.flatMap fun j => (s.openPieces j).map fun i => (j, i)
  let open_ := open_.filter fun x => s.tableRoom x.1
  let ready := open_.filter fun x => (s.jobPages x.1).isEmpty && s.pieceReady x.1 (x.1.pieces.getD x.2 [])
  match ready, open_ with
  | [], [] => none
  | [], (j, i) :: _ =>
    let l := pieceBytes j (j.pieces.getD i [])
    let pages := s.jobPages j
    let s' := (l.foldl (fun s x => s.askByte j.sid x.1 x.2) s)
    let s' := pages.foldl (fun s p => s.askPage (s.launchFn (ttOf j.sid)) p) s'
    some (s'.setJob j.id { j with wait := pages ++ s.pagesOf j.sid l })
  | r, _ =>
    let (k, s) := s.pick r.length
    match r[k]? with
    | some (j, i) => let s' := s.workPiece j i; some (if j.again then s'.keepMeters s (ttOf j.sid) else s')
    | none => none

/-! ### Replies of other packages (f07 R193) -/

/-- A remote request of a job has ended with a status. -/
def State.farDone (s : State) (jid status : Nat) : State :=
  let j := s.job jid
  s.setJob jid { j with hens := j.hens - 1, status := if j.status = 0 then status else j.status }

/-- A job is given up: nothing more of it moves, and it finishes with a status. -/
def State.abandonJob (s : State) (jid status : Nat) : State :=
  let j := s.job jid
  (s.dropOps (.job jid)).setJob jid { j with pieces := [], hens := 0, wait := [], status := status }

/-- The words an OXCAS returns to its operand window: old words, then the status word (f07 R190). -/
def State.casReturn (s : State) (jid : Nat) (old : List (BitVec 64)) (status : Nat) : State :=
  let j := s.job jid
  let b : PBlk := j.blk
  s.postRun jid .back j.cs (b.soff + 16 * b.casN) ((old.flatMap fun w => bytesOf 8 w.toNat) ++ bytesOf 8 status)

/-- The piece of a job that has come to an address of another package. -/
def State.strayAt (s : State) (jid a : Nat) (dst : Bool) : Option PortOp :=
  (s.opsOf (.job jid)).find? fun p => s.opAt p == some a && (s.opNext p).1 == dst

/-- Bytes fetched from another package for a piece, which goes on. -/
def State.fetched (s : State) (jid a : Nat) (data : List Byte) : State :=
  match s.strayAt jid a false with
  | none => s
  | some p =>
    let bytes := p.bytes.map fun x => match x.2.1.bind fun o => (match s.opAddr p false o with | .at_ y => some y | _ => none) with
      | some y => if a ≤ y ∧ y < a + data.length then (x.1, none, data.getD (y - a) 0) else x
      | none => x
    { s with ports := s.ports.erase p }.moveOn { p with bytes := bytes } (jobFx (s.job jid) p.use) s.direct s.direct

/-- Bytes written in another package have performed; this device knows there what it has written (DESIGN CHOICE, log entry 149). -/
def State.stored (s : State) (jid a : Nat) (data : List Byte) : State :=
  match s.strayAt jid a true with
  | none => s
  | some p =>
    let left := p.bytes.drop data.length
    let s := { s with ports := s.ports.flatMap fun q => if q == p then (if left.isEmpty then [] else [{ p with bytes := left }]) else [q] }
    let s := s.writeBytes (runAt a data)
    if p.use = .back then s else s.countJob jid data.length

/-- The bytes another package's Hen has performed for a job (f07 R199); of a routine, what its reply says. -/
def farCount (op : RemoteOp) (data : List Byte) : Nat :=
  match op with
  | .acc _ _ bytes => bytes.length
  | .cas _ n _ _ => if natOf ((data.drop (8 * n)).take 8) = 1 then 8 * n else 0
  | .enq .. => 32
  | .run .. => natOf ((data.drop (data.length - 16)).take 8)
  | _ => 0

/-- A write of a job in another package that met a live gate word: suppressed with GATEWR (f06 R161). -/
def State.farGate (s : State) (jid status : Nat) (op : RemoteOp) : State :=
  let j := s.job jid
  match op with
  | .read .. | .run .. => s
  | _ => if status = 0x01 then s.fault j.sid Code.gateWr 3 j.kd (PBlk.doff j.blk % 2 ^ 48) else s

/-- Lines a job has staged at another package's Hen. -/
def State.stagedFar (s : State) (j : Job) (tt hen n lines : Nat) : State :=
  { s with farLines := s.farLines ++ List.replicate lines ⟨tt, hen, n, s.jobSync j⟩ }

/-- A reply to a job's request; STALE (0x07) says nothing of what was done. An OXENQ whose TAIL is not resident (0x80) is sent again once it
is (f04 R111). -/
def State.jobReply (s : State) (jid status : Nat) (r : Remote) (data : List Byte) : State :=
  let s := s.farGate jid status r.op
  let j := s.job jid
  let first := if j.status = 0 then status else j.status
  match r.op with
  | .read a n =>
    if status ≠ 0 then s.abandonJob jid first
    else if j.op = opChase ∧ (s.strayAt jid a false).isNone then s.chaseGot jid data
    else s.fetched jid a (data.take n)
  | .write a bytes =>
    if status = 0 then s.stored jid a bytes
    else
      let s := match s.strayAt jid a true with
        | some p => { s with ports := s.ports.erase p }
        | none => s
      s.setJob jid { j with status := first }
  | .cas _ n _ _ =>
    let s := if status = 0x07 then s.casReturn jid (List.replicate n 0) 2
      else if status = 0 then s.casReturn jid ((wordsOf data).take n) (natOf ((data.drop (8 * n)).take 8))
      else s
    (s.countJob jid (if status = 0 then farCount r.op data else 0)).farDone jid status
  | .stage _ _ tt _ _ bytes => (if status = 0 then s.stagedFar j tt r.hen bytes.length 1 else s).farDone jid status
  | .enq .. =>
    if status = 0x80 then
      let s := s.setJob jid { j with hens := j.hens - 1, pieces := [[(PBlk.doff j.blk, none, 0)]] }
      s.askByte j.sid j.cd (natOf (data.take 8))
    else (s.countJob jid (if status = 0 then farCount r.op data else 0)).farDone jid status
  | op =>
    let run := match op with
      | .run .. => true
      | _ => false
    let s := if run then s.stagedFar j (ttOf j.sid) r.hen 128 (natOf ((data.drop (data.length - 8)).take 8)) else s
    (s.countJob jid (if run ∨ status = 0 then farCount op data else 0)).farDone jid status

/-- RETRANSMIT_TIMEOUT: an unanswered request is sent again after 2^16 gcy, once its tenant's stop bit is not seen; after eight times its
job finishes NOREPLY, and any other request starts to count again (f08 R212, R213; DESIGN CHOICE, log entry 148). -/
def execRetransmitTimeout (key : Nat) (s : State) : Result :=
  match s.remotes.find? fun x => x.1 == key with
  | none => notEnabled "RETRANSMIT_TIMEOUT"
  | some (_, r) =>
    if s.gclk.toNat < r.sent + 2 ^ 16 ∨ s.stopFor (s.owner r.sid) (r.hen / 320) then notEnabled "RETRANSMIT_TIMEOUT"
    else if 8 ≤ r.tries ∧ key < 2 ^ 64 then .next ({ s with remotes := SMap.erase s.remotes key }.abandonJob key 0x15)
    else
      let p := s.placeOfStrand r.sid
      { s with
        remotes := SMap.set Remote.none s.remotes key { r with sent := s.gclk.toNat, tries := if 8 ≤ r.tries then 0 else r.tries + 1 } }
        |>.mail (r.hen / 320) (s.owner r.sid) (p.die * 24 + p.clu) (.request s.pkg p.coreNo r.seq r.op) |> .next

/-! ### Finishing (f06 R153, f07 R180) -/

/-- Markers at the head of a queue have reached it and are removed (f06 R164). -/
def dropMarkers : List QEnt → List QEnt
  | .marker _ :: t => dropMarkers t
  | l => l

def Strand.settleMarkers (st : Strand) : Strand :=
  (List.range 5).foldl (fun st q => st.setQueue q (dropMarkers (st.queue q))) st

/-- SYNCARM reaches a sync word (f07 R198). -/
def State.syncArm (s : State) (a : Nat) (t : BitVec 64) : State :=
  let w := s.syncWord a
  let count := syncCount w
  let n := syncSteps t.toNat count
  let word := syncPut t.toNat (count - n * t.toNat) (syncGen w + BitVec.ofNat 64 n) (t != 0) (decide (1 < n))
  let others := s.synced.filter (· != a)
  { s with mem := s.mem.writeN a (bytesOf 32 word.toNat), synced := if n = 0 then others else others ++ [a] }

/-- Bytes of the job are still on their way to its sync word in another package (f07 R180). -/
def State.counting (s : State) (j : Job) : Bool :=
  match s.jobSync j with
  | some a => s.farAway a && s.remotes.any fun r => decide (countKey 0 ≤ r.1) && r.2.sid == j.sid && (match r.2.op with
    | .count w _ => w == a
    | _ => false)
  | none => false

/-- The job has performed every byte, or has been refused. -/
def State.jobDone (s : State) (j : Job) : Bool :=
  j.st == .started && j.pieces.isEmpty && j.hens == 0 && !s.awaiting j.id && (s.opsOf (.job j.id)).isEmpty && !s.counting j

/-- OX_JOB_FINISH: once the sync word has counted the bytes, the producer pointer advances, the semaphore is signalled, in that order,
and the job leaves its queue. -/
def execOxJobFinish (jid : Nat) (s : State) : Result :=
  let j := s.job jid
  if s.jobDone j = false then notEnabled "OX_JOB_FINISH"
  else
    let b : PBlk := j.blk
    let sid := j.sid
    let q := (s.strand sid).qbuf b.qbh
    let qfull := b.qben && q.free q.prod q.cons == 0
    let s := if b.qben ∧ ¬ qfull then
        s.modStrand sid fun st => st.setQb b.qbh { q with prod := q.prod + 1, vprod := q.vprod + 1 }
      else s
    let status := if j.status = 0 ∧ qfull then 0x08 else j.status
    let s := s.modStrand sid fun st =>
      let st := st.setQueue j.q ((st.queue j.q).filter fun e => match e with
        | .job x => x.id != jid
        | _ => true)
      st.settleMarkers.count 6 1
    let s := { s with jobs := SMap.erase s.jobs jid }
    .next (if b.sen then s.signal sid b.ssem 1 (if status = 0 then none else some status) j.bundle else s)

/-! ### Residency of extents (f04 R106, R111, R112) -/

/-- A timetable that holds its placement: granted and not departed, or placed and waiting for its pair (f02 R37). -/
def Timetable.placed (t : Timetable) : Bool := t.life == 1 || t.life == 2 || t.life == 5

/-- Scratchpad banks of a die that placements hold: base address and size. -/
def State.banksAt (s : State) (die : Nat) : List (Nat × Nat) :=
  s.tts.flatMap fun x => if x.2.placed then x.2.place.flatMap fun p =>
    if p.pkg = s.pkg ∧ p.die = die then
      p.banks.map fun b => (devAddr p.pkg die 0 (p.clu * 2 ^ 23 + b * 131072), 131072) else [] else []

/-- Everything allotted in one level of a die: the extents of the tenants' objects and, in the scratchpad, the placements'
banks: base address and size. -/
def State.extentsAt (s : State) (die level : Nat) : List (Nat × Nat) :=
  (if level = 0 then s.banksAt die else []) ++ s.tenants.flatMap fun t => t.2.objs.flatMap fun o =>
    let e := o.2.entry
    let size := 2 ^ (12 + entXsz e)
    let n := (entLen e + size - 1) / size
    (List.range n).filterMap fun i => match extentBase s t.1 e i with
      | some b => let a := b * 4096; if b ≠ absentBase ∧ entHome e ≠ 4 ∧ addrDie a = die ∧ homeOf a = level then some (a, size) else none
      | none => none

/-- Place number j of `size` bytes in a level of a die lies in it and meets nothing allotted. -/
def State.slotFree (s : State) (die level size j : Nat) : Bool :=
  let a := devAddr s.pkg die level (j * size)
  decide (j < levelCap level / size) && (s.extentsAt die level).all fun x => decide (x.1 + x.2 ≤ a) || decide (a + size ≤ x.1)

/-- The first place and the first one behind each thing allotted: where any place is free, one of these is. -/
def State.firstSlots (s : State) (die level size : Nat) : List Nat :=
  0 :: (s.extentsAt die level).map fun x => (x.1 + x.2 - devAddr s.pkg die level 0 + size - 1) / size

/-- A level of a die has room for `size` bytes. -/
def State.hasRoom (s : State) (die level size : Nat) : Bool := (s.firstSlots die level size).any (s.slotFree die level size)

/-- A free place of `size` bytes in a level of a die: a free choice, which stands where that place is free, and else the first of
`firstSlots` that is (log entry 32). -/
def State.freePlace (s : State) (die level size : Nat) : Option Nat × State :=
  let (k, s') := s.pick (levelCap level / size)
  (((k :: s.firstSlots die level size).find? (s.slotFree die level size)).map fun j => devAddr s.pkg die level (j * size), s')

/-- The base of extent e of an object is written, in its entry or its extent table (f04 R99, R100). -/
def State.setBase (s : State) (tenant obj e base : Nat) : State :=
  let o := s.obj tenant obj
  if entNx o.entry = 7 then { s with mem := s.mem.writeN (s.spaceOf tenant (entX o.entry 0 * 4096 + 8 * e)) (bytesOf 8 base) }
  else s.setObj tenant obj { o with entry := entSet o.entry (135 - 45 * e) 45 base }

/-- The smallest extent size that holds an object (log entry 32). -/
def xszFor (len : Nat) : Nat := ((List.range 29).find? fun i => decide (len ≤ 2 ^ (12 + i))).getD 28

/-- A range of memory given back: its bytes are zeroed, and its gate words are gates no more (f04 R114, R117, f06 R161). -/
def State.freeRange (s : State) (a n : Nat) : State :=
  { s with
    mem := s.mem.filter fun x => decide (x.1 < a) || decide (a + n ≤ x.1),
    gates := s.gates.filter fun x => decide (x.1 < a) || decide (a + n ≤ x.1) }

/-- One more extent of a size for an object, zeroed (f04 R117). -/
def State.newExtent (s : State) (die home size : Nat) : Option (Nat × State) :=
  match s.freePlace die home size with
  | (some a, s) => some (a, s.freeRange a size)
  | (none, _) => none

/-- The entry of an object with extents 0..n-1, those it has not yet new; none for want of room. -/
def State.grow (s : State) (tenant obj n : Nat) : Option State :=
  (List.range n).foldl (fun (acc : Option State) i => match acc with
    | none => none
    | some s =>
      let o := s.obj tenant obj
      if i < entNx o.entry then some s
      else (s.newExtent (entDie o.entry) (entHome o.entry) (2 ^ (12 + entXsz o.entry))).map fun x =>
        x.2.setObj tenant obj { o with entry := entSet (entSet o.entry 239 3 (i + 1)) (135 - 45 * i) 45 (x.1 / 4096) }) (some s)

/-- All bytes of an object's extents, as object offsets; a non-resident extent's from its backing copy. -/
def State.objBytes (s : State) (tenant obj : Nat) : List (Nat × Byte) :=
  let o := s.obj tenant obj
  let size := 2 ^ (12 + entXsz o.entry)
  (List.range (entNx o.entry)).flatMap fun i =>
    let a := entX o.entry i * 4096
    if entX o.entry i = absentBase then (SMap.get [] o.backing i).map fun x => (i * size + x.1, x.2)
    else (s.mem.filter fun x => decide (a ≤ x.1) && decide (x.1 < a + size)).map fun x => (i * size + (x.1 - a), x.2)

/-- The resident extents of an entry of a tenant: address and bytes in use. -/
def State.extents (s : State) (tenant : Nat) (e : BitVec 256) : List (Nat × Nat) :=
  let size := 2 ^ (12 + entXsz e)
  (List.range ((entLen e + size - 1) / size)).filterMap fun i => match extentBase s tenant e i with
    | some b => if b = absentBase then none else some (b * 4096, Nat.min size (entLen e - i * size))
    | none => none

/-- What an object of the device holds is given back: all its extents from number `from_` on. -/
def State.freeExtents (s : State) (tenant : Nat) (e : BitVec 256) (from_ : Nat) : State :=
  let size := 2 ^ (12 + entXsz e)
  if entHome e = 4 then s
  else ((List.range ((entLen e + size - 1) / size)).drop from_).foldl (fun s i => match extentBase s tenant e i with
    | some b => if b = absentBase then s else s.freeRange (b * 4096) size
    | none => s) s

/-- EXTENT_RESIDENT: the Mule gives a device-managed extent a place, with the backing copy kept at its eviction, or zeros. -/
def execExtentResident (tenant obj ext : Nat) (s : State) : Result :=
  let o := s.obj tenant obj
  let drop := fun (s : State) => { s with wanted := s.wanted.erase (tenant, obj, ext) }
  if extentBase s tenant o.entry ext ≠ some absentBase ∨ entKind o.entry = 0 then
    if s.wanted.contains (tenant, obj, ext) then .next (drop s) else notEnabled "EXTENT_RESIDENT"
  else
    let size := 2 ^ (12 + entXsz o.entry)
    match s.freePlace (entDie o.entry) (entHome o.entry) size with
    | (none, _) => notEnabled "EXTENT_RESIDENT"
    | (some a, s) =>
      let kept := SMap.get [] o.backing ext
      let s := s.setObj tenant obj { o with backing := SMap.set [] o.backing ext [] }
      let s := s.setBase tenant obj ext (a / 4096)
      let s := s.freeRange a size
      .next (drop { s with mem := Memory.writeAll s.mem (kept.map fun x => (a + x.1, x.2)) })

/-- What the Hens and the strands hold of addresses, by the function that says where each has moved to: requests and staged lines, gates
waited for or to be released, sync words. -/
def State.moveWaiting (s : State) (f : Nat → Nat) : State :=
  let req := fun (r : HenReq) => { r with line := f r.line, at_ := r.at_.map f, ok := r.ok.map fun x => (f x.1, x.2) }
  let hen := fun (h : Hen) => { h with
    queue := h.queue.map req, cur := h.cur.map req, staged := h.staged.map fun x => { x with at_ := x.at_.map f, sync := x.sync.map f } }
  let eff := fun (e : Eff) => match e with
    | .arm a t => .arm (f a) t
    | .ox dst src got fixed sync rp line => .ox dst src got fixed (sync.map f) rp line
    | e => e
  let strand := fun (st : Strand) => { st with
    wait := (match st.wait with
      | .acq a => .acq (f a)
      | .bind r a w => .bind r (f a) w
      | .sync a g => .sync (f a) g
      | w => w),
    rels := st.rels.map fun x => (f x.1, x.2), pend := st.pend.map fun p => { p with eff := eff p.eff } }
  { s with
    hens := SMap.mapVals (fun _ h => hen h) s.hens, strands := SMap.mapVals (fun _ st => strand st) s.strands,
    synced := s.synced.map f, arming := s.arming.map fun x => (f x.1, x.2) }

/-- Addresses that gates, Hens or strands hold: what lies there stays resident (f04 R111; log entry 33). -/
def State.heldAt (s : State) (inside : Nat → Bool) : Bool :=
  let req := fun (r : HenReq) => inside r.line || r.at_.any inside || r.ok.any fun x => inside x.1
  (s.gates.any fun x => inside x.1 && (x.2.live || x.2.holder.isSome || x.2.freeing.isSome || !x.2.waiters.isEmpty)) ||
    (s.hens.any fun x => x.2.queue.any req || x.2.cur.any req || x.2.staged.any fun y => y.at_.any inside) ||
    s.strands.any fun x => (match x.2.wait with
      | .acq a | .bind _ a _ => inside a
      | _ => false) || x.2.rels.any fun y => inside y.1

/-- An extent of an object moves to a new base: its bytes and its gates with it. -/
def State.moveExtent (s : State) (tenant obj ext new : Nat) : State :=
  let o := s.obj tenant obj
  let size := 2 ^ (12 + entXsz o.entry)
  match extentBase s tenant o.entry ext with
  | some b =>
    let a := b * 4096
    let bytes := s.mem.filter fun x => decide (a ≤ x.1) && decide (x.1 < a + size)
    let rest := s.mem.filter fun x =>
      (decide (x.1 < a) || decide (a + size ≤ x.1)) && (decide (x.1 < new) || decide (new + size ≤ x.1))
    let mem := Memory.writeAll rest (bytes.map fun x => (new + (x.1 - a), x.2))
    let inside := fun (x : Nat) => decide (a ≤ x) && decide (x < a + size)
    let gates := s.gates.foldl (fun m x => SMap.set Gate.none m (if inside x.1 then new + (x.1 - a) else x.1) x.2) []
    let s := ({ s with mem := mem, gates := gates }).moveWaiting fun x => if inside x then new + (x - a) else x
    let mig := o.mig.filter (· != ext)
    let s := s.setObj tenant obj { o with mig := mig, entry := entSet o.entry 242 1 (b2n !mig.isEmpty) }
    s.setBase tenant obj ext (new / 4096)
  | none => s

/-- EXTENT_MIGRATE (f04 R106): the migration of an unpinned device-managed extent begins, with MIG set; and, in a second
step, its new base is written. -/
def execExtentMigrate (tenant obj ext base : Nat) (s : State) : Result :=
  let o := s.obj tenant obj
  let size := 2 ^ (12 + entXsz o.entry)
  let new := base * 4096
  match extentBase s tenant o.entry ext with
  | some b =>
    if b = absentBase ∨ entTp o.entry = 1 ∨ entKind o.entry = 0 ∨ ¬ addrOk new ∨ new % size ≠ 0 ∨
        homeOf new ≠ entHome o.entry ∨
        ((s.extentsAt (addrDie new) (homeOf new)).any fun x => decide (new < x.1 + x.2) && decide (x.1 < new + size)) then
      notEnabled "EXTENT_MIGRATE"
    else if o.mig.contains ext then .next (s.moveExtent tenant obj ext new)
    else .next (s.setObj tenant obj { o with mig := o.mig ++ [ext], entry := entSet o.entry 242 1 1 })
  | none => notEnabled "EXTENT_MIGRATE"

/-- EVICTION: an unpinned device-managed extent of deep store or DRAM becomes non-resident; the Mule keeps a copy (f04 R112,
f19 R383). The Mule leaves an extent where it is while a gate word in it is live or a request waits for its bytes (DEDUCED, log entry
33). -/
def execEviction (tenant obj ext : Nat) (s : State) : Result :=
  let o := s.obj tenant obj
  let size := 2 ^ (12 + entXsz o.entry)
  match extentBase s tenant o.entry ext with
  | some b =>
    if b = absentBase ∨ entTp o.entry = 1 ∨ entKind o.entry = 0 ∨ (entHome o.entry ≠ 1 ∧ entHome o.entry ≠ 3) ∨
        entLen o.entry ≤ ext * size ∨ s.heldAt (fun a => decide (b * 4096 ≤ a) && decide (a < b * 4096 + size)) then
      notEnabled "EVICTION"
    else
      let a := b * 4096
      let bytes := s.mem.filter fun x => decide (a ≤ x.1) && decide (x.1 < a + size)
      let rest := s.mem.filter fun x => decide (x.1 < a) || decide (a + size ≤ x.1)
      let s := { s with mem := rest }
      let s := s.setObj tenant obj { o with backing := SMap.set [] o.backing ext (bytes.map fun x => (x.1 - a, x.2)) }
      .next (s.setBase tenant obj ext absentBase)
  | none => notEnabled "EVICTION"

/-- The page a byte of an observed load or a SNAPSHOT's block waits for has been refused: the load is answered with a free value, the service
with status 2 (the spec states neither: DESIGN CHOICE, log entry 166). -/
def State.refusedWait (s : State) (fn page sid : Nat) : State :=
  let st := s.strand sid
  let waits := fun (c : Cap) (o n : Nat) => (s.pagesOf sid ((List.range n).map fun i => (c, o + i))).contains page
  if s.launchFn (ttOf sid) ≠ fn then s
  else match st.wait with
    | .ldc r c o _ =>
      if waits c o 8 then
        { s with choices := s.choices + 1 }.setStrand sid (st.answer [.d r (Config.freeD s.choices) true])
      else s
    | .svc 2 off _ _ => if waits (st.rc 1) off.toNat 480 then s.setStrand sid (st.answer (svcAnswer 2 0)) else s
    | _ => s

/-- PRI_RESPONSE (f04 R103): a success gives the function the page; any other response abandons what waited for it. What the
queue front end, the DMA engine or a Goose waited for, they abandon themselves. -/
def execPriResponse (fn page : Nat) (ok : Bool) (s : State) : Result :=
  let f := s.func fn
  if f.pri.contains page = false then .next s
  else
    let f := { f with pri := f.pri.filter (· != page) }
    if ok then
      .next (s.setFunc fn { f with
        asked := f.asked.filter (· != page), ats := if f.ats.contains page then f.ats else f.ats ++ [page] })
    else
      let s := s.setFunc fn { f with
        asked := f.asked.filter (· != page),
        refused := if f.asked.contains page ∨ (s.colls.any fun c => c.2.live && s.launchFn (ttOf c.2.sid) == fn) then f.refused ++ [page]
          else f.refused }
      let s := (SMap.keys s.strands).foldl (fun s sid => s.refusedWait fn page sid) s
      .next ((SMap.keys s.jobs).foldl (fun s id =>
        let j := s.job id
        if s.launchFn (ttOf j.sid) = fn ∧ j.wait.contains page then s.abandonJob id 0x06 else s) s)

end Sys2Proof.Machine
end

