-- ==== Sys2Proof/Machine/Hen.lean ====
section
/-! DEFINITION. Hen agents: the requests they take, the routines built in for OXACC, OXCAS, OXENQ, OXCHASE and commits, and
the eight private words (f07 R188..R196, R436, f18 R339, R355..R361, f06 R168). -/
namespace Sys2Proof.Machine

/-! ### Accumulation (f07 R188) -/

/-- One element added: 0 BF16, 1 F32, 2 I32; no flag is recorded. -/
def accElem (ty cur add : Nat) : Nat :=
  match ty with
  | 0 => (fAdd fBF16 (fBF16.decode cur) (fBF16.decode add)).1
  | 1 => (fAdd fF32 (fF32.decode cur) (fF32.decode add)).1
  | _ => (cur + add) % 2 ^ 32

def accWidth (ty : Nat) : Nat := if ty = 0 then 2 else 4

/-- Bytes accumulated element by element; a rest shorter than an element stays. -/
def accBytes (ty : Nat) : (n : Nat) → List Byte → List Byte → List Byte
  | 0, cur, _ => cur
  | n + 1, cur, add =>
    let w := accWidth ty
    if cur.length < w ∨ add.length < w then cur
    else bytesOf w (accElem ty (natOf (cur.take w)) (natOf (add.take w))) ++ accBytes ty n (cur.drop w) (add.drop w)

/-- A contribution added to the bytes at some addresses: what is written there. -/
def State.accAt (s : State) (at_ : List Nat) (ty : Nat) (add : List Byte) : List (Nat × Byte) :=
  at_.zip (accBytes ty add.length (at_.map s.mem.read) add)

/-- A contribution of a tenant added. -/
def State.accumulate (s : State) (tenant : Nat) (at_ : List Nat) (ty : Nat) (add : List Byte) : State :=
  s.untimedWrite tenant (s.accAt at_ ty add)

/-! ### Ordered contributions (f06 R168, f07 R188, R189) -/

/-- The staging a tenant uses at a Hen: 160 bytes a line. -/
def Hen.stagedBytes (h : Hen) (tenant : Nat) : Nat := 160 * (h.staged.countP fun x => x.tenant == tenant)

/-- A line staged, or none where the tenant's partition is full. -/
def State.stageLine (s : State) (port : Nat) (x : Staged) : Option State :=
  let h := s.hen port
  if (s.tenant x.tenant).stagePart < h.stagedBytes x.tenant + 160 then none
  else some (s.setHen port { h with staged := h.staged ++ [x] })

/-- Whether one contribution commits before another: by strand number, then issue order (f06 R168). So ordered, they reach each element in
that order, however their lines overlap. -/
def Staged.before (a b : Staged) : Bool :=
  if a.strand ≠ b.strand then decide (a.strand < b.strand) else decide (a.order < b.order)

/-- Insertion by an order, after equal ones. -/
def insertBy {α : Type} (before : α → α → Bool) (x : α) : List α → List α
  | [] => [x]
  | y :: t => if before x y then x :: y :: t else y :: insertBy before x t
def sortBy {α : Type} (before : α → α → Bool) (l : List α) : List α := l.foldl (fun acc x => insertBy before x acc) []

/-- A Hen commits what a timetable has staged at it. -/
def State.commitAt (s : State) (port tt : Nat) : State :=
  let h := s.hen port
  let mine := sortBy Staged.before (h.staged.filter fun x => x.tt == tt)
  let s := s.setHen port { h with staged := h.staged.filter fun x => x.tt != tt }
  mine.foldl (fun s x =>
    let s := s.accumulate x.tenant x.at_ x.ty x.bytes
    let s := [11, 12, 13, 14].foldl (fun s k => s.meter x.tenant k (x.at_.countP fun a => byteMeter a true == k)) s
    s.countAt (sidOf x.tt x.strand) x.sync x.bytes.length) s

/-! ### Taking a request (f07 R196, f18 R339) -/

/-- The context of a routine. -/
def Hen.context (h : Hen) (r : HenReq) (base len : Nat) : Hen :=
  let regs : List (Nat × BitVec 64) := [(1, BitVec.ofNat 64 (r.op + r.routine % 2 ^ 16 * 2 ^ 8)), (2, r.arg),
    (3, BitVec.ofNat 64 (addrOff r.line)), (4, BitVec.ofNat 64 r.len),
    (5, BitVec.ofNat 64 (r.strand % 2 ^ 32 + r.order * 2 ^ 32)), (6, BitVec.ofNat 64 (r.tt % 2 ^ 32)),
    (7, BitVec.ofNat 64 (b2n r.ord))]
  { h with
    cur := some r, d := regs.foldl (fun d x => SMap.set 0 d x.1 x.2) [], rb := r.rb, pc := 0, base := base, len := len,
    replied := none }

/-- The bytes of a request's line as its buffer holds them. -/
def HenReq.payload (r : HenReq) : List Byte := (r.rb.flatMap fun w => bytesOf 8 w.toNat).take r.len

/-- OXACC at the Hen. -/
def State.henAcc (s : State) (port : Nat) (r : HenReq) : State :=
  let j := s.job r.job
  let ty := r.arg.toNat % 4
  if r.ord then
    match s.stageLine port ⟨r.at_, ty, r.tt, r.strand, r.order, r.tenant, r.payload, s.jobSync j⟩ with
    | some s => s.farDone r.job 0
    | none => s.farDone r.job 0x05
  else (s.jobWrite r.job (s.accAt r.at_ ty r.payload)).farDone r.job 0

/-- OXCAS at the Hen (f07 R190), the expected and new words in its request: one atomic step. -/
def State.henCas (s : State) (r : HenReq) : State :=
  let j := s.job r.job
  let b : PBlk := j.blk
  let n := b.casN
  let old := s.readCap j.sid j.cd b.doff (8 * n)
  let hit := (wordsOf old).take n == r.rb.take n
  let new := ((r.rb.drop n).take n).flatMap fun w => bytesOf 8 w.toNat
  let s := if hit then s.jobWrite r.job (s.placed j.sid j.cd b.doff new) else s
  let s := s.meterBytes (ttOf j.sid) ((s.capBytes j.sid j.cd b.doff (8 * n)).filterMap id) false
  (s.casReturn r.job ((wordsOf old).take n) (b2n hit)).farDone r.job 0

/-- The words OXENQ writes, from the header as it stands: addresses are given by `at_` for window offsets (f07 R191). -/
def enqWords (mem : Memory) (hdr rec arg : Nat) (tail : Option Nat) : List (Nat × Byte) :=
  let count := natOf (mem.readN (hdr + 16) 8)
  let put := fun (a v : Nat) => (bytesOf 8 v).zipIdx.map fun x : Byte × Nat => (a + x.2, x.1)
  let link := if count = 0 then put hdr arg else match tail with
    | some t => put t arg
    | none => []
  put rec (2 ^ 64 - 1) ++ link ++ put (hdr + 8) arg ++ put (hdr + 16) (count + 1)

/-- OXENQ at the Hen: one atomic step; a TAIL outside the window ends it with ROWBOUND, one in a live gate word is suppressed with GATEWR (f06
R161). -/
def State.henEnq (s : State) (r : HenReq) : State :=
  let j := s.job r.job
  let b : PBlk := j.blk
  let tail := natOf (s.mem.readN (r.line + 8) 8)
  let count := natOf (s.mem.readN (r.line + 16) 8)
  let good := decide (tail + 8 ≤ capLen j.cd.bits) && (s.capPort j.sid j.cd tail 8).isNone
  if count ≠ 0 ∧ ¬ good then s.farDone r.job 0x0A
  else if count ≠ 0 ∧ (s.gateRun j.sid j.cd [(tail, 8)]).isSome then
    (s.fault j.sid Code.gateWr 3 j.kd (tail % 2 ^ 48)).farDone r.job 0x01
  else match s.addrOf j.sid j.cd b.arg with
    | none => s.farDone r.job 0x0A
    | some rec =>
      let s := s.meterBytes (ttOf j.sid) ((List.range 24).map (r.line + ·)) false
      (s.jobWrite r.job (enqWords s.mem r.line rec b.arg (s.addrOf j.sid j.cd tail))).farDone r.job 0

/-- OXCHASE at the Hen: the payload and the link of one node are read in one step (f19 R381). -/
def State.henChase (s : State) (r : HenReq) : State :=
  let j := s.job r.job
  let b : PBlk := j.blk
  let n := Nat.max b.row (b.arg + 8)
  let s := s.meterBytes (ttOf j.sid) ((s.capBytes j.sid j.cs j.node b.row).filterMap id) false
  let s := s.meterBytes (ttOf j.sid) ((s.capBytes j.sid j.cs (j.node + b.arg) 8).filterMap id) false
  s.chaseGot r.job (s.readCap j.sid j.cs j.node n)

/-- The address of a window offset, by the runs of the window. -/
def runAddr (window : List (Nat × Nat × Nat)) (o n : Nat) : Option Nat :=
  (window.find? fun x => decide (x.1 ≤ o) && decide (o + n ≤ x.1 + x.2.2)).map fun x => x.2.1 + (o - x.1)

/-- Some of n bytes lie in a live gate word (f06 R161). -/
def State.gateMet (s : State) (a n : Nat) : Bool := (List.range n).any fun i => s.inGate (a + i)

/-- A request of another package: executed once, and answered (f07 R193). A write that meets a live gate word is not made and answers 0x01 (f06
R161); a gate's answer comes when the gate is granted. -/
def State.henRemote (s : State) (port : Nat) (x : Nat × Nat × Nat) (r : HenReq) (op : RemoteOp) : State :=
  let count := fun (s : State) (a n : Nat) (write : Bool) => s.meter r.tenant (byteMeter a write) n
  let write := fun (s : State) (l : List (Nat × Byte)) => s.untimedWrite r.tenant l
  match op with
  | .acc at_ ty bytes =>
    if at_.any s.inGate then s.henReply port x 0x01 []
    else ((at_.foldl (fun s a => count s a 1 true) s).accumulate r.tenant at_ ty bytes).henReply port x 0 []
  | .stage at_ ty tt strand order bytes =>
    if at_.any s.inGate then s.henReply port x 0x01 []
    else match s.stageLine port ⟨at_, ty, farTt x.1 tt, strand, order, r.tenant, bytes, none⟩ with
    | some s => s.henReply port x 0 []
    | none => s.henReply port x 0x05 []
  | .cas a n expect new =>
    if s.gateMet a (8 * n) then s.henReply port x 0x01 [] else
    let old := s.mem.readN a (8 * n)
    let hit := old == (expect.take n).flatMap fun w => bytesOf 8 w.toNat
    let s := if hit then write s (runAt a ((new.take n).flatMap fun w => bytesOf 8 w.toNat)) else s
    (count s a (8 * n) hit).henReply port x 0 (old ++ bytesOf 8 (b2n hit))
  | .enq hdr item arg len window =>
    let tail := natOf (s.mem.readN (hdr + 8) 8)
    let linked := natOf (s.mem.readN (hdr + 16) 8) ≠ 0
    if linked ∧ len < tail + 8 then s.henReply port x 0x0A []
    else if linked ∧ (runAddr window tail 8).isNone then s.henReply port x 0x80 (bytesOf 8 tail)
    else if s.gateMet hdr 32 ∨ s.gateMet item 8 ∨ (linked ∧ (runAddr window tail 8).any fun t => s.gateMet t 8) then s.henReply port x 0x01 []
    else (count (write s (enqWords s.mem hdr item arg (runAddr window tail 8))) hdr 32 true).henReply port x 0 []
  | .read a n => (count s a n false).henReply port x 0 (s.mem.readN a n)
  | .count a n => (s.syncArrive a n).henReply port x 0 []
  | .write a bytes =>
    if s.gateMet a bytes.length then s.henReply port x 0x01 [] else
    (count (write s (runAt a bytes)) a bytes.length true).henReply port x 0 []
  | .run a routine arg d5 d6 ord ok bytes =>
    match s.routine routine with
    | none => s.henReply port x 0x09 []
    | some rt =>
      let r := { r with
        op := opHen, arg := arg, line := a, len := bytes.length, rb := wordsOf bytes, routine := routine, ord := ord,
        strand := d5.toNat % 2 ^ 32, order := d5.toNat / 2 ^ 32, tt := farTt x.1 d6.toNat, ok := ok }
      s.setHen port ((s.hen port).context r rt.code rt.words)
  | .commit _ tt => (s.commitAt port (farTt x.1 tt)).henReply port x 0 []
  | .discard _ tt =>
    let h := s.hen port
    (s.setHen port { h with staged := h.staged.filter fun y => y.tt != farTt x.1 tt }).henReply port x 0 []
  | .acq gate strand =>
    let w := farStrand x.1 strand
    let g := s.gate gate
    { s with
      asks := SMap.set (0, 0, 0, 0) s.asks w (x.1, x.2.1, x.2.2, port),
      gates := SMap.set Gate.none s.gates gate { g with waiters := g.waiters ++ [w] } }
  | .bind gate strand w =>
    let (status, s) := s.bindAt (farStrand x.1 strand) gate w
    s.henReply port x status []
  | .rel gate strand poison =>
    let g := s.gate gate
    (if g.holder = some (farStrand x.1 strand) then s.setGate gate (g.release poison) else s).henReply port x 0 []

/-- A request of another package against the replay cache (f07 R193): a new number executes, one of the last 64 is answered from
the cache, an older one with STALE; a number of the last 64 that never came is answered with STALE too, and one still in work is not
answered twice (DESIGN CHOICE, log entry 53). -/
def State.henArrived (s : State) (port : Nat) (x : Nat × Nat × Nat) (r : HenReq) (op : RemoteOp) : State :=
  let (pkg, core, seq) := x
  let cache := SMap.get [] s.replays (port / 256)
  let key := pkg * 2 ^ 16 + core
  let e := SMap.get ⟨0, []⟩ cache key
  let d := (e.top + 2 ^ 16 - seq) % 2 ^ 16
  let say := fun (bytes : List Byte) => s.replyMail port x bytes
  if 2 ^ 15 ≤ d then
    ({ s with replays := SMap.set [] s.replays (port / 256) (SMap.set ⟨0, []⟩ cache key ⟨seq, e.kept⟩) }).henRemote port x r op
  else if d < 64 then match e.kept.find? fun y => y.1 == seq with
    | some y => say y.2
    | none => if s.asks.any fun a => a.2.1 == pkg && a.2.2.1 == core && a.2.2.2.1 == seq then s else say [0x07]
  else say [0x07]

/-- A request is served: a built-in routine runs to completion, a catalogued one begins. -/
def State.serve (s : State) (port : Nat) (r : HenReq) : State :=
  match r.from_, r.remote with
  | some x, some op => s.henArrived port x r op
  | _, _ =>
    if r.op = 0x7F then s.commitAt port r.tt
    else if r.op = opAcc then s.henAcc port r
    else if r.op = opCas then s.henCas r
    else if r.op = opEnq then s.henEnq r
    else if r.op = opChase then s.henChase r
    else match s.routine r.routine with
      | some rt => s.setHen port ((s.hen port).context r rt.code rt.words)
      | none => s.farDone r.job 0x09

/-- What a local request needs resident: an OXENQ its queue's TAIL too, once its header is there (f07 R191). -/
def State.reqBytes (s : State) (r : HenReq) : List (Cap × Nat) :=
  let j := s.job r.job
  let b : PBlk := j.blk
  let tail := natOf (s.readCap j.sid j.cd (b.doff + 8) 8)
  let linked := natOf (s.readCap j.sid j.cd (b.doff + 16) 8) ≠ 0
  if r.from_.isSome ∨ r.op = 0x7F then []
  else if r.op = opChase then
    (List.range (Nat.max b.row (b.arg + 8))).map (fun i => (j.cs, j.node + i)) ++
      (List.range b.row).map fun i => (j.cd, b.doff + 64 + j.hops * b.row + i)
  else if r.op = opCas ∨ r.op = opEnq then
    pieceBytes j [] ++ if r.op = opEnq ∧ linked ∧ tail + 8 ≤ capLen j.cd.bits then (List.range 8).map fun i => (j.cd, tail + i) else []
  else []

/-- Addresses a request names, whose extents must not be in migration (f04 R106): its line's, those of another package's operation; for a
commit, those of the lines staged. -/
def State.reqAddrs (s : State) (port : Nat) (r : HenReq) : List Nat :=
  if r.op = 0x7F then ((s.hen port).staged.filter fun x => x.tt == r.tt).flatMap fun x => x.at_
  else r.line :: r.at_ ++ r.ok.map (·.1) ++ match r.remote with
    | some (.acc at_ ..) | some (.stage at_ ..) => at_
    | some (.cas a ..) | some (.run a ..) | some (.read a _) | some (.write a _) | some (.count a _) => [a]
    | some (.enq hdr item ..) => [hdr, item]
    | some (.acq a _) | some (.bind a ..) | some (.rel a ..) => [a]
    | some (.commit _ tt) => ((s.hen port).staged.filter fun x => x.tt == farTt ((r.from_.map (·.1)).getD 0) tt).flatMap fun x => x.at_
    | _ => []

/-- HEN_REQUEST: on a tenant's turn the Hen of a port, with no request of that tenant in progress, takes its first request; what it lacks is
asked for. -/
def execHenRequest (port : Nat) (s : State) : Result :=
  match s.turn (henServer port) with
  | none => notEnabled "HEN_REQUEST"
  | some tenant =>
    let k := port * 256 + tenant
    let h := s.hen k
    match h.cur, h.queue with
    | none, r :: rest =>
      let sid := (s.job r.job).sid
      let need := s.reqBytes r
      if (s.reqAddrs k r).any s.migratingAt then notEnabled "HEN_REQUEST"
      else if need.all fun x => s.byteReady sid x.1 x.2 then .next ((s.setHen k { h with queue := rest }).serve k r)
      else .next (need.foldl (fun s x => s.askByte sid x.1 x.2) s)
    | _, _ => notEnabled "HEN_REQUEST"

/-- The Hens of other packages that hold lines of a timetable. -/
def State.farHens (s : State) (tt : Nat) : List Nat := ((s.farLines.filter fun x => x.tt == tt).map (·.hen)).eraseDups

/-- Commit requests of a timetable: one at every Hen that holds lines of it and has no such request yet (f06 R168). -/
def State.askCommits (s : State) (tt : Nat) : State :=
  let s := s.hens.foldl (fun s x =>
    let asked := x.2.queue.any fun r => r.op == 0x7F && r.tt == tt
    if (x.2.staged.any fun y => y.tt == tt) ∧ ¬ asked then
      s.toHen (x.1 / 256) ⟨0, 0x7F, x.1 % 256, tt, 0, 0, false, 0, 0, 0, [], [], [], none, none, 0, 0, 0⟩
    else s) s
  (s.farHens tt).foldl (fun s hen =>
    if s.awaiting (commitKey tt hen) then s else s.sendHen (commitKey tt hen) (sidOf tt 0) hen (.commit (hen % 320) tt)) s

/-- Lines of a timetable still staged at a Hen, of this package or another. -/
def State.stagedLines (s : State) (tt : Nat) : Nat :=
  s.hens.foldl (fun n x => n + x.2.staged.countP fun y => y.tt == tt) (s.farLines.countP fun x => x.tt == tt)

/-- They are discarded uncommitted (f07 R189). -/
def State.discardStaged (s : State) (tt : Nat) : State :=
  let s := s.hens.foldl (fun s x =>
    let h := s.hen x.1
    s.setHen x.1 { h with
      staged := h.staged.filter fun y => y.tt != tt, queue := h.queue.filter fun r => !(r.op == 0x7F && r.tt == tt) }) s
  let s := (s.farHens tt).foldl (fun s hen => s.sendHen (commitKey tt hen) (sidOf tt 0) hen (.discard (hen % 320) tt)) s
  { s with farLines := s.farLines.filter fun x => x.tt != tt }

/-- Another package's Hen has committed: its lines count into their sync words (f07 R199). -/
def State.committedAt (s : State) (tt hen : Nat) : State :=
  let mine := s.farLines.filter fun x => x.tt == tt && x.hen == hen
  let s := { s with farLines := s.farLines.filter fun x => !(x.tt == tt && x.hen == hen) }
  mine.foldl (fun s x => s.countAt (sidOf x.tt 0) x.sync x.n) s

/-- The answer to what a strand waits for at another package's Hen: an LDC's word, a gate, a BIND's status. -/
def State.waitReply (s : State) (sid status : Nat) (data : List Byte) : State :=
  let st := s.strand sid
  match st.wait with
  | .ldc r _ _ _ => s.setStrand sid (st.answer [.d r (BitVec.ofNat 64 (natOf (data.take 8))) true])
  | .acq a =>
    let g := s.gate a
    if s.abandons sid then s.releaseGate sid a false
    else ({ s with gates := SMap.set Gate.none s.gates a { g with holder := some sid } }).setStrand sid (st.answer [])
  | .bind r a _ =>
    let g := s.gate a
    let s := if status = 0 then { s with gates := SMap.set Gate.none s.gates a { g with live := true } } else s
    s.setStrand sid (st.answer [.d r (BitVec.ofNat 64 status) false])
  | _ => s

/-- A reply of another package's Hen to whatever asked it. -/
def State.farReply (s : State) (key status : Nat) (data : List Byte) : State :=
  let r := SMap.get Remote.none s.remotes key
  let s := { s with remotes := SMap.erase s.remotes key }
  match r.op with
  | .commit _ tt => s.committedAt tt r.hen
  | .discard .. | .rel .. | .count .. => s
  | _ => if key < 2 ^ 64 then s.jobReply key status r data else s.waitReply r.sid status data

/-! ### The private words (f18 R355..R361) -/

/-- The device address of a port address at a Hen, when the port has it. -/
def State.henAddr (s : State) (port : Nat) (v : BitVec 64) : Option Nat :=
  let p := port / 256
  let level := if p % 40 < 32 then 3 else 1
  let a := devAddr s.pkg (p / 40) level v.toNat
  if v.toNat < levelCap level ∧ henOf a = p then some a else none

/-- The line of an address is covered by the request's capability checks (f18 R339). -/
def HenReq.covers (r : HenReq) (a : Nat) : Bool :=
  r.ok.any fun x => decide (x.1 / 128 ≤ a / 128) && decide (a / 128 ≤ (x.1 + x.2 - 1) / 128)

/-- A word over a port address in register `a`: aligned to `n` and covered, or the request ends with CAPFAULT. -/
def State.henLine (s : State) (port : Nat) (a : BitVec 6) (n : Nat) (f : Nat → State) : State :=
  let h := s.hen port
  if 32 ≤ a.toNat then s.henIllegal port
  else match s.henAddr port (h.rd a.toNat), h.cur with
    | some x, some r => if x % n = 0 ∧ r.covers x then f x else s.henEnd port 0x01
    | _, _ => s.henEnd port 0x01

/-- Bytes a routine writes: counted for its job and its tenant. -/
def State.henWrite (s : State) (port a : Nat) (bytes : List Byte) : State :=
  match (s.hen port).cur with
  | some r =>
    if r.from_.isSome then
      let h := s.hen port
      let s := s.setHen port { h with cur := some { r with wrote := r.wrote + bytes.length } }
      (s.untimedWrite r.tenant (runAt a bytes)).meter r.tenant (byteMeter a true) bytes.length
    else s.jobWrite r.job (runAt a bytes)
  | none => s

/-- Bytes a routine reads, counted for its tenant. -/
def State.henCountRead (s : State) (port a n : Nat) : State :=
  match (s.hen port).cur with
  | some r => if r.from_.isSome then s.meter r.tenant (byteMeter a false) n else s.meterBytes r.tt ((List.range n).map (a + ·)) false
  | none => s

def bufBytes (rb : List (BitVec 64)) : List Byte := (List.range 16).flatMap fun i => bytesOf 8 (rb.getD i 0).toNat

def execHnext (s : State) : Result := henOnly s fun port => s.henEnd port 0

def execHldl (a : BitVec 6) (s : State) : Result :=
  henOnly s fun port => s.henLine port a 128 fun x =>
    let s := s.henCountRead port x 128
    s.setHen port { s.hen port with rb := wordsOf (s.mem.readN x 128) }

def execHstl (a : BitVec 6) (s : State) : Result :=
  henOnly s fun port => s.henLine port a 128 fun x => s.henWrite port x (bufBytes (s.hen port).rb)

def execHaddl (a : BitVec 6) (t : BitVec 12) (s : State) : Result :=
  henOnly s fun port =>
    if 2 < t.toNat then s.henIllegal port
    else s.henLine port a 128 fun x =>
      s.henWrite port x (accBytes t.toNat 128 (s.mem.readN x 128) (bufBytes (s.hen port).rb))

def execHcmp (d a b x : BitVec 6) (s : State) : Result :=
  henOnly s fun port =>
    let h := s.hen port
    let n := (h.rd b.toNat).toNat
    let addr := h.rd a.toNat
    if 32 ≤ d.toNat ∨ 32 ≤ a.toNat ∨ 32 ≤ b.toNat then s.henIllegal port
    else if n = 0 ∨ 8 < n ∨ addr.toNat % 8 ≠ 0 ∨ 128 < addr.toNat % 128 + 8 * n ∨ 16 < x.toNat + 2 * n then s.henIllegal port
    else s.henLine port a 8 fun p =>
      let old := wordsOf (s.mem.readN p (8 * n))
      let i := x.toNat
      let eq := (List.range n).all fun k => old.getD k 0 == h.buf (i + k)
      let s := s.henCountRead port p (8 * n)
      let s := if eq then s.henWrite port p ((List.range n).flatMap fun k => bytesOf 8 (h.buf (i + n + k)).toNat) else s
      let rb := (List.range 16).map fun k => if i ≤ k ∧ k < i + n then old.getD (k - i) 0 else h.buf k
      s.setHen port ({ s.hen port with rb := rb }.wd d.toNat (if eq then 1 else 0))

def execHreply (a b : BitVec 6) (s : State) : Result :=
  henOnly s fun port =>
    let h := s.hen port
    if 32 ≤ a.toNat ∨ 32 ≤ b.toNat then s.henIllegal port
    else match h.replied with
      | some _ => s
      | none => s.setHen port { h with
          replied := some ((h.rd a.toNat).toNat % 128, [h.buf 0, h.buf 1, h.buf 2, h.buf 3, h.rd b.toNat]) }

def execHstage (a b x : BitVec 6) (s : State) : Result :=
  henOnly s fun port =>
    if 2 < x.toNat ∨ 32 ≤ b.toNat then s.henIllegal port
    else s.henLine port a 128 fun p =>
      let h := s.hen port
      let tag := h.rd b.toNat
      match h.cur with
      | none => s
      | some r =>
        let sync := if r.from_.isSome then none else s.jobSync (s.job r.job)
        match s.stageLine port ⟨(List.range 128).map (p + ·), x.toNat, r.tt, tag.toNat % 2 ^ 32, tag.toNat / 2 ^ 32, r.tenant, bufBytes h.rb,
            sync⟩ with
        | some s => s.setHen port { s.hen port with cur := some { r with lines := r.lines + 1 } }
        | none => State.henEnd (s.setHen port { h with replied := none }) port 0x05

def execHcommit (a : BitVec 6) (s : State) : Result :=
  henOnly s fun port =>
    if 32 ≤ a.toNat then s.henIllegal port
    else
      let tt := ((s.hen port).rd a.toNat).toNat % 2 ^ 32
      s.commitAt port (match (s.hen port).cur with
        | some r => if r.tt % 2 ^ 32 = tt then r.tt else tt
        | none => tt)

end Sys2Proof.Machine
end

