-- ==== Sys2Proof/Machine/Goose.lean ====
section
/-! DEFINITION. The Goose: COLL, the collective of one member with its trees, reduction, marks, time-outs and membership
(f08 R217..R227, f17 R331..R335, f18 R350, R351). -/
namespace Sys2Proof.Machine

/-! ### The control block (f08 R219) -/

/-- The header as a number. -/
def State.collHeader (s : State) (sid : Nat) (c1 : Cap) (o : Nat) : Nat := natOf (s.readCap sid c1 o 64)
def hf (h lo len : Nat) : Nat := h / 2 ^ lo % 2 ^ len

/-- Bytes of the control block written by the Goose: untimed bytes of the tenant, counted where they perform (f09 R252). -/
def State.collPut (s : State) (sid : Nat) (c1 : Cap) (o at_ : Nat) (bytes : List Byte) : State :=
  let l := s.placed sid c1 (o + at_) bytes
  (s.untimedWrite (s.owner sid) l).meterBytes (ttOf sid) (l.map (·.1)) true

def collStatus (s : State) (sid : Nat) (c1 : Cap) (o v : Nat) : State := s.collPut sid c1 o 40 (bytesOf 4 v)

/-- Result bytes (f08 R219). -/
def resultLen (op len n : Nat) : Nat := if op = 2 then len / n else if op = 3 then n * len else len

/-- An order-sensitive reduction (f08 R223). -/
def orderSensitive (op red ty : Nat) (ord : Bool) : Bool := (op == 1 || op == 2) && red == 0 && ty ≤ 1 && !ord

/-! ### COLL (f18 R350, R351) -/

def execColl (d c : BitVec 5) (p : BitVec 6) (s : State) : Result :=
  strandOnly s fun sid =>
    let st := s.strand sid
    let o := (st.rd p.toNat).toNat
    if p = 0 then s.slotIllegal sid 3
    else if o % 64 ≠ 0 then s.suppress sid Code.capBound 3 1 (o % 2 ^ 48)
    else match s.capCheck sid (st.rc 1) o 64 (rightR + rightW) with
      | some code => s.suppress sid code 3 1 (o % 2 ^ 48)
      | none =>
        let n := (st.queue 4).countP fun e => match e with | .coll _ => true | _ => false
        if 64 ≤ n then s.suppressHere sid Code.gqFull 3
        else
          let h := s.collHeader sid (st.rc 1) o
          let cmd : CollCmd := ⟨0xCA#8 ++ d ++ c ++ p ++ 0#8, st.rc d.toNat, st.rc c.toNat, d.toNat, c.toNat, o, st.rt p.toNat, st.order,
            st.bundle⟩
          let s := s.modStrand sid fun st => { (st.setQueue 4 (st.queue 4 ++ [.coll cmd])) with order := st.order + 1 }
          s.modTt (ttOf sid) fun t => { t with
            member := some (t.member.getD sid),
            runProm := t.runProm && !orderSensitive (hf h 0 3) (hf h 3 2) (hf h 5 2) (hf h 7 1 == 1) }

/-! ### Spanning trees (f08 R221) -/

def LinkKey.other (e : LinkKey) (u : Nat) : Nat := if e.a = u then e.b else e.a
def LinkKey.linkAt (e : LinkKey) (u : Nat) : Nat := if e.a = u then e.ja else e.jb
def LinkKey.touches (e : LinkKey) (u : Nat) : Bool := e.a == u || e.b == u

/-- The links at u in the order the algorithm takes them. -/
def incident (u : Nat) (es : List LinkKey) : List LinkKey :=
  let before := fun (x y : LinkKey) =>
    decide (x.other u < y.other u) || (x.other u == y.other u && decide (x.linkAt u < y.linkAt u))
  sortBy before (es.filter fun e => e.touches u)

/-- One breadth-first tree: fuel is the number of members, each enters the queue once. -/
def growTree (es used : List LinkKey) : Nat → List Nat → List Nat → List LinkKey → List Nat × List LinkKey
  | 0, _, seen, t => (seen, t)
  | _, [], seen, t => (seen, t)
  | fuel + 1, u :: queue, seen, t =>
    let step := fun (acc : List Nat × List Nat × List LinkKey) (e : LinkKey) =>
      let (q, sn, tr) := acc
      if used.contains e ∨ sn.contains (e.other u) then acc else (q ++ [e.other u], sn ++ [e.other u], tr ++ [e])
    let (queue, seen, t) := (incident u es).foldl step (queue, seen, t)
    growTree es used fuel queue seen t

/-- Trees t, t + 1, … up to the eighth. -/
def packFrom (ms : List Nat) (es : List LinkKey) : Nat → Nat → List LinkKey → List (Nat × List LinkKey)
  | 0, _, _ => []
  | n + 1, t, used =>
    let root := ms.getD (t % ms.length) 0
    let (seen, tree) := growTree es used (ms.length + 1) [root] [root] []
    if seen.length < ms.length then [] else (root, tree) :: packFrom ms es n (t + 1) (used ++ tree)

def packTrees (ms : List Nat) (links : List LinkKey) : List (Nat × List LinkKey) :=
  let es := links.filter fun e => ms.contains e.a && ms.contains e.b
  match ms with
  | [m] => [(m, [])]
  | _ => packFrom ms es 8 0 []

/-- Depth-first reach from u away from `from_`, by at most n links. -/
def reach (tree : List LinkKey) : Nat → Nat → Nat → List Nat
  | 0, _, u => [u]
  | n + 1, from_, u =>
    u :: (tree.filter fun e => e.touches u && e.other u != from_).flatMap fun e => reach tree n u (e.other u)

/-- The neighbours of u in a tree, rising. -/
def neighbours (tree : List LinkKey) (u : Nat) : List Nat :=
  sortBy (fun a b => decide (a < b)) ((tree.filter fun e => e.touches u).map fun e => e.other u)

/-- The neighbour of u through which `to` is reached. -/
def towards (tree : List LinkKey) (u dest : Nat) : Option Nat :=
  (neighbours tree u).find? fun v => (reach tree tree.length u v).contains dest

/-- The link of u towards its neighbour v in a tree. -/
def linkTo (tree : List LinkKey) (u v : Nat) : Nat :=
  match tree.find? fun e => e.touches u && e.other u == v with
  | some e => e.linkAt u
  | none => 0

/-! ### One member's view -/

def chunkSize : Nat := 65536
def Coll.n (c : Coll) : Nat := c.group.members.length
def Coll.rankOf (c : Coll) (pkg : Nat) : Nat := c.group.members.idxOf pkg
def Coll.tree (c : Coll) (unit : Nat) : Nat × List LinkKey := c.trees.getD (unit % Nat.max 1 c.trees.length) (0, [])
def Coll.units (c : Coll) : Nat := (c.len + chunkSize - 1) / chunkSize
def Coll.unitLen (c : Coll) (u : Nat) : Nat := Nat.min chunkSize (c.len - u * chunkSize)
def Coll.resLen (c : Coll) : Nat := resultLen c.op c.len c.n
def Coll.chunks (c : Coll) : Nat := (c.resLen + chunkSize - 1) / chunkSize
def Coll.parent (c : Coll) (me u : Nat) : Option Nat :=
  let (root, t) := c.tree u
  if root = me then .none else towards t me root
def Coll.children (c : Coll) (me u : Nat) : List Nat :=
  (neighbours (c.tree u).2 me).filter fun v => some v != c.parent me u
/-- The sum formed by exponent and integer (f08 R224). -/
def Coll.exact (c : Coll) : Bool := c.ord && c.red == 0 && decide (c.ty ≤ 1)
def Coll.width (c : Coll) : Nat := if c.ty = 0 then 2 else 4

/-- What a message kind is numbered in the record of sent messages: digest 0 and 1, marks 2 and 3, exponents 4 and 5, partial
6, results and contributions 7 on. -/
def Coll.hasSent (c : Coll) (kind unit dest : Nat) : Bool := c.sent.contains (kind, unit, dest)

/-- A message of a timetable's collective leaves a die's Goose, which stands at router 20, by a link (f08 R204, R212). -/
def State.gooseMail (s : State) (ctx die link dest : Nat) (f : GFlit) : State :=
  s.mailBy link dest (s.tt ctx).tenant (die * 24 + 20) (.goose f)

/-- A message goes out to a neighbour in the tree of a unit; its data bytes count in COLLB (f09 R252). -/
def State.gooseSend (s : State) (ctx : Nat) (tree dest kind unit bytes : Nat) (m : GMsg) : State :=
  let c := s.coll ctx
  let link := linkTo (c.trees.getD tree (0, [])).2 s.pkg dest
  let s := s.setColl ctx { c with sent := c.sent ++ [(kind, unit, dest)] }
  (s.gooseMail ctx c.die link dest ⟨ctx, s.pkg, tree, c.group.mgen, c.no, m⟩).meterTt ctx 29 bytes

/-! ### Elements (f08 R223, R224) -/

/-- A value as exponent of its leading bit. -/
def leadExp (x : FV) : Option Int :=
  match x with
  | .fin _ m e => if m = 0 then none else some ((Nat.log2 m : Int) + e)
  | _ => none

def Coll.fmt (c : Coll) : Fmt := if c.ty = 0 then fBF16 else fF32

/-- Ceil(log2 n). -/
def clog2 (n : Nat) : Int := if n ≤ 1 then 0 else (Nat.log2 (n - 1) : Int) + 1

/-- No finite non-zero element in a block. -/
def noExp : Int := -100000

/-- The largest leading exponent of each block of 32 elements. -/
def blockExps (f : Fmt) : Nat → List Nat → List Int
  | 0, _ => []
  | n + 1, l => ((l.take 32).foldl (fun a x => match leadExp (f.decode x) with
      | some e => Max.max a e
      | none => a) noExp) :: blockExps f n (l.drop 32)

/-- The special kinds of a contribution. -/
def kindBits (x : FV) : Nat :=
  if x.isNan then 1
  else if x.isInf then (if x.neg? then 4 else 2)
  else if x.isZero then (if x.neg? then 0 else 16)
  else 8

/-- x · 2^-s rounded to an integer. -/
def scaledInt (x : FV) (s : Int) : Int :=
  match x with
  | .fin neg m e => let r := (onGrid .rne neg m e s).1; if neg then -(r : Int) else r
  | _ => 0

/-- The result of one element position. -/
def exactResult (f : Fmt) (s sum : Int) (special : Nat) : Nat :=
  if special % 2 = 1 ∨ (special / 2 % 2 = 1 ∧ special / 4 % 2 = 1) then f.nan
  else if special / 2 % 2 = 1 then f.inf false
  else if special / 4 % 2 = 1 then f.inf true
  else if special / 8 % 2 = 0 then f.zero (special / 16 % 2 == 0)
  else (roundTo f .rne .ieee (decide (sum < 0)) sum.natAbs s).1

/-- One step of the unordered combination, on F32 words for a float sum (f08 R223). -/
def combine (red ty a b : Nat) : Nat :=
  if ty = 2 then
    let x := (BitVec.ofNat 32 a).toInt
    let y := (BitVec.ofNat 32 b).toInt
    (BitVec.ofInt 32 (if red = 0 then x + y else if red = 1 then Max.max x y else Min.min x y)).toNat
  else if red = 0 then (fAdd fF32 (fF32.decode a) (fF32.decode b)).1
  else (fMinMax (if ty = 0 then fBF16 else fF32) (red == 1) a b).1

/-- Elements of bytes, and back. -/
def elemsOf (w : Nat) (l : List Byte) : List Nat :=
  (List.range (l.length / w)).map fun i => natOf ((l.drop (w * i)).take w)
def elemBytes (w : Nat) (l : List Nat) : List Byte := l.flatMap (bytesOf w)

/-- A contribution as it enters the unordered combination: a float sum widens to F32. -/
def Coll.widen (c : Coll) (x : Nat) : Nat :=
  if c.ty = 0 ∧ c.red = 0 then (convTo fF32 .rne .ieee (fBF16.decode x)).1 else x
/-- The result the root rounds. -/
def Coll.narrow (c : Coll) (x : Nat) : Nat :=
  if c.ty = 0 ∧ c.red = 0 then (convTo fBF16 .rne .ieee (fF32.decode x)).1 else x

/-- This member's elements of a unit. -/
def State.ownElems (s : State) (c : Coll) (u : Nat) : List Nat :=
  elemsOf c.width (s.readCap c.sid c.cs (c.soff + u * chunkSize) (c.unitLen u))

/-- Its bytes are counted as read (f09 R252). -/
def State.meterOwn (s : State) (ctx u : Nat) : State :=
  let c := s.coll ctx
  s.meterBytes ctx ((s.capBytes c.sid c.cs (c.soff + u * chunkSize) (c.unitLen u)).filterMap id) false

/-- The bytes of a range that cannot be read now, by the pages that decide it (f04 R103, R106, R111, R114, f07 R196). -/
def State.rangeLacks (s : State) (sid : Nat) (c : Cap) (o n : Nat) : List (Cap × Nat) :=
  ((probes o n).filter fun i => !s.byteReady sid c i).map fun i => (c, i)

/-- This member's bytes of a unit can be read. -/
def State.ownReady (s : State) (c : Coll) (u : Nat) : Bool :=
  (s.rangeLacks c.sid c.cs (c.soff + u * chunkSize) (c.unitLen u)).isEmpty

/-- Sums and kinds of two partials. -/
def addInts (a b : List Int) : List Int := a.zipIdx.map fun x => x.1 + b.getD x.2 0
def orKinds (a b : List Nat) : List Nat := a.zipIdx.map fun x => x.1 ||| b.getD x.2 0

/-- The scale of a block (f08 R224). -/
def collScale (e : Int) (n : Nat) : Int := e + clog2 n - 62

/-! ### Results -/

/-- Bytes of the result in [lo, hi) that have performed. -/
def Coll.landed (c : Coll) (lo hi : Nat) : Nat := c.done.foldl (fun n d => n + (Nat.min hi (d.1 + d.2) - Nat.max lo d.1)) 0

/-- A chunk of the result has performed whole. -/
def Coll.covered (c : Coll) (j : Nat) : Bool :=
  let lo := j * chunkSize
  let hi := Nat.min (lo + chunkSize) c.resLen
  decide (hi - lo ≤ c.landed lo hi)

/-- Bytes of the result perform. -/
def State.collLand (s : State) (ctx : Nat) (l : List (Nat × Nat × Byte)) : State :=
  let c := s.coll ctx
  let s := s.untimedWrite (s.tt ctx).tenant (l.map (·.2))
  let s := s.meterBytes ctx (l.map fun x => x.2.1) true
  let offs := runs (fun a b => b == a + 1) (l.map fun x => x.1 - c.doff)
  s.setColl ctx { c with done := c.done ++ offs.map fun r => (r.headD 0, r.length) }

/-- The Goose can read and write the control block now: what of it cannot be reached. -/
def State.blockLacks (s : State) (c : Coll) : List (Cap × Nat) := s.rangeLacks c.sid c.c1 c.o (128 + (c.chunks + 7) / 8)

/-- Chunks that have performed whole and are not marked. -/
def State.unmarked (s : State) (c : Coll) : List Nat :=
  (List.range c.chunks).filter fun j =>
    c.covered j && !(natOf (s.readCap c.sid c.c1 (c.o + 128 + j / 8) 1)).testBit (j % 8)

/-- They are marked (f08 R225). -/
def State.markAll (s : State) (ctx : Nat) : State :=
  let c := s.coll ctx
  (s.unmarked c).foldl (fun s j =>
    let b := natOf (s.readCap c.sid c.c1 (c.o + 128 + j / 8) 1)
    s.collPut c.sid c.c1 c.o (128 + j / 8) [BitVec.ofNat 8 (b ||| 2 ^ (j % 8))]) s

/-- What serving a collective's pieces does. -/
def collFx (ctx : Nat) : MoverFx where
  read _ s := s
  write l s := s.collLand ctx l
  request _ s := s

/-- A host address whose page is translated: the Goose writes it at once (f04 R103). -/
def State.hostOk (s : State) (ctx a : Nat) : Bool := s.direct a && s.pageOk (s.launchFn ctx) a

/-- A byte range of the destination outside the skipped chunks goes to its ports, in units of 32 bytes (f02 R34, f06 R150). -/
def State.collWrite (s : State) (ctx off : Nat) (bytes : List Byte) : State :=
  let c := s.coll ctx
  let kept := bytes.zipIdx.filter fun x => !c.skip.contains ((off + x.2) / chunkSize)
  let pieces := runs (fun a b => (capBase c.cd.bits + a.1) / 32 == (capBase c.cd.bits + b.1) / 32)
    (kept.map fun x => (c.doff + off + x.2, (none : Option Nat), x.1))
  let seat := c.die * 24 + 20
  pieces.foldl (fun s p =>
    s.moveOn ⟨.coll ctx, (s.tt ctx).tenant, .dest, seat, [serverOf 0x08 seat], p⟩ (collFx ctx) s.direct (s.hostOk ctx)) s

/-- The marks of this member. -/
def State.collMarks (s : State) (c : Coll) : List Bool :=
  let bytes := s.readCap c.sid c.c1 (c.o + 128) ((c.chunks + 7) / 8)
  (List.range c.chunks).map fun j => (bytes.getD (j / 8) 0).getLsbD (j % 8)

/-- Ranges of a member's share in a unit of REDSC: offset in the contribution and length. -/
def Coll.shareIn (c : Coll) (m u : Nat) : Nat × Nat :=
  let share := c.len / Nat.max 1 c.n
  let lo := Nat.max (m * share) (u * chunkSize)
  let hi := Nat.min ((m + 1) * share) (u * chunkSize + c.unitLen u)
  (lo, hi - lo)

/-- A unit lies wholly in chunks that every member has marked: for ALLRED and BCAST its own, for REDSC every share's, for
ALLGATH those member m's part lands in. -/
def Coll.skips (c : Coll) (m u : Nat) : Bool :=
  let inSkip := fun (lo n : Nat) =>
    (List.range ((lo + n + chunkSize - 1) / chunkSize - lo / chunkSize)).all fun i => c.skip.contains (lo / chunkSize + i)
  if c.op = 2 then
    (List.range c.n).all fun r => let (lo, n) := c.shareIn r u; n = 0 || inSkip (lo - r * (c.len / Nat.max 1 c.n)) n
  else if c.op = 3 then inSkip (m * c.len + u * chunkSize) (c.unitLen u)
  else c.skip.contains u

/-! ### One piece of work of the Goose (f08 R220, R222..R225) -/

/-- The first message of the inbox that `f` reads. -/
def Coll.got {α : Type} (c : Coll) (from_ : Nat) (f : GMsg → Option α) : Option α :=
  c.inbox.findSome? fun x => if x.1 = from_ then f x.2.2 else .none

/-- Messages of all of a list of neighbours, in its order; none while one is missing. -/
def Coll.gotAll {α : Type} (c : Coll) (from_ : List Nat) (f : GMsg → Option α) : Option (List α) :=
  from_.mapM fun p => c.got p f

/-- A member finishes a collective with a status: header fields first, then the signal (f17 R331). -/
def State.collEnd (s : State) (ctx status : Nat) : State :=
  let c := s.coll ctx
  let done := (s.collMarks c).countP id
  let s := s.collPut c.sid c.c1 c.o 44 (bytesOf 4 done)
  let s := collStatus s c.sid c.c1 c.o status
  let s := s.setColl ctx Coll.none
  let s := s.modStrand c.sid fun st => (st.setQueue 4 ((st.queue 4).drop 1)).settleMarkers
  s.signal c.sid c.ssem 1 (if status = 0 then none else some status) c.bundle

/-- A collective refused before it moves a byte: STATUS, and CURGEN for GENOLD. -/
def State.collRefuse (s : State) (sid bundle : Nat) (c1 : Cap) (o ssem status : Nat) (cur : Option Nat) : State :=
  let s := match cur with
    | some g => s.collPut sid c1 o 48 (bytesOf 4 g)
    | none => s
  let s := collStatus s sid c1 o status
  let s := s.modStrand sid fun st => (st.setQueue 4 ((st.queue 4).drop 1)).settleMarkers
  s.signal sid ssem 1 (some status) bundle

/-- The collective starts: LOST is cleared and, with RESUME = 0, the marks; a refused one leaves both (f17 R331). -/
def State.collOpen (s : State) (ctx : Nat) : State :=
  let c := s.coll ctx
  let s := s.collPut c.sid c.c1 c.o 64 (List.replicate 64 0)
  let s := if c.resume then s else s.collPut c.sid c.c1 c.o 128 (List.replicate ((c.chunks + 7) / 8) 0)
  s.setColl ctx { c with agreed := true }

/-- The header digest (f08 R220). -/
def Coll.digest (c : Coll) : List Nat := [c.op, c.red, c.ty, b2n c.ord, c.len, c.root, b2n c.resume]

/-- The exchange of digests over tree 0; a mismatch travels as the empty digest. -/
def State.digestStep (s : State) (ctx : Nat) : Option State :=
  let c := s.coll ctx
  let me := s.pkg
  let kids := c.children me 0
  let read := fun (up : Bool) (m : GMsg) => match m with
    | .digest w u => if u = up then some w else none
    | _ => none
  let tell := fun (s : State) (w : List Nat) =>
    let s := kids.foldl (fun s k => s.gooseSend ctx 0 k 1 0 0 (.digest w false)) s
    if w.isEmpty then (let c := s.coll ctx; (s.setColl ctx Coll.none).collRefuse c.sid c.bundle c.c1 c.o c.ssem 0x13 none)
    else s.collOpen ctx
  if ¬ (s.blockLacks c).isEmpty then none
  else match c.parent me 0 with
  | none => (c.gotAll kids (read true)).map fun l => tell s (if l.all (· == c.digest) then c.digest else [])
  | some p =>
    match c.got p (read false) with
    | some w => some (tell s w)
    | none =>
      if c.hasSent 0 0 p then none
      else (c.gotAll kids (read true)).map fun l =>
        s.gooseSend ctx 0 p 0 0 0 (.digest (if l.all (· == c.digest) then c.digest else []) true)

/-- The AND of the marks over tree 0. -/
def State.marksStep (s : State) (ctx : Nat) : Option State :=
  let c := s.coll ctx
  let me := s.pkg
  let kids := c.children me 0
  let read := fun (up : Bool) (m : GMsg) => match m with
    | .marks w u => if u = up then some w else none
    | _ => none
  let and_ := fun (l : List (List Bool)) =>
    l.foldl (fun a b => a.zipIdx.map fun x => x.1 && b.getD x.2 false) (s.collMarks c)
  let tell := fun (s : State) (w : List Bool) =>
    let s := kids.foldl (fun s k => s.gooseSend ctx 0 k 3 0 0 (.marks w false)) s
    let skip := (List.range w.length).filter fun j => w.getD j false
    let c := s.coll ctx
    s.setColl ctx { c with merged := true, skip := skip, done := c.done ++ skip.map fun j => (j * chunkSize, chunkSize) }
  match c.parent me 0 with
  | none => (c.gotAll kids (read true)).map fun l => tell s (and_ l)
  | some p =>
    match c.got p (read false) with
    | some w => some (tell s w)
    | none =>
      if c.hasSent 2 0 p then none
      else (c.gotAll kids (read true)).map fun l => s.gooseSend ctx 0 p 2 0 0 (.marks (and_ l) true)

/-- Sends to those of a list that have not had the message. -/
def State.sendOn (s : State) (ctx tree : Nat) (dest : List Nat) (kind unit bytes : Nat) (m : GMsg) : State :=
  dest.foldl (fun s v => if (s.coll ctx).hasSent kind unit v then s else s.gooseSend ctx tree v kind unit bytes m) s

/-- The finished elements of a unit at its root: broadcast for ALLRED, sent to the owners for REDSC. -/
def State.rootResult (s : State) (ctx u : Nat) (bytes : List Byte) : State :=
  let c := s.coll ctx
  let me := s.pkg
  let t := u % Nat.max 1 c.trees.length
  if c.op = 1 then
    (s.sendOn ctx t (c.children me u) 7 u bytes.length (.result u bytes)).collWrite ctx (u * chunkSize) bytes
  else
    (List.range c.n).foldl (fun s m =>
      let (lo, n) := c.shareIn m u
      let part := (bytes.drop (lo - u * chunkSize)).take n
      if n = 0 then s
      else if c.group.members.getD m 0 = me then s.collWrite ctx (lo - m * (c.len / Nat.max 1 c.n)) part
      else match towards (c.tree u).2 me (c.group.members.getD m 0) with
        | some v => s.sendOn ctx t [v] (8 + m) u n (.contrib m u part)
        | none => s) s

/-- Marks the reduction of a unit as done at this vertex, its source bytes as read. -/
def State.unitReduced (s : State) (ctx u : Nat) : State :=
  let c := s.coll ctx
  (s.meterOwn ctx u).setColl ctx { c with sent := c.sent ++ [(6, u, 2 ^ 20)] }

/-- The exponents of a unit, agreed up and down its tree (f08 R224). -/
def Coll.unitExps (c : Coll) (me u : Nat) (own : List Int) : Option (List Int) :=
  let up := c.gotAll (c.children me u) fun m => match m with
    | .expo k w true => if k = u then some w else .none
    | _ => .none
  match c.parent me u with
  | .none => up.map fun l => l.foldl (fun a b => a.zipIdx.map fun x => Max.max x.1 (b.getD x.2 noExp)) own
  | some p => c.got p fun m => match m with
    | .expo k w false => if k = u then some w else .none
    | _ => .none

/-- A reducing unit moves one step on at this vertex. -/
def State.reduceStep (s : State) (ctx u : Nat) : Option State :=
  let c := s.coll ctx
  let me := s.pkg
  let t := u % Nat.max 1 c.trees.length
  let kids := c.children me u
  let parent := c.parent me u
  if c.hasSent 6 u (2 ^ 20) ∨ s.ownReady c u = false then none
  else
    let xs := s.ownElems c u
    let parts := c.gotAll kids fun m => match m with
      | .partial_ k w sp => if k = u then some (w, sp) else none
      | _ => none
    if c.exact then
      let own := blockExps c.fmt ((xs.length + 31) / 32) xs
      let upExps := c.gotAll kids fun m => match m with
        | .expo k w true => if k = u then some w else none
        | _ => none
      match c.unitExps me u own, parent, upExps with
      | none, some p, some l =>
        if c.hasSent 4 u p then none
        else
          let w := l.foldl (fun a b => a.zipIdx.map fun x => Max.max x.1 (b.getD x.2 noExp)) own
          some (s.gooseSend ctx t p 4 u w.length (.expo u w true))
      | none, _, _ => none
      | some w, _, _ =>
        if kids.any fun v => !c.hasSent 5 u v then some (s.sendOn ctx t kids 5 u w.length (.expo u w false))
        else parts.map fun l =>
          let mine := xs.zipIdx.map fun x => scaledInt (c.fmt.decode x.1) (collScale (w.getD (x.2 / 32) 0) c.n)
          let kinds := xs.map fun x => kindBits (c.fmt.decode x)
          let sum := l.foldl (fun a b => addInts a b.1) mine
          let sp := l.foldl (fun a b => orKinds a b.2) kinds
          match parent with
          | some p => (s.gooseSend ctx t p 6 u (8 * sum.length) (.partial_ u sum sp)).unitReduced ctx u
          | none =>
            let out := sum.zipIdx.map fun x =>
              exactResult c.fmt (collScale (w.getD (x.2 / 32) 0) c.n) x.1 (sp.getD x.2 0)
            (s.unitReduced ctx u).rootResult ctx u (elemBytes c.width out)
    else parts.map fun l =>
      let mine := xs.map c.widen
      let sum := l.foldl (fun a b => a.zipIdx.map fun x => combine c.red c.ty x.1 ((b.1.getD x.2 0).toNat)) mine
      match parent with
      | some p =>
        let w := if c.ty = 0 ∧ c.red = 0 then 4 else c.width
        (s.gooseSend ctx t p 6 u (w * sum.length) (.partial_ u (sum.map fun n : Nat => (n : Int)) [])).unitReduced ctx u
      | none => (s.unitReduced ctx u).rootResult ctx u (elemBytes c.width (sum.map c.narrow))

/-- What arrived for this member and its neighbours: a result is written and forwarded, a contribution too. -/
def State.forwardStep (s : State) (ctx : Nat) (x : Nat × Nat × GMsg) : Option State :=
  let c := s.coll ctx
  let me := s.pkg
  let k := Nat.max 1 c.trees.length
  match x.2.2 with
  | .result u bytes =>
    if c.hasSent 7 u (2 ^ 20) then none
    else
      let s := s.sendOn ctx (u % k) (c.children me u) 7 u bytes.length (.result u bytes)
      let c := s.coll ctx
      some ((s.setColl ctx { c with sent := c.sent ++ [(7, u, 2 ^ 20)] }).collWrite ctx (u * chunkSize) bytes)
  | .contrib m u bytes =>
    if c.hasSent (8 + m) u (2 ^ 20) then none
    else
      let c' := { c with sent := c.sent ++ [(8 + m, u, 2 ^ 20)] }
      let s := s.setColl ctx c'
      if c.op = 2 then
        let owner := c.group.members.getD m 0
        if owner = me then some (s.collWrite ctx ((c.shareIn m u).1 - m * (c.len / Nat.max 1 c.n)) bytes)
        else (towards (c.tree u).2 me owner).map fun v => s.sendOn ctx (u % k) [v] (8 + m) u bytes.length (.contrib m u bytes)
      else
        let others := (neighbours (c.tree u).2 me).filter (· != x.1)
        let s := s.sendOn ctx (u % k) others (8 + m) u bytes.length (.contrib m u bytes)
        some (s.collWrite ctx ((if c.op = 3 then m * c.len else 0) + u * chunkSize) bytes)
  | _ => none

/-- This member's own contribution to ALLGATH, or the sender's to BCAST. -/
def State.ownStep (s : State) (ctx u : Nat) : Option State :=
  let c := s.coll ctx
  let me := s.pkg
  let m := c.rankOf me
  if (c.op = 4 ∧ m ≠ c.root) ∨ c.hasSent (8 + m) u (2 ^ 20) ∨ s.ownReady c u = false then none
  else
    let bytes := s.readCap c.sid c.cs (c.soff + u * chunkSize) (c.unitLen u)
    let s := (s.meterOwn ctx u).setColl ctx { c with sent := c.sent ++ [(8 + m, u, 2 ^ 20)] }
    let s := s.sendOn ctx (u % Nat.max 1 c.trees.length) (neighbours (c.tree u).2 me) (8 + m) u bytes.length
      (.contrib m u bytes)
    some (s.collWrite ctx ((if c.op = 3 then m * c.len else 0) + u * chunkSize) bytes)

/-- The bytes of the result, as ranges, that this member gets by a unit. -/
def Coll.unitRanges (c : Coll) (me u : Nat) : List (Nat × Nat) :=
  let m := c.rankOf me
  let lo := u * chunkSize
  if c.op = 2 then (let (a, n) := c.shareIn m u; [(a - m * (c.len / Nat.max 1 c.n), n)])
  else if c.op = 3 then (List.range c.n).map fun r => (r * c.len + lo, c.unitLen u)
  else [(lo, c.unitLen u)]

/-- What a unit brings this member has performed. -/
def Coll.unitHere (c : Coll) (me u : Nat) : Bool :=
  (c.unitRanges me u).all fun x => decide (x.2 ≤ c.landed x.1 (x.1 + x.2))

/-- This member has put its part of a unit on the way. -/
def Coll.unitSent (c : Coll) (me u : Nat) : Bool :=
  if c.op ≤ 2 then c.hasSent 6 u (2 ^ 20) else c.hasSent (8 + c.rankOf me) u (2 ^ 20)

/-- Later units of the tree wait for this one to be over. -/
def Coll.paced (c : Coll) (u : Nat) : Bool := decide (u + 4 * Nat.max 1 c.trees.length < c.units)

/-- This member has nothing left to do for a unit. -/
def Coll.unitDone (c : Coll) (me u : Nat) : Bool :=
  c.unitHere me u && (c.unitSent me u || c.skips (c.rankOf me) u || (c.op == 4 && c.rankOf me != c.root))

/-- Neighbours in the tree of a unit that have not said that it is over with them. -/
def Coll.notHere (c : Coll) (me u : Nat) : List Nat :=
  (neighbours (c.tree u).2 me).filter fun v => !(c.inbox.any fun x => x.1 == v && x.2.2 == .here u)

/-- A unit is over: it is done here, and at every other member. How a Goose learns that is not said: the Geese tell each other along the tree
(DESIGN CHOICE, log entry 167). The last four units of a tree hold nothing up, and are over when they are done here. -/
def Coll.unitOver (c : Coll) (me u : Nat) : Bool := c.unitDone me u && (!c.paced u || (c.notHere me u).isEmpty)

/-- The neighbours to tell that a unit is over on this side: every other one has said so. -/
def Coll.tellHere (c : Coll) (me u : Nat) : List Nat :=
  if c.paced u ∧ c.unitDone me u then
    (neighbours (c.tree u).2 me).filter fun v => !c.hasSent 1024 u v && (c.notHere me u).all (· == v)
  else []

/-- A unit still to be worked on, at most four in flight on a tree: on the way, and not over (f08 R222). -/
def Coll.openUnits (c : Coll) (me : Nat) : List Nat :=
  let m := c.rankOf me
  let all := (List.range c.units).filter fun u => !c.skips m u
  let left := all.filter fun u => !c.unitSent me u && !(c.op == 4 && m != c.root)
  let flying := all.filter fun u => c.unitSent me u && !c.unitOver me u
  let k := Nat.max 1 c.trees.length
  left.filter fun u =>
    decide ((left.countP fun v => v % k == u % k && decide (v < u)) + (flying.countP fun v => v % k == u % k) < 4)

/-- Every unit this member has a part in is on the way. -/
def Coll.allSent (c : Coll) (me : Nat) : Bool :=
  (List.range c.units).all fun u => c.skips (c.rankOf me) u || c.unitSent me u || (c.op == 4 && c.rankOf me != c.root)

/-- One piece of work of a collective; none while it waits. -/
def State.collStep (s : State) (ctx : Nat) : Option State :=
  let c := s.coll ctx
  if c.live = false ∨ c.ending.isSome then none
  else if c.agreed = false then s.digestStep ctx
  else if c.resume ∧ c.merged = false then s.marksStep ctx
  else if ¬ (s.unmarked c).isEmpty ∧ (s.blockLacks c).isEmpty then some (s.markAll ctx)
  else
    let fwd := c.inbox.findSome? fun x => s.forwardStep ctx x
    match fwd with
    | some s => some s
    | none =>
      match ((List.range c.units).flatMap fun u => (c.tellHere s.pkg u).map fun v => (u, v)) with
      | (u, v) :: _ => some (s.gooseSend ctx (u % Nat.max 1 c.trees.length) v 1024 u 0 (.here u))
      | [] => (c.openUnits s.pkg).findSome? fun u => if c.op ≤ 2 then s.reduceStep ctx u else s.ownStep ctx u

/-- Every byte of the result has performed here, and nothing is left to send on. -/
def State.collFinished (s : State) (ctx : Nat) : Bool :=
  let c := s.coll ctx
  c.live && c.ending.isNone && ((List.range c.units).all fun u => !c.paced u || (neighbours (c.tree u).2 s.pkg).all (c.hasSent 1024 u)) && c.agreed && (!c.resume || c.merged) && c.allSent s.pkg && (s.collStep ctx).isNone &&
    (s.opsOf (.coll ctx)).isEmpty && (List.range c.chunks).all c.covered

/-- What a collective's next units lack of their source. -/
def State.collLacks (s : State) (ctx : Nat) : List (Cap × Nat) :=
  let c := s.coll ctx
  let own := if c.live ∧ c.agreed ∧ c.ending.isNone then
    (c.openUnits s.pkg).flatMap fun u => s.rangeLacks c.sid c.cs (c.soff + u * chunkSize) (c.unitLen u) else []
  if c.live then own ++ s.blockLacks c else []

/-- Its pieces that wait for a host page, and that page's address. -/
def State.collHosts (s : State) (ctx : Nat) : List (PortOp × Nat) :=
  (s.opsOf (.coll ctx)).filterMap fun p => match s.opAt p with
    | some a => if s.direct a then some (p, a) else none
    | none => none

/-- A piece to the host goes on once its page is translated; until then the page is asked for (f04 R103). -/
def State.hostGo (s : State) (ctx : Nat) (x : PortOp × Nat) : State :=
  if s.hostOk ctx x.2 then { s with ports := s.ports.erase x.1 }.moveOn x.1 (collFx ctx) s.direct (s.hostOk ctx)
  else s.askPage (s.launchFn ctx) (x.2 % 2 ^ 57 / 4096)

/-- The Goose of a die on a tenant's turn: one piece of work of the first collective of the tenant that has one; where none has, what they
lack is asked for, and pieces whose bytes are not there, or are the host's, are seen to. -/
def State.gooseTurn (s : State) (die tenant : Nat) : Option State :=
  let mine := (SMap.keys s.colls).filter fun ctx => (s.coll ctx).die == die && (s.tt ctx).tenant == tenant
  match mine.findSome? s.collStep with
  | some s => some s
  | none =>
    let lacks := mine.flatMap fun ctx => (s.collLacks ctx).map fun x => ((s.coll ctx).sid, x)
    let lost := mine.flatMap fun ctx => (s.opsOf (.coll ctx)).filter fun p => (s.opAt p).isNone
    let hosts := mine.flatMap fun ctx => (s.collHosts ctx).map fun x => (ctx, x)
    if lacks.isEmpty ∧ lost.isEmpty ∧ hosts.isEmpty then none
    else
      let s := lost.foldl State.nudge (lacks.foldl (fun s x => s.askByte x.1 x.2.1 x.2.2) s)
      some (hosts.foldl (fun s x => s.hostGo x.1 x.2) s)

/-! ### The steps of a collective -/

/-- Live collectives of a tenant at a die's Goose (f08 R227). -/
def State.contexts (s : State) (die tenant : Nat) : Nat :=
  (SMap.keys s.colls).countP fun ctx => (s.coll ctx).live && (s.coll ctx).die == die && (s.tt ctx).tenant == tenant

/-- The values of a header that R220 refuses. -/
def headerBad (h n : Nat) : Bool :=
  let len := hf h 64 64
  let op := hf h 0 3
  op == 0 || decide (4 < op) || hf h 3 2 == 3 || hf h 5 2 == 3 || hf h 17 15 != 0 || hf h 304 16 != 0 || hf h 416 96 != 0 ||
    hf h 256 32 == 0 || len == 0 || len % 128 != 0 || decide (2 ^ 36 < len) || (op == 2 && len % (128 * n) != 0) ||
    (op == 4 && decide (n ≤ hf h 288 16))

/-- The group of a timetable; one that lies in one package has this package alone (f18 R350). -/
def State.groupOf (s : State) (tt : Nat) : Group := ((s.tt tt).group).getD ⟨1, [s.pkg], [], s.lgen⟩

/-- Source bytes that overlap destination bytes otherwise than in place (f17 R334). -/
def badOverlap (cd cs : Cap) (op soff slen doff dlen : Nat) : Bool :=
  let same := cd.win == cs.win && (cd.win || (capObj cd.bits == capObj cs.bits && capTid cd.bits == capTid cs.bits))
  let a := capBase cs.bits + soff
  let b := capBase cd.bits + doff
  same && decide (slen ≠ 0) && decide (a < b + dlen) && decide (b < a + slen) && !(op == 1 && cd == cs && soff == doff)

/-- An aborting member whose last bytes have performed ends: LOST gains the silent set, STATUS says why. One that aborts before the header is
agreed has started all the same: LOST and, with RESUME = 0, the marks are cleared first (f17 R331). -/
def State.collDrain (s : State) (ctx : Nat) : State :=
  let c := s.coll ctx
  match c.ending with
  | some (status, lost) =>
    if ¬ (s.opsOf (.coll ctx)).isEmpty ∨ ¬ (s.blockLacks c).isEmpty then s
    else
      let s := if c.agreed then s else s.collOpen ctx
      let s := s.markAll ctx
      let old := natOf (s.readCap c.sid c.c1 (c.o + 64) 64)
      (s.collPut c.sid c.c1 c.o 64 (bytesOf 64 (old ||| lost))).collEnd ctx status
  | none => s

/-- The results that have arrived perform before an aborting member stops (f08 R225). -/
def State.landArrived (s : State) (ctx : Nat) : State :=
  (s.coll ctx).inbox.foldl (fun s x => (s.forwardStep ctx x).getD s) s

/-- A member aborts: it takes no new chunk, and the next COLL of the group waits (f17 R333). -/
def State.collAbort (s : State) (ctx status lost : Nat) : State :=
  let s := if (s.coll ctx).agreed then s.landArrived ctx else s
  let s := s.modTt ctx fun t => { t with aborted := true, silent := t.silent ||| lost }
  let c := s.coll ctx
  let was := c.ending.getD (status, 0)
  (s.setColl ctx { c with ending := some (was.1, was.2 ||| lost) }).collDrain ctx

/-- The silent set of an ABORT. -/
def GFlit.abortSet (f : GFlit) : Option Nat :=
  match f.msg with
  | .abort _ lost => some lost
  | _ => none

/-- COLL_START: the Goose takes the command at the head of a strand's GQ (f18 R350, R351, f08 R218..R221). -/
def execCollStart (sid : Nat) (s : State) : Result :=
  let st := s.strand sid
  let ctx := ttOf sid
  let t := s.tt ctx
  let die := (s.placeOfStrand sid).die
  match st.queue 4 with
  | .coll cmd :: _ =>
    let c1 := st.rc 1
    let lacks := s.rangeLacks sid c1 cmd.o 64
    if (s.coll ctx).live ∨ 16 ≤ s.contexts die t.tenant ∨ (t.aborted ∧ t.member = some sid) then notEnabled "COLL_START"
    else if ¬ lacks.isEmpty then .next (lacks.foldl (fun s x => s.askByte sid x.1 x.2) s)
    else
      let h := s.collHeader sid c1 cmd.o
      let s := s.meterBytes ctx ((s.capBytes sid c1 cmd.o 64).filterMap id) false
      let g := s.groupOf ctx
      let n := g.members.length
      let ssem := hf h 8 8
      let len := hf h 64 64
      let op := hf h 0 3
      let soff := hf h 128 64
      let doff := hf h 192 64
      let rlen := resultLen op len n
      let marks := ((rlen + chunkSize - 1) / chunkSize + 7) / 8
      let s := if (s.semKey sid ssem).isNone then s.fault sid Code.semRange 3 0 cmd.bundle else s
      let refuse := fun (s : State) (status : Nat) (cur : Option Nat) => Host.Outcome.next (s.collRefuse sid cmd.bundle c1 cmd.o ssem status cur)
      if t.member ≠ some sid then refuse s 0x13 none
      else
        let bad := [(c1, 1, cmd.o, 128 + marks, rightR + rightW), (cmd.cs, cmd.ks, soff, len, rightR),
          (cmd.cd, cmd.kd, doff, rlen, rightW)].findSome? fun x =>
            (if x.2.2.2.2 = rightR then s.readCheck sid x.1 x.2.2.1 x.2.2.2.1 x.2.2.2.2
             else s.writeCheck sid x.1 x.2.2.1 x.2.2.2.1 x.2.2.2.2).map fun code => (code, x.2.1, x.2.2.1)
        match bad with
        | some (code, creg, off) => refuse (s.fault sid code 3 creg (off % 2 ^ 48)) 0x01 none
        | none =>
          if hf h 32 32 ≠ g.mgen % 2 ^ 32 then refuse s 0x11 (some g.mgen)
          else
            let trees := packTrees g.members g.links
            let slen := if op = 4 ∧ g.members.idxOf s.pkg ≠ hf h 288 16 then 0 else len
            if headerBad h n ∨ badOverlap cmd.cd cmd.cs op soff slen doff rlen then refuse s 0x13 none
            else if trees.isEmpty then refuse s 0x12 none
            else
              let c : Coll := { Coll.none with
                live := true, sid := sid, bundle := cmd.bundle, die := die, cd := cmd.cd, cs := cmd.cs, c1 := c1, o := cmd.o, op := op,
                red := hf h 3 2, ty := hf h 5 2, ord := hf h 7 1 == 1, ssem := ssem, len := len, soff := soff, doff := doff,
                root := hf h 288 16, tmo := hf h 256 32, resume := hf h 16 1 == 1, group := g, trees := trees,
                no := t.collNo,
                inbox := (t.early.filter fun f => f.mgen == g.mgen && f.no == t.collNo && f.abortSet.isNone).map fun f => (f.pkg, f.tree, f.msg),
                agreed := false, began := s.gclk.toNat, held := s.gclk.toNat }
              let s := s.modTt ctx fun t => { t with
                runProm := t.runProm && !orderSensitive op (hf h 3 2) (hf h 5 2) (hf h 7 1 == 1),
                collNo := t.collNo + 1,
                early := t.early.filter fun f => decide (g.mgen < f.mgen) || (f.mgen == g.mgen && decide (t.collNo < f.no)) }
              let s := s.setColl ctx c
              let early := t.early.filterMap fun f => if f.mgen = g.mgen ∧ f.no = t.collNo then f.abortSet else none
              .next (if n = 1 then s.collOpen ctx
                else if early.isEmpty then s else s.collAbort ctx 0x10 (early.foldl (· ||| ·) 0))
  | _ => notEnabled "COLL_START"

/-- COLL_COMPLETE: also of one that aborts, when its last bytes have performed. -/
def execCollComplete (ctx : Nat) (s : State) : Result :=
  let c := s.coll ctx
  if c.ending.isSome then
    (if (s.opsOf (.coll ctx)).isEmpty ∧ (s.blockLacks c).isEmpty then .next (s.collDrain ctx) else notEnabled "COLL_COMPLETE")
  else if s.collFinished ctx ∧ (s.blockLacks c).isEmpty then .next (s.collEnd ctx 0) else notEnabled "COLL_COMPLETE"

/-- A message to every neighbour on every tree, but to those behind a stop bit of the tenant where it is a HOLD (f08 R212). -/
def State.gooseAll (s : State) (ctx die mgen no : Nat) (trees : List (Nat × List LinkKey)) (m : GMsg) : State :=
  trees.zipIdx.foldl (fun s t =>
    ((neighbours t.1.2 s.pkg).filter fun v => m != .hold || !s.stopFor (s.tt ctx).tenant v).foldl (fun s v =>
      s.gooseMail ctx die (linkTo t.1.2 s.pkg v) v ⟨ctx, s.pkg, t.2, mgen, no, m⟩) s) s

/-- ABORT to every neighbour on every tree. -/
def State.sendAborts (s : State) (ctx lost : Nat) : State :=
  let c := s.coll ctx
  s.gooseAll ctx c.die c.group.mgen c.no c.trees (.abort c.group.mgen lost)

/-- Tree neighbours whose message of the exchange over tree 0 is still to come: those below, then the one above. -/
def Coll.owesExchange (c : Coll) (me : Nat) (up down : GMsg → Bool) : List Nat :=
  let missing := fun (f : GMsg → Bool) (p : Nat) => !(c.inbox.any fun x => x.1 == p && f x.2.2)
  let kids := (c.children me 0).filter (missing up)
  if kids.isEmpty then (c.parent me 0).toList.filter (missing down) else kids

/-- Tree neighbours whose flit of a unit is still to come. -/
def Coll.owesUnit (c : Coll) (me u : Nat) : List Nat :=
  let missing := fun (f : GMsg → Bool) (p : Nat) => !(c.inbox.any fun x => x.1 == p && f x.2.2)
  let toward := fun (m : Nat) => (towards (c.tree u).2 me (c.group.members.getD m 0)).toList
  if c.unitHere me u ∧ (c.op > 2 ∨ c.unitSent me u) then (if c.paced u then c.notHere me u else [])
  else if c.op ≤ 2 then
    let partials := (c.children me u).filter (missing fun m => match m with | .partial_ k _ _ => k == u | _ => false)
    let exps := (c.children me u).filter (missing fun m => match m with | .expo k _ true => k == u | _ => false)
    let above := (c.parent me u).toList
    if c.unitSent me u then above
    else if c.exact ∧ ¬ exps.isEmpty then exps
    else if c.exact ∧ ¬ above.isEmpty ∧ ¬ (above.filter (missing fun m => match m with | .expo k _ false => k == u | _ => false)).isEmpty then above
    else partials
  else if c.op = 3 then
    (List.range c.n).flatMap fun m =>
      let lo := m * c.len + u * chunkSize
      if c.landed lo (lo + c.unitLen u) < c.unitLen u then toward m else []
  else toward c.root

/-- Tree neighbours whose flit the member waits for, whatever else it works on (f08 R225, f17 R332). -/
def State.collWaits (s : State) (ctx : Nat) : List Nat :=
  let c := s.coll ctx
  let me := s.pkg
  if c.live = false ∨ c.ending.isSome ∨ s.collFinished ctx then []
  else if c.agreed = false then
    c.owesExchange me (fun m => match m with | .digest _ true => true | _ => false) (fun m => match m with | .digest _ false => true | _ => false)
  else if c.resume ∧ c.merged = false then
    c.owesExchange me (fun m => match m with | .marks _ true => true | _ => false) (fun m => match m with | .marks _ false => true | _ => false)
  else (((List.range c.units).filter fun u => !c.skips (c.rankOf me) u).flatMap fun u => c.owesUnit me u).eraseDups

/-- A neighbour that a collective waits for has sent nothing for TIMEOUT · 1024 gcy. -/
def State.collSilent (s : State) (ctx pkg : Nat) : Bool :=
  let c := s.coll ctx
  let since := match c.heard.find? fun x => x.1 == pkg with
    | some x => x.2
    | none => c.began
  decide (since + c.tmo * 1024 ≤ s.gclk.toNat)

/-- COLL_TIMEOUT: nothing from a neighbour for TIMEOUT · 1024 gcy; every neighbour silent so long is named. -/
def execCollTimeout (ctx pkg : Nat) (s : State) : Result :=
  let c := s.coll ctx
  let waits := s.collWaits ctx
  if c.live ∧ waits.contains pkg ∧ s.collSilent ctx pkg then
    let lost := (waits.filter (s.collSilent ctx)).foldl (fun n p => n ||| 2 ^ c.rankOf p) 0
    .next ((s.sendAborts ctx lost).collAbort ctx 0x10 lost)
  else notEnabled "COLL_TIMEOUT"

/-- ABORT: forwarded once, its silent set taken into LOST. A member whose COLL has not come to its Goose yet forwards it too, and keeps the
silent set for that. One that names another generation does nothing (DEDUCED, log entry 34). -/
def execAbort (ctx pkg mgen lost : Nat) (s : State) : Result :=
  let c := s.coll ctx
  let t := s.tt ctx
  let g := s.groupOf ctx
  if c.live then
    (if c.group.mgen ≠ mgen ∨ ¬ c.group.members.contains pkg then .next s
     else if c.ending.isSome then .next (s.collAbort ctx 0x10 lost)
     else .next ((s.sendAborts ctx lost).collAbort ctx 0x10 lost))
  else if t.life = 0 ∨ t.aborted ∨ g.mgen ≠ mgen ∨ ¬ g.members.contains pkg then .next s
  else
    let known := t.early.any fun f => f.mgen == mgen && f.no == t.collNo && f.abortSet.isSome
    let s := s.setTt ctx { t with early := t.early ++ [⟨ctx, pkg, 0, mgen, t.collNo, .abort mgen lost⟩] }
    .next (if known then s else s.gooseAll ctx (s.placeOfStrand (t.member.getD (sidOf ctx 0))).die mgen t.collNo (packTrees g.members g.links)
      (.abort mgen lost))

/-- A tree link has left the live link table (f08 R225): every collective over it aborts, LOST unchanged. -/
def State.linkGone (s : State) (key : LinkKey) : State :=
  (SMap.keys s.colls).foldl (fun s ctx =>
    if (s.coll ctx).live ∧ ((s.coll ctx).trees.any fun t => t.2.contains key) then s.collAbort ctx 0x14 0 else s) s

/-- A collective one of whose host pages the host has refused aborts with HOSTPAGE (f04 R103). -/
def State.collRefused (s : State) (ctx : Nat) : State :=
  let c := s.coll ctx
  let fn := s.launchFn ctx
  let pages : List Nat := s.pagesOf c.sid (s.collLacks ctx) ++ (s.collHosts ctx).map fun x => x.2 % 2 ^ 57 / 4096
  let bad : List Nat := pages.filter fun p => (s.func fn).refused.contains p
  if c.live = false ∨ c.ending.isSome ∨ bad.isEmpty then s
  else
    let f := s.func fn
    let s := s.setFunc fn { f with refused := f.refused.filter fun p => !bad.contains p }
    let hosts := (s.collHosts ctx).map (·.1)
    let s := { s with ports := s.ports.filter fun p => !hosts.contains p }
    (s.sendAborts ctx 0).collAbort ctx 0x06 0

/-- HOLD_SEND: a waiting Goose says every TIMEOUT · 256 gcy that it lives (f17 R332). -/
def execHoldSend (ctx : Nat) (s : State) : Result :=
  let c := s.coll ctx
  if c.live ∧ ¬ (s.collWaits ctx).isEmpty ∧ c.held + c.tmo * 256 ≤ s.gclk.toNat then
    let s := s.setColl ctx { c with held := s.gclk.toNat }
    .next (s.gooseAll ctx c.die c.group.mgen c.no c.trees .hold)
  else notEnabled "HOLD_SEND"

/-- A neighbour has been heard. -/
def State.hear (s : State) (ctx pkg : Nat) : State :=
  let c := s.coll ctx
  s.setColl ctx { c with heard := (c.heard.filter fun x => x.1 != pkg) ++ [(pkg, s.gclk.toNat)] }

/-- HOLD: it restarts the receiver's time-out for its sender. -/
def execHold (ctx pkg : Nat) (s : State) : Result :=
  if (s.coll ctx).live ∧ ((s.coll ctx).trees.any fun t => (neighbours t.2 s.pkg).contains pkg) then .next (s.hear ctx pkg)
  else .next s

/-- A message of another member arrives on a tree link; one of a later collective is kept for it. -/
def State.gooseMsg (s : State) (f : GFlit) : State :=
  let c := s.coll f.tt
  let t := s.tt f.tt
  let run := fun (r : Result) => match r with
    | .next s => s
    | _ => s
  match f.msg with
  | .hold => run (execHold f.tt f.pkg s)
  | .abort mgen lost =>
    if f.no = (if c.live then c.no else t.collNo) then run (execAbort f.tt f.pkg mgen lost s)
    else if t.life ≠ 0 ∧ f.mgen = (s.groupOf f.tt).mgen ∧ t.collNo < f.no then s.setTt f.tt { t with early := t.early ++ [f] }
    else s
  | m =>
    if c.live ∧ c.group.mgen = f.mgen ∧ c.no = f.no then
      if c.group.members.contains f.pkg then
        (s.setColl f.tt { c with inbox := c.inbox ++ [(f.pkg, f.tree, m)] }).hear f.tt f.pkg
      else s
    else if t.life ≠ 0 ∧ ((s.groupOf f.tt).mgen < f.mgen ∨ ((s.groupOf f.tt).mgen = f.mgen ∧ t.collNo ≤ f.no)) then
      s.setTt f.tt { t with early := t.early ++ [f] }
    else s

/-- MEMBERSHIP_AGREE: the surviving members' Mules agree a record with MGEN one higher, less the members that any of them, this one too, has
named silent (f08 R218). A survivor whose own collective had ended gets it as well. -/
def execMembershipAgree (tt : Nat) (lost : List Nat) (s : State) : Result :=
  let t := s.tt tt
  let g := s.groupOf tt
  if t.life = 0 ∨ t.pending.isSome then notEnabled "MEMBERSHIP_AGREE"
  else
    let g' : Group := ⟨g.mgen + 1, (g.members.zipIdx.filter fun m => !lost.contains m.1 && !t.silent.testBit m.2).map (·.1), s.table, s.lgen⟩
    .next (s.setTt tt { t with pending := some g' })

/-- RECORD_INSTALL: no collective of the group is in flight at this member. -/
def execRecordInstall (tt : Nat) (s : State) : Result :=
  let t := s.tt tt
  match t.pending with
  | some g =>
    if (s.coll tt).live then notEnabled "RECORD_INSTALL"
    else .next (s.setTt tt { t with group := some g, pending := none, aborted := false, silent := 0, collNo := 0 })
  | none => notEnabled "RECORD_INSTALL"

end Sys2Proof.Machine
end

