-- ==== Sys2Proof/Machine/Vector.lean ====
section
/-! DEFINITION. The V-slot words: the element mould and its half-width forms, comparison, selection, lane movement, special
functions, LN6, modular words, the generator, and predicates (f20 R405..R427, f19 R384..R387, f05 R137..R148). -/
namespace Sys2Proof.Machine

/-! ### The mould of a V word (f20 R405) -/

/-- A V word enters the strand's vector unit for `occ` vcy; while an earlier word occupies it, it is suppressed with ILLOP
and writes nothing (f12 R318). -/
def vUnit (s : State) (occ : Nat) (f : Strand → Strand) : Result :=
  strandOnly s fun sid =>
    let st := s.strand sid
    if st.vclk < st.occV then s.slotIllegal sid 1
    else s.setStrand sid (f { st with occV := st.vclk + occ })

/-- The lanes a guard makes active. -/
def Strand.active (st : Strand) (g : BitVec 4) : List Nat := (List.range 1024).filter (st.guard g)

/-- The lanes written: the active ones, or all when inactive lanes are zeroed. -/
def writtenLanes (z : BitVec 1) (act : List Nat) : PReg := if z = 1 then allLanes else act.map fun l => (l, true)

/-- Results of lanes as a register image, and the OR of their flags. -/
def laneImage (r : List (Nat × BitVec 32 × BitVec 8)) : VReg × BitVec 8 :=
  (r.filterMap fun x => if x.2.1 = 0 then none else some (x.1, x.2.1), orFlags (r.map fun x => x.2.2))

/-- A guarded word: each active lane takes `f` of it at issue + `lat`, inactive lanes are merged or zeroed, flags and VLANE
count the active lanes; with no lane active it does nothing but occupy the unit (f20 R405). -/
def vGuarded (s : State) (occ lat : Nat) (z : BitVec 1) (d : BitVec 6) (g : BitVec 4)
    (f : Strand → Nat → BitVec 32 × BitVec 8) : Result :=
  vUnit s occ fun st =>
    let act := st.active g
    if act.isEmpty then st
    else
      let (img, fl) := laneImage (act.map fun l => (l, f st l))
      ((st.push 1 lat (.v d.toNat (writtenLanes z act) img)).pushFlags 1 lat fl).push 1 lat (.meter 9 act.length)

/-! ### Elements of a lane (f05 R126) -/

/-- Element k of a lane of w-bit elements. -/
def elem (w : Nat) (x : BitVec 32) (k : Nat) : Nat := x.toNat / 2 ^ (w * k) % 2 ^ w

/-- The lane whose elements are given, element 0 first. -/
def packElems (w : Nat) (l : List Nat) : BitVec 32 :=
  BitVec.ofNat 32 ((l.zipIdx).foldl (fun a e => a + e.1 % 2 ^ w * 2 ^ (w * e.2)) 0)

/-- A lane computed element by element. -/
def byElems (w n : Nat) (f : Nat → Nat × BitVec 8) : BitVec 32 × BitVec 8 :=
  let r := (List.range n).map f
  (packElems w (r.map (·.1)), orFlags (r.map (·.2)))

/-- Element width of a ty field: F32, I32, X16, X8 (f20 R406). -/
def tyWidth (t : BitVec 2) : Nat :=
  match t.toNat with
  | 2 => 16
  | 3 => 8
  | _ => 32

/-- The operations of the element mould (f20 R409). -/
inductive VOp where
  | add | sub | mul | fma | min | max
  deriving DecidableEq, Repr

/-- A float element. -/
def floatElem (f : Fmt) (op : VOp) (a b d : Nat) : Nat × BitVec 8 :=
  match op with
  | .add => fAdd f (f.decode a) (f.decode b)
  | .sub => fAdd f (f.decode a) (f.decode b).negate
  | .mul => fMul f (f.decode a) (f.decode b)
  | .fma => fFma f (f.decode a) (f.decode b) (f.decode d)
  | .min => fMinMax f false a b
  | .max => fMinMax f true a b

/-- An integer element of width w. -/
def intElem (w : Nat) (op : VOp) (a b d : Nat) : Nat :=
  let t : ITy := ⟨w, true⟩
  match op with
  | .add => (a + b) % 2 ^ w
  | .sub => t.code (t.value a - t.value b)
  | .mul => (a * b) % 2 ^ w
  | .fma => (a * b + d) % 2 ^ w
  | .min => if t.value b < t.value a then b else a
  | .max => if t.value a < t.value b then b else a

/-- One lane of the element mould. -/
def elemLane (t : BitVec 2) (op : VOp) (a b d : BitVec 32) : BitVec 32 × BitVec 8 :=
  if t = 0 then
    let (c, fl) := floatElem fF32 op a.toNat b.toNat d.toNat
    (BitVec.ofNat 32 c, fl)
  else
    let w := tyWidth t
    byElems w (32 / w) fun k => (intElem w op (elem w a k) (elem w b k) (elem w d k), 0)

/-- A word of the element mould. -/
def vElem (s : State) (op : VOp) (lat : Nat) (z : BitVec 1) (d a b : BitVec 6) (g : BitVec 4) (t : BitVec 2) : Result :=
  vGuarded s 4 lat z d g fun st l => elemLane t op (st.lane a.toNat l) (st.lane b.toNat l) (st.lane d.toNat l)

def execVadd (z : BitVec 1) (d a b : BitVec 6) (g : BitVec 4) (t : BitVec 2) (s : State) : Result := vElem s .add 6 z d a b g t
def execVsub (z : BitVec 1) (d a b : BitVec 6) (g : BitVec 4) (t : BitVec 2) (s : State) : Result := vElem s .sub 6 z d a b g t
def execVmul (z : BitVec 1) (d a b : BitVec 6) (g : BitVec 4) (t : BitVec 2) (s : State) : Result := vElem s .mul 8 z d a b g t
def execVfma (z : BitVec 1) (d a b : BitVec 6) (g : BitVec 4) (t : BitVec 2) (s : State) : Result := vElem s .fma 8 z d a b g t
def execVmin (z : BitVec 1) (d a b : BitVec 6) (g : BitVec 4) (t : BitVec 2) (s : State) : Result := vElem s .min 6 z d a b g t
def execVmax (z : BitVec 1) (d a b : BitVec 6) (g : BitVec 4) (t : BitVec 2) (s : State) : Result := vElem s .max 6 z d a b g t

/-- |a| modulo 2^w of each element; F32 clears bit 31. -/
def absLane (t : BitVec 2) (a : BitVec 32) : BitVec 32 :=
  if t = 0 then a &&& 0x7FFFFFFF#32
  else
    let w := tyWidth t
    let ty : ITy := ⟨w, true⟩
    (byElems w (32 / w) fun k => ((ty.value (elem w a k)).natAbs % 2 ^ w, 0)).1

def execVabs (z : BitVec 1) (d a : BitVec 6) (g : BitVec 4) (t : BitVec 2) (s : State) : Result :=
  vGuarded s 4 6 z d g fun st l => (absLane t (st.lane a.toNat l), 0)

/-- A bitwise word over whole lanes. -/
def vBits (s : State) (z : BitVec 1) (d a b : BitVec 6) (g : BitVec 4) (f : BitVec 32 → BitVec 32 → BitVec 32) : Result :=
  vGuarded s 4 6 z d g fun st l => (f (st.lane a.toNat l) (st.lane b.toNat l), 0)

def execVand (z : BitVec 1) (d a b : BitVec 6) (g : BitVec 4) (_t : BitVec 2) (s : State) : Result := vBits s z d a b g (· &&& ·)
def execVor (z : BitVec 1) (d a b : BitVec 6) (g : BitVec 4) (_t : BitVec 2) (s : State) : Result := vBits s z d a b g (· ||| ·)
def execVxor (z : BitVec 1) (d a b : BitVec 6) (g : BitVec 4) (_t : BitVec 2) (s : State) : Result := vBits s z d a b g (· ^^^ ·)

/-- A shift word: each element by its own count modulo w; `f w a n`. -/
def vShift (s : State) (z : BitVec 1) (d a b : BitVec 6) (g : BitVec 4) (t : BitVec 2) (f : Nat → Nat → Nat → Nat) : Result :=
  let w := tyWidth t
  vGuarded s 4 6 z d g fun st l =>
    byElems w (32 / w) fun k => (f w (elem w (st.lane a.toNat l) k) (elem w (st.lane b.toNat l) k % w), 0)

def execVshl (z : BitVec 1) (d a b : BitVec 6) (g : BitVec 4) (t : BitVec 2) (s : State) : Result :=
  vShift s z d a b g t fun w x n => x * 2 ^ n % 2 ^ w
def execVshr (z : BitVec 1) (d a b : BitVec 6) (g : BitVec 4) (t : BitVec 2) (s : State) : Result :=
  vShift s z d a b g t fun _ x n => x / 2 ^ n
def execVsar (z : BitVec 1) (d a b : BitVec 6) (g : BitVec 4) (t : BitVec 2) (s : State) : Result :=
  vShift s z d a b g t fun w x n => (⟨w, true⟩ : ITy).code ((⟨w, true⟩ : ITy).value x / 2 ^ n)

/-- A half-width float word on pairs of F16 or BF16 elements. -/
def vHalf (s : State) (f : Fmt) (op : VOp) (lat : Nat) (z : BitVec 1) (d a b : BitVec 6) (g : BitVec 4) : Result :=
  vGuarded s 4 lat z d g fun st l =>
    byElems 16 2 fun k =>
      floatElem f op (elem 16 (st.lane a.toNat l) k) (elem 16 (st.lane b.toNat l) k) (elem 16 (st.lane d.toNat l) k)

def execVaddH16 (z : BitVec 1) (d a b : BitVec 6) (g : BitVec 4) (s : State) : Result := vHalf s fF16 .add 6 z d a b g
def execVaddB16 (z : BitVec 1) (d a b : BitVec 6) (g : BitVec 4) (s : State) : Result := vHalf s fBF16 .add 6 z d a b g
def execVsubH16 (z : BitVec 1) (d a b : BitVec 6) (g : BitVec 4) (s : State) : Result := vHalf s fF16 .sub 6 z d a b g
def execVsubB16 (z : BitVec 1) (d a b : BitVec 6) (g : BitVec 4) (s : State) : Result := vHalf s fBF16 .sub 6 z d a b g
def execVmulH16 (z : BitVec 1) (d a b : BitVec 6) (g : BitVec 4) (s : State) : Result := vHalf s fF16 .mul 8 z d a b g
def execVmulB16 (z : BitVec 1) (d a b : BitVec 6) (g : BitVec 4) (s : State) : Result := vHalf s fBF16 .mul 8 z d a b g
def execVfmaH16 (z : BitVec 1) (d a b : BitVec 6) (g : BitVec 4) (s : State) : Result := vHalf s fF16 .fma 8 z d a b g
def execVfmaB16 (z : BitVec 1) (d a b : BitVec 6) (g : BitVec 4) (s : State) : Result := vHalf s fBF16 .fma 8 z d a b g
def execVminH16 (z : BitVec 1) (d a b : BitVec 6) (g : BitVec 4) (s : State) : Result := vHalf s fF16 .min 6 z d a b g
def execVminB16 (z : BitVec 1) (d a b : BitVec 6) (g : BitVec 4) (s : State) : Result := vHalf s fBF16 .min 6 z d a b g
def execVmaxH16 (z : BitVec 1) (d a b : BitVec 6) (g : BitVec 4) (s : State) : Result := vHalf s fF16 .max 6 z d a b g
def execVmaxB16 (z : BitVec 1) (d a b : BitVec 6) (g : BitVec 4) (s : State) : Result := vHalf s fBF16 .max 6 z d a b g

/-! ### Comparison and selection (f20 R412, R425) -/

/-- The comparison of one lane: 0 EQ, 1 NE, 2 LT, 3 LE; of several elements it holds when it holds for each. -/
def cmpLane (t : BitVec 2) (cond : Nat) (a b : BitVec 32) : Bool × BitVec 8 :=
  if t = 0 then fCompare fF32 cond a.toNat b.toNat
  else
    let w := tyWidth t
    let ty : ITy := ⟨w, true⟩
    ((List.range (32 / w)).all fun k =>
      let x := ty.value (elem w a k)
      let y := ty.value (elem w b k)
      match cond with
      | 0 => decide (x = y)
      | 1 => decide (x ≠ y)
      | 2 => decide (x < y)
      | _ => decide (x ≤ y), 0)

/-- VCMP: one bit per active lane; the bits of inactive lanes are left. -/
def vCompare (s : State) (cond : Nat) (p a b : BitVec 6) (g : BitVec 4) (t : BitVec 2) : Result :=
  vUnit s 4 fun st =>
    let act := st.active g
    if act.isEmpty then st
    else
      let r := act.map fun l => (l, cmpLane t cond (st.lane a.toNat l) (st.lane b.toNat l))
      let bitsSet : PReg := r.filterMap fun x => if x.2.1 then some (x.1, true) else none
      ((st.push 1 6 (.p p.toNat (act.map fun l => (l, true)) bitsSet)).pushFlags 1 6
        (orFlags (r.map fun x => x.2.2))).push 1 6 (.meter 9 act.length)

def execVcmpEq (p a b : BitVec 6) (g : BitVec 4) (t : BitVec 2) (s : State) : Result := vCompare s 0 p a b g t
def execVcmpNe (p a b : BitVec 6) (g : BitVec 4) (t : BitVec 2) (s : State) : Result := vCompare s 1 p a b g t
def execVcmpLt (p a b : BitVec 6) (g : BitVec 4) (t : BitVec 2) (s : State) : Result := vCompare s 2 p a b g t
def execVcmpLe (p a b : BitVec 6) (g : BitVec 4) (t : BitVec 2) (s : State) : Result := vCompare s 3 p a b g t

/-- A word without a guard that writes all 1024 lanes of a V register. -/
def vWhole (s : State) (lat : Nat) (d : BitVec 6) (f : Strand → Nat → BitVec 32) : Result :=
  vUnit s 4 fun st =>
    (st.push 1 lat (.v d.toNat allLanes (SMap.ofFn 0 1024 (f st)))).push 1 lat (.meter 9 1024)

def execVsel (d a b : BitVec 6) (p : BitVec 4) (s : State) : Result :=
  vWhole s 6 d fun st l => if st.guard p l then st.lane a.toNat l else st.lane b.toNat l

/-! ### Special functions (f20 R426) -/

def execVsf (z : BitVec 1) (d a f : BitVec 6) (g : BitVec 4) (s : State) : Result :=
  vGuarded s 4 12 z d g fun st l =>
    let (c, fl) := vsf f.toNat (st.lane a.toNat l).toNat
    (BitVec.ofNat 32 c, fl)

/-! ### Lane movement (f20 R410, R413, R422) -/

/-- A word of the lane-movement mould: each active lane takes the source lane `src` names, or zero. -/
def vMove (s : State) (lat : Nat) (z : BitVec 1) (d a : BitVec 6) (g : BitVec 4) (src : Strand → Nat → Option Nat) : Result :=
  vGuarded s 4 lat z d g fun st l =>
    (match src st l with
     | some k => st.lane a.toNat k
     | none => 0, 0)

def execVrotr (z : BitVec 1) (d a b : BitVec 6) (g : BitVec 4) (s : State) : Result :=
  vMove s 6 z d a g fun st l => some (l / 64 * 64 + (l % 64 + 64 - (st.rd b.toNat).toNat % 64) % 64)
def execVrotc (z : BitVec 1) (d a b : BitVec 6) (g : BitVec 4) (s : State) : Result :=
  vMove s 10 z d a g fun st l => some ((l / 64 + 16 - (st.rd b.toNat).toNat % 16) % 16 * 64 + l % 64)
def execVbcr (z : BitVec 1) (d a c : BitVec 6) (g : BitVec 4) (s : State) : Result :=
  vMove s 6 z d a g fun _ l => some (l / 64 * 64 + c.toNat)
def execVbcc (z : BitVec 1) (d a r : BitVec 6) (g : BitVec 4) (s : State) : Result :=
  vMove s 10 z d a g fun _ l => some (r.toNat * 64 + l % 64)
def execVslup (z : BitVec 1) (d a b : BitVec 6) (g : BitVec 4) (s : State) : Result :=
  vMove s 6 z d a g fun st l =>
    let n := (st.rd b.toNat).toNat
    if n ≤ l then some (l - n) else none
def execVsldn (z : BitVec 1) (d a b : BitVec 6) (g : BitVec 4) (s : State) : Result :=
  vMove s 6 z d a g fun st l =>
    let n := (st.rd b.toNat).toNat
    if l + n < 1024 then some (l + n) else none
def execVperm (z : BitVec 1) (d a b : BitVec 6) (g : BitVec 4) (s : State) : Result :=
  vMove s 10 z d a g fun st l => some ((st.lane b.toNat l).toNat % 1024)
def execVmov (z : BitVec 1) (d a : BitVec 6) (g : BitVec 4) (s : State) : Result := vMove s 6 z d a g fun _ l => some l

/-- Bits 0 and k of a lane index exchanged (f05 R147). -/
def swapBits (k l : Nat) : Nat :=
  let b0 := l % 2
  let bk := l / 2 ^ k % 2
  if b0 = bk then l else if b0 = 1 then l + 2 ^ k - 1 else l + 1 - 2 ^ k
def execVnttp (z : BitVec 1) (d a k : BitVec 6) (g : BitVec 4) (s : State) : Result :=
  vMove s 10 z d a g fun _ l => some (swapBits k.toNat l)

/-- VCOMP and VEXPD: `pairs` lists (destination lane, source lane) from the masked lanes. -/
def vMask (s : State) (z : BitVec 1) (d a : BitVec 6) (m : BitVec 4) (pairs : List Nat → List (Nat × Nat)) : Result :=
  vUnit s 4 fun st =>
    let act := st.active m
    if act.isEmpty ∧ z = 0 then st
    else
      let (img, _) := laneImage ((pairs act).map fun x => (x.1, st.lane a.toNat x.2, 0))
      (st.push 1 10 (.v d.toNat (writtenLanes z ((pairs act).map (·.1))) img)).push 1 10 (.meter 9 act.length)

def execVcomp (z : BitVec 1) (d a : BitVec 6) (m : BitVec 4) (s : State) : Result :=
  vMask s z d a m fun act => act.zipIdx.map fun x => (x.2, x.1)
def execVexpd (z : BitVec 1) (d a : BitVec 6) (m : BitVec 4) (s : State) : Result :=
  vMask s z d a m fun act => act.zipIdx

/-! ### Splats and single lanes (f20 R417, R427) -/

/-- A value in every element of a lane. -/
def splat (t : BitVec 2) (v : Int) : BitVec 32 :=
  let w := tyWidth t
  (byElems w (32 / w) fun _ => ((⟨w, true⟩ : ITy).code v, 0)).1

def execVsplati (z : BitVec 1) (d : BitVec 6) (i : BitVec 12) (g : BitVec 4) (t : BitVec 2) (s : State) : Result :=
  vGuarded s 4 6 z d g fun _ _ =>
    (if t = 0 then BitVec.ofNat 32 (convTo fF32 .rne .ieee (FV.ofInt i.toInt)).1 else splat t i.toInt, 0)
def execVsplats (z : BitVec 1) (d a : BitVec 6) (g : BitVec 4) (t : BitVec 2) (s : State) : Result :=
  vGuarded s 4 6 z d g fun st _ => (splat t (st.rd a.toNat).toNat, 0)

def execVget (d a b : BitVec 6) (s : State) : Result :=
  vUnit s 1 fun st =>
    let l := (st.rd b.toNat).toNat % 1024
    (st.push 1 6 (.d d.toNat ((st.lane a.toNat l).setWidth 64) (st.rt b.toNat))).push 1 6 (.meter 9 1)
def execVput (d a b : BitVec 6) (s : State) : Result :=
  vUnit s 1 fun st =>
    let l := (st.rd b.toNat).toNat % 1024
    (st.push 1 6 (.v d.toNat [(l, true)] (laneImage [(l, (st.rd a.toNat).setWidth 32, 0)]).1)).push 1 6 (.meter 9 1)

/-! ### Reductions (f20 R423, f05 R138) -/

/-- One level of the pairwise order: neighbours combined. -/
def pairLevel {α : Type} (op : α → α → α) : List α → List α
  | x :: y :: t => op x y :: pairLevel op t
  | l => l

/-- PairSum with q levels. -/
def pairSum {α : Type} (op : α → α → α) : Nat → List α → List α
  | 0, l => l
  | q + 1, l => pairSum op q (pairLevel op l)

/-- The combination of two elements with flags: operation 0 ADD, 1 MIN, 2 MAX. -/
def redOp (t : BitVec 2) (o : Nat) (x y : Nat × BitVec 8) : Nat × BitVec 8 :=
  let vop : VOp := match o with
    | 0 => .add
    | 1 => .min
    | _ => .max
  if t = 0 then
    let (c, fl) := floatElem fF32 vop x.1 y.1 0
    (c, x.2 ||| y.2 ||| fl)
  else (intElem (tyWidth t) vop x.1 y.1 0, x.2 ||| y.2)

/-- The identity an inactive lane contributes. -/
def redIdentity (t : BitVec 2) (o : Nat) : Nat :=
  if t = 0 then
    match o with
    | 0 => 0x80000000
    | 1 => fF32.inf false
    | _ => fF32.inf true
  else
    let ty : ITy := ⟨tyWidth t, true⟩
    match o with
    | 0 => 0
    | 1 => ty.code ty.hi
    | _ => ty.code ty.lo

/-- The reduction of a row or column, whose lanes are listed in order. -/
def redLane (st : Strand) (a : BitVec 6) (g : BitVec 4) (t : BitVec 2) (o q : Nat) (lanes : List Nat) : BitVec 32 × BitVec 8 :=
  let w := tyWidth t
  byElems w (32 / w) fun k =>
    let xs := lanes.map fun l => (if st.guard g l then elem w (st.lane a.toNat l) k else redIdentity t o, (0 : BitVec 8))
    (pairSum (redOp t o) q xs).headD (0, 0)

/-- A reduction word: `groupOf` is the row or column of a lane, `members` its lanes. The result of each group is formed
once, and only groups with an active lane raise flags. -/
def vReduce' (s : State) (lat q : Nat) (z : BitVec 1) (d a o : BitVec 6) (g : BitVec 4) (t : BitVec 2) (groups : Nat)
    (groupOf : Nat → Nat) (members : Nat → List Nat) : Result :=
  vUnit s 4 fun st =>
    let act := st.active g
    if act.isEmpty then st
    else
      let res := (List.range groups).map fun k =>
        if act.any fun l => groupOf l == k then redLane st a g t o.toNat q (members k) else (0, 0)
      let (img, fl) := laneImage (act.map fun l => (l, res.getD (groupOf l) (0, 0)))
      ((st.push 1 lat (.v d.toNat (writtenLanes z act) img)).pushFlags 1 lat fl).push 1 lat (.meter 9 act.length)

def execVredr (z : BitVec 1) (d a o : BitVec 6) (g : BitVec 4) (t : BitVec 2) (s : State) : Result :=
  vReduce' s 10 6 z d a o g t 16 (· / 64) fun r => (List.range 64).map (64 * r + ·)
def execVredc (z : BitVec 1) (d a o : BitVec 6) (g : BitVec 4) (t : BitVec 2) (s : State) : Result :=
  vReduce' s 14 4 z d a o g t 64 (· % 64) fun c => (List.range 16).map (64 * · + c)

/-! ### Modular words (f05 R145..R147, f20 R411, R421) -/

/-- MulMod with its defined results for a bad modulus or constant. -/
def mulMod (a b q mu : Nat) : Nat × BitVec 8 :=
  if q < 2 ∨ 2 ^ 31 ≤ q then (a * b % 2 ^ 32, Flag.modErr)
  else
    let p := a * b
    let qhat := p * mu / 2 ^ 64
    let r : Int := (p : Int) - ((qhat * q : Nat) : Int)
    let r := if (q : Int) ≤ r then r - q else r
    let r := if (q : Int) ≤ r then r - q else r
    if r < 0 ∨ (q : Int) ≤ r then ((r % 2 ^ 32).toNat, Flag.modErr) else (r.toNat, 0)

/-- The last check of AddMod and SubMod. -/
def modFinish (x : Int) (q : Nat) : Nat × BitVec 8 :=
  if x < 0 ∨ (q : Int) ≤ x ∨ q < 2 then ((x % 2 ^ 32).toNat, Flag.modErr) else (x.toNat, 0)
def addMod (a b q : Nat) : Nat × BitVec 8 :=
  let x : Int := ((a + b : Nat) : Int)
  modFinish (if (q : Int) ≤ x then x - q else x) q
def subMod (a b q : Nat) : Nat × BitVec 8 :=
  let x : Int := (a : Int) - b
  modFinish (if x < 0 then x + q else x) q

/-- Modulus and constant of a lane of a set. -/
def Strand.modOf (st : Strand) (k l : Nat) : Nat := (SMap.get 0 (SMap.get [] st.mq k) l).toNat
def Strand.muOf (st : Strand) (k l : Nat) : Nat := (SMap.get 0 (SMap.get [] st.mb k) l).toNat

/-- A lane-wise modular word. `muls` is how many MulMods each active lane evaluates, for MODMUL. -/
def vModular (s : State) (lat muls : Nat) (z : BitVec 1) (d : BitVec 6) (g : BitVec 4)
    (f : Strand → Nat → Nat × BitVec 8) : Result :=
  vUnit s 4 fun st =>
    let act := st.active g
    if act.isEmpty then st
    else
      let (img, fl) := laneImage (act.map fun l => let r := f st l; (l, BitVec.ofNat 32 r.1, r.2))
      (((st.push 1 lat (.v d.toNat (writtenLanes z act) img)).pushFlags 1 lat fl).push 1 lat
        (.meter 9 act.length)).push 1 lat (.meter 10 (muls * act.length))

def execVmmul (z : BitVec 1) (d a b : BitVec 6) (g : BitVec 4) (k : BitVec 2) (s : State) : Result :=
  vModular s 12 1 z d g fun st l =>
    mulMod (st.lane a.toNat l).toNat (st.lane b.toNat l).toNat (st.modOf k.toNat l) (st.muOf k.toNat l)
def execVmadd (z : BitVec 1) (d a b : BitVec 6) (g : BitVec 4) (k : BitVec 2) (s : State) : Result :=
  vModular s 6 0 z d g fun st l => addMod (st.lane a.toNat l).toNat (st.lane b.toNat l).toNat (st.modOf k.toNat l)
def execVmsub (z : BitVec 1) (d a b : BitVec 6) (g : BitVec 4) (k : BitVec 2) (s : State) : Result :=
  vModular s 6 0 z d g fun st l => subMod (st.lane a.toNat l).toNat (st.lane b.toNat l).toNat (st.modOf k.toNat l)
def execVmred (z : BitVec 1) (d a : BitVec 6) (g : BitVec 4) (k : BitVec 2) (s : State) : Result :=
  vModular s 12 1 z d g fun st l => mulMod (st.lane a.toNat l).toNat 1 (st.modOf k.toNat l) (st.muOf k.toNat l)

/-- Both outputs of a butterfly on (x, y) with twiddle w. -/
def butterfly (gs : Bool) (x y w q mu : Nat) : (Nat × BitVec 8) × (Nat × BitVec 8) :=
  if gs then
    let dlt := subMod x y q
    let m := mulMod dlt.1 w q mu
    (addMod x y q, (m.1, m.2 ||| dlt.2))
  else
    let m := mulMod y w q mu
    let u := addMod x m.1 q
    let v := subMod x m.1 q
    ((u.1, u.2 ||| m.2), (v.1, v.2 ||| m.2))

/-- VBFLY: a pair is active when its even lane is, and both its lanes are merged or zeroed together; a guard with a bit set only in odd lanes
leaves every pair inactive (f20 R405, R411). -/
def vButterfly (s : State) (gs : Bool) (z : BitVec 1) (d a b : BitVec 6) (g : BitVec 4) (k : BitVec 2) : Result :=
  vUnit s 4 fun st =>
    if (st.active g).isEmpty then st
    else
      let act := (List.range 512).filter fun i => st.guard g (2 * i)
      let r := act.flatMap fun i =>
        let o := butterfly gs (st.lane a.toNat (2 * i)).toNat (st.lane a.toNat (2 * i + 1)).toNat
          (st.lane b.toNat (2 * i)).toNat (st.modOf k.toNat (2 * i)) (st.muOf k.toNat (2 * i))
        [(2 * i, BitVec.ofNat 32 o.1.1, o.1.2), (2 * i + 1, BitVec.ofNat 32 o.2.1, o.2.2)]
      let (img, fl) := laneImage r
      (((st.push 1 12 (.v d.toNat (writtenLanes z (r.map (·.1))) img)).pushFlags 1 12 fl).push 1 12
        (.meter 9 r.length)).push 1 12 (.meter 10 act.length)

def execVbfly (z : BitVec 1) (d a b : BitVec 6) (g : BitVec 4) (k : BitVec 2) (s : State) : Result := vButterfly s false z d a b g k
def execVbflyGs (z : BitVec 1) (d a b : BitVec 6) (g : BitVec 4) (k : BitVec 2) (s : State) : Result := vButterfly s true z d a b g k

def execVmqset (a b : BitVec 6) (k : BitVec 2) (s : State) : Result :=
  vUnit s 4 fun st =>
    let mb := SMap.ofFn (0 : BitVec 64) 1024 fun l => st.lane (b.toNat + 1) l ++ st.lane b.toNat l
    ((st.push 1 8 (.mq k.toNat (st.rv a.toNat))).push 1 8 (.mb k.toNat mb)).push 1 8 (.meter 9 1024)

/-! ### The generator (f05 R148, f20 R424) -/

/-- One round of Philox4x32. -/
def philoxRound (c : Nat × Nat × Nat × Nat) (k0 k1 : Nat) : Nat × Nat × Nat × Nat :=
  let (c0, c1, c2, c3) := c
  let p0 := 0xD2511F53 * c0
  let p1 := 0xCD9E8D57 * c2
  ((p1 / 2 ^ 32) ^^^ c1 ^^^ k0, p1 % 2 ^ 32, (p0 / 2 ^ 32) ^^^ c3 ^^^ k1, p0 % 2 ^ 32)

/-- `n` rounds. -/
def philoxRounds : Nat → Nat × Nat × Nat × Nat → Nat → Nat → Nat × Nat × Nat × Nat
  | 0, c, _, _ => c
  | n + 1, c, k0, k1 => philoxRounds n (philoxRound c k0 k1) ((k0 + 0x9E3779B9) % 2 ^ 32) ((k1 + 0xBB67AE85) % 2 ^ 32)

/-- Word w of Philox4x32-10. -/
def philox (key : BitVec 64) (c0 c1 c2 c3 w : Nat) : Nat :=
  let (x0, x1, x2, x3) := philoxRounds 10 (c0 % 2 ^ 32, c1 % 2 ^ 32, c2, c3) (key.toNat % 2 ^ 32) (key.toNat / 2 ^ 32)
  match w with
  | 0 => x0
  | 1 => x1
  | 2 => x2
  | _ => x3

/-- The random word of element e of a lane (f05 R148). -/
def elemWord (key : BitVec 64) (strand stream lane e : Nat) : Nat :=
  philox key strand stream (lane / 64) (lane % 64 + 64 * (e / 4)) (e % 4)

/-- VRNG: the strand number is part of the counter, so the word is given it. -/
def execVrng (z : BitVec 1) (d b : BitVec 6) (g : BitVec 4) (s : State) : Result :=
  let k := match s.cur with
    | .strand sid => strandNo sid
    | _ => 0
  vGuarded s 8 16 z d g fun st l =>
    (BitVec.ofNat 32 (elemWord (st.getCsr 0x024) k ((st.rd b.toNat).toNat % 2 ^ 32) l 0), 0)

/-! ### LN6 (f20 R420, f05 R124) -/

def execVlnmul (z : BitVec 1) (d a b : BitVec 6) (g : BitVec 4) (s : State) : Result :=
  vGuarded s 4 8 z d g fun st l =>
    byElems 6 5 fun k => lnMul (elem 6 (st.lane a.toNat l) k) (elem 6 (st.lane b.toNat l) k)

/-- One lane of VLNADD: the exact sum of the accumulator and five products, rounded once. -/
def lnAddLane (acc a b : BitVec 32) : Nat × BitVec 8 :=
  let x := fF32.decode acc.toNat
  match x with
  | .nan sg => (fF32.nan, flagIf sg Flag.nv)
  | .inf n => (fF32.inf n, 0)
  | .fin n m e =>
    let terms := (List.range 5).filterMap fun k =>
      match lnProd (elem 6 a k) (elem 6 b k) with
      | .fin n m e => some (n, m, e)
      | _ => none
    finish fF32 (sumFin ((n, m, e) :: terms))

def execVlnadd (z : BitVec 1) (d a b : BitVec 6) (g : BitVec 4) (s : State) : Result :=
  vGuarded s 4 8 z d g fun st l =>
    let (c, fl) := lnAddLane (st.lane d.toNat l) (st.lane a.toNat l) (st.lane b.toNat l)
    (BitVec.ofNat 32 c, fl)

/-! ### Predicates (f12 R309, f19 R384..R387) -/

/-- A predicate number with its high bit (f12 R309). -/
def pNo (x : BitVec 6) (h : BitVec 1) : Nat := x.toNat + 64 * h.toNat

/-- A word that writes all 1024 bits of a predicate. -/
def pWhole (s : State) (d : Nat) (f : Strand → Nat → Bool) : Result :=
  vUnit s 1 fun st =>
    (st.push 1 2 (.p d allLanes (SMap.ofFn false 1024 (f st)))).push 1 2 (.meter 9 1024)

def execPand (d a b : BitVec 6) (e f g : BitVec 1) (s : State) : Result :=
  pWhole s (pNo d e) fun st l => st.pb (pNo a f) l && st.pb (pNo b g) l
def execPor (d a b : BitVec 6) (e f g : BitVec 1) (s : State) : Result :=
  pWhole s (pNo d e) fun st l => st.pb (pNo a f) l || st.pb (pNo b g) l
def execPxor (d a b : BitVec 6) (e f g : BitVec 1) (s : State) : Result :=
  pWhole s (pNo d e) fun st l => st.pb (pNo a f) l != st.pb (pNo b g) l
def execPnot (d a : BitVec 6) (e f : BitVec 1) (s : State) : Result :=
  pWhole s (pNo d e) fun st l => !st.pb (pNo a f) l
def execPset (d : BitVec 6) (n : BitVec 12) (e : BitVec 1) (s : State) : Result :=
  pWhole s (pNo d e) fun _ l => decide (l < n.toNat)

/-- A count of a predicate into a D register, untainted. -/
def pCount (s : State) (d : BitVec 6) (f : Strand → Nat) : Result :=
  vUnit s 1 fun st => (st.push 1 4 (.d d.toNat (BitVec.ofNat 64 (f st)) false)).push 1 4 (.meter 9 1024)

def execPcnt (d a : BitVec 6) (f : BitVec 1) (s : State) : Result :=
  pCount s d fun st => (List.range 1024).countP (st.pb (pNo a f))
def execPfirst (d a : BitVec 6) (f : BitVec 1) (s : State) : Result :=
  pCount s d fun st => ((List.range 1024).find? (st.pb (pNo a f))).getD 1024

end Sys2Proof.Machine
end

