-- ==== Sys2Proof/Machine/Convert.lean ====
section
/-! DEFINITION. VCVT: element and blocked conversion (f20 R414..R416, f05 R139..R144). -/
namespace Sys2Proof.Machine

/-- A format of VCVT's control word. -/
inductive CFmt where
  | float (f : Fmt)
  | ln
  | int (t : ITy)
  deriving DecidableEq, Repr

/-- The format codes, with elements per lane (f20 R414). -/
def cvtFmt : Nat → Option (CFmt × Nat)
  | 0x0 => some (.float fF32, 1)
  | 0x1 => some (.float fF16, 2)
  | 0x2 => some (.float fBF16, 2)
  | 0x3 => some (.float fF8E4, 4)
  | 0x4 => some (.float fF8E5, 4)
  | 0x5 => some (.float fF6E3, 5)
  | 0x6 => some (.float fF6E2, 5)
  | 0x7 => some (.float fF4E2, 8)
  | 0x8 => some (.ln, 5)
  | 0x9 => some (.int ⟨32, true⟩, 1)
  | 0xA => some (.int ⟨32, false⟩, 1)
  | 0xB => some (.int ⟨16, true⟩, 2)
  | 0xC => some (.int ⟨16, false⟩, 2)
  | 0xD => some (.int ⟨8, true⟩, 4)
  | 0xE => some (.int ⟨8, false⟩, 4)
  | _ => none

/-- Bits of an element of a lane of n. -/
def elemBits (n : Nat) : Nat :=
  match n with
  | 1 => 32
  | 2 => 16
  | 4 => 8
  | 5 => 6
  | _ => 4

/-- One element converted: code and flags (f05 R139..R144, R123). -/
def convElem (src dst : CFmt) (mode : RMode) (ovf : Ovf) (c : Nat) : Nat × BitVec 8 :=
  match src, dst with
  | .int t, .int u =>
    let (v, fl) := satInt u (t.value c)
    (u.code v, fl)
  | .int t, .float f => convTo f mode ovf (FV.ofInt (t.value c))
  | .int t, .ln => convToLn mode (FV.ofInt (t.value c))
  | .float f, .int u => convToInt u mode (f.decode c)
  | .float f, .float g => convTo g mode ovf (f.decode c)
  | .float f, .ln => convToLn mode (f.decode c)
  | .ln, .int u => convToInt u mode (lnDecode c)
  | .ln, .float g => convTo g mode ovf (lnDecode c)
  -- y of an LN6 element is its L, an integer: exact (f05 R123)
  | .ln, .ln => (c % 64, 0)

/-- The control word's fields (f20 R414). -/
structure CvtCtl where
  stream : Nat
  npred  : Nat
  scol   : Nat
  blk    : Bool
  ovf    : Ovf
  rm     : Nat
  part_   : Nat
  src    : CFmt
  ns     : Nat
  dst    : CFmt
  nd     : Nat
  deriving DecidableEq, Repr

/-- Formats a blocked conversion joins (f20 R416): narrowing gives `some true`, decoding `some false`. -/
def blkDir (src dst : Nat) : Option Bool :=
  let wide := fun c => decide (c < 3)
  let narrow := fun c => decide (3 ≤ c ∧ c < 8)
  if wide src && narrow dst then some true
  else if narrow src && wide dst then some false
  else none

/-- The control word of a VCVT with destination vd, source va and guard g; none where it is suppressed with PBFMT
(f20 R415, R416). -/
def cvtCtl (v : BitVec 64) (d a : BitVec 6) (g : BitVec 4) : Option CvtCtl :=
  match cvtFmt (bits v 7 4), cvtFmt (bits v 3 0) with
  | some (src, ns), some (dst, nd) =>
    let c : CvtCtl := ⟨bits v 63 32, bits v 31 25, bits v 24 19, v.getLsbD 18, if v.getLsbD 17 then .ieee else .satf,
      bits v 16 14, bits v 13 11, src, ns, dst, nd⟩
    let m := 1024 * Nat.min ns nd
    let blkOk := match blkDir (bits v 7 4) (bits v 3 0) with
      | none => false
      | some narrowing =>
        let nb := if narrowing then nd else ns
        g == 0 && decide (c.scol + (2 * nb - 1) / 4 ≤ 63) && decide ((if narrowing then d else a).toNat + 1 ≤ 47)
    if bits v 10 8 ≠ 0 ∨ 5 ≤ c.rm ∨ 1024 * Nat.max ns nd ≤ c.part_ * m then none
    else if c.blk && !blkOk then none
    else some c
  | _, _ => none

/-- The mode of one element: under SR it draws its word (f05 R140, R148). -/
def CvtCtl.mode (c : CvtCtl) (key : BitVec 64) (strand lane e : Nat) : RMode :=
  if c.rm = 4 then .sr (elemWord key strand c.stream lane e) else rmOf c.rm 0

/-- Source element index that destination element e of the register takes, if the slice reaches it (f20 R415). -/
def CvtCtl.source (c : CvtCtl) (e : Nat) : Option Nat :=
  let m := 1024 * Nat.min c.ns c.nd
  if c.ns ≤ c.nd then
    if c.part_ * m ≤ e ∧ e < c.part_ * m + m then some (e - c.part_ * m) else none
  else if e < m then some (c.part_ * m + e) else none

/-- Element s of a register of n elements a lane. -/
def regElem (n : Nat) (lane : Nat → BitVec 32) (i : Nat) : Nat := elem (elemBits n) (lane (i / n)) (i % n)

/-- The code of +0. -/
def zeroCode (_ : CFmt) : Nat := 0

/-- Bits of element k of a lane of n elements. -/
def elemMask (n k : Nat) : BitVec 32 := packElems (elemBits n) ((List.range n).map fun j => if j = k then 2 ^ elemBits n - 1 else 0)

/-- One destination lane of a conversion: the bits written, their values, and the flags of its elements. An element the slice does not reach
keeps what it holds when the word performs (f20 R415). DEDUCED: the two high bits of a lane of five are cleared in every active lane (log
62). -/
def cvtLane (c : CvtCtl) (lane : Nat) (conv : (e src : Nat) → Nat × BitVec 8) : BitVec 32 × BitVec 32 × BitVec 8 :=
  let es := (List.range c.nd).filterMap fun k =>
    (c.source (lane * c.nd + k)).map fun i =>
      (k, if i < 1024 * c.ns then conv (lane * c.nd + k) i else (zeroCode c.dst, (0 : BitVec 8)))
  let mask := es.foldl (fun m x => m ||| elemMask c.nd x.1) (if c.nd = 5 then 0xC0000000 else 0)
  let val := packElems (elemBits c.nd) ((List.range c.nd).map fun k =>
    match es.find? fun x => x.1 == k with
    | some x => x.2.1
    | none => 0)
  (mask, val, orFlags (es.map fun x => x.2.2))

/-- The scale byte of the group that starts at element e0 of a side with nb elements a lane: lane and byte (f20 R416). -/
def scalePlace (nb scol e0 : Nat) : Nat × Nat :=
  let i := e0 / (64 * nb)
  let g := e0 % (64 * nb) / 32
  (64 * i + scol + g / 4, g % 4)

/-- ⌊log2 x⌋ of a non-zero finite value. -/
def floorLog2 (m : Nat) (e : Int) : Int := (Nat.log2 m : Int) + e

/-- The exponent of the largest finite value (f05 R143). -/
def emaxOf (f : Fmt) : Int := floorLog2 (f.maxCode % 2 ^ f.mbits + 2 ^ f.mbits)
  ((f.maxCode / 2 ^ f.mbits : Nat) - (f.bias : Int) - f.mbits)

/-- SE8 of a group of values going into a format, and the flag a special raises (f05 R143). A signalling NaN among them raises no NV, since the
rule names infinities alone (DESIGN CHOICE, log entry 156). -/
def blockScale (f : Fmt) (xs : List FV) : Nat × BitVec 8 :=
  if xs.any fun x => x.isNan || x.isInf then (0xFF, flagIf (xs.any FV.isInf) Flag.nv)
  else
    let logs := xs.filterMap fun x =>
      match x with
      | .fin _ m e => if m = 0 then none else some (floorLog2 m e)
      | _ => none
    match logs with
    | [] => (127, 0)
    | l :: t =>
      let top := t.foldl max l
      let e := top - emaxOf f
      let e := if e < -127 then -127 else if 127 < e then 127 else e
      ((e + 127).toNat, 0)

/-- A value scaled by 2^k. -/
def FV.scaleBy (x : FV) (k : Int) : FV :=
  match x with
  | .fin n m e => .fin n m (e + k)
  | y => y

/-- One element of a blocked narrowing. -/
def blockElem (f : Fmt) (mode : RMode) (se8 : Nat) (x : FV) : Nat × BitVec 8 :=
  if se8 = 0xFF then (0, 0)
  else
    match x.scaleBy (127 - (se8 : Int)) with
    | .fin n m e =>
      if m = 0 then (f.zero n, 0)
      else
        let (c, fl) := roundTo f mode .satf n m e
        (c, fl &&& Flag.ix)
    | _ => (0, 0)

/-- The float format of a side. -/
def CFmt.fmt : CFmt → Fmt
  | .float f => f
  | _ => fF32

/-- The values of the 32 source elements of the destination group that starts at e0. -/
def groupValues (c : CvtCtl) (src : Nat → BitVec 32) (e0 : Nat) : List FV :=
  (List.range 32).map fun k =>
    match c.source (e0 + k) with
    | some i => c.src.fmt.decode (regElem c.ns src i)
    | none => .fin false 0 0

/-- The writes of a VCVT with a checked control word (f20 R415, R416). -/
def cvtWrites (c : CvtCtl) (strand : Nat) (z : BitVec 1) (d a : BitVec 6) (act : List Nat) (st : Strand) : Strand :=
  let key := st.getCsr 0x024
  let src := st.lane a.toNat
  let narrowing := c.blk && decide (c.ns ≤ c.nd)
  let m := 1024 * Nat.min c.ns c.nd
  let groups := (List.range (m / 32)).map fun k => c.part_ * m + 32 * k
  let scales := if narrowing then
      (groups.filter fun e0 => decide (e0 < 1024 * c.nd)).map fun e0 => (e0, blockScale c.dst.fmt (groupValues c src e0))
    else []
  let conv := fun (e i : Nat) =>
    let lane := e / c.nd
    let mode := c.mode key strand lane (e % c.nd)
    let code := regElem c.ns src i
    if ¬ c.blk then convElem c.src c.dst mode c.ovf code
    else if narrowing then
      let se8 := match scales.find? fun x => x.1 == e / 32 * 32 with
        | some x => x.2.1
        | none => 127
      blockElem c.dst.fmt mode se8 (c.src.fmt.decode code)
    else
      let (ln, by_) := scalePlace c.ns c.scol (i / 32 * 32)
      let se8 := elem 8 (st.lane (a.toNat + 1) ln) by_
      if se8 = 0xFF then (c.dst.fmt.nan, 0)
      else convTo c.dst.fmt mode .ieee ((c.src.fmt.decode code).scaleBy ((se8 : Int) - 127))
  let res := act.map fun l => (l, cvtLane c l conv)
  let fl := orFlags (res.map fun r => r.2.2.2) ||| orFlags (scales.map fun x => x.2.2)
  let zeroed : VReg := if z = 1 then SMap.ofFn 0 1024 fun l => if act.contains l then 0 else 0xFFFFFFFF else []
  let mask := res.foldl (fun m r => SMap.set 0 m r.1 r.2.1) zeroed
  let st := st.push 1 8 (.vbits d.toNat mask (res.foldl (fun m r => SMap.set 0 m r.1 r.2.2.1) []))
  let st := if narrowing then
      let (sm, sv) := scales.foldl (fun (acc : VReg × VReg) x =>
        let (ln, by_) := scalePlace c.nd c.scol x.1
        (SMap.set 0 acc.1 ln (SMap.get 0 acc.1 ln ||| elemMask 4 by_),
          SMap.set 0 acc.2 ln (SMap.get 0 acc.2 ln ||| BitVec.ofNat 32 (x.2.1 * 256 ^ by_)))) ([], [])
      st.push 1 8 (.vbits (d.toNat + 1) sm sv)
    else st
  let lossy := !c.blk && (decide (c.nd = 5) || decide (c.nd = 8))
  let st := if c.npred = 0 then st
    else
      let lost := if lossy then res.filterMap fun r => if r.2.2.2 &&& Flag.nanLost ≠ 0 then some (r.1, true) else none else []
      st.push 1 8 (.p c.npred (act.map fun l => (l, true)) lost)
  (st.pushFlags 1 8 fl).push 1 8 (.meter 9 act.length)

/-- VCVT. -/
def execVcvt (z : BitVec 1) (d a x : BitVec 6) (g : BitVec 4) (s : State) : Result :=
  strandOnly s fun sid =>
    let st := s.strand sid
    if st.vclk < st.occV then s.slotIllegal sid 1
    else
      let st := { st with occV := st.vclk + 4 }
      let act := st.active g
      if act.isEmpty then s.setStrand sid st
      else
        match cvtCtl (st.rd x.toNat) d a g with
        | none => (s.setStrand sid st).suppressHere sid Code.pbFmt 1
        | some c => s.setStrand sid (cvtWrites c (strandNo sid) z d a act st)

end Sys2Proof.Machine
end

