-- ==== Sys2Proof/Machine/Matrix.lean ====
section
/-! DEFINITION. The matrix unit: format entries, multiply-accumulate, drains and leases (f05 R129..R136, f03 R77..R81, f18
R366..R376). -/
namespace Sys2Proof.Machine

/-! ### Format entries (f03 R77, f05 R129..R133) -/

/-- The FT entry an ft field selects (f03 R77). -/
def Strand.ftEntry (st : Strand) (ft : BitVec 4) : BitVec 64 :=
  let sel := st.getCsr 0x020
  let n := bits sel 1 0
  if ft = 15 ∧ n ≠ 3 then st.getCsr (0x040 + ((st.getCsr (0x030 + n)).toNat + bits sel 7 4) % 16)
  else st.getCsr (0x040 + ft.toNat)

/-- Pairing class of a format code (f05 R132); F8E3 and I4 pair with themselves. -/
def ftClass (c : Nat) : Nat :=
  match c with
  | 0 | 1 => 0
  | 2 | 3 => 1
  | 4 | 5 => 2
  | 6 => 3
  | 7 => 4
  | 8 => 5
  | 9 => 7
  | 10 => 8
  | _ => 6

/-- Elements per lane of a format code (f05 R126, R133). -/
def ftN (c : Nat) : Nat :=
  match ftClass c with
  | 0 => 2
  | 2 | 4 => 5
  | 3 | 8 => 8
  | _ => 4

/-- Occupancy of a format code's class; 16 vcy when it is not implemented (f05 R132, R133). -/
def ftOcc (c : Nat) : Nat := if ftClass c = 2 ∨ ftClass c = 4 then 10 else 16

def ftA (e : BitVec 64) : Nat := bits e 3 0
def ftB (e : BitVec 64) : Nat := bits e 7 4

/-- A format code of the integer path: INT8, and I4 where it is emulated. -/
def ftInt (c : Nat) : Bool := c == 8 || c == 10

/-- The checks of f05 R132 and of RS (R136); `emu`: the finaliser has substituted the emulation of R130 for the entry. -/
def ftCheck (e : BitVec 64) (rs emu : Bool) : Option Nat :=
  let a := ftA e
  let b := ftB e
  let top := if emu then 11 else 9
  if top ≤ a ∨ top ≤ b then some Code.ftCode
  else if ftClass a ≠ ftClass b ∨ 47 < bits e 39 34 ∨ (e.getLsbD 33 ∧ ftInt a) ∨
      (ftInt a = false ∧ (e.getLsbD 32 ∨ e.getLsbD 8 ∨ e.getLsbD 9)) ∨ bits e 63 40 ≠ 0 ∨ bits e 31 10 ≠ 0 then some Code.ftFmt
  else if rs ∧ a ≠ 8 then some Code.ftFmt
  else none

/-- An entry of the image's format table with a code the hardware lacks on both sides, for which the finaliser has substituted the
emulation of f05 R130: same result, same flags. -/
def Image.emulates (img : Image) (e : BitVec 64) : Bool :=
  (ftA e == 9 || ftA e == 10) && ftB e == ftA e && img.ft.contains e

/-- Occupancy of an MMA under an entry: its class's; emulated, that of the two BF16 or INT8 MMAs that cover its K (f05 R130, R133). -/
def Image.occFt (img : Image) (e : BitVec 64) : Nat := if img.emulates e then 2 * 16 else ftOcc (ftA e)

/-! ### The product (f05 R133..R136) -/

/-- The float format of a code. -/
def ftFmt (c : Nat) : Fmt :=
  match c with
  | 0 => fBF16
  | 1 => fF16
  | 2 => fF8E4
  | 3 => fF8E5
  | 4 => fF6E3
  | 5 => fF6E2
  | 9 => fF8E3
  | _ => fF4E2

/-- Element codes of row i of A, in k order: 64 lanes of n. -/
def rowCodes (n : Nat) (a : VReg) (i : Nat) : List Nat :=
  (List.range 64).flatMap fun c => let x := SMap.get 0 a (64 * i + c); (List.range n).map (elem (elemBits n) x)

/-- Element codes of column j of B, in k order: registers m, rows r, elements f. -/
def colCodes (n : Nat) (b : List VReg) (j : Nat) : List Nat :=
  b.flatMap fun reg => (List.range 16).flatMap fun r =>
    let x := SMap.get 0 reg (64 * r + j)
    (List.range n).map (elem (elemBits n) x)

/-- Groups of 32, `n` of them. -/
def groupsOf {α : Type} : Nat → List α → List (List α)
  | 0, _ => []
  | n + 1, l => l.take 32 :: groupsOf n (l.drop 32)

/-- Scale byte of a row of A or of a column of B for group g (f05 R128). -/
def scaleA (sc : VReg) (i g : Nat) : Nat := elem 8 (SMap.get 0 sc (64 * i + g / 4)) (g % 4)
def scaleB (sc : VReg) (j g : Nat) : Nat := elem 8 (SMap.get 0 sc (64 * (j / 4) + 4 + 4 * (j % 4) + g / 4)) (g % 4)

/-- The exact terms of a group folded by f05 R134: NaN, infinity or the finite sum. -/
def groupTerm (es : List (FV × FV)) (terms : List (FV × BitVec 8)) (shift : Option Int) : FV × BitVec 8 :=
  let sig := sigFlag (es.flatMap fun x => [x.1, x.2])
  let infs := terms.filter fun x => x.1.isInf
  let zeroInf := orFlags (terms.map (·.2))
  if es.any fun x => x.1.isNan || x.2.isNan then (.nan false, sig)
  else if zeroInf ≠ 0 then (.nan false, Flag.nv)
  else if (infs.any fun x => x.1.neg?) && (infs.any fun x => !x.1.neg?) then (.nan false, Flag.nv)
  else match infs with
    | x :: _ => (x.1, 0)
    | [] =>
      match shift with
      | none => (.nan false, 0)
      | some k =>
        let fins := terms.filterMap fun x => match x.1 with
          | .fin n m e => some (n, m, e)
          | _ => none
        let (n, m, e) := sumFin fins
        let (c, fl) := finish fF32 (n, m, e + k)
        (fF32.decode c, fl)

/-- One group of a float or LN6 class: its contribution G. -/
def groupG (e : BitVec 64) (as bs : List Nat) (sa sb : Nat) : FV × BitVec 8 :=
  let shift : Option Int := if sa = 0xFF ∨ sb = 0xFF then none else some ((sa : Int) - 127 + ((sb : Int) - 127))
  if ftA e = 7 then groupTerm [] ((as.zip bs).map fun x => (lnProd x.1 x.2, 0)) shift
  else
    let es := (as.zip bs).map fun x => ((ftFmt (ftA e)).decode x.1, (ftFmt (ftB e)).decode x.2)
    groupTerm es (es.map fun x => fProd x.1 x.2) shift

/-- C(i, j) after the groups, each rounded into F32 and then added (f05 R134). -/
def accFloat (c : Nat) (gs : List (FV × BitVec 8)) : Nat × BitVec 8 :=
  gs.foldl (fun acc g =>
    let (c, fl) := fAdd fF32 (fF32.decode acc.1) g.1
    (c, acc.2 ||| g.2 ||| fl)) (c, 0)

/-- C(i, j) after integer group sums, wrapped or saturated (f05 R135). -/
def accInt (sat : Bool) (c : Nat) (sums : List Int) : Nat × BitVec 8 :=
  let t : ITy := ⟨32, true⟩
  sums.foldl (fun acc x =>
    let v := t.value acc.1 + x
    if sat then let (w, fl) := satInt t v; (t.code w, acc.2 ||| fl) else (t.code v, acc.2)) (c, 0)

/-- What an MMA makes of a tile and its row sums, with the flags it raises (f05 R133..R136). -/
def mmaResult (e : BitVec 64) (rs : Bool) (tile rows a : VReg) (b : List VReg) (sc : VReg) : VReg × VReg × BitVec 8 :=
  let n := ftN (ftA e)
  let groups := 2 * n
  let scen := e.getLsbD 33
  let as := (List.range 16).map fun i => groupsOf groups (rowCodes n a i)
  let bs := (List.range 64).map fun j => groupsOf groups (colCodes n b j)
  let ta : ITy := if ftA e = 10 then ⟨4, true⟩ else ⟨8, e.getLsbD 8⟩
  let tb : ITy := if ftA e = 10 then ⟨4, true⟩ else ⟨8, e.getLsbD 9⟩
  let int8 := ftInt (ftA e)
  let cells := (List.range 16).flatMap fun i => (List.range 64).map fun j =>
    let c := (SMap.get 0 tile (64 * i + j)).toNat
    let pairs := (as.getD i []).zip (bs.getD j [])
    let r := if int8 then
        accInt (e.getLsbD 32) c (pairs.map fun p => ((p.1.zip p.2).map fun x => ta.value x.1 * tb.value x.2).foldl (· + ·) 0)
      else
        accFloat c (pairs.zipIdx.map fun p =>
          groupG e p.1.1 p.1.2 (if scen then scaleA sc i p.2 else 127) (if scen then scaleB sc j p.2 else 127))
    (64 * i + j, BitVec.ofNat 32 r.1, r.2)
  let (img, fl) := laneImage cells
  if rs then
    let sums := (List.range 16).map fun i =>
      let r := accInt (e.getLsbD 32) (SMap.get 0 rows i).toNat
        ((as.getD i []).map fun g => (g.map ta.value).foldl (· + ·) 0)
      (i, BitVec.ofNat 32 r.1, r.2)
    let (rimg, fr) := laneImage sums
    (img, rimg, fl ||| fr)
  else (img, rows, fl)

/-! ### The mould of an X-slot command (f03 R78..R81) -/

/-- The key of a tile of a strand's logical core. -/
def Strand.tileKey (st : Strand) (acc : BitVec 8) : Nat := st.lcore * 256 + acc.toNat
def Timetable.tile (t : Timetable) (k : Nat) : VReg := SMap.get [] t.tiles k
def Timetable.rowSums (t : Timetable) (k : Nat) : VReg := SMap.get [] t.rows k

/-- The command counts against the lease and occupies the array (f03 R78). -/
def State.occupy (s : State) (sid occ : Nat) : State :=
  let l := s.lease sid
  let v := (s.strand sid).vclk
  let busy := (l.busy.filter fun b => decide ((s.strand b.1).vclk < b.2)) ++ [(sid, v + occ)]
  let s := s.setLease sid { l with left := l.left - 1, busy := busy }
  if l.left ≤ 1 then s.endLease sid else s

/-- A counted X-slot command: outside the tile window it is illegal; while the strand's own previous command occupies the array it is
suppressed with MXBUSY (f03 R81); in an M-step the implicit lease is a wait and so illegal (f03 R66, f18 R338); else it takes the lease, occupies the array and does `f`. -/
def xCommand (s : State) (acc : Option (BitVec 8)) (occ : Image → Strand → Nat) (f : State → Nat → State) : Result :=
  strandOnly s fun sid =>
    let st := s.strand sid
    if s.inWindow sid acc = false then s.slotIllegal sid 2
    else if s.ownBusy sid then s.suppressHere sid Code.mxBusy 2
    else if s.holdsLease sid = false ∧ (s.noWait sid ∨ s.leaseFree sid = false) then s.slotIllegal sid 2
    else
      let s := if s.holdsLease sid then s else s.grantLease sid
      f (s.occupy sid (occ (s.ttOfStrand sid).img st)) sid

/-- MMA and MMAS under their entry: a bad entry suppresses the command, which still occupies the array (f05 R132). -/
def mmaWord (s : State) (acc : BitVec 8) (ft : BitVec 4) (rs : Bool) (f : State → Nat → BitVec 64 → State) : Result :=
  xCommand s (some acc) (fun img st => img.occFt (st.ftEntry ft)) fun s sid =>
    let e := (s.strand sid).ftEntry ft
    match ftCheck e rs ((s.ttOfStrand sid).img.emulates e) with
    | some code => s.suppressHere sid code 2
    | none => f s sid e

/-- The scale register of an entry, read at issue. -/
def Strand.scales (st : Strand) (e : BitVec 64) : VReg := if e.getLsbD 33 then st.rv (bits e 39 34) else []

/-- MMA reads A, B and the scales at issue; the tile is read and written at issue + 24 (f18 R372). -/
def mmaReg (s : State) (acc : BitVec 8) (a b : BitVec 6) (ft : BitVec 4) (rs : Bool) : Result :=
  mmaWord s acc ft rs fun s sid e =>
    s.modStrand sid fun st =>
      st.push 2 24 (.mma (st.tileKey acc) e (st.rv a.toNat) ((List.range 4).map fun m => st.rv (b.toNat + m)) (st.scales e) rs)

def execMma (c : BitVec 8) (a b : BitVec 6) (f : BitVec 4) (s : State) : Result := mmaReg s c a b f false
def execMmaRs (c : BitVec 8) (a b : BitVec 6) (f : BitVec 4) (s : State) : Result := mmaReg s c a b f true

/-- Window offset of line n of an MMAS operand (f18 R374). -/
def mmasLine (base rpitch tpitch rot n : Nat) : Nat :=
  base + n / 32 * tpitch + n % 32 / 2 * rpitch + 128 * (n % 2) + 131072 * (n % 2 ^ rot)

/-- MMAS: the B operand is read from window C1 by lines; A is V[va] as for MMA, va naming the address register too
(f18 R374, R372; DEDUCED, log entry 23). -/
def mmaMem (s : State) (acc : BitVec 8) (a b : BitVec 6) (ft : BitVec 4) (rs : Bool) : Result :=
  mmaWord s acc ft rs fun s sid e =>
    let st := s.strand sid
    let x := st.rd a.toNat
    let y := st.rd b.toNat
    let base := bits x 31 0
    let rp := bits x 47 32
    let tp := bits y 31 0
    let offs := (List.range 128).map (mmasLine base rp tp (bits y 33 32))
    let c1 := st.rc 1
    if bits x 63 48 ≠ 0 ∨ bits y 63 34 ≠ 0 ∨ base % 128 ≠ 0 ∨ rp % 128 ≠ 0 ∨ tp % 128 ≠ 0 then
      s.suppressHere sid Code.pbFmt 2
    else match offs.findSome? fun o => (s.readCheck sid c1 o 128 (rightR + rightT)).map fun code => (code, o) with
      | some (code, o) => s.suppress sid code 2 1 o
      | none =>
        let lines := offs.map fun o => s.capBytes sid c1 o 128
        s.setStrand sid (st.push 2 24
          (.mmas (st.tileKey acc) e (st.rv a.toNat) st.vclk ((s.ttOfStrand sid).img.occFt e) lines [] (st.scales e) rs))

def execMmas (c : BitVec 8) (a b : BitVec 6) (f : BitVec 4) (s : State) : Result := mmaMem s c a b f false
def execMmasRs (c : BitVec 8) (a b : BitVec 6) (f : BitVec 4) (s : State) : Result := mmaMem s c a b f true

/-- The four B registers of the 128 lines read (f05 R133). -/
def linesToRegs (lines : List (List Byte)) : List VReg :=
  (List.range 4).map fun m =>
    let l := (lines.drop (32 * m)).take 32
    l.zipIdx.flatMap fun x => (List.range 32).filterMap fun k =>
      let v := BitVec.ofNat 32 (natOf ((x.1.drop (4 * k)).take 4))
      if v = 0 then none else some (32 * x.2 + k, v)

/-- MZERO (f18 R376). -/
def execMzero (c : BitVec 8) (s : State) : Result :=
  xCommand s (some c) (fun _ _ => 1) fun s sid =>
    s.modStrand sid fun st => (st.push 2 2 (.tile (st.tileKey c) [])).push 2 2 (.rowsum (st.tileKey c) [])

/-- MLOAD (f18 R371). -/
def execMload (c : BitVec 8) (a : BitVec 6) (s : State) : Result :=
  xCommand s (some c) (fun _ _ => 4) fun s sid =>
    s.modStrand sid fun st => st.push 2 8 (.tile (st.tileKey c) (st.rv a.toNat))

/-! ### Drains (f18 R366..R369) -/

/-- The control register of a drain (f18 R366). -/
structure DrainCtl where
  zb    : Int
  zo    : Int
  shift : Nat
  out   : Nat
  drop  : Bool
  act   : Nat
  resid : Bool
  zpc   : Bool
  bias  : Bool
  scale : Bool
  deriving DecidableEq, Repr

def DrainCtl.ofBits (v : BitVec 64) : DrainCtl :=
  { zb := (v.extractLsb' 48 16).toInt, zo := (v.extractLsb' 40 8).toInt, shift := bits v 37 32, out := bits v 11 8,
    drop := v.getLsbD 7, act := bits v 6 4, resid := v.getLsbD 3, zpc := v.getLsbD 2, bias := v.getLsbD 1,
    scale := v.getLsbD 0 }

/-- The control checks of f18 R368. -/
def drainBad (v : BitVec 64) : Bool :=
  let c := DrainCtl.ofBits v
  decide (bits v 39 38 ≠ 0) || decide (bits v 31 12 ≠ 0) || decide (7 ≤ c.out) || decide (5 ≤ c.act) ||
    (decide (2 ≤ c.act) && decide (c.out ≤ 2)) || (c.zpc && decide (3 ≤ c.out))

/-- What a drain reads: the tile, the row sums, the parameter register, the residual and the dropout words. -/
structure DrainIn where
  tile : VReg
  rows : VReg
  par  : VReg
  res  : VReg
  kept : Nat → Nat → Bool

/-- A signed word. -/
def s32 (v : BitVec 32) : Int := v.toInt

/-- The integer path of one element (f18 R367): the value before placing, and its flags. -/
def drainInt (c : DrainCtl) (x : DrainIn) (i j : Nat) : Nat × BitVec 8 :=
  let par := fun r => s32 (SMap.get 0 x.par (64 * r + j))
  let v := s32 (SMap.get 0 x.tile (64 * i + j))
  let v := if c.scale then v * par 3 else v
  let v := if c.bias then v + par 1 else v
  let v := if c.zpc then v - c.zb * s32 (SMap.get 0 x.rows i) - par 2 else v
  let v := if c.resid then v + s32 (SMap.get 0 x.res (64 * i + j)) else v
  let v := if c.act = 1 ∧ v < 0 then 0 else v
  let v := if c.drop && !x.kept i j then 0 else v
  if c.out = 0 then
    let t : ITy := ⟨32, true⟩
    let (w, fl) := satInt t v
    (t.code w, fl)
  else
    let p := v * par 0
    let (q, _) := toInteger .rne (decide (p < 0)) p.natAbs (-(31 + (c.shift : Int)))
    let t : ITy := ⟨8, c.out == 1⟩
    let (w, fl) := satInt t (q + c.zo)
    (t.code w, fl)

/-- The float path of one element (f18 R367). -/
def drainFloat (c : DrainCtl) (x : DrainIn) (i j : Nat) : Nat × BitVec 8 :=
  let f := fF32
  let par := fun r => f.decode (SMap.get 0 x.par (64 * r + j)).toNat
  let step := fun (on : Bool) (v : Nat × BitVec 8) (g : FV → Nat × BitVec 8) =>
    if on then let (w, fl) := g (f.decode v.1); (w, v.2 ||| fl) else v
  let v := ((SMap.get 0 x.tile (64 * i + j)).toNat, (0 : BitVec 8))
  let v := step c.scale v fun y => fMul f y (par 3)
  let v := step c.bias v fun y => fAdd f y (par 1)
  let v := step c.resid v fun y => fAdd f y (f.decode (SMap.get 0 x.res (64 * i + j)).toNat)
  let v := match c.act with
    | 1 =>
      let y := f.decode v.1
      if y.isNan || (!y.neg? && !y.isZero) then v else (0, v.2)
    | 2 => let (w, fl) := vsf 6 v.1; (w, v.2 ||| fl)
    | 3 => let (w, fl) := vsf 7 v.1; (w, v.2 ||| fl)
    | 4 =>
      let (g, fl) := vsf 6 v.1
      let (w, fl') := fMul f (f.decode v.1) (f.decode g)
      (w, v.2 ||| fl ||| fl')
    | _ => v
  let v := if c.drop then
      (if x.kept i j then step true v fun y => fMul f y (f.decode (SMap.get 0 x.par 258).toNat) else (0, v.2))
    else v
  let dst := match c.out with
    | 3 => fF8E4
    | 4 => fF8E5
    | 5 => fBF16
    | _ => fF32
  let (w, fl) := convTo dst .rne (if c.out < 5 then .satf else .ieee) (f.decode v.1)
  (w, v.2 ||| fl)

/-- Width of an output element (f18 R366). -/
def drainWidth (out : Nat) : Nat :=
  match out with
  | 0 | 6 => 32
  | 5 => 16
  | _ => 8

/-- The image a drain makes, with its flags (f18 R368). -/
def drainImage (c : DrainCtl) (x : DrainIn) : VReg × BitVec 8 :=
  let w := drainWidth c.out
  let n := 32 / w
  laneImage ((List.range 16).flatMap fun i => (List.range (2 * w)).map fun k =>
    (64 * i + k, byElems w n fun e =>
      let j := k * n + e
      if c.out ≤ 2 then drainInt c x i j else drainFloat c x i j))

/-- A drain with a legal control register, at its issue. -/
def State.drain (s : State) (sid : Nat) (acc : BitVec 8) (vb : BitVec 6) (ctl : BitVec 64) : VReg × BitVec 8 :=
  let st := s.strand sid
  let t := s.ttOfStrand sid
  let par := st.rv vb.toNat
  let key := st.getCsr 0x024
  drainImage (DrainCtl.ofBits ctl)
    { tile := t.tile (st.tileKey acc), rows := t.rowSums (st.tileKey acc), par := par, res := st.rv (vb.toNat + 1),
      kept := fun i j => decide (philox key (strandNo sid) (SMap.get 0 par 257).toNat i j 0 < (SMap.get 0 par 256).toNat) }

/-- MDRAIN (f18 R368). -/
def execMdrain (c : BitVec 8) (a b : BitVec 6) (f : BitVec 4) (s : State) : Result :=
  xCommand s (some c) (fun _ _ => 4) fun s sid =>
    let st := s.strand sid
    let ctl := st.rd f.toNat
    if drainBad ctl then s.suppressHere sid Code.ftFmt 2
    else
      let (img, fl) := s.drain sid c b ctl
      s.setStrand sid ((st.push 2 20 (.v a.toNat allLanes img)).pushFlags 2 20 fl)

/-- The bytes of a register image, lane by lane, little-endian. -/
def imageBytes (img : VReg) : List Byte := (List.range 1024).flatMap fun l => bytesOf 4 (SMap.get 0 img l).toNat

/-- MDRAINS (f18 R369). -/
def execMdrains (c : BitVec 8) (a b : BitVec 6) (f : BitVec 4) (s : State) : Result :=
  xCommand s (some c) (fun _ _ => 4) fun s sid =>
    let st := s.strand sid
    let ctl := st.rd f.toNat
    let o := (st.rd a.toNat).toNat
    if drainBad ctl then s.suppressHere sid Code.ftFmt 2
    else if o % 128 ≠ 0 then s.suppress sid Code.capBound 2 1 o
    else match s.writeCheck sid (st.rc 1) o 4096 (rightW + rightT) with
      | some code => s.suppress sid code 2 1 o
      | none =>
        let (img, fl) := s.drain sid c b ctl
        s.setStrand sid ((st.push 2 24 (.store ((s.capBytes sid (st.rc 1) o 4096).zip (imageBytes img)) none false [])).pushFlags
          2 24 fl)

/-! ### Leases (f03 R78..R80, f18 R370) -/

/-- MLEASE: within the strand's own occupancy MXBUSY (f03 R81); nothing for the holder; a free lease is taken; else the strand waits (in
a bundle, before it issues: `execBndl`). -/
def execMlease (s : State) : Result :=
  strandOnly s fun sid =>
    if s.noWait sid then s.slotIllegal sid 2
    else if s.ownBusy sid then s.suppressHere sid Code.mxBusy 2
    else if s.holdsLease sid then s
    else if s.leaseFree sid then s.grantLease sid
    else s.freeze sid .mlease

/-- MFREE: within the strand's own occupancy MXBUSY (f03 R81); else the strand's lease ends at issue. -/
def execMfree (s : State) : Result :=
  strandOnly s fun sid => if s.ownBusy sid then s.suppressHere sid Code.mxBusy 2 else s.endLease sid

/-- LEASE_GRANT: a free lease in a lit window goes to a strand that waits for it (f03 R80). One waiting at an X-slot command
issues its bundle on this gcy, unless a refresh window holds a read of that vcy (f02 R25, R50); one in MLEASE runs its next vcy. -/
def execLeaseGrant (sid : Nat) (s : State) : Result :=
  let st := s.strand sid
  match st.wait with
  | .lease =>
    if s.leaseFree sid ∧ s.refreshHeld sid st.vclk = false then .next ((s.grantLease sid).modStrand sid fun st => { st with wait := .none, ran := true })
    else notEnabled "LEASE_GRANT"
  | .mlease =>
    if s.leaseFree sid then .next ((s.grantLease sid).modStrand sid fun st => st.answer [])
    else notEnabled "LEASE_GRANT"
  | _ => notEnabled "LEASE_GRANT"

end Sys2Proof.Machine
end

