-- ==== Sys2Proof/Machine/VecMem.lean ====
section
/-! DEFINITION. The timed memory words of the T slot: vector, predicate and capability loads and stores (f20 R418, R419, f19
R386, f18 R348). -/
namespace Sys2Proof.Machine

/-- A word enters the strand's timed memory port for `occ` vcy; while an earlier one occupies it, it is suppressed with
ILLOP and leaves its destination unchanged (f12 R318). -/
def tPort (s : State) (occ : Nat) (f : State → Nat → State) : Result :=
  strandOnly s fun sid =>
    let st := s.strand sid
    if st.vclk < st.occT then s.slotIllegal sid 3
    else f (s.setStrand sid { st with occT := st.vclk + occ }) sid

/-- The first check that fails for the bytes of some active lane, with the lowest such lane's offset: `rank` orders the checks (f04 R91; the
lane: DEDUCED, log entry 24). -/
def laneCheck (check : Nat → Option Nat) (rank : Nat → Nat) (base : Nat) (offs : List Nat) : Option (Nat × Nat) :=
  if offs.any fun o => (base + o) % 4 ≠ 0 then
    some (Code.capBound, (offs.find? fun o => (base + o) % 4 ≠ 0).getD 0)
  else
    let bad := offs.filterMap fun o => (check o).map fun c => (rank o, c, o)
    let first := bad.foldl (fun m x => Nat.min m x.1) 6
    (bad.find? fun x => x.1 == first).map (·.2)

/-- Which check of f04 R91 and R113 the bytes of a lane fail: 0 those before the reach of a timed access, 1 the reach, 2 the pin, 3 the port's,
4 the weight store's state, 5 a gate word. -/
def State.checkRank (s : State) (sid : Nat) (c : Cap) (o n need : Nat) (write : Bool) : Nat :=
  match s.capIssue sid c o n need with
  | some code => if code = Code.capTimed then 1 else if code = Code.capUnpin then 2 else 0
  | none => if (s.capPort sid c o n).isSome then 3 else if s.badState c write then 4 else 5

/-- A word of the vector memory mould: active lanes with their offsets, in lane order.  `whole` marks VLD and VST, whose 4096
bytes are checked as one footprint. -/
structure VMem where
  lanes : List Nat
  offs  : List Nat
  whole : Bool
  extra : Nat

/-- The check of a vector access. -/
def State.vmemCheck (s : State) (sid : Nat) (c : Cap) (x : VMem) (store : Bool) : Option (Nat × Nat) :=
  let one := fun (o n : Nat) =>
    if store then s.writeCheck sid c o n (rightW + rightT) else s.readCheck sid c o n (rightR + rightT)
  let base := capBase c.bits
  if x.whole then
    let o := x.offs.headD 0
    if (base + o) % 4 ≠ 0 then some (Code.capBound, o) else (one o 4096).map fun code => (code, o)
  else laneCheck (fun o => one o 4) (fun o => s.checkRank sid c o 4 ((if store then rightW else rightR) + rightT) store) base x.offs

/-- A vector load (f20 R418). -/
def State.vload (s : State) (sid : Nat) (r : BitVec 6) (c : BitVec 5) (x : VMem) (resid : Option Nat) (clear : Bool) : State :=
  let st := s.strand sid
  let cap := st.rc c.toNat
  let lat := s.accLat sid cap (x.offs.headD 0) vldLat true + x.extra
  let act : PReg := x.lanes.map fun l => (l, true)
  match s.vmemCheck sid cap x false with
  | some (code, o) => (s.setStrand sid (st.push 3 lat (.v r.toNat act []))).suppress sid code 3 c.toNat o
  | none =>
    let addrs := x.offs.flatMap fun o => s.capBytes sid cap o 4
    s.timedLoad sid 3 lat (.v r.toNat act resid clear) addrs

/-- A vector store (f20 R418). -/
def State.vstore (s : State) (sid : Nat) (r : BitVec 6) (c : BitVec 5) (x : VMem) (resid : Option Nat) (clear : Bool) : State :=
  let st := s.strand sid
  let cap := st.rc c.toNat
  let lat := s.accLat sid cap (x.offs.headD 0) vldLat false + x.extra
  match s.vmemCheck sid cap x true with
  | some (code, o) => s.suppress sid code 3 c.toNat o
  | none =>
    let bytes := (x.lanes.zip x.offs).flatMap fun lo => (s.capBytes sid cap lo.2 4).zip (bytesOf 4 (st.lane r.toNat lo.1).toNat)
    s.setStrand sid (st.push 3 lat (.store bytes resid clear x.lanes))

/-- All lanes from the offset in Dk. -/
def Strand.wholeMem (st : Strand) (k : BitVec 6) : VMem :=
  let o := (st.rd k.toNat).toNat
  ⟨List.range 1024, (List.range 1024).map fun l => o + 4 * l, true, 0⟩

/-- The lanes of a mask, with the offsets in V[k]. -/
def Strand.indexedMem (st : Strand) (k : BitVec 6) (p : Nat) : VMem :=
  let lanes := (List.range 1024).filter (st.pb p)
  ⟨lanes, lanes.map fun l => (st.lane k.toNat l).toNat, false, 4⟩

/-- The residency predicate of a VLD or VST: none for 0 (f20 R419). -/
def residPred (p : BitVec 7) : Option Nat := if p = 0 then none else some p.toNat

def execVld (r : BitVec 6) (c : BitVec 5) (k : BitVec 6) (p : BitVec 7) (s : State) : Result :=
  tPort s 4 fun s sid => s.vload sid r c ((s.strand sid).wholeMem k) (residPred p) false
def execVst (r : BitVec 6) (c : BitVec 5) (k : BitVec 6) (p : BitVec 7) (s : State) : Result :=
  tPort s 4 fun s sid => s.vstore sid r c ((s.strand sid).wholeMem k) (residPred p) false
def execVldx (r : BitVec 6) (c : BitVec 5) (k : BitVec 6) (p : BitVec 7) (s : State) : Result :=
  tPort s 4 fun s sid => s.vload sid r c ((s.strand sid).indexedMem k p.toNat) (some p.toNat) true
def execVstx (r : BitVec 6) (c : BitVec 5) (k : BitVec 6) (p : BitVec 7) (s : State) : Result :=
  tPort s 4 fun s sid => s.vstore sid r c ((s.strand sid).indexedMem k p.toNat) (some p.toNat) true

/-! ### Predicates (f19 R386) -/

/-- The 128 bytes of a predicate. -/
def predBytes (f : Nat → Bool) : List Byte :=
  (List.range 128).map fun i => BitVec.ofNat 8 ((List.range 8).foldl (fun a k => a + b2n (f (8 * i + k)) * 2 ^ k) 0)

def execPld (r : BitVec 6) (c : BitVec 5) (k : BitVec 6) (h : BitVec 1) (s : State) : Result :=
  tPort s 1 fun s sid =>
    let st := s.strand sid
    let cap := st.rc c.toNat
    let o := (st.rd k.toNat).toNat
    let lat := s.accLat sid cap o vldLat true
    let fail := fun (code : Nat) =>
      (s.setStrand sid (st.push 3 lat (.p (pNo r h) allLanes []))).suppress sid code 3 c.toNat o
    if (capBase cap.bits + o) % 128 ≠ 0 then fail Code.capBound
    else match s.readCheck sid cap o 128 (rightR + rightT) with
      | some code => fail code
      | none => s.timedLoad sid 3 lat (.p (pNo r h)) (s.capBytes sid cap o 128)

def execPst (r : BitVec 6) (c : BitVec 5) (k : BitVec 6) (h : BitVec 1) (s : State) : Result :=
  tPort s 1 fun s sid =>
    let st := s.strand sid
    let cap := st.rc c.toNat
    let o := (st.rd k.toNat).toNat
    let lat := s.accLat sid cap o vldLat false
    if (capBase cap.bits + o) % 128 ≠ 0 then s.suppress sid Code.capBound 3 c.toNat o
    else match s.writeCheck sid cap o 128 (rightW + rightT) with
      | some code => s.suppress sid code 3 c.toNat o
      | none =>
        s.setStrand sid (st.push 3 lat (.store ((s.capBytes sid cap o 128).zip (predBytes (st.pb (pNo r h)))) none false []))

/-! ### Sealed capabilities (f18 R348, f04 R95, R96) -/

def execCld (r : BitVec 6) (c : BitVec 5) (k : BitVec 6) (i : BitVec 7) (s : State) : Result :=
  tPort s 4 fun s sid =>
    let st := s.strand sid
    let cap := st.rc c.toNat
    let o := offImm (st.rd k.toNat) 32 i
    let lat := s.accLat sid cap o vldLat true
    let fail := fun (code : Nat) => (s.setStrand sid (st.push 3 lat (.c r.toNat Cap.null))).suppress sid code 3 c.toNat o
    if (capBase cap.bits + o) % 32 ≠ 0 then fail Code.capBound
    else match s.readCheck sid cap o 32 (rightR + rightT) with
      | some code => fail code
      | none => s.timedLoad sid 3 lat (.c r.toNat c.toNat o) (s.capBytes sid cap o 32)

def execCst (r : BitVec 6) (c : BitVec 5) (k : BitVec 6) (i : BitVec 7) (s : State) : Result :=
  tPort s 4 fun s sid =>
    let st := s.strand sid
    let cap := st.rc c.toNat
    let o := offImm (st.rd k.toNat) 32 i
    let lat := s.accLat sid cap o vldLat false
    if (capBase cap.bits + o) % 32 ≠ 0 then s.suppress sid Code.capBound 3 c.toNat o
    else match s.writeCheck sid cap o 32 (rightW + rightT) with
      | some code => s.suppress sid code 3 c.toNat o
      | none =>
        let v := (st.rc r.toNat).bits
        let key := (s.tenant (s.owner sid)).key
        let storable := hasRights (capRights v) rightS
        let word := sealCap key (if storable then v else 0)
        let s := s.setStrand sid (st.push 3 lat (.store ((s.capBytes sid cap o 32).zip (bytesOf 32 word.toNat)) none false []))
        if storable then s else s.fault sid Code.capRights 3 r.toNat o

end Sys2Proof.Machine
end

