-- ==== Sys2Proof/Machine/Perform.lean ====
section
/-! DEFINITION. Timed writes performing: sampling at the start of a vcy, landing at its end, sync words; and sync meetings
(f03 R62..R64, f04 R110, f06 R149, R150, f07 R198, R403, f08 R209, f14 R327). -/
namespace Sys2Proof.Machine

/-! ### Sampling (f06 R149) -/

/-- A byte of an address; a non-resident one is 0. -/
def State.peek (s : State) (a : Option Nat) : Byte := match a with | some a => s.mem.read a | none => 0

/-- What a pending operation reads at the start of vcy v. -/
def State.samplePend (s : State) (v : Nat) (p : Pend) : Pend :=
  let due := match p.samp with
    | some t => decide (t ≤ v)
    | none => false
  match p.eff with
  | .load dst addrs none => if due then { p with eff := .load dst addrs (some (addrs.map s.peek)) } else p
  | .ox dst src none fixed sync rp line =>
    if due then { p with eff := .ox dst src (some (src.map s.peek)) fixed sync rp line } else p
  | .mmas t ft a issue occ lines got sc rs =>
    let n := mmasTaken issue occ v lines.length
    if got.length < n then
      let more := ((lines.take n).drop got.length).map fun l => l.map s.peek
      { p with eff := .mmas t ft a issue occ lines (got ++ more) sc rs }
    else p
  | _ => p

/-- A strand that runs a vcy on this gcy samples what falls due in it. -/
def State.sampleStrand (s : State) (sid : Nat) : State :=
  let st := s.strand sid
  if st.ran then s.setStrand sid { st with pend := st.pend.map (s.samplePend st.vclk) } else s

def State.sampleAll (s : State) : State := (SMap.keys s.strands).foldl State.sampleStrand s

/-! ### Circuits of remote writes (f08 R205..R209) -/

/-- SEL of an output; a reserved one connects nothing. -/
def selOf (e : Word) (out : Nat) : Nat := e.toNat / 16 ^ out % 16
def connects (e : Word) : Bool := (List.range 8).any fun o => decide (selOf e o < 8)

/-- An entry of a slot table; all ones is no connection. -/
def noSel : Word := 0xFFFFFFFF#32

/-- The entry of a table that governs a gcy. -/
def entryAt (m : SMap (SMap Word)) (inst gcy : Nat) : Word := SMap.get noSel (SMap.get [] m inst) (gcy % 256)

/-- Where the circuit leads that starts at a port of a router on a gcy of the timetable, followed through the entries of each stage's own
vcy (f08 R205..R207): to the memory router `dst` (router 21 of a die stands for its weight store, which R204 attaches nowhere), or out by a link, whose number and vcy from the start it gives. -/
def State.trace (s : State) (stride : Nat) (dst : Option Nat) : (fuel router port gcy vcy : Nat) → Option (Nat × Nat)
  | 0, _, _, _, _ => none
  | fuel + 1, router, port, gcy, vcy =>
    let e := entryAt s.routers router gcy
    (List.range 8).findSome? fun o =>
      if selOf e o ≠ port then none
      else match portTo router o with
        | .router r p => s.trace stride dst fuel r p (gcy + stride) (vcy + 1)
        | .memory => if dst = some router then some (36, vcy + 1) else none
        | .bridge die =>
          if connects (entryAt s.bridges (bridgeNo (router / 24) die) (gcy + stride)) then
            (let (r, p) := bridgeSeat die (router / 24)
             if dst = some (die * 24 + 21) then some (36, vcy + 5) else s.trace stride dst fuel r p (gcy + 5 * stride) (vcy + 5))
          else none
        | .link n => if dst.isNone ∧ connects (entryAt s.linkTabs n (gcy + stride)) then some (n, vcy + 1) else none
        | _ => none

/-- The circuit of a remote write that performs on gcy `at_`: it starts at the cluster's router, by the port of its scratchpad or of its Ox
engines, on a vcy between its issue and T later, which is not said (DEDUCED, log entry 152). The link it leaves by (36: none) and how long
before it performs the flit goes there. -/
def State.circuit (s : State) (sid a at_ : Nat) : Option (Nat × Nat) :=
  let t := s.ttOfStrand sid
  let p := s.placeOfStrand sid
  let dst := if addrPkg a = p.pkg then some ((memRouter a).getD (addrDie a * 24 + 21)) else none
  let h := t.hops (addrPkg a) (addrDie a)
  let lat := vldLat (homeOf a)
  (List.range (lat + 1)).findSome? fun d =>
    [4, 5].findSome? fun port =>
      let before := h + lat - d
      (s.trace t.stride dst 64 (p.die * 24 + p.clu) port (at_ + 256 * t.stride - before * t.stride % (256 * t.stride)) 0).map fun x =>
        (x.1, before - x.2)

/-- A write of a strand reaches the byte: it is near, or its flit has a circuit and has not been dropped. -/
def State.reaches (s : State) (sid a : Nat) : Bool :=
  !s.isRemote sid a || ((s.circuit sid a s.gclk.toNat).isSome && !s.lostFlits.contains (ttOf sid, a / 32))

/-- The flits dropped on their way have taken the writes they carried with them: a later write to the same bytes is another flit (f08 R209). -/
def State.spendLost (s : State) (sid : Nat) (addrs : List Nat) : State :=
  let hit := (addrs.filter (s.isRemote sid)).map fun a => (ttOf sid, a / 32)
  { s with lostFlits := hit.eraseDups.foldl (fun l x => l.erase x) s.lostFlits }

/-! ### Sync words (f07 R198, R403, f08 R209) -/

/-- The write of an MLOAD or MZERO into a tile. -/
def Eff.fills (e : Eff) : Bool :=
  match e with
  | .tile _ _ | .rowsum _ _ => true
  | _ => false

/-- The strand is frozen in a local wait on this gcy of its phase set. -/
def Strand.frozenNow (st : Strand) : Bool :=
  st.begun && !st.ran && match st.wait with
    | .none | .done _ | .barrier | .exit _ => false
    | _ => true

/-- A write performs on this gcy. One due in a vcy that a meeting's new VCLK passes over lands in the meeting's vcy (f03 R62, R64; DEDUCED, log
entry 133). A frozen strand's writes hold with its VCLK (f02 R30), but for those with which the matrix array fills a tile: the trace of
f14, on which R323 and R324 rest, has MLOADs perform at their own gcy while their strands wait at a meeting (DEDUCED, log entry 130). -/
def Strand.lands (st : Strand) (p : Pend) : Bool :=
  (st.ran && decide (p.due ≤ st.vclk)) || (st.frozenNow && p.eff.fills && decide (p.due ≤ st.nextVcy))

/-- Writes of a strand that perform on this gcy. -/
def Strand.landing (st : Strand) : List Pend := st.pend.filter st.lands

/-- What has performed is no longer pending; what fills a tile has come a vcy nearer though the strand was frozen (log entry 130). -/
def Strand.landed (st : Strand) : Strand :=
  let left := st.pend.filter fun p => !st.lands p
  { st with pend := if st.frozenNow then left.map fun p => if p.eff.fills then { p with due := p.due - 1 } else p else left }

/-- A line with a non-resident destination byte is dropped, one with a non-resident source byte is zeros (f04 R110). -/
def oxDropped (dst : List (Option Nat)) : Bool := dst.any Option.isNone
def oxHole (src : List (Option Nat)) (fixed : List (Option Byte)) : Bool :=
  (src.zip fixed).any fun x => x.1.isNone && x.2.isNone

/-- The sync words of the open M-step whose logical core lies on the die of an address (DEDUCED, log entry 35). -/
def State.tagged (s : State) (tt a : Nat) : List Nat :=
  let t := s.tt tt
  match t.mstep with
  | none => []
  | some m => match t.img.msteps[m]? with
    | none => []
    | some e => e.syncs.filterMap fun x =>
      let p := t.placeOf x.1
      if p.pkg = addrPkg a ∧ p.die = addrDie a then
        match windowAddr t x.1 (x.2 * 32) with
        | .at_ w => some w
        | _ => none
      else none

/-- Bytes that arrive at sync words with a landing write: its own sync word's, or, for a fabric write of an M-step, those
its die's sync words count. -/
def State.arrivals (s : State) (sid : Nat) (p : Pend) : List (Nat × Nat) :=
  let fabric := fun (l : List Nat) =>
    match l.filter fun a => s.isRemote sid a && s.reaches sid a with
    | [] => []
    | a :: t => (s.tagged (ttOf sid) a).map fun w => (w, (a :: t).length)
  match p.eff with
  | .ox dst _ _ _ sync _ _ =>
    if oxDropped dst ∨ dst.isEmpty then []
    else match sync with
      | some w => (w, (dst.filterMap id).countP (s.reaches sid)) :: fabric (dst.filterMap id)
      | none => fabric (dst.filterMap id)
  | .store bytes _ _ _ => fabric (bytes.filterMap (·.1))
  | _ => []

/-- The scratchpad ports apply this gcy's counted arrivals, the timed ones here and the untimed ones as they perform; its SYNCARMs, the
higher strand number last, are noted. -/
def State.syncStage (s : State) : State :=
  let sids := SMap.keys s.strands
  let s := sids.foldl (fun s sid =>
    (s.strand sid).landing.foldl (fun s p => (s.arrivals sid p).foldl (fun s x => s.syncArrive x.1 x.2) s) s) s
  { s with arming := sids.flatMap fun sid => (s.strand sid).landing.filterMap fun p => match p.eff with
    | .arm a t => some (a, t)
    | _ => none }

/-- They follow the gcy's arrivals, and the plain writes of untimed bytes to their words follow them; the timed ones land next. -/
def State.armStage (s : State) : State :=
  let s := s.arming.foldl (fun s x => s.syncArm x.1 x.2) s
  { s.writeBytes s.lateBytes with arming := [], lateBytes := [] }

/-! ### Landing (f03 R62, R63) -/

/-- A lane mask as a number. -/
def maskOf (m : PReg) : Nat := m.foldl (fun a x => if x.2 then a ||| 2 ^ x.1 else a) 0

/-- Locations a write lands in: of the strand, of its timetable's tiles, of its owner's memory. -/
def State.locsOf (s : State) (sid : Nat) (e : Eff) : List (Nat × Nat × Nat) :=
  let reg := fun (cls n m : Nat) => [(sid, cls * 2 ^ 16 + n, m)]
  match e with
  | .d r _ _ => if r = 0 then [] else reg 1 r 1
  | .c r _ => if r = 0 then [] else reg 2 r 1
  | .v r m _ => reg 3 r (maskOf m)
  | .vbits r m _ => reg 3 r (maskOf (m.map fun x => (x.1, true)))
  | .p r m _ => if r = 0 then [] else reg 4 r (maskOf m)
  | .mq k _ => reg 5 k 1
  | .mb k _ => reg 6 k 1
  | .csr n _ => reg 7 n 1
  | .tile t _ => [(2 ^ 64 + ttOf sid, t, 1)]
  | .rowsum t _ => [(2 ^ 65 + ttOf sid, t, 1)]
  | .mma t _ _ _ _ rs => (2 ^ 64 + ttOf sid, t, 1) :: if rs then [(2 ^ 65 + ttOf sid, t, 1)] else []
  | .mmas t _ _ _ _ _ _ _ rs => (2 ^ 64 + ttOf sid, t, 1) :: if rs then [(2 ^ 65 + ttOf sid, t, 1)] else []
  | .store bytes _ _ _ => byteLocs (s.owner sid) (bytes.filterMap (·.1))
  | .load dst _ _ => match dst with
    | .d r _ => if r = 0 then [] else reg 1 r 1
    | .v r act _ _ => reg 3 r (maskOf act)
    | .p r => if r = 0 then [] else reg 4 r (maskOf allLanes)
    | .c r _ _ => if r = 0 then [] else reg 2 r 1
  | .ox dst _ _ _ _ _ _ => if oxDropped dst then [] else byteLocs (s.owner sid) (dst.filterMap id)
  | _ => []

/-- Residency bits of a set of lanes (f04 R110, f20 R419). -/
def Strand.report (st : Strand) (resid : Option Nat) (clear : Bool) (lanes : List (Nat × Bool)) : Strand :=
  match resid with
  | none => st
  | some p =>
    if clear then st.wp p ((lanes.filter (·.2)).map fun x => (x.1, true)) []
    else st.wp p (lanes.map fun x => (x.1, true)) ((lanes.filter (·.2)).map fun x => (x.1, true))

/-- Lanes of four bytes, in lane order, with whether one of a lane's bytes is missing. -/
def laneHoles (lanes : List Nat) (addrs : List (Option Nat)) : List (Nat × Bool) :=
  lanes.zipIdx.map fun x => (x.1, ((addrs.drop (4 * x.2)).take 4).any Option.isNone)

/-- A load's bytes land in its destination. -/
def State.landLoad (s : State) (sid : Nat) (dst : LoadDst) (addrs : List (Option Nat)) (got : List Byte) : State :=
  let s := s.meterMove sid (addrs.filterMap id) false true
  match dst with
  | .d r taint => s.modStrand sid fun st =>
      st.wd r (if addrs.any Option.isNone then 0 else BitVec.ofNat 64 (natOf got)) taint
  | .p r => s.modStrand sid fun st =>
      st.wp r allLanes (SMap.ofFn false 1024 fun l =>
        !(addrs.getD (l / 8) none).isNone && (got.getD (l / 8) 0).getLsbD (l % 8))
  | .v r act resid clear =>
    let lanes := SMap.keys act
    let holes := laneHoles lanes addrs
    let vals := holes.zipIdx.filterMap fun x =>
      let v := BitVec.ofNat 32 (natOf ((got.drop (4 * x.2)).take 4))
      if x.1.2 ∨ v = 0 then none else some (x.1.1, v)
    s.modStrand sid fun st => (st.wv r act vals).report resid clear holes
  | .c r creg off =>
    if addrs.any Option.isNone then s.modStrand sid fun st => st.wc r Cap.null
    else match unsealCap (s.tenant (s.owner sid)).key (s.owner sid) (BitVec.ofNat 256 (natOf got)) with
      | some c => s.modStrand sid fun st => st.wc r ⟨c, false⟩
      | none => (s.modStrand sid fun st => st.wc r Cap.null).fault sid Code.capTag 3 creg off

/-- A store's bytes land; a lane with a non-resident byte is dropped. -/
def State.landStore (s : State) (sid : Nat) (bytes : List (Option Nat × Byte)) (resid : Option Nat) (clear : Bool)
    (lanes : List Nat) : State :=
  let holes := laneHoles lanes (bytes.map (·.1))
  let kept := if lanes.isEmpty then bytes else
    bytes.zipIdx.filterMap fun x => if (holes.getD (x.2 / 4) (0, false)).2 then none else some x.1
  let l := (kept.filterMap fun x => x.1.map fun a => (a, x.2)).filter fun x => s.reaches sid x.1
  let s := ((s.writeBytes l).meterMove sid (l.map (·.1)) true true).spendLost sid (kept.filterMap (·.1))
  s.modStrand sid fun st => st.report resid clear holes

/-- A timed Ox line lands. -/
def State.landOx (s : State) (sid : Nat) (dst src : List (Option Nat)) (got : List Byte) (fixed : List (Option Byte))
    (rpred : Option Nat) (line : Nat) : State :=
  let hole := oxHole src fixed
  let dropped := oxDropped dst
  let vals := (got.zip fixed).map fun x => if hole then 0 else x.2.getD x.1
  let l := if dropped then [] else ((dst.zip vals).filterMap fun x => x.1.map fun a => (a, x.2)).filter fun x => s.reaches sid x.1
  let s := ((s.writeBytes l).meterMove sid (l.map (·.1)) true true).spendLost sid (dst.filterMap id)
  let s := if hole ∨ dropped then s else s.meterMove sid (src.filterMap id) false true
  match rpred with
  | some p => if (hole || dropped) && decide (line < 1024) then s.modStrand sid fun st => st.wp p [(line, true)] [(line, true)] else s
  | none => s

/-- Bytes of a pending write with the values they carry. -/
def Eff.carries (e : Eff) : List (Nat × Byte) :=
  match e with
  | .store bytes _ _ _ => bytes.filterMap fun x => x.1.map fun a => (a, x.2)
  | .ox dst _ got fixed _ _ _ =>
    if oxDropped dst then [] else
    ((dst.zip ((got.getD []).zip fixed)).filterMap fun x => x.1.map fun a => (a, x.2.2.getD x.2.1))
  | _ => []

/-- The flits of a strand's writes to other packages that go out on this gcy, each by the link of its circuit, so as to perform there in
their vcy (f08 R209, R210): a line's other bytes as they are known here. -/
def State.ownFlits (s : State) (sid : Nat) : List (Nat × Flit) :=
  let st := s.strand sid
  let t := s.ttOfStrand sid
  if st.ran = false ∨ t.mstep.isNone then []
  else st.pend.flatMap fun p =>
    let far := p.eff.carries.filter fun x => s.farAway x.1
    ((far.map fun x => x.1 / 32).eraseDups).filterMap fun line =>
      match s.circuit sid (line * 32) (s.gclk.toNat + (p.due - st.vclk) * t.stride) with
      | some (n, before) =>
        if n < 36 ∧ p.due = st.vclk + before then
          let mem := s.mem.writeAll far
          some (n, ⟨ttOf sid + 1, t.tenant, 0, BitVec.ofNat 256 (natOf (mem.readN (line * 32) 32)), some (line * 32)⟩)
        else none
      | none => none

/-- They take lanes of their links' frames. -/
def State.sendOwn (s : State) : State :=
  ((SMap.keys s.strands).flatMap s.ownFlits).foldl (fun s x =>
    let l := SMap.get Link.down s.links x.1
    { s with links := SMap.set Link.down s.links x.1 { l with out := l.out ++ [(l.out.length, x.2)] } }) s

/-- Every strand of a timetable counts an event of the timetable (f12 R315). -/
def State.countTt (s : State) (tt src : Nat) : State := (s.sids tt).foldl (fun s sid => s.modStrand sid fun st => st.count src 1) s

/-- A product lands in a tile: what it reads of the tile stands at the start of the vcy. -/
def State.landMma (s : State) (old : Timetable) (sid t : Nat) (e : BitVec 64) (a : VReg) (b : List VReg) (sc : VReg) (rs : Bool) :
    State :=
  let (img, rows, fl) := mmaResult e rs (old.tile t) (old.rowSums t) a b sc
  let s := s.modTt (ttOf sid) fun x =>
    let x := { x with tiles := SMap.set [] x.tiles t img }
    if rs then { x with rows := SMap.set [] x.rows t rows } else x
  let s := s.modStrand sid fun st => st.raise fl
  let core := (s.placeOfStrand sid).coreNo
  let s := (s.sids (ttOf sid)).foldl (fun s k =>
    if (s.placeOfStrand k).coreNo = core then s.modStrand k fun st => st.count 4 1 else s) s
  s.meterTt (ttOf sid) (if ftA e = 9 then 0 else Nat.min (ftA e) 8) (16 * 64 * 64 * ftN (ftA e))

/-- One write lands. -/
def State.land (s : State) (old : Timetable) (sid : Nat) (e : Eff) : State :=
  match e with
  | .d r v t => s.modStrand sid fun st => st.wd r v t
  | .clrt m => s.modStrand sid fun st => { st with taint := st.taint &&& ~~~ m }
  | .c r v => s.modStrand sid fun st => st.wc r v
  | .v r m x => s.modStrand sid fun st => st.wv r m x
  | .vbits r m x => s.modStrand sid fun st => st.wvBits r m x
  | .p r m x => s.modStrand sid fun st => st.wp r m x
  | .mq k x => s.modStrand sid fun st => { st with mq := SMap.set [] st.mq k x }
  | .mb k x => s.modStrand sid fun st => { st with mb := SMap.set [] st.mb k x }
  | .csr n v => s.modStrand sid fun st => st.landCsr n v
  | .flags f => s.modStrand sid fun st => st.raise f
  | .tile t x => s.modTt (ttOf sid) fun y => { y with tiles := SMap.set [] y.tiles t x }
  | .rowsum t x => s.modTt (ttOf sid) fun y => { y with rows := SMap.set [] y.rows t x }
  | .mma t ft a b sc rs => s.landMma old sid t ft a b sc rs
  | .mmas t ft a _ _ lines got sc rs =>
    (s.meterMove sid (lines.flatten.filterMap id) false true).landMma old sid t ft a (linesToRegs got) sc rs
  | .store bytes resid clear lanes => s.landStore sid bytes resid clear lanes
  | .load dst addrs got => s.landLoad sid dst addrs (got.getD (addrs.map s.peek))
  | .ox dst src got fixed _ rp line => s.landOx sid dst src (got.getD (src.map s.peek)) fixed rp line
  | .qb h q => s.modStrand sid fun st => { st.setQb h q with qbheld := st.qbheld.filter fun u => u.1 != h }
  | .arm _ _ => s
  | .meter i n => s.meterTt (ttOf sid) i n

/-- Whether one landing write comes before another: slot class, strand, order of issue (f03 R63). -/
def landBefore (a b : Nat × Pend) : Bool :=
  if a.2.slot ≠ b.2.slot then decide (a.2.slot < b.2.slot)
  else if a.1 ≠ b.1 then decide (a.1 < b.1)
  else decide (a.2.seq < b.2.seq)

/-- Everything a timetable writes on this gcy, in the order that leaves the value of f03 R63. -/
def State.landings (s : State) (tt : Nat) : List (Nat × Pend) :=
  sortBy landBefore ((s.sids tt).flatMap fun sid => (s.strand sid).landing.map fun p => (sid, p))

/-- TIMED_PERFORM: the writes of a timetable that perform on this gcy land; each that meets a location already written on it
is one event of WWSAME (DEDUCED, log entry 36). -/
def execTimedPerform (tt : Nat) (s : State) : Result :=
  match s.landings tt with
  | [] => notEnabled "TIMED_PERFORM"
  | l =>
    let old := s.tt tt
    let s := (s.sids tt).foldl (fun s sid => s.modStrand sid Strand.landed) s
    .next (l.foldl (fun s x =>
      let locs := s.locsOf x.1 x.2.eff
      let s := if meetLocs locs s.landed then s.countTt tt 1 else s
      let s' := State.land { s with landed := s.landed ++ locs } old x.1 x.2.eff
      if (s.strand x.1).replaying then s'.keepMeters s tt else s') s)

/-! ### Sync meetings (f03 R64) -/

/-- The siblings of a logical core. -/
def State.siblings (s : State) (tt lc : Nat) : List Nat := (s.sids tt).filter fun sid => (s.strand sid).lcore == lc

/-- Every sibling is at its SYNC bundle or has exited (f03 R64). One that has issued EXIT and still drains counts as exited (DEDUCED, log
entry 134); one suspended at a safe point, or stopped in place, keeps the others waiting. -/
def State.allMet (s : State) (tt lc : Nat) : Bool :=
  let l := s.siblings tt lc
  (l.any fun sid => (s.strand sid).wait == .meet) &&
    l.all fun sid => let st := s.strand sid; (st.wait == .meet && !st.halt && decide (st.life = 1)) || st.ending

/-- A strand that a meeting lets go on: it runs the vcy of its SYNC bundle on this gcy, unless a refresh window holds a weight-store read of
that vcy (f02 R25, R50). -/
def State.meetAt (s : State) (sid v : Nat) : State :=
  if s.refreshHeld sid v then
    let g := s.gclk.toNat
    s.modStrand sid fun st => { st with vclk := v, wait := .refresh (g - g % 4096 + 512), met := true, ran := false }
  else s.modStrand sid fun st => { st with vclk := v, wait := .none, met := true, ran := true }

/-- SYNC_MEETING: all VCLKs become the greatest of the siblings that meet (one that has exited adds none: DEDUCED, log entry 134), and they
go on from their SYNC bundles on this gcy. -/
def execSyncMeeting (tt lc : Nat) (s : State) : Result :=
  if s.allMet tt lc = false then notEnabled "SYNC_MEETING"
  else
    let l := (s.siblings tt lc).filter fun sid => (s.strand sid).wait == .meet
    let v := l.foldl (fun m sid => Nat.max m (s.strand sid).vclk) 0
    .next (l.foldl (fun s sid => s.meetAt sid v) s)

end Sys2Proof.Machine
end

