-- ==== Sys2Proof/Machine/Launches.lean ====
section
/-! DEFINITION. Completion records, argument blocks, and how a launch goes from node to node (f02 R44, R45, f03 R87, f09
R233, R238, R240..R242). -/
namespace Sys2Proof.Machine

/-! ### Completion records (f09 R238) -/

/-- Status codes of f09 R238. -/
def cOk : Nat := 0x00
def cRefused : Nat := 0x01
def cExitMix : Nat := 0x02
def cFault : Nat := 0x03
def cStepFail : Nat := 0x04
def cBadArg : Nat := 0x05
def cBusy : Nat := 0x06
def cNoSpace : Nat := 0x07
def cHostErr : Nat := 0x08
def cBadGraph : Nat := 0x09
def cTimeout : Nat := 0x0A
def cNotRes : Nat := 0x0C
def cMCheck : Nat := 0x0D

/-- Command codes of f09 R239. -/
def opcLaunch : Nat := 0x02

/-- Base address and log2 size of a ring register (f09 R232). -/
def ringBase (v : BitVec 64) : Nat := v.toNat / 4096 * 4096 % 2 ^ 56
def ringLog (v : BitVec 64) : Nat := v.toNat % 32

/-- The 32 bytes of record i of a ring of 2^n records. -/
def compBytes (c : Comp) (i n : Nat) : List Byte :=
  bytesOf 4 (b2n (decide (i / 2 ^ n % 2 = 0)) + b2n c.prom * 2 ^ 8 + c.status % 256 * 2 ^ 16 + c.opc % 256 * 2 ^ 24) ++
    bytesOf 4 c.pidx.toNat ++ bytesOf 2 0 ++ bytesOf 2 c.seq ++ bytesOf 4 c.tag.toNat ++ bytesOf 16 c.data.toNat

/-- Records written and not yet consumed. -/
def Queue.unread (q : Queue) : Nat := (q.cidx - q.cqhead).toNat
/-- The completion ring has room for a record. -/
def Queue.roomy (q : Queue) : Bool := decide (q.unread < 2 ^ ringLog q.cqcfg)

/-- A queue disabled, with what it still holds dropped. -/
def Queue.disable (q : Queue) : Queue :=
  { q with st := 0, comps := [], fetched := none, running := 0, resetting := false, wait := none }

/-- One held record goes to host memory when the ring has room. The record of a refused launch counts in no meter (f09 R253, f13 R321; log
entry 170). -/
def State.flushOne (s : State) (fn q : Nat) : State :=
  let x := s.queue fn q
  match x.comps with
  | c :: rest =>
    if x.roomy then
      let n := ringLog x.cqcfg
      let a := ringBase x.cqcfg + 32 * (x.cidx.toNat % 2 ^ n)
      let s := { s.meterHost fn (if c.status = cRefused then 0 else 32) true with mem := s.mem.writeN (s.spaceOf fn a) (compBytes c x.cidx.toNat n) }
      s.setQueue fn q { x with comps := rest, cidx := x.cidx + 1 }
    else s
  | [] => s

/-- Every record that has room is written; a queue that was being reset is disabled once nothing is left (f09 R233). -/
def State.flush (s : State) (fn q : Nat) : State :=
  let s := (s.queue fn q).comps.foldl (fun s _ => s.flushOne fn q) s
  let x := s.queue fn q
  if x.resetting ∧ x.running = 0 ∧ x.comps.isEmpty ∧ x.fetched.isNone then s.setQueue fn q { x.disable with ecode := 0 } else s

/-- A packet has ended: its record is written where COMP or an error asks for it (f09 R236). A queue that has been disabled
meanwhile writes none. -/
def State.complete (s : State) (p : Pkt) (opc status seq : Nat) (prom : Bool) (data : BitVec 128) : State :=
  let x := s.queue p.fn p.q
  if x.st = 0 then s
  else
    let x := if p.ring then { x with running := x.running - 1 } else x
    let c : Comp := ⟨opc, status, p.tag, seq, p.pidx, prom, data⟩
    let x := if p.comp ∨ status ≠ cOk then { x with comps := x.comps ++ [c] } else x
    (s.setQueue p.fn p.q x).flush p.fn p.q

/-! ### Argument blocks (f09 R242) -/

/-- The 1024 bytes of an argument block of a function; none at or beyond the block count. -/
def State.argBlock (s : State) (fn idx : Nat) : Option (List Byte) :=
  let cfg := (s.func fn).argcfg
  if idx < cfg.toNat % 4096 then some (s.mem.readN (s.spaceOf fn (ringBase cfg + 1024 * idx)) 1024) else none

/-- Sealed form i of a block. -/
def blockForm (b : List Byte) (i : Nat) : Sealed := BitVec.ofNat 256 (natOf ((b.drop (32 * i)).take 32))

/-- The capabilities a block gives C2..C31; none when a form that is not all zero fails f04 R96. -/
def State.blockCaps (s : State) (tenant : Nat) (b : List Byte) : Option (SMap Cap) :=
  (List.range 30).foldl (fun acc i => match acc with
    | none => none
    | some m =>
      let w := blockForm b i
      if w = 0 then some m
      else match unsealCap (s.tenant tenant).key tenant w with
        | some c => some (SMap.set Cap.null m (i + 2) ⟨c, false⟩)
        | none => none) (some [])

/-- The values a block gives D1..D7. -/
def blockRegs (b : List Byte) : SMap (BitVec 64) :=
  (List.range 7).foldl (fun m i => SMap.set 0 m (i + 1) (BitVec.ofNat 64 (natOf ((b.drop (960 + 8 * i)).take 8)))) []

/-! ### Launches (f09 R240, R241) -/

def State.launch (s : State) (n : Nat) : Launch := SMap.get Launch.none s.launches n
def State.setLaunch (s : State) (n : Nat) (l : Launch) : State := { s with launches := SMap.set Launch.none s.launches n l }

/-- The registered graph of a function, and a launch's. -/
def State.graph (s : State) (fn h : Nat) : List Node := SMap.get [] (s.func fn).graphs h
def State.launchGraph (s : State) (lid : Nat) : List Node := s.graph (s.launch lid).fn (s.launch lid).req.graph

def setNth (l : List Nat) (i v : Nat) : List Nat := l.zipIdx.map fun x => if x.2 = i then v else x.1

/-- Node state i of a launch: 0 waiting, 1 handed on, 2 running, 3 done, 4 skipped. -/
def Launch.node (l : Launch) (i : Nat) : Nat := l.nodes.getD i 4
def State.setNode (s : State) (lid i v : Nat) : State :=
  let l := s.launch lid
  s.setLaunch lid { l with nodes := setNth l.nodes i v }

/-- Predecessors of a node, and whether some node's SUCC names it. -/
def Node.preds (n : Node) : List Nat := (List.range 64).filter fun j => n.pred.getLsbD j
def succOf (g : List Node) (i : Nat) : Bool := g.any fun n => n.succ.getLsbD i

/-- A request enters the admission order (f03 R87); a ready node's comes by vb.dispatch (f09 R243). -/
def State.dispatch (s : State) (kind lid node tt cls : Nat) (place : List Place) : State :=
  { s with
    nextReq := s.nextReq + 1,
    muleDown := s.muleDown && decide (kind ≠ 0),
    requests := s.requests ++ [⟨s.nextReq, kind, lid, node, tt, cls, cls, s.gclk.toNat, s.gclk.toNat, place, false, none⟩] }

/-- A launch ends: its completion carries its status and the promise of its timetables. -/
def State.endLaunch (s : State) (lid : Nat) : State :=
  let l := s.launch lid
  let s := s.setLaunch lid { l with live := false }
  s.complete l.pkt opcLaunch l.status l.req.seq l.prom l.data

/-- One pass over a launch's waiting nodes: a node all of whose predecessors were skipped is skipped, a successor of an EXIT among them; one
that no SUCC names and whose predecessors have all completed or been skipped is handed to the weaver. -/
def State.advancePass (s : State) (lid : Nat) : State :=
  let g := s.launchGraph lid
  g.zipIdx.foldl (fun s x =>
    let l := s.launch lid
    let preds := x.1.preds
    if l.node x.2 ≠ 0 then s
    else if ¬ preds.isEmpty ∧ (preds.all fun j => l.node j == 4) then s.setNode lid x.2 4
    else if succOf g x.2 then s
    else if preds.all fun j => decide (3 ≤ l.node j) then
      (s.setNode lid x.2 1).dispatch 0 lid x.2 0 l.req.cls []
    else s) s

/-- A launch goes on: until no pass skips a further node; with nothing handed on or running and nothing left, or after a
failure, it ends. -/
def State.advance (s : State) (lid : Nat) : State :=
  let l := s.launch lid
  let s := if l.status = cOk then l.nodes.foldl (fun s _ => s.advancePass lid) s else s
  let l := s.launch lid
  let busy := l.nodes.any fun x => x == 1 || x == 2
  if l.live ∧ ¬ busy ∧ (l.status ≠ cOk ∨ l.nodes.all fun x => decide (3 ≤ x)) then s.endLaunch lid else s

/-- A node has ended well, with the successor its EXIT named: the others of its SUCC are skipped, the named one is left to
its start in place. -/
def State.nodeDone (s : State) (lid node : Nat) (next : Option Nat) : State :=
  let g := s.launchGraph lid
  let s := s.setNode lid node 3
  match g[node]? with
  | none => s.advance lid
  | some n =>
    let s := (List.range g.length).foldl (fun s j =>
      if n.succ.getLsbD j ∧ some j ≠ next then s.setNode lid j 4
      else if some j = next then s.setNode lid j 1 else s) s
    s.advance lid

/-- A node has ended with an error or was refused: the launch keeps the first, and no further node of it starts. -/
def State.nodeFailed (s : State) (lid node status : Nat) (data : BitVec 128) : State :=
  let s := s.setNode lid node 3
  let l := s.launch lid
  let s := if l.status = cOk then s.setLaunch lid { l with status := status, data := data } else s
  -- requests of the launch still in the order never run
  let gone := s.requests.filter fun r => r.kind == 0 && r.launch == lid
  let s := { s with requests := s.requests.filter fun r => !(r.kind == 0 && r.launch == lid) }
  let s := gone.foldl (fun s r => s.setNode lid r.node 4) s
  s.advance lid

/-- Ring bytes a LAUNCH packet was read from. -/
def Pkt.slotBytes (p : Pkt) : Nat := if p.ring then 64 else 0

/-- The host bytes a launch still owes count with its grant, and with each node's grant the block it was read with (f09 R242, R252; log
entry 170). -/
def State.chargeGrant (s : State) (lid : Nat) : State :=
  let l := s.launch lid
  (s.meterHost l.fn (1024 + l.owed) false).setLaunch lid { l with owed := 0 }

/-- A launch starts (f09 R240, R242): an index beyond the block count or a form that fails f04 R96 gives BADARG, a graph the
function does not hold too. Bytes 1016..1023 of the block, which R242 has zero, are not looked at (DESIGN CHOICE, log entry 136). -/
def State.startLaunch (s : State) (p : Pkt) (r : LaunchReq) : State :=
  let g := s.graph p.fn r.graph
  let (ok, n) := match s.argBlock p.fn r.argidx with
    | some b => ((s.blockCaps p.fn b).isSome, 1024)
    | none => (false, 0)
  if g.isEmpty ∨ ok = false then (s.meterHost p.fn (p.slotBytes + n) false).complete p opcLaunch cBadArg r.seq true 0
  else
    let lid := s.nextLaunch
    let l : Launch := ⟨true, p.fn, p, r, g.map fun _ => 0, true, cOk, 0, p.slotBytes⟩
    State.advance { s.setLaunch lid l with nextLaunch := lid + 1 } lid

/-! ### Refusal records (f02 R44, R45) -/

/-- The refusal codes. -/
def rNoSlots : Nat := 0x01
def rNoPhase : Nat := 0x02
def rPhaseTaken : Nat := 0x03
def rNoPin : Nat := 0x04
def rNoScratch : Nat := 0x05
def rNoAcc : Nat := 0x06
def rNoSem : Nat := 0x07
def rStride : Nat := 0x08
def rRoute : Nat := 0x09
def rStep : Nat := 0x0A

/-- A refusal record. -/
def refusal (gclk seq graph sugph sugstr rkind code : Nat) : BitVec 128 :=
  BitVec.ofNat 128 (gclk % 2 ^ 64 * 2 ^ 64 + seq % 2 ^ 16 * 2 ^ 48 + graph % 2 ^ 16 * 2 ^ 32 + sugph % 2 ^ 8 * 2 ^ 24 +
    sugstr % 2 ^ 8 * 2 ^ 16 + rkind % 2 ^ 8 * 2 ^ 8 + code % 2 ^ 8)

/-- The copy of a function whose HIDE bit is set. -/
def hidden (r : BitVec 128) : BitVec 128 := r &&& ~~~ (0xFFFFFF00#128)

end Sys2Proof.Machine
end

