-- ==== Sys2Proof/Machine/SaveArea.lean ====
section
/-! DEFINITION. The save area of a suspended timetable (f10 R275, R276): its bytes, the object that holds them, and what a resume
takes back from it. -/
namespace Sys2Proof.Machine

/-! ### Sparse runs of bytes -/

/-- A run of bytes: its length, and the bytes that are not 0, by offset. -/
abbrev Part := Nat × List (Nat × Byte)

def partOf (l : List Byte) : Part := (l.length, (l.zipIdx.filter fun x => x.1 != 0).map fun x => (x.2, x.1))

/-- A run of `n` words of `w` bytes, of which `l` lists those that may not be 0. -/
def partWords (w n : Nat) (l : List (Nat × Nat)) : Part :=
  (w * n, (l.filter fun x => decide (x.1 < n)).flatMap fun x => (partOf (bytesOf w x.2)).2.map fun y => (w * x.1 + y.1, y.2))

def Part.append (a b : Part) : Part := (a.1 + b.1, a.2 ++ b.2.map fun x => (a.1 + x.1, x.2))
def partsJoin (l : List Part) : Part := l.foldl Part.append (0, [])

/-- The bytes of a run written out, from offset `i` on. -/
def spread : (n i : Nat) → List (Nat × Byte) → List Byte
  | 0, _, _ => []
  | n + 1, i, [] => 0 :: spread n (i + 1) []
  | n + 1, i, x :: t => if x.1 = i then x.2 :: spread n (i + 1) t else 0 :: spread n (i + 1) (x :: t)

/-! ### The parts of the area (f10 R275) -/

/-- What a strand's stop says: its live map, the stop kind (0 safe, 1 barrier, 2 discard; 3 for a strand that has ended) and its cluster's
mode (0 drain, 1 save, 2 discard).  The numbers are the model's (DESIGN CHOICE, log entry 37). -/
structure SaveStop where
  sid  : Nat
  map  : LiveMap
  kind : Nat
  mode : Nat
  deriving DecidableEq, Repr

/-- The map with every bit set, of a stop at barrier arrival (f10 R274). -/
def LiveMap.full : LiveMap := ⟨.allOnes 64, .allOnes 32, .allOnes 48, .allOnes 128, 0, .allOnes 256, .allOnes 64⟩

/-- Bytes of a live set's registers. -/
def popBits {n : Nat} (v : BitVec n) : Nat := (List.range n).countP fun i => v.getLsbD i
def LiveMap.regBytes (m : LiveMap) : Nat :=
  8 * popBits m.dmask + 16 * popBits m.cmask + 4096 * popBits m.vmask + 128 * popBits m.pmask

/-- The live map of a strand that has ended: nothing. -/
def LiveMap.none : LiveMap := ⟨0, 0, 0, 0, 0, 0, 0⟩

/-- A queue buffer's descriptor (f07 R200), with the visible pointers (f19 R394). -/
def QB.image (q : QB) : BitVec 128 := q.vprod ++ q.vcons ++ q.nm1 ++ q.sz ++ 0#55 ++ BitVec.ofBool q.v ++ q.base

/-- The CSRs of a strand record in its order: LC0..LC2, FTSEL, FT0..FT15, FLAGS, FAULT, RNGKEY, TAINT, PROMISE, ECSEL0..7, ECVAL0..7. -/
def saveCsrs : List Nat :=
  [0x30, 0x31, 0x32, 0x20] ++ (List.range 16).map (0x40 + ·) ++ [0x10, 0x11, 0x24, 0x13, 0x12] ++ (List.range 8).map (0x80 + ·) ++
    (List.range 8).map (0x88 + ·)

/-- A strand record: 1024 bytes, the fields in the order of f10 R275, 8 bytes each and 16 for a descriptor, then zeros (DESIGN CHOICE,
log entry 37). -/
def State.saveRecord (s : State) (x : SaveStop) : Part :=
  let st := s.strand x.sid
  let csr := fun (n : Nat) => (if 0x11 ≤ n ∧ n ≤ 0x13 then s.readCsr x.sid n else st.getCsr n).toNat
  let words := [st.vclk, st.pc, x.kind, x.mode] ++ saveCsrs.map csr
  let qbs := (List.range 16).map fun h => (st.qbuf h).image.toNat
  (1024, (partOf (words.flatMap (bytesOf 8) ++ qbs.flatMap (bytesOf 16))).2)

/-- A vector register or a tile: 1024 lanes of 4 bytes. -/
def vregPart (v : VReg) : Part := partWords 4 1024 (v.map fun x => (x.1, x.2.toNat))

/-- A predicate: 128 bytes, lane 0 in bit 0 of the first. -/
def pregPart (p : PReg) : Part :=
  partOf ((List.range 128).map fun i => BitVec.ofNat 8 (((List.range 8).map fun j => 2 ^ j * b2n (SMap.get false p (8 * i + j))).sum))

/-- The live registers of a strand, each class in increasing order. -/
def State.saveRegs (s : State) (x : SaveStop) : List Part :=
  let st := s.strand x.sid
  let live := fun {n : Nat} (m : BitVec n) => (List.range n).filter m.getLsbD
  [partOf ((live x.map.dmask).flatMap fun i => bytesOf 8 (st.rd i).toNat),
   partOf ((live x.map.cmask).flatMap fun i => bytesOf 16 (st.rc i).bits.toNat)] ++
  (live x.map.vmask).map (fun i => vregPart (st.rv i)) ++
  (live x.map.pmask).map fun i => pregPart (if i = 0 then allLanes else SMap.get [] st.p i)

/-- A register or bank is live in a logical core where the map of one of its strands names it. -/
def liveIn (stops : List SaveStop) (lcore : Nat → Nat) (lc : Nat) (named : LiveMap → Bool) : Bool :=
  stops.any fun x => lcore x.sid == lc && named x.map

/-- The live banks of a logical core, by bank number and device address. -/
def State.saveBanks (s : State) (tt : Nat) (stops : List SaveStop) (lc : Nat) : List (Nat × Nat) :=
  let p := (s.tt tt).placeOf lc
  p.banks.zipIdx.filterMap fun b =>
    if liveIn stops (fun sid => (s.strand sid).lcore) lc fun m => m.bmask.getLsbD b.2 then
      some (b.2, devAddr p.pkg p.die 0 (p.clu * 2 ^ 23 + b.1 * 131072))
    else Option.none

/-- A logical core's live tiles with their row sums, and its semaphores; its banks stand between them. -/
def State.saveTiles (s : State) (tt : Nat) (stops : List SaveStop) (lc : Nat) : List Part :=
  let t := s.tt tt
  ((List.range t.img.tiles).filter fun i => liveIn stops (fun sid => (s.strand sid).lcore) lc fun m => m.tmask.getLsbD i).flatMap fun i =>
    [vregPart (SMap.get [] t.tiles (lc * 256 + i)),
     partWords 4 16 ((SMap.get [] t.rows (lc * 256 + i)).map fun x => (x.1, x.2.toNat))]
def State.saveSems (s : State) (tt lc : Nat) : Part :=
  partOf ((List.range (s.tt tt).img.sems).flatMap fun i => bytesOf 4 ((s.tt tt).sem (lc * 256 + i)).toNat)

/-- The bytes of memory from `a` up, as a run. -/
def State.memPart (s : State) (a n : Nat) : Part :=
  (n, (s.mem.filter fun x => decide (a ≤ x.1) && decide (x.1 < a + n)).map fun x => (x.1 - a, x.2))

/-- The image of an unstarted queue entry: the command word, its eight parameter registers, zeros between and after.  A collective's one
parameter stands first. -/
def queueImage (word : BitVec 32) (l : List (BitVec 64)) : List Byte :=
  bytesOf 8 word.toNat ++ (List.range 8).flatMap (fun i => bytesOf 8 (l.getD i 0).toNat) ++ bytesOf 8 0

/-- The queue images of a strand, queue by queue. -/
def State.saveQueues (s : State) (sid : Nat) : Part :=
  partOf ((List.range 5).flatMap fun q => ((s.strand sid).queue q).flatMap fun e => match e with
    | .job j => if (s.job j.id).st = .queued then queueImage j.word j.blk else []
    | .coll c => queueImage c.word [BitVec.ofNat 64 c.o]
    | .marker _ => [])

/-- The logical cores of a timetable on this package. -/
def State.coresHere (s : State) (tt : Nat) : List Nat :=
  (s.tt tt).place.zipIdx.filterMap fun p => if p.1.pkg = s.pkg then some p.2 else Option.none

/-- What follows the header, with the place of each live bank: its window key and its offset in the area. -/
def State.saveBody (s : State) (tt : Nat) (stops : List SaveStop) : Part × List (Nat × Nat) :=
  let head := partsJoin (stops.map s.saveRecord ++ stops.flatMap s.saveRegs)
  let core := fun (acc : Part × List (Nat × Nat)) (lc : Nat) =>
    let a := acc.1.append (partsJoin (s.saveTiles tt stops lc))
    let b := (s.saveBanks tt stops lc).foldl (fun (acc : Part × List (Nat × Nat)) b =>
      (acc.1.append (s.memPart b.2 131072), acc.2 ++ [(lc * 2 ^ 23 + b.1 * 131072, 256 + acc.1.1)])) (a, acc.2)
    (b.1.append (s.saveSems tt lc), b.2)
  let r := (s.coresHere tt).foldl core (head, [])
  (r.1.append (partsJoin (stops.map fun x => s.saveQueues x.sid)), r.2)

/-- The header: 256 bytes, with COMMIT 1. -/
def State.saveHeader (s : State) (tt strands : Nat) (digest : BitVec 384) : List Byte :=
  let t := s.tt tt
  let l := s.launch t.launch
  bytesOf 8 1 ++ bytesOf 8 s.gclk.toNat ++ bytesOf 48 t.img.hash.toNat ++ bytesOf 1 t.tenant ++ bytesOf 2 l.req.graph ++ bytesOf 2 l.req.seq ++
    bytesOf 1 t.node ++ bytesOf 1 (Nat.log2 t.stride) ++ bytesOf 1 t.phase ++ bytesOf 4 strands ++ bytesOf 4 t.step ++
    bytesOf 48 digest.toNat ++ bytesOf 8 1 ++ bytesOf 120 0

/-! ### The object that holds it -/

/-- A free number in a tenant's object table, searched from a free choice on (log entry 126). -/
def State.freeObj (s : State) (tenant : Nat) : Nat × State :=
  let (k, s) := s.pick (2 ^ 24 - 2)
  let used := (s.tenant tenant).objs.length
  let cand := (List.range (used + 1)).map fun i => 1 + (k + i) % (2 ^ 24 - 2)
  ((cand.find? fun n => entKind (s.obj tenant n).entry == 0).getD 1, s)

/-- The die of the area: that of the first logical core here. -/
def State.saveDie (s : State) (tt : Nat) : Nat := ((s.tt tt).placeOf ((s.coresHere tt).headD 0)).die

/-- The length of the area and the size of its extent. -/
def State.saveLen (s : State) (tt : Nat) (stops : List SaveStop) : Nat := 256 + (s.saveBody tt stops).1.1
def State.saveSize (s : State) (tt : Nat) (stops : List SaveStop) : Nat := 2 ^ (12 + xszFor (s.saveLen tt stops))

/-- The bytes of the area that are not 0, placed from address `a` up. -/
def State.saveCells (s : State) (tt : Nat) (stops : List SaveStop) (a : Nat) : List (Nat × Byte) :=
  let body := (s.saveBody tt stops).1
  let header := partOf (s.saveHeader tt stops.length (Config.sha384 (spread body.1 0 body.2)))
  (Part.append header body).2.map fun x => (a + x.1, x.2)

/-- The object of a save area of `len` bytes in one extent at `a` of a die, holding the bytes given. -/
def State.areaObject (s : State) (tenant die len a : Nat) (cells : List (Nat × Byte)) : Nat × State :=
  let (n, s) := s.freeObj tenant
  let e := entSet (entSet (entSet (entSet (entSet 0 252 4 4) 249 3 3) 246 3 die) 243 1 1) 239 3 1
  let e := entSet (entSet (entSet e 234 5 (xszFor len)) 180 44 len) 135 45 (a / 4096)
  (n, (s.setObj tenant n { Obj.free with entry := e }).writeBytes cells)

/-- The area is created in DRAM and written, COMMIT last; none where DRAM has no room. -/
def State.writeSave (s : State) (tt : Nat) (rot : List Nat) (stops : List SaveStop) : Option State :=
  let t := s.tt tt
  let len := s.saveLen tt stops
  match s.newExtent (s.saveDie tt) 3 (s.saveSize tt stops) with
  | Option.none => Option.none
  | some (a, s1) =>
    let (n, s1) := s1.areaObject t.tenant (s.saveDie tt) len a (s.saveCells tt stops a)
    some (s1.setTt tt { t with saved := some ⟨n, (s.saveBody tt stops).2, s.gclk.toNat, rot⟩ })

/-- The bytes the save area of a timetable holds, by offset. -/
def State.saveBytes (s : State) (tt : Nat) : List (Nat × Byte) :=
  match (s.tt tt).saved with
  | some v => s.objBytes (s.tt tt).tenant v.obj
  | Option.none => []

/-- The save is there and its COMMIT reads 1: without it an area is never resumed. -/
def State.committed (s : State) (tt : Nat) : Bool :=
  (s.tt tt).saved.isSome && ((s.saveBytes tt).filter fun x => decide (128 ≤ x.1) && decide (x.1 < 136)) == [(128, 1)]

/-- The saved banks go into the new placement, by logical identity (f10 R276). -/
def State.restoreBanks (s : State) (tt : Nat) : State :=
  let t := s.tt tt
  let banks := t.saved.elim [] (·.banks)
  s.writeBytes ((s.saveBytes tt).filterMap fun x =>
    (banks.find? fun b => decide (b.2 ≤ x.1) && decide (x.1 < b.2 + 131072)).bind fun b =>
      match windowAddr t (b.1 / 2 ^ 23) (b.1 % 2 ^ 23 + (x.1 - b.2)) with
      | .at_ a => some (a, x.2)
      | _ => Option.none)

/-! ### What a resume takes from it (f10 R276) -/

/-- The bytes of an area in a range that are not 0, by their place in it; and the number they hold. -/
def cellsAt (m : List (Nat × Byte)) (off n : Nat) : List (Nat × Byte) :=
  (m.filter fun x => decide (off ≤ x.1) && decide (x.1 < off + n)).map fun x => (x.1 - off, x.2)
def numAt (m : List (Nat × Byte)) (off n : Nat) : Nat := ((cellsAt m off n).map fun x => x.2.toNat * 256 ^ x.1).sum

/-- A vector register, a predicate and a queue buffer's descriptor as an area holds them. -/
def vregAt (m : List (Nat × Byte)) (off n : Nat) : VReg :=
  (cellsAt m off n).foldl (fun v x => SMap.set 0 v (x.1 / 4) (SMap.get 0 v (x.1 / 4) ||| BitVec.ofNat 32 (x.2.toNat * 256 ^ (x.1 % 4)))) []
def pregAt (m : List (Nat × Byte)) (off : Nat) : PReg :=
  (cellsAt m off 128).foldl (fun p x => (List.range 8).foldl (fun p j =>
    if x.2.getLsbD j then SMap.set false p (8 * x.1 + j) true else p) p) []
def qbAt (m : List (Nat × Byte)) (off : Nat) : QB :=
  let v := BitVec.ofNat 128 (numAt m off 16)
  ⟨v.extractLsb' 112 16, v.extractLsb' 96 16, v.extractLsb' 112 16, v.extractLsb' 96 16, v.extractLsb' 84 12, v.extractLsb' 79 5,
    v.getLsbD 23, v.extractLsb' 0 23⟩

/-- The numbers of the set bits of a mask, each with the offset of what stands for it in a row of pieces of `w` bytes from `off` up. -/
def liveAt {n : Nat} (mask : BitVec n) (off w : Nat) : List (Nat × Nat) :=
  ((List.range n).filter mask.getLsbD).zipIdx.map fun x => (x.1, off + w * x.2)

/-- A strand as its record and its live data have it. What the area has no place for stays as the timetable kept it (log entry 37); a
strand stopped inside loops has them active, with body and count from their LOOP words (f16 R328). -/
def State.restoreStrand (s : State) (m : List (Nat × Byte)) (sid record off : Nat) (map : LiveMap) : State :=
  let w := fun (i : Nat) => BitVec.ofNat 64 (numAt m (record + 8 * i) 8)
  let pc := (w 1).toNat
  let d := off
  let c := d + 8 * popBits map.dmask
  let v := c + 16 * popBits map.cmask
  let p := v + 4096 * popBits map.vmask
  let csr := fun (st : Strand) => saveCsrs.zipIdx.foldl (fun st x =>
    if 0x11 ≤ x.1 ∧ x.1 ≤ 0x13 then st else st.setCsr x.1 (w (4 + x.2))) st
  let at_ := fun (n : Nat) => w (4 + saveCsrs.findIdx (· == n))
  s.modStrand sid fun st =>
    let caps := (liveAt map.cmask c 16).foldl (fun r x =>
      SMap.set Cap.null r x.1 ⟨BitVec.ofNat 128 (numAt m x.2 16), (SMap.get Cap.null st.c x.1).win⟩) []
    { csr st with
      vclk := (w 0).toNat, pc := pc, loops := if st.wait = .barrier then st.loops else s.loopsAt sid pc,
      fault := at_ 0x11, taint := at_ 0x13 &&& map.dmask,
      d := (liveAt map.dmask d 8).foldl (fun r x => SMap.set 0 r x.1 (BitVec.ofNat 64 (numAt m x.2 8))) [], c := caps,
      v := (liveAt map.vmask v 4096).foldl (fun r x => SMap.set [] r x.1 (vregAt m x.2 4096)) [],
      p := (liveAt map.pmask p 128).foldl (fun r x => SMap.set [] r x.1 (pregAt m x.2)) [],
      qb := (List.range 16).foldl (fun r h => SMap.set QB.zero r h (qbAt m (record + 8 * (4 + saveCsrs.length) + 16 * h))) [] }

/-- The tiles, row sums and semaphores of one logical core, from offset `off` on; where its part of the area ends. -/
def State.restoreCore (s : State) (m : List (Nat × Byte)) (tt lc off : Nat) (maps : List (Nat × LiveMap)) : State × Nat :=
  let t := s.tt tt
  let named := fun (f : LiveMap → Bool) => maps.any fun x => x.1 == lc && f x.2
  let tiles := ((List.range t.img.tiles).filter fun i => named fun k => k.tmask.getLsbD i).zipIdx
  let banks := (List.range t.img.banks).countP fun i => named fun k => k.bmask.getLsbD i
  let sems := off + 4160 * tiles.length + 131072 * banks
  let t := tiles.foldl (fun t x => { t with
    tiles := SMap.set [] t.tiles (lc * 256 + x.1) (vregAt m (off + 4160 * x.2) 4096),
    rows := SMap.set [] t.rows (lc * 256 + x.1) (vregAt m (off + 4160 * x.2 + 4096) 64) }) t
  let t := (List.range t.img.sems).foldl (fun t i => t.setSem (lc * 256 + i) (BitVec.ofNat 32 (numAt m (sems + 4 * i) 4))) t
  (s.setTt tt t, sems + 4 * t.img.sems)

/-- Every part of the area restored, by logical identity (f10 R276); the queue images stand at the heads of the queues the strands kept. -/
def State.restoreArea (s : State) (tt : Nat) : State :=
  let m := s.saveBytes tt
  let recs := (s.sids tt).zipIdx.map fun x =>
    let record := 256 + 1024 * x.2
    let kind := numAt m (record + 16) 8
    let map := if kind = 3 then LiveMap.none else if kind = 1 then LiveMap.full
      else (s.liveMap x.1 (numAt m (record + 8) 8)).getD LiveMap.full
    (x.1, record, kind, map)
  let r := recs.foldl (fun (acc : State × Nat) x =>
    (if x.2.2.1 = 3 then acc.1 else acc.1.restoreStrand m x.1 x.2.1 acc.2 x.2.2.2, acc.2 + x.2.2.2.regBytes))
    (s, 256 + 1024 * recs.length)
  let maps := recs.map fun x => ((s.strand x.1).lcore, x.2.2.2)
  let r := (s.coresHere tt).foldl (fun (acc : State × Nat) lc => acc.1.restoreCore m tt lc acc.2 maps) r
  r.1.restoreBanks tt

/-! ### Another device (f10 R277) -/

/-- The migration record of a suspended timetable: its area's header with its own 32 meter totals; and the source Mule's signature. -/
def State.migrationRecord (s : State) (tt : Nat) : List Byte :=
  let m := s.saveBytes tt
  (List.range 256).map (fun i => BitVec.ofNat 8 (numAt m i 1)) ++ (List.range 32).flatMap fun k => bytesOf 8 (SMap.get 0 (s.tt tt).meters k).toNat
def State.signMigration (s : State) (tt : Nat) : List Byte := s.signed (bytesOf 48 (Config.sha384 (s.migrationRecord tt)).toNat)

/-- A save area from another device is accepted: its record is signed, is about this area, and names the timetable's image. -/
def State.foreignOk (s : State) (tt : Nat) : Bool :=
  match (s.tt tt).foreign with
  | Option.none => true
  | some (record, sig) =>
    let m := s.saveBytes tt
    Config.verify record sig && record.take 256 == (List.range 256).map (fun i => BitVec.ofNat 8 (numAt m i 1)) &&
      (record.drop 16).take 48 == bytesOf 48 (s.tt tt).img.hash.toNat

/-- The timetable's own totals go on from those its record carries. -/
def State.takeTotals (s : State) (tt : Nat) : State :=
  match (s.tt tt).foreign with
  | Option.none => s
  | some (record, _) => s.modTt tt fun t => { t with
      foreign := Option.none,
      meters := (List.range 32).foldl (fun m k => SMap.set 0 m k (BitVec.ofNat 64 (natOf ((record.drop (256 + 8 * k)).take 8)))) [] }

/-- The area is given back, its bytes zeroed: at a resume, where a save under way is given up, and where its timetable stops (f10 R273, R279,
R280). -/
def State.dropSave (s : State) (tt : Nat) : State :=
  let t := s.tt tt
  match t.saved with
  | Option.none => s
  | some v => ((s.freeExtents t.tenant (s.obj t.tenant v.obj).entry 0).setObj t.tenant v.obj Obj.free).setTt tt { t with saved := Option.none }

end Sys2Proof.Machine
end

