-- ==== Sys2Proof/Machine/Weaver.lean ====
section
/-! DEFINITION. The weaver: the collision rule, placement, allotment and pinning, admission, compaction, promotion (f02
R27..R47, R52..R54, f03 R87, f04 R105, R108, R118, f10 R276, R437). -/
namespace Sys2Proof.Machine

/-! ### Weaves (f02 R27, R28, R33, R34) -/

/-- Two pairs collide. -/
def collides (a b : Nat × Nat) : Bool := a.2 % Nat.min a.1 b.1 == b.2 % Nat.min a.1 b.1

/-- The weave of a resource: owner (timetable key plus one; 0 the untimed reserve) and pair. -/
def State.weave (s : State) (r : Nat × Nat) : List (Nat × Nat × Nat) :=
  let (st, ph) := SMap.get (0, 0) s.reserve r.1
  (if st = 0 then [] else [(0, st, ph)]) ++
    (s.pairs.filter fun p => p.kind == r.1 && p.inst == r.2).map fun p => (p.owner, p.s, p.ph)

/-- A pair collides with nothing in the weave of a resource but what belongs to the owners left out. -/
def State.freeOn (s : State) (r pair : Nat × Nat) (skip : List Nat) : Bool :=
  (s.weave r).all fun x => skip.contains x.1 || !collides pair (x.2.1, x.2.2)

/-- Free of f02 R36: on every resource. -/
def State.free (s : State) (res : List (Nat × Nat)) (pair : Nat × Nat) (skip : List Nat) : Bool :=
  res.all fun r => s.freeOn r pair skip

/-- A weave is valid: no two of its pairs collide (f02 R28). -/
def weaveOk : List (Nat × Nat × Nat) → Bool
  | [] => true
  | x :: t => (t.all fun y => !collides (x.2.1, x.2.2) (y.2.1, y.2.2)) && weaveOk t

/-! ### Strides (f02 R31, R32, R38) -/

/-- The strides of a STRIDES byte, rising. -/
def stridesOf (b : BitVec 8) : List Nat := ((List.range 7).filter fun i => b.getLsbD i).map fun i => 2 ^ i

/-- The acceptable strides of a node: the image's, narrowed by the node's unless those are 0. -/
def acceptable (img node : BitVec 8) : BitVec 8 := if node = 0 then img &&& 0x7F#8 else img &&& node &&& 0x7F#8

/-- The limits of f02 R32. -/
def Timetable.stepOk (t : Timetable) : Bool :=
  (t.img.msteps.all fun m => decide (1 ≤ m.len) && decide (m.len ≤ 2 ^ 20)) && !(stridesOf t.strides).isEmpty &&
    (match t.pin with
      | some p => (stridesOf t.strides).contains p.1
      | none => true)

/-- Strides not below the owner's entitlement. -/
def State.allowed (s : State) (t : Timetable) : List Nat :=
  (stridesOf t.strides).filter fun x => decide ((s.tenant t.tenant).entitle ≤ x)

/-- StrideOK of f02 R36. -/
def State.strideOk (s : State) (t : Timetable) : Bool :=
  match t.pin with
  | some p => decide ((s.tenant t.tenant).entitle ≤ p.1)
  | none => !(s.allowed t).isEmpty

/-- Every pair of a stride. -/
def phases (x : Nat) : List (Nat × Nat) := (List.range x).map fun f => (x, f)

/-- Candidates of f02 R38. -/
def State.candidates (s : State) (t : Timetable) : List (Nat × Nat) :=
  match t.pin with
  | some p => [p]
  | none => (s.allowed t).flatMap phases

/-! ### Code (f02 R36) -/

/-- The bundles of a code section from `pc` on: header address, header, and its slot words as (slot, address, word). -/
def bundlesFrom (code : SMap Word) (len : Nat) : Nat → Nat → List (Nat × Word × List (Nat × Nat × Word))
  | 0, _ => []
  | fuel + 1, pc =>
    if len ≤ pc then []
    else
      let h := SMap.get 0 code pc
      let m := if isHeader h then (List.range 4).filter fun i => h.getLsbD i else []
      let slots := m.zipIdx.map fun x => (x.1, pc + 1 + x.2, SMap.get 0 code (pc + 1 + x.2))
      (pc, h, slots) :: bundlesFrom code len fuel (pc + 1 + m.length)

/-- The bundles of a class. -/
def Image.bundles (img : Image) (cls : Nat) : List (Nat × Word × List (Nat × Nat × Word)) :=
  let len := SMap.get 0 img.codeLen cls
  bundlesFrom (SMap.get [] img.code cls) len len 0

/-- The engine a timed Ox word uses. -/
def timedEngine (w : Word) : Option Nat :=
  match decode .tMap w with
  | some (.oxcopy _ _ _ q 1) | some (.oxgath _ _ _ q 1) | some (.oxscat _ _ _ q 1) | some (.oxfill _ _ q 1) => some q.toNat
  | _ => none

/-- A class's code holds an X-slot word; the engines its timed Ox words use. -/
def Image.hasX (img : Image) (cls : Nat) : Bool := (img.bundles cls).any fun b => b.2.2.any fun w => w.1 == 2
def Image.engines (img : Image) (cls : Nat) : List Nat :=
  ((img.bundles cls).flatMap fun b => b.2.2.filterMap fun w => if w.1 = 3 then timedEngine w.2.2 else .none).eraseDups

/-! ### Placement (f02 R37, f04 R108) -/

/-- Slot groups placements hold in this package: core and mask. -/
def State.heldGroups (s : State) : List (Nat × Nat) :=
  s.tts.flatMap fun x => if x.2.placed then
    (x.2.place.filter fun p => p.pkg == s.pkg).map fun p => (p.coreNo, p.mask) else []

/-- Free slot groups of a core. -/
def freeGroups (held : List (Nat × Nat)) (core : Nat) : List Nat :=
  (List.range 4).filter fun g => held.all fun x => x.1 != core || !x.2.testBit g

/-- The mask of some slot groups. -/
def maskBits (l : List Nat) : Nat := l.foldl (fun m g => m ||| 2 ^ g) 0

/-- One logical core on the lowest core of a die with room. -/
def fitCore (pkg die w : Nat) (held : List (Nat × Nat)) : Option (Place × List (Nat × Nat)) :=
  ((List.range 96).find? fun n => decide (w ≤ (freeGroups held (96 * die + n)).length)).map fun n =>
    let m := maskBits ((freeGroups held (96 * die + n)).take w)
    (⟨pkg, die, n / 8, n % 8, m, true, []⟩, (96 * die + n, m) :: held)

/-- c logical cores on one die. -/
def fitDie (pkg die w : Nat) : Nat → List (Nat × Nat) → Option (List Place × List (Nat × Nat))
  | 0, held => some ([], held)
  | c + 1, held => match fitCore pkg die w held with
    | none => none
    | some (p, held) => (fitDie pkg die w c held).map fun x => (p :: x.1, x.2)

/-- An entry of a place table as a word (f04 R108). -/
def placeOfWord (w : BitVec 32) : Place :=
  ⟨w.toNat / 2 ^ 23 % 2 ^ 9, w.toNat / 2 ^ 20 % 8, w.toNat / 2 ^ 16 % 16, w.toNat / 2 ^ 13 % 8, w.toNat / 2 ^ 9 % 16, true, []⟩

/-- Where a logical core of a pinned timetable lies (log entry 38). -/
def farEntry (t : Timetable) (lc : Nat) : Place := placeOfWord (Config.farPlace t.img.hash lc)

/-- Packages of the domain's trained links with this one, rising. -/
def State.packages (s : State) : List Nat :=
  sortBy (fun a b => decide (a < b)) ((s.trained.flatMap fun k => [k.a, k.b]) ++ [s.pkg]).eraseDups

/-- The package of a logical die: this one (f02 R37), but for a pinned timetable of several logical dies in a domain of several packages,
which may span them (f02 R39; log entry 38). -/
def State.diePkg (s : State) (t : Timetable) (x : Nat) : Nat :=
  match t.pin with
  | none => s.pkg
  | some _ =>
    let p := (farEntry t (x * t.img.c)).pkg
    if 1 < t.img.d ∧ s.packages.contains p then p else s.pkg

/-- Place of f02 R37, for the logical dies from `x` on. -/
def State.placeDies (s : State) (t : Timetable) : Nat → Nat → List (Nat × Nat) → Option (List Place)
  | 0, _, _ => some []
  | n + 1, x, held =>
    let p := s.diePkg t x
    if p ≠ s.pkg then
      let far := (List.range t.img.c).map fun i => { farEntry t (x * t.img.c + i) with pkg := p }
      (s.placeDies t n (x + 1) held).map fun l => far ++ l
    else match (List.range 8).findSome? fun die => fitDie s.pkg die t.img.width t.img.c held with
      | none => none
      | some (l, held) => (s.placeDies t n (x + 1) held).map fun r => l ++ r

def State.placeAll (s : State) (t : Timetable) : Option (List Place) := s.placeDies t t.img.d 0 s.heldGroups

/-- A timetable spans packages. -/
def Timetable.spans (t : Timetable) : Bool :=
  match t.place with
  | [] => false
  | p :: rest => rest.any fun q => q.pkg != p.pkg
/-- Packages of a placement, rising. -/
def packagesOf (l : List Place) : List Nat := sortBy (fun a b => decide (a < b)) (l.map (·.pkg)).eraseDups

/-- The slot groups a placement names in this package are free, and no two of its entries name one. -/
def State.groupsFree (s : State) (place : List Place) : Bool :=
  (place.foldl (fun (acc : Bool × List (Nat × Nat)) p =>
    if p.pkg ≠ s.pkg then acc
    else
      let open_ := freeGroups acc.2 p.coreNo
      (acc.1 && ((List.range 4).all fun g => !p.mask.testBit g || open_.contains g), (p.coreNo, p.mask) :: acc.2))
    (true, s.heldGroups)).1

/-- An entry of a refilled place table is well formed (f04 R108). -/
def entryOk (t : Timetable) (p : Place) : Bool :=
  p.v && decide (p.pkg < 512) && decide (p.die < 8) && decide (p.clu < 12) && decide (p.core < 8) && decide (p.mask < 16) &&
    decide (((List.range 4).countP fun g => p.mask.testBit g) = t.img.width) && decide (p.banks.length = t.img.banks) &&
    (p.banks.all fun b => decide (b < 64))

/-! ### Allotment (f02 R31, R36) -/

/-- Free banks of a cluster. -/
def State.freeBanks (s : State) (die clu : Nat) (also : List (Nat × Nat × Nat)) : List Nat :=
  let taken := s.extentsAt die 0
  (List.range 64).filter fun b =>
    let a := devAddr s.pkg die 0 (clu * 2 ^ 23 + b * 131072)
    !also.contains (die, clu, b) && taken.all fun x => decide (a + 131072 ≤ x.1) || decide (x.1 + x.2 ≤ a)

/-- Banks for every local logical core that has none named yet, the lowest free ones (log entry 39); none for want of one. -/
def State.allotBanks (s : State) (n : Nat) : List Place → List (Nat × Nat × Nat) → Option (List Place)
  | [], _ => some []
  | p :: rest, also =>
    if p.pkg ≠ s.pkg then (s.allotBanks n rest also).map (p :: ·)
    else
      let open_ := s.freeBanks p.die p.clu also
      let mine := if p.banks.isEmpty then open_.take n else p.banks
      if mine.length = n ∧ mine.eraseDups.length = n ∧ (mine.all fun b => open_.contains b) then
        (s.allotBanks n rest (also ++ mine.map fun b => (p.die, p.clu, b))).map ({ p with banks := mine } :: ·)
      else none

/-- Units of a core's 256 that resident placements hold: `f` of the image per logical core. -/
def State.coreUsed (s : State) (core : Nat) (f : Image → Nat) : Nat :=
  (s.tts.map fun x => if x.2.placed then
    f x.2.img * (x.2.place.countP fun p => p.pkg == s.pkg && p.coreNo == core) else 0).sum

/-- Every core of a placement has room for `n` units per logical core. -/
def State.coreRoom (s : State) (place : List Place) (n : Nat) (f : Image → Nat) : Bool :=
  place.all fun p => p.pkg != s.pkg ||
    decide (s.coreUsed p.coreNo f + n * (place.countP fun q => q.pkg == s.pkg && q.coreNo == p.coreNo) ≤ 256)

/-- Allot of f02 R36: the placement with its banks, or the refusal code. -/
def State.allot (s : State) (t : Timetable) (place : List Place) : Except Nat (List Place) :=
  match s.allotBanks t.img.banks place [] with
  | none => .error rNoScratch
  | some p =>
    if ¬ s.coreRoom place t.img.tiles (·.tiles) then .error rNoAcc
    else if ¬ s.coreRoom place t.img.sems (·.sems) then .error rNoSem
    else .ok p

/-! ### Pinning (f04 R104, R105) -/

/-- The resource kind of a level's port. -/
def levelKind : Nat → Nat
  | 0 => 0x03
  | 1 => 0x05
  | 2 => 0x06
  | _ => 0x07

/-- The port of a device address. -/
def portOf (a : Nat) : Nat × Nat :=
  let d := addrDie a
  let o := addrOff a
  match addrLevel a with
  | 0 => (0x03, d * 12 + o / 2 ^ 23)
  | 1 => (0x05, d * 8 + o / 2 ^ 25)
  | 2 => (0x06, d)
  | _ => (0x07, d * 32 + o / 2 ^ 30)

/-- Every port the extents of an entry of a tenant reach. -/
def State.portsOf (s : State) (tenant : Nat) (e : BitVec 256) : List (Nat × Nat) :=
  ((s.extents tenant e).flatMap fun x =>
    let a := portOf x.1
    let b := portOf (x.1 + x.2 - 1)
    (List.range (b.2 + 1 - a.2)).map fun i => (a.1, a.2 + i)).eraseDups

/-- Pinned entries of a tenant at a port. -/
def State.pinnedAt (s : State) (tenant : Nat) (port : Nat × Nat) : Nat :=
  (s.tenant tenant).objs.countP fun o => o.2.pins != 0 && (s.portsOf tenant o.2.entry).contains port

/-- A place of another package for an extent: its Mule names a free one, or has none (log entry 138). -/
def State.farSpace (s : State) (pkg die level size : Nat) : Option Nat × State :=
  let k := s.choices
  ((if Config.farRoom k pkg die level ∧ size ≤ levelCap level then
      some (devAddr pkg die level (Config.farExtent k pkg die level % (levelCap level / size) * size)) else none),
    { s with choices := k + 1 })

/-- An extent's bytes go to another package: nothing of them stays here. -/
def State.sendExtent (s : State) (tenant obj ext new : Nat) : State :=
  let e := (s.obj tenant obj).entry
  let size := 2 ^ (12 + entXsz e)
  match extentBase s tenant e ext with
  | some b =>
    let a := b * 4096
    let bytes := (s.mem.filter fun x => decide (a ≤ x.1) && decide (x.1 < a + size)).map fun x => (x.1 - a, x.2)
    ({ s.freeRange a size with outbox := s.outbox ++ [Sent.moved new bytes] }).setBase tenant obj ext (new / 4096)
  | none => s

/-- An extent of an object moves to a die of a package; none where there is no room. -/
def State.moveTo (s : State) (tenant obj i pkg die : Nat) : Option State :=
  let e := (s.obj tenant obj).entry
  let size := 2 ^ (12 + entXsz e)
  if pkg = s.pkg then match s.freePlace die (entHome e) size with
    | (some a, s) => some (s.moveExtent tenant obj i a)
    | (none, _) => none
  else match s.farSpace pkg die (entHome e) size with
    | (some a, s) => some (s.sendExtent tenant obj i a)
    | (none, _) => none

/-- Every extent of an object moved to a die of a package (f04 R105), DIE written; none where it has no room. -/
def State.moveHome (s : State) (tenant obj pkg die : Nat) : Option State :=
  let e := (s.obj tenant obj).entry
  let size := 2 ^ (12 + entXsz e)
  let moved := (List.range ((entLen e + size - 1) / size)).foldl (fun (acc : Option State) i => match acc with
    | none => none
    | some s => match extentBase s tenant (s.obj tenant obj).entry i with
      | some b =>
        if b = absentBase then some s
        else s.moveTo tenant obj i pkg die
      | none => some s) (some s)
  moved.map fun s =>
    let o := s.obj tenant obj
    s.setObj tenant obj { o with entry := entSet o.entry 246 3 die }

/-- An object lies elsewhere than a place: some resident extent does, or, where none is resident, its home die is another. -/
def State.liesAway (s : State) (tenant : Nat) (e : BitVec 256) (p : Place) : Bool :=
  let l := s.extents tenant e
  (l.any fun x => addrPkg x.1 != p.pkg || addrDie x.1 != p.die) || (l.isEmpty && entDie e != p.die)

/-- One timed object pinned for a timetable; `decl` is the declared level plus one, 0 none. An error is the resource kind. Its extents are first
moved to where its logical die is placed, in another package too (log entry 138). An object whose entry is unused, or a host-level one of no
declared level, is admitted and not pinned; a logical die the image does not have is taken for place 0 (DESIGN CHOICE, log entry 162). -/
def State.pinOne (s : State) (t : Timetable) (obj ldie decl : Nat) : Except Nat State :=
  let o := s.obj t.tenant obj
  let e := o.entry
  let p := t.placeOf (ldie * t.img.c)
  let kind := levelKind (entHome e)
  if entKind e = 0 then .ok s
  else if decl ≠ 0 ∧ decl ≠ entHome e + 1 then .error kind
  else if entHome e = 4 then .ok s
  else if entNx e = 7 ∨ (entHome e = 2 ∧ entWst e = 1) then .error kind
  else
    let away := s.liesAway t.tenant e p
    if away ∧ o.pins ≠ 0 then .error kind
    else match (if away then s.moveHome t.tenant obj p.pkg p.die else some s) with
      | none => .error kind
      | some s =>
        let o := s.obj t.tenant obj
        let full := (s.portsOf t.tenant o.entry).find? fun q =>
          o.pins == 0 && p.pkg == s.pkg && decide ((s.tenant t.tenant).pinPart ≤ s.pinnedAt t.tenant q)
        match full with
        | some q => .error q.1
        | none => .ok (s.setObj t.tenant obj
            { o with pins := o.pins + 1, mig := [], entry := entSet (entSet o.entry 245 1 1) 242 1 0 })

/-- The timed objects an image declares with the objects its capabilities name: object, logical die, declared level plus one; an object
that two entries name is pinned for each. A declaration whose capability is not supplied names none; its accesses fault (f04 R94). -/
def timedObjs (img : Image) (caps : SMap Cap) : List (Nat × Nat × Nat) :=
  img.objs.filterMap fun d =>
    let c := SMap.get Cap.null caps d.creg
    if d.timed ∧ capObj c.bits ≠ 0 then some (capObj c.bits, d.ldie, d.level) else none

/-- PinObjects of f02 R36 for timetable `key`. -/
def State.pinAll (s : State) (key : Nat) (l : List (Nat × Nat × Nat)) : Except Nat State :=
  l.foldl (fun acc x => match acc with
    | .error k => .error k
    | .ok s => match s.pinOne (s.tt key) x.1 x.2.1 x.2.2 with
      | .error k => .error k
      | .ok s =>
        let t := s.tt key
        .ok (if entKind (s.obj t.tenant x.1).entry = 0 ∨ entHome (s.obj t.tenant x.1).entry = 4 then s
          else s.setTt key { t with pins := t.pins ++ [(x.1, x.2.1)] })) (.ok s)

/-- The pins of a timetable released (f04 R105); the list stays for a later resume where `keep` says so. A suspended
timetable holds none. -/
def State.unpin (s : State) (key : Nat) (keep : Bool) : State :=
  let t := s.tt key
  let s := if t.life = 3 then s else t.pins.foldl (fun s p =>
    let o := s.obj t.tenant p.1
    let n := o.pins - 1
    s.setObj t.tenant p.1 { o with pins := n, entry := if n = 0 then entSet o.entry 245 1 0 else o.entry }) s
  if keep then s else s.modTt key fun t => { t with pins := [] }

/-! ### Routes and resources (f02 R36, R40) -/


/-- A link of this package is in the live link table. -/
def State.linkLive (s : State) (j : Nat) : Bool :=
  s.table.any fun k => (k.a == s.pkg && k.ja == j) || (k.b == s.pkg && k.jb == j)

/-- The instance a route's unit names (DEDUCED, log entry 40). -/
def routeInst (t : Timetable) (r : Route) : Nat :=
  let die := (t.placeOf (r.ldie * t.img.c)).die
  match r.kind with
  | 0x08 => die * 24 + r.unit
  | 0x09 => die * 8 + r.unit
  | 0x0A => linkNo die r.unit
  | _ => r.unit

/-- The routes of a timetable in this package. -/
def State.localRoutes (s : State) (t : Timetable) : List Route :=
  t.img.msteps.flatMap fun m => m.routes.filter fun r => (t.placeOf (r.ldie * t.img.c)).pkg == s.pkg


/-- Entry bits from a function of the output port. -/
def selWord (f : Nat → Nat) : Word := BitVec.ofNat 32 (((List.range 8).map fun i => f i % 16 * 16 ^ i).sum)
/-- SELi of an entry. -/
def selAt (w : Word) (i : Nat) : Nat := w.toNat / 16 ^ i % 16

/-- Two entries of one owner merged (f02 R40): the connections of both; where both connect one output port, the later record's (log
entry 99). -/
def mergeSel (old new : Word) : Word := selWord fun i => if selAt new i = 15 then selAt old i else selAt new i

/-- The physical entries of a route record at a pair (f02 R40). A record whose own period is not the slot period is laid with its own
(DESIGN CHOICE, log entry 139). -/
def routeEntries (t : Timetable) (pair : Nat × Nat) (r : Route) : List (Nat × Nat × Nat × Word) :=
  if r.slots.isEmpty then [] else (List.range (256 / Nat.max 1 pair.1)).map fun k =>
    (r.kind, routeInst t r, pair.2 + pair.1 * k, r.slots.getD (k % r.slots.length) noSel)

/-- An entry put into a list of merged entries. -/
def mergeInto (l : List (Nat × Nat × Nat × Word)) (x : Nat × Nat × Nat × Word) : List (Nat × Nat × Nat × Word) :=
  if l.any fun y => y.1 == x.1 && y.2.1 == x.2.1 && y.2.2.1 == x.2.2.1 then
    l.map fun y => if y.1 = x.1 ∧ y.2.1 = x.2.1 ∧ y.2.2.1 = x.2.2.1 then (y.1, y.2.1, y.2.2.1, mergeSel y.2.2.2 x.2.2.2) else y
  else l ++ [x]

/-- Two record's tables meet only on one resource: the records are merged resource by resource. -/
def mergeRoutes (t : Timetable) (pair : Nat × Nat) (l : List Route) : List (Nat × Nat × Nat × Word) :=
  let keys := (l.map fun r => (r.kind, routeInst t r)).eraseDups
  keys.flatMap fun k =>
    ((l.filter fun r => (r.kind, routeInst t r) == k).map (routeEntries t pair)).foldl (fun acc x =>
      if acc.isEmpty then x else x.foldl mergeInto acc) []

/-- An entry names only ports or no connection (f08 R205). -/
def selOk (w : Word) : Bool := (List.range 8).all fun i => decide (selAt w i < 8) || decide (selAt w i = 15)

/-- RoutesLive of f02 R36; an entry with a reserved SEL is refused at the merge too (f08 R205). -/
def State.routesLive (s : State) (t : Timetable) : Bool :=
  (s.localRoutes t).all fun r => (r.slots.all selOk) && (r.kind != 0x0A || s.linkLive (routeInst t r))

/-- The routes of one M-step in this package. -/
def State.stepRoutes (s : State) (t : Timetable) (m : Nat) : List Route :=
  match t.img.msteps[m]? with
  | some e => e.routes.filter fun r => (t.placeOf (r.ldie * t.img.c)).pkg == s.pkg
  | none => []

/-- The merged entries of an M-step at a pair (f02 R40). -/
def State.stepEntries (s : State) (t : Timetable) (pair : Nat × Nat) (m : Nat) : List (Nat × Nat × Nat × Word) :=
  mergeRoutes t pair (s.stepRoutes t m)

/-- Touched of f02 R36. -/
def State.touchedBy (s : State) (key : Nat) : List (Nat × Nat) :=
  let t := s.tt key
  let cores := (t.place.zipIdx.filter fun x => x.1.pkg == s.pkg).map fun x => (x.1, t.img.classes.getD x.2 0)
  let arrays := cores.flatMap fun x => if t.img.hasX x.2 then [(0x01, x.1.coreNo), (0x02, x.1.coreNo)] else []
  let pads := if t.img.banks = 0 then [] else cores.map fun x => (0x03, x.1.die * 12 + x.1.clu)
  let engines := cores.flatMap fun x => (t.img.engines x.2).map fun q => (0x04, (x.1.die * 12 + x.1.clu) * 4 + q)
  let ports := t.pins.flatMap fun p => (s.portsOf t.tenant (s.obj t.tenant p.1).entry).filter fun q => q.1 != 0x03
  let routes := (s.localRoutes t).map fun r => (r.kind, routeInst t r)
  (arrays ++ pads ++ engines ++ ports ++ routes).eraseDups

/-! ### Compaction (f02 R41) -/

/-- Timetables with a pair on some resource of `res`, but those left out. -/
def State.sharing (s : State) (res : List (Nat × Nat)) (skip : List Nat) : List Nat :=
  ((res.flatMap fun r => (s.weave r).map (·.1)).eraseDups.filter fun o => o != 0 && !skip.contains o).map (· - 1)

/-- A pair is free for timetable `m`, which touches `mine`, in a pass: against what is assigned, against the pairs outside
the pass, and against the request where it is assigned. -/
def State.passFree (s : State) (mine res : List (Nat × Nat)) (inPass : List Nat) (done : List (Nat × Nat × Nat))
    (req : Option (Nat × Nat)) (skip : List Nat) (pair : Nat × Nat) : Bool :=
  mine.all fun r =>
    ((s.weave r).all fun x =>
      if skip.contains x.1 then true
      else if x.1 ≠ 0 ∧ inPass.contains (x.1 - 1) then
        match done.find? fun y => y.1 + 1 == x.1 with
        | some y => !collides pair (y.2.1, y.2.2)
        | none => true
      else !collides pair (x.2.1, x.2.2)) &&
    (match req with
      | some q => !res.contains r || !collides pair q
      | none => true)

/-- One pass of f02 R41 at stride `x` for the request of timetable `key`: the request's pair and every running timetable's,
or none. -/
def State.compactPass (s : State) (key : Nat) (res : List (Nat × Nat)) (x : Nat) (skip : List Nat) :
    Option ((Nat × Nat) × List (Nat × Nat × Nat)) :=
  let inPass := s.sharing res skip
  let fixed := (inPass.filter fun k => (s.tt k).pin.isSome).map fun k => (k, (s.tt k).stride, (s.tt k).phase)
  let pin := (s.tt key).pin
  let pinFits := match pin with
    | some p => s.passFree res res inPass fixed none skip p
    | none => true
  if pinFits = false then none
  else
    -- (stride, is the request, admission order, key); the request sorts last among equal strides
    let rest := (inPass.filter fun k => (s.tt k).pin.isNone).map fun k => ((s.tt k).stride, 0, (s.tt k).admitted, k)
    let rest := if pin.isSome then rest else rest ++ [(x, 1, 0, key)]
    let order := sortBy (fun a b => decide (a.1 < b.1) || (a.1 == b.1 && (decide (a.2.1 < b.2.1) ||
      (a.2.1 == b.2.1 && decide (a.2.2.1 < b.2.2.1))))) rest
    let out := order.foldl (fun (acc : Option (List (Nat × Nat × Nat) × Option (Nat × Nat))) y => match acc with
      | none => none
      | some (done, req) =>
        let mine := if y.2.1 = 1 then res else (s.tt y.2.2.2).touched
        match (phases y.1).find? (s.passFree mine res inPass done req skip) with
        | some p => if y.2.1 = 1 then some (done, some p) else some (done ++ [(y.2.2.2, p.1, p.2)], req)
        | none => none) (some (fixed, pin))
    match out with
    | some (done, some p) => some (p, done)
    | _ => none

/-- Compaction tries its passes in increasing order of the request's stride. -/
def State.compaction (s : State) (key : Nat) (res : List (Nat × Nat)) (skip : List Nat) :
    Option ((Nat × Nat) × List (Nat × Nat × Nat)) :=
  let strides := match (s.tt key).pin with
    | some p => [p.1]
    | none => s.allowed (s.tt key)
  strides.findSome? fun x => s.compactPass key res x skip

/-! ### Refusals (f02 R44, R45) -/

/-- The smallest acceptable stride not below the entitlement. -/
def State.lowStride (s : State) (t : Timetable) : Nat := (s.allowed t).headD ((stridesOf t.strides).headD 1)

/-- RKIND of NO_PHASE and PHASE_TAKEN. -/
def State.refusingKind (s : State) (t : Timetable) (res : List (Nat × Nat)) : Nat :=
  let first := t.pin.getD (s.lowStride t, 0)
  let kinds := (res.filter fun r => !s.freeOn r first []).map (·.1)
  kinds.foldl (fun m k => if m = 0 ∨ k < m then k else m) 0

/-- The suggested pair; (0, 0) for none. -/
def State.suggestion (s : State) (t : Timetable) (res : List (Nat × Nat)) : Nat × Nat :=
  let low := s.lowStride t
  let cand := ((List.range 7).map fun i => 2 ^ i).filter (fun x => decide (low ≤ x)) |>.flatMap phases
  (cand.find? fun p => s.free res p []).getD (0, 0)

/-- Scratchpad bytes of a timetable's local banks: address of each bank. A suspended timetable has none, whatever its place table names (f10
R437). -/
def State.bankAddrs (s : State) (t : Timetable) : List Nat :=
  if t.life = 3 then [] else t.place.flatMap fun p => if p.pkg = s.pkg ∧ p.v then p.banks.map fun b => devAddr p.pkg p.die 0 (p.clu * 2 ^ 23 + b * 131072) else []

/-- The scratchpad banks of a timetable zeroed (f04 R118). -/
def State.scrubBanks (s : State) (t : Timetable) : State :=
  let l := s.bankAddrs t
  { s with mem := s.mem.filter fun x => l.all fun a => decide (x.1 < a) || decide (a + 131072 ≤ x.1) }

/-- Every strand of a timetable removed: their registers are scrubbed (f04 R118). -/
def State.dropStrands (s : State) (key : Nat) : State :=
  { s with strands := s.strands.filter fun x => ttOf x.1 != key }

/-- A Mule signal becomes pending (f09 R245). -/
def State.notify (s : State) (bit : Nat) : State := { s with mule := s.mule ||| BitVec.twoPow 8 bit }

/-- A request is refused: everything it took is released, the record goes to system software and, for a launch's node, to the
launching function; a resume leaves its timetable suspended with V cleared (f10 R437). -/
def State.refuse (s : State) (r : AdmReq) (key code rkind : Nat) (sug : Nat × Nat) : State :=
  let t := s.tt key
  let l := s.launch t.launch
  let rec_ := refusal s.gclk.toNat l.req.seq l.req.graph sug.2 sug.1 rkind code
  let s := s.unpin key (r.kind == 1)
  let s := { s with requests := s.requests.filter (fun q => q.id != r.id), outbox := s.outbox ++ [Sent.refusal 0 rec_] }
  let s := s.notify 2
  if r.kind = 1 then s.modTt key fun t => { t with life := 3, place := t.place.map fun p => { p with v := false } }
  else
    let s := if r.kind = 2 then (s.scrubBanks t).dropStrands key else s
    let s := s.setTt key Timetable.blank
    let copy := if (s.tenant l.fn).hide then hidden rec_ else rec_
    s.nodeFailed t.launch t.node cRefused copy

/-- NoPhaseCode of f02 R36. -/
def noPhaseCode (t : Timetable) : Nat := if t.pin.isSome then rPhaseTaken else rNoPhase

/-- Refused for want of a pair. -/
def State.refusePhase (s : State) (r : AdmReq) (key : Nat) : State :=
  let t := s.tt key
  s.refuse r key (noPhaseCode t) (s.refusingKind t t.touched) (s.suggestion t t.touched)

/-! ### Grants (f02 R39, f04 R94, R118, f09 R242) -/

/-- The pair written into the weave of everything the timetable touches, in place of any it had. -/
def State.enterPairs (s : State) (key : Nat) (pair : Nat × Nat) : State :=
  let t := s.tt key
  let others := s.pairs.filter fun p => p.owner != key + 1
  let s := { s with pairs := others ++ t.touched.map (fun r : Nat × Nat => Pair.mk r.1 r.2 (key + 1) pair.1 pair.2) }
  s.setTt key { t with stride := pair.1, phase := pair.2 }

/-- The slot group of sibling i of a placed logical core. -/
def Place.group (p : Place) (i : Nat) : Nat := ((List.range 4).filter fun g => p.mask.testBit g).getD i 0

/-- A strand as a timetable starts it: zero registers, the window in C1, the argument block in C2..C31 and D1..D7, the format
table and FTSEL (f03 R77, f04 R94, f09 R242, f12 R313). -/
def newStrand (t : Timetable) (lc sib : Nat) (caps : SMap Cap) (regs : SMap (BitVec 64)) : Strand :=
  let p := t.placeOf lc
  let ft := t.img.ft.zipIdx.foldl (fun m x => SMap.set 0 m (0x040 + x.2) x.1) [(0x020, 3)]
  { Strand.blank with
    life := 1, psg := 4 * p.coreNo + p.group sib, lcore := lc, sib := sib, cls := t.img.classes.getD lc 0,
    d := regs, c := SMap.set Cap.null caps 1 (windowCap t), csr := ft }

/-- The strands of a timetable in this package. -/
def State.localStrands (s : State) (t : Timetable) : List (Nat × Nat × Nat) :=
  (t.place.zipIdx.filter fun x => x.1.pkg == s.pkg).flatMap fun x =>
    (List.range t.img.width).map fun i => (x.2 * t.img.width + i, x.2, i)

def State.startStrands (s : State) (key : Nat) (caps : SMap Cap) (regs : SMap (BitVec 64)) : State :=
  let t := s.tt key
  (s.localStrands t).foldl (fun s x => s.setStrand (sidOf key x.1) (newStrand t x.2.1 x.2.2 caps regs)) s

/-- The strands of a timetable that has come from another device, suspended as their records say. -/
def State.foreignStrands (s : State) (key : Nat) : State :=
  if (s.tt key).foreign.isNone then s
  else
    let m := s.saveBytes key
    (s.sids key).zipIdx.foldl (fun s x =>
      let kind := numAt m (256 + 1024 * x.2 + 16) 8
      s.modStrand x.1 fun st => { st with life := if kind = 3 then 2 else 4, wait := if kind = 1 then .barrier else .none })
      (s.startStrands key [] [])

/-- The lease of each core at admission: the previous holder is the highest slot group of the timetable there (f03 R80). -/
def State.firstLeases (s : State) (t : Timetable) : SMap Lease :=
  t.place.foldl (fun m p =>
    if p.pkg ≠ s.pkg then m
    else
      let top := (t.place.filter fun q => q.pkg == s.pkg && q.coreNo == p.coreNo).foldl (fun a q =>
        (List.range 4).foldl (fun a g => if q.mask.testBit g then Nat.max a g else a) a) 0
      SMap.set Lease.free m p.coreNo { Lease.free with prev := top }) []

/-- The group record of a timetable that spans packages, at launch (f08 R217). -/
def State.firstGroup (s : State) (t : Timetable) : Option Group :=
  if t.spans then some ⟨1, packagesOf t.place, s.table, s.lgen⟩ else none

/-- The next admission number. -/
def State.nextAdmitted (s : State) : Nat := s.tts.foldl (fun m x => Nat.max m x.2.admitted) 0 + 1

/-- First gcy of a phase set at or after g. -/
def firstGcy (g stride phase : Nat) : Nat := g + (phase + stride - g % stride) % stride

/-- A suspended strand goes on from where it stopped: on the first gcy of its phase set it executes the vcy it stopped at; at
a barrier it stands there again (f10 R276). -/
def Strand.wake (st : Strand) (psg : Nat) : Strand :=
  if st.life ≠ 4 then { st with psg := psg }
  else if st.wait = .barrier then { st with life := 1, psg := psg, skip := false }
  else { st with life := 1, psg := psg, skip := false, started := decide (0 < st.vclk), vclk := st.vclk - 1, begun := false }

/-- The strands of a timetable resume from `g` on. -/
def State.wakeStrands (s : State) (key g : Nat) : State :=
  let t := s.tt key
  let s := (s.sids key).foldl (fun s sid =>
    if (s.strand sid).life = 0 then s
    else s.modStrand sid fun st =>
      let p := t.placeOf st.lcore
      st.wake (4 * p.coreNo + p.group st.sib)) s
  s.modTt key fun t => { t with last := Nat.max t.last g, modes := [] }

/-- What a successor that is placed anew inherits of a timetable (f02 R53, f03 R83). -/
def State.heirOf (s : State) (t : Timetable) : Heir :=
  let bytes := t.place.zipIdx.flatMap fun x =>
    if x.1.pkg ≠ s.pkg then [] else x.1.banks.zipIdx.flatMap fun b =>
      let a := devAddr x.1.pkg x.1.die 0 (x.1.clu * 2 ^ 23 + b.1 * 131072)
      (s.mem.filter fun e => decide (a ≤ e.1) && decide (e.1 < a + 131072)).map fun e => (x.2, b.2 * 131072 + (e.1 - a), e.2)
  ⟨bytes, t.tiles, t.rows⟩

/-- An inheritance restored by logical identity: what the successor has banks and tiles for. -/
def State.inherit (s : State) (key : Nat) (h : Heir) : State :=
  let t := s.tt key
  let mine := fun (k : Nat) => decide (k / 256 < t.img.d * t.img.c) && decide (k % 256 < t.img.tiles)
  let l := h.bytes.filterMap fun x =>
    if t.img.d * t.img.c ≤ x.1 ∨ (t.placeOf x.1).pkg ≠ s.pkg then none
    else match windowAddr t x.1 x.2.1 with
      | .at_ a => some (a, x.2.2)
      | _ => none
  (s.writeBytes l).setTt key { t with tiles := h.tiles.filter fun x => mine x.1, rows := h.rows.filter fun x => mine x.1 }

/-- The words of the partitions of the first n tenants: 256 KiB in all (f01 R10). -/
def codeParts : Nat → Nat
  | 0 => 0
  | n + 1 => codeParts n + Nat.min (Config.codePart n) (65536 - codeParts n)

/-- Words a tenant's partition of a core's code store has room for beside what it holds (f01 R10, f04 R119; log entry 161). -/
def codeRoom (tenant : Nat) (l : List (Nat × Nat × Nat)) : Nat :=
  codeParts (tenant + 1) - codeParts tenant - ((l.filter fun x => x.1 == tenant).map fun x => x.2.2).sum

/-- A timetable's code stands in the code stores of its cores, in its tenant's partition, as far as there is room (f01 R10, f04 R119). The
sizes of the partitions are free, and code that does not fit is fetched all the same: the spec says of neither (DESIGN CHOICE, log entry
161). -/
def State.loadCode (s : State) (key : Nat) : State :=
  let t := s.tt key
  { s with codeStores := t.place.zipIdx.foldl (fun m x =>
      if x.1.pkg ≠ s.pkg then m
      else
        let l := SMap.get [] m x.1.coreNo
        let n := Nat.min (SMap.get 0 t.img.codeLen (t.img.classes.getD x.2 0)) (codeRoom t.tenant l)
        SMap.set [] m x.1.coreNo (l ++ [(t.tenant, key, n)])) s.codeStores }

/-- A timetable's code leaves the code stores, which are zeroed there (f04 R118). -/
def State.dropCode (s : State) (key : Nat) : State :=
  { s with codeStores := s.codeStores.filterMap fun x =>
      let l := x.2.filter fun y => y.2.1 != key
      if l.isEmpty then none else some (x.1, l) }

/-- A grant: T0, the pair in every weave and in the strands' CSRs, and the strands themselves. Banks that pass from another owner are zero
before T0 (f04 R118); a successor placed anew finds its inheritance there (f02 R53). -/
def State.grant (s : State) (r : AdmReq) (key : Nat) (pair : Nat × Nat) : State :=
  let s := (s.enterPairs key pair).notify 2
  let t0 := (s.gclk.toNat / 256 + 1) * 256
  let s := { s with requests := s.requests.filter fun q => q.id != r.id }
  let n := s.nextAdmitted
  let s := s.modTt key fun t =>
    { t with life := 1, t0 := t0, admitted := if t.admitted = 0 then n else t.admitted }
  let s := (if r.kind = 2 then s else s.scrubBanks (s.tt key)).loadCode key
  if r.kind = 1 then
    let s := (((s.foreignStrands key).restoreArea key).takeTotals key).wakeStrands key (firstGcy t0 pair.1 pair.2)
    let s := s.modTt key fun t => { t with leases := s.firstLeases t }
    let s := (match (s.tt key).saved with
      | some v => v.rot
      | none => []).foldl (fun (s : State) (sid : Nat) =>
        let core := (s.placeOfStrand sid).coreNo
        s.modTt key fun t => { t with
          leases := SMap.set Lease.free t.leases core { SMap.get Lease.free t.leases core with prev := (s.strand sid).psg % 4 } }) s
    s.dropSave key
  else
    let t := s.tt key
    let s := s.setTt key { t with leases := s.firstLeases t, group := s.firstGroup t }
    let s := if r.kind = 0 then s.chargeGrant t.launch else s
    let s := s.setNode t.launch t.node 2
    let s := match r.heir with
      | some h => s.inherit key h
      | none => s
    s.startStrands key t.caps0 t.regs0

/-! ### Departure and promotion (f02 R46, R47, f04 R105) -/

/-- A timetable still considered for promotion looks for its next smaller stride at the lowest phase that is free and promised to nobody: a
pair found is kept for its finder until that one's SSTEP (DESIGN CHOICE, log entry 163). It is considered no longer once no phase will fit,
also when the pairs found by others have been taken up (f02 R47). -/
def State.rise (s : State) (key : Nat) : State :=
  let t := s.tt key
  if ¬ t.rising ∨ t.life ≠ 1 ∨ t.newPair.isSome then s
  else match ((s.allowed t).filter fun y => decide (y < t.stride)).getLast? with
    | none => s.setTt key { t with rising := false }
    | some y =>
      let found := s.tts.filterMap fun z => z.2.newPair.map fun p => (z.1, z.2.touched, p)
      let open_ := fun (p : Nat × Nat) => found.all fun z => !(z.2.1.any t.touched.contains) || !collides p z.2.2
      match (phases y).find? fun p => s.free t.touched p [key + 1] && open_ p with
      | some p => s.setTt key { t with newPair := some p }
      | none =>
        let later := (phases y).any fun p => s.free t.touched p ((key + 1) :: found.map fun z => z.1 + 1)
        s.setTt key { t with rising := later }

/-- Promotion: every resident timetable still considered, in admission order. Waiting requests come first. -/
def State.promote (s : State) : State :=
  if ¬ s.requests.isEmpty then s
  else
    let l := sortBy (fun (a b : Nat × Nat) => decide (a.1 < b.1)) (s.tts.map fun x => (x.2.admitted, x.1))
    l.foldl (fun s x => s.rise x.2) s

/-- The pairs of a timetable leave every weave, a compaction no longer waits for it and goes on without it (DESIGN CHOICE, log entry 140),
and elastic timetables that touch what it leaves are considered. -/
def State.freePairs (s : State) (key : Nat) : State :=
  let t := s.tt key
  let raise := fun (k : Nat) (x : Timetable) =>
    if x.elastic ∧ x.life = 1 ∧ k ≠ key ∧ (x.touched.any t.touched.contains) then { x with rising := true } else x
  { s with
    pairs := s.pairs.filter fun p => p.owner != key + 1, tts := SMap.mapVals raise s.tts,
    compact := s.compact.map fun c => { c with moves := c.moves.filter fun m => m.1 != key } }

/-- A timetable departs: its pairs are free, its pins are released, and elastic timetables are promoted. -/
def State.leave (s : State) (key : Nat) (keep : Bool) : State := State.promote ((s.freePairs key).unpin key keep)

/-! ### Admission (f02 R36, R52..R54, f03 R87) -/

/-- The next request: the highest class, then the order of dispatch. -/
def nextRequest (l : List AdmReq) : Option AdmReq :=
  l.foldl (fun (best : Option AdmReq) r => match best with
    | none => some r
    | some b => if b.cls < r.cls then some r else best) none

/-- The timetable of a launch's node before it has anything. -/
def State.freshTt (s : State) (r : AdmReq) (n : Node) : Timetable :=
  let l := s.launch r.launch
  { Timetable.blank with
    life := 5, tenant := l.fn, launch := r.launch, node := r.node, cls := l.req.cls, img := n.image,
    strides := acceptable n.image.strides n.strides,
    elastic := n.image.elastic || n.flags.getLsbD 0,
    pin := if n.flags.getLsbD 1 then some (2 ^ n.pins, n.pinph) else none }

/-- The node a request is for. -/
def State.reqNode (s : State) (r : AdmReq) : Option Node :=
  (s.launchGraph (if r.kind = 1 then (s.tt r.tt).launch else r.launch))[if r.kind = 1 then (s.tt r.tt).node else r.node]?

/-- NOWAIT of a request. -/
def State.noWaitReq (s : State) (r : AdmReq) : Bool :=
  match s.reqNode r with
  | some n => n.flags.getLsbD 2
  | none => false

/-- The victim of f02 R43: running, of a class below the request's, lowest class first, most recently admitted first, whose
departure makes a candidate free or compaction succeed. -/
def State.victim (s : State) (r : AdmReq) (key : Nat) : Option Nat :=
  let res := (s.tt key).touched
  let l := (s.tts.filter fun x => x.2.life == 1 && x.2.cause == 0 && decide (x.2.cls < r.cls) && x.1 != key).map fun x =>
    (x.2.cls, x.2.admitted, x.1)
  let order := sortBy (fun a b => decide (a.1 < b.1) || (a.1 == b.1 && decide (b.2.1 < a.2.1))) l
  (order.find? fun x =>
    ((s.candidates (s.tt key)).any fun p => s.free res p [x.2.2 + 1]) ||
      (s.compaction key res [x.2.2 + 1]).isSome).map (·.2.2)

/-- What a request took is given back; its timetable's record goes, but a resume's or a successor's stays. -/
def State.giveBack (s : State) (r : AdmReq) (key : Nat) : State :=
  let s := s.unpin key (r.kind == 1)
  match r.kind with
  | 0 => s.setTt key Timetable.blank
  | 1 => s.modTt key fun t => { t with life := 3 }
  | _ => s

/-- Pre-emption of f02 R43, or refusal. -/
def State.preemptFor (s : State) (r : AdmReq) (key : Nat) : State :=
  match s.victim r key with
  | some v => { (s.giveBack r key) with preempt := some ⟨v, r.id, s.gclk.toNat, (s.tt key).touched⟩ }
  | none => s.refusePhase r key

/-- A pair for a placed timetable: the first free candidate, compaction, pre-emption, or refusal. -/
def State.findPair (s : State) (r : AdmReq) (key : Nat) : State :=
  let t := s.tt key
  match (s.candidates t).find? fun p => s.free t.touched p [] with
  | some p => s.grant r key p
  | none =>
    if s.noWaitReq r then s.refusePhase r key
    else match s.compaction key t.touched [] with
      | some (p, l) =>
        let moves := l.filter fun x => x.2 != ((s.tt x.1).stride, (s.tt x.1).phase)
        if moves.isEmpty then s.grant r key p
        else
          let reqs := s.requests.map fun q => if q.id = r.id then { q with tt := key } else q
          { s with requests := reqs, compact := some ⟨r.id, p, moves, s.gclk.toNat⟩ }
      | none => s.preemptFor r key

/-- The placement a request asks for, or the refusal code. -/
def State.askPlace (s : State) (r : AdmReq) (t : Timetable) : Except Nat (List Place) :=
  match r.kind with
  | 0 => match s.placeAll t with
    | some l => .ok l
    | none => .error rNoSlots
  | 1 =>
    if r.place.length = t.img.d * t.img.c ∧ (r.place.all (entryOk t)) ∧ s.groupsFree r.place then .ok r.place
    else .error rNoSlots
  | _ => .ok t.place

/-- Timetables spanning packages here. -/
def State.spanning (s : State) : Nat := s.tts.countP fun x => x.2.placed && x.2.spans

/-- Admit of f02 R36 from Place on, with the objects to pin: placed, allotted, pinned, routes and resources settled; or
refused. -/
def State.prepare (s : State) (r : AdmReq) (key : Nat) (objs : List (Nat × Nat × Nat)) (place : Except Nat (List Place)) :
    Except State State :=
  let t := s.tt key
  let fail := fun (s : State) (code kind : Nat) =>
    let s := s.refuse r key (if r.kind = 1 ∧ code ≠ rNoPin ∧ code ≠ rRoute then rNoSlots else code) kind (0, 0)
    Except.error (if r.kind = 1 then s.modTt key fun x => { x with pins := t.pins } else s)
  match place with
  | .error c => fail s c 0
  | .ok l =>
    if { t with place := l }.spans ∧ 64 ≤ s.spanning then fail s rNoSlots 0
    else match (if r.kind = 2 then .ok l else s.allot t l) with
    | .error c => fail s c (if r.kind = 1 then 0 else if c = rNoScratch then 0x03 else if c = rNoAcc then 0x02 else 0)
    | .ok l =>
      let s := s.setTt key { t with place := l, life := 5, pins := [] }
      match s.pinAll key objs with
      | .error k => fail s rNoPin k
      | .ok s =>
        if ¬ s.routesLive (s.tt key) then fail s rRoute 0
        else .ok (s.setTt key { s.tt key with touched := s.touchedBy key })

/-- A weave plan that is still free is granted at once (f02 R52). -/
def State.planGrant (s : State) (r : AdmReq) (key : Nat) (objs : List (Nat × Nat × Nat)) (plan : Plan) : Option State :=
  let t := s.tt key
  if ¬ s.groupsFree plan.place ∨ ¬ (s.candidates t).contains plan.pair ∨ ¬ (plan.entries.all fun m => m.all fun x => selOk x.2.2.2) then
    none
  else match s.prepare r key objs (.ok (plan.place.map fun p => { p with banks := [] })) with
    | .error _ => none
    | .ok s' => if s'.free (s'.tt key).touched plan.pair [] then some (s'.grant r key plan.pair) else none

/-- The package at the other end of a live link of this package. -/
def State.peerOf (s : State) (j : Nat) : Option Nat :=
  s.table.findSome? fun k => if k.a == s.pkg && k.ja == j then some k.b else if k.b == s.pkg && k.jb == j then some k.a else none

/-- The plan of a node: placement, first free pair and merged entries against the weaves now, and where its links lead (f02 R52). -/
def State.buildPlan (s : State) (t : Timetable) : Option Plan :=
  match s.placeAll t with
  | none => none
  | some l =>
    let key := s.nextTt
    let t := { t with place := l }
    let res := (s.setTt key t).touchedBy key
    let links := ((s.localRoutes t).filter fun r => r.kind == 0x0A).filterMap fun r =>
      (s.peerOf (routeInst t r)).map fun p => (r.ldie, r.unit, p)
    ((s.candidates t).find? fun p => s.free res p []).map fun p =>
      ⟨l, p, (List.range t.img.msteps.length).map (s.stepEntries t p), links⟩

/-- An entry with its reserved SEL values taken as no connection. -/
def cleanSel (w : Word) : Word := selWord fun i => if selAt w i < 8 then selAt w i else 15

/-- The router and port at which a die's local link is attached (f08 R204). -/
def linkAttach (j : Nat) : Nat × Nat := if j = 4 then (20, 7) else if j = 0 then (22, 7) else (23, j + 3)

/-- Two port numbers exchanged, in the outputs and in the inputs of an entry. -/
def swapPorts (p q : Nat) (w : Word) : Word :=
  let ex := fun (x : Nat) => if x = p then q else if x = q then p else x
  selWord fun i => ex (selAt w (ex i))

/-- The local link that stands in for a lost one: the lowest live link of the same die to the same package that no record of the step
names; none where there is no such route. -/
def State.standIn (s : State) (t : Timetable) (plan : Plan) (routes : List Route) (r : Route) : Option Nat :=
  let die := (t.placeOf (r.ldie * t.img.c)).die
  match plan.links.find? fun x => x.1 == r.ldie && x.2.1 == r.unit with
  | none => none
  | some (_, _, peer) => (List.range (if die < 4 then 5 else 4)).find? fun j =>
      s.linkLive (linkNo die j) && s.peerOf (linkNo die j) == some peer &&
        routes.all fun q => q.kind != 0x0A || q.ldie != r.ldie || q.unit != j

/-- Records of an M-step whose link has left the live table. -/
def State.lostRecords (s : State) (t : Timetable) (routes : List Route) : List Route :=
  routes.filter fun r => r.kind == 0x0A && !s.linkLive (routeInst t r)

/-- The package a plan's link led to is reached over the live table (f02 R54). -/
def State.reachable (s : State) (plan : Plan) (r : Route) : Bool :=
  match plan.links.find? fun x => x.1 == r.ldie && x.2.1 == r.unit with
  | none => false
  | some (_, _, peer) => ((growTree s.table [] (s.packages.length + 1) [s.pkg] [s.pkg] []).1).contains peer

/-- A record of routes over other links, as a free value gives it (log entry 137). -/
def otherRoute (x : Nat × Nat × Nat × Nat × Nat × List Word) : Route :=
  ⟨8 + x.1 % 3, x.2.1, x.2.2.1, x.2.2.2.1, x.2.2.2.2.1, x.2.2.2.2.2.map cleanSel⟩

/-- The routes of M-step m rebuilt over the live table (f02 R54): a record of a lost link goes to the link that stands in for it. Where
both are attached to one router, its connections are exchanged; else the entries of the die's routers are free. Where a lost link has no
stand-in, a route may lead over other links, and the step's records are free (log entry 137). -/
def State.rebuildStep (s : State) (t : Timetable) (plan : Plan) (m : Nat) (routes : List Route) : List Route :=
  if (s.lostRecords t routes).any fun r => (s.standIn t plan routes r).isNone then
    (Config.otherRoutes t.img.hash m (s.table.map fun k => (k.a, k.ja, k.b, k.jb))).map otherRoute
  else (s.lostRecords t routes).foldl (fun acc r =>
    match s.standIn t plan acc r with
    | none => acc
    | some j =>
      let (ra, pa) := linkAttach r.unit
      let (rb, pb) := linkAttach j
      acc.map fun q =>
        if q.ldie ≠ r.ldie then q
        else if q.kind = 0x0A ∧ q.unit = r.unit then { q with unit := j }
        else if q.kind ≠ 0x08 then q
        else if ra = rb then (if q.unit = ra then { q with slots := q.slots.map (swapPorts pa pb) } else q)
        else { q with slots := q.slots.zipIdx.map fun x => cleanSel (Config.rerouted t.img.hash r.ldie q.unit x.2) }) routes

/-- A stale node's routes rebuilt, its image's records with them (f02 R54); none where a package that a lost link led to is reached over the
live table no more: then no route exists. -/
def State.rebuildNode (s : State) (n : Node) (t : Timetable) : Option Node :=
  match n.plan with
  | none => some n
  | some plan =>
    let t := { t with place := plan.place }
    if n.image.msteps.all fun m => (s.lostRecords t m.routes).all (s.reachable plan) then
      some { n with image := { n.image with msteps := n.image.msteps.zipIdx.map fun m =>
        { m.1 with routes := s.rebuildStep t plan m.2 m.1.routes } } }
    else none

/-- A node of a graph put in its place. -/
def State.setNodeOf (s : State) (fn graph node : Nat) (n : Node) : State :=
  let f := s.func fn
  let g := (SMap.get [] f.graphs graph).zipIdx.map fun x => if x.2 = node then n else x.1
  s.setFunc fn { f with graphs := SMap.set [] f.graphs graph g }

/-- The node a launch starts, and whether it has its routes: a stale one is rebuilt first, and its plan refreshed (f02 R54). One that finds no
route stays stale, and its launch is refused with ROUTE before R36 runs. -/
def State.freshNode (s : State) (r : AdmReq) (n : Node) : Node × Bool × State :=
  if n.stale = false then (n, true, s)
  else match s.rebuildNode n (s.freshTt r n) with
    | none => (n, false, s)
    | some n =>
      let l := s.launch r.launch
      let n := { n with plan := s.buildPlan (s.freshTt r n), stale := false }
      (n, true, s.setNodeOf l.fn l.req.graph r.node n)

/-- The argument block of a launch as it is now (f09 R242): its capabilities and register values, or none. -/
def State.readArgs (s : State) (lid : Nat) : Option (SMap Cap × SMap (BitVec 64)) :=
  let l := s.launch lid
  match s.argBlock l.fn l.req.argidx with
  | some b => (s.blockCaps l.fn b).map fun c => (c, blockRegs b)
  | none => none

/-- The plan of a request's node is discarded for its launch (f02 R52). -/
def State.missPlan (s : State) (r : AdmReq) (fn : Nat) : State :=
  let f := s.func fn
  let s := s.setFunc fn { f with planMiss := f.planMiss + 1 }
  { s with requests := s.requests.map fun q => if q.id = r.id then { q with missed := true } else q }

/-- A node's or a successor's request whose launch has failed starts nothing more (f09 R240). -/
def State.overtaken (s : State) (r : AdmReq) : Bool := r.kind != 1 && (s.launch r.launch).status != cOk

/-- Such a request is taken out with all it holds; its node is skipped. -/
def State.dropRequest (s : State) (r : AdmReq) : State :=
  let s := { s with requests := s.requests.filter fun q => q.id != r.id }
  let t := s.tt r.tt
  let s := if t.life = 5 ∧ t.launch = r.launch ∧ t.node = r.node then
      (((s.unpin r.tt false).scrubBanks t).dropStrands r.tt).setTt r.tt Timetable.blank
    else s
  (s.setNode r.launch r.node 4).advance r.launch

/-- Admit of f02 R36 for one request. A node's argument block is read here and kept for the grant (f09 R242). -/
def State.admitReq (s : State) (r : AdmReq) : State :=
  if s.overtaken r then s.dropRequest r
  else match s.reqNode r with
  | none => { s with requests := s.requests.filter fun q => q.id != r.id }
  | some n =>
    let (n, routed, s) := if r.kind = 0 then s.freshNode r n else (n, true, s)
    match (if r.kind = 0 then s.readArgs r.launch else some ((s.tt r.tt).caps0, (s.tt r.tt).regs0)) with
    | none => State.nodeFailed { s with requests := s.requests.filter fun q => q.id != r.id } r.launch r.node cBadArg 0
    | some (caps, regs) =>
      let key := if r.kind = 0 then s.nextTt else r.tt
      let s := if r.kind = 0 then { s.setTt key { s.freshTt r n with caps0 := caps, regs0 := regs } with nextTt := key + 1 } else s
      let t := s.tt key
      let objs := timedObjs t.img caps
      if ¬ routed then s.refuse r key rRoute 0 (0, 0)
      else if ¬ t.stepOk then s.refuse r key rStep 0 (0, 0)
      else if ¬ s.foreignOk key then s.refuse r key rNoSlots 0 (0, 0)
      else if ¬ s.strideOk t then s.refuse r key rStride 0 (0, 0)
      else
        let plan := if r.kind = 0 ∧ ¬ r.missed then n.plan else none
        match plan.bind (s.planGrant r key objs) with
        | some s => s
        | none =>
          let s := if plan.isSome then s.missPlan r (s.launch t.launch).fn else s
          match s.prepare r key objs (s.askPlace r t) with
          | .error s => s
          | .ok s => s.findPair r key

/-- ADMIT: one request at a time; none while a compaction or a pre-emption is under way, nor after a firmware restart before
its first vb.dispatch (f09 R243). -/
def execAdmit (s : State) : Result :=
  match s.compact, s.preempt, nextRequest s.requests with
  | none, none, some r => if s.muleDown then notEnabled "ADMIT" else .next (s.admitReq r).promote
  | _, _, _ => notEnabled "ADMIT"

/-! ### The barrier side of compaction and the start of a step (f02 R40..R42, R46, f03 R68) -/

/-! ### The alignment tree (f08 R214) -/

/-- Another package counts as aligned: some link of it is live; or all its links are out, and each of them is so on account of the other end
(f08 R214, R215; DEDUCED, log entry 154). -/
def State.peerAligned (s : State) (p : Nat) : Bool :=
  let own := s.trained.filter fun k => k.touches p
  (own.any s.table.contains) || own.all fun k =>
    let q := k.other p
    if q = s.pkg then s.alignOut || !s.aligned else !(s.table.any fun e => e.touches q)

/-- Root and edges of the breadth-first tree over the trained links (log entry 41). While no package of the domain counts as aligned this one is
its own root (DESIGN CHOICE, log entry 175). -/
def State.alignTree (s : State) : Nat × List LinkKey :=
  let l := s.packages.filter fun p => if p = s.pkg then s.aligned else s.peerAligned p
  let root := l.headD s.pkg
  (root, (growTree s.trained [] (s.packages.length + 1) [root] [root] []).2)

def State.treeParent (s : State) : Option Nat :=
  let (root, t) := s.alignTree
  if root = s.pkg then none else towards t s.pkg root
def State.treeChildren (s : State) : List Nat :=
  (neighbours s.alignTree.2 s.pkg).filter fun v => some v != s.treeParent

/-- Links from u down to its farthest package, away from `from_`, by at most n links. -/
def treeHeight (tree : List LinkKey) : Nat → Nat → Nat → Nat
  | 0, _, _ => 0
  | n + 1, from_, u =>
    (tree.filter fun e => e.touches u && e.other u != from_).foldl (fun m e => Nat.max m (1 + treeHeight tree n u (e.other u))) 0

/-- D of f03 R68. -/
def State.treeDepth (s : State) : Nat := let (root, t) := s.alignTree; treeHeight t t.length 512 root

/-- Distance of this package from the reference. -/
def State.ownDepth (s : State) : Nat :=
  let (root, t) := s.alignTree
  ((List.range t.length).foldl (fun (acc : Nat × Nat) _ =>
    if acc.1 = root then acc else match towards t acc.1 root with
      | some p => (p, acc.2 + 1)
      | none => acc) (s.pkg, 0)).2

/-- BARLEAD of a timetable. -/
def State.barlead (s : State) (t : Timetable) : Nat := if t.spans then 192 * (2 * s.treeDepth + 1) else 64

/-- P of f02 R40: 256 over the largest stride of the image's own set. -/
def Image.slotPeriod (img : Image) : Nat := 256 / (stridesOf (img.strides &&& 0x7F)).getLastD 1

/-- The start gcy of the next step: at least BARLEAD after `after`, in the phase set, and aligned for an M-step. -/
def State.startGcy (s : State) (t : Timetable) (after : Nat) : Nat :=
  let g := after + s.barlead t
  if t.opensM then firstGcy g (t.stride * t.img.slotPeriod) t.phase else firstGcy g t.stride t.phase

/-- A held timetable is released: its next step starts from now on, on the pair it now has. After a cancelled compaction BARLEAD is counted
from the cancel (f02 R42; DESIGN CHOICE, log entry 141). -/
def State.unhold (s : State) (key : Nat) : State :=
  let t := s.tt key
  if t.held = false then s
  else
    let b := match t.start with
      | some x => x.2
      | none => 0
    s.setTt key { t with held := false, start := some (s.startGcy t s.gclk.toNat, b) }

/-- A compaction is given up: the held timetables go on with their old pairs. -/
def State.dropCompaction (s : State) (c : Compaction) : State :=
  c.moves.foldl (fun s m => s.unhold m.1) { s with compact := none }

/-- The planned pairs fit the weaves as they stand: a grant in place during the wait may have taken one (f02 R28). -/
def State.updateFits (s : State) (c : Compaction) (key : Nat) : Bool :=
  let s := c.moves.foldl (fun s m => s.enterPairs m.1 m.2) s
  s.free (s.tt key).touched c.pair [key + 1] && c.moves.all fun m =>
    s.free (s.tt m.1).touched m.2 [m.1 + 1] &&
      ((s.tt key).touched.all fun r => !(s.tt m.1).touched.contains r || !collides m.2 c.pair)

/-- COMPACTION_UPDATE: every timetable to be re-phased is held; old pairs leave and new pairs enter in one update, the held
steps start, and the request is granted. Where the planned pairs no longer fit, the compaction is given up and Admit reruns for the request
(DESIGN CHOICE, log entry 140). -/
def execCompactionUpdate (s : State) : Result :=
  match s.compact with
  | none => notEnabled "COMPACTION_UPDATE"
  | some c =>
    match s.requests.find? fun r => r.id == c.req with
    | none => notEnabled "COMPACTION_UPDATE"
    | some r =>
      if s.overtaken r then .next (((s.dropCompaction c).dropRequest r).promote)
      else if (c.moves.all fun m => (s.tt m.1).held) = false then notEnabled "COMPACTION_UPDATE"
      else if s.updateFits c r.tt then
        let s := c.moves.foldl (fun s m => s.enterPairs m.1 m.2) s
        let s := c.moves.foldl (fun s m => s.unhold m.1) s
        .next ((State.grant { s with compact := none } r r.tt c.pair).promote)
      else .next ((((s.dropCompaction c).giveBack r r.tt).admitReq r).promote)

/-- COMPACT_TIMEOUT: COMPACT_WAIT has passed; the weaver goes on to pre-emption. -/
def execCompactTimeout (s : State) : Result :=
  match s.compact with
  | none => notEnabled "COMPACT_TIMEOUT"
  | some c =>
    if s.gclk.toNat < c.since + s.compactWait then notEnabled "COMPACT_TIMEOUT"
    else
      let s := s.dropCompaction c
      match s.requests.find? fun r => r.id == c.req with
      | none => .next s
      | some r => .next ((if s.overtaken r then s.dropRequest r else s.preemptFor r r.tt).promote)

/-- AGE_RAISE: a request that has waited AGE_BOUND since its dispatch or its last raise goes up one class. -/
def execAgeRaise (req : Nat) (s : State) : Result :=
  match s.requests.find? fun r => r.id == req with
  | none => notEnabled "AGE_RAISE"
  | some r =>
    if r.cls < 3 ∧ r.raised + s.ageBound ≤ s.gclk.toNat then
      .next { s with requests := s.requests.map fun q =>
        if q.id = req then { q with cls := q.cls + 1, raised := q.raised + s.ageBound } else q }
    else notEnabled "AGE_RAISE"

/-! ### A resume on another device (f10 R277; log entry 107) -/

/-- The source's side: the record is signed, and goes with the area to the package the table names; the area here is given back. -/
def State.sendArea (s : State) (tt pkg : Nat) : State :=
  let t := s.tt tt
  match t.saved with
  | none => s
  | some v =>
    let r := (s.launch t.launch).req
    let len := entLen (s.obj t.tenant v.obj).entry
    let m : Moved := ⟨t.tenant, r.graph, r.seq, t.node, t.cls, len, s.saveBytes tt, v.banks, s.migrationRecord tt, s.signMigration tt⟩
    (s.mail pkg t.tenant ((s.saveDie tt) * 24) (.moved m)).dropSave tt

/-- The destination's side: a save area that comes stands in an object of its tenant, for a suspended timetable of the node it names, until
system software writes that one's place table. Where the graph or the room is missing, nothing is kept. -/
def State.acceptArea (s : State) (m : Moved) : State :=
  match (s.graph m.tenant m.graph)[m.node]?, s.newExtent 0 3 (2 ^ (12 + xszFor m.len)) with
  | some n, some (a, s) =>
    let lid := s.nextLaunch
    let key := s.nextTt
    let nodes := (s.graph m.tenant m.graph).zipIdx.map fun x => if x.2 = m.node then 2 else 4
    let p : Pkt := ⟨m.tenant, 0, 0, 0, false, false⟩
    let s := { s.setLaunch lid ⟨true, m.tenant, p, ⟨m.graph, 0, m.cls, m.seq⟩, nodes, true, cOk, 0, 0⟩ with nextLaunch := lid + 1 }
    let (obj, s) := s.areaObject m.tenant 0 m.len a (m.area.map fun x => (a + x.1, x.2))
    let r : AdmReq := ⟨0, 0, lid, m.node, key, m.cls, m.cls, 0, 0, [], false, none⟩
    { s.setTt key { s.freshTt r n with
        life := 3, step := numAt m.area 76 4, saved := some ⟨obj, m.banks, s.gclk.toNat, []⟩, foreign := some (m.record, m.sig) } with
      nextTt := key + 1 }
  | _, _ => s

/-- PLACE_TABLE_WRITE (f10 R437): a refill of a suspended timetable's table with V in every entry requests its resume. -/
def execPlaceTableWrite (tt : Nat) (table : List Place) (s : State) : Result :=
  let t := s.tt tt
  if t.life ≠ 3 ∨ (s.requests.any fun r => r.kind == 1 && r.tt == tt) then .next s
  else
    let s := s.setTt tt { t with place := table }
    let away := (table.map (·.pkg)).headD s.pkg
    if away ≠ s.pkg ∧ (table.all fun p => p.v && p.pkg == away) ∧ ¬ t.spans ∧ s.committed tt then
      .next (s.sendArea tt away)
    else if ¬ table.isEmpty ∧ (table.all fun p => p.v) ∧ s.committed tt then
      .next (s.dispatch 1 t.launch t.node tt t.cls table)
    else .next s

/-! ### Token windows and refresh windows (f02 R48, R50) -/

/-- TOKEN_WINDOW: a window begins, and every lease of the one before has ended. -/
def execTokenWindow (s : State) : Result :=
  if s.gclk.toNat % 1024 = 0 then
    .next { s with tts := SMap.mapVals (fun _ t => { t with leases := t.leases.filterMap fun x =>
      let l := x.2
      match l.holder with
      | some h =>
        let l := if l.window < s.gclk.toNat / 1024 then
          { l with holder := none, left := 0, prev := (s.strand h).psg % 4 } else l
        if l = Lease.free then none else some (x.1, l)
      | none => some (x.1, l) }) s.tts }
  else notEnabled "TOKEN_WINDOW"

/-- REFRESH_WINDOW: a bank group's window ends; reads frozen for it perform on their strands' next gcy. -/
def execRefreshWindow (s : State) : Result :=
  let g := s.gclk.toNat
  if g % 4096 = 512 then
    .next ((SMap.keys s.strands).foldl (fun s sid => s.modStrand sid fun st => match st.wait with
      | .refresh u => if u ≤ g ∧ ¬ st.met then { st with wait := .none } else st
      | _ => st) s)
  else notEnabled "REFRESH_WINDOW"

end Sys2Proof.Machine
end

