-- ==== Sys2Proof/Machine/Finalise.lean ====
section
/-! DEFINITION. The Iluad image and its finaliser: reading the bytes (f09 R246), the checks of every word, loop, branch and
executable path (f09 R247, R248, R433, R434; f03 R60, R65..R74, R81; f07 R178; f10 R265, R271), and the image promise (R249). -/
namespace Sys2Proof.Machine

/-! ### Refusal codes of f09 R248 -/

def fBadImg : Nat := 0x20
def fIllWord : Nat := 0x21
def fTiming : Nat := 0x22
def fLoopFit : Nat := 0x23
def fSafeMap : Nat := 0x24
def fRetime : Nat := 0x25
def fDecl : Nat := 0x26

/-- The first failing check of a list. -/
def firstBad : List (Bool × Nat) → Option Nat
  | [] => none
  | (ok, code) :: t => if ok then firstBad t else some code

/-! ### Reading the bytes (f09 R246) -/

/-- An image's bytes, and `n` of them at an offset as a number. -/
abbrev ImgBytes := List Byte
def ImgBytes.nat (b : ImgBytes) (off n : Nat) : Nat := natOf ((b.drop off).take n)

/-- An entry of the section table. -/
structure Sect where
  ty  : Nat
  idx : Nat
  off : Nat
  len : Nat
  deriving DecidableEq, Repr

def ImgBytes.sects (b : ImgBytes) : List Sect :=
  (List.range (b.nat 6 2)).map fun i =>
    let o := 64 + 16 * i
    ⟨b.nat o 2, b.nat (o + 2) 2, b.nat (o + 8) 4, b.nat (o + 12) 4⟩

/-- Sections of a type. -/
def ImgBytes.ofType (b : ImgBytes) (ty : Nat) : List Sect := b.sects.filter fun x => x.ty == ty

/-- Offsets of the entries of one size in the sections of a type. -/
def ImgBytes.entries (b : ImgBytes) (ty size : Nat) : List Nat :=
  (b.ofType ty).flatMap fun x => (List.range (x.len / size)).map fun i => x.off + size * i

/-- Entries of a table whose bytes 8..15 give an offset of further data: they end where the first of that data begins (DEDUCED,
log entry 45). -/
def entriesTo (b : ImgBytes) : (n : Nat) → (o limit : Nat) → List Nat
  | 0, _, _ => []
  | n + 1, o, limit =>
    if limit < o + 16 then []
    else
      let d := b.nat (o + 8) 8
      o :: entriesTo b n (o + 16) (if o < d then Nat.min limit d else limit)

def ImgBytes.tabled (b : ImgBytes) (ty : Nat) : List Nat :=
  (b.ofType ty).flatMap fun x => entriesTo b (x.len / 16) x.off (x.off + x.len)

/-- Bit `n` fields of a live map (f10 R274). -/
def ImgBytes.liveMap (b : ImgBytes) (o : Nat) : LiveMap where
  dmask := BitVec.ofNat 64 (b.nat o 8)
  cmask := BitVec.ofNat 32 (b.nat (o + 8) 4)
  vmask := BitVec.ofNat 48 (b.nat (o + 12) 6)
  pmask := BitVec.ofNat 128 (b.nat (o + 20) 16)
  gap := b.nat (o + 36) 4
  tmask := BitVec.ofNat 256 (b.nat (o + 48) 32)
  bmask := BitVec.ofNat 64 (b.nat (o + 80) 8)

/-- Route records from an offset up to `stop`; none where they do not end there. -/
def routesTo (b : ImgBytes) (stop : Nat) : (n : Nat) → Nat → Option (List Route)
  | 0, o => if o = stop then some [] else none
  | n + 1, o =>
    if o = stop then some []
    else if stop < o + 8 then none
    else
      let u := b.nat o 4
      let p := b.nat (o + 4) 2
      let r : Route := ⟨u / 2 ^ 24, u / 2 ^ 12 % 2 ^ 12, u % 2 ^ 12, p, b.nat (o + 6) 2,
        (List.range p).map fun i => BitVec.ofNat 32 (b.nat (o + 8 + 4 * i) 4)⟩
      (routesTo b stop n (o + 8 + 4 * p)).map fun l => r :: l

/-- The end of an M-step's lists: the next list, or the end of the section (DEDUCED, log entry 45). -/
def ImgBytes.listEnd (b : ImgBytes) (o : Nat) : Nat :=
  let ends := (b.ofType 0x07).map fun x => x.off + x.len
  let starts := (b.tabled 0x07).map fun e => b.nat (e + 8) 8
  ((ends ++ starts).filter fun x => decide (o < x)).foldl Nat.min b.length

/-- An M-step entry with its route records and, after them, its sync list. -/
def ImgBytes.mstep (b : ImgBytes) (e : Nat) : Option MStep :=
  let o := b.nat (e + 8) 8
  let n := b.nat (e + 4) 1
  let stop := b.listEnd o
  if stop < o + 8 * n then (if n = 0 then some ⟨b.nat e 4, [], []⟩ else none)
  else
    let at_ := stop - 8 * n
    (routesTo b at_ at_ o).map fun l =>
      ⟨b.nat e 4, (List.range n).map fun i => (b.nat (at_ + 8 * i) 4, b.nat (at_ + 8 * i + 4) 4), l⟩

/-- The code words of a section. -/
def ImgBytes.words (b : ImgBytes) (x : Sect) : SMap Word :=
  SMap.ofFn 0 (x.len / 4) fun i => BitVec.ofNat 32 (b.nat (x.off + 4 * i) 4)

def zeroBytes (b : ImgBytes) (o n : Nat) : Bool := b.nat o n == 0

/-- The header and section table (f09 R246). -/
def ImgBytes.headerOk (b : ImgBytes) : Bool :=
  let l := b.sects
  decide (64 ≤ b.length) && b.nat 0 4 == 0x44554C49 && b.nat 4 2 == 1 && decide (1 ≤ l.length ∧ l.length ≤ 64) &&
    decide (64 + 16 * l.length ≤ b.length) && decide (b.nat 21 1 < 128) && decide (b.nat 22 1 < 2) && zeroBytes b 23 1 &&
    zeroBytes b 32 32 &&
    (l.zipIdx.all fun x => zeroBytes b (64 + 16 * x.2 + 4) 4 && decide (1 ≤ x.1.ty ∧ x.1.ty ≤ 9) &&
      decide (x.1.off + x.1.len ≤ b.length)) &&
    (l.zipIdx.all fun x => l.zipIdx.all fun y => x.2 == y.2 || x.1.ty != y.1.ty || x.1.idx != y.1.idx)

/-- The sizes and reserved fields of the sections. -/
def ImgBytes.sectionsOk (b : ImgBytes) (d c : Nat) : Bool :=
  let codes := b.ofType 0x01
  let sized := fun (ty n : Nat) => (b.ofType ty).all fun x => x.len % n == 0
  !codes.isEmpty && sized 0x01 4 && sized 0x03 8 && sized 0x06 16 && sized 0x08 4 &&
    ((b.ofType 0x04).all fun x => x.len == 128) && ((b.ofType 0x09).all fun x => x.len == 8) &&
    ((b.ofType 0x02).all fun x => x.len == d * c &&
      (List.range x.len).all fun i => codes.any fun y => y.idx == b.nat (x.off + i) 1) &&
    (!(b.ofType 0x02).isEmpty || codes.any fun y => y.idx == 0) &&
    ((b.entries 0x03 8).all fun e => decide (b.nat (e + 5) 1 < 3) && zeroBytes b (e + 6) 2) &&
    ((b.tabled 0x05).all fun e =>
      let o := b.nat (e + 8) 8
      zeroBytes b (e + 5) 3 && decide (o + 96 ≤ b.length) && zeroBytes b (o + 18) 2 && zeroBytes b (o + 40) 8 &&
        zeroBytes b (o + 88) 8) &&
    ((b.entries 0x06 16).all fun e =>
      decide (2 ≤ b.nat e 1 ∧ b.nat e 1 < 32) && decide (b.nat (e + 1) 1 < 2) && decide (b.nat (e + 4) 1 < 5) &&
        zeroBytes b (e + 5) 3) &&
    ((b.tabled 0x07).all fun e => zeroBytes b (e + 5) 3 && (b.mstep e).isSome) &&
    ((b.entries 0x08 4).all fun e => b.nat e 4 % 2 == 0) && ((b.entries 0x09 8).all fun e => zeroBytes b (e + 5) 3)

/-- The image the bytes describe. What a section leaves out has the value the directives give it when it is absent (f11 R295). -/
def ImgBytes.image (b : ImgBytes) : Image :=
  let codes := b.ofType 0x01
  let res := (b.entries 0x09 8).headD 0
  let has := !(b.ofType 0x09).isEmpty
  let d := b.nat 16 2
  let c := b.nat 18 2
  { hash := Config.sha384 b
    d := d
    c := c
    width := b.nat 20 1
    strides := BitVec.ofNat 8 (b.nat 21 1)
    elastic := decide (b.nat 22 1 % 2 = 1)
    longc := b.nat 24 8
    code := codes.foldl (fun m x => SMap.set [] m x.idx (b.words x)) []
    codeLen := codes.foldl (fun m x => SMap.set 0 m x.idx (x.len / 4)) []
    classes := match b.ofType 0x02 with
      | x :: _ => (List.range x.len).map fun i => b.nat (x.off + i) 1
      | [] => (List.range (d * c)).map fun _ => 0
    loops := (b.entries 0x03 8).map fun e => (b.nat e 4, b.nat (e + 4) 1, b.nat (e + 5) 1)
    ft := (b.entries 0x04 8).map fun e => BitVec.ofNat 64 (b.nat e 8)
    safe := (b.tabled 0x05).map fun e => (b.nat e 4, b.nat (e + 4) 1, b.liveMap (b.nat (e + 8) 8))
    objs := (b.entries 0x06 16).map fun e =>
      ⟨b.nat e 1, decide (b.nat (e + 1) 1 % 2 = 1), b.nat (e + 2) 2, b.nat (e + 4) 1, b.nat (e + 8) 8⟩
    msteps := (b.tabled 0x07).filterMap b.mstep
    restart := (b.entries 0x08 4).map fun e => b.nat e 4
    banks := if has then b.nat res 1 else 0
    tiles := if has then b.nat (res + 1) 2 else 1
    sems := if has then b.nat (res + 3) 2 else 0
    promise := true }

/-- The limits of f02 R31 and R32 on what an image declares. -/
def declOk (img : Image) : Bool :=
  decide (1 ≤ img.d ∧ img.d ≤ 4096) && decide (1 ≤ img.c ∧ img.c ≤ 96) &&
    (img.width == 1 || img.width == 2 || img.width == 4) && !(stridesOf img.strides).isEmpty &&
    decide (1 ≤ img.longc ∧ img.longc ≤ 2 ^ 40) && decide (img.banks ≤ 64) && decide (1 ≤ img.tiles ∧ img.tiles ≤ 256) &&
    decide (img.sems ≤ 256) && decide ((img.objs.filter fun o => o.timed).length ≤ 64) &&
    (img.msteps.all fun m => decide (1 ≤ m.len ∧ m.len ≤ 2 ^ 20) && decide (m.syncs.length ≤ 16))

/-! ### Bundles -/

/-- A bundle as the finaliser sees it. -/
structure Bun where
  addr  : Nat
  delta : Nat
  safe  : Bool
  lend  : Nat
  words : List (Nat × Nat × Instr)
  deriving Repr

/-- A word of a slot; an SVC of any number is legal (f10 R266). -/
def slotWord (slot : Nat) (w : Word) : Option Instr :=
  if slot = 0 ∧ w.extractLsb' 12 20 = 0xA2000#20 then some .svcNull else decodeSlot slot w

/-- A bundle whose header and words are all legal (f12 R316). -/
def bunOf (x : Nat × Word × List (Nat × Nat × Word)) : Option Bun :=
  match decodeHeader x.2.1 with
  | some (.bndl d _ f l _) =>
    let ws := x.2.2.map fun w => (w.1, w.2.1, slotWord w.1 w.2.2)
    if ws.all fun w => w.2.2.isSome then
      some ⟨x.1, d.toNat, f == 1, l.toNat, ws.filterMap fun w => w.2.2.map fun i => (w.1, w.2.1, i)⟩
    else none
  | _ => none

/-- The bundles of a class; none where one is illegal, runs past the section, or names a tile outside the window. -/
def bunsOf (img : Image) (cls : Nat) : Option (List Bun) :=
  let raw := img.bundles cls
  let l := raw.filterMap bunOf
  let len := SMap.get 0 img.codeLen cls
  let inside : Bool := match raw.getLast? with
    | some x => decide (x.1 + 1 + x.2.2.length ≤ len)
    | Option.none => true
  let tiles : Bool := l.all fun x => x.words.all fun w => (readsOf w.2.2 ++ writesOf w.2.2).all fun r =>
    r.1 != 4 || decide (r.2 < img.tiles)
  if l.length = raw.length ∧ inside ∧ tiles then some l else none

/-- A LOOP: its bundle, level, last body bundle, and its count when it is an immediate. -/
structure FLoop where
  i     : Nat
  level : Nat
  last  : Nat
  count : Option Nat
  addr  : Nat
  deriving DecidableEq, Repr

def loopOf (i : Nat) (w : Nat × Nat × Instr) : Option FLoop :=
  match w.2.2 with
  | .loopImm l n c => some ⟨i, l.toNat, i + n.toNat, some c.toNat, w.2.1⟩
  | .loopReg l n _ => some ⟨i, l.toNat, i + n.toNat, none, w.2.1⟩
  | _ => none

def loopsOf (l : List Bun) : List FLoop := l.zipIdx.flatMap fun x => x.1.words.filterMap (loopOf x.2)

def isCallRet : Instr → Bool
  | .call _ _ | .ret _ => true
  | _ => false

/-- The rules of f03 R73 and R74 about loops and LEND. -/
def loopsOk (l : List Bun) (loops : List FLoop) : Bool :=
  (loops.all fun x =>
    let outer := loops.filter fun y => decide (y.i < x.i ∧ x.i ≤ y.last)
    let body := (l.drop (x.i + 1)).take (x.last - x.i)
    decide (x.last < l.length) && (outer.all fun y => y.level != x.level && decide (x.last ≤ y.last)) &&
      (x.level == 0 || outer.any fun y => y.level + 1 == x.level) &&
      decide ((body.map fun y : Bun => y.words.length).foldl (· + ·) 0 ≤ 256) &&
      !(body.any fun y => y.words.any fun w => isCallRet w.2.2)) &&
  (l.zipIdx.all fun x =>
    let ending := loops.filter fun y => y.last == x.2
    x.1.lend == ending.foldl (fun m y => Nat.max m (y.level + 1)) 0)

/-- Index of the bundle whose header stands at a word address. -/
def bunAt (l : List Bun) (addr : Int) : Option Nat := l.findIdx? fun x => (x.addr : Int) == addr

/-- The target of a relative branch word. -/
def branchOff : Instr → Option Int
  | .br _ _ o | .jmp o | .call _ o => some o.toInt
  | _ => none

/-- The rules about branches: a header as target (f18 R346), its DELTA (f03 R60), the return's too (f12 R306), no entry into a
loop body (R74). -/
def branchesBad (l : List Bun) (loops : List FLoop) : Option Nat :=
  l.zipIdx.findSome? fun x => x.1.words.findSome? fun w => match branchOff w.2.2 with
    | none => none
    | some o => match bunAt l (x.1.addr + o) with
      | none => some fIllWord
      | some j =>
        let slow : Nat → Bool := fun k => match l[k]? with
          | some y => decide (2 ≤ y.delta)
          | none => false
        if slow j = false ∨ (isCallRet w.2.2 ∧ slow (x.2 + 1) = false) then some fTiming
        else if loops.any fun y => decide (y.i < j ∧ j ≤ y.last) && !decide (y.i < x.2 ∧ x.2 ≤ y.last) then some fLoopFit
        else none

/-! ### Latencies the finaliser takes (f09 R434) -/

/-- Capability registers some word of the image writes. -/
def writtenCaps (all : List Bun) : List Nat :=
  all.flatMap fun x => x.words.flatMap fun w => (writesOf w.2.2).filterMap fun r => if r.1 = 1 then some r.2 else none

/-- The level a capability register reaches: C1 the scratchpad; a declared level of a register that nothing writes. -/
def capLevel (img : Image) (written : List Nat) (c : Nat) : Option Nat :=
  if c = 1 then some 0
  else if written.contains c then none
  else match img.objs.find? fun o => o.creg == c with
    | some o => if o.level = 0 then none else some (o.level - 1)
    | none => none

/-- Rows of f07 R177 by source (none: OXFILL) and destination level: L and B. -/
def oxRowLat (src : Option Nat) (dst : Nat) : Option (Nat × Nat) :=
  match src.getD 0, dst with
  | 0, 0 => some (if src.isNone then 16 else 12, 256)
  | 1, 0 | 0, 1 => some (if src.isNone then 48 else 44, 256)
  | 2, 0 | 2, 1 => some (64, 256)
  | 3, 0 | 0, 3 => some (if src.isNone then 168 else 164, 128)
  | 1, 3 | 3, 1 => some (204, 128)
  | 3, 3 => some (324, 128)
  | 1, 1 => some (84, 256)
  | 2, 3 => some (224, 128)
  | _, _ => none

/-- The rows of f07 R177 a timed job's sides could use. -/
def oxRows (lev : Nat → Option Nat) (d : Nat) (sv : Option Nat) : List (Nat × Nat) :=
  let dsts := match lev d with
    | some x => [x]
    | none => [0, 1, 3]
  let srcs := match sv with
    | none => [none]
    | some c => match lev c with
      | some x => [some x]
      | none => [some 0, some 1, some 2, some 3]
  dsts.flatMap fun y => srcs.filterMap fun x => oxRowLat x y

/-- The largest L and the smallest B of them, or of a remote job's row with hop latency `h`. -/
def oxLat (lev : Nat → Option Nat) (d : Nat) (sv : Option Nat) (remote : Option Nat) : Nat × Nat :=
  let l := oxRows lev d sv ++ (remote.map fun h => (16 + h, 32)).toList
  (l.foldl (fun m x => Nat.max m x.1) 0, l.foldl (fun m x => Nat.min m x.2) 256)

/-- The stream length of a timed job whose counts the image fixes (f07 R175, R178, R186). -/
def streamBytes (b : Option PBlk) : Option Nat := b.map PBlk.total

/-- A register whose declared object lies on another logical die than some core of the class: its access can be remote in an
M-step (f08 R209). -/
def mayBeRemote (img : Image) (cls : Nat) (written : List Nat) (c : Nat) : Bool :=
  !written.contains c && (img.objs.any fun o => o.creg == c &&
    img.classes.zipIdx.any fun x => x.1 == cls && x.2 / Nat.max img.c 1 != o.ldie)

/-- An access that may be remote in an M-step with routes: through such a register, or one whose object the finaliser does not know (f09
R434). -/
def MStep.reaches (m : MStep) (img : Image) (cls : Nat) (written : List Nat) (c : Nat) : Bool :=
  !m.routes.isEmpty && c != 1 && (written.contains c || (img.objs.all fun o => o.creg != c) || mayBeRemote img cls written c)

/-- The greatest hop latency of an M-step's routes. -/
def MStep.hops (m : MStep) : Nat := m.routes.foldl (fun n r => Nat.max n r.h) 0

/-- What an indexed access takes beyond its row (f12 R318). -/
def indexedExtra : Instr → Nat
  | .vldx _ _ _ _ | .vstx _ _ _ _ => 4
  | _ => 0

/-- L and B of a timed Ox word. -/
def timedRow (img : Image) (cls : Nat) (written : List Nat) (m : Option MStep) (d : Nat) (sv : Option Nat) : Nat × Nat :=
  let far := fun (c : Nat) => (m.map fun y => y.reaches img cls written c).getD false
  oxLat (capLevel img written) d sv
    (if far d || sv.any far then some ((m.map MStep.hops).getD 0) else none)

/-- The vcy from the perform vcy of a job's first line to that of its last, and the vcy it occupies its engine; where the image does not fix
its length, those of one line (DEDUCED, log entry 46). -/
def lineSpan (n : Option Nat) (rate : Nat) : Nat × Nat :=
  match n with
  | some n => (128 * ((n + 127) / 128 - 1) / rate, (n + rate - 1) / rate)
  | none => (0, 1)

/-- Perform offset of a word: its latency, a timed Ox job's for its last line, or a remote access's in M-step `m`. -/
def performsAt (img : Image) (cls : Nat) (written : List Nat) (m : Option MStep) (n : Option Nat) (i : Instr) : Option Nat :=
  let far := fun (c : Nat) => (m.map fun y => y.reaches img cls written c).getD false
  let h := (m.map MStep.hops).getD 0
  match timedOxOf i with
  | some (d, sv, _) =>
    let (l, b) := timedRow img cls written m d sv
    some (l + (lineSpan n b).1)
  | none =>
    let base := latencyOf (capLevel img written) i
    match readsBy i, storesBy i with
    | some c, _ => if far c then some (160 + 2 * h + indexedExtra i) else base
    | _, some c => if far c then some (160 + h + indexedExtra i) else base
    | _, _ => base

/-- A timed read that reaches the weight store (f03 R66). -/
def readsWeights (img : Image) (written : List Nat) (i : Instr) : Bool :=
  let c := match timedOxOf i with
    | some (_, sv, _) => sv
    | none => readsBy i
  match c with
  | some c => capLevel img written c == some 2
  | none => false

/-- Occupancy an X-slot command's format entry gives: that of its class or its emulation, the greatest where the image writes the entries
or the selection itself (f03 R77, f05 R130, R133). -/
def ftOccOf (img : Image) (setsFt : Bool) (f : BitVec 4) : Nat :=
  if setsFt then (if img.ft.any img.emulates then 32 else 16) else img.occFt (img.ft.getD f.toNat 0)

/-- The capability registers of a timed access. -/
def timedCaps (i : Instr) : List Nat :=
  match timedOxOf i with
  | some (d, sv, _) => d :: sv.toList
  | none => (readsBy i).toList ++ (storesBy i).toList

/-! ### The paths (f09 R433) -/


/-- D registers whose value the image fixes on a path: those MOVI and MOVHI have written, and D0. -/
abbrev Consts := SMap (Option (BitVec 64))
def Consts.get (m : Consts) (r : Nat) : Option (BitVec 64) := if r = 0 then some 0 else SMap.get none m r

/-- What a word leaves of them. -/
def Consts.after (m : Consts) (i : Instr) : Consts :=
  let set := fun (d : Nat) (v : Option (BitVec 64)) => if d = 0 then m else SMap.set none m d v
  match i with
  | .movi d h v => set d.toNat (some (v.signExtend 64 <<< (16 * h.toNat)))
  | .movhi d h v => set d.toNat ((m.get d.toNat).map fun x =>
      (x &&& ~~~ (0xFFFF#64 <<< (16 * h.toNat))) ||| (v.setWidth 64 <<< (16 * h.toNat)))
  | i => (writesOf i).foldl (fun (m : Consts) r => if r.1 = 0 then SMap.set none m r.2 none else m) m

/-- A job's parameter block, where all of it that fixes its traversals is known: offsets, counts, strides and control word (f07 R173). -/
def Consts.block (m : Consts) (i : Instr) : Option PBlk :=
  (blockOf i).bind fun p =>
    let w := (List.range 8).map fun j => m.get (p + j)
    if [2, 6].all fun j => (w.getD j none).isSome then some (w.map (·.getD 0)) else none

/-- The bytes such a job writes in its destination window, as offset and length; all of the window where the image does not fix them. -/
def Consts.destBytes (m : Consts) (i : Instr) : Nat × Nat :=
  let known := (blockOf i).all fun p => [0, 2, 3, 5, 6].all fun j => (m.get (p + j)).isSome
  match m.block i, known, i with
  | some b, true, .oxcopy _ _ _ _ _ | some b, true, .oxfill _ _ _ _ =>
    let (lo, n) := b.extent b.doff b.dst
    (lo.toNat, n)
  | some b, true, .oxgath _ _ _ _ _ => (b.doff, b.row * b.n 1)
  | _, _, _ => (0, 2 ^ 44)

/-- The past of a pass: the vcy to the last perform in flight, the units busy with the vcy left, the registers known. -/
abbrev Past := Option Nat × List (Nat × Nat) × Consts

/-- An active loop of a path: first, last, passes left (none: a register's count), how its last pass began. -/
structure PLoop where
  first : Nat
  last  : Nat
  left  : Option Nat
  was   : Option Past
  deriving DecidableEq, Repr

/-- Where a path stands: the bundle about to issue, its vcy in the step, the M-step it is in, the last vcy at whose end
something issued performs, the units busy, the active loops (first, last, passes left; none: a register's count), whether its
siblings may have left it since the step began (a local wait, or a way that hangs on data), the step's number, and the registers whose value
the image fixes. -/
structure Path where
  i     : Nat
  v     : Nat
  ms    : Option Nat
  until_ : Option Nat
  busy  : List (Nat × Nat)
  loops : List PLoop
  apart : Bool
  step  : Nat
  known : Consts
  deriving DecidableEq, Repr

/-- What matters of the past, relative to the vcy. -/
def Path.past (p : Path) (v : Nat) : Past :=
  (p.until_.bind fun u => if v ≤ u then some (u - v) else none,
    p.busy.filterMap fun b => if v < b.2 then some (b.1, b.2 - v) else none, p.known)

/-- Two paths that go on alike have one key: in a C-step only the past relative to the vcy counts, once its lockstep region has ended; the
steps from the 64th on count as one and the next in turn. -/
def Path.key (p : Path) : Path :=
  let (u, b, _) := p.past p.v
  { p with v := if p.ms.isSome then p.v else if p.apart then 0 else Nat.min p.v (2 ^ 16), until_ := u, busy := b,
           step := if p.step < 64 then p.step else 64 + p.step % 2 }

/-- Passes of a loop under an immediate count on the logical cores of the class (f03 R72, R75). -/
def loopPasses (img : Image) (cls : Nat) (addr count : Nat) : List Nat :=
  let kind := match img.loops.find? fun x => x.1 == addr && x.2.1 == cls with
    | some x => x.2.2
    | none => 0
  if kind = 0 then [count]
  else
    let at_ := fun (s k : Nat) => if count ≤ s then 0 else (count - s + k - 1) / Nat.max k 1
    ((img.classes.zipIdx.filter fun x => x.1 == cls).map fun x =>
      if kind = 1 then at_ (x.2 % Nat.max img.c 1) img.c else at_ (x.2 / Nat.max img.c 1) img.d).eraseDups

/-- The bundle after each CALL from which a RET can be reached (f09 R433): the walk of a callee goes on behind its own calls. -/
def reachRets (l : List Bun) (loops : List FLoop) : (n : Nat) → (work seen : List Nat) → List Nat
  | 0, _, seen => seen
  | _, [], seen => seen
  | n + 1, i :: work, seen =>
    if seen.contains i then reachRets l loops n work seen
    else match l[i]? with
      | none => reachRets l loops n work seen
      | some x =>
        let ends := x.words.any fun w => match w.2.2 with
          | .exit _ | .trap _ | .ret _ | .jmp _ => true
          | _ => false
        let tgt := x.words.filterMap fun w => (branchOff w.2.2).bind fun o => bunAt l (x.addr + o)
        let skip := (loops.filter fun y => y.i == i).map fun y => y.last + 1
        let back := (loops.filter fun y => y.last == i).map fun y => y.i + 1
        reachRets l loops n (tgt ++ skip ++ back ++ (if ends then [] else [i + 1]) ++ work) (i :: seen)

/-- Return targets of the RET in bundle `r`. -/
def returnsTo (l : List Bun) (loops : List FLoop) (r : Nat) : List Nat :=
  l.zipIdx.filterMap fun x => match x.1.words.findSome? fun w => match w.2.2 with
      | .call _ o => bunAt l (x.1.addr + o.toInt)
      | _ => none with
    | some t => if (reachRets l loops (8 * l.length * l.length + 8) [t] []).contains r then some (x.2 + 1) else none
    | none => none

/-- Everything the walk of a class needs. -/
structure Walk where
  img     : Image
  cls     : Nat
  l       : List Bun
  loops   : List FLoop
  written : List Nat
  setsFt  : Bool
  /-- whether another class's code has ended the lockstep region of a step by a vcy of it (f10 R268) -/
  ended   : Nat → Nat → Bool

/-- The SSTEP of a bundle: whether it opens an M-step, and which. -/
def stepWord (x : Bun) : Option (Option Nat) :=
  x.words.findSome? fun w => match w.2.2 with
    | .sstep => some none
    | .sstepM n => some (some n.toNat)
    | _ => none

/-- The checks of one bundle on a path: the code of the first rule broken. -/
def Walk.bundleBad (k : Walk) (p : Path) (x : Bun) : Option Nat :=
  let m := p.ms.bind fun n => k.img.msteps[n]?
  let inM := p.ms.isSome
  let len := (m.map fun y => y.len).getD 0
  let flying := match p.until_ with
    | some u => decide (p.v ≤ u)
    | none => false
  let has := fun (f : Instr → Bool) => x.words.any fun w => f w.2.2
  let isTrap := fun (i : Instr) => match i with
    | .trap _ => true
    | _ => false
  let clash := x.words.any fun w =>
    (match occOf (ftOccOf k.img k.setsFt) w.2.2 with
      | some (u, _) => p.busy.any fun b => b.1 == u && decide (p.v < b.2)
      | none => false) ||
    (match timedOxOf w.2.2 with
      | some (_, _, q) => p.busy.any fun b => b.1 == 4 + q && decide (p.v < b.2)
      | none => false)
  firstBad [
    (!inM || decide (p.v < len), fTiming),
    (!x.safe || !inM, fTiming),
    (!x.safe || (k.img.safe.any fun y => y.1 == x.addr && y.2.1 == k.cls), fSafeMap),
    (!x.safe || !flying, fSafeMap),
    (!x.safe || (p.loops.all fun y => y.left.isSome), fSafeMap),
    (!inM || !(has waitsOf || x.words.any fun w => w.1 == 2 || readsWeights k.img k.written w.2.2), fTiming),
    -- timed access to another die's memory in a C-step (f04 R89; the code: DESIGN CHOICE, log entry 150)
    (inM || !(x.words.any fun w => (timedCaps w.2.2).any (mayBeRemote k.img k.cls k.written)), fTiming),
    (!(has isTrap) || !flying, fTiming),
    (!clash, fTiming),
    -- two strands of one core in one lockstep region use one engine at once (f07 R178); a SAFE bundle of any strand ends the region (f10 R268)
    (k.img.width == 1 || p.apart || x.safe || k.ended p.step p.v || !(x.words.any fun w => (timedOxOf w.2.2).isSome), fTiming)]

/-- A word after which siblings can go different ways. -/
def forks : Instr → Bool
  | .br _ _ _ | .ret _ | .loopReg _ _ _ => true
  | _ => false

/-- The path after the bundle's words have issued. -/
def Walk.issue (k : Walk) (p : Path) (x : Bun) : Path :=
  let m := p.ms.bind fun n => k.img.msteps[n]?
  let p := { p with apart := p.apart || x.safe }
  x.words.foldl (fun p w =>
    let busy := match occOf (ftOccOf k.img k.setsFt) w.2.2, timedOxOf w.2.2 with
      | some (u, o), _ => (p.busy.filter fun b => b.1 != u) ++ [(u, p.v + o)]
      | none, some (d, sv, q) =>
        let rate := (timedRow k.img k.cls k.written m d sv).2
        (p.busy.filter fun b => b.1 != 4 + q) ++ [(4 + q, p.v + Nat.max 1 (lineSpan (streamBytes (p.known.block w.2.2)) rate).2)]
      | none, none => p.busy
    let until_ := match performsAt k.img k.cls k.written m (streamBytes (p.known.block w.2.2)) w.2.2 with
      | some n => some (Nat.max (p.until_.getD 0) (p.v + n))
      | none => p.until_
    { p with busy := busy, until_ := until_, apart := p.apart || waitsOf w.2.2 || w.1 == 2 || forks w.2.2 })
    { p with apart := p.apart || k.ended p.step p.v }
  |> fun q => { q with known := x.words.foldl (fun m w => Consts.after m w.2.2) p.known }

/-- The rules of f03 R65, R68, R69 and f19 R399 at an SSTEP; `m` is what it opens. -/
def Walk.stepBad (k : Walk) (p : Path) (before : Option Nat) (x : Bun) (m : Option Nat) : Option Nat :=
  let flying : Bool := match before with
    | some u => decide (p.v ≤ u)
    | none => false
  match p.ms, m with
  | none, none | some _, some _ => some fTiming
  | none, some n =>
    if x.words.length ≠ 1 ∨ flying ∨ k.img.msteps.length ≤ n then some fTiming else none
  | some c, none =>
    let len := (k.img.msteps[c]?.map fun y => y.len).getD 0
    if p.v + 1 ≠ len ∨ len + 95 < p.until_.getD 0 then some fTiming else none

/-- Where the bodies that end at a bundle lead: back while passes remain, out of the loop otherwise. -/
def leaveLoops (i v : Nat) (past : Option Past) : List PLoop → List (Nat × List PLoop)
  | [] => [(i + 1, [])]
  | y :: rest =>
    if y.last ≠ i then [(i + 1, y :: rest)]
    else match y.left with
      | none => (y.first, y :: rest) :: leaveLoops i v past rest
      | some n =>
        if n ≤ 1 then leaveLoops i v past rest
        -- a pass that begins as the one before it did goes as that one did: on to the last
        else if past.isSome ∧ past = y.was then [(y.first, { y with left := some 1 } :: rest)]
        else [(y.first, { y with left := some (n - 1), was := past } :: rest)]

/-- A word that decides where the strand goes on. -/
def ctlWord : Instr → Bool
  | .br _ _ _ | .jmp _ | .call _ _ | .ret _ | .loopImm _ _ _ | .loopReg _ _ _ => true
  | _ => false

/-- The successors of a bundle: index, whether by a taken branch, and the loops active then. -/
def Walk.next (k : Walk) (p : Path) (x : Bun) :
    List (Nat × Bool × List PLoop) :=
  let keep := fun (t : Nat) => p.loops.filter fun y => decide (y.first ≤ t ∧ t ≤ y.last)
  let past := if p.ms.isSome then none else some (p.past p.v)
  let fall := (leaveLoops p.i p.v past p.loops).map fun y => (y.1, false, y.2)
  let jump := fun (o : Int) => match bunAt k.l (x.addr + o) with
    | some t => [(t, true, keep t)]
    | none => []
  match x.words.find? fun w => ctlWord w.2.2 with
  | some (_, _, .br _ _ o) => jump o.toInt ++ fall
  | some (_, _, .jmp o) => jump o.toInt
  | some (_, _, .call _ o) => jump o.toInt
  | some (_, _, .ret _) => (returnsTo k.l k.loops p.i).map fun t => (t, true, keep t)
  | some w => match loopOf p.i w with
    | some y => match y.count with
      | none => [(y.i + 1, false, ⟨y.i + 1, y.last, none, none⟩ :: p.loops), (y.last + 1, false, p.loops)]
      | some c =>
        let into := fun (n : Nat) => (y.i + 1, false, (⟨y.i + 1, y.last, some n, none⟩ : PLoop) :: p.loops)
        let passes := loopPasses k.img k.cls y.addr c
        (if passes.contains 0 then [into 0] else []) ++ passes.map fun n => if n = 0 then (y.last + 1, false, p.loops) else into n
    | none => fall
  | none => fall

/-- The walk over every path: the code of the first rule broken, or everything it has come by. `n` bounds the paths taken up; no image's
walk comes to it. -/
def Walk.run (k : Walk) : (n : Nat) → (work seen : List Path) → Except Nat (List Path)
  | 0, _, seen => .ok seen
  | _, [], seen => .ok seen
  | n + 1, p :: work, seen =>
    if seen.contains p.key then k.run n work seen
    else match k.l[p.i]? with
      | none => .error fIllWord
      | some x =>
        match k.bundleBad p x with
        | some code => .error code
        | none =>
          let q := k.issue p x
          let ends := x.words.any fun w => match w.2.2 with
            | .exit _ | .trap _ => true
            | _ => false
          if ends then k.run n work (p.key :: seen)
          else match stepWord x with
            | some m =>
              match k.stepBad q p.until_ x m with
              | some code => .error code
              | none =>
                -- the next bundle issues at b + DELTA: at vcy DELTA − 1 of the new step
                let go := (k.next q x).map fun y =>
                  let d := ((k.l[y.1]?).map fun z => z.delta).getD 1
                  ({ i := y.1, v := d - 1, ms := m, until_ := none, busy := [], loops := y.2.2, apart := k.img.width == 1,
                     step := p.step + 1, known := q.known } : Path)
                k.run n (go ++ work) (p.key :: seen)
            | none =>
              let go := (k.next q x).map fun y =>
                let d := ((k.l[y.1]?).map fun z => z.delta).getD 1
                { q with i := y.1, v := p.v + (if y.2.1 then Nat.max d 2 else d), loops := y.2.2 }
              k.run n (go ++ work) (p.key :: seen)

/-! ### The RESTART section (f10 R271) -/

/-- Whether a live map names a register. -/
def LiveMap.names (m : LiveMap) (r : Reg) : Bool :=
  match r.1 with
  | 0 => m.dmask.getLsbD r.2
  | 1 => m.cmask.getLsbD r.2
  | 2 => m.vmask.getLsbD r.2
  | 3 => m.pmask.getLsbD r.2
  | _ => m.tmask.getLsbD r.2

/-- A register as a program uses it: D0, C0 and P0 are none. -/
def realReg (r : Reg) : Bool := r.1 == 2 || r.1 == 4 || r.2 != 0

/-- The successors of a bundle without regard to timing, for a step's extent; a bundle with SSTEP, EXIT or TRAP ends it. -/
def Walk.plainNext (k : Walk) (i : Nat) (x : Bun) (past : Bool) : List Nat :=
  let ends := x.words.any fun w => match w.2.2 with
    | .exit _ | .trap _ => true
    | _ => false
  if ends ∨ (!past ∧ (stepWord x).isSome) then []
  else
    let tgt := x.words.filterMap fun w => (branchOff w.2.2).bind fun o => bunAt k.l (x.addr + o)
    let isRet := x.words.any fun w => match w.2.2 with
      | .ret _ => true
      | _ => false
    let gone := isRet || x.words.any fun w => match w.2.2 with
      | .jmp _ | .call _ _ => true
      | _ => false
    let skip := (k.loops.filter fun y => y.i == i).map fun y => y.last + 1
    let back := (k.loops.filter fun y => y.last == i).map fun y => y.i + 1
    tgt ++ skip ++ back ++ (if isRet then returnsTo k.l k.loops i else []) ++ (if gone then [] else [i + 1])

/-- The bundles of the step that begins at a bundle. -/
def Walk.extent (k : Walk) : (n : Nat) → (work seen : List Nat) → List Nat
  | 0, _, seen => seen
  | _, [], seen => seen
  | n + 1, i :: work, seen =>
    if seen.contains i then k.extent n work seen
    else match k.l[i]? with
      | none => k.extent n work seen
      | some x => k.extent n (k.plainNext i x false ++ work) (i :: seen)

/-- Registers with the vcy to their nearest read, each once. -/
def nearest (l : List (Reg × Nat)) : List (Reg × Nat) :=
  ((l.map (·.1)).eraseDups).map fun r => (r, (l.filter fun x => x.1 == r).foldl (fun m x => Nat.min m x.2) 4096)

/-- One round of liveness: the registers live before each bundle, with the vcy to their nearest read (f10 R271's live-in set). A write takes
away only what is read after it performs: up to then the value before it can still be read (f03 R62); a guarded or merging write keeps its
register live. -/
def Walk.liveRound (k : Walk) (live : List (List (Reg × Nat))) : List (List (Reg × Nat)) :=
  k.l.zipIdx.map fun x =>
    let out := (k.plainNext x.2 x.1 true).flatMap fun j =>
      (live.getD j []).map fun r => (r.1, Nat.min 4096 (r.2 + ((k.l[j]?).map fun z => z.delta).getD 1))
    let reads := x.1.words.flatMap fun w => (readsOf w.2.2).map fun r => (r, 0)
    let kills := x.1.words.flatMap fun w =>
      (writesOf w.2.2).map fun r => (r, (performsAt k.img k.cls k.written none none w.2.2).getD 0)
    nearest ((reads ++ out.filter fun r => !kills.any fun w => w.1 == r.1 && decide (w.2 < r.2)).filter fun r => realReg r.1)

/-- The fixed point, reached when no round changes anything. -/
def Walk.liveness (k : Walk) : (n : Nat) → List (List (Reg × Nat)) → List (List (Reg × Nat))
  | 0, live => live
  | n + 1, live =>
    let next := k.liveRound live
    if next = live then live else k.liveness n next

/-- The registers a bundle's live map names: all of them in `regs`. -/
def sameLive (m : LiveMap) (regs : List Reg) : Bool :=
  let all := rMany 0 1 63 ++ rMany 1 1 31 ++ rMany 2 0 48 ++ rMany 3 1 127 ++ rMany 4 0 256
  all.all fun r => m.names r == regs.contains r

/-- WEN, SEN, QBEN or SYEN may be set in a job: its parameter register 6 is not known to hold them clear. What it holds is known
where the step's words write it with MOVI alone (DEDUCED, log entry 47). -/
def jobFlagged (step : List Bun) (b : Nat) : Bool :=
  let r := b + 6
  let writers := step.flatMap fun x => x.words.filterMap fun w =>
    if (writesOf w.2.2).contains (0, r) then some w.2.2 else none
  writers.isEmpty || writers.any fun i => match i with
    | .movi _ h v => (v.signExtend 64 <<< (16 * h.toNat)).extractLsb' 16 4 != 0#4
    | _ => true

/-- The first bundles of step `n` on the paths of the class: behind its n-th SSTEP. -/
def Walk.firsts (k : Walk) : Nat → List Nat
  | 0 => [0]
  | n + 1 =>
    let inside := k.extent (8 * k.l.length * k.l.length + 8) (k.firsts n) []
    (inside.flatMap fun i => match k.l[i]? with
      | some x => if (stepWord x).isSome then k.plainNext i x true else []
      | none => []).eraseDups

/-- An entry the finaliser accepts, by one class (f10 R271). -/
def Walk.restartOk (k : Walk) (n : Nat) : Bool :=
  let heads := k.firsts n
  let live := k.liveness (k.l.length * 600 + 8) (k.l.map fun _ => [])
  let step := (k.extent (8 * k.l.length * k.l.length + 8) heads []).filterMap fun i => k.l[i]?
  let words := step.flatMap fun x => x.words.map fun w => w.2.2
  heads.all fun i => match k.l[i]? with
    | none => false
    | some x => x.safe && (match k.img.safe.find? fun y => y.1 == x.addr && y.2.1 == k.cls with
      | none => false
      | some (_, _, m) => sameLive m ((live.getD i []).map (·.1)) &&
        words.all fun w => (writesOf w).all (fun r => !(m.names r)) && !barsOf w && (match blockOf w with
          | some b => !jobFlagged step b
          | none => true))

/-! ### The finaliser -/

/-- A word that writes an FT entry or the selection of f03 R77. -/
def setsFormat : Instr → Bool
  | .wrcsr _ c => c == 0x020 || decide (0x040 ≤ c.toNat ∧ c.toNat < 0x050)
  | _ => false

/-- The image promise (f09 R249): no OXACC or OXHEN word with ORD 0. -/
def unordered : Instr → Bool
  | .oxacc _ _ _ o _ | .oxhen _ _ _ o _ => o == 0
  | _ => false

/-- Re-timing (f09 R247): every DELTA is a free value, and whether there is one (log entry 48); what it has to keep is `sidesOk`. A header that
is illegal stays so. -/
def retimeImage (img : Image) : Image :=
  { img with code := SMap.mapVals (fun cls m => SMap.mapVals (fun a w =>
      if (decodeHeader w).isSome then (w &&& 0xFF00FFFF#32) ||| ((Config.retimed img.hash cls a).setWidth 32 <<< 16) else w) m) img.code }

/-- The latency set of this implementation. -/
def ownLatset : Nat := 0x0801

/-- What a word reads and writes of a strand beside registers, for the sides of f09 R247: memory as one place (class 5), CSRs by number (class
6). A word that computes may raise a flag. -/
def readsAll (i : Instr) : List Reg :=
  readsOf i ++ (if (readsBy i).isSome || (timedOxOf i).isSome then [(5, 0)] else []) ++
    (match i with
      | .rdcsr _ c => [(6, c.toNat)]
      | .vrng _ _ _ _ => [(6, 0x024)]
      | .mma _ _ _ f | .mmaRs _ _ _ f | .mmas _ _ _ f | .mmasRs _ _ _ f => [(6, 0x020), (6, 0x040 + f.toNat)]
      | _ => [])
def writesAll (i : Instr) : List Reg :=
  (writesOf i).filter realReg ++ (if (storesBy i).isSome || (timedOxOf i).isSome then [(5, 0)] else []) ++
    (match i with
      | .wrcsr _ c => [(6, c.toNat)]
      | .loopImm l _ _ | .loopReg l _ _ => [(6, 0x030 + l.toNat)]
      | .mdrains _ _ _ _ => [(5, 0), (6, 0x010)]
      | i => if (writesOf i).isEmpty then [] else [(6, 0x010)])

/-- Behind a word that writes `regs`, and performs `was` vcy after its issue in the image's own timing and `now` in the new one, every read of
one of them keeps its side of that write; `work` holds bundles with their distances in both timings. -/
def Walk.keepsSides (k : Walk) (l' : List Bun) (regs : List Reg) (was now : Nat) :
    (n : Nat) → (work seen : List (Nat × Nat × Nat)) → Bool
  | 0, _, _ => true
  | _, [], _ => true
  | n + 1, y :: work, seen =>
    if seen.contains y then k.keepsSides l' regs was now n work seen
    else match k.l[y.1]? with
      | none => k.keepsSides l' regs was now n work seen
      | some x =>
        let reads := x.words.any fun w => (readsAll w.2.2).any regs.contains
        let past := decide (was < y.2.1)
        let past' := decide (now < y.2.2)
        let gap := fun (l : List Bun) (j : Nat) => ((l[j]?).map fun z => z.delta).getD 1
        if reads ∧ past ≠ past' then false
        else if past ∧ past' then k.keepsSides l' regs was now n work (y :: seen)
        else
          let next := (k.plainNext y.1 x true).map fun j => (j, y.2.1 + gap k.l j, y.2.2 + gap l' j)
          k.keepsSides l' regs was now n (next ++ work) (y :: seen)

/-- A re-timed class keeps every read, of a register, of memory or of a CSR, on its side of every write's perform vcy (f09 R247); the figures of another latency set
are not in the spec (log entry 48). -/
def sidesOk (img img' : Image) (written : List Nat) (latset cls : Nat) : Bool :=
  match bunsOf img cls, bunsOf img' cls with
  | some l, some l' =>
    let k : Walk := ⟨img, cls, l, loopsOf l, written, false, fun _ _ => true⟩
    let gap := fun (l : List Bun) (j : Nat) => ((l[j]?).map fun z => z.delta).getD 1
    l.zipIdx.all fun x => x.1.words.all fun w =>
      let now := (performsAt img cls written none none w.2.2).getD 0
      let was := if latset = ownLatset then now
        else Config.latencyIn (BitVec.ofNat 64 latset) (SMap.get 0 (SMap.get [] img.code cls) w.2.1)
      k.keepsSides l' (writesAll w.2.2) was now (2 ^ 64)
        ((k.plainNext x.2 x.1 true).map fun j => (j, gap l j, gap l' j)) []
  | some _, none => false
  | none, _ => true

/-- The vcy of a step by which every way of a class has a SAFE bundle, a local wait or a command of the array behind it; none where some way
has none, or goes round without end. `ways` holds the bundles passed, with the loops active there. -/
def Walk.apartBy (k : Walk) : (n i v : Nat) → (loops : List PLoop) → (ways : List (Nat × List PLoop)) → Option Nat
  | 0, _, _, _, _ => none
  | n + 1, i, v, loops, ways =>
    match k.l[i]? with
    | none => none
    | some x =>
      if x.safe ∨ x.words.any fun w => waitsOf w.2.2 || w.1 == 2 then some v
      else if (stepWord x).isSome ∨ ways.contains (i, loops) ∨ loops.any fun y => y.last == i && y.left.isNone then none
      else
        let next := k.next ⟨i, v, some 0, none, [], loops, false, 0, []⟩ x
        next.foldl (fun acc y => match acc, k.apartBy n y.1 (v + ((k.l[y.1]?).map fun z => z.delta).getD 1) y.2.2 ((i, loops) :: ways) with
          | some a, some b => some (Nat.max a b)
          | _, _ => none) (if next.isEmpty then none else some 0)

/-- The code of another class has ended the lockstep region of step `n` by vcy `v` of it. -/
def Walk.endedBy (k : Walk) (n v : Nat) : Bool :=
  let heads := k.firsts n
  !heads.isEmpty && heads.all fun i =>
    match k.apartBy (2 ^ 64) i (if n = 0 then 0 else ((k.l[i]?).map fun z => z.delta).getD 1 - 1) [] [] with
    | some u => decide (u ≤ v)
    | none => false

/-- The walk of a class as far as its own code says; none where the code is illegal. -/
def walkOf (img : Image) (all : List Bun) (cls : Nat) : Option Walk :=
  (bunsOf img cls).map fun l =>
    ⟨img, cls, l, loopsOf l, writtenCaps all, all.any fun x => x.words.any fun w => setsFormat w.2.2, fun _ _ => false⟩

/-- The checks of one class: what its paths come by, or the code of the first rule broken. -/
def classPaths (img : Image) (all : List Bun) (cls : Nat) : Except Nat (List Path) :=
  match walkOf img all cls with
  | none => .error fIllWord
  | some k =>
    if loopsOk k.l k.loops = false then .error fLoopFit
    else match branchesBad k.l k.loops with
      | some code => .error code
      | none =>
        let others := ((SMap.keys img.codeLen).filter (· != cls)).filterMap (walkOf img all)
        Walk.run { k with ended := fun n v => others.any fun o => o.endedBy n v } (2 ^ 64) [⟨0, 0, none, none, [], [], img.width == 1, 0, []⟩] []

/-! ### The guard band of cross-package flits (f06 R169) -/

/-- A timed access of an M-step: the first vcy at which it performs for a core on the object's own die and for one on another, and the vcy to
its last; its capability register, and the bytes of the window it may touch. -/
structure Seat where
  ms    : Nat
  near  : Nat
  far   : Nat
  span  : Nat
  creg  : Nat
  off   : Nat
  n     : Nat
  store : Bool
  cls   : Nat
  deriving DecidableEq, Repr

/-- The bytes of such a word: register, offset, length; the whole window where the image does not fix the offset. -/
def seatBytes (m : Consts) : Instr → Option (Nat × Nat × Nat)
  | .lds _ a b x | .sts _ a b x => some (known a.toNat (m.get b.toNat) (8 * x.toNat) 8)
  | .vld _ c k _ | .vst _ c k _ => some (known c.toNat (m.get k.toNat) 0 4096)
  | .vldx _ c _ _ | .vstx _ c _ _ => some (c.toNat, 0, 2 ^ 44)
  | .pld _ c k _ | .pst _ c k _ => some (known c.toNat (m.get k.toNat) 0 128)
  | .cld _ c k i | .cst _ c k i => some (known c.toNat (m.get k.toNat) (offImm 0 32 i) 32)
  | _ => none
where
  known (c : Nat) (b : Option (BitVec 64)) (o n : Nat) : Nat × Nat × Nat :=
    match b with
    | some b => (c, (b.toNat + o) % 2 ^ 64, n)
    | none => (c, 0, 2 ^ 44)

/-- The seats of a word of an M-step: a load or store; a timed job's lines at its destination, and the reads of its source between its issue
and its last line. -/
def seatsOfWord (img : Image) (written : List Nat) (cls n : Nat) (p : Path) (i : Instr) : List Seat :=
  let m := img.msteps[n]?
  let h := (m.map MStep.hops).getD 0
  let lev := capLevel img written
  match timedOxOf i with
  | some (d, sv, _) =>
    let (l, rate) := oxLat lev d sv none
    let span := (lineSpan (streamBytes (p.known.block i)) rate).1
    let wide := if (p.known.block i).isSome then span else (m.map fun y => y.len + 95 - p.v).getD 0
    let (o, len) := p.known.destBytes i
    ⟨n, p.v + l, p.v + 16 + h, if (p.known.block i).isSome then (lineSpan (streamBytes (p.known.block i)) 32).1 else wide, d, o, len, true, cls⟩ ::
      sv.toList.map fun c => ⟨n, p.v, p.v, l + wide, c, 0, 2 ^ 44, false, cls⟩
  | none => ((seatBytes p.known i).map fun y =>
      let near := (latencyOf lev i).getD 0
      ⟨n, p.v + near, p.v + 160 + h + indexedExtra i, 0, y.1, y.2.1, y.2.2, (storesBy i).isSome, cls⟩).toList

/-- The seats of a class, from the paths its walk has come by. -/
def seatsOf (img : Image) (written : List Nat) (cls : Nat) (paths : List Path) : List Seat :=
  paths.flatMap fun p => match p.ms, (bunsOf img cls).bind fun l => l[p.i]? with
    | some n, some x => x.words.flatMap fun w => seatsOfWord img written cls n p w.2.2
    | _, _ => []

/-- An M-step with routes over links holds a store from another die that can arrive within the guard band of an access of the object's own die
to the same bytes (DEDUCED, log entry 151). -/
def bandBroken (img : Image) (written : List Nat) (l : List Seat) : Bool :=
  let band := (8 + (stridesOf img.strides).foldl Nat.min 64 - 1) / Nat.max 1 ((stridesOf img.strides).foldl Nat.min 64)
  let home := fun (cls c : Nat) => img.objs.any fun o => o.creg == c &&
    img.classes.zipIdx.any fun x => x.1 == cls && x.2 / Nat.max img.c 1 == o.ldie
  l.any fun a => a.store && mayBeRemote img a.cls written a.creg && (img.msteps[a.ms]?.any fun m => m.routes.any fun r => r.kind == 0x0A) &&
    l.any fun b => b.ms == a.ms && b.creg == a.creg && home b.cls b.creg && decide (a.off < b.off + b.n) && decide (b.off < a.off + a.n) &&
      decide (a.far < b.near + b.span + band) && decide (b.near < a.far + a.span + band)

/-- Every check of an image's code. -/
def codeBad (img : Image) : Option Nat :=
  let classes := SMap.keys img.codeLen
  let all := classes.flatMap fun c => (bunsOf img c).getD []
  let written := writtenCaps all
  let walks := classes.map fun c => (c, classPaths img all c)
  match walks.findSome? fun x => (match x.2 with
    | .error code => some code
    | .ok _ => none) with
  | some code => some code
  | none =>
    let seats := walks.flatMap fun x => match x.2 with
      | .ok paths => seatsOf img written x.1 paths
      | .error _ => []
    if bandBroken img written seats then some fTiming else none

/-- Steps of the RESTART section that every class accepts; a step that breaks a rule of f10 R271 is not accepted, so discard is
not open in it (log entry 47). -/
def restartsOf (img : Image) (all : List Bun) : List Nat :=
  img.restart.filter fun n => (SMap.keys img.codeLen).all fun cls =>
    let l := (bunsOf img cls).getD []
    Walk.restartOk ⟨img, cls, l, loopsOf l, writtenCaps all, false, fun _ _ => true⟩ n

/-- An MMA word. -/
def isMma : Instr → Bool
  | .mma _ _ _ _ | .mmaRs _ _ _ _ | .mmas _ _ _ _ | .mmasRs _ _ _ _ => true
  | _ => false

/-- The image with the DELTAs it runs with: its own where its latency set is this one's and they hold for the emulations of f05 R130; else
re-timed, or refused. -/
def timedImage (img : Image) (latset : Nat) : Except Nat Image :=
  let classes := SMap.keys img.codeLen
  let all := classes.flatMap fun c => (bunsOf img c).getD []
  let emulated := (img.ft.any img.emulates) && all.any fun x => x.words.any fun w => isMma w.2.2
  let retime : Except Nat Image :=
    let img' := retimeImage img
    if Config.retimes img.hash ∧ classes.all (sidesOk img img' (writtenCaps all) latset) then
      (match codeBad img' with
        | some code => .error code
        | none => .ok img')
    else .error fRetime
  if latset ≠ ownLatset then retime
  else match codeBad img with
    | none => .ok img
    | some code => if emulated ∧ code = fTiming then retime else .error code

/-- The finaliser (f09 R247): the image, or the code of R248 it is refused with. -/
def finalise (b : List Byte) : Except Nat Image :=
  let b : ImgBytes := b
  let img := b.image
  if b.headerOk = false then .error fBadImg
  else if declOk img = false then .error fDecl
  else if b.sectionsOk img.d img.c = false then .error fBadImg
  else match timedImage img (b.nat 8 8) with
    | .error code => .error code
    | .ok img =>
      let all := (SMap.keys img.codeLen).flatMap fun c => (bunsOf img c).getD []
      .ok { img with
        restart := restartsOf img all
        promise := !(all.any fun x => x.words.any fun w => unordered w.2.2) }

end Sys2Proof.Machine
end

