-- ==== Sys2Proof/Machine/Stop.lean ====
section
/-! DEFINITION. Barriers, ends and successors of timetables, stops with their error records, machine checks, and pre-emption
(f02 R40, R43, R46, R53, f03 R65, R68, R69, R71, R82, R83, f06 R166..R168, f07 R189, f10 R258..R280, R437). -/
namespace Sys2Proof.Machine

/-! ### Messages along the alignment tree (f03 R68) -/

def State.link (s : State) (n : Nat) : Link := SMap.get Link.down s.links n
def State.setLink (s : State) (n : Nat) (l : Link) : State := { s with links := SMap.set Link.down s.links n l }

/-- A barrier message joins those that the control flits of the tree link to a neighbour repeat. -/
def State.sendBar (s : State) (dest : Nat) (m : BarMsg) : State :=
  let n := linkTo s.alignTree.2 s.pkg dest
  let l := s.link n
  if l.bars.any fun x => x.1 == m then s else s.setLink n { l with bars := l.bars ++ [(m, s.gclk.toNat)] }

/-- A report or a start of a timetable. -/
def BarMsg.ofStep (m : BarMsg) (tt : Nat) : Bool :=
  match m with
  | .report k _ _ | .start k _ _ => k == tt
  | _ => false

/-- The next step of a timetable starts: its barrier's messages are repeated no more (f03 R68). -/
def State.dropBars (s : State) (tt : Nat) : State :=
  { s with links := SMap.mapVals (fun _ l => { l with bars := l.bars.filter fun x => !x.1.ofStep tt }) s.links }

/-- The children whose subtrees hold packages of a timetable. -/
def State.barChildren (s : State) (t : Timetable) : List Nat :=
  let tree := s.alignTree.2
  s.treeChildren.filter fun v => (reach tree tree.length s.pkg v).any fun p => t.place.any fun q => q.pkg == p

/-! ### Stopping everything in place -/

/-- Every strand of a timetable stops where it is (f10 R260). -/
def State.haltAll (s : State) (tt : Nat) : State :=
  (s.sids tt).foldl (fun s sid =>
    if (s.strand sid).life = 1 ∨ (s.strand sid).life = 4 then s.modStrand sid fun st => { st with halt := true } else s) s

/-- A step failure: the timetable stops at the barrier, AUX naming the sync word, or all ones (f10 R262). -/
def State.stepFail (s : State) (tt aux : Nat) : State :=
  let t := s.tt tt
  let s := if t.cause = 0 then s.setTt tt { t with cause := 2, causeAux := aux, stopSid := none } else s
  s.haltAll tt

/-! ### The slot tables of an M-step (f02 R40, f08 R206) -/

/-- Entry e of the table of a resource written. -/
def State.setSlot (s : State) (kind inst e : Nat) (w : Word) : State :=
  let put := fun (m : SMap (SMap Word)) => SMap.set [] m inst (SMap.set noSel (SMap.get [] m inst) e w)
  match kind with
  | 0x08 => { s with routers := put s.routers }
  | 0x09 => { s with bridges := put s.bridges }
  | _ => { s with linkTabs := put s.linkTabs }

/-- The merged entries of an M-step into the timetable's own physical entries, or no connection into all of them. -/
def State.layStep (s : State) (tt m : Nat) (open_ : Bool) : State :=
  let t := s.tt tt
  let s := if open_ then s else { s with lostFlits := s.lostFlits.filter fun x => x.1 != tt }
  (s.stepEntries t (t.stride, t.phase) m).foldl (fun s x => s.setSlot x.1 x.2.1 x.2.2.1 (if open_ then x.2.2.2 else noSel)) s

/-! ### Sync words of an M-step (f03 R69) -/

/-- The device address of a listed sync word in this package. -/
def State.listedWord (s : State) (t : Timetable) (x : Nat × Nat) : Option Nat :=
  if (t.placeOf x.1).pkg ≠ s.pkg then none
  else match windowAddr t x.1 (x.2 * 32) with
    | .at_ a => some a
    | _ => none

/-- Generations of the listed words as the step opens. -/
def State.listedGens (s : State) (t : Timetable) (m : Nat) : List (BitVec 64) :=
  match t.img.msteps[m]? with
  | some e => e.syncs.map fun x => match s.listedWord t x with
    | some a => syncGen (s.syncWord a)
    | none => 0
  | none => []

/-- The first listed word that has not advanced exactly once: its offset / 32. -/
def State.shortWord (s : State) (t : Timetable) (m : Nat) : Option Nat :=
  match t.img.msteps[m]? with
  | some e => (e.syncs.zipIdx.find? fun x => match s.listedWord t x.1 with
    | some a => syncGen (s.syncWord a) != t.gens.getD x.2 0 + 1
    | none => false).map fun x => x.1.2
  | none => none

/-! ### Arrival and release (f03 R68) -/

/-- The strands of a timetable here that have not ended. -/
def State.alive (s : State) (tt : Nat) : List Nat :=
  (s.sids tt).filter fun sid => let l := (s.strand sid).life; l == 1 || l == 4

/-- Every strand here has arrived or ended, and one has arrived; one suspended at the barrier has arrived there. -/
def State.allArrived (s : State) (tt : Nat) : Bool :=
  let l := s.alive tt
  !l.isEmpty && l.all fun sid =>
    let st := s.strand sid
    !st.halt && st.wait == .barrier && st.arrived.isSome

/-- A strand of a timetable here is suspended. -/
def State.someParked (s : State) (tt : Nat) : Bool := (s.alive tt).any fun sid => (s.strand sid).life == 4

/-- A strand arrives: its fault boundary comes first, then pre-emption at a barrier that closes a C-step (f03 R71, f10
R267). -/
def State.arrive (s : State) (sid : Nat) : State :=
  let tt := ttOf sid
  let s := s.modStrand sid fun st => { st with arrived := some st.vclk, barMet := 0 }
  let s := s.modTt tt fun t => { t with last := s.gclk.toNat }
  if s.stopDue sid then s.reachBoundary sid 1
  else if s.preempting tt ∧ (s.tt tt).mstep.isNone then s.park sid
  else s

/-- MSTEP_ARRIVAL: a strand that leaves its step on this vcy arrives. -/
def execMstepArrival (sid : Nat) (s : State) : Result :=
  let st := s.strand sid
  match st.wait, st.leaves, st.arrived with
  | .barrier, some l, none =>
    if st.life = 1 ∧ ¬ st.halt ∧ l ≤ st.vclk then .next (s.arrive sid) else notEnabled "MSTEP_ARRIVAL"
  | _, _, _ => notEnabled "MSTEP_ARRIVAL"

/-- The barrier value: the greatest VCLK at arrival; an exited strand makes none (DEDUCED, log entry 134). -/
def State.barrierValue (s : State) (tt : Nat) : Nat :=
  (s.alive tt).foldl (fun m sid => Nat.max m ((s.strand sid).arrived.getD 0)) 0

/-- A promotion found for a timetable takes effect as its SSTEP closes, but is put off while a request waits; with none found it is considered
again (f02 R47). -/
def State.takePromotion (s : State) (tt : Nat) : State :=
  let t := s.tt tt
  match t.newPair with
  | none => if s.requests.isEmpty then s.rise tt else s
  | some p =>
    if ¬ s.requests.isEmpty ∨ s.compact.isSome then s
    else
      let s := s.modTt tt fun t => { t with newPair := none }
      if s.free t.touched p [tt + 1] then (s.enterPairs tt p).promote else s.promote

/-- The vcy between a strand's arrival and the barrier value b are frozen vcy of the barrier (f03 R68, f09 R252). They are counted on the gcy
on which b comes to be known here, which lies before the start gcy (DEDUCED, log entry 160), and each once. -/
def State.meterBarrier (s : State) (tt b sid : Nat) : State :=
  let st := s.strand sid
  let n := b - st.arrived.getD b - st.barMet
  (s.meterTt tt 24 n).modStrand sid fun st => { st.count 3 n with barMet := st.barMet + n }

/-- The start gcy and the barrier value of the barrier all have arrived at are settled. -/
def State.settleStart (s : State) (tt g b : Nat) : State :=
  let s := s.modTt tt fun t => { t with start := some (g, b) }
  (s.alive tt).foldl (fun s sid => s.meterBarrier tt b sid) s

/-- The start gcy is settled; a timetable that compaction re-phases is held. -/
def State.openStart (s : State) (tt after b : Nat) : State :=
  let t := s.tt tt
  let moved := match s.compact with
    | some c => c.moves.any fun m => m.1 == tt
    | none => false
  if moved then
    let g := s.startGcy t after
    (s.setTt tt { t with held := true, wouldBe := some g }).settleStart tt g b
  else s.settleStart tt (s.startGcy t after) b

/-- A package of a spanning timetable reports up, once its children have, or, at the root, sends the start down (f03 R68). One whose own
strands have all ended, or have been stopped with the package, counts as arrived, and passes on what its children report; when they have ended
as well it says so once (f17 R335). -/
def State.reportUp (s : State) (tt : Nat) : State :=
  let t := s.tt tt
  let kids := (s.barChildren t).filter fun v => !t.gone.contains v
  if t.life = 4 ∧ kids.isEmpty then
    (match s.treeParent with
      | some p => (s.modTt tt fun t => { t with told := true }).sendBar p (.ended tt)
      | none => s)
  else if (t.life ≠ 4 ∧ s.stagedLines tt ≠ 0) ∨ ¬ (kids.all fun v => t.reports.any fun r => r.1 == v) then s
  else if t.reports.any fun r => r.1 == 512 then s
  else
    let last := t.reports.foldl (fun m r => Nat.max m r.2.1) (if t.life = 4 then 0 else t.last)
    let b := t.reports.foldl (fun m r => Nat.max m r.2.2) (if t.life = 4 then 0 else s.barrierValue tt)
    let s := s.modTt tt fun t => { t with reports := t.reports ++ [(512, 0, 0)] }
    match s.treeParent with
    | some p => s.sendBar p (.report tt last b)
    | none =>
      let g := s.startGcy t last
      let s := if t.life = 4 then s.modTt tt fun t => { t with reports := [], opened := g } else s.settleStart tt g b
      kids.foldl (fun s v => s.sendBar v (.start tt g b)) s

/-- A failure message to every tree neighbour with packages of the timetable, but the one it came from. -/
def State.sendFail (s : State) (tt : Nat) (from_ : Option Nat) : State :=
  let t := s.tt tt
  let dest := (s.treeParent.toList ++ s.barChildren t).filter fun v => some v != from_
  dest.foldl (fun s v => s.sendBar v (.fail tt)) s

/-- Why the barrier that all have arrived at fails, as AUX: strands closing a C-step name different M-steps, or one the image does not
have; a listed sync word of an M-step has not advanced exactly once, or its SSTEP names a number (f03 R69, f08 R215, f19 R399). -/
def State.barrierFail (s : State) (tt : Nat) : Option Nat :=
  let t := s.tt tt
  let names := (s.alive tt).map fun sid => (s.strand sid).sstep
  let first := names.headD 0
  if t.failed then some 0xFFFFFFFF
  else match t.mstep with
  | none => if names.all (· == first) && decide (first < t.img.msteps.length) then none else some 0xFFFFFFFF
  | some m =>
    if t.lost then some 0xFFFFFFFF
    else match s.shortWord t m with
      | some a => some a
      | none => if names.all (· == 0) then none else some 0xFFFFFFFF

/-- Every strand here has arrived at a barrier whose start is not settled. -/
def State.atLast (s : State) (tt : Nat) : Bool :=
  let t := s.tt tt
  t.life == 1 && t.cause == 0 && t.start.isNone && s.allArrived tt

/-- The last strand has arrived: the step's connections close (f08 R206); a failed barrier stops the timetable, and for any other the start
is settled, unless a strand is suspended there: the failure wins over a pre-emption (f10 R279). -/
def State.closeBarrier (s : State) (tt : Nat) : State :=
  let t := s.tt tt
  if s.atLast tt = false then s
  else
    let s := match t.mstep with
      | some m => s.layStep tt m false
      | none => s
    match s.barrierFail tt with
    | some aux => (if t.spans then s.sendFail tt none else s).stepFail tt aux
    | none =>
      if s.someParked tt then s
      else
      let s := if t.reports.any fun r => r.1 == 512 then s else s.takePromotion tt
      if t.spans then s.reportUp tt else s.openStart tt t.last (s.barrierValue tt)

/-- The step in progress fails: at once where every strand has arrived, else at its barrier (f10 R262). -/
def State.failStep (s : State) (tt : Nat) : State :=
  if s.allArrived tt then s.stepFail tt 0xFFFFFFFF else s.modTt tt fun t => { t with failed := true }

/-- A message to every neighbour of the tree but the one it came from. -/
def State.passBar (s : State) (from_ : Option Nat) (m : BarMsg) : State :=
  ((s.treeParent.toList ++ s.treeChildren).filter fun v => some v != from_).foldl (fun s v => s.sendBar v m) s

/-- A timetable that has ended here while it goes on in other packages: it still takes part in their barriers. -/
def Timetable.endedHere (t : Timetable) : Bool := t.life == 4 && t.spans

/-- BARRIER_MESSAGE: a report from below, a start, a failure, a stop; a start whose gcy has passed is a step failure here. What has been taken
already, and repeats, does nothing: a report or a start of a step that has begun names no later gcy. -/
def execBarrierMessage (link : Nat) (msg : BarMsg) (s : State) : Result :=
  let from_ := (s.alignTree.2.find? fun e => e.touches s.pkg && e.linkAt s.pkg == link).map fun e => e.other s.pkg
  match msg with
  | .report tt last b =>
    let t := s.tt tt
    match from_ with
    | none => .next s
    | some v =>
      if t.life = 1 ∨ t.endedHere then
        (if last < t.opened then .next s
        else
          let s := s.setTt tt { t with reports := (t.reports.filter fun r => r.1 != v) ++ [(v, last, b)] }
          .next (if t.endedHere ∨ (s.allArrived tt ∧ t.cause = 0 ∧ t.start.isNone) then s.reportUp tt else s))
      else match s.treeParent with
        | some p => .next (s.sendBar p (.report tt last b))
        | none => .next s
  | .ended tt =>
    let t := s.tt tt
    match from_ with
    | none => .next s
    | some v =>
      if t.gone.contains v then .next s
      else if t.life = 1 ∨ t.endedHere then
        let s := s.setTt tt { t with gone := t.gone ++ [v] }
        .next (if t.endedHere ∨ (s.allArrived tt ∧ t.cause = 0 ∧ t.start.isNone) then s.reportUp tt else s)
      else .next (s.passBar from_ msg)
  | .start tt g b =>
    let t := s.tt tt
    if t.endedHere then
      .next (if g ≤ t.opened then s
        else (s.barChildren t).foldl (fun s v => s.sendBar v msg) ((s.dropBars tt).setTt tt { t with reports := [], opened := g }))
    else if t.life ≠ 1 then .next (s.treeChildren.foldl (fun s v => s.sendBar v (.start tt g b)) s)
    else if t.cause ≠ 0 ∨ g ≤ t.opened ∨ t.start.isSome then .next s
    else if g ≤ s.gclk.toNat ∨ s.allArrived tt = false then .next ((s.sendFail tt none).failStep tt)
    else
      let s := s.settleStart tt g b
      .next ((s.barChildren t).foldl (fun s v => s.sendBar v (.start tt g b)) s)
  | .fail tt =>
    let t := s.tt tt
    if t.life = 1 then .next (if t.failed ∨ t.cause ≠ 0 then s.passBar from_ msg else (s.sendFail tt from_).failStep tt)
    else .next (s.passBar from_ msg)
  | .stop tt cause =>
    let t := s.tt tt
    .next ((if t.life = 1 ∧ t.cause = 0 then s.setTt tt { t with cause := cause, told := true } else s).passBar from_ msg)

/-- A sticky fault or a TRAP of a timetable that spans packages stops the strands of every package (f17 R335). -/
def State.tellStop (s : State) (tt : Nat) : State :=
  let t := s.tt tt
  if t.life = 1 ∧ t.spans ∧ t.told = false ∧ (t.cause = 1 ∨ t.cause = 4) then
    (s.setTt tt { t with told := true }).passBar none (.stop tt t.cause)
  else if t.endedHere ∧ t.told = false then s.reportUp tt
  else s

/-- What a strand is at the start of a step: VCLK b, so that the start gcy is b + 1 (f03 R68). -/
def Strand.release (st : Strand) (b : Nat) : Strand :=
  { st with vclk := b, wait := .none, arrived := none, leaves := none, lastIss := some b, minGap := 1, stepPc := st.pc,
            stepOrder := st.order, stepLc := (List.range 3).map fun i => st.getCsr (0x030 + i), performed := [], safeAt := none, met := false }

/-- The next step opens. -/
def State.openStep (s : State) (tt b : Nat) : State :=
  let t := s.tt tt
  let l := s.alive tt
  let m := if t.opensM then some ((l.head?.map fun sid => (s.strand sid).sstep).getD 0) else none
  let s := l.foldl (fun s sid => s.modStrand sid fun st => st.release b) s
  let gens := match m with
    | some k => s.listedGens t k
    | none => []
  let s := s.modTt tt fun t => { t with
    step := t.step + 1, mstep := m, vcy0 := b + 1, start := none, wouldBe := none, late := false, reports := [], gens := gens,
    opened := s.gclk.toNat }
  let s := if t.spans then s.dropBars tt else s
  match m with
  | some k => s.layStep tt k true
  | none => s

/-- BARRIER_RELEASE: on the start gcy, when every Hen has committed (f06 R168), the next step opens. A commit still to come puts the
start off; an ALIGNLOSS since the last arrival still fails the M-step (f08 R215). -/
def execBarrierRelease (tt : Nat) (s : State) : Result :=
  let t := s.tt tt
  match t.start with
  | none => notEnabled "BARRIER_RELEASE"
  | some (g, b) =>
    if t.life ≠ 1 ∨ t.cause ≠ 0 ∨ t.held ∨ s.gclk.toNat < g ∨ s.allArrived tt = false ∨ s.someParked tt then notEnabled "BARRIER_RELEASE"
    else if s.stagedLines tt ≠ 0 then
      let next := if t.opensM then firstGcy (s.gclk.toNat + 1) (t.stride * t.img.slotPeriod) t.phase
        else firstGcy (s.gclk.toNat + 1) t.stride t.phase
      .next (s.setTt tt { t with start := some (next, b), late := true })
    else if t.lost ∧ t.mstep.isSome then .next ((if t.spans then s.sendFail tt none else s).stepFail tt 0xFFFFFFFF)
    else .next (s.openStep tt b)

/-! ### The end of a timetable -/

/-- Gates a timetable holds are released poisoned, and its strands wait for none (f06 R166). -/
def State.poisonGates (s : State) (tt : Nat) : State :=
  s.gates.foldl (fun s x =>
    let g := s.gate x.1
    let mine : Option Nat → Bool := fun o => match o with
      | some sid => ttOf sid == tt
      | none => false
    let s := { s with gates := SMap.set Gate.none s.gates x.1 { g with waiters := g.waiters.filter fun sid => ttOf sid != tt } }
    if mine g.holder || mine g.freeing then s.releaseGate ((g.holder <|> g.freeing).getD 0) x.1 true else s) s

/-- Nothing started for a timetable is still running: its jobs, and its collective. -/
def State.quiet (s : State) (tt : Nat) : Bool :=
  s.jobs.all fun j => ttOf j.2.sid != tt || j.2.st == .queued

/-- The record of a departed timetable keeps who it was and its totals; its promise enters its launch's (f09 R249). -/
def State.departTt (s : State) (tt : Nat) : State :=
  let t := s.tt tt
  let l := s.launch t.launch
  let s := s.setLaunch t.launch { l with prom := l.prom && t.img.promise && t.runProm }
  (s.dropCode tt).setTt tt { Timetable.blank with
    life := 4, tenant := t.tenant, launch := t.launch, node := t.node, cls := t.cls, img := t.img, admitted := t.admitted,
    meters := t.meters, strides := t.strides, stride := t.stride, phase := t.phase, opened := t.opened, gone := t.gone,
    place := if t.spans then t.place else [], told := t.cause == 1 || t.cause == 2 || t.cause == 4 }

/-- The tenant's memory: its objects' extents, given back. -/
def State.wipeObjects (s : State) (tenant : Nat) : State :=
  let s := (s.tenant tenant).objs.foldl (fun s o => s.freeExtents tenant o.2.entry 0) s
  s.setTenant tenant { s.tenant tenant with objs := [], images := [] }

/-- Once the last timetable of a torn-down tenant has stopped: final snapshot, keys destroyed (f09 R251). Tenant 0, which always exists, has a
new key. -/
def State.finishTeardown (s : State) (tenant : Nat) : State :=
  let t := s.tenant tenant
  if t.closing = false ∨ (s.tts.any fun x => x.2.tenant == tenant && (x.2.placed || x.2.life == 3)) then s
  else
    let (_, _, s) := s.snapshot tenant
    if tenant = 0 then { s.setTenant 0 { s.tenant 0 with closing := false, key := s.keys } with keys := s.keys + 1 }
    else s.setTenant tenant { s.tenant tenant with live := false, closing := false, key := 0 }

/-- Admit reruns for the request a pre-emption was for (f02 R43). -/
def State.rerunAdmit (s : State) (req : Nat) : State :=
  let s := { s with preempt := none }
  match s.requests.find? fun r => r.id == req with
  | some r => (s.admitReq r).promote
  | none => s

/-- A timetable that is gone counts as vacated where it was a victim (f10 R279), and its Mule hears of its end. -/
def State.gone (s : State) (tt : Nat) : State :=
  let s := (s.notify 3).finishTeardown (s.tt tt).tenant
  match s.preempt with
  | some p => if p.victim = tt then s.rerunAdmit p.req else s
  | none => s

/-- The request dispatched last carries an inheritance (f02 R53). -/
def State.bequeath (s : State) (h : Heir) : State :=
  { s with requests := s.requests.map fun q => if q.id + 1 = s.nextReq then { q with heir := some h } else q }

/-- A successor starts in place (f02 R53, f03 R83): the predecessor's placement, banks and tiles, and its pair where that is
acceptable and free; else it asks for a pair of its own. A successor that the placement the predecessor has now does not serve is admitted
like a new request and carries its inheritance to wherever it is placed (log entry 42). -/
def State.startSuccessor (s : State) (tt j : Nat) : State :=
  let t := s.tt tt
  let s := (s.freePairs tt).unpin tt false
  let req : AdmReq := ⟨0, 2, t.launch, j, s.nextTt, t.cls, t.cls, s.gclk.toNat, s.gclk.toNat, [], false, none⟩
  let heir := s.heirOf t
  let fresh := fun (s : State) =>
    ((((s.scrubBanks t).dropStrands tt).departTt tt).dispatch 0 t.launch j 0 (s.launch t.launch).req.cls []).bequeath heir
  match (s.launchGraph t.launch)[j]? with
  | none => fresh s
  | some n =>
    let (n, routed, s) := s.freshNode req n
    let key := s.nextTt
    let f := s.freshTt req n
    let room := ((s.dropStrands tt).departTt tt)
    let shape := n.image.d == t.img.d && n.image.c == t.img.c && n.image.width == t.img.width
    let cut := t.place.map fun p => { p with banks := p.banks.take n.image.banks }
    match (if shape ∧ n.image.banks ≤ t.img.banks then some cut else none) with
    | none => fresh s
    | some place =>
      if ¬ room.coreRoom place n.image.tiles (·.tiles) ∨ ¬ room.coreRoom place n.image.sems (·.sems) then fresh s
      else
        -- banks the successor does not keep are scrubbed
        let rest := t.place.map fun p => { p with banks := p.banks.drop n.image.banks }
        let s := room.scrubBanks { t with place := rest }
        let s := { s.setTt key { f with place := place, tiles := t.tiles, rows := t.rows } with nextTt := key + 1 }
        match s.readArgs t.launch with
        | none => ((s.scrubBanks (s.tt key)).setTt key Timetable.blank).nodeFailed t.launch j cBadArg 0
        | some (caps, regs) =>
          let s := s.modTt key fun t => { t with caps0 := caps, regs0 := regs }
          if ¬ routed then s.refuse req key rRoute 0 (0, 0)
          else if ¬ f.stepOk then s.refuse req key rStep 0 (0, 0)
          else if ¬ s.strideOk f then s.refuse req key rStride 0 (0, 0)
          else match s.prepare req key (timedObjs n.image caps) (.ok place) with
            | .error s => s
            | .ok s =>
              let pair := (t.stride, t.phase)
              if (s.candidates (s.tt key)).contains pair ∧ s.free (s.tt key).touched pair [] then s.grant req key pair
              else s.dispatch 2 t.launch j key t.cls []

/-- Every strand has ended by EXIT: the successor all name, completion, or EXITMIX (f03 R83, f09 R241). -/
def State.finish (s : State) (tt : Nat) : State :=
  let t := s.tt tt
  let n := (s.launchGraph t.launch)[t.node]?
  let named := (s.sids tt).filterMap fun sid =>
    let st := s.strand sid
    if st.life ≠ 2 then none
    else some (match st.node, n with
      | some j, some n => if j < 64 ∧ n.succ.getLsbD j then some j else none
      | _, _ => none)
  let s := s.modTt tt fun t => { t with life := 4 }
  let s := s.poisonGates tt
  match named with
  | [] => s
  | first :: rest =>
    if rest.any fun x => x != first then
      let s := ((s.leave tt false).scrubBanks t).dropStrands tt
      ((s.departTt tt).nodeFailed t.launch t.node cExitMix 0).gone tt
    else match first with
      | none =>
        let s := ((s.leave tt false).scrubBanks t).dropStrands tt
        ((s.departTt tt).nodeDone t.launch t.node none).gone tt
      | some j =>
        -- a launch that has failed starts no further node (f09 R240)
        if (s.launch t.launch).status ≠ cOk then
          let s := ((s.leave tt false).scrubBanks t).dropStrands tt
          ((s.departTt tt).nodeDone t.launch t.node none).gone tt
        else (((s.nodeDone t.launch t.node (some j)).startSuccessor tt j).promote).gone tt

/-- A draining strand has nothing left: every timed write has performed, every marker has reached its queue's head, every held
update, signal and release is made (f03 R82). -/
def Strand.drained (st : Strand) : Bool :=
  !st.inFlight && !st.marked && ((List.range 5).all fun q => (st.queue q).isEmpty) && st.qbheld.isEmpty && st.sigs.isEmpty &&
    st.rels.isEmpty

/-- STRAND_END: the drain is over, and the strand's lease and loops end with it (f18 R352). The last strand to end waits for the commit of the timetable's staged lines.
Of a timetable that spans packages the strands of this one alone decide here its end and its successor (DESIGN CHOICE, log entry 172). -/
def execStrandEnd (sid : Nat) (s : State) : Result :=
  let st := s.strand sid
  let tt := ttOf sid
  match st.wait with
  | .exit node =>
    if st.life ≠ 1 ∨ st.halt ∨ st.drained = false then notEnabled "STRAND_END"
    else
      let last := (s.alive tt).all fun k => k == sid
      if last ∧ s.stagedLines tt ≠ 0 then notEnabled "STRAND_END"
      else
        let s := ((s.endLease sid).modStrand sid fun st => { st with life := 2, node := node, wait := .none, loops := [] }).modTt tt fun t =>
          { t with last := s.gclk.toNat }
        .next (if last ∧ (s.tt tt).cause = 0 then s.finish tt else s)
  | _ => notEnabled "STRAND_END"

/-! ### Stops (f10 R260, R261) -/

/-- An error record. -/
def State.errorRecord (s : State) (tt kind aux : Nat) : List Byte :=
  let t := s.tt tt
  let l := s.launch t.launch
  let who := t.stopSid.getD (sidOf tt 0)
  let st := s.strand who
  let fault := match t.firstFault with
    | some sid => (s.strand sid).fault.toNat
    | none => 0
  let addr := if st.wait ≠ .none ∨ t.cause = 4 then st.bundle else st.pc
  bytesOf 8 s.gclk.toNat ++ bytesOf 1 kind ++ bytesOf 1 t.tenant ++ bytesOf 2 l.req.graph ++ bytesOf 2 l.req.seq ++
    bytesOf 1 t.node ++ bytesOf 1 0 ++ bytesOf 8 fault ++ bytesOf 2 (strandNo who) ++ bytesOf 2 st.psg ++ bytesOf 4 addr ++
    bytesOf 8 st.vclk ++ bytesOf 4 aux ++ bytesOf 4 t.step ++ bytesOf 2 t.dropped ++ bytesOf 2 (strandNo who / 65536) ++
    bytesOf 4 t.stagedDrop ++ bytesOf 8 0

/-- An error record written, to the physical function's log and the Mule of die 0. -/
def State.logError (s : State) (rec_ : List Byte) : State :=
  { s with errlog := s.errlog ++ [rec_], outbox := s.outbox ++ [.error rec_] }

/-- Every strand of a stopping timetable has stopped or ended. -/
def State.stopped (s : State) (tt : Nat) : Bool :=
  (s.alive tt).all fun sid => (s.strand sid).halt || (s.strand sid).life == 4

/-- Entries queued and not started. -/
def State.queuedEntries (s : State) (sid : Nat) : Nat :=
  let started := if (SMap.get Coll.none s.colls (ttOf sid)).live ∧ (SMap.get Coll.none s.colls (ttOf sid)).sid = sid then 1 else 0
  ((List.range 5).map fun q => ((s.strand sid).queue q).countP fun e => match e with
    | .job j => (s.job j.id).st == .queued
    | .coll _ => true
    | .marker _ => false).sum - started

/-- DATA of the completion of a stop. -/
def State.stopData (s : State) (tt : Nat) : BitVec 128 :=
  let t := s.tt tt
  let who := if t.cause = 1 then t.firstFault.orElse fun _ => t.stopSid else t.stopSid
  let staged := t.stagedDrop % 2 ^ 32 * 2 ^ 96
  match t.cause, who with
  | 2, _ => BitVec.ofNat 128 (t.causeAux % 2 ^ 32 + staged)
  | 3, _ => BitVec.ofNat 128 staged
  | _, some sid => BitVec.ofNat 128 ((s.strand sid).fault.toNat + strandNo sid % 2 ^ 32 * 2 ^ 64 + staged)
  | _, none => BitVec.ofNat 128 staged

/-- TIMETABLE_STOP: once every strand has stopped and every started job has finished, what is queued is dropped, staged lines
are discarded, gates released poisoned, the pairs leave, storage is scrubbed, the record is written and the launch completes. -/
def execTimetableStop (tt : Nat) (s : State) : Result :=
  let t := s.tt tt
  if ¬ (t.placed ∨ t.life = 3) ∨ t.cause = 0 ∨ s.stopped tt = false ∨ s.quiet tt = false then notEnabled "TIMETABLE_STOP"
  else
    let dropped := ((s.sids tt).map s.queuedEntries).sum
    let staged := s.stagedLines tt
    let s := { s with
      jobs := s.jobs.filter fun j => ttOf j.2.sid != tt, colls := SMap.erase s.colls tt }.dropOps (.coll tt)
    let s := match t.mstep with
      | some m => s.layStep tt m false
      | none => s
    let s := (s.discardStaged tt).dropSave tt
    let s := s.modTt tt fun t => { t with dropped := dropped, stagedDrop := staged }
    let rec_ := s.errorRecord tt t.cause
      (if t.cause = 2 ∨ t.cause = 3 then t.causeAux else 0)
    let data := s.stopData tt
    let s := ((s.poisonGates tt).leave tt false).scrubBanks t
    let s := s.logError rec_
    let s := (s.dropStrands tt).departTt tt
    let status := if t.cause = 2 then cStepFail else if t.cause = 3 then cMCheck else cFault
    let s := if 5 ≤ t.cause then s else s.nodeFailed t.launch t.node status data
    .next (s.gone tt)

/-! ### Machine checks (f10 R263, R264) -/

/-- The word that holds an error is rewritten with zeros; 32 bytes of a memory (log entry 43). -/
def State.zeroWord (s : State) (a : Nat) : State := { s with mem := s.mem.writeN (a / 32 * 32) (List.replicate 32 0) }

/-- MACHINE_CHECK: a timetable has read an uncorrectable error in a unit of f10 R263; it stops at once. -/
def execMachineCheck (tt unit addr : Nat) (s : State) : Result :=
  let t := s.tt tt
  let s := if 6 ≤ unit ∧ unit ≤ 9 then s.zeroWord addr else s
  if ¬ t.placed ∨ 5 ≤ t.cause then .next s
  else
    let s := s.setTt tt { t with cause := 3, causeAux := unit, stopSid := none }
    .next (s.haltAll tt)

/-- The unit code of a memory address (f10 R263). -/
def unitOf (a : Nat) : Nat := 6 + homeOf a

/-- SCRUB_ERROR: an uncorrectable error in a word nobody reads is logged and zeroed, and nobody is stopped. -/
def execScrubError (addr : Nat) (s : State) : Result :=
  let rec_ := bytesOf 8 s.gclk.toNat ++ bytesOf 1 3 ++ bytesOf 31 0 ++ bytesOf 4 (unitOf addr) ++ bytesOf 20 0
  .next ({ s with errlog := s.errlog ++ [rec_] }.zeroWord addr)

/-! ### Pre-emption (f10 R267..R279) -/

/-- Strands of a timetable on a cluster (die · 12 + cluster) that have not ended. -/
def State.onCluster (s : State) (tt clu : Nat) : List Nat :=
  (s.alive tt).filter fun sid => let p := s.placeOfStrand sid; p.die * 12 + p.clu == clu

/-- The map a strand stopped under: of its safe point, of its step's first bundle in discard, or the full one at a barrier. -/
def State.stopMap (s : State) (sid : Nat) : LiveMap :=
  if (s.strand sid).wait = .barrier then LiveMap.full else (s.liveMap sid (s.strand sid).pc).getD LiveMap.full

/-- VCLK at the issue of the first bundle of a strand's step (f03 R68). -/
def State.firstIssue (s : State) (sid : Nat) : Nat :=
  let t := s.ttOfStrand sid
  let gap := match decodeHeader (s.codeWord sid (s.strand sid).stepPc) with
    | some (.bndl d _ _ _ _) => d.toNat
    | _ => 1
  if t.step = 0 then 0 else t.vcy0 - 1 + gap

/-- Bytes of the cluster state: live tiles and banks of its logical cores, and semaphores. -/
def State.clusterBytes (s : State) (tt : Nat) (l : List (Nat × LiveMap)) : Nat :=
  let t := s.tt tt
  let cores := (l.map fun x => (s.strand x.1).lcore).eraseDups
  (cores.map fun c =>
    let maps := (l.filter fun x => (s.strand x.1).lcore == c).map (·.2)
    let tiles := (List.range t.img.tiles).countP fun i => maps.any fun m => m.tmask.getLsbD i
    let banks := (List.range t.img.banks).countP fun i => maps.any fun m => m.bmask.getLsbD i
    4160 * tiles + 131072 * banks + 4 * t.img.sems).sum

/-- Remaining stream bytes of a job. -/
def State.jobLeft (s : State) (id : Nat) : Nat :=
  let j := s.job id
  if j.st = .started then (j.pieces.map (·.length)).sum else PBlk.total j.blk

/-- Discard is open: every strand of the cluster is in a C-step the image lists (f10 R271). -/
def State.mayDiscard (s : State) (tt : Nat) : Bool := let t := s.tt tt; t.mstep.isNone && t.img.restart.contains t.step

/-- The estimator (f10 R272): 0 drain, 1 save, 2 discard. Figures are multiplied by EST_QRATE · EST_SRATE. -/
def State.chooseMode (s : State) (tt clu : Nat) (deadline : Nat) : Nat :=
  let t := s.tt tt
  let q := Nat.max 1 s.estQrate
  let r := Nat.max 1 s.estSrate
  let l := s.onCluster tt clu
  let maxOf := fun (f : Nat → Nat) => l.foldl (fun m sid => Nat.max m (f sid)) 0
  let maps := l.map fun sid => (sid, ((s.strand sid).safeAt.bind (s.liveMap sid)).getD LiveMap.full)
  let gap := maxOf fun sid => match (s.strand sid).safeAt.bind (s.liveMap sid) with
    | some m => m.gap
    | none => t.img.longc
  let jobs := l.flatMap fun sid => (List.range 4).flatMap fun k => ((s.strand sid).queue k).filterMap fun e => match e with
    | .job j => some j.id
    | _ => none
  let qall := (jobs.map s.jobLeft).sum
  let qrun := (jobs.map fun id => if (s.job id).st = .started then s.jobLeft id else 0).sum
  let set := maxOf fun sid => (s.strand sid).pend.foldl (fun m p => Nat.max m (p.due - (s.strand sid).vclk)) 0
  let bsave := (maps.map fun x => x.2.regBytes).sum + s.clusterBytes tt maps
  let bq := 80 * (l.map s.queuedEntries).sum
  let back := maxOf fun sid => (s.strand sid).vclk - s.firstIssue sid
  let drain := gap * t.stride * q * r + qall * r + bsave * q
  let save := gap * t.stride * q * r + qrun * r + (bsave + bq) * q
  let disc := set * t.stride * q * r + qrun * r + bsave * q
  let opts := [(0, drain, drain), (1, save, save)] ++
    if s.mayDiscard tt then [(2, disc, disc + t.stride * back * q * r)] else []
  let fit := opts.filter fun o => decide (o.2.1 + s.gclk.toNat * q * r ≤ deadline * q * r)
  let cost := fun (o : Nat × Nat × Nat) => if fit.isEmpty then o.2.1 else o.2.2
  match (if fit.isEmpty then opts else fit) with
  | [] => 0
  | o :: rest => (rest.foldl (fun (a : Nat × Nat × Nat) b => if cost b < cost a then b else a) o).1

/-- PREEMPT_REQUEST: a cluster chooses its mode (f10 R270: one for all its strands). In discard mode every strand stops issuing, its wait, or
its stay at the barrier, abandoned; in the others a strand already at a barrier that closes a C-step stops in place. -/
def execPreemptRequest (tt clu : Nat) (s : State) : Result :=
  let t := s.tt tt
  match s.preempt with
  | none => notEnabled "PREEMPT_REQUEST"
  | some p =>
    if p.victim ≠ tt ∨ (t.modes.any fun m => m.1 == clu) ∨ (s.onCluster tt clu).isEmpty then notEnabled "PREEMPT_REQUEST"
    else
      let mode := s.chooseMode tt clu (p.since + s.preemptDl)
      let s := s.setTt tt { t with modes := t.modes ++ [(clu, mode)], start := none, held := false, wouldBe := none, late := false }
      .next ((s.onCluster tt clu).foldl (fun s sid =>
        let st := s.strand sid
        if mode = 2 then
          s.setStrand sid { st with
            skip := true, wait := .none, more := [], owed := [], slots := [], met := false, arrived := none, leaves := none }
        else if st.wait = .barrier ∧ st.arrived.isSome ∧ t.mstep.isNone then s.park sid
        else s) s)

/-- What a strand holds of units shared in its timetable, at vcy of its own, is over: a discarded strand's VCLK goes back (f10 R271). -/
def State.clearSeats (s : State) (sid : Nat) : State :=
  s.modTt (ttOf sid) fun t => { t with
    oxbusy := t.oxbusy.filter fun x => x.2.1 != sid,
    leases := SMap.mapVals (fun _ l => { l with busy := l.busy.filter fun b => b.1 != sid }) t.leases }

/-- A discarded strand has settled: it stands before its step's first bundle, with VCLK as that bundle's issue had it, and what
the step queued and had not started is gone (f10 R270, R271). -/
def State.rollBack (s : State) (sid : Nat) : State :=
  let st := s.strand sid
  let t := s.ttOfStrand sid
  let old := fun (e : QEnt) => match e with
    | .job j => (s.job j.id).st != .queued || decide (j.order < st.stepOrder)
    | .coll c => decide (c.order < st.stepOrder)
    | .marker _ => true
  let lost := (List.range 4).flatMap fun q => (st.queue q).filterMap fun e => match e with
    | .job j => if old e then none else some (j.id, j.order)
    | _ => none
  let st := (List.range 5).foldl (fun st q => st.setQueue q ((st.queue q).filter old)) st
  let done := ((List.range (st.order - st.stepOrder)).map (st.stepOrder + ·)).filter fun o => !lost.any fun x => x.2 == o
  let first := s.firstIssue sid
  let s := { s with jobs := s.jobs.filter fun j => !lost.any fun x => x.1 == j.1 }.clearSeats sid
  let st := (List.range 3).foldl (fun st i => st.setCsr (0x030 + i) (st.stepLc.getD i 0)) st
  s.setStrand sid { st with
    pc := st.stepPc, loops := s.loopsAt sid st.stepPc, redir := none, slots := [], minGap := 1, vclk := first, replay := Nat.max st.replay (st.vclk + 1),
    lastIss := if t.step = 0 then none else some (t.vcy0 - 1), order := st.stepOrder, performed := (st.performed ++ done).eraseDups,
    safeAt := none, pend := st.pend.filter fun p => decide (st.vclk < p.due), occV := 0, occT := 0 }

/-- A discarding strand that has settled stops; one with a fault, or of a stopping timetable, is at its fault boundary there (f10 R279). -/
def State.settleDiscard (s : State) (sid : Nat) : State :=
  let st := s.strand sid
  if st.life = 1 ∧ st.skip ∧ ¬ st.halt ∧ ¬ st.inFlight then
    if s.stopDue sid then s.reachBoundary sid 1
    else
    let s := s.rollBack sid
    if s.preempting (ttOf sid) then s.park sid
    else s.modStrand sid fun st => { st with skip := false, started := decide (0 < st.vclk), vclk := st.vclk - 1 }
  else s

/-- A cluster has saved or discarded every strand it holds: all have stopped, and what its mode waits for has finished. -/
def State.clusterSaved (s : State) (tt clu mode : Nat) : Bool :=
  let l := s.onCluster tt clu
  (l.all fun sid => (s.strand sid).life == 4) &&
    l.all fun sid => (List.range 5).all fun q => ((s.strand sid).queue q).all fun e => match e with
      | .job j => mode != 0 && (s.job j.id).st == .queued
      | .coll _ => mode != 0
      | .marker _ => true

/-- The clusters that hold strands of a timetable. -/
def State.clustersOf (s : State) (tt : Nat) : List Nat :=
  ((s.alive tt).map fun sid => let p := s.placeOfStrand sid; p.die * 12 + p.clu).eraseDups

/-- Every cluster has saved or discarded. -/
def State.allSaved (s : State) (tt : Nat) : Bool :=
  (s.clustersOf tt).all fun c => match (s.tt tt).modes.find? fun m => m.1 == c with
    | some m => s.clusterSaved tt c m.2
    | none => false

/-- No collective of the timetable is in progress here. -/
def State.collIdle (s : State) (tt : Nat) : Bool := !(s.coll tt).live

/-- Every strand of the timetable with what its stop says in its record. -/
def State.stops (s : State) (tt : Nat) : List SaveStop :=
  (s.sids tt).map fun sid =>
    let st := s.strand sid
    let p := s.placeOfStrand sid
    let mode := ((s.tt tt).modes.find? fun m => m.1 == p.die * 12 + p.clu).elim 0 (·.2)
    if st.life ≠ 4 then ⟨sid, LiveMap.none, 3, mode⟩
    else ⟨sid, s.stopMap sid, if st.wait = .barrier then 1 else if mode = 2 then 2 else 0, mode⟩

/-- SAVE_COMMIT: every byte of the save area has performed, and COMMIT is written. Where DRAM has no room for the area it does
not come (log entry 126). -/
def execSaveCommit (tt : Nat) (s : State) : Result :=
  let t := s.tt tt
  if s.preempting tt = false ∨ t.cause ≠ 0 ∨ t.life ≠ 1 ∨ t.saved.isSome ∨ s.allSaved tt = false ∨ s.collIdle tt = false ∨
      s.quiet tt = false then
    notEnabled "SAVE_COMMIT"
  else
    let rot := (s.alive tt).filter fun sid => (s.strand sid).psg % 4 == (s.lease sid).prev
    match s.writeSave tt rot (s.stops tt) with
    | some s => .next s
    | none => notEnabled "SAVE_COMMIT"

/-- Registers that are not live read zero after resume (f10 R274). -/
def Strand.keepLive (st : Strand) (m : LiveMap) : Strand :=
  { st with
    d := st.d.filter fun x => m.dmask.getLsbD x.1, taint := st.taint &&& m.dmask, c := st.c.filter fun x => m.cmask.getLsbD x.1,
    v := st.v.filter fun x => m.vmask.getLsbD x.1, p := st.p.filter fun x => m.pmask.getLsbD x.1 }

/-- VICTIM_VACATED: the save is complete; the victim leaves its pairs, pins, slot groups and banks, V is cleared in its place
table (f10 R437), and Admit reruns for the request (f02 R43). -/
def execVictimVacated (tt : Nat) (s : State) : Result :=
  let t := s.tt tt
  if s.preempting tt = false ∨ t.life ≠ 1 ∨ ¬ s.committed tt then notEnabled "VICTIM_VACATED"
  else
    let maps := (s.alive tt).map fun sid => (sid, (s.strand sid).lcore, s.stopMap sid)
    let liveTile := fun (k : Nat) => (maps.all fun m => m.2.1 != k / 256) ||
      maps.any fun m => m.2.1 == k / 256 && m.2.2.tmask.getLsbD (k % 256)
    let s := maps.foldl (fun s m => s.modStrand m.1 fun st => st.keepLive m.2.2) s
    let s := (s.leave tt true).scrubBanks t
    let s := s.modTt tt fun t => { t with
      life := 3, place := t.place.map fun p => { p with v := false }, modes := [], newPair := none, rising := false,
      tiles := t.tiles.filter fun x => liveTile x.1, rows := t.rows.filter fun x => liveTile x.1,
      leases := SMap.mapVals (fun _ l => { l with holder := none, left := 0, busy := [] }) t.leases }
    .next ((s.dropCode tt).rerunAdmit (s.preempt.elim 0 (·.req)))

/-- PREEMPT_CANCEL: PREEMPT_LIMIT has passed; stopped strands resume in place, a record of KIND 7 is written, and the request is
refused (f10 R273). -/
def execPreemptCancel (tt : Nat) (s : State) : Result :=
  match s.preempt with
  | none => notEnabled "PREEMPT_CANCEL"
  | some p =>
    if p.victim ≠ tt ∨ s.gclk.toNat < p.since + s.preemptLimit then notEnabled "PREEMPT_CANCEL"
    else
      let s := { s with preempt := none }
      let s := s.logError (s.errorRecord tt 7 0)
      let s := (s.wakeStrands tt 0).dropSave tt
      match s.requests.find? fun r => r.id == p.req with
      | none => .next s
      | some r =>
        match s.reqNode r with
        | none => .next s
        | some n =>
          let key := if r.kind = 0 then s.nextTt else r.tt
          let s := if r.kind = 0 then s.setTt key (s.freshTt r n) else s
          let s := s.modTt key fun t => { t with touched := p.touched }
          .next ((s.refusePhase r key).promote)

end Sys2Proof.Machine
end

