-- ==== Sys2Proof/Machine/Host.lean ====
section
/-! DEFINITION. The function and queue pages, the launch FIFO and the queue front end (f09 R228..R238, R243). -/
namespace Sys2Proof.Machine

/-! ### Error codes of a fetch (f09 R237) -/

def eStraddle : Nat := 0x01
def eBadOp : Nat := 0x02
def eBadLen : Nat := 0x03
def eResBit : Nat := 0x04
def eBadCap : Nat := 0x05
def eNotPerm : Nat := 0x06
def eFetch : Nat := 0x07
def eBadCfg : Nat := 0x08

/-- Slot count of a ring. -/
def Queue.slots (q : Queue) : Nat := 2 ^ ringLog q.qcfg

/-- QSTAT (f09 R232). -/
def Queue.qstat (q : Queue) : BitVec 64 :=
  BitVec.ofNat 64 (q.ridx.toNat * 2 ^ 32 + q.ecode % 256 * 2 ^ 8 + q.st % 8)

/-! ### Writes to a queue's page (f09 R232..R235) -/

/-- KICK: the latch follows the greatest write index; one that laps the ring puts the queue in OVERRUN. -/
def execKick (fn q : Nat) (v : BitVec 64) (s : State) : Result :=
  let x := s.queue fn q
  if x.st ≠ 1 ∧ x.st ≠ 2 then .next s
  else
    let w := v.setWidth 32
    if x.slots < (w - x.ridx).toNat then .next (s.setQueue fn q { x with st := 4 })
    else if (w - x.latch).toNat < 2 ^ 31 then .next (s.setQueue fn q { x with latch := w })
    else .next s

/-- A write to LAUNCH: into the FIFO, or discarded whole for a reserved bit (LAUNCH_BAD) or a full FIFO (LAUNCH_DROP). -/
def execLaunchWrite (fn q : Nat) (v : BitVec 64) (s : State) : Result :=
  let f := s.func fn
  if bits v 47 34 ≠ 0 then .next (s.setFunc fn { f with bad := f.bad + 1 })
  else if 64 ≤ f.fifo.length then .next (s.setFunc fn { f with drop := f.drop + 1 })
  else .next (s.setFunc fn { f with fifo := f.fifo ++ [(q, v)] })

/-- A ring register that ENABLE accepts: its size in range, and the address bits that must be zero (DEDUCED, log entry
49). -/
def ringOk (v : BitVec 64) : Bool := decide (6 ≤ ringLog v ∧ ringLog v ≤ 16) && bits v 63 55 == 0

/-- QCTL ENABLE. -/
def execEnable (fn q : Nat) (s : State) : Result :=
  let x := s.queue fn q
  if x.st ≠ 0 then .next s
  else if ringOk x.qcfg ∧ ringOk x.cqcfg then
    .next (s.setQueue fn q { x with st := 1, ecode := 0, ridx := 0, latch := 0, cidx := 0, cqhead := 0 })
  else .next (s.setQueue fn q { x with ecode := eBadCfg })

/-- QCTL PAUSE. -/
def execPause (fn q : Nat) (s : State) : Result :=
  let x := s.queue fn q
  .next (if x.st = 1 then s.setQueue fn q { x with st := 2 } else s)

/-- QCTL RESUME. -/
def execResume (fn q : Nat) (s : State) : Result :=
  let x := s.queue fn q
  .next (if x.st = 2 then s.setQueue fn q { x with st := 1 } else s)

/-- RESET: disabled once every fetched packet has written its completion; on queue 0 the launch counters are cleared (R229). -/
def State.resetQueue (s : State) (fn q : Nat) : State :=
  let f := s.func fn
  let s := if q = 0 then s.setFunc fn { f with drop := 0, bad := 0 } else s
  (s.setQueue fn q { s.queue fn q with resetting := true }).flush fn q

def execReset (fn q : Nat) (s : State) : Result := .next (s.resetQueue fn q)

/-- A write of CQHEAD: held completions that have room now are written. -/
def execCqheadWrite (fn q : Nat) (v : BitVec 64) (s : State) : Result :=
  .next ((s.setQueue fn q { s.queue fn q with cqhead := v.setWidth 32 }).flush fn q)

/-! ### Other registers (f09 R229, R230, and the settings without an address) -/

/-- The reserved bits 11..5 of a ring register read 0. -/
def ringReg (v : BitVec 64) : BitVec 64 := v &&& ~~~ (0xFE0#64)

/-- A read at a BAR0 offset: the function page of f09 R229, and the page of queue q (f09 R232); the write-only registers and the offsets
the maps do not list read 0 (DESIGN CHOICE, log entry 143). -/
def State.pageRead (s : State) (fn off : Nat) : BitVec 64 :=
  let f := s.func fn
  if off < 0x10000 then
    match off with
    | 0x000 => BitVec.ofNat 64 (fn % 256)
    | 0x008 => f.argcfg
    | 0x010 => f.drop
    | 0x018 => f.bad
    | 0x020 => f.planMiss
    | 0x028 => 0x100
    | _ => if 0x100 ≤ off ∧ off < 0x300 ∧ off % 8 = 0 then SMap.get 0 f.he ((off - 0x100) / 8) else 0
  else
    let x := s.queue fn ((off - 0x10000) / 0x1000)
    match off % 0x1000 with
    | 0x010 => x.qstat
    | 0x018 => x.qcfg
    | 0x020 => x.cqcfg
    | 0x028 => x.cqhead.setWidth 64
    | _ => 0

/-- A write at a BAR0 offset: ARGCFG, and QCFG and CQCFG of a disabled queue; read-only registers keep their value. -/
def State.pageWrite (s : State) (fn off : Nat) (v : BitVec 64) : State :=
  if off = 0x008 then s.setFunc fn { s.func fn with argcfg := v }
  else
    let q := (off - 0x10000) / 0x1000
    let x := s.queue fn q
    if off < 0x10000 ∨ 16 ≤ q ∨ x.st ≠ 0 then s
    else if off % 0x1000 = 0x018 then s.setQueue fn q { x with qcfg := ringReg v }
    else if off % 0x1000 = 0x020 then s.setQueue fn q { x with cqcfg := ringReg v }
    else s

/-- A tenant's settings changed; they may be given before the tenant is created. -/
def State.modTenant (s : State) (n : Nat) (f : Tenant → Tenant) : State :=
  if n < 256 then s.setTenant n (f (s.tenant n)) else s

/-- A reserve pair on a kind would collide with no timetable's pair there (f02 R28); tenant 0's stay admitted while it changes. -/
def State.reserveFits (s : State) (kind st ph : Nat) : Bool :=
  st == 0 || s.pairs.all fun p => p.kind != kind || p.owner == 0 || !collides (p.s, p.ph) (st, ph)

/-- The entries of one part of a port object cache that the other tenants' partitions take (f04 R104). -/
def State.partsBut (s : State) (n : Nat) (part : Tenant → Nat) : Nat :=
  ((List.range 256).map fun k => if k = n then 0 else part (s.tenant k)).sum

/-- No timetable of a tenant other than 0 is admitted on a resource kind (f02 R34). -/
def State.kindIdle (s : State) (kind : Nat) : Bool :=
  s.pairs.all fun p => p.kind != kind || p.owner == 0 || (s.tt (p.owner - 1)).tenant == 0

/-- A setting in its range; a value outside it leaves the setting (DESIGN CHOICE, log entry 50). -/
def inRange (v : BitVec 64) (lo hi old : Nat) : Nat := if lo ≤ v.toNat ∧ v.toNat ≤ hi then v.toNat else old

/-- A setting of system software. -/
def State.setting (s : State) (reg : HostReg) (v : BitVec 64) : State :=
  match reg with
  | .at_ _ => s
  | .compactWait => { s with compactWait := inRange v (2 ^ 16) (2 ^ 32) s.compactWait }
  | .ageBound => { s with ageBound := inRange v (2 ^ 16) (2 ^ 36) s.ageBound }
  | .preemptDl => { s with preemptDl := inRange v (2 ^ 10) (2 ^ 30) s.preemptDl }
  | .preemptLimit => { s with preemptLimit := inRange v (2 ^ 20) (2 ^ 36) s.preemptLimit }
  | .estQrate => { s with estQrate := inRange v 1 (2 ^ 64) s.estQrate }
  | .estSrate => { s with estSrate := inRange v 1 (2 ^ 64) s.estSrate }
  | .entitle n => s.modTenant n fun t =>
    { t with entitle := if [1, 2, 4, 8, 16, 32, 64].contains v.toNat then v.toNat else t.entitle }
  | .hide n => s.modTenant n fun t => { t with hide := v.getLsbD 0 }
  | .reserve kind =>
    let (st, ph) := (v.toNat / 256, v.toNat % 256)
    if s.kindIdle kind ∧ (st = 0 ∨ ([1, 2, 4, 8, 16, 32, 64].contains st ∧ ph < st)) ∧ s.reserveFits kind st ph then
      { s with reserve := SMap.set (0, 0) s.reserve kind (if st = 0 then (0, 0) else (st, ph)) }
    else s
  | .turn server e =>
    if e < 256 ∧ v.toNat < 256 then
      let own := (SMap.get [] s.turns server).filter fun x => x.1 != e
      { s with turns := SMap.set [] s.turns server (own ++ [(e, v.toNat)]) }
    else s
  | .pinPart n => s.modTenant n fun t => { t with pinPart := inRange v 0 (4096 - s.partsBut n (·.pinPart)) t.pinPart }
  | .xlatPart n => s.modTenant n fun t => { t with xlatPart := inRange v 0 (1024 - s.partsBut n (·.xlatPart)) t.xlatPart }
  | .stagePart n => s.modTenant n fun t => { t with stagePart := inRange v 0 (2 ^ 22) t.stagePart }
  | .slot kind inst e =>
    let r := SMap.get (0, 0) s.reserve kind
    if (kind = 0x08 ∨ kind = 0x09 ∨ kind = 0x0A) ∧ e < 256 ∧ r.1 ≠ 0 ∧ e % r.1 = r.2 then s.setSlot kind inst e (v.setWidth 32) else s
  | .pasid fn => s.setFunc fn { s.func fn with pasid := v.setWidth 20, ats := [] }

/-- REGISTER_WRITE: a function's own page, or another's through the physical function, unless its TDI is locked (R230); the
settings through the physical function alone. -/
def execRegisterWrite (byFn fn : Nat) (reg : HostReg) (v : BitVec 64) (s : State) : Result :=
  match reg with
  | .at_ off =>
    let tdi := (s.func fn).tdi
    if byFn = fn then .next (s.pageWrite fn off v)
    else if byFn = 0 ∧ tdi ≠ .locked ∧ tdi ≠ .run then .next (s.pageWrite fn off v)
    else .next s
  | _ => .next (if byFn = 0 then s.setting reg v else s)

/-! ### Host pages of the front end (f04 R103) -/

/-- Pages of `n` bytes from a host address. -/
def pagesFrom (a n : Nat) : List Nat :=
  if n = 0 then [] else (List.range ((a + n - 1) / 4096 - a / 4096 + 1)).map fun i => a / 4096 + i

/-- Some page of a list has been refused; else the first that is not translated. -/
def State.frontPage (s : State) (fn : Nat) (l : List Nat) : Option (Bool × Nat) :=
  let f := s.func fn
  match l.find? fun p => f.refused.contains p with
  | some p => some (true, p)
  | none => (l.find? fun p => !s.pageOk fn (4096 * p)).map fun p => (false, p)

/-- A page is asked for on behalf of the front end; a refusal is taken note of once. -/
def State.frontAsk (s : State) (fn page : Nat) : State :=
  let s := s.askPage fn page
  let f := s.func fn
  s.setFunc fn { f with asked := if f.asked.contains page ∨ ¬ f.pri.contains page then f.asked else f.asked ++ [page] }
def State.frontDrop (s : State) (fn page : Nat) : State :=
  let f := s.func fn
  s.setFunc fn { f with refused := f.refused.filter (· != page) }

/-! ### Fetching a packet (f09 R236, R237) -/

/-- A fetch: nothing to take; a page to ask for; a check that fails; the packet's bytes. -/
inductive Fetch where
  | idle
  | page (p : Nat)
  | bad (code : Nat)
  | packet (bytes : List Byte)
  deriving DecidableEq, Repr

/-- Bytes `n` at an offset of a packet as a number. -/
def pktNat (b : List Byte) (off n : Nat) : Nat := natOf ((b.drop off).take n)

/-- Least and greatest slot count of a command; none for a code that is none (f09 R239). -/
def slotRange : Nat → Option (Nat × Nat)
  | 0x03 => some (2, 8)
  | 0x04 | 0x05 | 0x06 => some (2, 2)
  | 0x01 | 0x02 | 0x07 | 0x08 | 0x09 | 0x0A | 0x0B => some (1, 1)
  | _ => none

/-- The bytes of a payload that are not reserved, by offset and length, with the mask of a byte that holds a narrower field. -/
def payload : Nat → List (Nat × Nat × Nat)
  | 0x01 => [(8, 10, 0xFF)]
  | 0x02 => [(8, 4, 0xFF), (12, 1, 0x03), (16, 2, 0xFF)]
  | 0x03 => [(8, 5, 0xFF), (13, 1, 0x03), (64, 448, 0xFF)]
  | 0x04 => [(8, 2, 0xFF), (12, 3, 0xFF), (16, 40, 0xFF), (64, 1, 0xFF), (72, 16, 0xFF)]
  | 0x05 | 0x06 => [(8, 48, 0xFF), (64, 40, 0xFF)]
  | 0x07 => [(8, 5, 0xFF), (16, 2, 0xFF), (20, 4, 0xFF)]
  | 0x08 => [(8, 1, 0xFF), (16, 16, 0xFF)]
  | 0x09 => [(8, 8, 0xFF)]
  | 0x0A => [(8, 1, 0x0F)]
  | 0x0B => [(8, 2, 0xFF)]
  | _ => []

/-- Check 7: a reserved bit of the header or the payload; of MAP_OBJ's entry image bits 233..224 (f04 R99). -/
def reservedSet (b : List Byte) : Bool :=
  let opc := pktNat b 0 1
  decide (pktNat b 2 2 ≠ 0) || decide (pktNat b 1 1 / 16 % 4 ≠ 0) ||
    (b.zipIdx.any fun x => decide (8 ≤ x.2) &&
      decide (x.1.toNat &&& ((payload opc).foldl (fun m f => if f.1 ≤ x.2 ∧ x.2 < f.1 + f.2.1 then m - (m &&& f.2.2) else m) 255)
        ≠ 0)) ||
    (opc == 0x04 && decide (pktNat b 16 32 / 2 ^ 224 % 2 ^ 10 ≠ 0))

/-- Check 5: MAP_OBJ is the physical function's, and a virtual function's while its TDI is locked or running (R230, R239). -/
def State.permitted (s : State) (fn opc : Nat) : Bool :=
  opc != 0x04 || fn == 0 || (s.func fn).tdi == .locked || (s.func fn).tdi == .run

/-- Check 8: the sealed capabilities of a COPY or WS_LOAD. -/
def State.capsOk (s : State) (fn : Nat) (b : List Byte) : Bool :=
  let opc := pktNat b 0 1
  let ok := fun (off : Nat) => (unsealCap (s.tenant fn).key fn (BitVec.ofNat 256 (pktNat b off 32))).isSome
  !(opc == 0x05 || opc == 0x06) || (ok 8 && ok 64)

/-- The queue may fetch: running, room for a completion, no WAIT holding it. -/
def Queue.mayFetch (x : Queue) : Bool :=
  x.st == 1 && !x.resetting && x.roomy && x.comps.isEmpty && x.wait.isNone && x.latch != x.ridx

/-- The fetch and checks of the packet at RIDX, in the order of f09 R237. A packet with FENCE waits for every earlier one. -/
def State.fetch (s : State) (fn q : Nat) : Fetch :=
  let x := s.queue fn q
  if x.mayFetch = false then .idle
  else
    let at_ := x.ridx.toNat % x.slots
    let base := ringBase x.qcfg + 64 * at_
    match s.frontPage fn (pagesFrom base 64) with
    | some (true, _) => .bad eFetch
    | some (false, p) => .page p
    | none =>
      let hdr := s.mem.readN (s.spaceOf fn base) 8
      let n := pktNat hdr 1 1 % 16
      if n = 0 ∨ 8 < n then .bad eBadLen
      else if x.slots < at_ + n then .bad eStraddle
      else if (x.latch - x.ridx).toNat < n then .idle
      else match s.frontPage fn (pagesFrom base (64 * n)) with
        | some (true, _) => .bad eFetch
        | some (false, p) => .page p
        | none =>
          let b := s.mem.readN (s.spaceOf fn base) (64 * n)
          let opc := pktNat b 0 1
          match slotRange opc with
          | none => .bad eBadOp
          | some (lo, hi) =>
            if s.permitted fn opc = false then .bad eNotPerm
            else if n < lo ∨ hi < n then .bad eBadLen
            else if reservedSet b then .bad eResBit
            else if s.capsOk fn b = false then .bad eBadCap
            else if (pktNat b 1 1).testBit 6 ∧ x.running ≠ 0 then .idle
            else .packet b

/-- A failed check: the queue is in ERROR, RIDX stays at the packet. -/
def State.fetchBad (s : State) (fn q code : Nat) : State :=
  let x := s.queue fn q
  let base := ringBase x.qcfg + 64 * (x.ridx.toNat % x.slots)
  let s := (pagesFrom base 512).foldl (fun s p => s.frontDrop fn p) s
  (s.setQueue fn q { s.queue fn q with st := 3, ecode := code }).meterHost fn (if code = eFetch then 0 else 64) false

/-- The bytes of a fetched packet count as host bytes read; those of a LAUNCH with its launch (log entry 170). -/
def State.chargePacket (s : State) (fn : Nat) (b : List Byte) : State :=
  if pktNat b 0 1 = opcLaunch then s else s.meterHost fn b.length false

/-- The commit of a packet: RIDX past it, and it is running (f09 R243). -/
def State.commitPacket (s : State) (fn q n : Nat) : State :=
  let x := s.queue fn q
  s.setQueue fn q { x with ridx := x.ridx + BitVec.ofNat 32 n, running := x.running + 1, fetched := none }

/-- Where a packet came from. -/
def pktOf (fn q : Nat) (ridx : BitVec 32) (b : List Byte) : Pkt :=
  ⟨fn, q, ridx, BitVec.ofNat 32 (pktNat b 4 4), (pktNat b 1 1).testBit 7, true⟩

/-- A LAUNCH write as the packet it acts as (f09 R235, R238). -/
def launchOf (fn q : Nat) (v : BitVec 64) : Pkt × LaunchReq :=
  (⟨fn, q, 0xFFFFFFFF, 0, true, false⟩, ⟨bits v 15 0, bits v 31 16, bits v 33 32, bits v 63 48⟩)

end Sys2Proof.Machine
end

