-- ==== Sys2Proof/Machine/Commands.lean ====
section
/-! DEFINITION. The commands of the submission queues (f09 R239..R243), bulk moves on the PCIe DMA engine's tenant turns (f02 R35), and
the Mule's work on queues and launch FIFOs. -/
namespace Sys2Proof.Machine

def opcRegGraph : Nat := 0x01
def opcFeed : Nat := 0x03
def opcMapObj : Nat := 0x04
def opcCopy : Nat := 0x05
def opcWsLoad : Nat := 0x06
def opcSignal : Nat := 0x07
def opcWait : Nat := 0x08
def opcMeter : Nat := 0x09
def opcResetQ : Nat := 0x0A
def opcDeregGraph : Nat := 0x0B

/-- A packet that ends with a status and no data. -/
def State.ends (s : State) (p : Pkt) (opc status : Nat) : State := s.complete p opc status 0 false 0

/-- Some host page a command needs has been refused (f09 R238 HOSTERR); note is taken of it. -/
def State.pagesRefused (s : State) (fn : Nat) (l : List Nat) : Bool := l.any fun p => (s.func fn).refused.contains p
def State.dropPages (s : State) (fn : Nat) (l : List Nat) : State := l.foldl (fun s p => s.frontDrop fn p) s

/-- A host address (f04 R103). -/
def hostAddr (v : BitVec 64) : Nat := v.toNat % 2 ^ 56

/-! ### REG_GRAPH and DEREG_GRAPH (f09 R240, R241) -/

/-- Reason codes of BADGRAPH. -/
def gImage : Nat := 1
def gCycle : Nat := 2
def gDecl : Nat := 3
def gSucc : Nat := 4
def gCap : Nat := 5

/-- Where the bytes of an image lie, through its capability: the window, clipped to the object's LEN. -/
def State.objectAddrs (s : State) (c : BitVec 128) : List (Option Nat) :=
  let e := s.entryOf ⟨c, false⟩
  (List.range (Nat.min (capLen c) (entLen e - capBase c))).map fun i => match translate s (capTid c) e (capBase c + i) with
    | .at_ a => some a
    | _ => none

/-- Bytes counted to a tenant where they performed. -/
def State.meterTenant (s : State) (tenant : Nat) (l : List Nat) (write : Bool) : State :=
  [11, 12, 13, 14, 19, 20].foldl (fun s k => s.meter tenant k (l.countP fun a => byteMeter a write == k)) s

/-- An image finalised, from the tenant's cache where its bytes have been finalised before (f09 R250). -/
def State.imageOf (s : State) (tenant : Nat) (b : List Byte) : Except Nat Image × State :=
  let t := s.tenant tenant
  let h := Config.sha384 b
  match t.images.find? fun x => x.1 == h with
  | some x => (.ok x.2, s)
  | none => match finalise b with
    | .ok img => (.ok img, s.setTenant tenant { t with images := t.images ++ [(h, img)] })
    | .error c => (.error c, s)

/-- A node's declaration against f02 R31 and R32: M-steps of legal length, an acceptable stride, a pinned one among them. -/
def nodeDeclOk (img : Image) (strides : Nat) (pin : Option (Nat × Nat)) : Bool :=
  let t : Timetable := { Timetable.blank with
    img := img, strides := if strides = 0 then img.strides else img.strides &&& BitVec.ofNat 8 strides, pin := pin }
  t.stepOk

/-- Node i of a descriptor: the node, or its reason and finaliser code. A reserved byte, bit 7 of STRIDES or a reserved bit of FLAGS that is
set is refused as a declaration, reason 3 (DESIGN CHOICE, log entry 144). -/
def State.readNode (s : State) (fn count : Nat) (b : List Byte) : Except (Nat × Nat) Node × State :=
  match unsealCap (s.tenant fn).key fn (BitVec.ofNat 256 (pktNat b 0 32)) with
  | none => (.error (gCap, 0), s)
  | some c =>
    if capObj c = 0 ∨ entKind (s.entryOf ⟨c, false⟩) ≠ 3 then (.error (gCap, 0), s)
    else match (s.meterTenant fn ((s.objectAddrs c).filterMap id) false).imageOf fn
        ((s.objectAddrs c).map fun a => a.elim 0 s.mem.read) with
      | (.error code, s) => (.error (if code = fDecl then gDecl else gImage, code), s)
      | (.ok img, s) =>
        let pred := pktNat b 32 8
        let succ := pktNat b 40 8
        let flags := pktNat b 49 1
        let pins := pktNat b 50 1
        if pktNat b 52 12 ≠ 0 ∨ 128 ≤ pktNat b 48 1 ∨ 8 ≤ flags ∨ 2 ^ count ≤ pred ∨ 2 ^ count ≤ succ ∨
            (flags.testBit 1 ∧ (6 < pins ∨ 2 ^ pins ≤ pktNat b 51 1)) ∨
            ¬ nodeDeclOk img (pktNat b 48 1) (if flags.testBit 1 then some (2 ^ pins, pktNat b 51 1) else none) then (.error (gDecl, 0), s)
        else (.ok ⟨img, BitVec.ofNat 64 pred, BitVec.ofNat 64 succ, BitVec.ofNat 8 (pktNat b 48 1), BitVec.ofNat 8 flags, pins,
          pktNat b 51 1, none, false⟩, s)

/-- The nodes of a descriptor, or the node, reason and code of the first that is refused. -/
def State.readNodes (s : State) (fn desc count : Nat) : Except (Nat × Nat × Nat) (List Node) × State :=
  (List.range count).foldl (fun (acc : Except (Nat × Nat × Nat) (List Node) × State) i => match acc with
    | (.error e, s) => (.error e, s)
    | (.ok l, s) => match s.readNode fn count (s.mem.readN (s.spaceOf fn (desc + 64 * i)) 64) with
      | (.error e, s) => (.error (i, e), s)
      | (.ok n, s) => (.ok (l ++ [n]), s)) (.ok [], s)

/-- The nodes left when nodes without a predecessor among the rest are taken away, `fuel` times. -/
def peel (g : List Node) : Nat → List Nat → List Nat
  | 0, l => l
  | fuel + 1, l => peel g fuel (l.filter fun i => match g[i]? with
    | some n => n.preds.any fun j => l.contains j
    | none => false)

/-- The lowest node on or after a cycle; the lowest node whose successor rule is broken. -/
def cycleAt (g : List Node) : Option Nat := (peel g g.length (List.range g.length)).head?
def succBad (g : List Node) : Option Nat :=
  (g.zipIdx.find? fun x => (List.range g.length).any fun j =>
    x.1.succ.getLsbD j && (match g[j]? with
      | some n => n.pred != BitVec.twoPow 64 x.2
      | none => false)).map (·.2)

/-- The lowest free handle. -/
def Func.freeGraph (f : Func) : Option Nat :=
  ((List.range 256).map (· + 1)).find? fun h => (SMap.get [] f.graphs h).isEmpty

/-- Weave plans for every node of a new graph (f02 R52). -/
def State.planNodes (s : State) (fn h : Nat) : State :=
  (s.graph fn h).zipIdx.foldl (fun s x =>
    let r : AdmReq := ⟨0, 0, 0, x.2, 0, 0, 0, 0, 0, [], false, none⟩
    s.setNodeOf fn h x.2 { x.1 with plan := s.buildPlan { s.freshTt r x.1 with tenant := fn } }) s

def execRegGraph (p : Pkt) (desc : BitVec 64) (count : Nat) (s : State) : Result :=
  let d := hostAddr desc
  let pages := pagesFrom d (64 * count)
  if d % 64 ≠ 0 ∨ count = 0 ∨ 64 < count then .next (s.ends p opcRegGraph cBadArg)
  else if s.pagesRefused p.fn pages then .next ((s.dropPages p.fn pages).ends p opcRegGraph cHostErr)
  else
    let bad := fun (s : State) (node reason code : Nat) =>
      s.complete p opcRegGraph cBadGraph 0 false (BitVec.ofNat 128 (node + 2 ^ 8 * reason + 2 ^ 16 * code))
    match (s.meterHost p.fn (64 * count) false).readNodes p.fn d count with
    | (.error (i, r, c), s) => .next (bad s i r c)
    | (.ok g, s) => match cycleAt g, succBad g, (s.func p.fn).freeGraph with
      | some i, _, _ => .next (bad s i gCycle 0)
      | none, some i, _ => .next (bad s i gSucc 0)
      | none, none, none => .next (s.ends p opcRegGraph cNoSpace)
      | none, none, some h =>
        let f := s.func p.fn
        let s := s.setFunc p.fn { f with graphs := SMap.set [] f.graphs h g }
        .next ((s.planNodes p.fn h).complete p opcRegGraph cOk 0 false (BitVec.ofNat 128 h))

def execDeregGraph (p : Pkt) (graph : Nat) (s : State) : Result :=
  let f := s.func p.fn
  if (s.graph p.fn graph).isEmpty then .next (s.ends p opcDeregGraph cBadArg)
  else if s.launches.any fun l => l.2.live && l.2.fn == p.fn && l.2.req.graph == graph then
    .next (s.ends p opcDeregGraph cBusy)
  else .next ((s.setFunc p.fn { f with graphs := SMap.set [] f.graphs graph [] }).ends p opcDeregGraph cOk)

/-! ### LAUNCH, FEED and SIGNAL (f09 R240) -/

/-- Host pages of an argument block; none at or beyond the block count, where nothing is read (f09 R242). -/
def State.argPages (s : State) (fn idx : Nat) : List Nat :=
  let cfg := (s.func fn).argcfg
  if idx < cfg.toNat % 4096 then pagesFrom (ringBase cfg + 1024 * idx) 1024 else []

def execLaunch (p : Pkt) (r : LaunchReq) (s : State) : Result :=
  let pages := s.argPages p.fn r.argidx
  if s.pagesRefused p.fn pages then
    .next (((s.dropPages p.fn pages).meterHost p.fn p.slotBytes false).complete p opcLaunch cHostErr r.seq true 0)
  else .next (s.startLaunch p r)

/-- The resident timetable of a node of a live launch. -/
def State.residentNode (s : State) (fn graph seq node : Nat) : Option Nat :=
  (s.tts.find? fun x =>
    let l := s.launch x.2.launch
    x.2.life == 1 && x.2.node == node && l.live && l.fn == fn && l.req.graph == graph && l.req.seq == seq).map (·.1)

/-- Records in a work queue. -/
def Timetable.wqLen (t : Timetable) (q : Nat) : Nat := (SMap.get [] t.wq q).length - SMap.get 0 t.wqTaken q

def execFeed (p : Pkt) (graph seq node wq : Nat) (recs : List Slot) (s : State) : Result :=
  match s.residentNode p.fn graph seq node with
  | none => .next (s.ends p opcFeed cNotRes)
  | some k =>
    let t := s.tt k
    if 256 < t.wqLen wq + recs.length then .next (s.ends p opcFeed cNoSpace)
    else
      let l := SMap.get [] t.wq wq ++ recs.map fun r => (s.gclk.toNat, r)
      .next ((s.setTt k { t with wq := SMap.set [] t.wq wq l }).ends p opcFeed cOk)

def execSignalHostEvent (p : Pkt) (event : Nat) (amount : BitVec 32) (s : State) : Result :=
  if 64 ≤ event ∨ amount = 0 ∨ 2 ^ 31 < amount.toNat then .next (s.ends p opcSignal cBadArg)
  else .next ((s.hostEvent p.fn event amount.toNat).ends p opcSignal cOk)

/-- Units for one semaphore of a logical core from the host; a clipped signal is the fault of the core's lowest strand that has not
ended (f07 R182). -/
def State.hostSignal (s : State) (k lc idx n : Nat) : State :=
  let t := s.tt k
  let (v, clipped) := semSignal (t.sem (lc * 256 + idx)) n none
  let s := s.setTt k (t.setSem (lc * 256 + idx) v)
  match (s.alive k).find? fun sid => (s.strand sid).lcore == lc with
  | some sid => if clipped then s.fault sid Code.semOvf 3 0 (s.strand sid).bundle else s
  | none => s

def execSignalSemaphore (p : Pkt) (idx graph node seq : Nat) (amount : BitVec 32) (s : State) : Result :=
  if amount = 0 ∨ 2 ^ 31 < amount.toNat then .next (s.ends p opcSignal cBadArg)
  else match s.residentNode p.fn graph seq node with
    | none => .next (s.ends p opcSignal cNotRes)
    | some k =>
      if (s.tt k).img.sems ≤ idx then .next (s.ends p opcSignal cBadArg)
      else
        let cores := (s.tt k).place.zipIdx.filter fun x => x.1.pkg == s.pkg
        .next ((cores.foldl (fun s x => s.hostSignal k x.2 idx amount.toNat) s).ends p opcSignal cOk)

/-! ### WAIT (f09 R240) -/

def execWait (p : Pkt) (event : Nat) (value timeout : BitVec 64) (s : State) : Result :=
  if 64 ≤ event then .next (s.ends p opcWait cBadArg)
  else if value ≤ SMap.get 0 (s.func p.fn).he event then .next (s.ends p opcWait cOk)
  else
    let until_ := if timeout = 0 then none else some (s.gclk.toNat + 1024 * timeout.toNat)
    .next (s.setQueue p.fn p.q { s.queue p.fn p.q with wait := some (p, event, value, until_) })

def execWaitRelease (fn q : Nat) (s : State) : Result :=
  let x := s.queue fn q
  match x.wait with
  | none => notEnabled "WAIT_RELEASE"
  | some (p, event, value, _) =>
    if value ≤ SMap.get 0 (s.func fn).he event then .next ((s.setQueue fn q { x with wait := none }).ends p opcWait cOk)
    else notEnabled "WAIT_RELEASE"

def execWaitTimeout (fn q : Nat) (s : State) : Result :=
  let x := s.queue fn q
  match x.wait with
  | some (p, _, _, some d) =>
    if d ≤ s.gclk.toNat then .next ((s.setQueue fn q { x with wait := none }).ends p opcWait cTimeout)
    else notEnabled "WAIT_TIMEOUT"
  | _ => notEnabled "WAIT_TIMEOUT"

/-! ### METER, RESET_Q, MULE_RESTART -/

def execMeter (p : Pkt) (addr : BitVec 64) (s : State) : Result :=
  let a := hostAddr addr
  let pages := pagesFrom a 480
  if a % 64 ≠ 0 then .next (s.ends p opcMeter cBadArg)
  else if s.pagesRefused p.fn pages then .next ((s.dropPages p.fn pages).ends p opcMeter cHostErr)
  else
    let (_, b, s) := s.snapshot p.fn
    .next (State.ends { s.meterHost p.fn b.length true with mem := s.mem.writeN (s.spaceOf p.fn a) b } p opcMeter cOk)

def execResetQ (p : Pkt) (target : Nat) (s : State) : Result :=
  if target = p.q then .next (s.ends p opcResetQ cBadArg) else .next ((s.resetQueue p.fn target).ends p opcResetQ cOk)

/-- MULE_RESTART: the harts start again, what was fetched and not committed is fetched again, and admissions wait for the first
vb.dispatch; the front end and all running work go on (f09 R243). -/
def execMuleRestart (s : State) : Result :=
  let s := { s with
    harts := State.reset.harts, muleDown := true,
    funcs := SMap.mapVals (fun _ f => { f with queues := SMap.mapVals (fun _ q => { q with fetched := none }) f.queues }) s.funcs }
  .next (s.funcs.foldl (fun s f => f.2.queues.foldl (fun s q => if (s.queue f.1 q.1).resetting then s.flush f.1 q.1 else s) s) s)

/-! ### MAP_OBJ (f04 R98..R106, R117, f09 R240) -/

/-- A function may name the tenant (f09 R230, R240). -/
def State.tenantOk (s : State) (fn tenant : Nat) : Bool := (s.tenant tenant).live && (fn == 0 || fn == tenant)

/-- What create and resize give as an entry image is allowed (f04 R99, R103). -/
def imageOk (e : BitVec 256) : Bool :=
  decide (entKind e < 5) && decide (entHome e < 5) &&
    (entHome e != 4 ||
      (entNx e != 5 && entNx e != 6 && decide (entXsz e ≤ 28) &&
        (entNx e == 7 || decide (entLen e ≤ entNx e * 2 ^ (12 + entXsz e))) &&
        (List.range (if entNx e = 7 then 1 else entNx e)).all fun i => decide (entX e i < 2 ^ 43)))

/-- The host pages of the extent table that an entry image of HOME 4 names, and the words of it (f04 R100). -/
def tableSpan (e : BitVec 256) : Nat × Nat :=
  if entHome e = 4 ∧ entNx e = 7 then (entX e 0 * 4096, (entLen e + 2 ^ (12 + entXsz e) - 1) / 2 ^ (12 + entXsz e)) else (0, 0)

/-- No extent in the host's table has address bit 55 set or lies in the other half (f04 R103). -/
def State.tableOk (s : State) (fn : Nat) (e : BitVec 256) : Bool :=
  let (a, n) := tableSpan e
  (List.range n).all fun i => decide (natOf (s.mem.readN (s.spaceOf fn (a + 8 * i)) 8) % 2 ^ 45 < 2 ^ 43)

/-- The words of a host extent table read for an image count in the tenant's meter (f09 R252). -/
def State.chargeTable (s : State) (tenant : Nat) (e : BitVec 256) : State :=
  if (tableSpan e).2 = 0 then s else s.meterHost tenant (8 * (tableSpan e).2) false

/-- The window and rights of a capability to be sealed, and the result's address. -/
def sealOk (result : BitVec 64) (rights : Byte) (wbase wlen : BitVec 64) : Bool :=
  result.toNat % 32 == 0 && !rights.getLsbD 7 && decide (wbase.toNat + wlen.toNat ≤ 2 ^ 44)

/-- The sealed capability written to the result address. -/
def State.putSeal (s : State) (fn tenant obj : Nat) (result : BitVec 64) (rights : Byte) (wbase wlen : BitVec 64) : State :=
  let c := capMake tenant obj rights.toNat wbase.toNat wlen.toNat
  { s.meterHost fn 32 true with
    mem := s.mem.writeN (s.spaceOf fn (hostAddr result)) (bytesOf 32 (sealCap (s.tenant tenant).key c).toNat) }

/-- MAP_OBJ create. Set bits in X1 to X3 of an image of HOME 4 with NX = 7, which R99 calls reserved there, are kept in the entry, and nothing
reads them (DESIGN CHOICE, log entry 145). An image of KIND 0 makes no object, and is answered OK with its capability (DESIGN CHOICE, log entry
173). -/
def execMapObjCreate (p : Pkt) (tenant obj : Nat) (image : Sealed) (result : BitVec 64) (rights : Byte) (wbase wlen : BitVec 64)
    (s : State) : Result :=
  let pages := pagesFrom (hostAddr result) 32
  let table := pagesFrom (tableSpan image).1 (8 * (tableSpan image).2)
  if ¬ s.tenantOk p.fn tenant ∨ obj = 0 ∨ entKind (s.obj tenant obj).entry ≠ 0 ∨ ¬ imageOk image ∨
      ¬ sealOk result rights wbase wlen then .next (s.ends p opcMapObj cBadArg)
  else if s.pagesRefused tenant table then .next ((s.dropPages tenant table).ends p opcMapObj cHostErr)
  else
    let good := s.tableOk tenant image
    let s := s.chargeTable tenant image
    if good = false then .next (s.ends p opcMapObj cBadArg)
    else if s.pagesRefused p.fn pages then .next ((s.dropPages p.fn pages).ends p opcMapObj cHostErr)
    else
      let done := fun (s : State) => Host.Outcome.next ((s.putSeal p.fn tenant obj result rights wbase wlen).ends p opcMapObj cOk)
      let e := entSet (entSet (entSet image 245 1 0) 242 1 0) 243 1 (b2n (entHome image == 1 || entHome image == 3))
      if entKind image = 0 then done s
      else if entHome image = 4 then done (s.setObj tenant obj { Obj.free with entry := e })
      else
        let size := 2 ^ (12 + xszFor (entLen image))
        let e := entSet (entSet (entSet e 0 180 0) 234 5 (xszFor (entLen image))) 239 3 0
        match (s.setObj tenant obj { Obj.free with entry := e }).grow tenant obj ((entLen image + size - 1) / size) with
        | some s => done s
        | none => .next (s.ends p opcMapObj cNoSpace)

/-- An unpinned object in one new extent that holds `len` bytes, with its bytes and gates. -/
def State.relocate (s : State) (tenant obj len : Nat) : Option State :=
  let o := s.obj tenant obj
  let size := 2 ^ (12 + entXsz o.entry)
  let x := xszFor len
  let bytes := s.objBytes tenant obj
  (s.newExtent (entDie o.entry) (entHome o.entry) (2 ^ (12 + x))).map fun n =>
    let s := n.2
    let moved := fun (g : Nat) => (List.range (entNx o.entry)).findSome? fun i =>
      let a := entX o.entry i * 4096
      if entX o.entry i ≠ absentBase ∧ a ≤ g ∧ g < a + size then some (n.1 + i * size + (g - a)) else none
    let gates := s.gates.foldl (fun m y => SMap.set Gate.none m ((moved y.1).getD y.1) y.2) []
    let e := entSet (entSet (entSet (entSet o.entry 0 180 0) 234 5 x) 239 3 1) 135 45 (n.1 / 4096)
    let s := s.freeExtents tenant o.entry 0
    { s.setObj tenant obj { o with entry := entSet e 242 1 0, mig := [], backing := [] } with
      gates := gates, mem := s.mem.writeAll (bytes.map fun y => (n.1 + y.1, y.2)) }

/-- Resize of f09 R240: the length, and for HOME 4 the supplied extents. One that needs more extents than the four an entry holds moves its object
into one extent, and of a pinned object it is answered with NOSPACE (DESIGN CHOICE, log entry 173). -/
def execMapObjResize (p : Pkt) (tenant obj : Nat) (image : Sealed) (s : State) : Result :=
  let o := s.obj tenant obj
  let len := entLen image
  let img := entSet image 249 3 (entHome o.entry)
  let table := pagesFrom (tableSpan img).1 (8 * (tableSpan img).2)
  if ¬ s.tenantOk p.fn tenant ∨ entKind o.entry = 0 ∨ ¬ imageOk image ∨ ¬ imageOk img then .next (s.ends p opcMapObj cBadArg)
  else if s.pagesRefused tenant table then .next ((s.dropPages tenant table).ends p opcMapObj cHostErr)
  else
    let good := s.tableOk tenant img
    let s := s.chargeTable tenant img
    if good = false then .next (s.ends p opcMapObj cBadArg)
    else if len < entLen o.entry ∧ entTp o.entry = 1 then .next (s.ends p opcMapObj cBusy)
    else if entHome o.entry = 4 then
      let e := entSet (entSet o.entry 0 224 (entField image 0 224)) 234 8 (entField image 234 8)
      .next ((s.setObj tenant obj { o with entry := e }).ends p opcMapObj cOk)
    else
      let size := 2 ^ (12 + entXsz o.entry)
      let n := (len + size - 1) / size
      let sized := if n ≤ 4 then s.grow tenant obj n
        else if entTp o.entry = 1 then none else s.relocate tenant obj len
      match sized with
      | none => .next (s.ends p opcMapObj cNoSpace)
      | some s =>
        let o := s.obj tenant obj
        let s := if n < entNx o.entry ∧ n ≤ 4 then s.freeExtents tenant o.entry n else s
        let e := if n < entNx o.entry ∧ n ≤ 4 then entSet (entSet o.entry 239 3 n) 0 (180 - 45 * n) 0 else o.entry
        .next ((s.setObj tenant obj { o with entry := entSet e 180 44 len }).ends p opcMapObj cOk)

def execMapObjFree (p : Pkt) (tenant obj : Nat) (s : State) : Result :=
  let o := s.obj tenant obj
  if ¬ s.tenantOk p.fn tenant ∨ entKind o.entry = 0 then .next (s.ends p opcMapObj cBadArg)
  else if entTp o.entry = 1 then .next (s.ends p opcMapObj cBusy)
  else .next (((s.freeExtents tenant o.entry 0).setObj tenant obj Obj.free).ends p opcMapObj cOk)

def execMapObjDerive (p : Pkt) (tenant obj : Nat) (result : BitVec 64) (rights : Byte) (wbase wlen : BitVec 64) (s : State) :
    Result :=
  let pages := pagesFrom (hostAddr result) 32
  if ¬ s.tenantOk p.fn tenant ∨ entKind (s.obj tenant obj).entry = 0 ∨ ¬ sealOk result rights wbase wlen then
    .next (s.ends p opcMapObj cBadArg)
  else if s.pagesRefused p.fn pages then .next ((s.dropPages p.fn pages).ends p opcMapObj cHostErr)
  else .next ((s.putSeal p.fn tenant obj result rights wbase wlen).ends p opcMapObj cOk)

/-! ### COPY and WS_LOAD (f02 R35, f06 R150, f09 R240) -/

/-- The checks of f04 R91, R113 and f06 R161 on a bulk window; none where it passes. -/
def State.bulkOk (s : State) (c : Cap) (o n : Nat) (write : Bool) : Bool :=
  let e := s.entryOf c
  let tid := capTid c.bits
  let x := capBase c.bits + o
  let at_ := (List.range ((x + n + 63) / 64 - x / 64)).map fun i => translate s tid e ((x / 64 + i) * 64)
  capObj c.bits != 0 && hasRights (capRights c.bits) (if write then rightW else rightR) && decide (o + n ≤ capLen c.bits) &&
    entKind e != 0 && decide (capBase c.bits + o + n ≤ entLen e) &&
    ((probes o n).all fun i => translate s tid e (capBase c.bits + i) != .bad) && !s.badState c write &&
    (!write || at_.all fun x => match x with
      | .at_ a => !s.inGate a
      | _ => true)

/-- A bulk move begins, in aligned 32-byte units of its destination; one of no bytes has ended. -/
def State.startBulk (s : State) (p : Pkt) (opc : Nat) (dst src : BitVec 128) (doff soff len : Nat) : State :=
  let cd : Cap := ⟨dst, false⟩
  let cs : Cap := ⟨src, false⟩
  let pieces := runs (fun a b => (capBase dst + a.1) / 32 == (capBase dst + b.1) / 32)
    ((List.range len).map fun i => (doff + i, soff + i))
  if pieces.isEmpty then s.ends p opc cOk
  else
    let obj := if opc = opcWsLoad then some (capTid dst, capObj dst) else none
    let s := match obj with
      | some (t, n) =>
        let o := s.obj t n
        (if o.written ∨ o.loading ≠ 0 then s else s.freeExtents t o.entry 0).setObj t n { o with loading := o.loading + 1 }
      | none => s
    { s with bulks := s.bulks ++ [⟨s.nextJob, p, opc, cd, cs, pieces, obj⟩], nextJob := s.nextJob + 1 }

/-- COPY and WS_LOAD. -/
def bulkCommand (p : Pkt) (opc : Nat) (dst : Sealed) (doff len : BitVec 64) (src : Sealed) (soff : BitVec 64) (s : State) :
    Result :=
  let key := (s.tenant p.fn).key
  match unsealCap key p.fn dst, unsealCap key p.fn src with
  | some d, some c =>
    let cd : Cap := ⟨d, false⟩
    if opc = opcWsLoad ∧ s.homeOfCap cd = 2 ∧ entKind (s.entryOf cd) ≠ 0 ∧ entWst (s.entryOf cd) = 0 then
      .next (s.ends p opc cBusy)
    else if (opc = opcWsLoad ∧ s.homeOfCap cd ≠ 2) ∨ ¬ s.bulkOk cd doff.toNat len.toNat true ∨
        ¬ s.bulkOk ⟨c, false⟩ soff.toNat len.toNat false then .next (s.ends p opc cBadArg)
    else .next (s.startBulk p opc d c doff.toNat soff.toNat len.toNat)
  | _, _ => .next (s.ends p opc cBadArg)

def execCopy (p : Pkt) (dst : Sealed) (doff len : BitVec 64) (src : Sealed) (soff : BitVec 64) (s : State) : Result :=
  bulkCommand p opcCopy dst doff len src soff s
def execWsLoad (p : Pkt) (dst : Sealed) (doff len : BitVec 64) (src : Sealed) (soff : BitVec 64) (s : State) : Result :=
  bulkCommand p opcWsLoad dst doff len src soff s

/-- A bulk move. -/
def State.bulk (s : State) (id : Nat) : Option Bulk := s.bulks.find? fun b => b.id == id

/-- A bulk move is over; a refused one moves no byte more. -/
def State.endBulk (s : State) (id status : Nat) : State :=
  match s.bulk id with
  | none => s
  | some b =>
    let s := { s.dropOps (.bulk id) with bulks := s.bulks.filter fun x => x.id != id }
    let s := match b.obj with
      | some (t, n) => let o := s.obj t n; s.setObj t n { o with loading := o.loading - 1, written := true }
      | none => s
    s.ends b.pkt b.opc status

/-- Once its last byte has performed, the command completes. -/
def State.closeBulk (s : State) (id : Nat) : State :=
  match s.bulk id with
  | some b => if b.pieces.isEmpty ∧ (s.opsOf (.bulk id)).isEmpty then s.endBulk id cOk else s
  | none => s

/-- What the bytes of a piece still lack: non-resident extents and untranslated host pages. -/
inductive Lack where
  | extent (x : Nat × Nat × Nat)
  | page (p : Nat)
  | hold
  deriving DecidableEq, Repr

def State.byteLack (s : State) (fn : Nat) (c : Cap) (o : Nat) : Option Lack :=
  match translate s (capTid c.bits) (s.entryOf c) (capBase c.bits + o) with
  | .absent => some (.extent (capTid c.bits, capObj c.bits, s.extentOf c o))
  | .at_ a =>
    if ¬ s.pageOk fn a then some (.page (a % 2 ^ 57 / 4096))
    else if s.portFree fn a c o then none else some .hold
  | .bad => none

/-- What a piece lacks before the DMA engine can take it; what only holds it at its port does not count here. -/
def State.pieceLack (s : State) (b : Bulk) (p : List (Nat × Nat)) : List Lack :=
  (p.flatMap fun x => (s.byteLack b.pkt.fn b.cd x.1).toList ++ (s.byteLack b.pkt.fn b.cs x.2).toList).filter (· != .hold)

/-- The host pages a move still waits for: before it has them all it moves no byte (f04 R103). -/
def State.bulkPages (s : State) (b : Bulk) : List Lack :=
  (b.pieces.flatMap fun p => (s.pieceLack b p).filter fun x => match x with
    | .page _ => true
    | _ => false).eraseDups

/-- What is lacking is asked for. -/
def State.askLack (s : State) (fn : Nat) : Lack → State
  | .extent x => s.want x
  | .page p => s.frontAsk fn p
  | .hold => s

/-- What serving a bulk move's pieces does. -/
def bulkFx (fn : Nat) : MoverFx where
  read l s := s.meterTenant fn l false
  write l s := (s.untimedWrite fn (l.map (·.2))).meterTenant fn (l.map fun x => x.2.1) true
  request _ s := s

/-- The DMA engine puts a piece of a bulk move on its way. -/
def State.bulkPiece (s : State) (b : Bulk) (k : Nat) : State :=
  let left := { b with pieces := b.pieces.eraseIdx k }
  let s := { s with bulks := s.bulks.map fun (x : Bulk) => if x.id = b.id then left else x }
  let op : PortOp := ⟨.bulk b.id, b.pkt.fn, .dest, 20, [serverOf 0x08 20], (b.pieces.getD k []).map fun x => (x.1, some x.2, 0)⟩
  (s.moveOn op (bulkFx b.pkt.fn) s.direct s.direct).closeBulk b.id

/-- A piece of a tenant's bulk moves that has come to a byte that is not there. -/
def State.lostPiece (s : State) (tenant : Nat) : Option PortOp :=
  s.ports.find? fun p => p.tenant == tenant && (s.opAt p).isNone && (match p.who with
    | .bulk _ => true
    | _ => false)

/-- The turn of a tenant at the DMA engine: one ready piece, whichever it is; else what the first one lacks is asked for, and a
refused page ends its move (f06 R150, f04 R103). -/
def State.dmaTurn (s : State) (tenant : Nat) : Option State :=
  let all := (s.bulks.filter fun b => b.pkt.fn == tenant).flatMap fun b => (List.range b.pieces.length).map fun k => (b, k)
  let lack := fun (x : Bulk × Nat) => s.bulkPages x.1 ++ s.pieceLack x.1 (x.1.pieces.getD x.2 [])
  match all.filter fun x => (lack x).isEmpty, all with
  | [], [] => (s.lostPiece tenant).map fun p => match p.who with
    | .bulk id => (s.nudge p).closeBulk id
    | _ => s.nudge p
  | [], x :: _ =>
    let l := lack x
    let gone := l.filterMap fun y => match y with
      | .page p => if (s.func tenant).refused.contains p then some p else none
      | _ => none
    if gone.isEmpty then some (l.foldl (fun s y => s.askLack tenant y) s)
    else some ((s.dropPages tenant gone).endBulk x.1.id cHostErr)
  | r, _ =>
    let (k, s) := s.pick r.length
    (r[k]?).map fun x => s.bulkPiece x.1 x.2

/-! ### The Mule at the queues (f09 R236, R243) -/

/-- The outcome of a command as a state. -/
def Result.orElse (r : Result) (s : State) : State :=
  match r with
  | .next t => t
  | _ => s

/-- A packet's command; BADARG for a reserved operation. -/
def State.runCommand (s : State) (p : Pkt) (b : List Byte) : State :=
  let n := fun (off len : Nat) => pktNat b off len
  let w := fun (off : Nat) => BitVec.ofNat 64 (n off 8)
  let c := fun (off : Nat) => (BitVec.ofNat 256 (n off 32) : Sealed)
  let bad : Result := .next (s.ends p (n 0 1) cBadArg)
  Result.orElse (match n 0 1 with
    | 0x01 => execRegGraph p (w 8) (n 16 2) s
    | 0x02 => execLaunch p ⟨n 8 2, n 10 2, n 12 1 % 4, n 16 2⟩ s
    | 0x03 => execFeed p (n 8 2) (n 10 2) (n 12 1) (n 13 1 % 4)
        ((List.range (b.length / 64 - 1)).map fun i => BitVec.ofNat 512 (n (64 * (i + 1)) 64)) s
    | 0x04 =>
      match n 9 1 with
      | 0 => execMapObjCreate p (n 8 1) (n 12 3) (c 16) (w 48) (BitVec.ofNat 8 (n 64 1)) (w 72) (w 80) s
      | 1 => execMapObjResize p (n 8 1) (n 12 3) (c 16) s
      | 2 => execMapObjFree p (n 8 1) (n 12 3) s
      | 3 => execMapObjDerive p (n 8 1) (n 12 3) (w 48) (BitVec.ofNat 8 (n 64 1)) (w 72) (w 80) s
      | _ => bad
    | 0x05 => execCopy p (c 8) (w 40) (w 48) (c 64) (w 96) s
    | 0x06 => execWsLoad p (c 8) (w 40) (w 48) (c 64) (w 96) s
    | 0x07 =>
      match n 8 1 with
      | 0 => execSignalHostEvent p (n 9 1) (BitVec.ofNat 32 (n 20 4)) s
      | 1 => execSignalSemaphore p (n 9 1) (n 10 2) (n 12 1) (n 16 2) (BitVec.ofNat 32 (n 20 4)) s
      | _ => bad
    | 0x08 => execWait p (n 8 1) (w 16) (w 24) s
    | 0x09 => execMeter p (w 8) s
    | 0x0A => execResetQ p (n 8 1 % 16) s
    | 0x0B => execDeregGraph p (n 8 2) s
    | _ => bad) s

/-- Host pages and device extents a command reads or writes before it takes effect. -/
def State.needs (s : State) (fn : Nat) (b : List Byte) : List Lack :=
  let pages := fun (l : List Nat) => (l.filter fun p => !s.pageOk fn (4096 * p)).map Lack.page
  let w := fun (off : Nat) => hostAddr (BitVec.ofNat 64 (pktNat b off 8))
  match pktNat b 0 1 with
  | 0x01 =>
    let n := pktNat b 16 2
    let desc := pages (pagesFrom (w 8) (64 * n))
    if 64 < n ∨ ¬ desc.isEmpty then desc
    else (List.range n).flatMap fun i =>
      match unsealCap (s.tenant fn).key fn (BitVec.ofNat 256 (natOf (s.mem.readN (s.spaceOf fn (w 8 + 64 * i)) 32))) with
      | some c => (probes 0 (Nat.min (capLen c) (entLen (s.entryOf ⟨c, false⟩) - capBase c))).filterMap
          (s.byteLack fn ⟨c, false⟩)
      | none => []
  | 0x02 => pages (s.argPages fn (pktNat b 10 2))
  | 0x04 =>
    let op := pktNat b 9 1
    let image := BitVec.ofNat 256 (pktNat b 16 32)
    let img := if op = 1 then entSet image 249 3 (entHome (s.obj (pktNat b 8 1) (pktNat b 12 3)).entry) else image
    (if op = 0 ∨ op = 3 then pages (pagesFrom (w 48) 32) else []) ++
      if (op = 0 ∨ op = 1) ∧ imageOk img then pages (pagesFrom (tableSpan img).1 (8 * (tableSpan img).2)) else []
  | 0x09 => pages (pagesFrom (w 8) 480)
  | _ => []

/-- What a command lacks and the host has not refused. -/
def State.lacking (s : State) (fn : Nat) (b : List Byte) : List Lack :=
  let l := s.needs fn b
  if l.any fun x => (match x with
    | .page p => (s.func fn).refused.contains p
    | _ => false) then [] else l

/-- Everything of a list has been asked for already, or cannot be asked for now. -/
def State.askedAll (s : State) (fn : Nat) (l : List Lack) : Bool :=
  l.all fun x => match x with
    | .extent e => s.wanted.contains e
    | .page p => (s.func fn).asked.contains p || (!(s.func fn).pri.contains p && !(s.func fn).priRoom)
    | .hold => true

/-- What a source lacks is asked for; one that only waits is passed over. -/
def State.askOnce (s : State) (fn : Nat) (l : List Lack) : Option State :=
  if s.askedAll fn l then none else some (l.foldl (fun s y => s.askLack fn y) s)

/-- The head of a launch FIFO is popped and its launch starts. -/
def State.popLaunch (s : State) (fn k : Nat) (v : BitVec 64) (rest : List (Nat × BitVec 64)) : State :=
  let (p, r) := launchOf fn k v
  Result.orElse (execLaunch p r (s.setFunc fn { s.func fn with fifo := rest })) s

/-- Work at queue q of a function, or at its launch FIFO for q = 16. -/
def State.queueWork (s : State) (fn q : Nat) : Option State :=
  if q = 16 then
    match (s.func fn).fifo with
    | [] => none
    | (k, v) :: rest =>
      let pages := s.argPages fn (launchOf fn k v).2.argidx
      let absent := pages.filter fun x => !s.pageOk fn (4096 * x)
      if absent.isEmpty ∨ s.pagesRefused fn pages then some (s.popLaunch fn k v rest)
      else s.askOnce fn (absent.map .page)
  else if (s.queue fn q).fetched.isSome then none
  else match s.fetch fn q with
    | .idle => none
    | .page p => s.askOnce fn [.page p]
    | .bad code => some (s.fetchBad fn q code)
    | .packet b =>
      match s.lacking fn b with
      | [] =>
        let x := s.queue fn q
        some (((s.commitPacket fn q (b.length / 64)).chargePacket fn b).runCommand (pktOf fn q x.ridx b) b)
      | l => s.askOnce fn l

/-- One source is served, in the fixed rotation of functions, each with its queues and then its launch FIFO, from the source after
the last one served (f03 R87). -/
def State.muleTurn (s : State) : State :=
  let all := (SMap.keys s.funcs).flatMap fun fn => (List.range 17).map fun q => fn * 17 + q
  let order := (all.filter fun k => decide (s.rotate ≤ k)) ++ all.filter fun k => decide (k < s.rotate)
  match order.findSome? fun k => (s.queueWork (k / 17) (k % 17)).map fun s => (k, s) with
  | some (k, t) => { t with rotate := k + 1 }
  | none => s

end Sys2Proof.Machine
end

