-- ==== Sys2Proof/Machine/Ports.lean ====
section
/-! DEFINITION. The turn of a tenant at an untimed port of a memory: one piece of its untimed work is served (f02 R34, R35, f04 R104, f06
R150). -/
namespace Sys2Proof.Machine

/-- What serving a piece does for whose it is. -/
def State.fxOf (s : State) (p : PortOp) : MoverFx :=
  match p.who with
  | .job id => jobFx (s.job id) p.use
  | .bulk _ => bulkFx p.tenant
  | .coll ctx => collFx ctx

/-- What a move leaves to its owner: a bulk move that has performed whole completes, a repeated job counts nothing (f09 R253). -/
def State.settleOp (s old : State) (p : PortOp) : State :=
  match p.who with
  | .job id => if (old.job id).again then s.keepMeters old (ttOf (old.job id).sid) else s
  | .bulk id => s.closeBulk id
  | .coll _ => s

/-- Bytes a port takes in one gcy (f02 R34): a scratchpad bank 32, a weight-store bank group 64; a Hen's the line of a request. -/
def portWidth (server : Nat) : Nat :=
  if server / 2 ^ 16 = 0x0D then 32 else if server / 2 ^ 16 = 0x0E then 64 else 128

/-- Flits that pass a router or a bridge for a piece: its bytes, or the asking for them. -/
def PortOp.flits (p : PortOp) : Nat := if p.bytes.all (fun x => x.2.1.isSome) then 1 else (p.bytes.length + 31) / 32

/-- A tenant's receive buffer behind a router or a bridge: twice the round trip, of 1 or 4 gcy each way (f08 R207), times what its turns
deliver (f08 R212; DESIGN CHOICE, log entry 153). -/
def State.hopBuffer (s : State) (server tenant : Nat) : Nat :=
  let turns := (List.range 256).countP fun e => s.turnEntry server e == tenant
  let way := if server / 2 ^ 16 = 0x09 then 4 else 1
  2 * (2 * way) * (512 * turns) / (256 * Nat.max 1 (SMap.get (0, 0) s.reserve (server / 2 ^ 16)).1)

/-- Flits that wait show the stop bit of a buffer: it is more than half full. An empty one takes what comes. -/
def State.stopBack (s : State) (server tenant waiting : Nat) : Bool :=
  decide (waiting ≠ 0) && decide (s.hopBuffer server tenant < 2 * (32 * waiting))

/-- The port a piece would come to next shows its tenant's stop bit in the sideband (f08 R212). -/
def State.opStopped (s : State) (server : Nat) (p : PortOp) : Bool :=
  p.hops.length == 1 && match (s.opAt p).bind s.portAt with
    | some q => s.stopBack server p.tenant
        ((s.ports.filter fun x => x.tenant == p.tenant && x.hops.isEmpty && s.opServer x == some q).map PortOp.flits).sum
    | none => false

/-- A router's or bridge's turn: pieces of the tenant pass it, 16 flits a gcy (f08 R205), in their order. -/
def State.passOps (s : State) (server tenant : Nat) : State :=
  let step := fun (acc : Nat × List PortOp) (p : PortOp) =>
    if p.tenant = tenant ∧ p.hops.head? = some server ∧ acc.1 + p.flits ≤ 16 ∧ s.opStopped server p = false then (acc.1 + p.flits, acc.2 ++ [{ p with hops := p.hops.tail }])
    else (acc.1, acc.2 ++ [p])
  let s := { s with ports := (s.ports.foldl step (0, [])).2 }
  (s.ports.filter fun p => p.tenant == tenant && p.hops.isEmpty && p.asks).foldl (fun s p =>
    ({ s with ports := s.ports.erase p }.moveOn p (s.fxOf p) s.direct s.direct).settleOp s p) s

/-- The pieces of a tenant at a port. -/
def State.atPort (s : State) (server tenant : Nat) : List PortOp :=
  s.ports.filter fun p => p.tenant == tenant && s.opServer p == some server

/-- A port's turn: the first piece of the tenant that nothing holds reads its bytes at the port, or writes them there, as many as the port
is wide; a second one follows where both fit. Bytes whose extent the cache does not hold cost the turn for filling it. -/
def State.serveOps (s : State) (server tenant : Nat) : (fuel width : Nat) → Option State
  | 0, _ => none
  | fuel + 1, width =>
    ((s.atPort server tenant).find? fun p => s.opReady p server && (width == portWidth server || decide (p.bytes.length ≤ width))).map fun p =>
      match s.opMiss p server with
      | some (a, c, o) => s.xlatFill tenant a c o
      | none =>
        let mine := (s.opNext p).2.filterMap fun x => match x.2 with
          | .at_ a => if s.portAt a = some server then some a else none
          | _ => none
        let now := mine.take width
        let here := fun (a : Nat) => now.contains a || s.direct a
        let writes := (s.opNext p).1
        let s' := ({ s with ports := s.ports.erase p }.moveOn p (s.fxOf p) here (if writes then here else s.direct)).settleOp s p
        (s'.serveOps server tenant fuel (width - now.length)).getD s'

/-- A turn of a tenant at a router or bridge, or at a port. A request that has come to its Hen's router joins its queue. -/
def State.portTurn (s : State) (server tenant : Nat) : Option State :=
  if server / 2 ^ 16 = 0x08 ∨ server / 2 ^ 16 = 0x09 then
    (if s.ports.any fun p => p.tenant == tenant && p.hops.head? == some server then some (s.passOps server tenant) else none)
  else s.serveOps server tenant 2 (portWidth server)

end Sys2Proof.Machine
end

