-- ==== Sys2Proof/Machine/Fabric.lean ====
section
/-! DEFINITION. Routers, bridges and Zhoez links, the live link table, and counter alignment (f02 R26, f08 R204..R216, f02 R54). -/
namespace Sys2Proof.Machine

/-! ### Slot tables (f08 R205, R206) -/

/-- The entry that governs this gcy in a table. -/
def State.entryNow (s : State) (m : SMap (SMap Word)) (inst : Nat) : Word := SMap.get noSel (SMap.get [] m inst) (s.gclk.toNat % 256)

/-- This gcy at a resource is the flit's owner's: of its pair, or, untimed, a turn of its tenant (f02 R35). -/
def State.holds (s : State) (kind inst : Nat) (f : Flit) : Bool :=
  let g := s.gclk.toNat
  if f.owner = 0 then s.turn (serverOf kind inst) == some f.tenant
  else s.pairs.any fun p => p.kind == kind && p.inst == inst && p.owner == f.owner && g % p.s == p.ph

/-- A router's error counter rises. -/
def State.routerError (s : State) (r : Nat) : State := { s with rerr := SMap.set 0 s.rerr r (SMap.get 0 s.rerr r + 1) }

/-- Flits of an owner that came to a seat on this gcy. -/
def State.lanesTaken (s : State) (station port : Nat) (f : Flit) : Nat :=
  (SMap.get [] s.flits station).countP fun x =>
    x.port == port && x.flit.owner == f.owner && x.flit.tenant == f.tenant && x.at_ == s.gclk.toNat

/-- A flit takes a seat, in the next lane of its owner's connection on this gcy, for `left` of its owner's gcy. -/
def State.seat (s : State) (station port left : Nat) (f : Flit) : State :=
  let x : Seated := ⟨port, s.lanesTaken station port f, s.gclk.toNat, left, f⟩
  { s with flits := SMap.set [] s.flits station (SMap.get [] s.flits station ++ [x]) }

/-- 32 bytes on a bridge or a link (f09 R252). -/
def State.meterFlit (s : State) (f : Flit) (timed untimed : Nat) : State :=
  if f.owner = 0 then s.meter f.tenant untimed 32 else s.meterTt (f.owner - 1) timed 32

/-- A flit arrives in memory; bytes of an M-step's route count into its sync words (f08 R209). -/
def State.flitStore (s : State) (f : Flit) : State :=
  match f.addr with
  | some a =>
    if addrOk a ∧ addrPkg a = s.pkg ∧ addrDev a then
      let s := { s with mem := s.mem.writeN a (bytesOf 32 f.data.toNat) }
      if f.owner = 0 then s.meter f.tenant (byteMeter a true) 32
      else
        let s := s.meterTt (f.owner - 1) (byteMeter a true) 32
        (s.tagged (f.owner - 1) a).foldl (fun s w => s.syncArrive w 32) s
    else s
  | none => s

/-- The stage a bridge or link is for a flit: 4 of its owner's gcy in a bridge (f08 R207). -/
def bridgeStage (src dst : Nat) : Nat := 192 + src * 8 + dst
def linkStage (n : Nat) : Nat := 256 + n

/-- A connection carries 16 flits in a gcy, a link's 12 (f08 R205, R210): there is room for one more of this owner. -/
def State.outRoom (s : State) (router out : Nat) (f : Flit) : Bool :=
  match portTo router out with
  | .router r p => decide (s.lanesTaken r p f < 16)
  | .bridge die => decide (s.lanesTaken (bridgeStage (router / 24) die) 0 f < 16)
  | .link n => decide ((s.link n).out.length < 12)
  | _ => true

/-- A flit leaves a router by an output port. -/
def State.flitOut (s : State) (router out : Nat) (f : Flit) : State :=
  match portTo router out with
  | .router r p => s.seat r p 1 f
  | .memory => s.flitStore f
  | .bridge die => (s.meterFlit f 15 16).seat (bridgeStage (router / 24) die) 0 4 f
  | .link n =>
    let s := s.meterFlit f 17 18
    s.setLink n { s.link n with out := (s.link n).out ++ [((s.link n).out.length, f)] }
  | .unit | .nothing => s

/-- ROUTER_FLIT: on its owner's gcy the flit at an input port goes to every output its entry connects, one seat a gcy, or is dropped where the
entry connects it to none; a reserved SEL met counts as an error and no connection. Where a connection is full it waits
(DESIGN CHOICE, log entry 174). -/
def execRouterFlit (router port lane : Nat) (s : State) : Result :=
  let l := SMap.get [] s.flits router
  match l.find? fun x => x.port == port && x.lane == lane && decide (x.at_ < s.gclk.toNat) && s.holds 0x08 router x.flit with
  | none => notEnabled "ROUTER_FLIT"
  | some x =>
    let e := s.entryNow s.routers router
    let outs := (List.range 8).filter fun o => selOf e o == port
    if outs.any fun o => !s.outRoom router o x.flit then notEnabled "ROUTER_FLIT"
    else
      let s := { s with flits := SMap.set [] s.flits router (l.erase x) }
      let s := if (List.range 8).any fun o => decide (8 ≤ selOf e o ∧ selOf e o < 15) then s.routerError router else s
      if outs.isEmpty then .next (s.routerError router)
      else .next (outs.foldl (fun s o => s.flitOut router o x.flit) s)

/-- A counted error of a unit (f10 R263). -/
def State.countError (s : State) (unit inst : Nat) : State :=
  let k := unit * 2 ^ 16 + inst
  { s with secded := SMap.set 0 s.secded k (SMap.get 0 s.secded k + 1) }

/-- What the physical function reads of the error counters, and no other function. -/
def State.errorCount (s : State) (fn unit inst : Nat) : Option Nat :=
  if fn = 0 then some (SMap.get 0 s.secded (unit * 2 ^ 16 + inst)) else none

/-- A circuit's flit is lost: its bytes perform nothing and are not counted (f08 R209, R210). -/
def State.loseFlit (s : State) (f : Flit) : State :=
  match f.addr with
  | some a => { s with lostFlits := s.lostFlits ++ [(f.owner - 1, a / 32)] }
  | none => s

/-- BRIDGE_FLIT: a flit from die `src` reaches die `dst` with `errs` wrong bits: corrected and counted, or dropped; a dropped flit of
an untimed request is a machine check on its job's timetable (f08 R208, R213, f10 R263). `stream` of an untimed flit names its job. A
bridge's entry carries it where it holds some connection: which ports are a bridge's two sides is not said (DESIGN CHOICE, log entry 152). -/
def execBridgeFlit (src dst lane : Nat) (f : Flit) (errs : Nat) (s : State) : Result :=
  let key := bridgeStage src dst
  let l := SMap.get [] s.flits key
  let s := match l.find? fun x => x.lane == lane && x.flit == f with
    | some x => { s with flits := SMap.set [] s.flits key (l.erase x) }
    | none => s
  let s := if errs = 1 then s.countError 10 (src * 8 + dst) else s
  let (r, p) := bridgeSeat dst src
  if 2 ≤ errs then
    if f.owner ≠ 0 then .next (s.loseFlit f)
    else execMachineCheck (ttOf (s.job f.stream).sid) 10 0 s
  else if s.holds 0x09 (bridgeNo src dst) f = false ∨ connects (s.entryNow s.bridges (bridgeNo src dst)) = false then .next s
  else .next (s.seat r p 1 f)

/-! ### Frames (f08 R210) -/

/-- A run of a step whose failure leaves the state. -/
def State.try (s : State) (f : State → Result) : State := Result.orElse (f s) s

/-- The Hen a request is for. -/
def opPort : RemoteOp → Nat
  | .acc at_ _ _ | .stage at_ _ _ _ _ _ => henOf (at_.headD 0)
  | .cas a _ _ _ | .run a _ _ _ _ _ _ _ | .read a _ | .write a _ | .count a _ => henOf a
  | .enq h _ _ _ _ | .acq h _ | .bind h _ _ | .rel h _ _ => henOf h
  | .commit hen _ | .discard hen _ => hen

/-- A request of another package joins its Hen's queue (f07 R193). -/
def State.remoteRequest (s : State) (tenant pkg core seq : Nat) (op : RemoteOp) : State :=
  s.toHen (opPort op) ⟨0, 0, tenant, 0, 0, 0, false, 0, 0, 0, [], [], [], some (pkg, core, seq), some op, 0, 0, 0⟩

/-- A reply answers the request of that number to that Hen, by a strand of that core. -/
def State.remoteReply (s : State) (hen core seq status : Nat) (bytes : List Byte) : State :=
  match s.remotes.find? fun r => r.2.hen == hen && r.2.seq == seq && (s.placeOfStrand r.2.sid).coreNo == core with
  | some r => s.farReply r.1 status bytes
  | none => s

/-! ### The live link table (f08 R211, f02 R54) -/

/-- A route of an image placed by a plan uses a link of this package. -/
def planUses (img : Image) (place : List Place) (pkg link : Nat) : Bool :=
  let t := { Timetable.blank with img := img, place := place }
  img.msteps.any fun m => m.routes.any fun r =>
    r.kind == 0x0A && (t.placeOf (r.ldie * img.c)).pkg == pkg && routeInst t r == link

/-- Weave plans whose routes use a lost link are stale. -/
def State.staleOn (s : State) (key : LinkKey) : State :=
  let uses := fun (n : Node) => match n.plan with
    | some p => key.touches s.pkg && planUses n.image p.place s.pkg (key.linkAt s.pkg)
    | none => false
  { s with funcs := SMap.mapVals (fun _ f => { f with
      graphs := SMap.mapVals (fun _ g => g.map fun n => if uses n then { n with stale := true } else n) f.graphs }) s.funcs }

/-- A link leaves the table: LGEN rises, the Mule hears of it, plans go stale, collectives over it abort (f08 R225). -/
def State.dropLink (s : State) (key : LinkKey) : State :=
  if s.table.contains key then
    (({ s with table := s.table.filter (· != key), lgen := s.lgen + 1 }.notify 6).staleOn key).linkGone key
  else s

/-- LINK_LOSS: the link must be trained again. -/
def execLinkLoss (key : LinkKey) (s : State) : Result :=
  let s := s.dropLink key
  let s := { s with trained := s.trained.erase key }
  .next (if key.touches s.pkg then s.setLink (key.linkAt s.pkg) { s.link (key.linkAt s.pkg) with trained := false } else s)

/-- The package raised ALIGNLOSS and has not rejoined the table, or stands too deep (f08 R215). -/
def State.lostAlign (s : State) : Bool := decide (2 ≤ s.offCount) || decide (32 < s.ownDepth)

/-- A link enters the table: its transit in range, itself trained since it dropped too much, and its package not out of it. -/
def State.enterLink (s : State) (key : LinkKey) (transit : Nat) : State :=
  if 112 < transit ∨ (s.table.contains key) ∨ (key.touches s.pkg ∧ (s.lostAlign ∨ s.alignOut ∨ (s.link (key.linkAt s.pkg)).bad)) then s
  else { s with table := s.table ++ [key], lgen := s.lgen + 1 }.notify 6

/-- LINK_TRAINING, of a link of this package or of another in the domain. -/
def execLinkTraining (key : LinkKey) (transit : Nat) (s : State) : Result :=
  if key.b ≤ key.a then .next s
  else
    let s := { s with trained := if s.trained.contains key then s.trained else s.trained ++ [key] }
    let s := if key.touches s.pkg then
      s.setLink (key.linkAt s.pkg) { Link.down with trained := true, transit := transit, since := s.gclk.toNat / 2 ^ 20 } else s
    .next (s.enterLink key transit)

/-- Drops of a link, by interval of 2^20 gcy (f08 R211). -/
def Link.drop (l : Link) (g n : Nat) : Link :=
  if l.since = g / 2 ^ 20 then { l with drops := l.drops + n } else { l with since := g / 2 ^ 20, drops := n }

/-- The link of a number, as it stands among the trained ones. -/
def State.linkKey (s : State) (n : Nat) : Option LinkKey := s.trained.find? fun k => k.touches s.pkg && k.linkAt s.pkg == n

/-- Another package's ALIGNLOSS is heard while a link of it is in the table (DESIGN CHOICE, log entry 176). -/
def State.hearLoss (s : State) (pkgs : List Nat) : State :=
  { s with losses := s.losses ++ (pkgs.filter fun p => p != s.pkg && !s.losses.contains p && s.table.any fun k => k.touches p) }

/-- Flits dropped by a link: with more than 2^10 in an interval it leaves the table until it is trained again (f08 R211). -/
def State.linkDrops (s : State) (n count : Nat) : State :=
  let l := (s.link n).drop s.gclk.toNat count
  if 2 ^ 10 < l.drops then
    let s := s.setLink n { l with bad := true }
    match s.linkKey n with
    | some k => s.dropLink k
    | none => s
  else s.setLink n l

/-- The gcy of its owner a flit still stands in the link stage: 128 from its sending (f08 R207); an untimed one waits for its tenant's next
turn. -/
def State.linkLeft (s : State) (f : Flit) (sentAt : Nat) : Nat :=
  if f.owner = 0 then 1
  else
    let t := s.tt (f.owner - 1)
    let upTo := fun (g : Nat) => (g + t.stride - t.phase) / Nat.max 1 t.stride
    Nat.max 1 (128 - (upTo s.gclk.toNat - upTo sentAt))

/-- An untimed message has come to the package it is for, or goes on from the link's router. -/
def State.delivered (s : State) (n : Nat) (f : PostFlit) : State :=
  if f.dest ≠ s.pkg then s.mail f.dest f.tenant (linkSeat n).1 f.msg
  else match f.msg with
    | .goose g => s.gooseMsg g
    | .request pkg core seq op => s.remoteRequest f.tenant pkg core seq op
    | .reply hen core seq status bytes => s.remoteReply hen core seq status bytes
    | .moved m => s.acceptArea m

/-- A flit of an untimed message: the message is there with its last flit, if no flit of it was lost (f08 R210). -/
def State.postFlit (s : State) (n : Nat) (bad : Bool) (f : PostFlit) : State :=
  let l := s.link n
  let good := !bad && (f.no == 0 || SMap.get 0 l.got f.tenant == f.no)
  let s := s.setLink n { l with got := SMap.set 0 l.got f.tenant (if good && !f.last then f.no + 1 else 0) }
  if good && f.last then s.delivered n f else s

/-- LINK_FRAME: a frame whose control flit fails is dropped whole; flits with an uncorrectable codeword are dropped; the others of circuits
stand in the link stage, and untimed messages are taken in. The flit sent at GCLK mod 2^20 = 0 is noted with its arrival (f08 R214). -/
def execLinkFrame (n : Nat) (fr : Frame) (s : State) : Result :=
  if (s.link n).trained = false then .next s
  else if fr.crcOk = false then
    .next ((s.setLink n { s.link n with got := [] }).linkDrops n (fr.lanes.length + fr.posts.length + 1))
  else
    let good := fr.lanes.filter fun x => !fr.bad.contains x.1 && decide (x.1 < 12)
    let lost := fr.posts.countP fun f => fr.bad.contains f.lane
    let l := s.link n
    let s := s.setLink n { l with
      stops := fr.stop, oref := fr.oref, sentAt := fr.sentAt, seqIn := fr.seq,
      exch := if fr.sentAt % 2 ^ 20 = 0 then (fr.sentAt, s.gclk.toNat) else l.exch }
    let s := (s.linkDrops n (fr.lanes.length - good.length + lost)).hearLoss fr.losses
    let s := good.foldl (fun s x => s.seat (linkStage n) 0 (s.linkLeft x.2 fr.sentAt) x.2) s
    let s := match fr.barrier with
      | some m => s.try (execBarrierMessage n m)
      | none => s
    .next (fr.posts.foldl (fun s f => s.postFlit n (fr.bad.contains f.lane) f) s)

/-! ### What a link sends (f08 R210, R212) -/

/-- 32-byte flits of a request. -/
def opFlits : RemoteOp → Nat
  | .acc _ _ b | .stage _ _ _ _ _ b | .run _ _ _ _ _ _ _ b | .write _ b => 1 + (b.length + 31) / 32
  | .cas _ n _ _ => 1 + (16 * n + 31) / 32
  | _ => 1

/-- 32-byte flits of a message: a header and its data (the layout is not said: DESIGN CHOICE, log entry 153). -/
def Msg.flits : Msg → Nat
  | .request _ _ _ op => opFlits op
  | .reply _ _ _ _ b => 1 + (b.length + 31) / 32
  | .moved m => 1 + (m.len + m.record.length + m.sig.length + 31) / 32
  | .goose g => 1 + (match g.msg with
    | .digest w _ => (8 * w.length + 31) / 32
    | .marks b _ => (b.length + 255) / 256
    | .expo _ w _ => (2 * w.length + 31) / 32
    | .partial_ _ w k => (8 * w.length + k.length + 31) / 32
    | .result _ b | .contrib _ _ b => (b.length + 31) / 32
    | .here _ | .hold | .abort .. => 0)

/-- Bytes of a package's requests that stand in a tenant's receive buffer here: those that wait at a Hen (DESIGN CHOICE, log entry 153). -/
def State.buffered (s : State) (pkg tenant : Nat) : Nat :=
  s.hens.foldl (fun n x => if x.1 % 256 = tenant then n + ((x.2.queue.filterMap fun r => match r.from_, r.remote with
    | some y, some op => if y.1 = pkg then some (32 * opFlits op) else none
    | _, _ => none).sum) else n) 0

/-- A tenant's buffer at a link: twice the round trip times what its turns deliver (f08 R212; what that is: DESIGN CHOICE, log entry 153). -/
def State.bufferSize (s : State) (n tenant : Nat) : Nat :=
  let turns := (List.range 256).countP fun e => s.turnEntry (serverOf 0x0A n) e == tenant
  2 * (2 * (s.link n).transit) * (384 * turns) / (256 * Nat.max 1 (SMap.get (0, 0) s.reserve 0x0A).1)

/-- The tenants whose buffer at a link is more than half full. -/
def State.ownStops (s : State) (n : Nat) : List Nat :=
  match s.linkKey n with
  | some k =>
    let tenants := ((s.hens.filter fun x => !x.2.queue.isEmpty).map fun x => x.1 % 256).eraseDups
    tenants.filter fun tn => decide (s.bufferSize n tn < 2 * s.buffered (k.other s.pkg) tn)
  | none => []

/-- The way on of a message that has no link yet: the first link of a shortest way over the trained links to its package; how untimed messages
are routed is not said (DESIGN CHOICE, log entry 153). -/
def State.routePost (s : State) (p : Post) : Post :=
  if p.link.isSome ∨ ¬ p.hops.isEmpty then p
  else
    let tree := (growTree s.trained [] (s.packages.length + 1) [s.pkg] [s.pkg] []).2
    match towards tree s.pkg p.dest with
    | some v =>
      let n := linkTo tree s.pkg v
      let r := (linkSeat n).1
      { p with link := some n, hops := wayTo p.seat (r / 24) (some r), seat := r }
    | none => p

/-- Messages go on by one router or bridge whose turn is their tenant's, 16 flits of them a gcy, but not to a link at which the tenant's buffer
shows its stop bit (f02 R35, f08 R205, R212). -/
def State.postStage (s : State) : State :=
  let step := fun (acc : SMap Nat × List Post) (p : Post) =>
    match p.hops with
    | h :: rest =>
      let used := SMap.get 0 acc.1 h
      let there := s.post.filter fun q => q.hops.isEmpty && q.tenant == p.tenant && q.link == p.link
      if s.turn h = some p.tenant ∧ (used = 0 ∨ used + p.msg.flits ≤ 16) ∧
          ¬ (rest.isEmpty ∧ p.link.isSome ∧ s.stopBack h p.tenant (there.map fun q => q.msg.flits - q.sent).sum) then (SMap.set 0 acc.1 h (used + p.msg.flits), acc.2 ++ [{ p with hops := rest }])
      else (acc.1, acc.2 ++ [p])
    | [] => (acc.1, acc.2 ++ [p])
  { s with post := (((s.post.map s.routePost).foldl step ([], [])).2) }

/-- The flits of waiting messages of a tenant that fit in the lanes from `lane` on, and the messages that are left. -/
def postFlits (n tenant : Nat) : (lane : Nat) → List Post → List PostFlit × List Post
  | _, [] => ([], [])
  | lane, p :: rest =>
    let k := if p.link = some n ∧ p.tenant = tenant ∧ p.hops.isEmpty then Nat.min (12 - lane) (p.msg.flits - p.sent) else 0
    let out := (List.range k).map fun i =>
      (⟨lane + i, p.sent + i, p.sent + i + 1 == p.msg.flits, p.tenant, p.dest, p.msg⟩ : PostFlit)
    let (more, left) := postFlits n tenant (lane + k) rest
    (out ++ more, if p.sent + k < p.msg.flits then { p with sent := p.sent + k } :: left else left)

/-- Messages of a link's control flits are repeated in turn; a failure, a stop or an end for 2^16 gcy (DESIGN CHOICE, log entry 168). -/
def Link.turnBars (l : Link) (g : Nat) : List (BarMsg × Nat) :=
  (l.bars.tail ++ l.bars.take 1).filter fun x => decide (g < x.2 + 2 ^ 16)

/-- The frame a link sends on a gcy: timestamp, OREF (0 in the reference), stop bits, a barrier message, the circuit flits of the gcy, and, on
its tenant's turn and not under its stop bit, flits of untimed messages in the lanes that are left. -/
def State.sendFrame (s : State) (n : Nat) : State :=
  let l := s.link n
  let lanes := l.out.take 12
  let (posts, left) := match s.turn (serverOf 0x0A n) with
    | some tenant => if l.stops.contains tenant then ([], s.post) else postFlits n tenant lanes.length s.post
    | none => ([], s.post)
  let g := s.gclk.toNat
  let fr : Frame := ⟨l.seqOut, true, g, if s.treeParent.isNone then 0 else s.oref, s.ownStops n, l.bars.head?.map (·.1), lanes, [], posts,
    (if s.alignOut then [s.pkg] else []) ++ l.tell⟩
  let s := s.setLink n { l with
    seqOut := l.seqOut + 1, bars := l.turnBars g, out := (l.out.drop 12).zipIdx.map fun x => (x.2, x.1.2),
    exchOut := if g % 2 ^ 20 = 0 then g else l.exchOut, tell := [] }
  { s with post := left, outbox := s.outbox ++ [.frame n fr] }

/-- Every trained link of the package sends one. -/
def State.sendFrames (s : State) : State :=
  (s.trained.filter fun k => k.touches s.pkg).foldl (fun s k => s.sendFrame (k.linkAt s.pkg)) s

/-! ### Counter alignment (f02 R26, f08 R214..R216) -/

/-- The link to the parent in the alignment tree. -/
def State.parentLink (s : State) : Option Nat := s.treeParent.map fun p => linkTo s.alignTree.2 s.pkg p

/-- This package's links. -/
def State.ownLinks (s : State) : List LinkKey := s.trained.filter fun k => k.touches s.pkg

/-- The links rejoin the table after two intervals within 1 gcy of the reference (f08 R215). -/
def State.rejoin (s : State) : State :=
  let s := { s with alignOut := false, okCount := 0 }
  s.ownLinks.foldl (fun s k => s.enterLink k (s.link (k.linkAt s.pkg)).transit) s

/-- ALIGN_EXCHANGE: OREF is measured against the parent, in half gcy, by what both ends sent at GCLK mod 2^20 = 0 of their counters and when it
came: what this end has recorded, and the parent's record t2. Aligned, an
OREF of 1 gcy or more asks for a hold at the middle of the interval and one of 2 gcy or more counts toward ALIGNLOSS; not aligned, the package
holds or runs fast until |OREF| < 1. -/
def execAlignExchange (t1 t2 t3 t4 : Int) (s : State) : Result :=
  match s.parentLink with
  | none => notEnabled "ALIGN_EXCHANGE"
  | some n =>
    let l := s.link n
    if t1 % 2 ^ 20 ≠ 0 ∨ t3 % 2 ^ 20 ≠ 0 ∨ t1 ≠ l.exchOut ∨ t3 ≠ l.exch.1 ∨ t4 ≠ l.exch.2 then notEnabled "ALIGN_EXCHANGE"
    else
      let oref := l.oref + ((t1 - t2) + (t4 - t3))
      let off := decide (4 ≤ oref.natAbs)
      let close := decide (oref.natAbs < 2)
      let ok := if close then s.okCount + 1 else 0
      let s := { s with
        oref := oref, okCount := ok, aligned := s.aligned || close, offCount := if s.aligned ∧ off then s.offCount + 1 else 0,
        holdLeft := if s.aligned then (if 2 ≤ oref then 1 else 0) else if 2 ≤ oref then (oref / 2).toNat else 0,
        fastPll := !s.aligned && decide (oref ≤ -2) }
      .next (if s.alignOut ∧ 2 ≤ ok then s.rejoin else s)

/-- A hold is due on this gcy: one that aligns the package at once, an aligned package's at the middle of the interval. -/
def State.holdDue (s : State) : Bool := decide (0 < s.holdLeft) && (!s.aligned || s.gclk.toNat % 2 ^ 20 == 2 ^ 19)

/-- COUNTER_HOLD: one held gcy: nothing in the package advances, and OREF falls by 1 gcy; within 1 gcy of the reference the package is aligned
(f08 R216). -/
def execCounterHold (s : State) : Result :=
  if s.holdDue then
    let oref := s.oref - 2
    .next { s with holdLeft := s.holdLeft - 1, oref := oref, aligned := s.aligned || decide (oref.natAbs < 2) }
  else notEnabled "COUNTER_HOLD"

/-- A timetable here has a route over a link of this package. -/
def State.crossRoute (s : State) (t : Timetable) : Bool := (s.localRoutes t).any fun r => r.kind == 0x0A

/-- Timetables in an M-step with a route over a link of this package that leads to a package fail that step (f08 R215). -/
def State.loseRoutes (s : State) (links : List LinkKey) : State :=
  let uses := fun (t : Timetable) => (s.localRoutes t).any fun r => r.kind == 0x0A && links.any fun k => k.linkAt s.pkg == routeInst t r
  { s with tts := SMap.mapVals (fun _ t => if t.life = 1 ∧ t.mstep.isSome ∧ uses t then { t with lost := true } else t) s.tts }

/-- Another package's ALIGNLOSS: its links leave the table, timetables with a cross-package route through it end their M-steps in a step
failure, and the neighbours are told (f08 R215). -/
def State.othersLoss (s : State) (pkg : Nat) : State :=
  let gone := s.trained.filter fun k => k.touches pkg
  let s := (gone.foldl (fun s k => s.dropLink k) s).loseRoutes (gone.filter fun k => k.touches s.pkg)
  { s with links := SMap.mapVals (fun _ l => { l with tell := l.tell ++ [pkg] }) s.links }

/-- ALIGNLOSS. This package raises its own: its links leave the table, it holds its counter by ⌊OREF⌋ at once or runs fast, and is not aligned;
where it has none to raise, it acts on another package's that it has heard of (f08 R215, R216). -/
def execAlignloss (s : State) : Result :=
  if s.lostAlign = false ∨ (s.offCount < 2 ∧ s.aligned = false ∧ s.ownLinks.all fun k => !s.table.contains k) then
    match s.losses with
    | [] => notEnabled "ALIGNLOSS"
    | p :: rest => .next (State.othersLoss { s with losses := rest } p)
  else
    let s := { s with
      aligned := false, okCount := 0, offCount := 0, alignOut := true, holdLeft := if 2 ≤ s.oref then (s.oref / 2).toNat else 0,
      fastPll := decide (s.oref ≤ -2) }
    let s := s.ownLinks.foldl (fun s k => s.dropLink k) s
    .next (s.loseRoutes s.ownLinks)

/-- GCLK_LOAD: once after a cold reset, before any timetable is admitted, from the parent link's last timestamp and its transit. -/
def execGclkLoad (s : State) : Result :=
  match s.parentLink with
  | none => notEnabled "GCLK_LOAD"
  | some n =>
    if s.loaded ∨ (s.tts.any fun x => x.2.placed) then notEnabled "GCLK_LOAD"
    else
      let g := (s.link n).sentAt + (s.link n).transit
      .next { s with gclk := BitVec.ofNat 64 g, loaded := true, loadedAt := g }

end Sys2Proof.Machine
end

