-- ==== Sys2Proof/Machine/Tenants.lean ====
section
/-! DEFINITION. Tenants and their turns, TDISP and SPDM, the life cycle and bring-up (f01 R23, f02 R35, f04 R116, R118, f09 R228..R231,
R250..R257, f10 R280). -/
namespace Sys2Proof.Machine

/-! ### Creation and teardown (f09 R251) -/

/-- TENANT_CREATE: a new sealing key, an empty object table, meters at zero, a new snapshot chain. The settings of system software stay. -/
def execTenantCreate (n : Nat) (s : State) : Result :=
  let t := s.tenant n
  if n = 0 ∨ 255 < n ∨ t.live ∨ t.closing then .next s
  else .next { (s.wipeObjects n).setTenant n { t with
    live := true, key := s.keys, objs := [], meters := [], before := [], snaps := 0, prev := 0, last := [], images := [] } with keys := s.keys + 1 }

/-- Requests of a function leave the admission order; a compaction or a pre-emption under way for one is given up, and its victim goes on,
unless that is stopping. -/
def State.dropRequests (s : State) (fn : Nat) : State :=
  let mine := fun (r : AdmReq) => (s.launch (if r.kind = 1 then (s.tt r.tt).launch else r.launch)).fn == fn
  let gone := (s.requests.filter mine).map (·.id)
  let s := match s.compact with
    | some c => if gone.contains c.req then
        match s.requests.find? (fun (r : AdmReq) => r.id == c.req) with
        | some r => (s.dropCompaction c).giveBack r r.tt
        | none => s.dropCompaction c
      else s
    | none => s
  let s := match s.preempt with
    | some p => if gone.contains p.req then
        let s := { s with preempt := none }
        if (s.tt p.victim).cause = 0 then (s.wakeStrands p.victim 0).dropSave p.victim else s
      else s
    | none => s
  { s with requests := s.requests.filter fun r => !mine r }

/-- Every timetable of a tenant stops at once, in place, suspended ones too; one whose save is in progress as SAVEABORT (f10 R260, R280). -/
def State.stopTenant (s : State) (n : Nat) : State :=
  (SMap.keys s.tts).foldl (fun s k =>
    let t := s.tt k
    if t.tenant = n ∧ (t.placed ∨ t.life = 3) then
      (s.setTt k { t with
        cause := if s.preempting k ∧ ¬ s.committed k then 6 else 5, causeAux := 0, stopSid := none }).haltAll k
    else s) s

/-- A function's queues become DISABLED and its launch FIFO is emptied (f09 R230, R251). -/
def State.shutFunc (s : State) (n : Nat) : State :=
  let f := s.func n
  s.setFunc n { f with queues := SMap.mapVals (fun _ q => q.disable) f.queues, fifo := [] }

/-- Teardown: queues disabled, the FIFO emptied, the timetables stopped; the final snapshot and the end of the keys come once they
have. Tenant 0 is torn down by a change of the life cycle alone. -/
def State.teardown (s : State) (n : Nat) : State :=
  let t := s.tenant n
  if t.live = false ∨ t.closing then s
  else
    let s := s.shutFunc n
    let s := s.setFunc n { s.func n with graphs := [] }
    let s := (s.setTenant n { s.tenant n with closing := true }).stopTenant n
    let s := s.dropRequests n
    let s := { s with
      bulks := s.bulks.filter fun b => b.pkt.fn != n,
      ports := s.ports.filter fun p => !(s.bulks.any fun b => b.pkt.fn == n && p.who == Mover.bulk b.id),
      launches := SMap.mapVals (fun _ l => if l.fn = n then { l with live := false } else l) s.launches }
    s.finishTeardown n

def execTenantTeardown (n : Nat) (s : State) : Result := .next (if n = 0 then s else s.teardown n)

/-- TDI_ERROR: the TDI of a virtual function enters ERROR, which tears its tenant down (f09 R230, R251). -/
def State.tdiFails (s : State) (fn : Nat) : State :=
  if fn = 0 then s else ((s.setFunc fn { s.func fn with tdi := .error }).shutFunc fn).teardown fn

def execTdiError (fn : Nat) (s : State) : Result := .next (s.tdiFails fn)

/-- TDISP_MESSAGE: a TDI of a virtual function is locked, started, unlocked again, or fails. -/
def execTdispMessage (fn : Nat) (dest : TdiState) (s : State) : Result :=
  let f := s.func fn
  if fn = 0 then .next s
  else match dest, f.tdi with
    | .locked, .unlocked => .next (s.setFunc fn { f with tdi := .locked })
    | .run, .locked => .next (s.setFunc fn { f with tdi := .run })
    | .unlocked, _ => .next (s.setFunc fn { f with tdi := .unlocked })
    | .error, _ => .next (s.tdiFails fn)
    | _, _ => .next s

/-- ATS_INVALIDATION (f09 R228): the translation is dropped and the completion sent. -/
def execAtsInvalidation (fn page : Nat) (s : State) : Result :=
  let f := s.func fn
  let s := s.setFunc fn { f with ats := f.ats.filter (· != page) }
  .next { s with outbox := s.outbox ++ [.atsDone fn page] }

/-! ### Tenant turns (f02 R35) -/

/-- TENANT_TURN: on its gcy a server does one piece of work of the tenant its table names. -/
def execTenantTurn (server : Nat) (s : State) : Result :=
  let done := match s.turn server with
    | none => none
    | some tenant =>
      match server / 2 ^ 16 with
      | 0x04 => s.engineTurn server tenant
      | 0x0B => s.gooseTurn (server % 2 ^ 16) tenant
      | 0x0C => s.dmaTurn tenant
      | 0x05 | 0x07 | 0x08 | 0x09 | 0x0D | 0x0E => s.portTurn server tenant
      | _ => none
  match done with
  | some s => .next s
  | none => notEnabled "TENANT_TURN"

/-! ### SPDM (f09 R231, R255) -/

/-- The board controller's responder over MCTP, beside functions 0..255. -/
def mctpFn : Nat := 256

/-- A response; codes are those of SPDM 1.3 (PRESUMED, log entry 56). -/
def State.answers (s : State) (fn code : Nat) (bytes : List Byte) : State := { s with outbox := s.outbox ++ [.spdm fn code bytes] }

/-- ERROR with InvalidRequest. -/
def State.spdmError (s : State) (fn : Nat) : State := s.answers fn 0x7F [0x01]

/-- A response whose content the spec does not fix. -/
def State.answersFree (s : State) (fn code : Nat) (more : List Byte) : State :=
  State.answers { s with choices := s.choices + 1 } fn code (Config.spdmBytes s.choices ++ more)

def execGetVersion (fn : Nat) (s : State) : Result := .next (s.answers fn 0x04 [0x13])
def execGetCapabilities (fn : Nat) (s : State) : Result := .next (s.answersFree fn 0x61 [])
def execNegotiateAlgorithms (fn : Nat) (p384 sha384 : Bool) (s : State) : Result :=
  .next (if p384 ∧ sha384 then s.answersFree fn 0x63 [] else s.spdmError fn)
def execGetDigests (fn : Nat) (s : State) : Result :=
  .next (s.answers fn 0x01 (bytesOf 48 (Config.sha384 (Config.certChain s.aliasOf fn)).toNat))
def execGetCertificate (fn off len : Nat) (s : State) : Result :=
  .next (s.answers fn 0x02 (((Config.certChain s.aliasOf fn).drop off).take len))

/-- A signature under the device alias key over what the responder says and the requester's nonce. -/
def State.signedAnswer (s : State) (fn code : Nat) (nonce : Sealed) : State :=
  let said := Config.spdmBytes s.choices
  s.answersFree fn code (s.signed (said ++ bytesOf 32 nonce.toNat))

def execChallenge (fn : Nat) (nonce : Sealed) (s : State) : Result := .next (s.signedAnswer fn 0x03 nonce)

/-- KEY_EXCHANGE opens a session; the selection is tenant 0 until SELECT_TENANT. -/
def execKeyExchange (fn : Nat) (nonce : Sealed) (s : State) : Result :=
  .next ((s.setFunc fn { s.func fn with session := true, sel := 0 }).signedAnswer fn 0x64 nonce)

def execSpdmSessionMessage (fn : Nat) (msg : SessMsg) (s : State) : Result :=
  let f := s.func fn
  if f.session = false then .next (s.spdmError fn)
  else match msg with
    | .finish => .next (s.answersFree fn 0x65 [])
    | .heartbeat => .next (s.answers fn 0x68 [])
    | .keyUpdate => .next (s.answers fn 0x69 [])
    | .endSession => .next ((s.setFunc fn { f with session := false, sel := 0 }).answers fn 0x6C [])

/-- The physical function or the board controller. -/
def ownFn (fn : Nat) : Bool := fn == 0 || fn == mctpFn

def execSelectTenant (fn tenant : Nat) (s : State) : Result :=
  .next (if ownFn fn ∧ tenant < 256 then (s.setFunc fn { s.func fn with sel := tenant }).answers fn 0x7E [] else s.spdmError fn)

/-- Measurement 0x05: entitlement strides, reserves, and turn-table entries that differ from reset (layout DESIGN CHOICE, log entry
56). -/
def State.weaverConfig (s : State) : List Byte :=
  ((List.range 256).flatMap fun n => bytesOf 1 (s.tenant n).entitle) ++
    ((List.range 10).flatMap fun k => let r := SMap.get (0, 0) s.reserve (k + 1); bytesOf 1 r.1 ++ bytesOf 1 r.2) ++
    s.turns.flatMap fun x => x.2.flatMap fun y => bytesOf 4 x.1 ++ bytesOf 1 y.1 ++ bytesOf 1 y.2

def execGetMeasurements (fn index : Nat) (s : State) : Result :=
  let digest := fun (k : Nat) => bytesOf 48 (Config.measured k).toNat
  match index with
  | 0x01 => .next (s.answers fn 0x60 (digest 1))
  | 0x02 => .next (s.answers fn 0x60 (bytesOf 48 (Config.sha384 s.firmware).toNat))
  | 0x03 => .next (s.answers fn 0x60 (bytesOf 48 (Config.sha384 s.routines).toNat))
  | 0x04 => .next (s.answers fn 0x60 (bytesOf 1 s.lifecycle ++ digest 4))
  | 0x05 => .next (if ownFn fn then s.answers fn 0x60 s.weaverConfig else s.spdmError fn)
  | 0x10 =>
    let n := if ownFn fn then (s.func fn).sel else fn
    if (s.tenant n).live then
      let (_, b, s) := s.snapshot n
      .next (s.answers fn 0x60 b)
    else .next (s.answers fn 0x60 (s.tenant n).last)
  | _ => .next (s.spdmError fn)

/-! ### Life cycle and bring-up (f01 R23, f09 R256, R257) -/

/-- Every memory of the device is wiped and every tenant's key destroyed; tenant 0, which always exists, has a new one. -/
def State.wipeAll (s : State) : State :=
  let s := (SMap.keys s.tenants).foldl (fun s n => s.teardown n) s
  let s := { s with mem := s.mem.filter (fun x => !addrDev x.1), sram := [], gates := [] }
  let s := (SMap.keys s.tenants).foldl (fun s n => s.setTenant n { s.tenant n with objs := [], images := [] }) s
  { s.setTenant 0 { s.tenant 0 with key := s.keys } with keys := s.keys + 1 }

def execLifecycleRead (s : State) : Result := .next { s with outbox := s.outbox ++ [.mctp (bytesOf 1 s.lifecycle)] }

/-- MANUFACTURE to PROVISIONED: the device identity key is generated (f09 R256). -/
def execProvision (s : State) : Result :=
  .next (if s.lifecycle = 0 then { s.wipeAll with lifecycle := 1, identity := s.identity + 1 } else s)

/-- PROVISIONED to DEPLOYED, through the physical function. -/
def execClaim (byFn : Nat) (s : State) : Result :=
  .next (if s.lifecycle = 1 ∧ byFn = 0 then { s.wipeAll with lifecycle := 2 } else s)

/-- DEPLOYED to RETURNED, by an authorisation the vendor has signed: the device identity key is destroyed (f09 R256). -/
def execReturn (auth sig : List Byte) (s : State) : Result :=
  .next (if s.lifecycle = 2 ∧ Config.verify auth sig then { s.wipeAll with lifecycle := 3, identity := 0 } else s)

/-- COLD_RESET: what is left is the fuses, the host's memory and the package's number; a firmware image whose signature does not verify
leaves the device before step 2 of f09 R257, with no firmware. A verified one is measured and starts on all 32 Mule cores. Links train and
counters align by their own steps. -/
def execColdReset (image sig : List Byte) (s : State) : Result :=
  let good := Config.verify image sig
  .next { State.reset with
    pkg := s.pkg, mem := s.mem.filter (fun x => !addrDev x.1), lifecycle := s.lifecycle, identity := s.identity, routines := s.routines,
    firmware := if good then image else [],
    keys := s.keys + 1, tenants := [(0, { Tenant.none with live := true, key := s.keys })], choices := s.choices,
    outbox := s.outbox, agenda := s.agenda, bringup := if good then 5 else 1 }

/-- CONFIG_REQUEST: Request Retry Status until bring-up is complete. -/
def execConfigRequest (s : State) : Result := .next (if s.bringup < 5 then { s with outbox := s.outbox ++ [.retry] } else s)

end Sys2Proof.Machine
end

