-- ==== Sys2Proof/Machine/Virbel.lean ====
section
/-! DEFINITION. The Virbel instructions of the Mule cores (f09 R244, R245). -/
namespace Sys2Proof.Machine

/-- Registers of a hart; x0 reads 0 and discards writes (RISC-V; PRESUMED, log entry 9). -/
def Hart.rx (h : Hart) (r : Nat) : BitVec 64 := if r = 0 then 0 else SMap.get 0 h.x r
def Hart.wx (h : Hart) (r : Nat) (v : BitVec 64) : Hart := if r = 0 then h else { h with x := SMap.set 0 h.x r v }

/-- An instruction's result, and the pc past it. -/
def Hart.done (h : Hart) (rd : Nat) (v : BitVec 64) : Hart := let h := h.wx rd v; { h with pc := h.pc + 4 }

/-- The exception causes of Virbel. -/
def vbRing : Nat := 24
def vbField : Nat := 25
def vbSig : Nat := 26
def vbDisp : Nat := 27

/-- A Virbel word runs in machine mode only. -/
def virbel (s : State) (f : Fin 32 → State) : Result :=
  hartOnly s fun n => if (s.hart n).mode = 3 then f n else s.hartIllegal n

/-- A Virbel fault. -/
def State.virbelFault (s : State) (n : Fin 32) (cause : Nat) (val : BitVec 64) : State := s.setHart n ((s.hart n).trap cause val)

/-! ### vb.bfx -/

def execVbBfx (rs2 rs1 rd : BitVec 5) (s : State) : Result :=
  virbel s fun n =>
    let h := s.hart n
    let f := h.rx rs2.toNat
    let lo := bits f 5 0
    let wm1 := bits f 13 8
    if bits f 7 6 ≠ 0 ∨ bits f 63 14 ≠ 0 ∨ 64 < lo + wm1 + 1 then s.virbelFault n vbField f
    else s.setHart n (h.done rd.toNat (BitVec.ofNat 64 ((h.rx rs1.toNat).toNat / 2 ^ lo % 2 ^ (wm1 + 1))))

/-! ### vb.rfetch -/

/-- The commit of a fetched packet, which takes effect with it, on the bytes the fetch checked (f09 R243). -/
def State.retire (s : State) (fn q : Nat) (b : List Byte) : State :=
  (s.commitPacket fn q (b.length / 64)).runCommand (pktOf fn q (s.queue fn q).ridx b) b

/-- A buffer of eight slots lies in the Mule's local SRAM. -/
def State.inSram (s : State) (a : Nat) : Bool := decide (s.sramBase ≤ a) && decide (a + 512 ≤ s.sramBase + s.sramLen)

/-- A store to the harts' memory; other harts' reservations of a byte of it end. -/
def State.sramWrite (s : State) (a : Nat) (b : List Byte) : State :=
  { s with
    sram := s.sram.writeN a b,
    harts := s.harts.map fun h => { h with resv := h.resv.filter fun r => decide (r + 8 ≤ a) || decide (a + b.length ≤ r) } }

/-- The hart that serves a queue, or a launch FIFO as queue 16 (f09 R245; which does is the Mule's own: log entry 58). -/
def State.servedBy (s : State) (fn q : Nat) : Nat := SMap.get 0 s.served (fn * 17 + q)

/-- The fetch half: the packet's slots go to the buffer, its header to rd; a host page still to come holds the word, whose RETIRE is not
repeated. A packet fetched before stays fetched while there is no other (f09 R233). -/
def State.rfetch (s : State) (n : Fin 32) (rd fn q buf : Nat) (retired : Bool) : State :=
  let put := fun (s : State) (v : BitVec 64) => s.setHart n { (s.hart n).done rd v with retired := false }
  match s.fetch fn q with
  | .idle => put s 0
  | .page p => (s.frontAsk fn p).setHart n { s.hart n with retired := retired }
  | .bad code => put (s.fetchBad fn q code) (BitVec.ofNat 64 code)
  | .packet b =>
    let hdr := BitVec.ofNat 64 (pktNat b 0 8)
    let s := (s.setQueue fn q { s.queue fn q with fetched := some b }).chargePacket fn b
    put (s.sramWrite buf b) hdr

def execVbRfetch (rs2 rs1 rd : BitVec 5) (s : State) : Result :=
  virbel s fun n =>
    let h := s.hart n
    let a := h.rx rs1.toNat
    let b := h.rx rs2.toNat
    let fn := bits a 11 4
    let q := bits a 3 0
    let buf := bits b 63 6 * 64
    let got := (s.queue fn q).fetched
    let retire := b.getLsbD 0 && !h.retired
    if (s.queue fn q).st = 0 ∨ s.servedBy fn q ≠ n then s.virbelFault n vbRing a
    else if bits b 5 2 ≠ 0 ∨ s.inSram buf = false ∨ (retire ∧ got.isNone) then s.virbelFault n vbRing b
    else
      let s := match got with
        | some x => if retire then s.retire fn q x else s
        | none => s
      if b.getLsbD 1 then s.setHart n ((s.hart n).done rd.toNat 0) else s.rfetch n rd.toNat fn q buf (b.getLsbD 0)

/-! ### vb.sigwait -/

/-- The pending signals of a hart: KICK and LAUNCH as the queues and launch FIFOs assigned to it stand, the others as they have been raised
(log entry 58). -/
def State.signals (s : State) (n : Fin 32) : BitVec 64 :=
  let kick := s.funcs.any fun f => f.2.queues.any fun q => s.servedBy f.1 q.1 == n && q.2.st == 1 && q.2.latch != q.2.ridx
  let launch := s.funcs.any fun f => s.servedBy f.1 16 == n && !f.2.fifo.isEmpty
  BitVec.ofNat 64 (b2n kick + 2 * b2n launch + s.mule.toNat / 4 * 4)

def execVbSigwait (rs2 rs1 rd : BitVec 5) (s : State) : Result :=
  virbel s fun n =>
    let h := s.hart n
    let m := h.rx rs1.toNat
    let t := (h.rx rs2.toNat).toNat
    if bits m 63 8 ≠ 0 then s.virbelFault n vbSig m
    else if s.signals n &&& m ≠ 0 ∨ t = 0 then s.setHart n (h.done rd.toNat (s.signals n &&& m))
    else s.setHart n { h with sleep := some (rd.toNat, m, s.gclk.toNat + (t + 1) / 2) }

/-- SIGWAIT_WAKE: a masked signal is pending, or the time is up (the Mule runs two cycles a gcy: f00, f01 R14). -/
def execSigwaitWake (n : Nat) (s : State) : Result :=
  if hn : n < 32 then
    let k : Fin 32 := ⟨n, hn⟩
    let h := s.hart k
    match h.sleep with
    | some (rd, m, t) =>
      if s.signals k &&& m ≠ 0 ∨ t ≤ s.gclk.toNat then .next (s.setHart k ({ h with sleep := none }.done rd (s.signals k &&& m)))
      else notEnabled "SIGWAIT_WAKE"
    | none => notEnabled "SIGWAIT_WAKE"
  else notEnabled "SIGWAIT_WAKE"

/-! ### vb.dispatch -/

/-- A request handed on by itself: the node it names, when that waits. -/
def State.handRequest (s : State) (b : BitVec 512) : State :=
  let (lid, node, cls) := Config.requestOf b
  if (s.launch lid).live ∧ (s.launch lid).node node = 0 then (s.setNode lid node 1).dispatch 0 lid node 0 (cls % 4) [] else s

def execVbDispatch (rs2 rs1 rd : BitVec 5) (s : State) : Result :=
  virbel s fun n =>
    let h := s.hart n
    let a := h.rx rs1.toNat
    let t := h.rx rs2.toNat
    let fn := bits t 7 0
    let q := bits t 11 8
    let alone := t.getLsbD 13
    let fromFifo := t.getLsbD 12
    let fifo := (s.func fn).fifo
    let got := (s.queue fn q).fetched
    if a.toNat % 64 ≠ 0 then s.virbelFault n vbDisp a
    else if bits t 63 14 ≠ 0 ∨ (¬ alone ∧ (if fromFifo then fifo.isEmpty else got.isNone)) then s.virbelFault n vbDisp t
    else if Config.orderRoom s.requests.length = false then s.setHart n (h.done rd.toNat 1)
    else
      let s := { s with muleDown := false }
      let s := if alone then s.handRequest (BitVec.ofNat 512 (natOf (s.sram.readN a.toNat 64)))
        else if fromFifo then match fifo with
          | (k, v) :: rest => s.popLaunch fn k v rest
          | [] => s
        else match got with
          | some x => s.retire fn q x
          | none => s
      s.setHart n ((s.hart n).done rd.toNat 0)

end Sys2Proof.Machine
end

