-- ==== Sys2Proof/Machine/Dispatch.lean ====
section
/-! DEFINITION. One arm per row of the opcode table: each calls its meaning. -/
namespace Sys2Proof.Machine

def exec (i : Instr) (s : State) : Host.Outcome State Fault Refusal :=
  match i with
  | .bndl d s1 f l m => Sys2Proof.Machine.execBndl d s1 f l m s
  | .nop => Sys2Proof.Machine.execNop s
  | .add d a b => Sys2Proof.Machine.execAdd d a b s
  | .sub d a b => Sys2Proof.Machine.execSub d a b s
  | .mul d a b => Sys2Proof.Machine.execMul d a b s
  | .mulh d a b => Sys2Proof.Machine.execMulh d a b s
  | .div d a b => Sys2Proof.Machine.execDiv d a b s
  | .rem d a b => Sys2Proof.Machine.execRem d a b s
  | .and_ d a b => Sys2Proof.Machine.execAnd d a b s
  | .or_ d a b => Sys2Proof.Machine.execOr d a b s
  | .xor_ d a b => Sys2Proof.Machine.execXor d a b s
  | .shl d a b => Sys2Proof.Machine.execShl d a b s
  | .shr d a b => Sys2Proof.Machine.execShr d a b s
  | .sar d a b => Sys2Proof.Machine.execSar d a b s
  | .min d a b => Sys2Proof.Machine.execMin d a b s
  | .max d a b => Sys2Proof.Machine.execMax d a b s
  | .slt d a b => Sys2Proof.Machine.execSlt d a b s
  | .sel d a b x => Sys2Proof.Machine.execSel d a b x s
  | .clz d a => Sys2Proof.Machine.execClz d a s
  | .popc d a => Sys2Proof.Machine.execPopc d a s
  | .agen d a b x => Sys2Proof.Machine.execAgen d a b x s
  | .getcycGclk d => Sys2Proof.Machine.execGetcycGclk d s
  | .getcycVclk d => Sys2Proof.Machine.execGetcycVclk d s
  | .cinc d a b => Sys2Proof.Machine.execCinc d a b s
  | .csetb d a b => Sys2Proof.Machine.execCsetb d a b s
  | .crestr d a b => Sys2Proof.Machine.execCrestr d a b s
  | .clrt d a b x => Sys2Proof.Machine.execClrt d a b x s
  | .addi d a i1 => Sys2Proof.Machine.execAddi d a i1 s
  | .bfx d a l w => Sys2Proof.Machine.execBfx d a l w s
  | .bfi d a l w => Sys2Proof.Machine.execBfi d a l w s
  | .rdcsr d c => Sys2Proof.Machine.execRdcsr d c s
  | .wrcsr a c => Sys2Proof.Machine.execWrcsr a c s
  | .movi d h i1 => Sys2Proof.Machine.execMovi d h i1 s
  | .movhi d h i1 => Sys2Proof.Machine.execMovhi d h i1 s
  | .trap i1 => Sys2Proof.Machine.execTrap i1 s
  | .br a c o => Sys2Proof.Machine.execBr a c o s
  | .jmp o => Sys2Proof.Machine.execJmp o s
  | .call a o => Sys2Proof.Machine.execCall a o s
  | .ret a => Sys2Proof.Machine.execRet a s
  | .loopImm l n c => Sys2Proof.Machine.execLoopImm l n c s
  | .loopReg l n r => Sys2Proof.Machine.execLoopReg l n r s
  | .lds d a b x => Sys2Proof.Machine.execLds d a b x s
  | .sts d a b x => Sys2Proof.Machine.execSts d a b x s
  | .sfadd d a b => Sys2Proof.Machine.execSfadd d a b s
  | .sfmul d a b => Sys2Proof.Machine.execSfmul d a b s
  | .sfma d a b x => Sys2Proof.Machine.execSfma d a b x s
  | .sfcmp d a b x => Sys2Proof.Machine.execSfcmp d a b x s
  | .sfcvt d a x => Sys2Proof.Machine.execSfcvt d a x s
  | .sdot4 d a b x => Sys2Proof.Machine.execSdot4 d a b x s
  | .exit n => Sys2Proof.Machine.execExit n s
  | .sstep => Sys2Proof.Machine.execSstep s
  | .sstepM n => Sys2Proof.Machine.execSstepM n s
  | .svcNull => Sys2Proof.Machine.execSvcNull s
  | .svcHostev => Sys2Proof.Machine.execSvcHostev s
  | .svcSnapshot => Sys2Proof.Machine.execSvcSnapshot s
  | .svcLinkgen => Sys2Proof.Machine.execSvcLinkgen s
  | .svcComplete sid => Sys2Proof.Machine.execSvcComplete sid s
  | .wqpop d a q => Sys2Proof.Machine.execWqpop d a q s
  | .wqwait q => Sys2Proof.Machine.execWqwait q s
  | .wqwaitComplete sid => Sys2Proof.Machine.execWqwaitComplete sid s
  | .vadd z d a b g t => Sys2Proof.Machine.execVadd z d a b g t s
  | .vsub z d a b g t => Sys2Proof.Machine.execVsub z d a b g t s
  | .vmul z d a b g t => Sys2Proof.Machine.execVmul z d a b g t s
  | .vfma z d a b g t => Sys2Proof.Machine.execVfma z d a b g t s
  | .vmin z d a b g t => Sys2Proof.Machine.execVmin z d a b g t s
  | .vmax z d a b g t => Sys2Proof.Machine.execVmax z d a b g t s
  | .vabs z d a g t => Sys2Proof.Machine.execVabs z d a g t s
  | .vand z d a b g t => Sys2Proof.Machine.execVand z d a b g t s
  | .vor z d a b g t => Sys2Proof.Machine.execVor z d a b g t s
  | .vxor z d a b g t => Sys2Proof.Machine.execVxor z d a b g t s
  | .vshl z d a b g t => Sys2Proof.Machine.execVshl z d a b g t s
  | .vshr z d a b g t => Sys2Proof.Machine.execVshr z d a b g t s
  | .vsar z d a b g t => Sys2Proof.Machine.execVsar z d a b g t s
  | .vcmpEq p a b g t => Sys2Proof.Machine.execVcmpEq p a b g t s
  | .vcmpNe p a b g t => Sys2Proof.Machine.execVcmpNe p a b g t s
  | .vcmpLt p a b g t => Sys2Proof.Machine.execVcmpLt p a b g t s
  | .vcmpLe p a b g t => Sys2Proof.Machine.execVcmpLe p a b g t s
  | .vsel d a b s1 => Sys2Proof.Machine.execVsel d a b s1 s
  | .vaddH16 z d a b g => Sys2Proof.Machine.execVaddH16 z d a b g s
  | .vaddB16 z d a b g => Sys2Proof.Machine.execVaddB16 z d a b g s
  | .vsubH16 z d a b g => Sys2Proof.Machine.execVsubH16 z d a b g s
  | .vsubB16 z d a b g => Sys2Proof.Machine.execVsubB16 z d a b g s
  | .vmulH16 z d a b g => Sys2Proof.Machine.execVmulH16 z d a b g s
  | .vmulB16 z d a b g => Sys2Proof.Machine.execVmulB16 z d a b g s
  | .vfmaH16 z d a b g => Sys2Proof.Machine.execVfmaH16 z d a b g s
  | .vfmaB16 z d a b g => Sys2Proof.Machine.execVfmaB16 z d a b g s
  | .vminH16 z d a b g => Sys2Proof.Machine.execVminH16 z d a b g s
  | .vminB16 z d a b g => Sys2Proof.Machine.execVminB16 z d a b g s
  | .vmaxH16 z d a b g => Sys2Proof.Machine.execVmaxH16 z d a b g s
  | .vmaxB16 z d a b g => Sys2Proof.Machine.execVmaxB16 z d a b g s
  | .vcvt z d a c g => Sys2Proof.Machine.execVcvt z d a c g s
  | .vsf z d a f g => Sys2Proof.Machine.execVsf z d a f g s
  | .vrotr z d a b g => Sys2Proof.Machine.execVrotr z d a b g s
  | .vrotc z d a b g => Sys2Proof.Machine.execVrotc z d a b g s
  | .vbcr z d a c g => Sys2Proof.Machine.execVbcr z d a c g s
  | .vbcc z d a r g => Sys2Proof.Machine.execVbcc z d a r g s
  | .vredr z d a o g t => Sys2Proof.Machine.execVredr z d a o g t s
  | .vredc z d a o g t => Sys2Proof.Machine.execVredc z d a o g t s
  | .vcomp z d a m => Sys2Proof.Machine.execVcomp z d a m s
  | .vexpd z d a m => Sys2Proof.Machine.execVexpd z d a m s
  | .vslup z d a b g => Sys2Proof.Machine.execVslup z d a b g s
  | .vsldn z d a b g => Sys2Proof.Machine.execVsldn z d a b g s
  | .vperm z d a b g => Sys2Proof.Machine.execVperm z d a b g s
  | .vmov z d a g => Sys2Proof.Machine.execVmov z d a g s
  | .vsplati z d i1 g t => Sys2Proof.Machine.execVsplati z d i1 g t s
  | .vsplats z d a g t => Sys2Proof.Machine.execVsplats z d a g t s
  | .vget d a b => Sys2Proof.Machine.execVget d a b s
  | .vput d a b => Sys2Proof.Machine.execVput d a b s
  | .vmmul z d a b g k => Sys2Proof.Machine.execVmmul z d a b g k s
  | .vmadd z d a b g k => Sys2Proof.Machine.execVmadd z d a b g k s
  | .vmsub z d a b g k => Sys2Proof.Machine.execVmsub z d a b g k s
  | .vmred z d a g k => Sys2Proof.Machine.execVmred z d a g k s
  | .vbfly z d a b g k => Sys2Proof.Machine.execVbfly z d a b g k s
  | .vbflyGs z d a b g k => Sys2Proof.Machine.execVbflyGs z d a b g k s
  | .vnttp z d a s1 g => Sys2Proof.Machine.execVnttp z d a s1 g s
  | .vrng z d b g => Sys2Proof.Machine.execVrng z d b g s
  | .vlnmul z d a b g => Sys2Proof.Machine.execVlnmul z d a b g s
  | .vlnadd z d a b g => Sys2Proof.Machine.execVlnadd z d a b g s
  | .vmqset a b k => Sys2Proof.Machine.execVmqset a b k s
  | .pand d a b e f g => Sys2Proof.Machine.execPand d a b e f g s
  | .por d a b e f g => Sys2Proof.Machine.execPor d a b e f g s
  | .pxor d a b e f g => Sys2Proof.Machine.execPxor d a b e f g s
  | .pnot d a e f => Sys2Proof.Machine.execPnot d a e f s
  | .pcnt d a f => Sys2Proof.Machine.execPcnt d a f s
  | .pfirst d a f => Sys2Proof.Machine.execPfirst d a f s
  | .pset d n e => Sys2Proof.Machine.execPset d n e s
  | .mma c a b f => Sys2Proof.Machine.execMma c a b f s
  | .mmaRs c a b f => Sys2Proof.Machine.execMmaRs c a b f s
  | .mmas c a b f => Sys2Proof.Machine.execMmas c a b f s
  | .mmasRs c a b f => Sys2Proof.Machine.execMmasRs c a b f s
  | .mzero c => Sys2Proof.Machine.execMzero c s
  | .mload c a => Sys2Proof.Machine.execMload c a s
  | .mdrain c a b f => Sys2Proof.Machine.execMdrain c a b f s
  | .mdrains c a b f => Sys2Proof.Machine.execMdrains c a b f s
  | .mlease => Sys2Proof.Machine.execMlease s
  | .mfree => Sys2Proof.Machine.execMfree s
  | .leaseGrant sid => Sys2Proof.Machine.execLeaseGrant sid s
  | .vld r c k p => Sys2Proof.Machine.execVld r c k p s
  | .vst r c k p => Sys2Proof.Machine.execVst r c k p s
  | .vldx r c k p => Sys2Proof.Machine.execVldx r c k p s
  | .vstx r c k p => Sys2Proof.Machine.execVstx r c k p s
  | .pld r c k h => Sys2Proof.Machine.execPld r c k h s
  | .pst r c k h => Sys2Proof.Machine.execPst r c k h s
  | .ldc r c k g => Sys2Proof.Machine.execLdc r c k g s
  | .ldcArrival sid => Sys2Proof.Machine.execLdcArrival sid s
  | .cld r c k i1 => Sys2Proof.Machine.execCld r c k i1 s
  | .cst r c k i1 => Sys2Proof.Machine.execCst r c k i1 s
  | .qbbind r h => Sys2Proof.Machine.execQbbind r h s
  | .qbwait k h => Sys2Proof.Machine.execQbwait k h s
  | .qbwaitE k h => Sys2Proof.Machine.execQbwaitE k h s
  | .qbwaitComplete sid => Sys2Proof.Machine.execQbwaitComplete sid s
  | .qbtake k h => Sys2Proof.Machine.execQbtake k h s
  | .qbgive k h => Sys2Proof.Machine.execQbgive k h s
  | .qbVisibleUpdate sid => Sys2Proof.Machine.execQbVisibleUpdate sid s
  | .semwait r s1 t => Sys2Proof.Machine.execSemwait r s1 t s
  | .semwaitServed sid => Sys2Proof.Machine.execSemwaitServed sid s
  | .semwaitTimeout sid => Sys2Proof.Machine.execSemwaitTimeout sid s
  | .semsig s1 n => Sys2Proof.Machine.execSemsig s1 n s
  | .semsigApply sid => Sys2Proof.Machine.execSemsigApply sid s
  | .syncarm r c k i1 => Sys2Proof.Machine.execSyncarm r c k i1 s
  | .syncwait r c k i1 => Sys2Proof.Machine.execSyncwait r c k i1 s
  | .syncwaitComplete sid => Sys2Proof.Machine.execSyncwaitComplete sid s
  | .fence g q => Sys2Proof.Machine.execFence g q s
  | .join => Sys2Proof.Machine.execJoin s
  | .joinComplete sid => Sys2Proof.Machine.execJoinComplete sid s
  | .acq c => Sys2Proof.Machine.execAcq c s
  | .gateGrant gate => Sys2Proof.Machine.execGateGrant gate s
  | .rel c => Sys2Proof.Machine.execRel c s
  | .gateRelease sid => Sys2Proof.Machine.execGateRelease sid s
  | .bind r c k => Sys2Proof.Machine.execBind r c k s
  | .bindAnswer sid => Sys2Proof.Machine.execBindAnswer sid s
  | .wsseal r c s1 => Sys2Proof.Machine.execWsseal r c s1 s
  | .wssealAnswer sid => Sys2Proof.Machine.execWssealAnswer sid s
  | .oxcopy d s1 p q t => Sys2Proof.Machine.execOxcopy d s1 p q t s
  | .oxgath d s1 p q t => Sys2Proof.Machine.execOxgath d s1 p q t s
  | .oxscat d s1 p q t => Sys2Proof.Machine.execOxscat d s1 p q t s
  | .oxfill d p q t => Sys2Proof.Machine.execOxfill d p q t s
  | .oxacc d s1 p o q => Sys2Proof.Machine.execOxacc d s1 p o q s
  | .oxcas d s1 p q => Sys2Proof.Machine.execOxcas d s1 p q s
  | .oxenq d p q => Sys2Proof.Machine.execOxenq d p q s
  | .oxchase d s1 p q => Sys2Proof.Machine.execOxchase d s1 p q s
  | .oxhen d s1 p o q => Sys2Proof.Machine.execOxhen d s1 p o q s
  | .oxpage d p q => Sys2Proof.Machine.execOxpage d p q s
  | .coll d s1 p => Sys2Proof.Machine.execColl d s1 p s
  | .hnext => Sys2Proof.Machine.execHnext s
  | .hldl a => Sys2Proof.Machine.execHldl a s
  | .hstl a => Sys2Proof.Machine.execHstl a s
  | .hcmp d a b x => Sys2Proof.Machine.execHcmp d a b x s
  | .haddl a t => Sys2Proof.Machine.execHaddl a t s
  | .hreply a b => Sys2Proof.Machine.execHreply a b s
  | .hstage a b x => Sys2Proof.Machine.execHstage a b x s
  | .hcommit a => Sys2Proof.Machine.execHcommit a s
  | .vbRfetch s1 a d => Sys2Proof.Machine.execVbRfetch s1 a d s
  | .vbBfx s1 a d => Sys2Proof.Machine.execVbBfx s1 a d s
  | .vbSigwait s1 a d => Sys2Proof.Machine.execVbSigwait s1 a d s
  | .vbDispatch s1 a d => Sys2Proof.Machine.execVbDispatch s1 a d s
  | .timedPerform tt => Sys2Proof.Machine.execTimedPerform tt s
  | .syncMeeting tt lc => Sys2Proof.Machine.execSyncMeeting tt lc s
  | .mstepArrival sid => Sys2Proof.Machine.execMstepArrival sid s
  | .barrierRelease tt => Sys2Proof.Machine.execBarrierRelease tt s
  | .barrierMessage link msg => Sys2Proof.Machine.execBarrierMessage link msg s
  | .strandEnd sid => Sys2Proof.Machine.execStrandEnd sid s
  | .timetableStop tt => Sys2Proof.Machine.execTimetableStop tt s
  | .oxJobStart sid q => Sys2Proof.Machine.execOxJobStart sid q s
  | .oxJobFinish job => Sys2Proof.Machine.execOxJobFinish job s
  | .henRequest port => Sys2Proof.Machine.execHenRequest port s
  | .retransmitTimeout job => Sys2Proof.Machine.execRetransmitTimeout job s
  | .priResponse fn page ok => Sys2Proof.Machine.execPriResponse fn page ok s
  | .extentResident tenant obj ext => Sys2Proof.Machine.execExtentResident tenant obj ext s
  | .extentMigrate tenant obj ext base => Sys2Proof.Machine.execExtentMigrate tenant obj ext base s
  | .collStart sid => Sys2Proof.Machine.execCollStart sid s
  | .collComplete ctx => Sys2Proof.Machine.execCollComplete ctx s
  | .collTimeout ctx pkg => Sys2Proof.Machine.execCollTimeout ctx pkg s
  | .abort ctx pkg mgen lost => Sys2Proof.Machine.execAbort ctx pkg mgen lost s
  | .holdSend ctx => Sys2Proof.Machine.execHoldSend ctx s
  | .hold ctx pkg => Sys2Proof.Machine.execHold ctx pkg s
  | .membershipAgree tt lost => Sys2Proof.Machine.execMembershipAgree tt lost s
  | .recordInstall tt => Sys2Proof.Machine.execRecordInstall tt s
  | .linkFrame link frame => Sys2Proof.Machine.execLinkFrame link frame s
  | .bridgeFlit src dst lane flit errs => Sys2Proof.Machine.execBridgeFlit src dst lane flit errs s
  | .routerFlit router port lane => Sys2Proof.Machine.execRouterFlit router port lane s
  | .linkLoss key => Sys2Proof.Machine.execLinkLoss key s
  | .linkTraining key transit => Sys2Proof.Machine.execLinkTraining key transit s
  | .alignExchange t1 t2 t3 t4 => Sys2Proof.Machine.execAlignExchange t1 t2 t3 t4 s
  | .counterHold => Sys2Proof.Machine.execCounterHold s
  | .alignloss => Sys2Proof.Machine.execAlignloss s
  | .gclkLoad => Sys2Proof.Machine.execGclkLoad s
  | .tokenWindow => Sys2Proof.Machine.execTokenWindow s
  | .refreshWindow => Sys2Proof.Machine.execRefreshWindow s
  | .machineCheck tt unit addr => Sys2Proof.Machine.execMachineCheck tt unit addr s
  | .scrubError addr => Sys2Proof.Machine.execScrubError addr s
  | .admitNext => Sys2Proof.Machine.execAdmit s
  | .compactionUpdate => Sys2Proof.Machine.execCompactionUpdate s
  | .compactTimeout => Sys2Proof.Machine.execCompactTimeout s
  | .ageRaise req => Sys2Proof.Machine.execAgeRaise req s
  | .preemptRequest tt cluster => Sys2Proof.Machine.execPreemptRequest tt cluster s
  | .saveCommit tt => Sys2Proof.Machine.execSaveCommit tt s
  | .victimVacated tt => Sys2Proof.Machine.execVictimVacated tt s
  | .preemptCancel tt => Sys2Proof.Machine.execPreemptCancel tt s
  | .placeTableWrite tt table => Sys2Proof.Machine.execPlaceTableWrite tt table s
  | .kick fn q v => Sys2Proof.Machine.execKick fn q v s
  | .launchWrite fn q v => Sys2Proof.Machine.execLaunchWrite fn q v s
  | .enable fn q => Sys2Proof.Machine.execEnable fn q s
  | .pause fn q => Sys2Proof.Machine.execPause fn q s
  | .resume fn q => Sys2Proof.Machine.execResume fn q s
  | .reset fn q => Sys2Proof.Machine.execReset fn q s
  | .cqheadWrite fn q v => Sys2Proof.Machine.execCqheadWrite fn q v s
  | .registerWrite byFn fn reg v => Sys2Proof.Machine.execRegisterWrite byFn fn reg v s
  | .regGraph p desc count => Sys2Proof.Machine.execRegGraph p desc count s
  | .launch p r => Sys2Proof.Machine.execLaunch p r s
  | .feed p graph seq node wq recs => Sys2Proof.Machine.execFeed p graph seq node wq recs s
  | .mapObjCreate p tenant obj image result rights wbase wlen => Sys2Proof.Machine.execMapObjCreate p tenant obj image result rights wbase wlen s
  | .mapObjResize p tenant obj image => Sys2Proof.Machine.execMapObjResize p tenant obj image s
  | .mapObjFree p tenant obj => Sys2Proof.Machine.execMapObjFree p tenant obj s
  | .mapObjDerive p tenant obj result rights wbase wlen => Sys2Proof.Machine.execMapObjDerive p tenant obj result rights wbase wlen s
  | .copy p dst doff len src soff => Sys2Proof.Machine.execCopy p dst doff len src soff s
  | .wsLoad p dst doff len src soff => Sys2Proof.Machine.execWsLoad p dst doff len src soff s
  | .signalHostEvent p event amount => Sys2Proof.Machine.execSignalHostEvent p event amount s
  | .signalSemaphore p idx graph node seq amount => Sys2Proof.Machine.execSignalSemaphore p idx graph node seq amount s
  | .wait p event value timeout => Sys2Proof.Machine.execWait p event value timeout s
  | .waitRelease fn q => Sys2Proof.Machine.execWaitRelease fn q s
  | .waitTimeout fn q => Sys2Proof.Machine.execWaitTimeout fn q s
  | .meter p addr => Sys2Proof.Machine.execMeter p addr s
  | .resetQ p target => Sys2Proof.Machine.execResetQ p target s
  | .deregGraph p graph => Sys2Proof.Machine.execDeregGraph p graph s
  | .muleRestart => Sys2Proof.Machine.execMuleRestart s
  | .tenantCreate tenant => Sys2Proof.Machine.execTenantCreate tenant s
  | .tenantTeardown tenant => Sys2Proof.Machine.execTenantTeardown tenant s
  | .tdiError fn => Sys2Proof.Machine.execTdiError fn s
  | .getVersion fn => Sys2Proof.Machine.execGetVersion fn s
  | .getCapabilities fn => Sys2Proof.Machine.execGetCapabilities fn s
  | .negotiateAlgorithms fn p384 sha384 => Sys2Proof.Machine.execNegotiateAlgorithms fn p384 sha384 s
  | .getDigests fn => Sys2Proof.Machine.execGetDigests fn s
  | .getCertificate fn off len => Sys2Proof.Machine.execGetCertificate fn off len s
  | .challenge fn nonce => Sys2Proof.Machine.execChallenge fn nonce s
  | .getMeasurements fn index => Sys2Proof.Machine.execGetMeasurements fn index s
  | .keyExchange fn nonce => Sys2Proof.Machine.execKeyExchange fn nonce s
  | .selectTenant fn tenant => Sys2Proof.Machine.execSelectTenant fn tenant s
  | .lifecycleRead => Sys2Proof.Machine.execLifecycleRead s
  | .provision => Sys2Proof.Machine.execProvision s
  | .claim byFn => Sys2Proof.Machine.execClaim byFn s
  | .return_ auth sig => Sys2Proof.Machine.execReturn auth sig s
  | .coldReset image sig => Sys2Proof.Machine.execColdReset image sig s
  | .configRequest => Sys2Proof.Machine.execConfigRequest s
  | .tenantTurn server => Sys2Proof.Machine.execTenantTurn server s
  | .eviction tenant obj ext => Sys2Proof.Machine.execEviction tenant obj ext s
  | .sigwaitWake hart => Sys2Proof.Machine.execSigwaitWake hart s
  | .tdispMessage fn dest => Sys2Proof.Machine.execTdispMessage fn dest s
  | .atsInvalidation fn page => Sys2Proof.Machine.execAtsInvalidation fn page s
  | .spdmSessionMessage fn msg => Sys2Proof.Machine.execSpdmSessionMessage fn msg s

end Sys2Proof.Machine
end

