-- ==== Sys2Proof/Machine/Rv64.lean ====
section
/-! DEFINITION. RV64GC on the Mule harts. f09 R244 gives the harts RV64GC with machine, supervisor and user modes; what its words do is the RISC-V
specification's, which the spec names and does not hold (PRESUMED, log entry 59). -/
namespace Sys2Proof.Machine

/-! ### Fields and immediates -/

def rvNat (w : Word) (lo len : Nat) : Nat := (fld w lo len).toNat
def rvRd (w : Word) : Nat := rvNat w 7 5
def rvF3 (w : Word) : Nat := rvNat w 12 3
def rvRs1 (w : Word) : Nat := rvNat w 15 5
def rvRs2 (w : Word) : Nat := rvNat w 20 5
def rvF7 (w : Word) : Nat := rvNat w 25 7
def immI (w : Word) : BitVec 64 := (fld w 20 12).signExtend 64
def immS (w : Word) : BitVec 64 := (fld w 25 7 ++ fld w 7 5).signExtend 64
def immB (w : Word) : BitVec 64 := (fld w 31 1 ++ fld w 7 1 ++ fld w 25 6 ++ fld w 8 4 ++ 0#1).signExtend 64
def immU (w : Word) : BitVec 64 := (fld w 12 20 ++ 0#12).signExtend 64
def immJ (w : Word) : BitVec 64 := (fld w 31 1 ++ fld w 12 8 ++ fld w 20 1 ++ fld w 21 10 ++ 0#1).signExtend 64

/-! ### Compressed words -/

def encI (imm rs1 f3 rd op : Nat) : Word := BitVec.ofNat 32 (imm % 4096 * 2 ^ 20 + rs1 * 2 ^ 15 + f3 * 2 ^ 12 + rd * 2 ^ 7 + op)
def encS (imm rs2 rs1 f3 op : Nat) : Word :=
  BitVec.ofNat 32 (imm / 32 % 128 * 2 ^ 25 + rs2 * 2 ^ 20 + rs1 * 2 ^ 15 + f3 * 2 ^ 12 + imm % 32 * 2 ^ 7 + op)
def encR (f7 rs2 rs1 f3 rd op : Nat) : Word :=
  BitVec.ofNat 32 (f7 * 2 ^ 25 + rs2 * 2 ^ 20 + rs1 * 2 ^ 15 + f3 * 2 ^ 12 + rd * 2 ^ 7 + op)
def encB (imm : BitVec 13) (rs1 f3 : Nat) : Word :=
  (imm.extractLsb' 12 1 ++ imm.extractLsb' 5 6 ++ 0#5 ++ BitVec.ofNat 5 rs1 ++ BitVec.ofNat 3 f3 ++ imm.extractLsb' 1 4 ++
    imm.extractLsb' 11 1 ++ 0x63#7)
def encJ (imm : BitVec 21) (rd : Nat) : Word :=
  (imm.extractLsb' 20 1 ++ imm.extractLsb' 1 10 ++ imm.extractLsb' 11 1 ++ imm.extractLsb' 12 8 ++ BitVec.ofNat 5 rd ++ 0x6F#7)

/-- The word a 16-bit instruction of the C extension stands for; none where it is reserved. -/
def expandC (c : BitVec 16) : Option Word :=
  let f := fun (lo n : Nat) => (c.extractLsb' lo n).toNat
  let r1 := f 7 5
  let r2 := f 2 5
  let q1 := 8 + f 7 3
  let q2 := 8 + f 2 3
  let imm6 := (c.extractLsb' 12 1 ++ c.extractLsb' 2 5).signExtend 12
  let sh := f 12 1 * 32 + r2
  let wordOff := f 5 1 * 64 + f 10 3 * 8 + f 6 1 * 4
  let dblOff := f 5 2 * 64 + f 10 3 * 8
  let spLd := f 2 3 * 64 + f 12 1 * 32 + f 5 2 * 8
  let spSd := f 7 3 * 64 + f 10 3 * 8
  let brOff := (c.extractLsb' 12 1 ++ c.extractLsb' 5 2 ++ c.extractLsb' 2 1 ++ c.extractLsb' 10 2 ++ c.extractLsb' 3 2 ++ 0#1).signExtend 13
  match f 0 2, f 13 3 with
  | 0, 0 =>
    let imm := f 7 4 * 64 + f 11 2 * 16 + f 5 1 * 8 + f 6 1 * 4
    if imm = 0 then none else some (encI imm 2 0 q2 0x13)
  | 0, 1 => some (encI dblOff q1 3 q2 0x07)
  | 0, 2 => some (encI wordOff q1 2 q2 0x03)
  | 0, 3 => some (encI dblOff q1 3 q2 0x03)
  | 0, 5 => some (encS dblOff q2 q1 3 0x27)
  | 0, 6 => some (encS wordOff q2 q1 2 0x23)
  | 0, 7 => some (encS dblOff q2 q1 3 0x23)
  | 1, 0 => some (encI imm6.toNat r1 0 r1 0x13)
  | 1, 1 => if r1 = 0 then none else some (encI imm6.toNat r1 0 r1 0x1B)
  | 1, 2 => some (encI imm6.toNat 0 0 r1 0x13)
  | 1, 3 =>
    if r1 = 2 then
      let imm := (c.extractLsb' 12 1 ++ c.extractLsb' 3 2 ++ c.extractLsb' 5 1 ++ c.extractLsb' 2 1 ++ c.extractLsb' 6 1 ++ 0#4).signExtend 12
      if imm = 0 then none else some (encI imm.toNat 2 0 2 0x13)
    else if imm6 = 0 then none
    else some ((imm6.signExtend 20 ++ BitVec.ofNat 5 r1 ++ 0x37#7))
  | 1, 4 => match f 10 2, f 12 1, f 5 2 with
    | 0, _, _ => some (encI sh q1 5 q1 0x13)
    | 1, _, _ => some (encI (0x400 + sh) q1 5 q1 0x13)
    | 2, _, _ => some (encI imm6.toNat q1 7 q1 0x13)
    | _, 0, 0 => some (encR 0x20 q2 q1 0 q1 0x33)
    | _, 0, 1 => some (encR 0 q2 q1 4 q1 0x33)
    | _, 0, 2 => some (encR 0 q2 q1 6 q1 0x33)
    | _, 0, _ => some (encR 0 q2 q1 7 q1 0x33)
    | _, _, 0 => some (encR 0x20 q2 q1 0 q1 0x3B)
    | _, _, 1 => some (encR 0 q2 q1 0 q1 0x3B)
    | _, _, _ => none
  | 1, 5 =>
    some (encJ ((c.extractLsb' 12 1 ++ c.extractLsb' 8 1 ++ c.extractLsb' 9 2 ++ c.extractLsb' 6 1 ++ c.extractLsb' 7 1 ++
      c.extractLsb' 2 1 ++ c.extractLsb' 11 1 ++ c.extractLsb' 3 3 ++ 0#1).signExtend 21) 0)
  | 1, 6 => some (encB brOff q1 0)
  | 1, 7 => some (encB brOff q1 1)
  | 2, 0 => some (encI sh r1 1 r1 0x13)
  | 2, 1 => some (encI spLd 2 3 r1 0x07)
  | 2, 2 => if r1 = 0 then none else some (encI (f 2 2 * 64 + f 12 1 * 32 + f 4 3 * 4) 2 2 r1 0x03)
  | 2, 3 => if r1 = 0 then none else some (encI spLd 2 3 r1 0x03)
  | 2, 4 => match f 12 1, r1, r2 with
    | 0, 0, 0 => none
    | 0, _, 0 => some (encI 0 r1 0 0 0x67)
    | 0, _, _ => some (encR 0 r2 0 0 r1 0x33)
    | _, 0, 0 => some 0x00100073#32
    | _, _, 0 => some (encI 0 r1 0 1 0x67)
    | _, _, _ => some (encR 0 r2 r1 0 r1 0x33)
  | 2, 5 => some (encS spSd r2 2 3 0x27)
  | 2, 6 => some (encS (f 7 2 * 64 + f 9 4 * 4) r2 2 2 0x23)
  | 2, 7 => some (encS spSd r2 2 3 0x23)
  | _, _ => none

/-! ### Integer computation -/

/-- OP and OP-IMM by funct3; `alt` is SUB and SRA. -/
def rvAlu (f3 : Nat) (alt : Bool) (a b : BitVec 64) : BitVec 64 :=
  match f3 with
  | 0 => if alt then a - b else a + b
  | 1 => a <<< (b.toNat % 64)
  | 2 => if a.slt b then 1 else 0
  | 3 => if a.ult b then 1 else 0
  | 4 => a ^^^ b
  | 5 => if alt then a.sshiftRight (b.toNat % 64) else a >>> (b.toNat % 64)
  | 6 => a ||| b
  | _ => a &&& b

/-- The forms on 32 bits, sign-extended: ADDW, SUBW, SLLW, SRLW, SRAW. -/
def rvAluW (f3 : Nat) (alt : Bool) (a b : BitVec 32) : Option (BitVec 64) :=
  match f3 with
  | 0 => some ((if alt then a - b else a + b).signExtend 64)
  | 1 => some ((a <<< (b.toNat % 32)).signExtend 64)
  | 5 => some ((if alt then a.sshiftRight (b.toNat % 32) else a >>> (b.toNat % 32)).signExtend 64)
  | _ => none

/-- Division and remainder at any width: by zero the quotient is all ones and the remainder the dividend. -/
def rvDiv {n : Nat} (f3 : Nat) (a b : BitVec n) : BitVec n :=
  match f3 with
  | 4 => if b = 0 then BitVec.allOnes n else a.sdiv b
  | 5 => if b = 0 then BitVec.allOnes n else a.udiv b
  | 6 => if b = 0 then a else a.srem b
  | _ => if b = 0 then a else a.umod b

/-- The M extension on 64 bits. -/
def rvMul (f3 : Nat) (a b : BitVec 64) : BitVec 64 :=
  match f3 with
  | 0 => a * b
  | 1 => (a.signExtend 128 * b.signExtend 128).extractLsb' 64 64
  | 2 => (a.signExtend 128 * b.setWidth 128).extractLsb' 64 64
  | 3 => (a.setWidth 128 * b.setWidth 128).extractLsb' 64 64
  | f3 => rvDiv f3 a b

/-- The condition of a branch; none for a reserved one. -/
def rvCond (f3 : Nat) (a b : BitVec 64) : Option Bool :=
  match f3 with
  | 0 => some (a == b)
  | 1 => some (a != b)
  | 4 => some (a.slt b)
  | 5 => some (!a.slt b)
  | 6 => some (a.ult b)
  | 7 => some (!a.ult b)
  | _ => none

/-! ### Memory of a hart -/

/-- A load by funct3: its bytes and whether it extends by zeros. -/
def rvLoad (f3 : Nat) (n : Nat) : BitVec 64 :=
  match f3 with
  | 0 => (BitVec.ofNat 8 n).signExtend 64
  | 1 => (BitVec.ofNat 16 n).signExtend 64
  | 2 => (BitVec.ofNat 32 n).signExtend 64
  | _ => BitVec.ofNat 64 n

/-- The result an AMO stores, by funct5. -/
def rvAmo {n : Nat} (f5 : Nat) (old v : BitVec n) : Option (BitVec n) :=
  match f5 with
  | 0x00 => some (old + v)
  | 0x01 => some v
  | 0x04 => some (old ^^^ v)
  | 0x08 => some (old ||| v)
  | 0x0C => some (old &&& v)
  | 0x10 => some (if old.slt v then old else v)
  | 0x14 => some (if old.slt v then v else old)
  | 0x18 => some (if old.ult v then old else v)
  | 0x1C => some (if old.ult v then v else old)
  | _ => none

/-! ### Control and status registers -/

/-- Floating point is on: mstatus.FS is not Off. -/
def Hart.fs (h : Hart) : Bool := bits h.mstatus 14 13 != 0
def Hart.csr (h : Hart) (n : Nat) : BitVec 64 := SMap.get 0 h.csrs n

/-- mstatus as it reads: both widths 64, SD set where FS is Dirty. -/
def Hart.statusRead (h : Hart) : BitVec 64 :=
  h.mstatus ||| 0xA00000000#64 ||| (if bits h.mstatus 14 13 = 3 then 0x8000000000000000#64 else 0)

/-- A write to the bits of mstatus under a mask; MPP keeps its value where 2 would be written. -/
def Hart.statusWrite (h : Hart) (mask v : BitVec 64) : Hart :=
  let mask := if bits v 12 11 = 2 then mask &&& ~~~ 0x1800#64 else mask
  { h with mstatus := (h.mstatus &&& ~~~ mask) ||| (v &&& mask) }

/-- The bits of mstatus that machine mode writes, and those supervisor mode sees and writes. -/
def mStatusMask : BitVec 64 := 0x7E79AA#64
def sStatusMask : BitVec 64 := 0xC6122#64

/-- The value of a CSR; none where there is none. The harts have no address translation, no physical memory protection, no delegation
and no interrupt, whose registers read 0 and discard writes; the counters read as free values. -/
def State.rvCsr (s : State) (n : Fin 32) (k : Nat) : Option (BitVec 64) :=
  let h := s.hart n
  match k with
  | 0x001 => some (h.csr 3 &&& 0x1F#64)
  | 0x002 => some (h.csr 3 >>> 5)
  | 0x100 => some (h.statusRead &&& (sStatusMask ||| 0x8000000300000000#64))
  | 0x300 => some h.statusRead
  | 0x301 => some 0x800000000094112D#64
  | 0x305 => some h.mtvec
  | 0x341 => some h.mepc
  | 0x342 => some h.mcause
  | 0x343 => some h.mtval
  | 0xF14 => some (BitVec.ofNat 64 n.val)
  | 0x003 | 0x105 | 0x106 | 0x140 | 0x141 | 0x142 | 0x143 | 0x304 | 0x306 | 0x340 => some (h.csr k)
  | 0xC00 | 0xC01 | 0xC02 | 0xB00 | 0xB02 => some (Config.freeD s.choices)
  | 0x104 | 0x144 | 0x180 | 0x302 | 0x303 | 0x30A | 0x10A | 0x320 | 0x344 | 0xF11 | 0xF12 | 0xF13 | 0xF15 => some 0
  | k => if (0x3A0 ≤ k ∧ k < 0x3F0) ∨ (0x323 ≤ k ∧ k < 0x340) ∨ (0xB03 ≤ k ∧ k < 0xB20) ∨ (0xC03 ≤ k ∧ k < 0xC20) then some 0 else none

/-- A CSR written. -/
def Hart.csrWrite (h : Hart) (k : Nat) (v : BitVec 64) : Hart :=
  let put := fun (v : BitVec 64) => { h with csrs := SMap.set 0 h.csrs k v }
  let fp := fun (v : BitVec 64) => { h with csrs := SMap.set 0 h.csrs 3 v, mstatus := h.mstatus ||| 0x6000#64 }
  match k with
  | 0x001 => fp ((h.csr 3 &&& 0xE0#64) ||| (v &&& 0x1F#64))
  | 0x002 => fp ((h.csr 3 &&& 0x1F#64) ||| ((v &&& 7#64) <<< 5))
  | 0x003 => fp (v &&& 0xFF#64)
  | 0x100 => h.statusWrite sStatusMask v
  | 0x300 => h.statusWrite mStatusMask v
  | 0x305 => { h with mtvec := v }
  | 0x341 => { h with mepc := v &&& ~~~ 1#64 }
  | 0x342 => { h with mcause := v }
  | 0x343 => { h with mtval := v }
  | 0x141 => put (v &&& ~~~ 1#64)
  | 0x304 => put (v &&& 0xAAA#64)
  | 0x105 | 0x106 | 0x140 | 0x142 | 0x143 | 0x306 | 0x340 => put v
  | _ => h

/-- The counters a mode may read (mcounteren, scounteren), and the floating-point registers where FS is on. -/
def Hart.csrOpen (h : Hart) (k : Nat) : Bool :=
  if k = 1 ∨ k = 2 ∨ k = 3 then h.fs
  else if 0xC00 ≤ k ∧ k < 0xC20 then
    h.mode == 3 || ((h.csr 0x306).getLsbD (k % 32) && (h.mode == 1 || (h.csr 0x106).getLsbD (k % 32)))
  else true

/-- CSRRW, CSRRS, CSRRC and their immediate forms. -/
def State.rvCsrOp (s : State) (n : Fin 32) (w : Word) (len : BitVec 64) : State :=
  let h := s.hart n
  let k := rvNat w 20 12
  let src := if 4 ≤ rvF3 w then BitVec.ofNat 64 (rvRs1 w) else h.rx (rvRs1 w)
  let writes := rvF3 w % 4 = 1 ∨ rvRs1 w ≠ 0
  match s.rvCsr n k with
  | some old =>
    if h.mode < k / 2 ^ 8 % 4 ∨ k / 2 ^ 8 % 4 = 2 ∨ (k / 2 ^ 10 = 3 ∧ writes) ∨ h.csrOpen k = false then s.hartIllegal n
    else
      let v := match rvF3 w % 4 with
        | 1 => src
        | 2 => old ||| src
        | _ => old &&& ~~~ src
      let h := if writes then h.csrWrite k v else h
      let h := h.wx (rvRd w) old
      { s with choices := s.choices + 1 }.setHart n { h with pc := h.pc + len }
  | none => s.hartIllegal n

/-- SRET: SPIE to SIE, SPP to the mode, sepc to pc. -/
def Hart.sret (h : Hart) : Hart :=
  let spie := h.mstatus.getLsbD 5
  let spp := h.mstatus.getLsbD 8
  { h with pc := h.csr 0x141, mode := if spp then 1 else 0,
           mstatus := (h.mstatus &&& ~~~ 0x20122#64) ||| (if spie then 2#64 else 0) ||| 0x20#64 }

/-- ECALL, EBREAK, the returns, WFI, which waits for nothing, and SFENCE.VMA. -/
def State.rvSystem (s : State) (n : Fin 32) (w : Word) (len : BitVec 64) : State :=
  let h := s.hart n
  let next := s.setHart n { h with pc := h.pc + len }
  if rvF3 w = 4 then s.hartIllegal n
  else if rvF3 w ≠ 0 then s.rvCsrOp n w len
  else if w = 0x00000073#32 then s.setHart n (h.trap (if h.mode = 3 then 11 else 8 + h.mode) 0)
  else if w = 0x00100073#32 then s.setHart n (h.trap 3 h.pc)
  else if w = 0x30200073#32 ∧ h.mode = 3 then
    s.setHart n (let r := h.mret; if r.mode = 3 then r else { r with mstatus := r.mstatus &&& ~~~ 0x20000#64 })
  else if w = 0x10200073#32 ∧ (h.mode = 3 ∨ (h.mode = 1 ∧ ¬ h.mstatus.getLsbD 22)) then s.setHart n h.sret
  else if w = 0x10500073#32 ∧ (h.mode = 3 ∨ ¬ h.mstatus.getLsbD 21) then next
  else if rvF7 w = 9 ∧ rvRd w = 0 ∧ (h.mode = 3 ∨ (h.mode = 1 ∧ ¬ h.mstatus.getLsbD 20)) then next
  else s.hartIllegal n

/-! ### Atomics -/

/-- LR, SC and the AMOs on `bytes` bytes. -/
def State.rvAtomic (s : State) (n : Fin 32) (w : Word) (bytes : Nat) (len : BitVec 64) : State :=
  let h := s.hart n
  let a := (h.rx (rvRs1 w)).toNat
  let f5 := rvNat w 27 5
  let old := natOf (s.sram.readN a bytes)
  let wide := fun (v : Nat) => if bytes = 4 then (BitVec.ofNat 32 v).signExtend 64 else BitVec.ofNat 64 v
  let put := fun (s : State) (v : BitVec 64) => s.setHart n { (s.hart n).wx (rvRd w) v with pc := h.pc + len }
  let src := h.rx (rvRs2 w)
  if f5 = 2 ∧ rvRs2 w ≠ 0 then s.hartIllegal n
  else if a % bytes ≠ 0 ∧ (f5 = 2 ∨ f5 = 3 ∨ (rvAmo f5 0#1 0#1).isSome) then
    s.setHart n (h.trap (if f5 = 2 then 4 else 6) (h.rx (rvRs1 w)))
  else if f5 = 2 then put (s.setHart n { h with resv := some a }) (wide old)
  else if f5 = 3 then
    let ok := h.resv == some a
    let s := if ok then s.sramWrite a (bytesOf bytes src.toNat) else s
    put (s.setHart n { s.hart n with resv := none }) (if ok then 0 else 1)
  else match if bytes = 4 then (rvAmo f5 (BitVec.ofNat 32 old) (src.setWidth 32)).map (·.toNat)
      else (rvAmo f5 (BitVec.ofNat 64 old) src).map (·.toNat) with
    | some v => put (s.sramWrite a (bytesOf bytes v)) (wide old)
    | none => s.hartIllegal n

/-! ### Floating point -/

def Hart.rf (h : Hart) (r : Nat) : BitVec 64 := SMap.get 0 h.f r
/-- A floating-point register written; FS becomes Dirty. -/
def Hart.wf (h : Hart) (r : Nat) (v : BitVec 64) : Hart := { h with f := SMap.set 0 h.f r v, mstatus := h.mstatus ||| 0x6000#64 }
/-- A single in a register, with ones above; the canonical NaN where they are missing. -/
def boxed (v : BitVec 32) : BitVec 64 := 0xFFFFFFFF#32 ++ v
def unboxed (v : BitVec 64) : BitVec 32 := if v.extractLsb' 32 32 = 0xFFFFFFFF#32 then v.setWidth 32 else 0x7FC00000#32

/-- Sign injection: rs1 with the sign of rs2, its complement, or their exclusive or. -/
def rvSign {n : Nat} (f3 : Nat) (a b : BitVec n) : BitVec n :=
  let top := BitVec.twoPow n (n - 1)
  let sign := match f3 with
    | 0 => b
    | 1 => ~~~ b
    | _ => a ^^^ b
  (a &&& ~~~ top) ||| (sign &&& top)

/-- A rounding mode: static, or frm's; none where it is reserved. -/
def Hart.rm (h : Hart) (f3 : Nat) : Option Nat :=
  let r := if f3 = 7 then (h.csr 3).toNat / 32 % 8 else f3
  if r ≤ 4 then some r else none

/-- What kind of OP-FP word this is, by funct5 and funct3: its result in an f register, in an x register, and whether it rounds. -/
inductive FpKind where
  | toF (rounds : Bool)
  | toX (rounds : Bool)
  deriving DecidableEq, Repr

/-- The kind of an OP-FP word that computes; none for a reserved one. -/
def fpKind (f5 fmt rs2 f3 : Nat) : Option FpKind :=
  match f5 with
  | 0x00 | 0x01 | 0x02 | 0x03 => some (.toF true)
  | 0x0B => if rs2 = 0 then some (.toF true) else none
  | 0x05 => if f3 ≤ 1 then some (.toF false) else none
  | 0x08 => if rs2 + fmt = 1 then some (.toF true) else none
  | 0x14 => if f3 ≤ 2 then some (.toX false) else none
  | 0x18 => if rs2 ≤ 3 then some (.toX true) else none
  | 0x1A => if rs2 ≤ 3 then some (.toF true) else none
  | 0x1C => if rs2 = 0 ∧ f3 = 1 then some (.toX false) else none
  | _ => none

/-- A result of arithmetic: IEEE 754's, which the spec does not hold. Its value and flags are free values of word, operands and rounding
mode; the shape of the result is the word's. -/
def State.rvFpu (s : State) (n : Fin 32) (w : Word) (kind : FpKind) (fmt : Nat) (a b c : BitVec 64) (len : BitVec 64) : State :=
  let h := s.hart n
  let rounds := match kind with
    | .toF r | .toX r => r
  match if rounds then h.rm (rvF3 w) else some 0 with
  | none => s.hartIllegal n
  | some rm =>
    let (v, flags) := Config.fpu w a b c (BitVec.ofNat 3 rm)
    let h := { h with csrs := SMap.set 0 h.csrs 3 (h.csr 3 ||| flags.setWidth 64), mstatus := h.mstatus ||| 0x6000#64 }
    let h := match kind with
      | .toF _ => h.wf (rvRd w) (if fmt = 0 then boxed (v.setWidth 32) else v)
      | .toX _ => h.wx (rvRd w) (match rvNat w 27 5 with
        | 0x14 => v &&& 1#64
        | 0x1C => v &&& 0x3FF#64
        | _ => if rvRs2 w ≤ 1 then (v.setWidth 32).signExtend 64 else v)
    s.setHart n { h with pc := h.pc + len }

/-- OP-FP: the moves and sign injections, which are exact, and arithmetic. -/
def State.rvFp (s : State) (n : Fin 32) (w : Word) (len : BitVec 64) : State :=
  let h := s.hart n
  let fmt := rvNat w 25 2
  let f5 := rvNat w 27 5
  let a := h.rf (rvRs1 w)
  let b := h.rf (rvRs2 w)
  let done := fun (h : Hart) => s.setHart n { h with pc := h.pc + len }
  if h.fs = false ∨ 2 ≤ fmt then s.hartIllegal n
  else if f5 = 0x04 ∧ rvF3 w ≤ 2 then
    done (h.wf (rvRd w) (if fmt = 0 then boxed (rvSign (rvF3 w) (unboxed a) (unboxed b)) else rvSign (rvF3 w) a b))
  else if f5 = 0x1C ∧ rvRs2 w = 0 ∧ rvF3 w = 0 then
    done (h.wx (rvRd w) (if fmt = 0 then (a.setWidth 32).signExtend 64 else a))
  else if f5 = 0x1E ∧ rvRs2 w = 0 ∧ rvF3 w = 0 then
    done (h.wf (rvRd w) (if fmt = 0 then boxed ((h.rx (rvRs1 w)).setWidth 32) else h.rx (rvRs1 w)))
  else match fpKind f5 fmt (rvRs2 w) (rvF3 w) with
    | some k => s.rvFpu n w k fmt (if f5 = 0x1A then h.rx (rvRs1 w) else a) b 0 len
    | none => s.hartIllegal n

/-! ### One word -/

/-- A hart runs one word of RV64GC of `len` bytes. -/
def State.rvExec (s : State) (n : Fin 32) (w : Word) (len : BitVec 64) : State :=
  let h := s.hart n
  let a := h.rx (rvRs1 w)
  let b := h.rx (rvRs2 w)
  let f3 := rvF3 w
  let f7 := rvF7 w
  let bad := s.hartIllegal n
  let put := fun (v : BitVec 64) => s.setHart n { h.wx (rvRd w) v with pc := h.pc + len }
  let go := fun (pc : BitVec 64) => s.setHart n { h.wx (rvRd w) (h.pc + len) with pc := pc }
  let opt := fun (v : Option (BitVec 64)) => v.elim bad put
  match rvNat w 0 7 with
  | 0x37 => put (immU w)
  | 0x17 => put (h.pc + immU w)
  | 0x6F => go (h.pc + immJ w)
  | 0x67 => if f3 = 0 then go ((a + immI w) &&& ~~~ 1#64) else bad
  | 0x63 => match rvCond f3 a b with
    | some t => s.setHart n { h with pc := if t then h.pc + immB w else h.pc + len }
    | none => bad
  | 0x03 => if f3 = 7 then bad else put (rvLoad f3 (natOf (s.sram.readN (a + immI w).toNat (2 ^ (f3 % 4)))))
  | 0x23 =>
    if 4 ≤ f3 then bad
    else
      let s := s.sramWrite (a + immS w).toNat (bytesOf (2 ^ f3) b.toNat)
      s.setHart n { s.hart n with pc := h.pc + len }
  | 0x13 =>
    if f3 = 1 ∧ f7 / 2 ≠ 0 ∨ f3 = 5 ∧ f7 / 2 ≠ 0 ∧ f7 / 2 ≠ 0x10 then bad
    else put (rvAlu f3 (f3 == 5 && f7 / 2 == 0x10) a (immI w))
  | 0x1B =>
    if f3 = 1 ∧ f7 ≠ 0 ∨ f3 = 5 ∧ f7 ≠ 0 ∧ f7 ≠ 0x20 then bad
    else opt (rvAluW f3 (f3 == 5 && f7 == 0x20) (a.setWidth 32) ((immI w).setWidth 32))
  | 0x33 =>
    if f7 = 1 then put (rvMul f3 a b)
    else if f7 = 0 ∨ (f7 = 0x20 ∧ (f3 = 0 ∨ f3 = 5)) then put (rvAlu f3 (f7 == 0x20) a b)
    else bad
  | 0x3B =>
    if f7 = 1 then
      if f3 = 0 then put ((a.setWidth 32 * b.setWidth 32).signExtend 64)
      else if f3 < 4 then bad
      else put ((rvDiv f3 (a.setWidth 32) (b.setWidth 32)).signExtend 64)
    else if f7 = 0 ∨ (f7 = 0x20 ∧ (f3 = 0 ∨ f3 = 5)) then opt (rvAluW f3 (f7 == 0x20) (a.setWidth 32) (b.setWidth 32))
    else bad
  | 0x0F => if f3 ≤ 1 then s.setHart n { h with pc := h.pc + len } else bad
  | 0x73 => s.rvSystem n w len
  | 0x2F => if f3 = 2 ∨ f3 = 3 then s.rvAtomic n w (2 ^ f3) len else bad
  | 0x07 =>
    if h.fs = false ∨ (f3 ≠ 2 ∧ f3 ≠ 3) then bad
    else
      let v := natOf (s.sram.readN (a + immI w).toNat (2 ^ f3))
      s.setHart n { h.wf (rvRd w) (if f3 = 2 then boxed (BitVec.ofNat 32 v) else BitVec.ofNat 64 v) with pc := h.pc + len }
  | 0x27 =>
    if h.fs = false ∨ (f3 ≠ 2 ∧ f3 ≠ 3) then bad
    else
      let s := s.sramWrite (a + immS w).toNat (bytesOf (2 ^ f3) (h.rf (rvRs2 w)).toNat)
      s.setHart n { s.hart n with pc := h.pc + len }
  | 0x43 | 0x47 | 0x4B | 0x4F =>
    if h.fs = false ∨ 2 ≤ rvNat w 25 2 then bad
    else s.rvFpu n w (.toF true) (rvNat w 25 2) (h.rf (rvRs1 w)) (h.rf (rvRs2 w)) (h.rf (rvNat w 27 5)) len
  | 0x53 => s.rvFp n w len
  | _ => bad

/-- The word at a hart's pc. -/
def State.hartWord (s : State) (n : Fin 32) : Word := BitVec.ofNat 32 (natOf (s.sram.readN (s.hart n).pc.toNat 4))

/-- A word that is none of the Virbel words: a compressed word, a word of RV64GC, or the illegal-instruction exception. -/
def State.rvStep (s : State) (n : Fin 32) : State :=
  let w := s.hartWord n
  if rvNat w 0 7 = 0x0B then s.hartIllegal n
  else if rvNat w 0 2 = 3 then s.rvExec n w 4
  else match expandC (w.setWidth 16) with
    | some x => s.rvExec n x 2
    | none => s.hartIllegal n

end Sys2Proof.Machine
end

