-- ==== Sys2Proof/Machine/Schedule.lean ====
section
/-! DEFINITION. How a gcy passes, stage by stage, when no agent has a word to run, and how an agent's next word is fetched and run (f02
R25, f03 R59..R71, f07 R183, log entry 11). -/
namespace Sys2Proof.Machine

/-- A step tried for each of a list. -/
def State.tryAll (s : State) (l : List Nat) (f : Nat → State → Result) : State := l.foldl (fun s k => s.try (f k)) s

/-! ### Fetching words (f03 R59, f07 R436, f12 R304, R305) -/

/-- A word issued in a slot: an instruction of its map; an SVC of a number the table does not list (f10 R266); or an illegal word,
suppressed (f12 R317). -/
def State.slotRun (s : State) (sid slot : Nat) (w : Word) : Result :=
  match decodeSlot slot w with
  | some i => exec i s
  | none =>
    if slot = 0 ∧ w.extractLsb' 12 20 = 0xA2000#20 then svcCall s (w.toNat % 4096) else .next (s.slotIllegal sid slot)

/-- The header at a strand's pc. -/
def State.headerRun (s : State) (sid : Nat) : Result :=
  if s.codeLen sid ≤ (s.strand sid).pc then .next (s.pastEnd sid)
  else match decodeHeader (s.codeWord sid (s.strand sid).pc) with
    | some i => exec i s
    | none => .next (s.badHeader sid)

/-- The strand's first open slot is taken. -/
def Strand.takeSlot (st : Strand) : Strand := { st with slots := st.slots.tail, slotPc := st.slotPc + 1 }

/-- The agent has no more words now. -/
def State.idle (s : State) : State := { s with cur := .none }

/-- After a word: with no slot word left the bundle is finished. -/
def State.afterSlot (sid : Nat) (s : State) : State := if (s.strand sid).slots = [] then (s.finishBundle sid).idle else s

/-- After a header: a bundle with slot words goes on with them. -/
def State.afterHeader (sid : Nat) (s : State) : State := if (s.strand sid).slots = [] then s.idle else s

/-- An outcome's state changed. -/
def thenDo (r : Result) (f : State → State) : Result :=
  match r with
  | .next s => .next (f s)
  | .fault e => .fault e
  | .refused e => .refused e

def State.strandStep (s : State) (sid : Nat) : Result :=
  let st := s.strand sid
  match st.slots with
  | [] => thenDo (s.headerRun sid) (State.afterHeader sid)
  | slot :: _ =>
    thenDo ((s.modStrand sid Strand.takeSlot).slotRun sid slot (s.codeWord sid st.slotPc)) (State.afterSlot sid)

/-- A word of the routine directory's code. -/
def State.henWord (s : State) (port : Nat) : Word :=
  let h := s.hen port
  BitVec.ofNat 32 (natOf ((s.routines.drop (h.base + 4 * h.pc)).take 4))

/-- A Hen runs one word; past its routine's end the request ends with NOROUTINE. -/
def State.henStep (s : State) (port : Nat) : Result :=
  let h := s.hen port
  if h.cur.isNone then .next s.idle
  else if h.len ≤ h.pc then .next (s.henIllegal port).idle
  else
    let s' := s.setHen port { h with pc := h.pc + 1 }
    thenDo (match decodeHen (s.henWord port) with
      | some i => exec i s'
      | none => .next (s'.henIllegal port)) State.idle

/-- A hart runs one word: one of Virbel, or one of RV64GC (f09 R244). -/
def State.hartStep (s : State) (n : Fin 32) : Result :=
  if (s.hart n).sleep.isSome then .next s.idle
  else match decodeMule (s.hartWord n) with
    | some i => thenDo (exec i s) State.idle
    | none => .next (s.rvStep n).idle

/-! ### What comes from outside -/

/-- What reaches a device that has not come up: a reset, a configuration request, which it puts off, and the board controller (f09 R257). -/
def bootAllows (i : Instr) : Bool :=
  match i with
  | .coldReset .. | .configRequest .. | .lifecycleRead .. => true
  | _ => false

/-- A held gcy; an event from outside that is due; else the gcy begins. An event whose subject is not there has no effect, and a word
is no event. -/
def State.outsideStage (s : State) : State :=
  if s.holdDue then s.try execCounterHold
  else match s.agenda.find? fun x => decide (x.1 ≤ s.gclk.toNat) with
    | some x =>
      let s := { s with agenda := s.agenda.erase x }
      if x.2.mapKind.isNone ∧ (5 ≤ s.bringup ∨ bootAllows x.2) then s.try (exec x.2) else s
    | none => { s.try execAlignloss with stage := .clock }

/-- Token and refresh windows, and the releases of barriers whose start gcy this is. -/
def State.clockStage (s : State) : State :=
  let s := (s.try execTokenWindow).try execRefreshWindow
  let s := s.tryAll (SMap.keys s.tts) execBarrierRelease
  { s with tts := SMap.mapVals (fun _ t => { t with leasesWas := t.leases }) s.tts, stage := .takeUp }

/-! ### Taking up a vcy (f02 R25) -/

/-- This gcy is in the phase set of a timetable that has started. -/
def State.onPhase (s : State) (t : Timetable) : Bool := decide (t.t0 ≤ s.gclk.toNat) && s.gclk.toNat % t.stride == t.phase

/-- The strand runs its next vcy, with the writes a finished wait owes it; a weight-store read in its refresh window holds it back. -/
def State.runVcy (s : State) (sid : Nat) (effs : List Eff) : State :=
  let st := s.strand sid
  let v := st.nextVcy
  if s.refreshHeld sid v then
    let g := s.gclk.toNat
    match st.wait with
    | .none | .done _ | .refresh _ =>
      s.setStrand sid { st with wait := .refresh (g - g % 4096 + 512), owed := st.owed ++ effs, begun := true, ran := false }
    | _ => s.setStrand sid { st with begun := true, ran := false }
  else
    let wait : Wait := match st.wait with
      | .done _ | .refresh _ => .none
      | w => w
    let owed := match st.wait with
      | .none | .refresh _ => st.owed ++ effs
      | _ => effs
    let rest := match st.wait with
      | .none | .refresh _ => []
      | _ => st.owed
    let st := { st with vclk := v, started := true, ran := true, begun := true, wait := wait, owed := rest }
    s.setStrand sid (st.pushAll 0 0 owed)

/-- A strand whose wait has just been answered goes on; any other is frozen on this gcy. -/
def State.goOn (s : State) (sid : Nat) : State :=
  match (s.strand sid).wait with
  | .done effs => s.runVcy sid effs
  | _ => s.modStrand sid fun st => { st with begun := true, ran := false }

/-- A strand waits on a queue buffer while a pointer update of its own is held behind timed operations in flight: it is not frozen until they
have performed, as an EXIT's drain is not (scene Q2 of f19 R390; DEDUCED, log entry 159). -/
def Strand.drainsHeld (st : Strand) : Bool :=
  (match st.wait with | .qb _ _ _ => true | _ => false) && st.inFlight && st.qbheld.any fun u => !st.passed u.2.2.2

/-- A wait in which a stopping timetable's strand is stopped in place (f03 R71). -/
def Strand.stopsInPlace (st : Strand) : Bool :=
  match st.wait with
  | .none | .done _ => false
  | .exit _ => !st.inFlight
  | .barrier => st.arrived.isSome
  | _ => true

/-- One strand on a gcy of its phase set. -/
def State.takeUp (s : State) (sid : Nat) : State :=
  let st := s.strand sid
  let t := s.ttOfStrand sid
  if t.life ≠ 1 ∨ st.life ≠ 1 ∨ st.halt ∨ ¬ s.onPhase t then s
  else if t.cause ≠ 0 ∧ st.stopsInPlace then s.setStrand sid { st with halt := true }
  else match st.wait with
    | .none => if st.skip ∧ ¬ st.inFlight then s.setStrand sid { st with begun := true } else s.runVcy sid []
    | .done effs => s.runVcy sid effs
    | .refresh u => if u ≤ s.gclk.toNat then s.runVcy sid [] else s.setStrand sid { st with begun := true }
    | .sem r i (some n) =>
      (State.try (s.setStrand sid { st with wait := .sem r i (some (n - 1)) }) (execSemwaitTimeout sid)).goOn sid
    | .sync _ _ => (s.try (execSyncwaitComplete sid)).goOn sid
    | .qb _ _ _ =>
      let s := s.try (execQbwaitComplete sid)
      if (s.strand sid).drainsHeld then s.runVcy sid [] else s.goOn sid
    | .join => (s.try (execJoinComplete sid)).goOn sid
    | .wq _ => (s.try (execWqwaitComplete sid)).goOn sid
    | .exit _ => if st.inFlight then s.runVcy sid [] else s.setStrand sid { st with begun := true }
    | .barrier =>
      match st.leaves, st.arrived with
      | some l, none => if st.vclk < l then s.runVcy sid [] else s.setStrand sid { st with begun := true }
      | _, _ => s.setStrand sid { st with begun := true }
    | _ => s.setStrand sid { st with begun := true }

def State.takeUpStage (s : State) : State := { (SMap.keys s.strands).foldl State.takeUp s with stage := .meet }

/-! ### Issue (f03 R59, R64, R78, R80) -/

/-- A bundle of the strand is due. -/
def State.due (s : State) (sid : Nat) : Bool :=
  let st := s.strand sid
  st.life == 1 && st.ran && !st.halt && !st.skip && st.wait == .none && st.slots.isEmpty && decide (s.dueAt sid ≤ st.vclk) &&
    st.lastIss != some st.vclk

/-- The legal header at the strand's pc. -/
def State.dueHeader (s : State) (sid : Nat) : Option (Bool × Bool × BitVec 4) :=
  match decodeHeader (s.codeWord sid (s.strand sid).pc) with
  | some (.bndl _ sy f _ m) => some (sy == 1, f == 1, m)
  | _ => none

/-- A strand that has come to a SYNC bundle stops there, or before it. -/
def State.atMeeting (s : State) (sid : Nat) : State :=
  match s.dueHeader sid with
  | some (true, _, _) =>
    if s.due sid ∧ ¬ (s.strand sid).met then State.idle (State.try { s with cur := .strand sid } fun s => s.headerRun sid) else s
  | _ => s

/-- A meeting that would wait in an M-step ends the step: the strand issues nothing more in it, drains, and arrives at the barrier, where
the step fails (f03 R66, f10 R262). -/
def State.failMeet (s : State) (sid : Nat) : State :=
  let s := s.modTt (ttOf sid) fun t => { t with failed := true }
  s.modStrand sid fun st => { st with
    wait := .barrier, more := [], slots := [], sstep := 0, arrived := none,
    leaves := some (st.pend.foldl (fun m p => Nat.max m p.due) st.vclk) }

/-- Meetings: those that are complete take place; one that waits in an M-step fails the step. -/
def State.meetStage (s : State) : State :=
  let s := (SMap.keys s.strands).foldl State.atMeeting s
  let cores := (((SMap.keys s.strands).filter fun sid => (s.strand sid).wait == .meet).map fun sid =>
    (ttOf sid, (s.strand sid).lcore)).eraseDups
  let s := cores.foldl (fun s c => s.try (execSyncMeeting c.1 c.2)) s
  let stuck := (SMap.keys s.strands).filter fun sid => (s.strand sid).wait == .meet && s.inMStep sid
  { stuck.foldl State.failMeet s with stage := .lease }

/-- The strand asks for the lease on this gcy: waiting for it, or about to issue a command that needs it. -/
def State.asksLease (s : State) (sid : Nat) : Bool :=
  let st := s.strand sid
  st.life == 1 && !st.halt && !s.inMStep sid && (match st.wait with
    | .lease => st.begun && !s.refreshHeld sid st.vclk
    | .mlease => st.begun
    | .none => s.due sid && (match s.dueHeader sid with
      | some (_, safe, m) =>
        !(safe && (s.stopDue sid || s.preempting (ttOf sid))) && s.wantsLease sid st.pc m
      | none => false)
    | _ => false)

/-- Places behind the previous holder in the rotation. -/
def State.behind (s : State) (sid : Nat) : Nat := ((s.strand sid).psg % 4 + 3 - (s.lease sid).prev % 4) % 4

/-- A free lease of one core goes to the first that asks, by the rotation. -/
def State.grantCore (s : State) (tt core : Nat) : State :=
  let l := (s.sids tt).filter fun sid => (s.placeOfStrand sid).coreNo == core && s.asksLease sid
  match sortBy (fun a b => decide (s.behind a < s.behind b)) l with
  | [] => s
  | sid :: _ =>
    if s.leaseFree sid = false then s
    else match (s.strand sid).wait with
      | .lease => s.try (execLeaseGrant sid)
      | .mlease => (s.try (execLeaseGrant sid)).goOn sid
      | _ => s.grantLease sid

def State.leaseStage (s : State) : State :=
  let cores := ((SMap.keys s.strands).map fun sid => (ttOf sid, (s.placeOfStrand sid).coreNo)).eraseDups
  { cores.foldl (fun s c => s.grantCore c.1 c.2) s with stage := .issue }

/-- The strands with a bundle due issue it, in increasing order. -/
def State.issueStage (s : State) : State :=
  { s with todo := ((SMap.keys s.strands).filter s.due).map Agent.strand, stage := .sample }

def State.sampleStage (s : State) : State := { s.sampleAll.sendOwn.syncStage with stage := .untimed }

/-! ### Untimed work -/

/-- Answers to the waits that a Hen or the Mule answers; what an observed load lacks is asked for. -/
def State.answersStage (s : State) : State :=
  (SMap.keys s.strands).foldl (fun s sid =>
    let st := s.strand sid
    if st.life ≠ 1 ∨ s.abandons sid then s
    else match st.wait with
      | .ldc _ cap o _ => if (s.strand sid).begun then (s.askByte sid cap o).try (execLdcArrival sid) else s
      | .held _ _ => if st.begun then s.gateThere sid else s
      | .bind _ _ _ => s.try (execBindAnswer sid)
      | .wsseal _ _ _ _ _ _ => s.try (execWssealAnswer sid)
      | .svc _ _ _ _ => s.try (execSvcComplete sid)
      | _ => s) s

/-- A flit in a bridge or a link stage has one gcy of its owner less to stand there. -/
def State.passStage (s : State) (station : Nat) (x : Seated) : State :=
  let l := SMap.get [] s.flits station
  { s with flits := SMap.set [] s.flits station (l.map fun y => if y = x then { y with left := y.left - 1 } else y) }

/-- A flit whose stay in a link stage is over stands at the router, where the link's entry connects it. -/
def State.leaveLink (s : State) (n : Nat) (x : Seated) : State :=
  let l := SMap.get [] s.flits (linkStage n)
  let s := { s with flits := SMap.set [] s.flits (linkStage n) (l.erase x) }
  if connects (s.entryNow s.linkTabs n) then s.seat (linkSeat n).1 (linkSeat n).2 1 x.flit else s.loseFlit x.flit

/-- Flits whose owner's gcy this is move on, those of one owner by their stream numbers; a flit on a bridge arrives without error unless an
event says otherwise. -/
def State.flitStage (s : State) : State :=
  let all := s.flits.flatMap fun x => x.2.map fun f => (x.1, f)
  (sortBy (fun a b => decide (a.2.flit.stream < b.2.flit.stream)) all).foldl (fun s y =>
    let (r, x) := y
    if s.gclk.toNat ≤ x.at_ then s
    else if r < 192 then if s.holds 0x08 r x.flit then s.try (execRouterFlit r x.port x.lane) else s
    else if r < 256 then
      let src := (r - 192) / 8
      let dst := (r - 192) % 8
      if s.holds 0x09 (bridgeNo src dst) x.flit then
        (if x.left ≤ 1 then s.try (execBridgeFlit src dst x.lane x.flit 0) else s.passStage r x)
      else s
    else if s.holds 0x0A (r - 256) x.flit then (if x.left ≤ 1 then s.leaveLink (r - 256) x else s.passStage r x)
    else s) s

/-- The servers with untimed work: engines, Geese, the DMA engine, ports. -/
def State.servers (s : State) : List Nat :=
  ((s.jobs.filter fun j => j.2.st == .started).map fun j => oxServer (s.placeOfStrand j.2.sid) j.2.q).eraseDups ++
    (s.colls.map fun c => gooseServer c.2.die).eraseDups ++ (if s.bulks.isEmpty then [] else [dmaServer]) ++
    (s.ports.filterMap s.opServer).eraseDups

/-- Queues with a WAIT. -/
def State.waits (s : State) : List (Nat × Nat) :=
  s.funcs.flatMap fun f => f.2.queues.filterMap fun q => if q.2.wait.isSome then some (f.1, q.1) else none

/-- A waiting job or collective may start: its strand and timetable have not stopped (f10 R260, R270). -/
def State.mayStart (s : State) (sid : Nat) : Bool :=
  let t := s.ttOfStrand sid
  let p := s.placeOfStrand sid
  (t.cause == 0 || !s.stopped (ttOf sid)) && ((s.strand sid).life != 4 || t.modes.any fun m => m.1 == p.die * 12 + p.clu && m.2 == 0)

/-- One gcy of untimed work, the Mule's once its firmware has started (f09 R257); then every Hen busy for the tenant whose turn it is runs a word, and so does every
hart that has one: a hart whose word is zero has no program there (DESIGN CHOICE, log entry 59). -/
def State.untimedStage (s : State) : State :=
  let s := s.tryAll (SMap.keys s.jobs) execOxJobFinish
  let s := s.tryAll (SMap.keys s.gates) execGateGrant
  let s := s.answersStage
  let s := s.wanted.foldl (fun s x => s.try (execExtentResident x.1 x.2.1 x.2.2)) s
  let s := s.tryAll ((SMap.keys s.strands).filter s.mayStart) execCollStart
  let s := s.tryAll s.servers execTenantTurn
  let s := s.tryAll ((SMap.keys s.hens).map (· / 256)).eraseDups execHenRequest
  let s := (SMap.keys s.colls).foldl State.collRefused s
  let s := s.tryAll (SMap.keys s.colls) execCollComplete
  let s := (SMap.keys s.colls).foldl (fun s c => s.tryAll (s.packages) (execCollTimeout c)) s
  let s := s.tryAll (SMap.keys s.colls) execHoldSend
  let s := s.tryAll (SMap.keys s.tts) execRecordInstall
  let s := s.tryAll (SMap.keys s.remotes) execRetransmitTimeout
  let s := s.flitStage.postStage
  let s := s.waits.foldl (fun s x => (s.try (execWaitRelease x.1 x.2)).try (execWaitTimeout x.1 x.2)) s
  let s := s.tryAll (List.range 32) execSigwaitWake
  let s := if s.bringup < 2 then s else s.muleTurn
  let harts := (List.finRange 32).filter fun n => (s.hart n).sleep.isNone && s.hartWord n != 0
  { s with todo := ((SMap.keys s.hens).filter fun k => (s.hen k).cur.isSome && s.turn (henServer (k / 256)) == some (k % 256)).map Agent.hen ++ harts.map Agent.hart, stage := .land }

/-! ### The end of a gcy -/

def State.landStage (s : State) : State := { s.armStage.tryAll (SMap.keys s.tts) execTimedPerform with stage := .settle }

/-- Job starts of every strand, by engine and, within it, by slot group (f07 R183). -/
def State.startJobs (s : State) : State :=
  let l := (SMap.keys s.strands).flatMap fun sid => (List.range 4).map fun q => (q, (s.strand sid).psg % 4, sid)
  let order := sortBy (fun a b => decide (a.1 < b.1) || (a.1 == b.1 && decide (a.2.1 < b.2.1))) l
  order.foldl (fun s x => if s.mayStart x.2.2 then s.try (execOxJobStart x.2.2 x.1) else s) s

/-- `n` tries of a step that does one of several things. -/
def State.repeatTry (s : State) (n : Nat) (f : State → Result) : State := (List.range n).foldl (fun s _ => s.try f) s

/-- What becomes visible to a strand's partners. -/
def State.settleStrand (s : State) (sid : Nat) : State :=
  let s := s.modStrand sid Strand.settleMarkers
  let st := s.strand sid
  let s := s.repeatTry st.rels.length (execGateRelease sid)
  let s := s.repeatTry st.sigs.length (execSemsigApply sid)
  s.repeatTry st.qbheld.length (execQbVisibleUpdate sid)

/-- Arrivals, settled discards and ends of strands; then barriers close and timetables stop. -/
def State.endings (s : State) : State :=
  let ks := SMap.keys s.strands
  let s := s.tryAll ks execMstepArrival
  let s := ks.foldl (fun s sid => s.settleDiscard sid) s
  let open_ := (SMap.keys s.tts).filter fun k => (s.tt k).life == 1 && !(s.alive k).isEmpty &&
    ((s.alive k).all fun sid => (s.strand sid).ending || (s.strand sid).arrived.isSome) && !(s.atLast k && (s.barrierFail k).isSome)
  let s := open_.foldl (fun s k => s.askCommits k) s
  let s := s.tryAll ks execStrandEnd
  let s := (SMap.keys s.tts).foldl (fun s k => (s.tellStop k).closeBarrier k) s
  s.tryAll (SMap.keys s.tts) execTimetableStop

/-- Pre-emption and admission. -/
def State.weaverStage (s : State) : State :=
  let s := match s.preempt with
    | none => s
    | some p =>
      let v := p.victim
      let s := s.tryAll (s.clustersOf v) (execPreemptRequest v)
      (((s.try (execSaveCommit v)).try (execVictimVacated v)).try (execPreemptCancel v))
  let s := (s.try execCompactionUpdate).try execCompactTimeout
  let s := s.tryAll (s.requests.map fun r => r.id) execAgeRaise
  s.try execAdmit

def State.settleStage (s : State) : State :=
  let ks := SMap.keys s.strands
  let s := ks.foldl State.settleStrand s
  let s := s.tryAll (ks.filter fun sid => !s.abandons sid || ((s.strand sid).ran && !(s.strand sid).halt)) execSemwaitServed
  let s := s.startJobs.endings.weaverStage
  { s with stage := .tick }

/-- The meter of a frozen vcy (f09 R252). At a barrier only the gcy of a compaction's hold past the start it would otherwise have had count
(f02 R42), and those of a start put off by a commit (f06 R168): the vcy up to the barrier value are counted when it is known (f03 R68). -/
def State.frozenMeter (s : State) (sid : Nat) : Option Nat :=
  let st := s.strand sid
  if s.refreshHeld sid st.nextVcy then some 26
  else match st.wait with
    | .meet => some 23
    | .lease | .mlease => some 25
    | .refresh _ => some 26
    | .barrier => match (s.ttOfStrand sid).wouldBe with
      | some g => if g ≤ s.gclk.toNat then some 28 else none
      | none => if (s.ttOfStrand sid).late then some 24 else none
    | _ => some 22

/-- This gcy is one a suspended strand loses: in the phase set it held at its stop point, after the stop (f09 R252). -/
def Strand.lostGcy (st : Strand) (g : Nat) : Bool :=
  match st.susp with
  | some (stride, phase, at_) => decide (at_ < g) && g % stride == phase
  | none => false

/-- A strand's frozen, suspended or replayed vcy is metered, its events are counted, and its gcy is over. A suspended strand loses the gcy
of its phase set until it runs its first vcy after resume. -/
def State.tickStrand (s : State) (sid : Nat) : State :=
  let s := if (s.strand sid).ran ∧ (s.strand sid).life ≠ 4 then s.modStrand sid fun st => { st with susp := none } else s
  let st := s.strand sid
  let tt := ttOf sid
  let s :=
    if st.susp.isSome ∧ (st.life = 1 ∨ st.life = 4) then
      (if st.lostGcy s.gclk.toNat then s.meterTt tt 28 1 else s)
    else if st.ran then (if st.replaying then s.meterTt tt 27 1 else s)
    else if st.begun then match s.frozenMeter sid with
      | some k =>
        (s.meterTt tt k 1).modStrand sid fun st =>
          let st := st.count 3 1
          let st := if k = 25 then st.count 5 1 else st
          if k = 26 then st.count 7 1 else st
      | none => s
    else s
  s.modStrand sid fun st =>
    let add := fun (st : Strand) (n : Nat) =>
      let k := SMap.get 0 st.events (st.getCsr (0x080 + n)).toNat
      if k = 0 then st else st.setCsr (0x088 + n) (st.getCsr (0x088 + n) + BitVec.ofNat 64 k)
    let st := if st.replaying then st else (List.range 8).foldl add st
    let st := st.ecsel.foldl (fun st x => st.setCsr x.1 x.2) st
    { st with events := [], ecsel := [], raised := 0, ran := false, begun := false }

/-- Records taken from the work queues on this gcy leave them. -/
def Timetable.dropTaken (t : Timetable) : Timetable :=
  { t with
    wq := (List.range 4).foldl (fun m q => SMap.set [] m q ((SMap.get [] m q).drop (SMap.get 0 t.wqTaken q))) t.wq, wqTaken := [] }

/-- The gcy ends: its frames go out, and an error corrected on it is counted (f10 R263; log entry 155). -/
def State.tickStage (s : State) : State :=
  let s := ((SMap.keys s.strands).foldl State.tickStrand s).sendFrames
  let err := Config.softError s.gclk.toNat
  { s with
    secded := if 1 ≤ err.1 ∧ err.1 ≤ 9 then (s.countError err.1 err.2).secded else s.secded,
    tts := SMap.mapVals (fun _ t => if t.wqTaken.isEmpty then t else t.dropTaken) s.tts, landed := [],
    tenants := SMap.mapVals (fun _ t => { t with before := t.meters }) s.tenants,
    gclk := s.gclk + 1, stage := .outside }

/-- What the machine does when no agent has a word to run. -/
def State.stageStep (s : State) : State :=
  match s.stage with
  | .outside => s.outsideStage
  | .clock => s.clockStage
  | .takeUp => s.takeUpStage
  | .meet => s.meetStage
  | .lease => s.leaseStage
  | .issue => s.issueStage
  | .sample => s.sampleStage
  | .untimed => s.untimedStage
  | .land => s.landStage
  | .settle => s.settleStage
  | .tick => s.tickStage

/-! ### Placing a word where the next step fetches it -/

/-- A word of a slot's map in a bundle of its own, or a header, in timetable 0's strand 0. -/
def State.placeStrand (s : State) (slot : Option Nat) (w : Word) : State :=
  let code : SMap Word := match slot with
    | some k => SMap.set 0 (SMap.set 0 [] 0 (0x7F010000#32 ||| BitVec.ofNat 32 (2 ^ k))) 1 w
    | none => SMap.set 0 [] 0 w
  let len := match slot with
    | some _ => 2
    | none => 1 + slotCount w
  let t := s.tt 0
  let s := s.setTt 0 { t with
    life := 1, img := { t.img with code := SMap.set [] t.img.code 0 code, codeLen := SMap.set 0 t.img.codeLen 0 len } }
  let st := s.strand 0
  let s := s.setStrand 0 { st with
    life := 1, cls := 0, slots := slot.toList, slotPc := 1, bundle := 0, pc := if slot.isSome then 2 else 0, wait := .none, halt := false,
    ran := true }
  { s with cur := .strand 0 }

/-- A word of Hen code as the routine of port 0. -/
def State.placeHen (s : State) (w : Word) : State :=
  let h := s.hen 0
  let r : HenReq := ⟨0, opHen, 0, 0, 0, 0, false, 0, 0, 128, [], [], [], none, none, 0, 0, 0⟩
  { s.setHen 0 { h with cur := some (h.cur.getD r), base := s.routines.length, pc := 0, len := 1 } with
    routines := s.routines ++ bytesOf 4 w.toNat, cur := .hen 0 }

/-- A Virbel word at hart 0's pc. -/
def State.placeHart (s : State) (w : Word) : State :=
  { s.setHart 0 { s.hart 0 with sleep := none } with sram := s.sram.writeN (s.hart 0).pc.toNat (bytesOf 4 w.toNat), cur := .hart 0 }

end Sys2Proof.Machine
end

