-- ==== Sys2Proof/Machine/Step.lean ====
section
/-! DEFINITION. One step of the machine: the agent whose turn it is runs one word; with none, the next agent of the list takes its turn;
with an empty list, the next stage of the gcy takes place (log entry 11). -/
namespace Sys2Proof.Machine

/-- One step. -/
def step (s : State) : Host.Outcome State Fault Refusal :=
  match s.cur with
  | .strand sid => s.strandStep sid
  | .hen port => s.henStep port
  | .hart n => s.hartStep n
  | .none =>
    match s.todo with
    | a :: rest => .next { s with cur := a, todo := rest }
    | [] => .next s.stageStep

/-- `s` with an instruction word where the next step fetches it: a Hen word in port 0's routine, a Virbel word at hart 0's pc, a header at
strand 0's pc, any other word in its slot of strand 0's bundle. -/
def State.withFetchWord (s : State) (_nbits w : Nat) : State :=
  let v : Word := BitVec.ofNat 32 w
  match anyMap v with
  | some (.hMap, _) => s.placeHen v
  | some (.virbel, _) => s.placeHart v
  | some (.vMap, _) => s.placeStrand (some 1) v
  | some (.xMap, _) => s.placeStrand (some 2) v
  | some (.tMap, _) => s.placeStrand (some 3) v
  | some (_, .bndl ..) => s.placeStrand Option.none v
  | _ => s.placeStrand (some 0) v

end Sys2Proof.Machine
end

