-- ==== Sys2Proof/Safety.lean ====
section
/-! DEFINITION. What counts as a safe run, in the terms the claims use: every map of the machine is in its one canonical form, and stays so. -/
namespace Sys2Proof.Machine

/-- The memory of the package and the Mule's SRAM are in canonical form: keys strictly rising, no entry equal to what an unlisted address
reads as. -/
def State.memOk (s : State) : Bool := s.mem.wf && s.sram.wf

end Sys2Proof.Machine
end

