-- ==== Sys2Proof/Certificates/Slice0/Obligations.lean ====
section
/-! DEFINITION. The statements about the model, each formalising rules of spec/ as its docstring says. -/

open Sys2Proof Sys2Proof.Machine

/-! ### Words and maps -/

/-- The example words of the instruction reference (R341..R346, R354, R375, R390, R394, R399, R404; others of the common, V, X and T maps, of Hen code and of R244 beside them) decode
to the instructions they stand for, and words with a non-zero reserved field do not decode. -/
def Obligations.ExampleWordsDecode : Prop :=
  (decodeSlot 0 0x010C1080 = some (.add 3 1 2) ∧ decodeSlot 0 0x100C1084 = some (.sel 3 1 2 4) ∧
   decodeSlot 0 0x202C0010 = some (.addi 11 0 16) ∧ decodeSlot 0 0x21450206 = some (.bfx 17 16 8 6) ∧
   decodeSlot 0 0x285001A1 = some (.movi 20 0 0x1A1) ∧ decodeSlot 0 0x141C0001 = some (.getcycVclk 7) ∧
   decodeSlot 0 0x31007FE8 = some (.jmp 0x7FE8) ∧ decodeSlot 0 0x82501A00 = some (.sts 20 1 40 0) ∧
   decodeSlot 0 0x880C1080 = some (.sfadd 3 1 2) ∧ decodeSlot 0 0xA9000002 = some (.wqwait 2) ∧
   decodeSlot 0 0x1348044C = some (.agen 18 0 17 12) ∧ decodeSlot 0 0xA1000000 = some .sstep ∧ decodeSlot 0 0xA1000800 = some (.sstepM 0)) ∧
  (decodeSlot 1 0x8C101001 = some (.vabs 0 4 1 0 1) ∧ decodeSlot 1 0xF2181929 = some (.por 6 1 36 1 0 1) ∧
   decodeSlot 1 0xF41C2010 = some (.pcnt 7 2 1) ∧ decodeSlot 2 0x98070000 = some (.mzero 7) ∧
   decodeSlot 3 0x9A182380 = some (.syncarm 6 1 7 0) ∧ decodeSlot 3 0x91000293 = some (.qbwaitE 5 3) ∧
   decodeSlot 3 0xCA086800 = some (.coll 1 1 40) ∧
   decodeSlot 3 0xA4148300 = some (.bind 5 4 6) ∧ decodeSlot 3 0x99000181 = some (.semsig 3 1) ∧ decodeSlot 3 0x9B242380 = some (.syncwait 9 1 7 0) ∧ decodeHen 0x85003001 = some (.haddl 3 1) ∧
   decodeMule 0x00C5950B = some (.vbBfx 12 11 10)) ∧
  (decodeSlot 0 0x010C1081 = none ∧ decodeSlot 1 0x010C1080 = none ∧ decodeSlot 1 0xF2146103 = none ∧ decodeHen 0x2A000000 = none ∧ decodeHeader 0x7F000000 = none)

/-- Every well-formed instruction that has a word is read back from it by the decoder of its map, with every operand (f12 R302..R312). -/
def Obligations.DecodeEncodeAgree : Prop :=
  ∀ (i : Instr) (k : MapKind), i.mapKind = some k → i.wellFormed = true →
    ∃ w, encode i = some w ∧ decode k w = some i

/-- A word the decoder of a map accepts is the word of the instruction it gives, which is well formed and of that map: no bit of a
word is ignored, so that a word with a non-zero reserved bit is refused (f12 R316). -/
def Obligations.DecodedWordIsTheEncoding : Prop :=
  ∀ (k : MapKind) (w : Word) (i : Instr), decode k w = some i →
    encode i = some w ∧ i.mapKind = some k ∧ i.wellFormed = true

/-! ### Steps -/

/-- A step runs the decoded word of the agent whose turn it is. A strand's header issues when no slot word is open; else the word of the
first open slot runs, with that slot taken; the bundle is finished after its last word. A Hen's word is run with its code position
advanced, a Mule hart's at its pc. -/
def Obligations.StepRunsDecodedWord : Prop :=
  (∀ (s : State) (sid : Nat) (i : Instr), s.cur = .strand sid → (s.strand sid).slots = [] →
    (s.strand sid).pc < s.codeLen sid → decodeHeader (s.codeWord sid (s.strand sid).pc) = some i →
    step s = thenDo (exec i s) (State.afterHeader sid)) ∧
  (∀ (s : State) (sid slot : Nat) (rest : List Nat) (i : Instr), s.cur = .strand sid → (s.strand sid).slots = slot :: rest →
    decodeSlot slot (s.codeWord sid (s.strand sid).slotPc) = some i →
    step s = thenDo (exec i (s.modStrand sid Strand.takeSlot)) (State.afterSlot sid)) ∧
  (∀ (s : State) (p : Nat) (i : Instr), s.cur = .hen p → (s.hen p).cur.isSome → (s.hen p).pc < (s.hen p).len →
    decodeHen (s.henWord p) = some i →
    step s = thenDo (exec i (s.setHen p { s.hen p with pc := (s.hen p).pc + 1 })) State.idle) ∧
  (∀ (s : State) (n : Fin 32) (i : Instr), s.cur = .hart n → (s.hart n).sleep = none → decodeMule (s.hartWord n) = some i →
    step s = thenDo (exec i s) State.idle)

/-- A word of a strand's slot that decodes to nothing is suppressed: ILLOP is recorded with the bundle's address, source 8 counts it, and
the other words of the bundle go on (R317); a common word never stands in another slot than S. -/
def Rule.StepSuppressesIllegalWord : Prop :=
  ∀ (s : State) (sid slot : Nat) (rest : List Nat), s.cur = .strand sid → (s.strand sid).slots = slot :: rest →
    decodeSlot slot (s.codeWord sid (s.strand sid).slotPc) = none →
    (s.codeWord sid (s.strand sid).slotPc).extractLsb' 12 20 ≠ 0xA2000#20 →
    step s = .next (State.afterSlot sid ((s.modStrand sid Strand.takeSlot).suppressHere sid Code.illop slot))

/-- With no word to run, the agents of the gcy take their turns in order, and then the next stage of the gcy takes place; the counter
rises by 1 in the last stage of a gcy. A hart's word that is no Virbel word runs as RV64GC (log entry 59). (The order of the stages is the
model's own: log entry 11.) -/
def Rule.StepTakesTurnsThenStages : Prop :=
  (∀ (s : State) (a : Agent) (rest : List Agent), s.cur = .none → s.todo = a :: rest →
    step s = .next { s with cur := a, todo := rest }) ∧
  (∀ s : State, s.cur = .none → s.todo = [] → step s = .next s.stageStep) ∧
  (∀ s : State, s.stage = .tick → s.stageStep.gclk = s.gclk + 1 ∧ s.stageStep.stage = .outside) ∧
  (∀ (s : State) (n : Fin 32), s.cur = .hart n → (s.hart n).sleep = none → decodeMule (s.hartWord n) = none →
    step s = .next (s.rvStep n).idle)

/-! ### Reset and invariants -/

/-- The machine after reset: no timetable and no strand, memory with nothing listed, no queue enabled, no link trained, the untimed
reserves of R33 and the bounds of R42, R87 and R269 at their reset values. The counter's 0, and that of the tenants of R20 only tenant 0
exists, are the model's choice (log entry 3). -/
def Obligations.ResetLeaves : Prop :=
  State.reset.gclk = 0 ∧ State.reset.mem = [] ∧ State.reset.sram = [] ∧ State.reset.cur = .none ∧
  (∀ tt, State.reset.tt tt = Timetable.blank) ∧ (∀ sid, State.reset.strand sid = Strand.blank) ∧
  (∀ fn q, (State.reset.queue fn q).st = 0) ∧ (∀ n, ((State.reset.tenant n).live = true ↔ n = 0)) ∧
  State.reset.table = [] ∧ State.reset.compactWait = 2 ^ 24 ∧ State.reset.ageBound = 2 ^ 26 ∧
  State.reset.preemptDl = 2 ^ 20 ∧ State.reset.preemptLimit = 2 ^ 28 ∧
  ∀ k, SMap.get (0, 0) State.reset.reserve k = if k ∈ [0x04, 0x05, 0x07, 0x08, 0x09, 0x0A] then (16, 15) else (0, 0)

/-- The memory and the Mule's SRAM are in canonical form after reset. -/
def Obligations.ResetMemoryCanonical : Prop := State.reset.memOk = true

/-- Every step keeps the memory of the package and the Mule's SRAM in their one canonical form (addresses strictly rising, no entry
equal to what an unlisted address reads as), from every state in which they are. -/
def Obligations.StepKeepsMemoryCanonical : Prop :=
  ∀ s s' : State, s.memOk = true → step s = .next s' → s'.memOk = true

/-! ### Integer words of the common map -/

/-- What the integer words put into Dd: the destination, the registers read, the latency, whether the taint of the registers read goes
to the result, and the value, as R341..R344, R354 and R375 give them. `r` reads a register, `g` is the gcy. -/
def intSpec (g : BitVec 64) (r : Nat → BitVec 64) :
    Instr → Option (BitVec 6 × List (BitVec 6) × Nat × Bool × BitVec 64)
  | .add d a b => some (d, [a, b], 1, true, BitVec.ofNat 64 ((r a.toNat).toNat + (r b.toNat).toNat))
  | .sub d a b => some (d, [a, b], 1, true, BitVec.ofInt 64 ((r a.toNat).toInt - (r b.toNat).toInt))
  | .mul d a b => some (d, [a, b], 3, true, BitVec.ofNat 64 ((r a.toNat).toNat * (r b.toNat).toNat))
  | .mulh d a b => some (d, [a, b], 3, true, BitVec.ofInt 64 (((r a.toNat).toInt * (r b.toNat).toInt) / 2 ^ 64))
  | .div d a b => some (d, [a, b], 18, true,
      if (r b.toNat) = 0 then BitVec.allOnes 64 else BitVec.ofInt 64 ((r a.toNat).toInt.tdiv (r b.toNat).toInt))
  | .rem d a b => some (d, [a, b], 18, true,
      if (r b.toNat) = 0 then r a.toNat
      else BitVec.ofInt 64 ((r a.toNat).toInt - (r b.toNat).toInt * (r a.toNat).toInt.tdiv (r b.toNat).toInt))
  | .and_ d a b => some (d, [a, b], 1, true, r a.toNat &&& r b.toNat)
  | .or_ d a b => some (d, [a, b], 1, true, r a.toNat ||| r b.toNat)
  | .xor_ d a b => some (d, [a, b], 1, true, r a.toNat ^^^ r b.toNat)
  | .shl d a b => some (d, [a, b], 1, true, BitVec.ofNat 64 ((r a.toNat).toNat * 2 ^ ((r b.toNat).toNat % 64)))
  | .shr d a b => some (d, [a, b], 1, true, BitVec.ofNat 64 ((r a.toNat).toNat / 2 ^ ((r b.toNat).toNat % 64)))
  | .sar d a b => some (d, [a, b], 1, true, BitVec.ofInt 64 ((r a.toNat).toInt / 2 ^ ((r b.toNat).toNat % 64)))
  | .min d a b => some (d, [a, b], 1, true,
      if (r a.toNat).toInt ≤ (r b.toNat).toInt then r a.toNat else r b.toNat)
  | .max d a b => some (d, [a, b], 1, true,
      if (r a.toNat).toInt ≤ (r b.toNat).toInt then r b.toNat else r a.toNat)
  | .slt d a b => some (d, [a, b], 1, true, if (r a.toNat).toInt < (r b.toNat).toInt then 1 else 0)
  | .sel d a b x => some (d, [a, b, x], 1, true, if r x.toNat = 0 then r b.toNat else r a.toNat)
  | .agen d a b x => some (d, [a, b], 1, true, BitVec.ofNat 64 ((r a.toNat).toNat + (r b.toNat).toNat * 2 ^ x.toNat))
  | .addi d a i => some (d, [a], 1, true, BitVec.ofInt 64 ((r a.toNat).toInt + i.toInt))
  | .bfx d a lo wm => some (d, [a], 1, true, BitVec.ofNat 64 ((r a.toNat).toNat / 2 ^ lo.toNat % 2 ^ (wm.toNat + 1)))
  | .movi d h i => some (d, [], 1, false, BitVec.ofInt 64 (i.toInt * 2 ^ (16 * h.toNat)))
  | .getcycGclk d => some (d, [], 1, false, g)
  | _ => none

/-- The integer words in a strand (R341..R344, R354, R375): the one effect is the write of the result to Dd, pending at issue + latency
from the S slot with the taint of the registers read; nothing else of the machine changes. -/
def Obligations.IntegerWordsInAStrand : Prop :=
  ∀ (s : State) (sid : Nat) (i : Instr) (d : BitVec 6) (srcs : List (BitVec 6)) (lat : Nat) (tn : Bool) (v : BitVec 64),
    s.cur = .strand sid → i.wellFormed = true → intSpec s.gclk (s.strand sid).rd i = some (d, srcs, lat, tn, v) →
    exec i s = .next (s.setStrand sid ((s.strand sid).push 0 lat
      (.d d.toNat v (tn && srcs.any fun x => (s.strand sid).rt x.toNat))))

/-- The integer words of R341..R344, R354 and R375 in Hen code (R305, R339): Dd takes the result at once; no other register of the context changes, and nothing else of
the machine; D0 stays 0. A word that names a register above D31 ends the request with NOROUTINE. -/
def Obligations.IntegerWordsInAHen : Prop :=
  (∀ (s : State) (p : Nat) (i : Instr) (d : BitVec 6) (srcs : List (BitVec 6)) (lat : Nat) (tn : Bool) (v : BitVec 64),
    s.cur = .hen p → i.wellFormed = true → intSpec s.gclk (s.hen p).rd i = some (d, srcs, lat, tn, v) →
    d.toNat < 32 → (∀ x ∈ srcs, x.toNat < 32) →
    ∃ t, exec i s = .next t ∧ (∀ j, j ≠ p → t.hen j = s.hen j) ∧ t = s.setHen p (t.hen p) ∧
      ∀ x, (t.hen p).rd x = if x = d.toNat ∧ x ≠ 0 then v else (s.hen p).rd x) ∧
  (∀ (s : State) (p : Nat) (i : Instr) (d : BitVec 6) (srcs : List (BitVec 6)) (lat : Nat) (tn : Bool) (v : BitVec 64),
    s.cur = .hen p → intSpec s.gclk (s.hen p).rd i = some (d, srcs, lat, tn, v) →
    (32 ≤ d.toNat ∨ ∃ x ∈ srcs, 32 ≤ x.toNat) → exec i s = .next (s.henEnd p 0x09))

/-- CLZ, POPC, BFI and MOVHI in a strand, by what each bit of the result is (R341, R344, R375). -/
def Obligations.BitWordsInAStrand : Prop :=
  ∀ (s : State) (sid : Nat) (d a : BitVec 6), s.cur = .strand sid →
    let st := s.strand sid
    let pends := fun (i : Instr) (v : BitVec 64) (tn : Bool) =>
      exec i s = .next (s.setStrand sid (st.push 0 1 (.d d.toNat v tn)))
    (∃ n : Nat, pends (.clz d a) (BitVec.ofNat 64 n) (st.rt a.toNat) ∧ n ≤ 64 ∧ (st.rd a.toNat).toNat < 2 ^ (64 - n) ∧
      (n < 64 → 2 ^ (63 - n) ≤ (st.rd a.toNat).toNat)) ∧
    pends (.popc d a) (BitVec.ofNat 64 ((List.range 64).filter fun k => (st.rd a.toNat).getLsbD k).length) (st.rt a.toNat) ∧
    (∀ lo wm : BitVec 6, lo.toNat + wm.toNat < 64 → ∃ v, pends (.bfi d a lo wm) v (st.rt d.toNat || st.rt a.toNat) ∧
      ∀ k < 64, v.getLsbD k = if lo.toNat ≤ k ∧ k ≤ lo.toNat + wm.toNat then (st.rd a.toNat).getLsbD (k - lo.toNat)
        else (st.rd d.toNat).getLsbD k) ∧
    (∀ (h : BitVec 2) (i : BitVec 16), ∃ v, pends (.movhi d h i) v false ∧
      ∀ k < 64, v.getLsbD k = if 16 * h.toNat ≤ k ∧ k ≤ 16 * h.toNat + 15 then i.getLsbD (k - 16 * h.toNat)
        else (st.rd d.toNat).getLsbD k)

/-- A word that decodes to nothing is suppressed (R317); with no agent at hand a step gives the turn to the next one waiting, and with none waiting it
does the stage of the gcy and goes to the next. -/
def Obligations.StepsWithoutADecodedWord : Prop :=
  Rule.StepSuppressesIllegalWord ∧ Rule.StepTakesTurnsThenStages

/-! ### Single rules of the common map -/

/-- The word's one effect is a write to Dd that lands at the end of vcy issue + `lat`, from the S slot: in whatever state `u` it lands,
Dd takes `v` with taint `tn`, a write to D0 being discarded, and nothing else changes (R62, R303). -/
def PerformsD (s : State) (sid : Nat) (i : Instr) (slot lat : Nat) (d : BitVec 6) (v : BitVec 64) (tn : Bool) : Prop :=
  ∃ p : Pend, p.due = (s.strand sid).vclk + lat ∧ p.samp = none ∧ p.slot = slot ∧ p.seq = (s.strand sid).seq ∧
    exec i s = .next (s.setStrand sid { s.strand sid with
      pend := (s.strand sid).pend ++ [p], seq := (s.strand sid).seq + 1 }) ∧
    ∀ (u : State) (old : Timetable), u.land old sid p.eff = u.setStrand sid ((u.strand sid).wd d.toNat v tn)

/-- ADDI and AGEN (R342, R343): Dd := Wrap64(Da + SignExtend(imm12, 12)) and Dd := Wrap64(Da + Db · 2^x) at issue + 1 vcy, with the
taint of the registers read. -/
def Obligations.AddiAndAgenPerform : Prop :=
  ∀ (s : State) (sid : Nat) (d a b x : BitVec 6) (i : BitVec 12), s.cur = .strand sid →
    PerformsD s sid (.addi d a i) 0 1 d
      (BitVec.ofInt 64 (((s.strand sid).rd a.toNat).toNat + i.toInt)) ((s.strand sid).rt a.toNat) ∧
    PerformsD s sid (.agen d a b x) 0 1 d
      (BitVec.ofNat 64 (((s.strand sid).rd a.toNat).toNat + ((s.strand sid).rd b.toNat).toNat * 2 ^ x.toNat))
      ((s.strand sid).rt a.toNat || (s.strand sid).rt b.toNat)

/-- GETCYC VCLK, RDCSR, WRCSR and CLRT (R354, R391, R430, R349) complete: the issue vcy, or the CSR as it reads at the start of the issue
vcy, goes to Dd untainted at issue + 1; a writable CSR takes Da at issue + 1; the taint bits of the four registers named are cleared at
the end of the issue vcy and their values stay. -/
def Rule.CsrAndTaintWords : Prop :=
  ∀ (s : State) (sid : Nat) (d a b x : BitVec 6) (c : BitVec 12), s.cur = .strand sid →
    let st := s.strand sid
    PerformsD s sid (.getcycVclk d) 0 1 d (BitVec.ofNat 64 st.vclk) false ∧
    PerformsD s sid (.rdcsr d c) 0 1 d (s.readCsr sid c.toNat) false ∧
    (isRwCsr c = true →
      exec (.wrcsr a c) s = .next (s.setStrand sid (st.push 0 1 (.csr c.toNat (st.rd a.toNat))))) ∧
    ∃ m : BitVec 64, exec (.clrt d a b x) s = .next (s.setStrand sid (st.push 0 0 (.clrt m))) ∧
      ∀ (u : State) (old : Timetable), ∃ v, u.land old sid (.clrt m) = u.setStrand sid v ∧ v.d = (u.strand sid).d ∧
        ∀ n < 64, v.taint.getLsbD n =
          ((u.strand sid).taint.getLsbD n && decide (n ≠ d.toNat ∧ n ≠ a.toNat ∧ n ≠ b.toNat ∧ n ≠ x.toNat))

/-- What RDCSR reads of the registers that stand apart (R313, R391, R158, R258): the counters, FAULT, the taint bits with bit 0 reading 0,
stride (0 with no timetable loaded, R314) and phase; every writable number reads what was last written to it, the MMA
entries FT0 to FT15 with the reserved bits of R131 as 0 (R5). -/
def Rule.CsrValues : Prop :=
  ∀ (s : State) (sid : Nat), let st := s.strand sid
    s.readCsr sid 0x000 = s.gclk ∧ s.readCsr sid 0x001 = BitVec.ofNat 64 st.vclk ∧
    s.readCsr sid 0x002 = (if (s.ttOfStrand sid).life = 0 then 0 else BitVec.ofNat 64 (s.ttOfStrand sid).stride) ∧ s.readCsr sid 0x003 = BitVec.ofNat 64 (s.ttOfStrand sid).phase ∧
    s.readCsr sid 0x011 = st.fault ∧ (s.readCsr sid 0x013).getLsbD 0 = false ∧
    (∀ n, 1 ≤ n → n < 64 → (s.readCsr sid 0x013).getLsbD n = st.taint.getLsbD n) ∧
    ∀ c : BitVec 12, isRwCsr c = true → s.readCsr sid c.toNat =
      if 0x040 ≤ c.toNat ∧ c.toNat ≤ 0x04F then st.getCsr c.toNat &&& 0xFF000003FF else st.getCsr c.toNat

/-- No word writes FAULT or another read-only CSR: a WRCSR that names one is suppressed and records ILLOP (R258, R430). -/
def Rule.WrcsrOfReadOnlyIsSuppressed : Prop :=
  ∀ (s : State) (sid : Nat) (a : BitVec 6) (c : BitVec 12), s.cur = .strand sid → isRwCsr c = false →
    exec (.wrcsr a c) s = .next (s.suppressHere sid Code.illop 0)

/-- NOP changes nothing (R378), in a strand and in Hen code. -/
def Rule.NopChangesNothing : Prop :=
  ∀ s : State, (∃ sid, s.cur = .strand sid) ∨ (∃ p, s.cur = .hen p) → exec .nop s = .next s

/-! ### Faults -/

/-- A sticky fault (R258, R259): with CODE 0 in FAULT, all its fields are taken from the fault; with a code there, MORE is set and
nothing else of FAULT changes. No other register of the strand changes, and the timetable remembers the first strand that recorded
one. -/
def Rule.StickyFaultIsTaken : Prop :=
  ∀ (s : State) (sid code slot creg off : Nat), 0 < code → code < 256 → slot < 4 → creg < 32 → off < 2 ^ 48 →
    (s.strand sid).ending = false →
    ∃ f, (s.fault sid code slot creg off).strand sid = { s.strand sid with fault := f } ∧
      (bits (s.strand sid).fault 63 56 = 0 →
        bits f 63 56 = code ∧ bits f 55 54 = slot ∧ bits f 53 53 = 0 ∧ bits f 52 48 = creg ∧ bits f 47 0 = off) ∧
      (bits (s.strand sid).fault 63 56 ≠ 0 → ∀ k < 64, f.getLsbD k = ((s.strand sid).fault.getLsbD k || decide (k = 53))) ∧
      ((s.fault sid code slot creg off).tt (ttOf sid)).firstFault = some (((s.tt (ttOf sid)).firstFault).getD sid) ∧
      (s.fault sid code slot creg off).mem = s.mem ∧
      ∀ j, j ≠ sid → (s.fault sid code slot creg off).strand j = s.strand j

/-- An illegal-instruction exception of a Mule hart (R244; the trap registers are the model's, PRESUMED from RISC-V, log entry 9): every
word of the strand's or the Hen's maps in a hart (log entry 52: the decoder hands a hart no such word), and a Virbel word outside machine
mode, saves the pc, the cause 2 and the status, and goes to machine mode at the base of mtvec. The return gives pc, mode and the interrupt
enable back. -/
def Rule.HartTrapAndReturn : Prop :=
  (∀ (s : State) (n : Fin 32), s.cur = .hart n →
    (∀ (i : Instr) (k : MapKind), i.mapKind = some k → k ≠ .virbel → exec i s = .next (s.setHart n ((s.hart n).trap 2 0))) ∧
    (∀ x y z : BitVec 5, (s.hart n).mode ≠ 3 →
      exec (.vbBfx x y z) s = .next (s.setHart n ((s.hart n).trap 2 0)) ∧
      exec (.vbDispatch x y z) s = .next (s.setHart n ((s.hart n).trap 2 0)) ∧
      exec (.vbRfetch x y z) s = .next (s.setHart n ((s.hart n).trap 2 0)) ∧
      exec (.vbSigwait x y z) s = .next (s.setHart n ((s.hart n).trap 2 0)))) ∧
  ∀ (h : Hart) (c : Nat) (v : BitVec 64), h.mode < 4 →
    (h.trap c v).mode = 3 ∧ (h.trap c v).mepc = h.pc ∧ (h.trap c v).mcause = BitVec.ofNat 64 c ∧ (h.trap c v).mtval = v ∧
    (h.trap c v).x = h.x ∧ (h.trap c v).mstatus.getLsbD 3 = false ∧
    (h.trap c v).mret.pc = h.pc ∧ (h.trap c v).mret.mode = h.mode ∧ (h.trap c v).mret.mstatus.getLsbD 3 = h.mstatus.getLsbD 3

/-! ### Capability derivation, scalar floats, LDS and STS -/

/-- CINC, CSETB and CRESTR (R347): with right D in Ca and the new window inside the old one, Cd takes the narrowed capability at issue + 2;
else Cd takes null and CAPDERIVE is recorded. -/
def Obligations.CapabilitiesNarrow : Prop :=
  ∀ (s : State) (sid : Nat) (d a b : BitVec 6), s.cur = .strand sid →
    let st := s.strand sid
    let c := st.rc a.toNat
    let v := (st.rd b.toNat).toNat
    let x := c.bits
    let gives := fun (i : Instr) (base len rights : Nat) => exec i s = .next (s.setStrand sid (st.push 0 2
      (.c d.toNat ⟨capMake (capTid x) (capObj x) rights base len, c.win⟩)))
    let fails := fun (i : Instr) => exec i s =
      .next ((s.setStrand sid (st.push 0 2 (.c d.toNat Cap.null))).suppressHere sid Code.capDerive 0)
    let may := hasRights (capRights x) rightD = true
    (may ∧ v ≤ capLen x ∧ capBase x + v < 2 ^ 44 → gives (.cinc d a b) (capBase x + v) (capLen x - v) (capRights x)) ∧
    (may ∧ v ≤ capLen x → gives (.csetb d a b) (capBase x) v (capRights x)) ∧
    (may → gives (.crestr d a b) (capBase x) (capLen x) (capRights x &&& (v % 256) &&& 0x7F)) ∧
    (¬ may ∨ capLen x < v ∨ 2 ^ 44 ≤ capBase x + v → fails (.cinc d a b)) ∧ (¬ may ∨ capLen x < v → fails (.csetb d a b)) ∧
    (¬ may → fails (.crestr d a b))

/-- SFADD, SFMUL, SFMA, SFCMP, SFCVT and SDOT4 (R393, R396, R397, R398): the result, with zero above it, goes to Dd and the flags of the operation
are raised, both at the end of issue + latency; SDOT4 raises none. -/
def Obligations.ScalarFloatWords : Prop :=
  ∀ (s : State) (sid : Nat) (d a b x : BitVec 6), s.cur = .strand sid →
    let st := s.strand sid
    let f := fun (r : BitVec 6) => fF32.decode ((st.rd r.toNat).toNat % 2 ^ 32)
    let gives := fun (i : Instr) (lat : Nat) (srcs : List (BitVec 6)) (v : BitVec 64) (fl : BitVec 8) => exec i s =
      .next (s.setStrand sid ((st.push 0 lat (.d d.toNat v (st.taints (srcs.map (·.toNat))))).pushFlags 0 lat fl))
    (gives (.sfadd d a b) 4 [a, b] (BitVec.ofNat 64 (fAdd fF32 (f a) (f b)).1) (fAdd fF32 (f a) (f b)).2) ∧
    (gives (.sfmul d a b) 4 [a, b] (BitVec.ofNat 64 (fMul fF32 (f a) (f b)).1) (fMul fF32 (f a) (f b)).2) ∧
    (gives (.sfma d a b x) 6 [a, b, x] (BitVec.ofNat 64 (fFma fF32 (f a) (f b) (f x)).1) (fFma fF32 (f a) (f b) (f x)).2) ∧
    (∃ r : Bool × BitVec 8, r = fCompare fF32 x.toNat ((st.rd a.toNat).toNat % 2 ^ 32) ((st.rd b.toNat).toNat % 2 ^ 32) ∧
      gives (.sfcmp d a b x) 2 [a, b] (if r.1 then 1 else 0) r.2) ∧
    (gives (.sfcvt d a x) 4 [a] (sfcvtVal x.toNat (st.rd a.toNat)).1 (sfcvtVal x.toNat (st.rd a.toNat)).2) ∧
    (gives (.sdot4 d a b x) 3 [a, b, x] (st.rd x.toNat + BitVec.ofInt 64
      (((List.range 4).map fun k => ((st.rd a.toNat).extractLsb' (8 * k) 8).toInt * ((st.rd b.toNat).extractLsb' (8 * k) 8).toInt).sum)) 0)

/-- LDS and STS (R364, R400), when the offset Db + 8·x is aligned and the checks of R91 pass: LDS reads the eight bytes at its access vcy
into Dd, STS writes the eight bytes of Dd, at the vcy the accessed memory's latency gives; the bytes are those the capability and the
offset name. An unaligned access is suppressed with CAPBOUND, and one that fails its checks with the code of R91 they give; LDS then writes 0.
An LDS in an M-step that would meet a refresh window of the weight store is suppressed with ILLOP, since it may not wait there (R338). -/
def Obligations.LdsAndSts : Prop :=
  ∀ (s : State) (sid : Nat) (d a b x : BitVec 6), s.cur = .strand sid →
    let st := s.strand sid
    let c := st.rc a.toNat
    let o := (st.rd b.toNat + 8 * x.setWidth 64).toNat
    let zero := s.setStrand sid (st.push 0 (s.accLat sid c o ldsLat true) (.d d.toNat 0 (st.rt b.toNat)))
    ((capBase c.bits + o) % 8 = 0 → s.readCheck sid c o 8 (rightR + rightT) = none →
      (s.refreshInM sid (s.accLat sid c o ldsLat true) (s.capBytes sid c o 8) = false →
        exec (.lds d a b x) s = .next (s.setStrand sid (st.pushLoad 0 (s.accLat sid c o ldsLat true)
          (.load (.d d.toNat (st.rt b.toNat)) (s.capBytes sid c o 8) none)))) ∧
      (s.refreshInM sid (s.accLat sid c o ldsLat true) (s.capBytes sid c o 8) = true →
        exec (.lds d a b x) s = .next (s.suppressHere sid Code.illop 0))) ∧
    (∀ code, (capBase c.bits + o) % 8 = 0 → s.readCheck sid c o 8 (rightR + rightT) = some code →
      exec (.lds d a b x) s = .next (zero.suppress sid code 0 a.toNat o)) ∧
    (∀ code, (capBase c.bits + o) % 8 = 0 → s.writeCheck sid c o 8 (rightW + rightT) = some code →
      exec (.sts d a b x) s = .next (s.suppress sid code 0 a.toNat o)) ∧
    ((capBase c.bits + o) % 8 = 0 → s.writeCheck sid c o 8 (rightW + rightT) = none →
      exec (.sts d a b x) s = .next (s.setStrand sid (st.push 0 (s.accLat sid c o ldsLat false)
        (.store ((s.capBytes sid c o 8).zip (bytesOf 8 (st.rd d.toNat).toNat)) none false [])))) ∧
    ((capBase c.bits + o) % 8 ≠ 0 →
      exec (.lds d a b x) s = .next (zero.suppress sid Code.capBound 0 a.toNat o) ∧
      exec (.sts d a b x) s = .next (s.suppress sid Code.capBound 0 a.toNat o))

/-! ### Control flow -/

/-- BR, JMP, CALL and RET (R346) in a strand: with a target inside the code section a taken branch makes the target the next bundle, not
before two vcy have passed (R60), and ends the loops whose body does not hold it (R74); CALL also writes the address of the next bundle
to Da at issue + 1; a branch not taken changes nothing. With a target outside the section a taken BR, a JMP, a CALL and a RET each record
ILLOP and are not taken; that CALL writes its link then too is the model's reading (log entry 87). -/
def Rule.BranchesInAStrand : Prop :=
  ∀ (s : State) (sid : Nat) (a : BitVec 6) (c : BitVec 3) (o : BitVec 15), s.cur = .strand sid →
    let st := s.strand sid
    let target := (st.bundle : Int) + o.toInt
    let jumped := fun (st : Strand) (pc : Nat) => { st with
      redir := some pc, minGap := 2, loops := st.loops.dropWhile fun l => decide (pc < l.first) || decide (l.after ≤ pc) }
    let v := st.rd a.toNat
    let meets := (c = 0 ∧ v.toInt = 0) ∨ (c = 1 ∧ v.toInt ≠ 0) ∨ (c = 2 ∧ v.toInt < 0) ∨ (c = 3 ∧ 0 ≤ v.toInt) ∨
      (c = 4 ∧ 0 < v.toInt) ∨ (c = 5 ∧ v.toInt ≤ 0)
    let linked := st.push 0 1 (.d a.toNat (BitVec.ofNat 64 st.pc) false)
    (¬ meets → exec (.br a c o) s = .next s) ∧
    (0 ≤ target ∧ target < s.codeLen sid →
      (meets → exec (.br a c o) s = .next (s.setStrand sid (jumped st target.toNat))) ∧
      exec (.jmp o) s = .next (s.setStrand sid (jumped st target.toNat)) ∧
      exec (.call a o) s = .next ((s.setStrand sid linked).setStrand sid (jumped linked target.toNat))) ∧
    (v.toNat < s.codeLen sid → exec (.ret a) s = .next (s.setStrand sid (jumped st v.toNat))) ∧
    (¬ (0 ≤ target ∧ target < s.codeLen sid) →
      (meets → exec (.br a c o) s = .next (s.fault sid Code.illop 0 0 st.bundle)) ∧
      exec (.jmp o) s = .next (s.fault sid Code.illop 0 0 st.bundle) ∧
      exec (.call a o) s = .next ((s.setStrand sid linked).fault sid Code.illop 0 0 st.bundle)) ∧
    (s.codeLen sid ≤ v.toNat → exec (.ret a) s = .next (s.fault sid Code.illop 0 0 st.bundle))

/-- LOOP (R365, R73..R75), both count forms, with a body of at most 256 slot words: its counter takes the loop's start value at the end of
the issue vcy; with that below the count the loop is the innermost active one, its body the next n bundles; else the bundle after the
body is next. With a larger body ILLOP is recorded and the bundle after the body is next (R74). -/
def Rule.LoopOpens : Prop :=
  ∀ (s : State) (sid : Nat) (l : BitVec 2) (n : BitVec 8), s.cur = .strand sid →
    let st := s.strand sid
    let k := s.loopKind sid (st.slotPc - 1)
    let body := s.skipBundles sid n.toNat st.pc
    let opened := fun (count : BitVec 64) =>
      let st' := st.push 0 0 (.csr (0x030 + l.toNat) k.1)
      if k.1.toNat < count.toNat then { st' with loops := ⟨l.toNat, st.pc, body.1, count, k.2⟩ :: st.loops }
      else { st' with pc := body.1 }
    let skipped := (s.setStrand sid { st.push 0 0 (.csr (0x030 + l.toNat) k.1) with pc := body.1 }).fault sid Code.illop 0 0 st.bundle
    (body.2 ≤ 256 →
      (∀ c : BitVec 13, exec (.loopImm l n c) s = .next (s.setStrand sid (opened (BitVec.ofNat 64 c.toNat)))) ∧
      ∀ r : BitVec 6, exec (.loopReg l n r) s = .next (s.setStrand sid (opened (st.rd r.toNat)))) ∧
    (256 < body.2 → (∀ c : BitVec 13, exec (.loopImm l n c) s = .next skipped) ∧ ∀ r : BitVec 6, exec (.loopReg l n r) s = .next skipped)

/-- BNDL (R58, R59): a bundle that lies inside the section, is no safe point, needs no lease and waits at no meeting, and whose LEND names
the loop that ends with it, issues: the issue vcy is recorded and counted, the slots its mask names are open, the bundle after it is
next in memory. -/
def Obligations.BundleIssues : Prop :=
  ∀ (s : State) (sid : Nat) (d : BitVec 8) (sy : BitVec 1) (l : BitVec 2) (m : BitVec 4), s.cur = .strand sid → m ≠ 0 →
    let st := s.strand sid
    let n := (List.range 4).countP fun i => m.getLsbD i
    st.pc + 1 + n ≤ s.codeLen sid → (sy = 0 ∨ st.met = true) → m.getLsbD 2 = false → lendFor st.loops (st.pc + 1 + n) = l.toNat →
    ∃ t, exec (.bndl d sy 0 l m) s = .next t ∧ t.strand sid = { ((st.count 2 1).push 0 0 (.meter 21 1)) with
        lastIss := some st.vclk, bundle := st.pc, slotPc := st.pc + 1, pc := st.pc + 1 + n,
        slots := (List.range 4).filter fun i => m.getLsbD i, minGap := 1, met := false } ∧
      (∀ j, j ≠ sid → t.strand j = s.strand j) ∧ t.tts = s.tts ∧ t.mem = s.mem

/-- EXIT, SSTEP, SSTEP.M and TRAP (R352, R399, R407) in a C-step of a timetable that is not stopping: EXIT ends the strand's loops, puts a
marker on each of its five queues and drains; the two SSTEPs go to the barrier, at the end of this vcy, naming their M-step, where they
keep the alternation of R65; TRAP records code 0x17 with its number, halts the strand and gives the timetable cause 4. -/
def Obligations.EndsOfStepsAndStrands : Prop :=
  ∀ (s : State) (sid : Nat), s.cur = .strand sid → s.inMStep sid = false → (s.strand sid).life = 1 → (s.strand sid).wait = .none →
    (s.strand sid).fault = 0 → (s.ttOfStrand sid).cause = 0 → (s.ttOfStrand sid).firstFault = none →
    (∀ n : BitVec 12, n.toNat < 64 ∨ n.toNat = 0xFFF →
      ∃ t, exec (.exit n) s = .next t ∧ (t.strand sid).wait = .exit (if n.toNat = 0xFFF then none else some n.toNat) ∧
        (t.strand sid).loops = [] ∧ (∀ q < 5, ∃ k, (t.strand sid).queue q = (s.strand sid).queue q ++ [.marker k]) ∧
        (t.strand sid).d = (s.strand sid).d ∧ t.mem = s.mem) ∧
    ((s.ttOfStrand sid).mstep = none →
      ((s.ttOfStrand sid).opensM = false → exec .sstep s = .next (s.setStrand sid { s.strand sid with
        wait := .barrier, sstep := 0, arrived := none, leaves := some (s.strand sid).vclk })) ∧
      (∀ n : BitVec 11, (s.ttOfStrand sid).opensM = true → exec (.sstepM n) s = .next (s.setStrand sid { s.strand sid with
        wait := .barrier, sstep := n.toNat, arrived := none, leaves := some (s.strand sid).vclk }))) ∧
    (∀ i : BitVec 16, ∃ t, exec (.trap i) s = .next t ∧
      (t.strand sid) = { s.strand sid with fault := faultWord 0x17 0 0 i.toNat, halt := true } ∧
      (t.tt (ttOf sid)).cause = 4 ∧ (t.tt (ttOf sid)).stopSid = some sid ∧ t.mem = s.mem)

/-- RDCSR, WRCSR, GETCYC, CLRT and NOP (R313, R349, R354, R378, R391, R430): what each reads, writes, refuses and leaves. -/
def Obligations.CsrWords : Prop :=
  Rule.CsrAndTaintWords ∧ Rule.CsrValues ∧ Rule.WrcsrOfReadOnlyIsSuppressed ∧ Rule.NopChangesNothing

/-- Taking a sticky fault (R258, R259), and the exception of a Mule hart with its return (R244; trap registers PRESUMED, log entry 9). -/
def Obligations.FaultsAndTraps : Prop :=
  Rule.StickyFaultIsTaken ∧ Rule.HartTrapAndReturn

/-- Branches, calls and returns (R346), and hardware loops (R72..R75, R365). -/
def Obligations.BranchesAndLoops : Prop :=
  Rule.BranchesInAStrand ∧ Rule.LoopOpens

/-! ### Vector words -/

/-- A guarded vector word with an active lane and a free vector unit (R405, R408): the unit is occupied for `occ` vcy; at the end of
issue + `lat` each active lane of V[d] takes its value `f`, the inactive ones are kept or, with z, zeroed, the flags of the active lanes
are raised together, and VLANE counts the active lanes. Nothing else of the machine changes at issue. -/
def PerformsLanes (s : State) (sid : Nat) (i : Instr) (occ lat : Nat) (d : BitVec 6) (z : BitVec 1) (act : List Nat)
    (f : Nat → BitVec 32 × BitVec 8) : Prop :=
  ∃ (img : VReg) (mask : PReg),
    exec i s = .next (s.setStrand sid (((({ s.strand sid with occV := (s.strand sid).vclk + occ }.push 1 lat
      (.v d.toNat mask img)).pushFlags 1 lat (orFlags (act.map fun l => (f l).2))).push 1 lat (.meter 9 act.length)))) ∧
    ∀ l < 1024, (SMap.get false mask l = true ↔ l ∈ act ∨ z = 1) ∧ SMap.get 0 img l = if l ∈ act then (f l).1 else 0

/-- What each guarded vector word gives a lane: destination, z, guard, latency, and the lane's value with its flags, by the rules of f20
(R409, R410, R420, R422, R424, R426, R427). -/
def laneSpec (sid : Nat) (st : Strand) :
    Instr → Option (BitVec 6 × BitVec 1 × BitVec 4 × Nat × Nat × (Nat → BitVec 32 × BitVec 8)) := fun i =>
  let el := fun (op : VOp) (t : BitVec 2) (d a b : BitVec 6) (l : Nat) =>
    elemLane t op (st.lane a.toNat l) (st.lane b.toNat l) (st.lane d.toNat l)
  let half := fun (f : Fmt) (op : VOp) (d a b : BitVec 6) (l : Nat) => byElems 16 2 fun k =>
    floatElem f op (elem 16 (st.lane a.toNat l) k) (elem 16 (st.lane b.toNat l) k) (elem 16 (st.lane d.toNat l) k)
  let sh := fun (t : BitVec 2) (a b : BitVec 6) (f : Nat → Nat → Nat → Nat) (l : Nat) =>
    byElems (tyWidth t) (32 / tyWidth t) fun k =>
      (f (tyWidth t) (elem (tyWidth t) (st.lane a.toNat l) k) (elem (tyWidth t) (st.lane b.toNat l) k % tyWidth t), (0 : BitVec 8))
  let src := fun (a : BitVec 6) (g : Nat → Option Nat) (l : Nat) =>
    (match g l with | some k => st.lane a.toNat k | none => (0 : BitVec 32), (0 : BitVec 8))
  let n := fun (b : BitVec 6) => (st.rd b.toNat).toNat
  match i with
  | .vadd z d a b g t => some (d, z, g, 4, 6, el .add t d a b)
  | .vsub z d a b g t => some (d, z, g, 4, 6, el .sub t d a b)
  | .vmul z d a b g t => some (d, z, g, 4, 8, el .mul t d a b)
  | .vfma z d a b g t => some (d, z, g, 4, 8, el .fma t d a b)
  | .vmin z d a b g t => some (d, z, g, 4, 6, el .min t d a b)
  | .vmax z d a b g t => some (d, z, g, 4, 6, el .max t d a b)
  | .vabs z d a g t => some (d, z, g, 4, 6, fun l => (absLane t (st.lane a.toNat l), 0))
  | .vand z d a b g _ => some (d, z, g, 4, 6, fun l => (st.lane a.toNat l &&& st.lane b.toNat l, 0))
  | .vor z d a b g _ => some (d, z, g, 4, 6, fun l => (st.lane a.toNat l ||| st.lane b.toNat l, 0))
  | .vxor z d a b g _ => some (d, z, g, 4, 6, fun l => (st.lane a.toNat l ^^^ st.lane b.toNat l, 0))
  | .vshl z d a b g t => some (d, z, g, 4, 6, sh t a b fun w x k => x * 2 ^ k % 2 ^ w)
  | .vshr z d a b g t => some (d, z, g, 4, 6, sh t a b fun _ x k => x / 2 ^ k)
  | .vsar z d a b g t => some (d, z, g, 4, 6, sh t a b fun w x k => (⟨w, true⟩ : ITy).code ((⟨w, true⟩ : ITy).value x / 2 ^ k))
  | .vaddH16 z d a b g => some (d, z, g, 4, 6, half fF16 .add d a b)
  | .vaddB16 z d a b g => some (d, z, g, 4, 6, half fBF16 .add d a b)
  | .vsubH16 z d a b g => some (d, z, g, 4, 6, half fF16 .sub d a b)
  | .vsubB16 z d a b g => some (d, z, g, 4, 6, half fBF16 .sub d a b)
  | .vmulH16 z d a b g => some (d, z, g, 4, 8, half fF16 .mul d a b)
  | .vmulB16 z d a b g => some (d, z, g, 4, 8, half fBF16 .mul d a b)
  | .vfmaH16 z d a b g => some (d, z, g, 4, 8, half fF16 .fma d a b)
  | .vfmaB16 z d a b g => some (d, z, g, 4, 8, half fBF16 .fma d a b)
  | .vminH16 z d a b g => some (d, z, g, 4, 6, half fF16 .min d a b)
  | .vminB16 z d a b g => some (d, z, g, 4, 6, half fBF16 .min d a b)
  | .vmaxH16 z d a b g => some (d, z, g, 4, 6, half fF16 .max d a b)
  | .vmaxB16 z d a b g => some (d, z, g, 4, 6, half fBF16 .max d a b)
  | .vsf z d a f g => some (d, z, g, 4, 12, fun l =>
      (BitVec.ofNat 32 (vsf f.toNat (st.lane a.toNat l).toNat).1, (vsf f.toNat (st.lane a.toNat l).toNat).2))
  | .vrotr z d a b g => some (d, z, g, 4, 6, src a fun l => some (64 * (l / 64) + (l % 64 + 64 - n b % 64) % 64))
  | .vrotc z d a b g => some (d, z, g, 4, 10, src a fun l => some (64 * ((l / 64 + 16 - n b % 16) % 16) + l % 64))
  | .vbcr z d a c g => some (d, z, g, 4, 6, src a fun l => some (64 * (l / 64) + c.toNat))
  | .vbcc z d a r g => some (d, z, g, 4, 10, src a fun l => some (64 * r.toNat + l % 64))
  | .vslup z d a b g => some (d, z, g, 4, 6, src a fun l => if n b ≤ l then some (l - n b) else none)
  | .vsldn z d a b g => some (d, z, g, 4, 6, src a fun l => if l + n b < 1024 then some (l + n b) else none)
  | .vperm z d a b g => some (d, z, g, 4, 10, src a fun l => some ((st.lane b.toNat l).toNat % 1024))
  | .vmov z d a g => some (d, z, g, 4, 6, src a fun l => some l)
  | .vnttp z d a k g => some (d, z, g, 4, 10, src a fun l => some (swapBits k.toNat l))
  | .vsplati z d c g t => some (d, z, g, 4, 6, fun _ =>
      (if t = 0 then BitVec.ofNat 32 (convTo fF32 .rne .ieee (FV.ofInt c.toInt)).1 else splat t c.toInt, 0))
  | .vsplats z d a g t => some (d, z, g, 4, 6, fun _ => (splat t (st.rd a.toNat).toNat, 0))
  | .vrng z d b g => some (d, z, g, 8, 16, fun l =>
      (BitVec.ofNat 32 (elemWord (st.getCsr 0x024) (strandNo sid) (n b % 2 ^ 32) l 0), 0))
  | .vlnmul z d a b g => some (d, z, g, 4, 8, fun l =>
      byElems 6 5 fun k => lnMul (elem 6 (st.lane a.toNat l) k) (elem 6 (st.lane b.toNat l) k))
  | .vlnadd z d a b g => some (d, z, g, 4, 8, fun l =>
      (BitVec.ofNat 32 (lnAddLane (st.lane d.toNat l) (st.lane a.toNat l) (st.lane b.toNat l)).1,
        (lnAddLane (st.lane d.toNat l) (st.lane a.toNat l) (st.lane b.toNat l)).2))
  | _ => none

/-- The guarded lane-by-lane vector words complete (R318, R405, R408, R409, R410, R420, R422, R424, R426, R427): with a free unit and an active lane, every active lane takes the value its rule
gives, the others are merged or zeroed. -/
def Obligations.VectorWordsPerformByLanes : Prop :=
  ∀ (s : State) (sid : Nat) (i : Instr) (d : BitVec 6) (z : BitVec 1) (g : BitVec 4) (occ lat : Nat) (f : Nat → BitVec 32 × BitVec 8),
    s.cur = .strand sid → (s.strand sid).occV ≤ (s.strand sid).vclk → laneSpec sid (s.strand sid) i = some (d, z, g, occ, lat, f) →
    ((List.range 1024).filter ((s.strand sid).guard g)) ≠ [] →
    PerformsLanes s sid i occ lat d z ((List.range 1024).filter ((s.strand sid).guard g)) f

/-- A vector word that comes while an earlier one occupies the unit is suppressed with ILLOP and writes nothing; one with no active lane
occupies the unit and does nothing else (R318, R405). -/
def Obligations.VectorUnitBusyOrIdle : Prop :=
  ∀ (s : State) (sid : Nat) (i : Instr) (d : BitVec 6) (z : BitVec 1) (g : BitVec 4) (occ lat : Nat) (f : Nat → BitVec 32 × BitVec 8),
    s.cur = .strand sid → laneSpec sid (s.strand sid) i = some (d, z, g, occ, lat, f) →
    ((s.strand sid).vclk < (s.strand sid).occV → exec i s = .next (s.suppressHere sid Code.illop 1)) ∧
    ((s.strand sid).occV ≤ (s.strand sid).vclk → (List.range 1024).filter ((s.strand sid).guard g) = [] →
      exec i s = .next (s.setStrand sid { s.strand sid with occV := (s.strand sid).vclk + occ }))

/-- Integer elements of the element mould (R126, R409): I32 lanes add, subtract and multiply modulo 2^32; of X16 and X8 lanes every
16-bit or 8-bit element does so by itself; MIN and MAX compare as signed; no flag is raised. -/
def Obligations.IntegerElementsWrap : Prop :=
  ∀ a b d : BitVec 32,
    (elemLane 1 .add a b d = (a + b, 0) ∧ elemLane 1 .sub a b d = (a - b, 0) ∧ elemLane 1 .mul a b d = (a * b, 0) ∧
      elemLane 1 .fma a b d = (a * b + d, 0) ∧ elemLane 1 .min a b d = (if a.toInt ≤ b.toInt then a else b, 0) ∧
      elemLane 1 .max a b d = (if a.toInt ≤ b.toInt then b else a, 0)) ∧
    (∀ k < 2, let e := fun (x : BitVec 32) => x.extractLsb' (16 * k) 16
      e (elemLane 2 .add a b d).1 = e a + e b ∧ e (elemLane 2 .sub a b d).1 = e a - e b ∧ e (elemLane 2 .mul a b d).1 = e a * e b) ∧
    (∀ k < 4, let e := fun (x : BitVec 32) => x.extractLsb' (8 * k) 8
      e (elemLane 3 .add a b d).1 = e a + e b ∧ e (elemLane 3 .sub a b d).1 = e a - e b ∧ e (elemLane 3 .mul a b d).1 = e a * e b) ∧
    ∀ op, (elemLane 2 op a b d).2 = 0 ∧ (elemLane 3 op a b d).2 = 0

/-- VCMP.EQ, NE, LT and LE (R412), with a free unit and an active lane: at the end of issue + 6 each active lane's bit of the destination
takes the comparison, the bits of inactive lanes are left, and flags of the active lanes are raised. VSEL (R425): every lane of V[d]
takes Va's or Vb's lane by the select predicate's bit. -/
def Rule.CompareAndSelect : Prop :=
  ∀ (s : State) (sid : Nat) (p a b : BitVec 6) (g q : BitVec 4) (t : BitVec 2),
    s.cur = .strand sid → (s.strand sid).occV ≤ (s.strand sid).vclk →
    let st := s.strand sid
    let act := (List.range 1024).filter (st.guard g)
    let r := fun (cond l : Nat) => cmpLane t cond (st.lane a.toNat l) (st.lane b.toNat l)
    let gives := fun (i : Instr) (cond : Nat) => ∃ mask val : PReg,
      exec i s = .next (s.setStrand sid ((({ st with occV := st.vclk + 4 }.push 1 6 (.p p.toNat mask val)).pushFlags 1 6
        (orFlags (act.map fun l => (r cond l).2))).push 1 6 (.meter 9 act.length))) ∧
      ∀ l < 1024, (SMap.get false mask l = true ↔ l ∈ act) ∧ (SMap.get false val l = true ↔ l ∈ act ∧ (r cond l).1 = true)
    (act ≠ [] → gives (.vcmpEq p a b g t) 0 ∧ gives (.vcmpNe p a b g t) 1 ∧ gives (.vcmpLt p a b g t) 2 ∧
      gives (.vcmpLe p a b g t) 3) ∧
    ∃ mask img, exec (.vsel p a b q) s = .next (s.setStrand sid (({ st with occV := st.vclk + 4 }.push 1 6
        (.v p.toNat mask img)).push 1 6 (.meter 9 1024))) ∧
      ∀ l < 1024, SMap.get false mask l = true ∧
        SMap.get 0 img l = if st.guard q l then st.lane a.toNat l else st.lane b.toNat l

/-- VGET and VPUT (R417) with a free unit: the lane is Db mod 1024. VGET gives the lane with zeros above to Dd at issue + 6; VPUT writes the
low half of Da to that lane alone. -/
def Rule.SingleLanes : Prop :=
  ∀ (s : State) (sid : Nat) (d a b : BitVec 6), s.cur = .strand sid → (s.strand sid).occV ≤ (s.strand sid).vclk →
    let st := s.strand sid
    let l := (st.rd b.toNat).toNat % 1024
    exec (.vget d a b) s = .next (s.setStrand sid (({ st with occV := st.vclk + 1 }.push 1 6
      (.d d.toNat ((st.lane a.toNat l).setWidth 64) (st.rt b.toNat))).push 1 6 (.meter 9 1))) ∧
    ∃ img, exec (.vput d a b) s = .next (s.setStrand sid (({ st with occV := st.vclk + 1 }.push 1 6
        (.v d.toNat [(l, true)] img)).push 1 6 (.meter 9 1))) ∧ SMap.get 0 img l = (st.rd a.toNat).setWidth 32

/-- VCOMP and VEXPD (R413), with a free unit and a lane of the mask: the masked lanes of Va go, in order, to the lowest lanes of V[d] (VCOMP),
or the lowest lanes of Va to the masked lanes (VEXPD), at the end of issue + 10; the other lanes are kept, or zeroed with z. -/
def Rule.CompressAndExpand : Prop :=
  ∀ (s : State) (sid : Nat) (z : BitVec 1) (d a : BitVec 6) (m : BitVec 4),
    s.cur = .strand sid → (s.strand sid).occV ≤ (s.strand sid).vclk →
    let st := s.strand sid
    let act := (List.range 1024).filter (st.guard m)
    let gives := fun (i : Instr) (goes : Nat → Option Nat) => ∃ (mask : PReg) (img : VReg),
      exec i s = .next (s.setStrand sid (({ st with occV := st.vclk + 4 }.push 1 10 (.v d.toNat mask img)).push 1 10
        (.meter 9 act.length))) ∧
      ∀ l < 1024, (SMap.get false mask l = true ↔ (goes l).isSome ∨ z = 1) ∧
        SMap.get 0 img l = match goes l with | some k => st.lane a.toNat k | none => 0
    act ≠ [] → gives (.vcomp z d a m) (fun l => act[l]?) ∧
      gives (.vexpd z d a m) (fun l => if l ∈ act then some (act.idxOf l) else none)

/-- VREDR and VREDC (R423, R138), with a free unit and an active lane: every active lane of a row (column) with an active lane takes the
pairwise reduction of that row (column), an inactive lane contributing the operation's identity. -/
def Rule.Reductions : Prop :=
  ∀ (s : State) (sid : Nat) (z : BitVec 1) (d a o : BitVec 6) (g : BitVec 4) (t : BitVec 2),
    s.cur = .strand sid → (s.strand sid).occV ≤ (s.strand sid).vclk →
    let st := s.strand sid
    let act := (List.range 1024).filter (st.guard g)
    let red := fun (q : Nat) (lanes : List Nat) => redLane st a g t o.toNat q lanes
    act ≠ [] →
      PerformsLanes s sid (.vredr z d a o g t) 4 10 d z act
        (fun l => red 6 ((List.range 64).map fun k => 64 * (l / 64) + k)) ∧
      PerformsLanes s sid (.vredc z d a o g t) 4 14 d z act
        (fun l => red 4 ((List.range 16).map fun k => 64 * k + l % 64))

/-- The modular words (R411, R421, R145..R147), with a free unit and an active lane: each active lane takes the product, sum, difference
or reduction modulo its lane's modulus of the set k; VMQSET loads a set. MODMUL counts the products. -/
def Rule.ModularLanes : Prop :=
  ∀ (s : State) (sid : Nat) (z : BitVec 1) (d a b : BitVec 6) (g : BitVec 4) (k : BitVec 2),
    s.cur = .strand sid → (s.strand sid).occV ≤ (s.strand sid).vclk →
    let st := s.strand sid
    let act := (List.range 1024).filter (st.guard g)
    let q := fun l => st.modOf k.toNat l
    let mu := fun l => st.muOf k.toNat l
    let x := fun l => (st.lane a.toNat l).toNat
    let y := fun l => (st.lane b.toNat l).toNat
    let gives := fun (i : Instr) (lat muls : Nat) (f : Nat → Nat × BitVec 8) => ∃ (img : VReg) (mask : PReg),
      exec i s = .next (s.setStrand sid (((({ st with occV := st.vclk + 4 }.push 1 lat (.v d.toNat mask img)).pushFlags 1 lat
        (orFlags (act.map fun l => (f l).2))).push 1 lat (.meter 9 act.length)).push 1 lat (.meter 10 (muls * act.length)))) ∧
      ∀ l < 1024, (SMap.get false mask l = true ↔ l ∈ act ∨ z = 1) ∧
        SMap.get 0 img l = if l ∈ act then BitVec.ofNat 32 (f l).1 else 0
    (act ≠ [] →
      gives (.vmmul z d a b g k) 12 1 (fun l => mulMod (x l) (y l) (q l) (mu l)) ∧
      gives (.vmadd z d a b g k) 6 0 (fun l => addMod (x l) (y l) (q l)) ∧
      gives (.vmsub z d a b g k) 6 0 (fun l => subMod (x l) (y l) (q l)) ∧
      gives (.vmred z d a g k) 12 1 (fun l => mulMod (x l) 1 (q l) (mu l))) ∧
    ∃ mb : SMap (BitVec 64), exec (.vmqset a b k) s = .next (s.setStrand sid ((({ st with occV := st.vclk + 4 }.push 1 8
        (.mq k.toNat (st.rv a.toNat))).push 1 8 (.mb k.toNat mb)).push 1 8 (.meter 9 1024))) ∧
      ∀ l < 1024, (SMap.get 0 mb l).toNat = (st.lane (b.toNat + 1) l).toNat * 2 ^ 32 + (st.lane b.toNat l).toNat

/-- Sums, differences and products modulo q of operands below q are exact, with no flag, where 2 ≤ q < 2^31 and the constant is
⌊2^64 / q⌋ (R145, R146). -/
def Rule.ModularArithmeticExact : Prop :=
  ∀ a b q : Nat, 2 ≤ q → q < 2 ^ 31 → a < q → b < q →
    mulMod a b q (2 ^ 64 / q) = (a * b % q, 0) ∧ addMod a b q = ((a + b) % q, 0) ∧ subMod a b q = ((a + q - b) % q, 0)

/-- VBFLY and VBFLY.GS (R411, R147), with a free unit and a guard with a bit set: both lanes of every pair whose even lane the guard names take
the butterfly of Va's pair with the twiddle in Vb's even lane; both lanes of every other pair are kept or, with z, zeroed. -/
def Rule.Butterflies : Prop :=
  ∀ (s : State) (sid : Nat) (z : BitVec 1) (d a b : BitVec 6) (g : BitVec 4) (k : BitVec 2),
    s.cur = .strand sid → (s.strand sid).occV ≤ (s.strand sid).vclk →
    let st := s.strand sid
    let act := (List.range 512).filter fun i => st.guard g (2 * i)
    let out := fun (gs : Bool) (i : Nat) => butterfly gs (st.lane a.toNat (2 * i)).toNat (st.lane a.toNat (2 * i + 1)).toNat
      (st.lane b.toNat (2 * i)).toNat (st.modOf k.toNat (2 * i)) (st.muOf k.toNat (2 * i))
    let gives := fun (i : Instr) (gs : Bool) => ∃ (img : VReg) (mask : PReg) (fl : BitVec 8),
      exec i s = .next (s.setStrand sid (((({ st with occV := st.vclk + 4 }.push 1 12 (.v d.toNat mask img)).pushFlags 1 12
        fl).push 1 12 (.meter 9 (2 * act.length))).push 1 12 (.meter 10 act.length))) ∧
      (fl = orFlags (act.map fun i => (out gs i).1.2 ||| (out gs i).2.2)) ∧
      ∀ i < 512, (SMap.get false mask (2 * i) = true ↔ i ∈ act ∨ z = 1) ∧ (SMap.get false mask (2 * i + 1) = true ↔ i ∈ act ∨ z = 1) ∧
        SMap.get 0 img (2 * i) = (if i ∈ act then BitVec.ofNat 32 (out gs i).1.1 else 0) ∧
          SMap.get 0 img (2 * i + 1) = if i ∈ act then BitVec.ofNat 32 (out gs i).2.1 else 0
    (List.range 1024).filter (st.guard g) ≠ [] → gives (.vbfly z d a b g k) false ∧ gives (.vbflyGs z d a b g k) true

/-- VCVT (R415, R416), with a free unit and an active lane: a control word that passes its checks makes the conversion's writes, one that
does not is suppressed with PBFMT. -/
def Rule.ConversionIssues : Prop :=
  ∀ (s : State) (sid : Nat) (z : BitVec 1) (d a x : BitVec 6) (g : BitVec 4),
    s.cur = .strand sid → (s.strand sid).occV ≤ (s.strand sid).vclk →
    let st := { s.strand sid with occV := (s.strand sid).vclk + 4 }
    let act := (List.range 1024).filter (st.guard g)
    act ≠ [] →
    (∀ c, cvtCtl (st.rd x.toNat) d a g = some c →
      exec (.vcvt z d a x g) s = .next (s.setStrand sid (cvtWrites c (strandNo sid) z d a act st))) ∧
    (cvtCtl (st.rd x.toNat) d a g = none →
      exec (.vcvt z d a x g) s = .next ((s.setStrand sid st).suppressHere sid Code.pbFmt 1))

/-- PAND, POR, PXOR, PNOT and PSET (R384, R387), with a free unit: all 1024 bits of the destination take the bitwise result, or bit ℓ < n, at
the end of issue + 2; the predicate numbers carry their high bits (R309). PCNT and PFIRST give the count of set bits and the first set
bit, or 1024, to Dd at issue + 4, untainted (R385). -/
def Obligations.PredicateWords : Prop :=
  ∀ (s : State) (sid : Nat) (d a b : BitVec 6) (e f h : BitVec 1) (n : BitVec 12),
    s.cur = .strand sid → (s.strand sid).occV ≤ (s.strand sid).vclk →
    let st := s.strand sid
    let no := fun (x : BitVec 6) (y : BitVec 1) => x.toNat + 64 * y.toNat
    let gives := fun (i : Instr) (v : Nat → Bool) => ∃ mask val : PReg,
      exec i s = .next (s.setStrand sid (({ st with occV := st.vclk + 1 }.push 1 2 (.p (no d e) mask val)).push 1 2
        (.meter 9 1024))) ∧ ∀ l < 1024, SMap.get false mask l = true ∧ SMap.get false val l = v l
    let counts := fun (i : Instr) (k : Nat) =>
      exec i s = .next (s.setStrand sid (({ st with occV := st.vclk + 1 }.push 1 4 (.d d.toNat (BitVec.ofNat 64 k) false)).push 1 4
        (.meter 9 1024)))
    gives (.pand d a b e f h) (fun l => st.pb (no a f) l && st.pb (no b h) l) ∧
    gives (.por d a b e f h) (fun l => st.pb (no a f) l || st.pb (no b h) l) ∧
    gives (.pxor d a b e f h) (fun l => st.pb (no a f) l ^^ st.pb (no b h) l) ∧
    gives (.pnot d a e f) (fun l => !st.pb (no a f) l) ∧
    gives (.pset d n e) (fun l => decide (l < n.toNat)) ∧
    counts (.pcnt d a f) ((List.range 1024).filter (st.pb (no a f))).length ∧
    ∃ k, counts (.pfirst d a f) k ∧ k ≤ 1024 ∧ (∀ l < k, st.pb (no a f) l = false) ∧ (k < 1024 → st.pb (no a f) k = true)

/-- Words over single lanes, over the order of lanes, and over all lanes at once. -/
def Obligations.LaneWords : Prop :=
  Rule.SingleLanes ∧ Rule.CompressAndExpand ∧ Rule.Reductions

/-- Modular vector words and the butterflies, with the arithmetic they rest on. -/
def Obligations.ModularWords : Prop :=
  Rule.ModularLanes ∧ Rule.ModularArithmeticExact ∧ Rule.Butterflies

/-- Conversions, and compares with select. -/
def Obligations.ConversionsAndCompares : Prop :=
  Rule.ConversionIssues ∧ Rule.CompareAndSelect

/-! ### Matrix words -/

/-- An X-slot command of a strand that holds its core's lease (R78, R81): the strand's registers and pending writes become `st`, the
command counts one against the lease, no other strand and no byte of memory changes. -/
def XDoes (s : State) (sid : Nat) (i : Instr) (st : Strand) : Prop :=
  ∃ t, exec i s = .next t ∧ t.strand sid = st ∧ (∀ j, j ≠ sid → t.strand j = s.strand j) ∧ t.mem = s.mem ∧
    (1 < (s.lease sid).left → (t.lease sid).holder = some sid ∧ (t.lease sid).left = (s.lease sid).left - 1) ∧
    ((s.lease sid).left ≤ 1 → (t.lease sid).holder = none)

/-- MMA, MMA.RS, MZERO, MLOAD and MDRAIN (R368, R371, R372, R376) complete for a strand that holds the lease, with a tile of its window
and an array its own commands do not occupy: MMA's operands are read at issue and its tile is read and written at issue + 24; MZERO
writes the tile and its row sums at issue + 2; MLOAD the tile at issue + 8; MDRAIN with a legal control register V[a] and flags at
issue + 20. -/
def Rule.MatrixWords : Prop :=
  ∀ (s : State) (sid : Nat) (c : BitVec 8) (a b : BitVec 6) (f : BitVec 4) (df : BitVec 4),
    s.cur = .strand sid → s.holdsLease sid = true → c.toNat < (s.ttOfStrand sid).img.tiles →
    ((s.lease sid).busy.any fun x => x.1 == sid && decide ((s.strand sid).vclk < x.2)) = false →
    let st := s.strand sid
    let e := st.ftEntry f
    let key := st.lcore * 256 + c.toNat
    let product := fun (rs : Bool) => st.push 2 24
      (.mma key e (st.rv a.toNat) [st.rv b.toNat, st.rv (b.toNat + 1), st.rv (b.toNat + 2), st.rv (b.toNat + 3)] (st.scales e) rs)
    (ftCheck e false ((s.ttOfStrand sid).img.emulates e) = none → XDoes s sid (.mma c a b f) (product false)) ∧
    (ftCheck e true ((s.ttOfStrand sid).img.emulates e) = none → XDoes s sid (.mmaRs c a b f) (product true)) ∧
    XDoes s sid (.mzero c) ((st.push 2 2 (.tile key [])).push 2 2 (.rowsum key [])) ∧
    XDoes s sid (.mload c a) (st.push 2 8 (.tile key (st.rv a.toNat))) ∧
    (drainBad (st.rd df.toNat) = false → XDoes s sid (.mdrain c a b df) ((st.push 2 20
      (.v a.toNat allLanes ((s.occupy sid 4).drain sid c b (st.rd df.toNat)).1)).pushFlags 2 20 ((s.occupy sid 4).drain sid c b (st.rd df.toNat)).2))

/-- MMAS, MMAS.RS and MDRAINS (R369, R374) complete under the same conditions where their control fields are legal and every byte they
name in window C1 passes the checks of R91: MMAS takes its A operand as it is at issue (the model's reading: log entry 23), reads its 128 lines of 128 bytes at the offsets R374 gives, MDRAINS stores 4096 bytes
from Da at issue + 24. -/
def Obligations.MatrixMemoryWords : Prop :=
  ∀ (s : State) (sid : Nat) (c : BitVec 8) (a b : BitVec 6) (f : BitVec 4) (df : BitVec 4),
    s.cur = .strand sid → s.holdsLease sid = true → c.toNat < (s.ttOfStrand sid).img.tiles →
    ((s.lease sid).busy.any fun x => x.1 == sid && decide ((s.strand sid).vclk < x.2)) = false →
    let st := s.strand sid
    let e := st.ftEntry f
    let key := st.lcore * 256 + c.toNat
    let occ := (s.ttOfStrand sid).img.occFt e
    let s1 := s.occupy sid occ
    let s4 := s.occupy sid 4
    let x := st.rd a.toNat
    let y := st.rd b.toNat
    let line := fun (n : Nat) => bits x 31 0 + n / 32 * bits y 31 0 + n % 32 / 2 * bits x 47 32 + 128 * (n % 2) +
      131072 * (n % 2 ^ bits y 33 32)
    let streams := fun (rs : Bool) => st.push 2 24 (.mmas key e (st.rv a.toNat) st.vclk occ
      ((List.range 128).map fun n => s1.capBytes sid (st.rc 1) (line n) 128) [] (st.scales e) rs)
    let legal := bits x 63 48 = 0 ∧ bits y 63 34 = 0 ∧ bits x 31 0 % 128 = 0 ∧ bits x 47 32 % 128 = 0 ∧ bits y 31 0 % 128 = 0 ∧
      ∀ n < 128, s1.readCheck sid (st.rc 1) (line n) 128 (rightR + rightT) = none
    let o := x.toNat
    (legal → ftCheck e false ((s.ttOfStrand sid).img.emulates e) = none → XDoes s sid (.mmas c a b f) (streams false)) ∧
    (legal → ftCheck e true ((s.ttOfStrand sid).img.emulates e) = none → XDoes s sid (.mmasRs c a b f) (streams true)) ∧
    (drainBad (st.rd df.toNat) = false → o % 128 = 0 → s4.writeCheck sid (st.rc 1) o 4096 (rightW + rightT) = none →
      XDoes s sid (.mdrains c a b df) ((st.push 2 24 (.store ((s4.capBytes sid (st.rc 1) o 4096).zip
        (imageBytes (s4.drain sid c b (st.rd df.toNat)).1)) none false [])).pushFlags 2 24 (s4.drain sid c b (st.rd df.toNat)).2))

/-- MLEASE, MFREE and LEASE_GRANT (R78..R81, R370): while an earlier command of the strand occupies the array MLEASE and MFREE are
suppressed with MXBUSY; in a C-step MLEASE else changes nothing for the holder, takes a free lease of a lit cluster
with 64 commands and until the end of the token window, and else freezes the strand; MFREE ends the strand's own lease; a grant gives a
free lease to a strand that waits for it and ends its wait, unless a refresh window holds a read of the vcy it would issue in. -/
def Rule.MatrixLeases : Prop :=
  ∀ (s : State) (sid : Nat),
    let st := s.strand sid
    let granted := fun (t : State) => (t.lease sid).holder = some sid ∧ (t.lease sid).left = 64 ∧
      (t.lease sid).window = s.gclk.toNat / 1024 ∧ t.mem = s.mem
    (s.cur = .strand sid → s.inMStep sid = false → st.wait = .none → s.ownBusy sid = false →
      (s.holdsLease sid = true → exec .mlease s = .next s) ∧
      (s.holdsLease sid = false → s.leaseFree sid = true → ∃ t, exec .mlease s = .next t ∧ t.strand sid = st ∧ granted t) ∧
      (s.holdsLease sid = false → s.leaseFree sid = false →
        exec .mlease s = .next (s.setStrand sid { st with wait := .mlease }))) ∧
    (s.cur = .strand sid → s.ownBusy sid = true → exec .mfree s = .next (s.suppressHere sid Code.mxBusy 2) ∧
      (s.inMStep sid = false → exec .mlease s = .next (s.suppressHere sid Code.mxBusy 2))) ∧
    (s.cur = .strand sid → s.ownBusy sid = false → s.holdsLease sid = true →
      ∃ t, exec .mfree s = .next t ∧ (t.lease sid).holder = none ∧ t.strands = s.strands ∧ t.mem = s.mem) ∧
    (s.leaseFree sid = true →
      (st.wait = .lease → s.refreshHeld sid st.vclk = false → ∃ t, exec (.leaseGrant sid) s = .next t ∧ t.strand sid = { st with wait := .none, ran := true } ∧ granted t) ∧
      (st.wait = .mlease → ∃ t, exec (.leaseGrant sid) s = .next t ∧ t.strand sid = st.answer [] ∧ granted t))

/-! ### Timed memory words -/

/-- VLD and VST (R418, R419), with a free port, an aligned offset and a checked footprint: the 4096 bytes from the offset in Dk are read
into, or written from, the 1024 lanes of V[r], lane by lane, at the vcy the memory's latency gives; the port is occupied for 4 vcy. VLDX
and VSTX do so for the lanes of their mask at the offsets in V[k], 4 vcy later. A load in an M-step that would wait for a refresh window of
the weight store is suppressed with ILLOP (R66, R338). -/
def Rule.VectorMemoryWords : Prop :=
  ∀ (s : State) (sid : Nat) (r k : BitVec 6) (c : BitVec 5) (p : BitVec 7),
    s.cur = .strand sid → (s.strand sid).occT ≤ (s.strand sid).vclk →
    let s1 := s.setStrand sid { s.strand sid with occT := (s.strand sid).vclk + 4 }
    let st := s1.strand sid
    let cap := st.rc c.toNat
    let o := (st.rd k.toNat).toNat
    let lanes := (List.range 1024).filter (st.pb p.toNat)
    let off := fun (l : Nat) => (st.lane k.toNat l).toNat
    let whole : VMem := ⟨List.range 1024, (List.range 1024).map fun l => o + 4 * l, true, 0⟩
    let some_ : VMem := ⟨lanes, lanes.map off, false, 4⟩
    let loads := fun (i : Instr) (x : VMem) (resid : Option Nat) (clear : Bool) =>
      let lat := s1.accLat sid cap (x.offs.headD 0) vldLat true + x.extra
      let addrs := x.offs.flatMap fun o => s1.capBytes sid cap o 4
      (s1.refreshInM sid lat addrs = false → ∃ mask : PReg,
        exec i s = .next (s1.setStrand sid (st.pushLoad 3 lat (.load (.v r.toNat mask resid clear) addrs none))) ∧
        ∀ l, SMap.get false mask l = true ↔ l ∈ x.lanes) ∧
      (s1.refreshInM sid lat addrs = true → exec i s = .next (s1.suppressHere sid Code.illop 3))
    let stores := fun (i : Instr) (x : VMem) (resid : Option Nat) (clear : Bool) =>
      exec i s = .next (s1.setStrand sid (st.push 3 (s1.accLat sid cap (x.offs.headD 0) vldLat false + x.extra)
        (.store ((x.lanes.zip x.offs).flatMap fun y => (s1.capBytes sid cap y.2 4).zip (bytesOf 4 (st.lane r.toNat y.1).toNat))
          resid clear x.lanes)))
    let resid := if p = 0 then none else some p.toNat
    (s1.vmemCheck sid cap whole false = none → loads (.vld r c k p) whole resid false) ∧
    (s1.vmemCheck sid cap whole true = none → stores (.vst r c k p) whole resid false) ∧
    (s1.vmemCheck sid cap some_ false = none → loads (.vldx r c k p) some_ (some p.toNat) true) ∧
    (s1.vmemCheck sid cap some_ true = none → stores (.vstx r c k p) some_ (some p.toNat) true)

/-- PLD, PST, CLD and CST (R386, R348), with a free port, an aligned and checked access: a predicate's 128 bytes, or a sealed
capability's 32, are read or written at the vcy of the memory's latency (a load in an M-step that would wait for a refresh window is
suppressed with ILLOP: R66, R338); CST seals what it stores with the owner's key, and stores null
and records CAPRIGHTS where the capability lacks right S. -/
def Rule.PredicateAndCapabilityMemoryWords : Prop :=
  ∀ (s : State) (sid : Nat) (r k : BitVec 6) (c : BitVec 5) (h : BitVec 1) (i : BitVec 7),
    s.cur = .strand sid → (s.strand sid).occT ≤ (s.strand sid).vclk →
    let st0 := s.strand sid
    let cap := st0.rc c.toNat
    let o := (st0.rd k.toNat).toNat
    let oc := (BitVec.ofInt 64 ((st0.rd k.toNat).toNat + 32 * i.toInt)).toNat
    let s1 := s.setStrand sid { st0 with occT := st0.vclk + 1 }
    let s4 := s.setStrand sid { st0 with occT := st0.vclk + 4 }
    ((capBase cap.bits + o) % 128 = 0 →
      (s1.readCheck sid cap o 128 (rightR + rightT) = none →
        exec (.pld r c k h) s = .next (
          if s1.refreshInM sid (s1.accLat sid cap o vldLat true) (s1.capBytes sid cap o 128) then s1.suppressHere sid Code.illop 3
          else s1.setStrand sid ((s1.strand sid).pushLoad 3 (s1.accLat sid cap o vldLat true)
            (.load (.p (r.toNat + 64 * h.toNat)) (s1.capBytes sid cap o 128) none)))) ∧
      (s1.writeCheck sid cap o 128 (rightW + rightT) = none →
        exec (.pst r c k h) s = .next (s1.setStrand sid ((s1.strand sid).push 3 (s1.accLat sid cap o vldLat false)
          (.store ((s1.capBytes sid cap o 128).zip (predBytes (st0.pb (r.toNat + 64 * h.toNat)))) none false []))))) ∧
    ((capBase cap.bits + oc) % 32 = 0 →
      (s4.readCheck sid cap oc 32 (rightR + rightT) = none →
        exec (.cld r c k i) s = .next (
          if s4.refreshInM sid (s4.accLat sid cap oc vldLat true) (s4.capBytes sid cap oc 32) then s4.suppressHere sid Code.illop 3
          else s4.setStrand sid ((s4.strand sid).pushLoad 3 (s4.accLat sid cap oc vldLat true)
            (.load (.c r.toNat c.toNat oc) (s4.capBytes sid cap oc 32) none)))) ∧
      (s4.writeCheck sid cap oc 32 (rightW + rightT) = none →
        let v := (st0.rc r.toNat).bits
        let stored := fun (x : BitVec 128) => s4.setStrand sid ((s4.strand sid).push 3 (s4.accLat sid cap oc vldLat false)
          (.store ((s4.capBytes sid cap oc 32).zip (bytesOf 32 (sealCap (s.tenant (s.owner sid)).key x).toNat)) none false []))
        (hasRights (capRights v) rightS = true → exec (.cst r c k i) s = .next (stored v)) ∧
        (hasRights (capRights v) rightS = false →
          exec (.cst r c k i) s = .next ((stored 0).fault sid Code.capRights 3 r.toNat oc))))

/-- What f04 R91, R113 and R161 ask of a timed access of `n` bytes at window offset `o` through the capability `c`: an object of the
strand's own tenant, the rights (`need` and T), bytes inside the window, in the reach of a timed access, of a pinned object, inside the
object's LEN and at addresses that exist, of a weight-store object in the state the access asks for, and for a store no byte of a live
gate word. -/
def AccessOk (s : State) (sid : Nat) (c : Cap) (o n need : Nat) (write : Bool) : Prop :=
  capObj c.bits ≠ 0 ∧ capTid c.bits = s.owner sid ∧ hasRights (capRights c.bits) (need + rightT) = true ∧
  o + n ≤ capLen c.bits ∧ s.outOfReach sid c o n = false ∧ s.isPinned sid c = true ∧
  (c.win = false → entKind (s.entryOf c) ≠ 0) ∧ capBase c.bits + o + n ≤ s.objLen sid c ∧
  (∀ x ∈ s.probeAddrs sid c o n, x ≠ .bad) ∧ s.badState c write = false ∧
  (write = true → ∀ a, some a ∈ s.capBytes sid c o n → s.inGate a = false)

/-- The word completes: the port is occupied for `occ` vcy, `eff` is pending from the T slot at issue + `lat` (for a load, reading
memory there), and no other strand, no timetable and no byte of memory changes. -/
def TimedAccess (s : State) (sid : Nat) (i : Instr) (occ lat : Nat) (load : Bool) (eff : Eff) : Prop :=
  ∃ t, exec i s = .next t ∧ (∀ j, j ≠ sid → t.strand j = s.strand j) ∧ t.mem = s.mem ∧ t.tts = s.tts ∧
    t.strand sid = (let st := { s.strand sid with occT := (s.strand sid).vclk + occ }
      if load then st.pushLoad 3 lat eff else st.push 3 lat eff)

/-- VLD, VST, VLDX, VSTX, PLD, PST, CLD and CST complete (R418, R419, R386, R348): with a free port and an aligned access that R91, R113
and R161 allow (for a load, one that waits for no refresh window in an M-step), whole for VLD and VST and lane by lane for the active lanes of VLDX and VSTX, each makes the one pending access its row
describes; CST of a capability with right S stores its sealed form. -/
def Rule.TimedMemoryWordsComplete : Prop :=
  ∀ (s : State) (sid : Nat) (r k : BitVec 6) (c : BitVec 5) (p : BitVec 7) (h : BitVec 1) (i : BitVec 7),
    s.cur = .strand sid → (s.strand sid).occT ≤ (s.strand sid).vclk →
    let st := s.strand sid
    let cap := st.rc c.toNat
    let base := capBase cap.bits
    let o := (st.rd k.toNat).toNat
    let oc := (BitVec.ofInt 64 ((st.rd k.toNat).toNat + 32 * i.toInt)).toNat
    let resid := if p = 0 then none else some p.toNat
    let active := (List.range 1024).filter (st.pb p.toNat)
    let off := fun (l : Nat) => (st.lane k.toNat l).toNat
    let first := (active.map off).headD 0
    let on := fun (lanes : List Nat) => lanes.map fun l => (l, true)
    let lat := fun (o : Nat) (load : Bool) => s.accLat sid cap o vldLat load
    let stored := fun (o l : Nat) => (s.capBytes sid cap o 4).zip (bytesOf 4 (st.lane r.toNat l).toNat)
    let pred := r.toNat + 64 * h.toNat
    let opens := fun (lat : Nat) (addrs : List (Option Nat)) => s.refreshInM sid lat addrs = false
    ((base + o) % 4 = 0 →
      (AccessOk s sid cap o 4096 rightR false → opens (lat o true) ((List.range 1024).flatMap fun l => s.capBytes sid cap (o + 4 * l) 4) →
        TimedAccess s sid (.vld r c k p) 4 (lat o true) true
        (.load (.v r.toNat (on (List.range 1024)) resid false) ((List.range 1024).flatMap fun l => s.capBytes sid cap (o + 4 * l) 4) none)) ∧
      (AccessOk s sid cap o 4096 rightW true → TimedAccess s sid (.vst r c k p) 4 (lat o false) false
        (.store ((List.range 1024).flatMap fun l => stored (o + 4 * l) l) resid false (List.range 1024)))) ∧
    ((∀ l ∈ active, (base + off l) % 4 = 0) →
      ((∀ l ∈ active, AccessOk s sid cap (off l) 4 rightR false) →
        opens (lat first true + 4) (active.flatMap fun l => s.capBytes sid cap (off l) 4) → TimedAccess s sid (.vldx r c k p) 4 (lat first true + 4) true
        (.load (.v r.toNat (on active) (some p.toNat) true) (active.flatMap fun l => s.capBytes sid cap (off l) 4) none)) ∧
      ((∀ l ∈ active, AccessOk s sid cap (off l) 4 rightW true) → TimedAccess s sid (.vstx r c k p) 4 (lat first false + 4) false
        (.store (active.flatMap fun l => stored (off l) l) (some p.toNat) true active))) ∧
    ((base + o) % 128 = 0 →
      (AccessOk s sid cap o 128 rightR false → opens (lat o true) (s.capBytes sid cap o 128) → TimedAccess s sid (.pld r c k h) 1 (lat o true) true
        (.load (.p pred) (s.capBytes sid cap o 128) none)) ∧
      (AccessOk s sid cap o 128 rightW true → TimedAccess s sid (.pst r c k h) 1 (lat o false) false
        (.store ((s.capBytes sid cap o 128).zip (predBytes (st.pb pred))) none false []))) ∧
    ((base + oc) % 32 = 0 →
      (AccessOk s sid cap oc 32 rightR false → opens (lat oc true) (s.capBytes sid cap oc 32) → TimedAccess s sid (.cld r c k i) 4 (lat oc true) true
        (.load (.c r.toNat c.toNat oc) (s.capBytes sid cap oc 32) none)) ∧
      (AccessOk s sid cap oc 32 rightW true → hasRights (capRights (st.rc r.toNat).bits) rightS = true →
        TimedAccess s sid (.cst r c k i) 4 (lat oc false) false
          (.store ((s.capBytes sid cap oc 32).zip (bytesOf 32 (sealCap (s.tenant (s.owner sid)).key (st.rc r.toNat).bits).toNat))
            none false [])))

/-! ### Queue buffers, semaphores, sync words, markers -/

/-- QBBIND, QBGIVE, QBTAKE and QB_VISIBLE_UPDATE (R388, R389): a legal descriptor binds the handle with both pointers 0 at the end of the
issue vcy; a give of n > 0 slots that are free, or a take of n > 0 that are filled, moves the claimed pointer at once and holds the
visible one until every timed write (read) issued before has performed; the oldest update whose accesses have performed becomes
visible. A give or take of 0 slots of a bound handle changes nothing. A handle that is not bound, an illegal descriptor, a handle an
unfinished job advances, a give of more slots than are free and a take of more than are filled are suppressed with QBSTATE. -/
def Rule.QueueBufferWords : Prop :=
  ∀ (s : State) (sid : Nat) (r k : BitVec 6) (h : BitVec 4),
    let st := s.strand sid
    let v := st.rd r.toNat
    let n := (st.rd k.toNat).toNat
    let q := st.qbuf h.toNat
    let size := bits v 43 32 + 1
    let free := q.nm1.toNat + 1 - (q.prod - q.cons).toNat
    let filled := (q.prod - q.cons).toNat
    (s.cur = .strand sid →
      (bits v 63 44 ≠ 0 ∨ bits v 31 29 ≠ 0 ∨ v.getLsbD 23 = true ∨ bits v 28 24 < 6 ∨ 20 < bits v 28 24 ∨
        bits v 22 0 % 2 ^ bits v 28 24 ≠ 0 ∨ capLen (st.rc 1).bits < bits v 22 0 + size * 2 ^ bits v 28 24 ∨ st.qbBusy h.toNat = true →
        exec (.qbbind r h) s = .next (s.suppressHere sid Code.qbState 3)) ∧
      (bits v 63 44 = 0 ∧ bits v 31 29 = 0 ∧ v.getLsbD 23 = false ∧ 6 ≤ bits v 28 24 ∧ bits v 28 24 ≤ 20 ∧
        bits v 22 0 % 2 ^ bits v 28 24 = 0 ∧ bits v 22 0 + size * 2 ^ bits v 28 24 ≤ capLen (st.rc 1).bits ∧ st.qbBusy h.toNat = false →
        exec (.qbbind r h) s = .next (s.setStrand sid (st.push 3 0 (.qb h.toNat
          ⟨0, 0, 0, 0, BitVec.ofNat 12 (size - 1), BitVec.ofNat 5 (bits v 28 24), true, BitVec.ofNat 23 (bits v 22 0)⟩)))) ∧
      (q.v = true → 0 < n →
        (n ≤ free →
          exec (.qbgive k h) s = .next (s.setStrand sid { st.setQb h.toNat { q with prod := q.prod + BitVec.ofNat 16 n } with
            qbheld := st.qbheld ++ [(h.toNat, true, n, st.lastWrite)] })) ∧
        (n ≤ filled →
          exec (.qbtake k h) s = .next (s.setStrand sid { st.setQb h.toNat { q with cons := q.cons + BitVec.ofNat 16 n } with
            qbheld := st.qbheld ++ [(h.toNat, false, n, st.lastRead)] }))) ∧
      (q.v = true → n = 0 → exec (.qbgive k h) s = .next s ∧ exec (.qbtake k h) s = .next s) ∧
      (q.v = false ∨ free < n → exec (.qbgive k h) s = .next (s.suppressHere sid Code.qbState 3)) ∧
      (q.v = false ∨ filled < n → exec (.qbtake k h) s = .next (s.suppressHere sid Code.qbState 3))) ∧
    ∀ (b : Nat) (give : Bool) (m at_ : Nat) (rest : List (Nat × Bool × Nat × Nat)),
      st.qbheld = (b, give, m, at_) :: rest → at_ < st.vclk →
      exec (.qbVisibleUpdate sid) s = .next (s.setStrand sid { st.setQb b (if give then
          { st.qbuf b with vprod := (st.qbuf b).vprod + BitVec.ofNat 16 m }
        else { st.qbuf b with vcons := (st.qbuf b).vcons + BitVec.ofNat 16 m }) with qbheld := rest })

/-- QBWAIT and QBWAIT.E (R390) of a bound handle in a C-step, for at most its number of slots: with the visible filled (free) slots at n or
more, or n = 0, nothing changes; else the strand freezes until QBWAIT_COMPLETE finds them. For more slots than the buffer has, or of a
handle that is not bound, they are suppressed with QBSTATE, and in an M-step with ILLOP (R66, R338). -/
def Rule.QueueBufferWaits : Prop :=
  ∀ (s : State) (sid : Nat) (k : BitVec 6) (h : BitVec 4) (e : Bool),
    let st := s.strand sid
    let n := (st.rd k.toNat).toNat
    let q := st.qbuf h.toNat
    let i : Instr := if e then .qbwaitE k h else .qbwait k h
    let there := fun (q : QB) (n : Nat) =>
      if e then n ≤ q.nm1.toNat + 1 - (q.vprod - q.vcons).toNat else n ≤ (q.vprod - q.vcons).toNat
    (s.cur = .strand sid → s.inMStep sid = false → st.wait = .none → q.v = true → n ≤ q.nm1.toNat + 1 →
      (n = 0 ∨ there q n → exec i s = .next s) ∧
      (n ≠ 0 → ¬ there q n → exec i s = .next (s.setStrand sid { st with wait := .qb h.toNat e n }))) ∧
    (s.cur = .strand sid → s.inMStep sid = false → q.v = false ∨ q.nm1.toNat + 1 < n →
      exec i s = .next (s.suppressHere sid Code.qbState 3)) ∧
    (s.cur = .strand sid → s.inMStep sid = true → exec i s = .next (s.suppressHere sid Code.illop 3)) ∧
    ∀ b m, st.wait = .qb b e m → there (st.qbuf b) m → exec (.qbwaitComplete sid) s = .next (s.setStrand sid (st.answer []))

/-- SEMWAIT and its two ends, SEMSIG and its application (R182, R394, R395): SEMWAIT of an allotted entry in a C-step makes the strand a
taker with the time-out of its code; served, one unit is taken, ERR and STAT are cleared, and Dr takes the status they gave; at the
time-out nothing is taken and TO is 1; SEMSIG's units wait for every timed write issued before and are then added, up to 65 535. -/
def Obligations.Semaphores : Prop :=
  ∀ (s : State) (sid : Nat) (r : BitVec 6) (m : BitVec 8) (t a : BitVec 7),
    let st := s.strand sid
    let tt := s.ttOfStrand sid
    (s.cur = .strand sid → m.toNat < tt.img.sems →
      (s.inMStep sid = false → st.wait = .none → exec (.semwait r m t) s = .next (s.setStrand sid { st with
        wait := .sem r.toNat m.toNat (if t = 0 then none else some (2 ^ (t.toNat + 9))) })) ∧
      exec (.semsig m a) s = .next (s.setStrand sid { st with sigs := st.sigs ++ [(m.toNat, a.toNat, st.lastWrite, st.bundle)] })) ∧
    (s.cur = .strand sid → tt.img.sems ≤ m.toNat → s.inMStep sid = false →
      exec (.semwait r m t) s = .next (s.suppressHere sid Code.semRange 3) ∧
      exec (.semsig m a) s = .next (s.suppressHere sid Code.semRange 3)) ∧
    (∀ d idx left, st.wait = .sem d idx left → idx < tt.img.sems →
      let k := st.lcore * 256 + idx
      let v := tt.sem k
      let status : BitVec 64 := BitVec.ofNat 64 (v.toNat / 2 ^ 24 * 2 ^ 24)
      v.toNat % 2 ^ 16 ≠ 0 → ∃ x, exec (.semwaitServed sid) s = .next x ∧
        (x.tt (ttOf sid)).sem k = BitVec.ofNat 32 (v.toNat % 2 ^ 16 - 1) ∧
        (st.ran = false → x.strand sid = st.answer [.d d status false]) ∧
        (st.ran = true → st.more = [] → st.owed = [] → x.strand sid = { st.wd d status false with wait := .none })) ∧
    (∀ d idx, st.wait = .sem d idx (some 0) →
      exec (.semwaitTimeout sid) s = .next (s.setStrand sid (st.answer [.d d (BitVec.twoPow 64 32) false]))) ∧
    (∀ idx n at_ bd rest, st.sigs = (idx, n, at_, bd) :: rest → at_ < st.vclk → idx < tt.img.sems →
      let k := st.lcore * 256 + idx
      (tt.sem k).toNat % 2 ^ 16 + n ≤ 65535 → ∃ x, exec (.semsigApply sid) s = .next x ∧
        ((x.tt (ttOf sid)).sem k).toNat = (tt.sem k).toNat + n ∧ x.strand sid = { st with sigs := rest } ∧ x.mem = s.mem)

/-- SYNCARM, SYNCWAIT and SYNCWAIT_COMPLETE (R402, R404), where the word's address passes the checks: SYNCARM arms it with D[r] at the end of
the issue vcy; SYNCWAIT in a C-step goes on where the generation is past D[r] and else freezes the strand until it is. -/
def Rule.SyncWords : Prop :=
  ∀ (s : State) (sid : Nat) (r k : BitVec 6) (c : BitVec 5) (i : BitVec 7),
    let st := s.strand sid
    let o := (BitVec.ofInt 64 ((st.rd k.toNat).toNat + 32 * i.toInt)).toNat
    let gen := fun (a : Nat) => (syncGen (s.syncWord a)).toNat
    (∀ a, s.cur = .strand sid → s.syncAddr sid (st.rc c.toNat) o rightW = .ok a →
      exec (.syncarm r c k i) s = .next (s.setStrand sid (st.push 3 0 (.arm a (st.rd r.toNat))))) ∧
    (∀ a, s.cur = .strand sid → s.inMStep sid = false → st.wait = .none → s.syncAddr sid (st.rc c.toNat) o rightR = .ok a →
      ((st.rd r.toNat).toNat < gen a → exec (.syncwait r c k i) s = .next s) ∧
      (gen a ≤ (st.rd r.toNat).toNat →
        exec (.syncwait r c k i) s = .next (s.setStrand sid { st with wait := .sync a (st.rd r.toNat) }))) ∧
    ∀ a g, st.wait = .sync a g → g.toNat < gen a → exec (.syncwaitComplete sid) s = .next (s.setStrand sid (st.answer []))

/-- A sync word counts (R197, R198): m arriving bytes are added to COUNT, and every full TARGET in it is taken off and raises GEN by one;
without a target nothing is taken off. TARGET and ARMED stay, and only the word's 32 bytes change. -/
def Rule.SyncWordCounts : Prop :=
  ∀ (s : State) (a m : Nat), let w := s.syncWord a
    let target := syncTarget w
    let count := syncCount w + m
    count < 2 ^ 64 → (syncGen w).toNat + count < 2 ^ 64 →
    let w' := (s.syncArrive a m).syncWord a
    syncTarget w' = target ∧ w'.getLsbD 192 = w.getLsbD 192 ∧
    (target = 0 → syncCount w' = count ∧ syncGen w' = syncGen w) ∧
    (target ≠ 0 → syncCount w' = count % target ∧ (syncGen w').toNat = (syncGen w).toNat + count / target) ∧
    ∀ x, x < a ∨ a + 32 ≤ x → (s.syncArrive a m).mem.read x = s.mem.read x

/-- FENCE, JOIN and JOIN_COMPLETE (R353, R362): FENCE pushes one marker behind what each named queue holds and changes no other queue;
JOIN in a C-step goes on with no marker left and else freezes the strand until none is. -/
def Obligations.FencesAndJoins : Prop :=
  ∀ (s : State) (sid : Nat) (g : BitVec 1) (q : BitVec 4), let st := s.strand sid
    (s.cur = .strand sid → ∃ t, exec (.fence g q) s = .next t ∧ (t.strand sid).d = st.d ∧ (t.strand sid).wait = st.wait ∧ t.mem = s.mem ∧
      (∀ k < 4, q.getLsbD k = true → ∃ m, (t.strand sid).queue k = st.queue k ++ [.marker m]) ∧
      (∀ k < 4, q.getLsbD k = false → (t.strand sid).queue k = st.queue k) ∧
      (g = 1 → ∃ m, (t.strand sid).queue 4 = st.queue 4 ++ [.marker m]) ∧ (g = 0 → (t.strand sid).queue 4 = st.queue 4)) ∧
    (s.cur = .strand sid → s.inMStep sid = false → st.wait = .none →
      (st.marked = false → exec .join s = .next s) ∧
      (st.marked = true → exec .join s = .next (s.setStrand sid { st with wait := .join }))) ∧
    (st.wait = .join → st.marked = false → exec (.joinComplete sid) s = .next (s.setStrand sid (st.answer [])))

/-- The words of the matrix array and its leases. -/
def Obligations.MatrixArray : Prop :=
  Rule.MatrixWords ∧ Rule.MatrixLeases

/-- Loads and stores of vectors, predicates and capabilities. -/
def Obligations.TimedMemoryWords : Prop :=
  Rule.VectorMemoryWords ∧ Rule.PredicateAndCapabilityMemoryWords ∧ Rule.TimedMemoryWordsComplete

/-- Queue buffers: binding, giving, taking, waiting. -/
def Obligations.QueueBuffers : Prop :=
  Rule.QueueBufferWords ∧ Rule.QueueBufferWaits

/-- Sync words: how they count, are armed and are waited for. -/
def Obligations.SyncWordsAndTheirWaits : Prop :=
  Rule.SyncWords ∧ Rule.SyncWordCounts

/-! ### Services, work queues, observed loads, gates -/

/-- A request to the Hen of an address of another package goes out, and nothing else is sent (R193, R213). -/
def Asks (s t : State) (sid a : Nat) (op : RemoteOp) : Prop :=
  ∃ x seq, t.post = s.post ++ [x] ∧ x.dest = henKey a / 320 ∧ x.tenant = s.owner sid ∧
    x.msg = .request s.pkg (s.placeOfStrand sid).coreNo seq op

/-- SVC and SVC_COMPLETE (R266, R401): SVC n freezes the strand with D61 and D62 as read, and is suppressed with ILLOP in an M-step; NULL answers 0; HOSTEV adds its amount
(1..2^31) to the host event counter D62[5:0] of the launching function, and answers 2 for another amount; SNAPSHOT to a window that passes
the checks and whose bytes are there writes the snapshot there, answers 0 and the snapshot's number, and the next snapshot of the tenant
has the next number; another window answers 2; LINKGEN gives LGEN and the group's MGEN. The status and D61 are untainted; D62, of which
R266 says nothing, has the taint of the registers read (R158). -/
def Rule.FirmwareServices : Prop :=
  ∀ (s : State) (sid : Nat) (a b : BitVec 64) (x : Bool), let st := s.strand sid
    let fn := s.launchFn (ttOf sid)
    let window := s.capBytes sid (st.rc 1) a.toNat 480
    let snap := (s.snapshot (s.owner sid)).2.1
    (s.cur = .strand sid → s.inMStep sid = true → ∀ i ∈ [Instr.svcNull, .svcHostev, .svcSnapshot, .svcLinkgen],
      exec i s = .next (s.suppressHere sid Code.illop 0)) ∧
    (s.cur = .strand sid → s.inMStep sid = false → st.wait = .none →
      let frozen := fun (n : Nat) => s.setStrand sid { st with
        wait := .svc n (st.rd 61) (st.rd 62) ([60, 61, 62, 63].any fun r => st.rt r) }
      exec .svcNull s = .next (frozen 0) ∧ exec .svcHostev s = .next (frozen 1) ∧
      exec .svcSnapshot s = .next (frozen 2) ∧ exec .svcLinkgen s = .next (frozen 3)) ∧
    (st.wait = .svc 0 a b x → exec (.svcComplete sid) s = .next (s.setStrand sid (st.answer [.d 60 0 false, .d 61 0 false]))) ∧
    (st.wait = .svc 1 a b x → a ≠ 0 → a.toNat ≤ 2 ^ 31 → ∃ t, exec (.svcComplete sid) s = .next t ∧
      t.strand sid = st.answer [.d 60 0 false, .d 61 0 false] ∧ t.mem = s.mem ∧
      SMap.get 0 (t.func fn).he (bits b 5 0) = SMap.get 0 (s.func fn).he (bits b 5 0) + a) ∧
    (st.wait = .svc 1 a b x → a = 0 ∨ 2 ^ 31 < a.toNat →
      exec (.svcComplete sid) s = .next (s.setStrand sid (st.answer [.d 60 2 false, .d 61 0 false]))) ∧
    (st.wait = .svc 2 a b x → a.toNat % 64 = 0 → s.writeCheck sid (st.rc 1) a.toNat 480 (rightR + rightW) = none →
      (∀ i < 480, s.byteReady sid (st.rc 1) (a.toNat + i) = true) → ∃ t, exec (.svcComplete sid) s = .next t ∧ (t.tenant (s.owner sid)).snaps = (s.tenant (s.owner sid)).snaps + 1 ∧
        t.strand sid = st.answer [.d 60 0 false, .d 61 (BitVec.ofNat 64 (s.tenant (s.owner sid)).snaps) false] ∧ snap.length = 480 ∧
        (∀ i y, window[i]? = some (some y) → (∀ j, i < j → window[j]? ≠ some (some y)) →
          (∀ w ∈ s.arming, y < w.1 ∨ w.1 + 32 ≤ y) → t.mem.read y = snap.getD i 0) ∧
        ∀ y, some y ∉ window → t.mem.read y = s.mem.read y) ∧
    (st.wait = .svc 2 a b x → a.toNat % 64 ≠ 0 ∨ s.writeCheck sid (st.rc 1) a.toNat 480 (rightR + rightW) ≠ none →
      exec (.svcComplete sid) s = .next (s.setStrand sid (st.answer [.d 60 2 false, .d 61 0 false]))) ∧
    (st.wait = .svc 3 a b x → ∀ g, (s.ttOfStrand sid).group = some g → exec (.svcComplete sid) s = .next (s.setStrand sid
      (st.answer [.d 60 0 false, .d 61 (BitVec.ofNat 64 s.lgen) false, .d 62 (BitVec.ofNat 64 g.mgen) x])))

/-- WQPOP, WQWAIT and WQWAIT_COMPLETE (R84, R428, R429): WQPOP takes the oldest record appended on an earlier gcy that no earlier strand
has taken on this one, into eight D registers, with 1 in the last operand, or only writes 0 there; WQWAIT in a C-step goes on where such
a record is there, and else freezes the strand until one is. -/
def Rule.WorkQueueWords : Prop :=
  ∀ (s : State) (sid : Nat) (d a : BitVec 6) (q : BitVec 2), let st := s.strand sid
    let ready := s.wqReady (ttOf sid) q.toNat
    let taken := SMap.get 0 (s.ttOfStrand sid).wqTaken q.toNat
    (s.cur = .strand sid →
      (ready.length ≤ taken → exec (.wqpop d a q) s = .next (s.setStrand sid (st.push 0 0 (.d a.toNat 0 false)))) ∧
      (∀ r : Slot, ready[taken]? = some r → ∃ t, exec (.wqpop d a q) s = .next t ∧ t.mem = s.mem ∧
        SMap.get 0 (t.tt (ttOf sid)).wqTaken q.toNat = taken + 1 ∧
        t.strand sid = (st.pushAll 0 0 ((List.range 8).map fun i => .d (d.toNat + i) (r.extractLsb' (64 * i) 64) false)).push 0 0
          (.d a.toNat 1 false)) ∧
      (s.inMStep sid = false → st.wait = .none →
        (ready ≠ [] → exec (.wqwait q) s = .next s) ∧
        (ready = [] → exec (.wqwait q) s = .next (s.setStrand sid { st with wait := .wq q.toNat })))) ∧
    ∀ k, st.wait = .wq k → s.wqReady (ttOf sid) k ≠ [] →
      exec (.wqwaitComplete sid) s = .next (s.setStrand sid (st.answer []))

/-- LDC and LDC_ARRIVAL (R157, R213, R363): an aligned word that may be read freezes the strand; on its tenant's turn at a free port of this
package the word as it stands at its memory arrives tainted, and memory is as before; a word of another package is asked for of
its Hen, once, where its tenant's stop bit is not seen. -/
def Obligations.ObservedLoads : Prop :=
  ∀ (s : State) (sid : Nat) (r k : BitVec 6) (c g : BitVec 5), let st := s.strand sid
    let cap := st.rc c.toNat
    let o := (st.rd k.toNat).toNat
    (s.cur = .strand sid → s.inMStep sid = false → st.wait = .none → (capBase cap.bits + o) % 8 = 0 →
      s.readCheck sid cap o 8 rightR = none →
      (g = 0 → exec (.ldc r c k g) s = .next (s.setStrand sid { st with wait := .ldc r.toNat cap o none })) ∧
      (∀ a, g ≠ 0 → s.capCheck sid (st.rc g.toNat) 0 64 rightG = none → s.capAddr sid (st.rc g.toNat) 0 = .at_ a →
        exec (.ldc r c k g) s = .next (s.setStrand sid { st with wait := .ldc r.toNat cap o (some a) }))) ∧
    ∀ d w x gate a, st.wait = .ldc d w x gate → s.capAddr sid w x = .at_ a →
      (s.farAway a = false → s.byteReady sid w x = true → s.turnAt (s.owner sid) a = true →
        ∃ t, exec (.ldcArrival sid) s = .next t ∧ t.mem = s.mem ∧
          t.strand sid = st.answer [.d d (BitVec.ofNat 64 (natOf (s.mem.readN a 8))) true]) ∧
      (s.farAway a = true → s.awaiting (waitKey sid) = false → s.stopBit (s.owner sid) a = false →
        ∃ t, exec (.ldcArrival sid) s = .next t ∧ t.mem = s.mem ∧ t.strand sid = st ∧ Asks s t sid a (.read a 8))

/-- Gates (R161..R164, R340, R392): ACQ of a gate the strand does not hold joins its waiters and freezes (in another package its Hen is
asked), one of a gate in an extent that is not resident is held (R111), and one of a gate the strand holds is suppressed with
GATESTATE; on its tenant's turn, while nothing at the Hen holds it up, a free gate is granted to
its first waiter whose timetable does not stop; REL by the holder lets go and releases once everything before it has performed, with GEN counted up and POISON clear
(in another package by a request); REL by another is suppressed with GATESTATE. -/
def Obligations.Gates : Prop :=
  ∀ (s : State) (sid a : Nat) (c : BitVec 5), let st := s.strand sid
    let g := s.gate a
    (s.cur = .strand sid → s.inMStep sid = false → st.wait = .none → s.gateOf sid (st.rc c.toNat) = .ok none →
      exec (.acq c) s = .next (s.setStrand sid { st with wait := .held (st.rc c.toNat) none })) ∧
    (s.cur = .strand sid → s.gateOf sid (st.rc c.toNat) = .ok (some a) →
      (s.inMStep sid = false → g.holder = some sid → exec (.acq c) s = .next (s.suppressHere sid Code.gateState 3)) ∧
      (s.inMStep sid = false → st.wait = .none → g.holder ≠ some sid → s.farAway a = true → ∃ t, exec (.acq c) s = .next t ∧ t.mem = s.mem ∧
        t.strand sid = { st with wait := .acq a } ∧ Asks s t sid a (.acq a sid)) ∧
      (s.inMStep sid = false → st.wait = .none → g.holder ≠ some sid → s.farAway a = false → ∃ t, exec (.acq c) s = .next t ∧ t.mem = s.mem ∧
        t.gate a = { g with waiters := g.waiters ++ [sid] } ∧ t.strand sid = { st with wait := .acq a }) ∧
      (g.holder = some sid → ∃ t, exec (.rel c) s = .next t ∧ t.gate a = { g with holder := none, freeing := some sid } ∧
        (t.strand sid).rels = st.rels ++ [(a, st.markers, st.lastWrite)] ∧ (t.strand sid).d = st.d) ∧
      (g.holder ≠ some sid → exec (.rel c) s = .next (s.suppressHere sid Code.gateState 3))) ∧
    (∀ w rest, g.holder = none → g.freeing = none → g.waiters.filter (fun w => !s.abandons w) = w :: rest → s.ask w = none →
      s.turnAt (s.owner w) a = true → s.henFree (s.owner w) a = true → (s.strand w).wait = .acq a →
      ∃ t, exec (.gateGrant a) s = .next t ∧ t.gate a = { g with holder := some w, waiters := rest } ∧
        t.strand w = (s.strand w).answer []) ∧
    (∀ m at_ rest, st.rels = (a, m, at_) :: rest → at_ < st.vclk → (∀ q < 5, ∀ k < 5, QEnt.marker (m + k) ∉ st.queue q) →
      (s.farAway a = false → s.henFree (s.owner sid) a = true →
        ∃ t, exec (.gateRelease sid) s = .next t ∧ t.strand sid = { st with rels := rest } ∧
          t.gate a = { g with holder := none, freeing := none, poison := false, gen := g.gen + 1 }) ∧
      (s.farAway a = true → ∃ t, exec (.gateRelease sid) s = .next t ∧ t.strand sid = { st with rels := rest } ∧
        Asks s t sid a (.rel a sid false)))

/-- BIND and WSSEAL with their answers (R113, R162, R345, R431): the checked operands freeze the strand; BIND answers 2 to a strand that does
not hold the gate (of this package, on the tenant's turn; another package's Hen is asked), else adds the window (1 where eight are bound)
or, with C0, removes all, and the gate is live from then on (the model's reading: log entry 25); WSSEAL answers NOTWS, NOTWHOLE or BUSY, or
sets the object's state. -/
def Obligations.BindAndSeal : Prop :=
  ∀ (s : State) (sid : Nat) (r : BitVec 6) (c k : BitVec 5) (z : BitVec 1), let st := s.strand sid
    let w := (st.rc k.toNat).bits
    let x := (st.rc c.toNat).bits
    let said := fun (s : State) (d n : Nat) => s.setStrand sid (st.answer [.d d (BitVec.ofNat 64 n) false])
    (s.cur = .strand sid → s.inMStep sid = false → st.wait = .none →
      (∀ a, s.capCheck sid (st.rc c.toNat) 0 64 rightG = none → s.capAddr sid (st.rc c.toNat) 0 = .at_ a → k ≠ 0 →
        s.capCheck sid (st.rc k.toNat) 0 (capLen w) rightG = none →
        exec (.bind r c k) s = .next (s.setStrand sid { st with
          wait := .bind r.toNat a (some (capTid w, capObj w, capBase w, capLen w)) })) ∧
      (∀ a, s.capCheck sid (st.rc c.toNat) 0 64 rightG = none → s.capAddr sid (st.rc c.toNat) 0 = .at_ a →
        exec (.bind r c 0) s = .next (s.setStrand sid { st with wait := .bind r.toNat a none })) ∧
      (s.capCheck sid (st.rc c.toNat) 0 (capLen x) rightW = none →
        exec (.wsseal r c z) s = .next (s.setStrand sid { st with
          wait := .wsseal r.toNat (capTid x) (capObj x) (capBase x) (capLen x) (z == 1) }))) ∧
    (∀ d a v, st.wait = .bind d a v → s.farAway a = true → s.awaiting (waitKey sid) = false →
      ∃ t, exec (.bindAnswer sid) s = .next t ∧ t.strand sid = st ∧ Asks s t sid a (.bind a sid v)) ∧
    (∀ d a v, st.wait = .bind d a v → s.farAway a = false → s.turnAt (s.owner sid) a = true → s.henFree (s.owner sid) a = true →
      let g := s.gate a
      (g.holder ≠ some sid → exec (.bindAnswer sid) s = .next (said s d 2)) ∧
      (∀ u, v = some u → g.holder = some sid →
        (8 ≤ g.binds.length → exec (.bindAnswer sid) s = .next (said s d 1)) ∧
        (g.binds.length < 8 → exec (.bindAnswer sid) s = .next (said (s.setGate a { g with binds := g.binds ++ [u], live := true }) d 0))) ∧
      (v = none → g.holder = some sid →
        exec (.bindAnswer sid) s = .next (said (s.setGate a { g with binds := [], live := true }) d 0))) ∧
    (∀ d t o base len want, st.wait = .wsseal d t o base len want → let e := (s.obj t o).entry
      (entHome e ≠ 2 → exec (.wssealAnswer sid) s = .next (said s d 2)) ∧
      (entHome e = 2 → base ≠ 0 ∨ len ≠ entLen e → exec (.wssealAnswer sid) s = .next (said s d 3)) ∧
      (entHome e = 2 → base = 0 → len = entLen e → (s.obj t o).loading ≠ 0 ∨ (want = true ∧ entTp e = 1) →
        exec (.wssealAnswer sid) s = .next (said s d 1)) ∧
      (entHome e = 2 → base = 0 → len = entLen e → (s.obj t o).loading = 0 → (want = true → entTp e ≠ 1) →
        ∃ y, exec (.wssealAnswer sid) s = .next y ∧ y.strand sid = st.answer [.d d 0 false] ∧
          (y.obj t o).entry = entSet e 244 1 (b2n want)))

/-! ### Ox commands -/

/-- The Ox words with one capability and with two, as they stand: instruction, op, source capability, ORD. -/
def oxForms (d c : BitVec 5) (p : BitVec 6) (o : BitVec 1) (q : BitVec 2) : List (Instr × Nat × BitVec 5 × Bool) :=
  [(.oxcopy d c p q 0, 0x40, c, false), (.oxgath d c p q 0, 0x41, c, false), (.oxscat d c p q 0, 0x42, c, false),
   (.oxfill d p q 0, 0x43, 0, false), (.oxacc d c p o q, 0x44, c, o == 1), (.oxcas d c p q, 0x45, c, false),
   (.oxenq d p q, 0x46, 0, false), (.oxchase d c p q, 0x47, c, false), (.oxhen d c p o q, 0x48, c, o == 1),
   (.oxpage d p q, 0x49, 0, false)]

/-- The same in timed mode. -/
def oxTimedForms (d c : BitVec 5) (p : BitVec 6) (q : BitVec 2) : List (Instr × Nat × BitVec 5) :=
  [(.oxcopy d c p q 1, 0x40, c), (.oxgath d c p q 1, 0x41, c), (.oxscat d c p q 1, 0x42, c), (.oxfill d p q 1, 0x43, 0)]

/-- A command passes its checks at issue (R175, R379, R380): the block, its row, both sides, the sync word, the queue buffer. -/
def OxPasses (s : State) (sid op : Nat) (timed : Bool) (b : PBlk) (kd ks : BitVec 5) : Prop :=
  let st := s.strand sid
  let cd := st.rc kd.toNat
  let cs := st.rc ks.toNat
  let y := s.syncSpec b cd (st.rc 1) kd.toNat
  s.blockCheck sid op timed b = none ∧ s.rowCheck op b cd cs ks.toNat = none ∧
  (∀ x ∈ s.sides op timed b cd cs (st.rc 1) kd.toNat ks.toNat,
    s.sideIssue sid x = none ∧ (timed = true → s.sidePort sid x = none)) ∧
  (b.syen = true → s.capIssue sid y.1 y.2.2 32 rightW = none) ∧
  (b.qben = true → (st.qbuf b.qbh).v = true) ∧ (op = 0x46 → s.portsDiffer sid cd b.doff b.arg = false)

/-- Every Ox word whose block register is a multiple of 8 and not D0, in the asynchronous mode (R171, R379, R380): a command that passes its
checks joins its queue as one job with the strand's next order number, where the queue holds fewer than 64 jobs; nothing else of the
registers and no byte of memory changes. Of a dense copy or contribution whose sides overlap as R181 refuses, OXOVL is recorded instead
(for OXACC and OXHEN the model's reading: log entry 157). With the queue full the command is dropped, and QFULL is signalled to the SSEM
it names: one unit, with ERR set and STAT 4 where ERR was 0 (R182). Another block register is an illegal word. -/
def Rule.OxWordsJoinTheirQueue : Prop :=
  ∀ (s : State) (sid op : Nat) (i : Instr) (d c cs : BitVec 5) (p : BitVec 6) (o : BitVec 1) (q : BitVec 2) (ord : Bool),
    (i, op, cs, ord) ∈ oxForms d c p o q → s.cur = .strand sid → let st := s.strand sid
    let b : PBlk := (List.range 8).map fun i => st.rd (p.toNat + i)
    let jobs := (st.queue q.toNat).countP fun e => match e with
      | .job _ => true
      | _ => false
    (p = 0 ∨ p.toNat % 8 ≠ 0 → exec i s = .next (s.slotIllegal sid 3)) ∧
    let verdict := overlapVerdict op b (st.rc d.toNat) (st.rc cs.toNat)
      (s.streamOf sid op false b (st.rc d.toNat) (st.rc cs.toNat) (st.rc 1))
    (p ≠ 0 → p.toNat % 8 = 0 → OxPasses s sid op false b d cs → op ∈ [0x40, 0x44, 0x48] → verdict = some false →
      exec i s = .next (s.oxSuppress sid false b Code.oxOvl 0 st.bundle)) ∧
    (p ≠ 0 → p.toNat % 8 = 0 → OxPasses s sid op false b d cs → (op ∈ [0x40, 0x44, 0x48] → verdict ≠ some false) →
      (jobs < 64 → ∃ t j, exec i s = .next t ∧ t.strand sid = { (st.setQueue q.toNat (st.queue q.toNat ++ [.job j])) with
            order := st.order + 1 } ∧ t.mem = s.mem ∧ (j.id = s.nextJob ∧ t.job j.id = j ∧ j.op = op ∧ j.ord = ord ∧ j.blk = b ∧
            j.cd = st.rc d.toNat ∧ j.cs = st.rc cs.toNat ∧ j.c1 = st.rc 1 ∧ j.order = st.order ∧ j.st = .queued ∧ j.status = 0 ∧ j.pieces = [] ∧
            j.hens = 0 ∧ j.taint = ([p.toNat, p.toNat + 1] ++ if op ∈ [0x41, 0x42, 0x46, 0x47] then [p.toNat + 7] else []).any
              fun r => st.rt r)) ∧
      (64 ≤ jobs → b.sen = false → exec i s = .next s) ∧
      (64 ≤ jobs → b.sen = true → ∃ t, exec i s = .next t ∧ t.mem = s.mem ∧ ∀ k, s.semKey sid b.ssem = some k →
        let v := (s.ttOfStrand sid).sem k
        let w := (t.tt (ttOf sid)).sem k
        w.toNat % 2 ^ 16 = Nat.min (v.toNat % 2 ^ 16 + 1) 65535 ∧ w.getLsbD 31 = true ∧
          (v.toNat < 2 ^ 16 → w.toNat / 2 ^ 24 % 128 = 4)))

/-- L and B of a timed job by the homes of its source (none: OXFILL) and destination, as the table of R177 gives them. -/
def r177 : Option Nat → Nat → Option (Nat × Nat)
  | some 0, 0 => some (12, 256)
  | some 1, 0 | some 0, 1 => some (44, 256)
  | some 2, 0 | some 2, 1 => some (64, 256)
  | some 3, 0 | some 0, 3 => some (164, 128)
  | some 1, 3 | some 3, 1 => some (204, 128)
  | some 3, 3 => some (324, 128)
  | some 1, 1 => some (84, 256)
  | some 2, 3 => some (224, 128)
  | none, 0 => some (16, 256)
  | none, 1 => some (48, 256)
  | none, 3 => some (168, 128)
  | _, _ => none

/-- The timed Ox words (R177, R178, R181): a command that passes its checks, is not refused for an overlap, names with no row of an OXSCAT a
live gate word, waits for no refresh window in an M-step (else ILLOP: R66, R338) and finds its engine free has its lines of 128 bytes
pending, line k sampled at issue + 128 k / B and landing L vcy later at the addresses of its bytes, from those of its source (of a dense
copy whose sides overlap, with the bytes as they stand at issue), and memory is as before at issue. L and B are those of R177's table
where all bytes lie on the strand's own die, and 16 + H and 32 where the destination lies on another. Where an earlier command holds the
engine it is suppressed with OXBUSY, and where the overlap is refused with OXOVL. -/
def Rule.TimedOxWords : Prop :=
  ∀ (s : State) (sid op : Nat) (i : Instr) (d c cs : BitVec 5) (p : BitVec 6) (q : BitVec 2),
    (i, op, cs) ∈ oxTimedForms d c p q → s.cur = .strand sid → p ≠ 0 → p.toNat % 8 = 0 → let st := s.strand sid
    let b : PBlk := (List.range 8).map fun i => st.rd (p.toNat + i)
    let cd := st.rc d.toNat
    let src := st.rc cs.toNat
    let str := s.streamOf sid op true b cd src (st.rc 1)
    let at_ := fun (c : Cap) (o : Nat) => match s.capAddr sid c o with
      | .at_ a => some a
      | _ => none
    let (lat, rate) := s.oxTiming sid op cd src str
    let y := s.syncSpec b cd (st.rc 1) d.toNat
    let str1 := if (overlapVerdict op b cd src str).isSome then s.frozen sid src str else str
    let pending := fun (k : Nat) =>
      let line := ((str1.drop (128 * k)).take 128).filter fun x => x.dst.isSome
      (⟨st.vclk + lat + 128 * k / rate, some (st.vclk + 128 * k / rate), 3, st.seq + k,
        .ox (line.map fun x => x.dst.bind (at_ cd)) (line.map fun x => x.src.bind (at_ src)) none
          (line.map fun x => if x.src.isSome then none else some x.c) (if b.syen then at_ y.1 y.2.2 else none)
          (if b.rpen then some b.rpred else none) k⟩ : Pend)
    (∀ lb, r177 (if op = 0x43 then none else some (s.homeOfCap src)) (s.homeOfCap cd) = some lb →
      (∀ x ∈ str, (∀ o a, x.dst = some o → at_ cd o = some a → s.isRemote sid a = false) ∧
        ∀ o a, x.src = some o → at_ src o = some a → s.isRemote sid a = false) → (lat, rate) = lb) ∧
    (∀ o a, (str.findSome? fun x => x.dst) = some o → at_ cd o = some a → s.isRemote sid a = true →
      lat = 16 + (s.ttOfStrand sid).hops (addrPkg a) (addrDie a) ∧ rate = 32) ∧
    (OxPasses s sid op true b d cs →
      let refused := fun (code : Nat) => exec i s = .next (s.oxSuppress sid true b code 0 st.bundle)
      (overlapVerdict op b cd src str = some false → refused Code.oxOvl) ∧
      (overlapVerdict op b cd src str ≠ some false →
        (s.engineBusy sid q.toNat = true → refused Code.oxBusy) ∧
        (s.engineBusy sid q.toNat = false → s.oxWaitsInM sid op cd src str = true → refused Code.illop) ∧
        (s.engineBusy sid q.toNat = false → s.oxWaitsInM sid op cd src str = false →
          (op = 0x42 → s.gateRow sid op b cd (s.rowsOf sid op true b cd src (s.indexList sid b (st.rc 1))) = none) →
          ∃ t, exec i s = .next t ∧ t.mem = s.mem ∧ (t.strand sid).d = st.d ∧
            (t.strand sid).pend = st.pend ++ (List.range ((str.length + 127) / 128)).map pending)))

/-- OX_JOB_START, OX_JOB_FINISH and RETRANSMIT_TIMEOUT (R180, R186, R193): the waiting job at the head of its queue takes its WSEM unit and
starts; a job with nothing left leaves its queue and no longer exists, its bytes having been counted as they performed (R199); an unanswered request is sent again after 2^16 gcy, where its
tenant's stop bit is not seen, up to eight times, and then its job ends with NOREPLY. -/
def Obligations.OxJobs : Prop :=
  (∀ (s : State) (sid q : Nat) (j : Job), s.waitingJob sid q = some j → s.startLacks j = [] → j.again = false →
    (PBlk.wen j.blk = false → exec (.oxJobStart sid q) s = .next (s.startJob j)) ∧
    (PBlk.wen j.blk = true → ∀ k, s.semKey sid (PBlk.wsem j.blk) = some k → let v := (s.ttOfStrand sid).sem k
      semCount v ≠ 0 → let s' := s.setTt (ttOf sid) ((s.ttOfStrand sid).setSem k (semWith v (semCount v - 1)))
      s'.startLacks j = [] → exec (.oxJobStart sid q) s = .next (s'.startJob j))) ∧
  (∀ (s : State) (j : Job), j.op = 0x43 → s.jobPorts j = none →
    s.startJob j = s.setJob j.id { j with
      st := .started, whole := false, pieces := movePieces j.cd (s.streamOf j.sid 0x43 false j.blk j.cd j.cs j.c1) }) ∧
  (∀ (s : State) (jid : Nat), let j := s.job jid
    s.jobDone j = true → j.q < 4 → ∃ t, exec (.oxJobFinish jid) s = .next t ∧ t.job jid = Job.none ∧
      (∀ x, QEnt.job x ∈ (t.strand j.sid).queue j.q → x.id ≠ jid) ∧
      t.mem = s.mem ∧ (t.strand j.sid).d = (s.strand j.sid).d) ∧
  ∀ (s : State) (key k : Nat) (r : Remote),
    (s.remotes.find? fun x => x.1 == key) = some (k, r) → r.sent + 2 ^ 16 ≤ s.gclk.toNat →
    s.stopFor (s.owner r.sid) (r.hen / 320) = false →
    (8 ≤ r.tries → key < 2 ^ 64 → ∃ t, exec (.retransmitTimeout key) s = .next t ∧ (t.job key).status = 0x15 ∧
      (t.job key).pieces = [] ∧ (t.job key).hens = 0 ∧ t.mem = s.mem) ∧
    (r.tries < 8 → ∃ t x, exec (.retransmitTimeout key) s = .next t ∧ t.post = s.post ++ [x] ∧ x.dest = r.hen / 320 ∧
      x.msg = .request s.pkg (s.placeOfStrand r.sid).coreNo r.seq r.op ∧
      SMap.get Remote.none t.remotes key = { r with sent := s.gclk.toNat, tries := r.tries + 1 } ∧ t.mem = s.mem)

/-! ### Hen routines and Mule harts -/

/-- What the private words of a Hen do where they write `bytes` at address x for their request: they stand there after it, and no other byte
changes but those of the sync word the bytes of a request of this package count into (R199). A sync word that a SYNCARM reaches on this
gcy takes them after that (R403), so it must not lie in the line, nor the sync word that counts. -/
def HenStores (s t : State) (x : Nat) (r : HenReq) (bytes : List Byte) : Prop :=
  let j := s.job r.job
  let sync := if r.from_.isSome then none else (s.untimedWrite (s.owner j.sid) (runAt x bytes)).jobSync j
  let clear := (∀ w ∈ s.arming, w.1 + 32 ≤ x ∨ x + bytes.length ≤ w.1) ∧ ∀ a, sync = some a → a + 32 ≤ x ∨ x + bytes.length ≤ a
  (clear → ∀ i < bytes.length, t.mem.read (x + i) = bytes.getD i 0) ∧
  ∀ y, (y < x ∨ x + bytes.length ≤ y) → (∀ a, sync = some a → y < a ∨ a + 32 ≤ y) → t.mem.read y = s.mem.read y

/-- HEN_REQUEST, HLDL, HSTL, HADDL, HNEXT, HREPLY (R188, R196, R355..R361): on a tenant's turn a Hen that runs no routine of it serves
its first request, once every byte of it is there and no extent it names is in migration; in a request that covers the line, HLDL reads the line into the buffer, HSTL stores the buffer, HADDL adds its
elements, and no other byte changes but of the sync word that counts them; HREPLY keeps the first reply; HNEXT ends the request with it. (That a run holds the accesses of its own tenant at the port
alone is the model's reading: log entry 147.) -/
def Rule.HenWords : Prop :=
  (∀ (s : State) (port tenant : Nat) (r : HenReq), s.turn (henServer port) = some tenant →
    let k := port * 256 + tenant
    ∀ rest, (s.hen k).cur = none → (s.hen k).queue = r :: rest →
    (∀ x ∈ s.reqBytes r, s.byteReady (s.job r.job).sid x.1 x.2 = true) → (∀ x ∈ s.reqAddrs k r, s.migratingAt x = false) →
    exec (.henRequest port) s = .next ((s.setHen k { s.hen k with queue := rest }).serve k r)) ∧
  ∀ (s : State) (port x : Nat) (r : HenReq) (a b : BitVec 6) (ty : BitVec 12), let h := s.hen port
    s.cur = .hen port → h.cur = some r → a.toNat < 32 →
    let kept := fun (t : State) => (t.hen port).d = h.d ∧ (t.hen port).rb = h.rb ∧ (r.from_ = none → t.hen port = h)
    (s.henAddr port (h.rd a.toNat) = some x → x % 128 = 0 → r.covers x = true →
      (∃ t, exec (.hldl a) s = .next t ∧ t.mem = s.mem ∧ (t.hen port).rb = wordsOf (s.mem.readN x 128) ∧ (t.hen port).d = h.d) ∧
      (∃ t, exec (.hstl a) s = .next t ∧ kept t ∧ (bufBytes h.rb).length = 128 ∧ HenStores s t x r (bufBytes h.rb)) ∧
      (ty.toNat ≤ 2 → ∃ t, exec (.haddl a ty) s = .next t ∧ kept t ∧
        HenStores s t x r (accBytes ty.toNat 128 (s.mem.readN x 128) (bufBytes h.rb))) ∧
      (2 < ty.toNat → exec (.haddl a ty) s = .next (s.henIllegal port))) ∧
    (b.toNat < 32 →
      (h.replied = none → exec (.hreply a b) s = .next (s.setHen port { h with
        replied := some ((h.rd a.toNat).toNat % 128, [h.buf 0, h.buf 1, h.buf 2, h.buf 3, h.rd b.toNat]) })) ∧
      (h.replied ≠ none → exec (.hreply a b) s = .next s)) ∧
    ∃ t, exec .hnext s = .next t ∧ (t.hen port).cur = none ∧ (t.hen port).replied = none ∧ t.mem = s.mem ∧
      (r.from_ = none → (t.job r.job).hens = (s.job r.job).hens - 1)

/-- HCMP, HSTAGE and HCOMMIT (R189, R356, R357, R358): HCMP compares n words of memory with the buffer, replaces them by the n words behind
those where they agree, leaves the words read in the buffer, and writes 1 or 0; HSTAGE stages the line under the tag's strand and order
numbers while the tenant's staging has 160 bytes left; HCOMMIT commits what a timetable has staged at the port. -/
def Rule.HenAtomicWords : Prop :=
  ∀ (s : State) (port x : Nat) (r : HenReq) (d a b k : BitVec 6), let h := s.hen port
    let n := (h.rd b.toNat).toNat
    let old := wordsOf (s.mem.readN x (8 * n))
    s.cur = .hen port → h.cur = some r → a.toNat < 32 → b.toNat < 32 → s.henAddr port (h.rd a.toNat) = some x →
    (d.toNat < 32 → 0 < n → n ≤ 8 → (h.rd a.toNat).toNat % 8 = 0 → (h.rd a.toNat).toNat % 128 + 8 * n ≤ 128 → k.toNat + 2 * n ≤ 16 →
      x % 8 = 0 → r.covers x = true →
      ((∀ i < n, old.getD i 0 = h.buf (k.toNat + i)) → ∃ t, exec (.hcmp d a b k) s = .next t ∧
        (d ≠ 0 → (t.hen port).rd d.toNat = 1) ∧ (∀ i < n, (t.hen port).buf (k.toNat + i) = old.getD i 0) ∧
        HenStores s t x r ((List.range n).flatMap fun i => bytesOf 8 (h.buf (k.toNat + n + i)).toNat)) ∧
      (¬ (∀ i < n, old.getD i 0 = h.buf (k.toNat + i)) → ∃ t, exec (.hcmp d a b k) s = .next t ∧
        (d ≠ 0 → (t.hen port).rd d.toNat = 0) ∧ t.mem = s.mem ∧ ∀ i < n, (t.hen port).buf (k.toNat + i) = old.getD i 0)) ∧
    (k.toNat ≤ 2 → x % 128 = 0 → r.covers x = true → h.stagedBytes r.tenant + 160 ≤ (s.tenant r.tenant).stagePart →
      ∃ t e, exec (.hstage a b k) s = .next t ∧ (t.hen port).staged = h.staged ++ [e] ∧ e.at_ = (List.range 128).map (x + ·) ∧
        (t.hen port).cur = some { r with lines := r.lines + 1 } ∧ e.ty = k.toNat ∧ e.tt = r.tt ∧
        e.strand = (h.rd b.toNat).toNat % 2 ^ 32 ∧ e.order = (h.rd b.toNat).toNat / 2 ^ 32 ∧ e.bytes = bufBytes h.rb ∧ t.mem = s.mem) ∧
    let v := (h.rd a.toNat).toNat % 2 ^ 32
    exec (.hcommit a) s = .next (s.commitAt port (if r.tt % 2 ^ 32 = v then r.tt else v))

/-- The Virbel words in machine mode and SIGWAIT_WAKE (R244, R245): vb.bfx takes a field; vb.sigwait gives the masked signals or sleeps until
one comes or its time is up; vb.rfetch and vb.dispatch do their work and go to the next word; out of machine mode each is an illegal
instruction; a malformed field, ring, mask or request traps with its cause. x0 is not written. (The trap registers, the layout of a request
and the queues a hart serves are the model's: log entries 9, 57 and 58.) -/
def Obligations.VirbelWords : Prop :=
  ∀ (s : State) (n : Fin 32) (r2 r1 rd : BitVec 5), s.cur = .hart n → let h := s.hart n
    let a := h.rx r1.toNat
    let b := h.rx r2.toNat
    let fn := bits a 11 4
    let q := bits a 3 0
    (h.mode ≠ 3 → ∀ i ∈ [Instr.vbBfx r2 r1 rd, .vbRfetch r2 r1 rd, .vbSigwait r2 r1 rd, .vbDispatch r2 r1 rd],
      exec i s = .next (s.setHart n (h.trap 2 0))) ∧
    (h.mode = 3 →
      (bits b 7 6 = 0 → bits b 63 14 = 0 → bits b 5 0 + bits b 13 8 + 1 ≤ 64 →
        exec (.vbBfx r2 r1 rd) s = .next (s.setHart n (h.done rd.toNat
          (BitVec.ofNat 64 (a.toNat / 2 ^ bits b 5 0 % 2 ^ (bits b 13 8 + 1)))))) ∧
      (64 < bits b 5 0 + bits b 13 8 + 1 → exec (.vbBfx r2 r1 rd) s = .next (s.setHart n (h.trap 25 b))) ∧
      (bits a 63 8 = 0 → s.signals n &&& a ≠ 0 ∨ b = 0 →
        exec (.vbSigwait r2 r1 rd) s = .next (s.setHart n (h.done rd.toNat (s.signals n &&& a)))) ∧
      (bits a 63 8 = 0 → s.signals n &&& a = 0 → b ≠ 0 → exec (.vbSigwait r2 r1 rd) s = .next (s.setHart n { h with
        sleep := some (rd.toNat, a, s.gclk.toNat + (b.toNat + 1) / 2) })) ∧
      (bits a 63 8 ≠ 0 → exec (.vbSigwait r2 r1 rd) s = .next (s.setHart n (h.trap 26 a))) ∧
      ((s.queue fn q).st ≠ 0 → s.servedBy fn q = n.val → bits b 5 2 = 0 → s.inSram (bits b 63 6 * 64) = true →
        b.getLsbD 0 = false → b.getLsbD 1 = true →
        exec (.vbRfetch r2 r1 rd) s = .next (s.setHart n (h.done rd.toNat 0))) ∧
      ((s.queue fn q).st = 0 ∨ s.servedBy fn q ≠ n.val → exec (.vbRfetch r2 r1 rd) s = .next (s.setHart n (h.trap 24 a))) ∧
      ((s.queue fn q).st ≠ 0 → s.servedBy fn q = n.val → bits b 5 2 = 0 → s.inSram (bits b 63 6 * 64) = true →
        b.getLsbD 0 = false → b.getLsbD 1 = false →
        exec (.vbRfetch r2 r1 rd) s = .next (s.rfetch n rd.toNat fn q (bits b 63 6 * 64) false)) ∧
      (a.toNat % 64 = 0 → bits b 63 14 = 0 → b.getLsbD 13 = true → ∃ t, exec (.vbDispatch r2 r1 rd) s = .next t ∧ t.mem = s.mem ∧
        if Config.orderRoom s.requests.length then t.muleDown = false ∧ t.hart n = h.done rd.toNat 0
        else t = s.setHart n (h.done rd.toNat 1)) ∧
      (a.toNat % 64 ≠ 0 → exec (.vbDispatch r2 r1 rd) s = .next (s.setHart n (h.trap 27 a)))) ∧
    ∀ d m t, h.sleep = some (d, m, t) → s.signals n &&& m ≠ 0 ∨ t ≤ s.gclk.toNat → ∃ x, exec (.sigwaitWake n) s = .next x ∧
      (x.hart n).sleep = none ∧ (x.hart n).pc = h.pc + 4 ∧ (d ≠ 0 → (x.hart n).rx d = s.signals n &&& m)

/-- Firmware services and work queues. -/
def Obligations.ServicesAndWorkQueues : Prop :=
  Rule.FirmwareServices ∧ Rule.WorkQueueWords

/-- The ten Ox words, asynchronous and timed. -/
def Obligations.OxWords : Prop :=
  Rule.OxWordsJoinTheirQueue ∧ Rule.TimedOxWords

/-- The requests of a Hen and its eight private words. -/
def Obligations.HenRoutines : Prop :=
  Rule.HenWords ∧ Rule.HenAtomicWords

/-! ### Writes that perform, meetings, barriers, ends -/

/-- A landing write puts a value into D register r. -/
def LandsInD (e : Eff) (r : Nat) : Prop :=
  match e with
  | .d k _ _ => k = r
  | .load (.d k _) _ _ => k = r
  | _ => False

/-- A landing write may change the byte at an address. -/
def LandsAt (e : Eff) (a : Nat) : Prop :=
  match e with
  | .store bytes _ _ _ => ∃ v, (some a, v) ∈ bytes
  | .ox dst _ _ _ _ _ _ => some a ∈ dst
  | _ => False

/-- TIMED_PERFORM (R62, R63): what a timetable writes on a gcy lands. A D register and a byte of memory hold the value of the last write to
them in the order of R63 (a byte of another die or package where its flit arrives, R209: log entry 152), and every D register and byte that
no write names is as before. What is due by a vcy the strand has run lands (a write whose vcy a meeting has passed over at the end of the
meeting's vcy: the model's reading, log entry 133). -/
def Obligations.TimedWritesPerform : Prop :=
  ∀ (s : State) (tt : Nat), s.landings tt ≠ [] → ∃ t, exec (.timedPerform tt) s = .next t ∧
    (∀ sid r, (∀ x ∈ s.landings tt, x.1 = sid → ¬ LandsInD x.2.eff r) → (t.strand sid).rd r = (s.strand sid).rd r) ∧
    (∀ a, (∀ x ∈ s.landings tt, ¬ LandsAt x.2.eff a) → t.mem.read a = s.mem.read a) ∧
    (∀ l1 l2 sid p r v k, s.landings tt = l1 ++ (sid, p) :: l2 → p.eff = .d r v k → r ≠ 0 →
      (∀ x ∈ l2, x.1 = sid → ¬ LandsInD x.2.eff r) → (t.strand sid).rd r = v) ∧
    (∀ l1 l2 sid p a v b1 b2, s.landings tt = l1 ++ (sid, p) :: l2 → p.eff = .store (b1 ++ (some a, v) :: b2) none false [] →
      s.isRemote sid a = false →
      (∀ x ∈ b2, x.1 ≠ some a) → (∀ x ∈ l2, ¬ LandsAt x.2.eff a) → t.mem.read a = v) ∧
    ∀ sid p, (s.strand sid).ran = true → sid ∈ s.sids tt → p ∈ (t.strand sid).pend → (s.strand sid).vclk < p.due

/-- SYNC_MEETING (R64): when every sibling of a core is at its SYNC bundle, or has ended or is ending (one that drains counts, and one that has
ended adds no VCLK: the model's reading, log entry 134), those that wait go on with the
greatest VCLK among them, on this gcy, or, where a refresh window holds a read of that vcy, frozen until the window ends (R25, R50); no
other strand and no byte of memory changes. -/
def Obligations.SyncMeetings : Prop :=
  ∀ (s : State) (tt lc : Nat), s.allMet tt lc = true → ∃ t v, exec (.syncMeeting tt lc) s = .next t ∧ t.mem = s.mem ∧
    let waits := fun (sid : Nat) => sid ∈ s.siblings tt lc ∧ (s.strand sid).wait = .meet
    (∃ sid, waits sid ∧ (s.strand sid).vclk = v) ∧
    (∀ sid, waits sid → (s.strand sid).vclk ≤ v ∧
      (s.refreshHeld sid v = false → t.strand sid = { s.strand sid with vclk := v, wait := .none, met := true, ran := true }) ∧
      (s.refreshHeld sid v = true → t.strand sid = { s.strand sid with
        vclk := v, wait := .refresh (s.gclk.toNat - s.gclk.toNat % 4096 + 512), met := true, ran := false })) ∧
    ∀ sid, ¬ waits sid → t.strand sid = s.strand sid

/-- A barrier message is among those the links of the alignment tree to these neighbours repeat (R68; that a message is repeated in the
control flits until the next step starts: log entry 168). -/
def Repeats (s t : State) (to_ : List Nat) (m : BarMsg) : Prop :=
  ∀ v ∈ to_, ∃ k, (m, k) ∈ (t.link (linkTo s.alignTree.2 s.pkg v)).bars

/-- MSTEP_ARRIVAL, BARRIER_RELEASE and the barrier's messages (R65, R67, R68, R69, R168, R215): a strand arrives on the vcy it leaves its step; on the
start gcy the next step opens, with VCLK b in every strand, unless lines are still staged, which puts the start off, or the M-step has
lost its alignment, which fails it. Of a timetable that spans packages a report is kept, and once all children have reported the package
reports the latest arrival and the greatest VCLK to its parent, or, at the root, settles the start and sends it to them; a start that
comes in time is taken and passed on, and one that comes late or a failure fails the step, at once where all strands here have
arrived and else at its barrier, and is passed on; what has been taken already does nothing. A stop stops the timetable here too (R335),
and a subtree whose strands have all ended is no longer waited for. -/
def Obligations.StepBarriers : Prop :=
  (∀ (s : State) (sid l : Nat), let st := s.strand sid
    st.wait = .barrier → st.leaves = some l → st.arrived = none → st.life = 1 → st.halt = false → l ≤ st.vclk →
    ∃ t, exec (.mstepArrival sid) s = .next t ∧ (t.strand sid).arrived = some st.vclk ∧ (t.tt (ttOf sid)).last = s.gclk.toNat ∧
      t.mem = s.mem ∧ (t.strand sid).d = st.d) ∧
  (∀ (s : State) (tt g b : Nat), let t := s.tt tt
    t.start = some (g, b) → t.life = 1 → t.cause = 0 → t.held = false → g ≤ s.gclk.toNat → s.allArrived tt = true → s.someParked tt = false →
    (s.stagedLines tt = 0 → ¬ (t.lost = true ∧ t.mstep.isSome = true) → ∃ x,
      exec (.barrierRelease tt) s = .next x ∧ (x.tt tt).step = t.step + 1 ∧ (x.tt tt).start = none ∧ (x.tt tt).vcy0 = b + 1 ∧
        (x.tt tt).opened = s.gclk.toNat ∧ (∀ sid ∈ s.alive tt, (x.strand sid).vclk = b ∧ (x.strand sid).wait = .none ∧
          (x.strand sid).arrived = none ∧ (x.strand sid).d = (s.strand sid).d) ∧ x.mem = s.mem) ∧
    (s.stagedLines tt = 0 → t.lost = true → t.mstep.isSome = true → ∃ x, exec (.barrierRelease tt) s = .next x ∧
      (x.tt tt).cause = 2 ∧ ∀ sid ∈ s.alive tt, (x.strand sid).halt = true) ∧
    (s.stagedLines tt ≠ 0 → ∃ x n, exec (.barrierRelease tt) s = .next x ∧ (x.tt tt).start = some (n, b) ∧ s.gclk.toNat < n ∧
      (x.tt tt).late = true ∧ (x.tt tt).step = t.step)) ∧
  (∀ (s : State) (link tt last b v : Nat), let t := s.tt tt
    ((s.alignTree.2.find? fun e => e.touches s.pkg && e.linkAt s.pkg == link).map fun e => e.other s.pkg) = some v → t.life = 1 →
    let kept := s.setTt tt { t with reports := (t.reports.filter fun r => r.1 != v) ++ [(v, last, b)] }
    (last < t.opened → exec (.barrierMessage link (.report tt last b)) s = .next s) ∧
    (t.opened ≤ last → s.allArrived tt = false ∨ t.cause ≠ 0 ∨ t.start ≠ none →
      exec (.barrierMessage link (.report tt last b)) s = .next kept) ∧
    (t.opened ≤ last → s.allArrived tt = true → t.cause = 0 → t.start = none →
      exec (.barrierMessage link (.report tt last b)) s = .next (kept.reportUp tt)) ∧
    (v ∉ t.gone → s.allArrived tt = false ∨ t.cause ≠ 0 ∨ t.start ≠ none →
      exec (.barrierMessage link (.ended tt)) s = .next (s.setTt tt { t with gone := t.gone ++ [v] })) ∧
    (v ∈ t.gone → exec (.barrierMessage link (.ended tt)) s = .next s)) ∧
  (∀ (s : State) (tt : Nat), let t := s.tt tt
    let kids := (s.barChildren t).filter fun v => !t.gone.contains v
    let last := t.reports.foldl (fun m r => Nat.max m r.2.1) t.last
    let b := t.reports.foldl (fun m r => Nat.max m r.2.2) (s.barrierValue tt)
    t.life = 1 → s.stagedLines tt = 0 → (∀ v ∈ kids, ∃ r ∈ t.reports, r.1 = v) → (∀ r ∈ t.reports, r.1 ≠ 512) →
    (∀ p, s.treeParent = some p → Repeats s (s.reportUp tt) [p] (.report tt last b)) ∧
    (s.treeParent = none → 0 < t.stride → ∃ g, ((s.reportUp tt).tt tt).start = some (g, b) ∧ last + 64 ≤ g ∧
      g % t.stride = t.phase % t.stride ∧
      Repeats s (s.reportUp tt) kids (.start tt g b))) ∧
  ∀ (s : State) (link tt g b c : Nat), let t := s.tt tt
    let from_ := (s.alignTree.2.find? fun e => e.touches s.pkg && e.linkAt s.pkg == link).map fun e => e.other s.pkg
    let around := s.treeParent.toList ++ s.barChildren t
    let fails := fun (x : State) =>
      (s.allArrived tt = true → (x.tt tt).cause = 2) ∧ (s.allArrived tt = false → (x.tt tt).failed = true)
    t.life = 1 → t.cause = 0 →
    (t.opened < g → t.start = none →
      (s.gclk.toNat < g → s.allArrived tt = true → ∃ x, exec (.barrierMessage link (.start tt g b)) s = .next x ∧
        (x.tt tt).start = some (g, b) ∧ Repeats s x (s.barChildren t) (.start tt g b)) ∧
      (g ≤ s.gclk.toNat ∨ s.allArrived tt = false → ∃ x, exec (.barrierMessage link (.start tt g b)) s = .next x ∧ fails x ∧
        Repeats s x around (.fail tt))) ∧
    (g ≤ t.opened ∨ t.start ≠ none → exec (.barrierMessage link (.start tt g b)) s = .next s) ∧
    (t.failed = false → ∃ x, exec (.barrierMessage link (.fail tt)) s = .next x ∧ fails x ∧
      Repeats s x (around.filter fun v => some v != from_) (.fail tt)) ∧
    ∃ x, exec (.barrierMessage link (.stop tt c)) s = .next x ∧ (x.tt tt).cause = c ∧
      Repeats s x ((s.treeParent.toList ++ s.treeChildren).filter fun v => some v != from_) (.stop tt c)

/-- STRAND_END, TIMETABLE_STOP, MACHINE_CHECK and SCRUB_ERROR (R71, R260, R261, R263): a drained strand that is not its timetable's last
ends, with its node kept; a stopping timetable whose strands have all stopped and whose started jobs have finished is gone, its strands
with it, with an error record written (R261), and a pre-emption it was the victim of admits its request again (R279); a machine
check stops every running strand of its timetable with cause 3 and its unit; an error nobody reads is logged with the unit of its
address, its 32 bytes become 0, and nothing else changes. -/
def Obligations.EndsAndStops : Prop :=
  (∀ (s : State) (sid : Nat) (node : Option Nat), let st := s.strand sid
    st.wait = .exit node → st.life = 1 → st.halt = false → st.drained = true → (∃ k ∈ s.alive (ttOf sid), k ≠ sid) →
    ∃ t, exec (.strandEnd sid) s = .next t ∧ t.strand sid = { st with life := 2, node := node, wait := .none, loops := [] } ∧ t.mem = s.mem ∧
      ∀ k, k ≠ sid → t.strand k = s.strand k) ∧
  (∀ (s : State) (tt : Nat), (s.tt tt).placed = true ∨ (s.tt tt).life = 3 → (s.tt tt).cause ≠ 0 → s.stopped tt = true → s.quiet tt = true →
    ∃ (u : State) (r : List Byte), (u.tt tt).life = 4 ∧ (∀ sid, ttOf sid = tt → u.strand sid = Strand.blank) ∧ u.errlog = s.errlog ++ [r] ∧
      r.length = 64 ∧ r.take 10 = bytesOf 8 s.gclk.toNat ++ bytesOf 1 (s.tt tt).cause ++ bytesOf 1 (s.tt tt).tenant ∧
      ((∀ p, s.preempt = some p → p.victim ≠ tt) → exec (.timetableStop tt) s = .next u) ∧
      ∀ p, s.preempt = some p → p.victim = tt → exec (.timetableStop tt) s = .next (u.rerunAdmit p.req)) ∧
  (∀ (s : State) (tt unit addr : Nat), (s.tt tt).placed = true → (s.tt tt).cause < 5 → ∃ t,
    exec (.machineCheck tt unit addr) s = .next t ∧ (t.tt tt).cause = 3 ∧ (t.tt tt).causeAux = unit ∧
    (∀ sid ∈ s.sids tt, (s.strand sid).life = 1 → (t.strand sid).halt = true) ∧
    ∀ a, a < addr / 32 * 32 ∨ addr / 32 * 32 + 32 ≤ a ∨ unit < 6 ∨ 9 < unit → t.mem.read a = s.mem.read a) ∧
  ∀ (s : State) (addr : Nat), ∃ t r, exec (.scrubError addr) s = .next t ∧ t.errlog = s.errlog ++ [r] ∧ r.length = 64 ∧
    r.take 8 = bytesOf 8 s.gclk.toNat ∧ t.strands = s.strands ∧ t.tts = s.tts ∧
    (∀ a, a < addr / 32 * 32 ∨ addr / 32 * 32 + 32 ≤ a → t.mem.read a = s.mem.read a) ∧
    ∀ i < 32, t.mem.read (addr / 32 * 32 + i) = 0

/-! ### Collectives -/

/-- What the Goose writes when it refuses a collective or ends one: untimed bytes of the control block, at offset `k` of it. -/
def Puts (s t : State) (sid : Nat) (c1 : Cap) (o k : Nat) (bytes : List Byte) : Prop :=
  s.arming = [] → t.mem = s.mem.writeAll (s.placed sid c1 (o + k) bytes)

/-- COLL, COLL_START and COLL_COMPLETE (R218..R222, R225, R331, R350, R351). A command whose control block passes its check joins the queue GQ
where it holds fewer than 64, and is suppressed with GQFULL otherwise. The Goose starts the command at the head, where the block's header can
be read and fewer than 16 collectives of the tenant are live at its die: SEMRANGE is recorded where SSEM is not allotted; the block, the
source and the destination are checked in that order, a failure is recorded and refuses with 0x01; another MGEN refuses with GENOLD, then a
header of R220 or an overlap of R334 with COLLFMT, then no tree with NOTREE; else the collective is live with the head's operands and the header's fields. A refusal
writes STATUS, after CURGEN where it is GENOLD, and takes the command from the head. A finished collective writes
DONE, the number of marked chunks, and STATUS 0, gives up its place at the head, and is over. A COLL of another strand than the member strand (R351) is
refused with COLLFMT. -/
def Rule.Collectives : Prop :=
  (∀ (s : State) (sid : Nat) (d c : BitVec 5) (p : BitVec 6), s.cur = .strand sid → let st := s.strand sid
    let o := (st.rd p.toNat).toNat
    let n := (st.queue 4).countP fun e => match e with
      | .coll _ => true
      | _ => false
    (p = 0 → exec (.coll d c p) s = .next (s.slotIllegal sid 3)) ∧
    (p ≠ 0 → o % 64 = 0 → s.capCheck sid (st.rc 1) o 64 (rightR + rightW) = none →
      (n < 64 → ∃ t cmd, exec (.coll d c p) s = .next t ∧ t.mem = s.mem ∧
        t.strand sid = { (st.setQueue 4 (st.queue 4 ++ [.coll cmd])) with order := st.order + 1 } ∧
        cmd.cd = st.rc d.toNat ∧ cmd.cs = st.rc c.toNat ∧ cmd.o = o ∧ cmd.order = st.order) ∧
      (64 ≤ n → exec (.coll d c p) s = .next (s.suppressHere sid Code.gqFull 3)))) ∧
  (∀ (s : State) (sid : Nat) (cmd : CollCmd) (rest : List QEnt), let ctx := ttOf sid
    let c1 := (s.strand sid).rc 1
    let h := s.collHeader sid c1 cmd.o
    let g := s.groupOf ctx
    let n := g.members.length
    let ssem := hf h 8 8
    let op := hf h 0 3
    let soff := hf h 128 64
    let doff := hf h 192 64
    let rlen := resultLen op (hf h 64 64) n
    let marks := ((rlen + 65535) / 65536 + 7) / 8
    let slen := if op = 4 ∧ g.members.idxOf s.pkg ≠ hf h 288 16 then 0 else hf h 64 64
    let u := s.meterBytes ctx ((s.capBytes sid c1 cmd.o 64).filterMap id) false
    let v := if (u.semKey sid ssem).isNone then u.fault sid Code.semRange 3 0 cmd.bundle else u
    let refused := fun (w : State) (status : Nat) (cur : Option Nat) =>
      exec (.collStart sid) s = .next (w.collRefuse sid cmd.bundle c1 cmd.o ssem status cur)
    let checks := [v.writeCheck sid c1 cmd.o (128 + marks) (rightR + rightW), v.readCheck sid cmd.cs soff (hf h 64 64) rightR,
      v.writeCheck sid cmd.cd doff rlen rightW]
    (s.strand sid).queue 4 = .coll cmd :: rest → (s.coll ctx).live = false → s.rangeLacks sid c1 cmd.o 64 = [] →
    s.contexts (s.placeOfStrand sid).die (s.tt ctx).tenant < 16 → ¬ ((s.tt ctx).aborted = true ∧ (s.tt ctx).member = some sid) →
    ((s.tt ctx).member ≠ some sid → refused v 0x13 none) ∧
    ((s.tt ctx).member = some sid →
      (∀ code, checks[0]? = some (some code) → refused (v.fault sid code 3 1 (cmd.o % 2 ^ 48)) 0x01 none) ∧
      (∀ code, checks[0]? = some none → checks[1]? = some (some code) → refused (v.fault sid code 3 cmd.ks (soff % 2 ^ 48)) 0x01 none) ∧
      (∀ code, checks[0]? = some none → checks[1]? = some none → checks[2]? = some (some code) →
        refused (v.fault sid code 3 cmd.kd (doff % 2 ^ 48)) 0x01 none) ∧
      (checks = [none, none, none] →
        (hf h 32 32 ≠ g.mgen % 2 ^ 32 → refused v 0x11 (some g.mgen)) ∧
        (hf h 32 32 = g.mgen % 2 ^ 32 → headerBad h n = true ∨ badOverlap cmd.cd cmd.cs op soff slen doff rlen = true → refused v 0x13 none) ∧
        (hf h 32 32 = g.mgen % 2 ^ 32 → headerBad h n = false → badOverlap cmd.cd cmd.cs op soff slen doff rlen = false →
          (packTrees g.members g.links = [] → refused v 0x12 none) ∧
          (packTrees g.members g.links ≠ [] → (s.tt ctx).early = [] → ∃ t, exec (.collStart sid) s = .next t ∧
            t.strands = v.strands ∧ (n = 1 ∨ t.mem = s.mem) ∧ let c := t.coll ctx
            c.live = true ∧ c.sid = sid ∧ c.cd = cmd.cd ∧ c.cs = cmd.cs ∧ c.c1 = c1 ∧ c.o = cmd.o ∧ c.op = op ∧ c.red = hf h 3 2 ∧
              c.ty = hf h 5 2 ∧ c.ord = (hf h 7 1 == 1) ∧ c.ssem = ssem ∧ c.len = hf h 64 64 ∧ c.soff = soff ∧ c.doff = doff ∧
              c.root = hf h 288 16 ∧ c.tmo = hf h 256 32 ∧ c.resume = (hf h 16 1 == 1) ∧ c.group = g ∧
              c.trees = packTrees g.members g.links ∧ c.no = (s.tt ctx).collNo))))) ∧
  (∀ (s : State) (sid bundle o ssem status : Nat) (c1 : Cap),
    Puts s (s.collRefuse sid bundle c1 o ssem status none) sid c1 o 40 (bytesOf 4 status) ∧
    (∀ g : Nat, let w := s.collPut sid c1 o 48 (bytesOf 4 g)
      Puts s w sid c1 o 48 (bytesOf 4 g) ∧ Puts w (s.collRefuse sid bundle c1 o ssem status (some g)) sid c1 o 40 (bytesOf 4 status)) ∧
    ∀ cur : Option Nat, ((s.collRefuse sid bundle c1 o ssem status cur).strand sid).queue 4 = dropMarkers (((s.strand sid).queue 4).drop 1)) ∧
  ∀ (s : State) (ctx : Nat), let c := s.coll ctx
    s.collFinished ctx = true → s.blockLacks c = [] →
    let w := s.collPut c.sid c.c1 c.o 44 (bytesOf 4 ((s.collMarks c).countP id))
    ∃ t, exec (.collComplete ctx) s = .next t ∧ t.coll ctx = Coll.none ∧
      Puts s w c.sid c.c1 c.o 44 (bytesOf 4 ((s.collMarks c).countP id)) ∧ Puts w t c.sid c.c1 c.o 40 (bytesOf 4 0) ∧
      (t.strand c.sid).queue 4 = dropMarkers (((s.strand c.sid).queue 4).drop 1) ∧
      ∀ k, s.semKey c.sid c.ssem = some k → (t.tt (ttOf c.sid)).sem k = (semSignal ((s.tt (ttOf c.sid)).sem k) 1 none).1

/-- The ways a collective ends early and its record is renewed (R217, R218, R225, R332, R333): a neighbour silent for TIMEOUT · 1024 gcy makes
the Goose name every neighbour silent so long, and an ABORT of the installed generation from a member brings its silent set; either way
ABORT goes to every neighbour on every tree, the silent set is kept, the member takes no new chunk (it is over, or only its last bytes are
to perform), and it takes part in no other collective until the agreed record is installed. An ABORT for a collective that has not come to
its Goose is kept for it and goes on, once; one of another generation, or from no member, does nothing (log entry 34). An aborting
collective whose last bytes have performed writes DONE, LOST and STATUS and is over. A waiting Goose says HOLD every TIMEOUT · 256 gcy on every tree link whose
stop bit is clear, and one received restarts the time-out of its sender. The surviving members agree a record with MGEN one higher, less
every member named silent, which is installed when no collective is in flight. -/
def Rule.CollectiveFailures : Prop :=
  (∀ (s : State) (ctx pkg : Nat), let c := s.coll ctx
    c.live = true → pkg ∈ s.collWaits ctx → (c.heard.find? fun x => x.1 == pkg) = none → c.began + c.tmo * 1024 ≤ s.gclk.toNat →
    ∃ lost : Nat, lost.testBit (c.rankOf pkg) = true ∧ exec (.collTimeout ctx pkg) s = .next ((s.sendAborts ctx lost).collAbort ctx 0x10 lost)) ∧
  (∀ (s : State) (ctx pkg mgen lost : Nat), let c := s.coll ctx
    let g := s.groupOf ctx
    let t := s.tt ctx
    (c.live = true → c.group.mgen = mgen → pkg ∈ c.group.members →
      (c.ending = none → exec (.abort ctx pkg mgen lost) s = .next ((s.sendAborts ctx lost).collAbort ctx 0x10 lost)) ∧
      (c.ending ≠ none → exec (.abort ctx pkg mgen lost) s = .next (s.collAbort ctx 0x10 lost))) ∧
    (c.live = true → c.group.mgen ≠ mgen ∨ pkg ∉ c.group.members → exec (.abort ctx pkg mgen lost) s = .next s) ∧
    (c.live = false → t.life = 0 ∨ t.aborted = true ∨ g.mgen ≠ mgen ∨ pkg ∉ g.members → exec (.abort ctx pkg mgen lost) s = .next s) ∧
    (c.live = false → t.life ≠ 0 → t.aborted = false → g.mgen = mgen → pkg ∈ g.members →
      ∃ x, exec (.abort ctx pkg mgen lost) s = .next x ∧
        x.tt ctx = { t with early := t.early ++ [⟨ctx, pkg, 0, mgen, t.collNo, .abort mgen lost⟩] } ∧ x.mem = s.mem ∧
        ((t.early.any fun f => f.mgen == mgen && f.no == t.collNo && f.abortSet.isSome) = true → x.post = s.post) ∧
        ((t.early.any fun f => f.mgen == mgen && f.no == t.collNo && f.abortSet.isSome) = false →
          ∀ y ∈ (packTrees g.members g.links).zipIdx, ∀ v ∈ neighbours y.1.2 s.pkg, ∃ p ∈ x.post,
            p.dest = v ∧ p.msg = .goose ⟨ctx, s.pkg, y.2, mgen, t.collNo, .abort mgen lost⟩))) ∧
  (∀ (s : State) (ctx status lost : Nat), let c := s.coll ctx
    (∀ t, t = s.collAbort ctx status lost → (t.tt ctx).aborted = true ∧ (t.tt ctx).silent ||| lost = (t.tt ctx).silent ∧
      (t.coll ctx = Coll.none ∨ (t.coll ctx).ending.isSome = true)) ∧
    (∃ l, s.sendAborts ctx lost = { s with post := s.post ++ l } ∧
      ∀ y ∈ c.trees.zipIdx, ∀ v ∈ neighbours y.1.2 s.pkg, ∃ p ∈ l,
        p.dest = v ∧ p.msg = .goose ⟨ctx, s.pkg, y.2, c.group.mgen, c.no, .abort c.group.mgen lost⟩)) ∧
  (∀ (s : State) (ctx status lost : Nat), let c := s.coll ctx
    c.ending = some (status, lost) → s.opsOf (.coll ctx) = [] → s.blockLacks c = [] →
    let m := (if c.agreed then s else s.collOpen ctx).markAll ctx
    let l := bytesOf 64 (natOf (m.readCap c.sid c.c1 (c.o + 64) 64) ||| lost)
    let w := m.collPut c.sid c.c1 c.o 64 l
    let d := w.collPut c.sid c.c1 c.o 44 (bytesOf 4 ((w.collMarks c).countP id))
    ∃ t, exec (.collComplete ctx) s = .next t ∧ t.coll ctx = Coll.none ∧ Puts m w c.sid c.c1 c.o 64 l ∧
      Puts w d c.sid c.c1 c.o 44 (bytesOf 4 ((w.collMarks c).countP id)) ∧ Puts d t c.sid c.c1 c.o 40 (bytesOf 4 status)) ∧
  (∀ (s : State) (ctx : Nat), let c := s.coll ctx
    c.live = true → s.collWaits ctx ≠ [] → c.held + c.tmo * 256 ≤ s.gclk.toNat → ∃ t l, exec (.holdSend ctx) s = .next t ∧
      t.coll ctx = { c with held := s.gclk.toNat } ∧ t.post = s.post ++ l ∧ t.mem = s.mem ∧ t.strands = s.strands ∧
      (∀ y ∈ c.trees.zipIdx, ∀ v ∈ neighbours y.1.2 s.pkg, s.stopFor (s.tt ctx).tenant v = false → ∃ p ∈ l,
        p.dest = v ∧ p.msg = .goose ⟨ctx, s.pkg, y.2, c.group.mgen, c.no, .hold⟩) ∧
      ∀ p ∈ l, s.stopFor (s.tt ctx).tenant p.dest = false) ∧
  (∀ (s : State) (ctx pkg : Nat), let c := s.coll ctx
    c.live = true → (∃ x ∈ c.trees, pkg ∈ neighbours x.2 s.pkg) → ∃ t, exec (.hold ctx pkg) s = .next t ∧
      ((t.coll ctx).heard.find? fun x => x.1 == pkg) = some (pkg, s.gclk.toNat) ∧ (t.coll ctx).live = true) ∧
  (∀ (s : State) (tt : Nat) (lost : List Nat), (s.tt tt).life ≠ 0 → (s.tt tt).pending = none →
    ∃ t g, exec (.membershipAgree tt lost) s = .next t ∧ t.tt tt = { s.tt tt with pending := some g } ∧
      g.mgen = (s.groupOf tt).mgen + 1 ∧ ∀ m, m ∈ g.members ↔
        ∃ k : Nat, (s.groupOf tt).members[k]? = some m ∧ m ∉ lost ∧ (s.tt tt).silent.testBit k = false) ∧
  ∀ (s : State) (tt : Nat) (g : Group), (s.tt tt).pending = some g → (s.coll tt).live = false →
    exec (.recordInstall tt) s = .next (s.setTt tt { s.tt tt with
      group := some g, pending := none, aborted := false, silent := 0, collNo := 0 })

/-! ### Residency -/

/-- The eight bytes of an extent table that hold the base of an extent lie outside the `n` bytes at a, where the entry has a table (R100). -/
def TableOutside (s : State) (tenant : Nat) (e : BitVec 256) (ext a n : Nat) : Prop :=
  entNx e ≤ 4 ∨ (entNx e = 7 ∧ let p := s.spaceOf tenant (entX e 0 * 4096 + 8 * ext)
    p + 8 ≤ a ∨ a + n ≤ p)

/-- An address is neither in the `n` bytes at a nor, where the entry has a table, in the eight bytes that hold the base of an extent. -/
def Elsewhere (s : State) (tenant : Nat) (e : BitVec 256) (ext a n x : Nat) : Prop :=
  (x < a ∨ a + n ≤ x) ∧ (entNx e = 7 → let p := s.spaceOf tenant (entX e 0 * 4096 + 8 * ext)
    x < p ∨ p + 8 ≤ x)

/-- PRI_RESPONSE, EXTENT_RESIDENT, EXTENT_MIGRATE, EVICTION and ATS_INVALIDATION (R103, R106, R111, R112, R228): an answer to no request
changes nothing, a success gives the function the page, any other ends the jobs that wait for it with HOSTPAGE and an LDC with a free
value (log entry 166); an extent made resident has a base, its bytes those kept at its eviction and else 0; a migration sets MIG and then
moves the extent with its bytes; an eviction makes the extent
non-resident and keeps its bytes, with no other byte changed; an invalidated translation is dropped and its completion sent. -/
def Obligations.Residency : Prop :=
  (∀ (s : State) (fn page : Nat) (ok : Bool), ((s.func fn).pri.contains page = false → exec (.priResponse fn page ok) s = .next s) ∧
    ((s.func fn).pri.contains page = true → ∃ t, exec (.priResponse fn page ok) s = .next t ∧ t.mem = s.mem ∧
      page ∉ (t.func fn).pri ∧ (ok = true → page ∈ (t.func fn).ats ∧ t.strands = s.strands ∧ t.jobs = s.jobs) ∧
      (ok = false → (∀ id ∈ SMap.keys s.jobs, s.launchFn (ttOf (s.job id).sid) = fn → page ∈ (s.job id).wait →
          (t.job id).status = 0x06 ∧ (t.job id).pieces = [] ∧ (t.job id).hens = 0) ∧
        ∀ sid ∈ SMap.keys s.strands, ∀ r c o g, (s.strand sid).wait = .ldc r c o g → s.launchFn (ttOf sid) = fn →
          page ∈ s.pagesOf sid ((List.range 8).map fun i => (c, o + i)) →
          ∃ n, t.strand sid = (s.strand sid).answer [.d r (Config.freeD n) true]))) ∧
  (∀ (s : State) (tenant obj ext : Nat), (tenant, obj, ext) ∈ s.wanted → entKind (s.obj tenant obj).entry = 0 →
    exec (.extentResident tenant obj ext) s = .next { s with wanted := s.wanted.erase (tenant, obj, ext) }) ∧
  (∀ (s : State) (tenant obj ext : Nat), let o := s.obj tenant obj
    let size := 2 ^ (12 + entXsz o.entry)
    let kept := SMap.get [] o.backing ext
    extentBase s tenant o.entry ext = some absentBase → entKind o.entry ≠ 0 →
    s.hasRoom (entDie o.entry) (entHome o.entry) size = true → (∀ x ∈ kept, x.1 < size) →
    ∃ t a, exec (.extentResident tenant obj ext) s = .next t ∧ t.strands = s.strands ∧ t.wanted = s.wanted.erase (tenant, obj, ext) ∧
      a % size = 0 ∧ homeOf a = entHome o.entry ∧
      (TableOutside s tenant o.entry ext a size → extentBase t tenant (t.obj tenant obj).entry ext = some (a / 4096)) ∧
      (∀ x ∈ kept, (∀ y ∈ kept, y.1 = x.1 → y.2 = x.2) → t.mem.read (a + x.1) = x.2) ∧
      (∀ i < size, (∀ x ∈ kept, x.1 ≠ i) → t.mem.read (a + i) = 0) ∧
      ∀ x, Elsewhere s tenant o.entry ext a size x → t.mem.read x = s.mem.read x) ∧
  (∀ (s : State) (tenant obj ext base b : Nat), let o := s.obj tenant obj
    let size := 2 ^ (12 + entXsz o.entry)
    extentBase s tenant o.entry ext = some b → b ≠ absentBase → entTp o.entry ≠ 1 → entKind o.entry ≠ 0 → addrOk (base * 4096) = true →
    base * 4096 % size = 0 → homeOf (base * 4096) = entHome o.entry →
    (∀ x ∈ s.extentsAt (addrDie (base * 4096)) (homeOf (base * 4096)), ¬ (base * 4096 < x.1 + x.2 ∧ x.1 < base * 4096 + size)) →
    (ext ∉ o.mig → exec (.extentMigrate tenant obj ext base) s = .next (s.setObj tenant obj { o with
      mig := o.mig ++ [ext], entry := entSet o.entry 242 1 1 })) ∧
    (ext ∈ o.mig → (∀ i < size, ∀ k < size, b * 4096 + i ≠ base * 4096 + k) →
      TableOutside s tenant o.entry ext (base * 4096) size → TableOutside s tenant o.entry ext (b * 4096) size → s.memOk = true →
      ∃ t, exec (.extentMigrate tenant obj ext base) s = .next t ∧ ext ∉ (t.obj tenant obj).mig ∧
        extentBase t tenant (t.obj tenant obj).entry ext = some base ∧
        (∀ i < size, t.mem.read (base * 4096 + i) = s.mem.read (b * 4096 + i)) ∧
        ∀ x, Elsewhere s tenant o.entry ext (base * 4096) size x → (x < b * 4096 ∨ b * 4096 + size ≤ x) →
          t.mem.read x = s.mem.read x)) ∧
  (∀ (s : State) (tenant obj ext b : Nat), let o := s.obj tenant obj
    let size := 2 ^ (12 + entXsz o.entry)
    extentBase s tenant o.entry ext = some b → b ≠ absentBase → entTp o.entry ≠ 1 → entKind o.entry ≠ 0 →
    entHome o.entry = 1 ∨ entHome o.entry = 3 → ext * size < entLen o.entry →
    s.heldAt (fun a => decide (b * 4096 ≤ a) && decide (a < b * 4096 + size)) = false →
    ∃ t, exec (.eviction tenant obj ext) s = .next t ∧
      (entNx o.entry ≤ 4 ∨ entNx o.entry = 7 → extentBase t tenant (t.obj tenant obj).entry ext = some absentBase) ∧
      (∀ x ∈ s.mem, b * 4096 ≤ x.1 → x.1 < b * 4096 + size → (x.1 - b * 4096, x.2) ∈ SMap.get [] (t.obj tenant obj).backing ext) ∧
      ∀ x, Elsewhere s tenant o.entry ext (b * 4096) size x → t.mem.read x = s.mem.read x) ∧
  ∀ (s : State) (fn page : Nat), ∃ t, exec (.atsInvalidation fn page) s = .next t ∧ page ∉ (t.func fn).ats ∧
    t.outbox = s.outbox ++ [.atsDone fn page] ∧ t.mem = s.mem

/-! ### Links, alignment, windows -/

/-- The events of the fabric (R206..R208, R210..R215): on its owner's gcy a flit at a router goes to every output its entry connects, or is
dropped and counted; a bridge flit goes on to the router behind the bridge on its owner's gcy, one with one wrong bit does so too, corrected
and counted, and one of a circuit with two is dropped, its bytes lost;
a frame on an untrained link is nothing, and one whose control flit fails is dropped whole and counted; a good one gives the sender's OREF,
timestamp and stop bits, the flit sent at GCLK mod 2^20 = 0 is noted with its arrival (R214), and an untimed message for another package
goes on (its way: log entry 153); a link is lost, or trained and timed. -/
def Obligations.FabricEvents : Prop :=
  (∀ (s : State) (router port lane : Nat) (x : Seated),
    ((SMap.get [] s.flits router).find? fun y =>
      y.port == port && y.lane == lane && decide (y.at_ < s.gclk.toNat) && s.holds 0x08 router y.flit) = some x →
    let s1 : State := { s with flits := SMap.set [] s.flits router ((SMap.get [] s.flits router).erase x) }
    let e := s.entryNow s.routers router
    let outs := (List.range 8).filter fun o => selOf e o == port
    (∀ o < 8, ¬ (8 ≤ selOf e o ∧ selOf e o < 15)) →
    (outs = [] → exec (.routerFlit router port lane) s = .next (s1.routerError router)) ∧
    (outs ≠ [] → (∀ o ∈ outs, s.outRoom router o x.flit = true) →
      exec (.routerFlit router port lane) s = .next (outs.foldl (fun s o => s.flitOut router o x.flit) s1))) ∧
  (∀ (s : State) (src dst lane errs : Nat) (f : Flit) (x : Seated), 2 ≤ errs → f.owner ≠ 0 →
    let l := SMap.get [] s.flits (bridgeStage src dst)
    (l.find? fun y => y.lane == lane && y.flit == f) = some x → exec (.bridgeFlit src dst lane f errs) s =
      .next (State.loseFlit { s with flits := SMap.set [] s.flits (bridgeStage src dst) (l.erase x) } f)) ∧
  (∀ (s : State) (src dst lane : Nat) (f : Flit) (x : Seated), let l := SMap.get [] s.flits (bridgeStage src dst)
    (l.find? fun y => y.lane == lane && y.flit == f) = some x →
    let s1 : State := { s with flits := SMap.set [] s.flits (bridgeStage src dst) (l.erase x) }
    let k := 10 * 2 ^ 16 + (src * 8 + dst)
    let counted := fun (t : State) => { t with secded := SMap.set 0 t.secded k (SMap.get 0 t.secded k + 1) }
    let on := s.holds 0x09 (bridgeNo src dst) f = true ∧ connects (s.entryNow s.bridges (bridgeNo src dst)) = true
    let t := s1.seat (bridgeSeat dst src).1 (bridgeSeat dst src).2 1 f
    (on → exec (.bridgeFlit src dst lane f 0) s = .next t ∧ exec (.bridgeFlit src dst lane f 1) s = .next (counted t)) ∧
    (¬ on → exec (.bridgeFlit src dst lane f 0) s = .next s1 ∧ exec (.bridgeFlit src dst lane f 1) s = .next (counted s1))) ∧
  (∀ (s : State) (n : Nat) (fr : Frame), ((s.link n).trained = false → exec (.linkFrame n fr) s = .next s) ∧
    ((s.link n).trained = true → fr.crcOk = false →
      exec (.linkFrame n fr) s = .next ((s.setLink n { s.link n with got := [] }).linkDrops n (fr.lanes.length + fr.posts.length + 1))) ∧
    ((s.link n).trained = true → fr.crcOk = true → fr.barrier = none →
      fr.bad = [] → (∀ x ∈ fr.lanes, x.1 < 12) → (s.link n).drops ≤ 2 ^ 10 →
      let taken := fun (t : State) => t.strands = s.strands ∧ t.mem = s.mem ∧ (t.link n).oref = fr.oref ∧
        (t.link n).sentAt = fr.sentAt ∧ (t.link n).stops = fr.stop ∧
        (t.link n).exch = if fr.sentAt % 2 ^ 20 = 0 then (fr.sentAt, s.gclk.toNat) else (s.link n).exch
      (fr.posts = [] → ∃ t, exec (.linkFrame n fr) s = .next t ∧ taken t ∧ t.post = s.post) ∧
      (∀ f, fr.posts = [f] → f.no = 0 → f.last = true → f.dest ≠ s.pkg → ∃ t x, exec (.linkFrame n fr) s = .next t ∧ taken t ∧
        t.post = s.post ++ [x] ∧ x.dest = f.dest ∧ x.tenant = f.tenant ∧ x.msg = f.msg))) ∧
  (∀ (s : State) (key : LinkKey), ∃ t, exec (.linkLoss key) s = .next t ∧ t.trained = s.trained.erase key ∧
    (key.touches s.pkg = true → (t.link (key.linkAt s.pkg)).trained = false)) ∧
  ∀ (s : State) (key : LinkKey) (transit : Nat), (key.b ≤ key.a → exec (.linkTraining key transit) s = .next s) ∧
    (key.a < key.b → key.touches s.pkg = true → ∃ t, exec (.linkTraining key transit) s = .next t ∧ key ∈ t.trained ∧
      (t.link (key.linkAt s.pkg)).trained = true ∧ (t.link (key.linkAt s.pkg)).transit = transit)

/-- Alignment and the fixed windows (R48, R50, R78, R214, R215, R216): OREF is the parent's plus the four time stamps' difference, of what both ends
sent at GCLK mod 2^20 = 0; a hold takes one gcy off OREF, and within 1 gcy of the reference the package is aligned; ALIGNLOSS leaves the
package unaligned, its links out of the table, and ⌊OREF⌋ gcy to hold; another package's that it has been told of (log entry 176) takes its links out, and a timetable in an M-step
with a route through it loses the step; the counter is loaded once from its parent; at a token window's start every lease of an
earlier window ends, and at a refresh window's end the reads frozen for it go on. -/
def Obligations.AlignmentAndWindows : Prop :=
  (∀ (s : State) (n : Nat) (t1 t2 t3 t4 : Int), s.parentLink = some n → t1 % 2 ^ 20 = 0 → t3 % 2 ^ 20 = 0 →
    t1 = ((s.link n).exchOut : Int) → t3 = ((s.link n).exch.1 : Int) → t4 = ((s.link n).exch.2 : Int) → ∃ t, exec (.alignExchange t1 t2 t3 t4) s = .next t ∧
    t.oref = (s.link n).oref + ((t1 - t2) + (t4 - t3)) ∧ t.mem = s.mem ∧ t.strands = s.strands) ∧
  (∀ s : State, s.holdDue = true → exec .counterHold s = .next { s with
    holdLeft := s.holdLeft - 1, oref := s.oref - 2, aligned := s.aligned || decide ((s.oref - 2).natAbs < 2) }) ∧
  (∀ s : State, s.lostAlign = true → s.aligned = true → ∃ t, exec .alignloss s = .next t ∧ t.aligned = false ∧
    t.alignOut = true ∧ t.offCount = 0 ∧ t.holdLeft = (if 2 ≤ s.oref then (s.oref / 2).toNat else 0) ∧
    ∀ k ∈ s.trained, k.touches s.pkg = true → k ∉ t.table) ∧
  (∀ (s : State) (pkg : Nat) (rest : List Nat), s.lostAlign = false → s.losses = pkg :: rest → ∃ t, exec .alignloss s = .next t ∧
    t.aligned = s.aligned ∧ t.losses = rest ∧
    (∀ k ∈ s.trained, k.touches pkg = true → k ∉ t.table) ∧
    ∀ tt, (s.tt tt).life = 1 → (s.tt tt).mstep.isSome = true →
      (∃ r ∈ s.localRoutes (s.tt tt), r.kind = 0x0A ∧ ∃ k ∈ s.trained, k.touches pkg = true ∧ k.touches s.pkg = true ∧
        k.linkAt s.pkg = routeInst (s.tt tt) r) → (t.tt tt).lost = true) ∧
  (∀ (s : State) (n : Nat), s.parentLink = some n → s.loaded = false → (∀ x ∈ s.tts, x.2.placed = false) →
    exec .gclkLoad s = .next { s with
      gclk := BitVec.ofNat 64 ((s.link n).sentAt + (s.link n).transit), loaded := true,
      loadedAt := (s.link n).sentAt + (s.link n).transit }) ∧
  (∀ s : State, s.gclk.toNat % 1024 = 0 → ∃ t, exec .tokenWindow s = .next t ∧ t.strands = s.strands ∧ t.mem = s.mem ∧
    ∀ x ∈ t.tts, ∀ y ∈ x.2.leases, y.2.holder ≠ none → s.gclk.toNat / 1024 ≤ y.2.window) ∧
  ∀ s : State, s.gclk.toNat % 4096 = 512 → ∃ t, exec .refreshWindow s = .next t ∧ t.mem = s.mem ∧
    ∀ sid u, (s.strand sid).wait = .refresh u → (s.strand sid).met = false → u ≤ s.gclk.toNat → sid ∈ SMap.keys s.strands →
      t.strand sid = { s.strand sid with wait := .none }

/-! ### The weaver and pre-emption -/

/-- Collision of pairs (R27): the pairs (S1, φ1) and (S2, φ2) of two strides, each a power of two, collide exactly when φ1 mod m = φ2 mod m for
the smaller stride m, and exactly then their phase sets share a gcy. -/
def Obligations.PhaseSetsShareAGcy : Prop :=
  ∀ (i j p q : Nat), p < 2 ^ i → q < 2 ^ j →
    (collides (2 ^ i, p) (2 ^ j, q) = true ↔ p % Nat.min (2 ^ i) (2 ^ j) = q % Nat.min (2 ^ i) (2 ^ j)) ∧
    ((∃ g, g % 2 ^ i = p ∧ g % 2 ^ j = q) ↔ collides (2 ^ i, p) (2 ^ j, q) = true)

/-- How a request settled (placed, with its timetable's record at `key`) finds its pair (R36, R43, R44): the first free candidate is granted; else NOWAIT
refuses; else compaction, at once where nothing moves; else a victim, and with none a refusal. -/
def FindsPair (s : State) (r : AdmReq) (key : Nat) (t : State) : Prop :=
  match (s.candidates (s.tt key)).find? fun p => s.free (s.tt key).touched p [] with
  | some p => t = s.grant r key p
  | none =>
    (s.noWaitReq r = true → t = s.refusePhase r key) ∧
    (s.noWaitReq r = false →
      (∀ p l, s.compaction key (s.tt key).touched [] = some (p, l) →
        let moves := l.filter fun x => x.2 != ((s.tt x.1).stride, (s.tt x.1).phase)
        (moves = [] → t = s.grant r key p) ∧
        (moves ≠ [] → t.compact = some ⟨r.id, p, moves, s.gclk.toNat⟩ ∧ t.pairs = s.pairs ∧ t.tts = s.tts)) ∧
      (s.compaction key (s.tt key).touched [] = none →
        (∀ v, s.victim r key = some v → t = { s.giveBack r key with preempt := some ⟨v, r.id, s.gclk.toNat, (s.tt key).touched⟩ }) ∧
        (s.victim r key = none → t = s.refusePhase r key)))

/-- What admission makes of a request whose timetable's record is at `key` (R36, R54, R277): refused with ROUTE, STEP, NO_SLOTS and STRIDE in this order, or
placed and settled, and given a pair. -/
def Admits (s : State) (r : AdmReq) (key : Nat) (routed : Bool) (t : State) : Prop :=
  let x := s.tt key
  (routed = false → t = s.refuse r key rRoute 0 (0, 0)) ∧
  (routed = true → x.stepOk = false → t = s.refuse r key rStep 0 (0, 0)) ∧
  (routed = true → x.stepOk = true → s.foreignOk key = false → t = s.refuse r key rNoSlots 0 (0, 0)) ∧
  (routed = true → x.stepOk = true → s.foreignOk key = true → s.strideOk x = false → t = s.refuse r key rStride 0 (0, 0)) ∧
  (routed = true → x.stepOk = true → s.foreignOk key = true → s.strideOk x = true →
    match s.prepare r key (timedObjs x.img x.caps0) (s.askPlace r x) with
    | .error u => t = u
    | .ok u => FindsPair u r key t)

/-- Admission (R36, R39..R45, R53, R54, R87). ADMIT takes the first request of the highest class (`Admits`; one without a weave plan that still holds, which R52 grants
at once); a launch's node gets its record first, with its argument block as it then is, or fails with BADARG; one whose launch has failed is dropped. A refusal
writes its record; a grant starts the timetable at the next multiple of 256 gcy with its pair in the weave of everything it touches. A compaction whose timetables are all held moves
their pairs and grants the request in one update; one past COMPACT_WAIT is given up, and its request goes on to pre-emption. A request that has waited AGE_BOUND goes up a
class. (A compaction whose pairs no longer fit runs Admit again: log entry 140.) -/
def Obligations.Admission : Prop :=
  (∀ (s : State) (r : AdmReq), s.compact = none → s.preempt = none → nextRequest s.requests = some r → s.muleDown = false →
    (s.overtaken r = true → exec .admitNext s = .next (s.dropRequest r).promote) ∧
    (s.overtaken r = false → r.kind = 0 → ∀ n, s.reqNode r = some n → let f := s.freshNode r n
      (f.2.2.readArgs r.launch = none → exec .admitNext s =
        .next (State.nodeFailed { f.2.2 with requests := f.2.2.requests.filter fun q => q.id != r.id } r.launch r.node cBadArg 0).promote) ∧
      (∀ caps regs, f.2.2.readArgs r.launch = some (caps, regs) → (r.missed = true ∨ f.1.plan = none) →
        ∃ t, exec .admitNext s = .next t.promote ∧
          Admits { f.2.2.setTt f.2.2.nextTt { f.2.2.freshTt r f.1 with caps0 := caps, regs0 := regs } with nextTt := f.2.2.nextTt + 1 } r
            f.2.2.nextTt f.2.1 t)) ∧
    (s.overtaken r = false → r.kind ≠ 0 → ∀ n, s.reqNode r = some n → ∃ t, exec .admitNext s = .next t.promote ∧ Admits s r r.tt true t)) ∧
  (∀ (s : State) (r : AdmReq) (key code rkind : Nat) (sug : Nat × Nat), let l := s.launch (s.tt key).launch
    let t := s.refuse r key code rkind sug
    (∃ rest, t.outbox = s.outbox ++ Sent.refusal 0 (refusal s.gclk.toNat l.req.seq l.req.graph sug.2 sug.1 rkind code) :: rest) ∧
    (r.kind = 1 → (t.tt key).life = 3 ∧ (∀ p ∈ (t.tt key).place, p.v = false) ∧ t.requests = s.requests.filter fun q => q.id != r.id)) ∧
  (∀ (s : State) (r : AdmReq) (key : Nat) (p : Nat × Nat), r.kind ≠ 1 → let t := s.grant r key p
    (t.tt key).life = 1 ∧ (t.tt key).t0 = (s.gclk.toNat / 256 + 1) * 256 ∧ (t.tt key).stride = p.1 ∧ (t.tt key).phase = p.2 ∧
      (∀ q ∈ t.requests, q.id ≠ r.id) ∧
      t.pairs = (s.pairs.filter fun q => q.owner != key + 1) ++ (s.tt key).touched.map fun x => ⟨x.1, x.2, key + 1, p.1, p.2⟩) ∧
  (∀ (s : State) (c : Compaction) (r : AdmReq), s.compact = some c → (s.requests.find? fun r => r.id == c.req) = some r →
    (s.overtaken r = true → exec .compactionUpdate s = .next ((s.dropCompaction c).dropRequest r).promote) ∧
    (s.overtaken r = false → (∀ m ∈ c.moves, (s.tt m.1).held = true) →
      let u := c.moves.foldl (fun s m => s.unhold m.1) (c.moves.foldl (fun s m => s.enterPairs m.1 m.2) s)
      (s.updateFits c r.tt = true → exec .compactionUpdate s = .next (State.grant { u with compact := none } r r.tt c.pair).promote) ∧
      (s.updateFits c r.tt = false → exec .compactionUpdate s = .next (((s.dropCompaction c).giveBack r r.tt).admitReq r).promote))) ∧
  (∀ (s : State) (key : Nat) (p : Nat × Nat),
    (s.enterPairs key p).pairs = (s.pairs.filter fun q => q.owner != key + 1) ++ (s.tt key).touched.map (fun x => ⟨x.1, x.2, key + 1, p.1, p.2⟩) ∧
    (s.unhold key).tt key = (if (s.tt key).held then { s.tt key with held := false, start := ((s.unhold key).tt key).start } else s.tt key)) ∧
  (∀ (s : State) (c : Compaction), s.compact = some c → c.since + s.compactWait ≤ s.gclk.toNat → let u := s.dropCompaction c
    u.compact = none ∧ (∀ m ∈ c.moves, (u.tt m.1).held = false) ∧ u.pairs = s.pairs ∧
    ((s.requests.find? fun r => r.id == c.req) = none → exec .compactTimeout s = .next u) ∧
    ∀ r, (s.requests.find? fun r => r.id == c.req) = some r →
      (u.overtaken r = true → exec .compactTimeout s = .next (u.dropRequest r).promote) ∧
      (u.overtaken r = false →
        (∀ v, u.victim r r.tt = some v → exec .compactTimeout s = .next (State.promote
          { u.giveBack r r.tt with preempt := some ⟨v, r.id, s.gclk.toNat, (u.tt r.tt).touched⟩ })) ∧
        (u.victim r r.tt = none → exec .compactTimeout s = .next (u.refusePhase r r.tt).promote))) ∧
  (∀ (s : State) (r : AdmReq), (s.requests.find? fun q => q.id == r.id) = some r → r.cls < 3 → r.raised + s.ageBound ≤ s.gclk.toNat →
    ∃ t, exec (.ageRaise r.id) s = .next t ∧ t.requests = s.requests.map (fun q =>
      if q.id = r.id then { q with cls := q.cls + 1, raised := q.raised + s.ageBound } else q) ∧ t.tts = s.tts ∧ t.mem = s.mem)

/-- Pre-emption (R43, R267..R279, R437): a cluster of the victim takes its mode once; with everything saved, and room in DRAM, the save area is written with
COMMIT 1 and nothing else in memory changes; a committed victim
leaves and is suspended with V clear in every entry, and Admit reruns for the request, with no pre-emption under way. Discard mode is chosen only where it may be, and stops
every strand of the cluster at once, its wait abandoned. Past PREEMPT_LIMIT the pre-emption is over: an error record of KIND 7 is written, the stopped strands go
on in place, what was saved is dropped, and the request is refused with NO_PHASE, PHASE_TAKEN where it is pinned. A place table is taken only by a suspended timetable. -/
def Obligations.Preemptions : Prop :=
  (∀ (s : State) (p : Preemption) (clu : Nat), s.preempt = some p → (∀ m ∈ (s.tt p.victim).modes, m.1 ≠ clu) →
    s.onCluster p.victim clu ≠ [] → let mode := s.chooseMode p.victim clu (p.since + s.preemptDl)
    ∃ t, exec (.preemptRequest p.victim clu) s = .next t ∧
      (t.tt p.victim).modes = (s.tt p.victim).modes ++ [(clu, mode)] ∧ (mode = 2 → s.mayDiscard p.victim = true) ∧ t.mem = s.mem ∧
      (mode = 2 → ∀ sid ∈ s.onCluster p.victim clu, t.strand sid = { s.strand sid with
        skip := true, wait := .none, more := [], owed := [], slots := [], met := false, arrived := none, leaves := none }) ∧
      (mode = 2 → ∀ sid, sid ∉ s.onCluster p.victim clu → t.strand sid = s.strand sid)) ∧
  (∀ (s : State) (tt : Nat), s.preempting tt = true → (s.tt tt).cause = 0 → (s.tt tt).life = 1 → (s.tt tt).saved = none →
    s.allSaved tt = true → s.collIdle tt = true → s.quiet tt = true →
    s.hasRoom (s.saveDie tt) 3 (s.saveSize tt (s.stops tt)) = true →
      ∃ t v a s1, s.newExtent (s.saveDie tt) 3 (s.saveSize tt (s.stops tt)) = some (a, s1) ∧ exec (.saveCommit tt) s = .next t ∧ t.tt tt = { s.tt tt with saved := some v } ∧ v.at_ = s.gclk.toNat ∧
        t.strands = s.strands ∧ (∀ k, k ≠ tt → t.tt k = s.tt k) ∧ (∀ i < 8, t.mem.read (a + 128 + i) = if i = 0 then 1 else 0) ∧
        ∀ x, (x < a ∨ a + s.saveSize tt (s.stops tt) ≤ x) → x ∉ (s.saveCells tt (s.stops tt) a).map (·.1) →
          t.mem.read x = s.mem.read x) ∧
  (∀ (s : State) (tt : Nat) (p : Preemption), s.preempt = some p → s.preempting tt = true → (s.tt tt).life = 1 → s.committed tt = true →
    ∃ u : State, exec (.victimVacated tt) s = .next (u.rerunAdmit p.req) ∧ (u.tt tt).life = 3 ∧ (∀ x ∈ (u.tt tt).place, x.v = false) ∧
      ((s.requests.find? fun r => r.id == p.req) = none → u.rerunAdmit p.req = { u with preempt := none })) ∧
  (∀ (s : State) (p : Preemption), s.preempt = some p → p.since + s.preemptLimit ≤ s.gclk.toNat →
    let v := { s with preempt := none }
    let u := (((v.logError (v.errorRecord p.victim 7 0)).wakeStrands p.victim 0).dropSave p.victim)
    (∀ sid ∈ s.sids p.victim, let st := s.strand sid
      st.life = 4 → (u.strand sid).life = 1 ∧ (u.strand sid).skip = false ∧ (st.wait ≠ .barrier → (u.strand sid).vclk = st.vclk - 1)) ∧
    u.preempt = none ∧ (u.tt p.victim).saved = none ∧ (∃ rec_, u.errlog = s.errlog ++ [rec_] ∧ rec_.length = 64 ∧ rec_[8]? = some 7) ∧
    ((s.requests.find? fun r => r.id == p.req) = none → exec (.preemptCancel p.victim) s = .next u) ∧
    ∀ r n, (s.requests.find? fun r => r.id == p.req) = some r → u.reqNode r = some n →
      let key := if r.kind = 0 then u.nextTt else r.tt
      let w := (if r.kind = 0 then u.setTt key (u.freshTt r n) else u).modTt key fun t => { t with touched := p.touched }
      exec (.preemptCancel p.victim) s = .next (w.refusePhase r key).promote ∧
        w.refusePhase r key = w.refuse r key (if (w.tt key).pin.isSome then rPhaseTaken else rNoPhase)
          (w.refusingKind (w.tt key) (w.tt key).touched) (w.suggestion (w.tt key) (w.tt key).touched)) ∧
  ∀ (s : State) (tt : Nat) (l : List Place), ((s.tt tt).life ≠ 3 → exec (.placeTableWrite tt l) s = .next s) ∧
    ((s.tt tt).life = 3 → (∀ r ∈ s.requests, ¬ (r.kind = 1 ∧ r.tt = tt)) → (∃ p ∈ l, p.v = false) →
      exec (.placeTableWrite tt l) s = .next (s.setTt tt { s.tt tt with place := l }))

/-- Collectives from issue to completion, and the ways they end early. -/
def Obligations.CollectivesAndTheirFailures : Prop :=
  Rule.Collectives ∧ Rule.CollectiveFailures

/-! ### The host's registers and commands -/

/-- KICK, QCTL, CQHEAD and LAUNCH (R229, R233, R234, R236, R237): a kick moves a queue's latch forward, and one that laps the ring puts the
queue in OVERRUN; ENABLE of a disabled queue runs it with its indexes at 0, or notes BADCFG; PAUSE and RESUME change between RUNNING and
PAUSED; RESET disables the queue once what was fetched has completed, and clears the launch counters with queue 0; a LAUNCH word enters the FIFO, and one with a
reserved bit, or when 64 are held, is only counted. (That a LAUNCH write is taken in every state of its queue, and that address bits above bit 54
set are BADCFG, is the model's reading: log entries 82 and 49.) -/
def Obligations.HostRegisters : Prop :=
  ∀ (s : State) (fn q : Nat) (v : BitVec 64), let x := s.queue fn q
    let f := s.func fn
    let w := v.setWidth 32
    (x.st = 1 ∨ x.st = 2 →
      (x.slots < (w - x.ridx).toNat → exec (.kick fn q v) s = .next (s.setQueue fn q { x with st := 4 })) ∧
      ((w - x.ridx).toNat ≤ x.slots → (w - x.latch).toNat < 2 ^ 31 →
        exec (.kick fn q v) s = .next (s.setQueue fn q { x with latch := w }))) ∧
    (x.st ≠ 1 → x.st ≠ 2 → exec (.kick fn q v) s = .next s) ∧
    (bits v 47 34 ≠ 0 → exec (.launchWrite fn q v) s = .next (s.setFunc fn { f with bad := f.bad + 1 })) ∧
    (bits v 47 34 = 0 → 64 ≤ f.fifo.length → exec (.launchWrite fn q v) s = .next (s.setFunc fn { f with drop := f.drop + 1 })) ∧
    (bits v 47 34 = 0 → f.fifo.length < 64 → exec (.launchWrite fn q v) s = .next (s.setFunc fn { f with fifo := f.fifo ++ [(q, v)] })) ∧
    (x.st = 0 → ringOk x.qcfg = true → ringOk x.cqcfg = true → exec (.enable fn q) s = .next (s.setQueue fn q { x with
      st := 1, ecode := 0, ridx := 0, latch := 0, cidx := 0, cqhead := 0 })) ∧
    (x.st = 0 → ringOk x.qcfg = false ∨ ringOk x.cqcfg = false →
      exec (.enable fn q) s = .next (s.setQueue fn q { x with ecode := eBadCfg })) ∧
    (x.st ≠ 0 → exec (.enable fn q) s = .next s) ∧
    exec (.pause fn q) s = .next (if x.st = 1 then s.setQueue fn q { x with st := 2 } else s) ∧
    exec (.resume fn q) s = .next (if x.st = 2 then s.setQueue fn q { x with st := 1 } else s) ∧
    (∃ t, exec (.reset fn q) s = .next t ∧
      (x.fetched ≠ none → (t.queue fn q).fetched = x.fetched ∧ (t.queue fn q).resetting = true) ∧
      (x.fetched = none → x.running = 0 → x.comps = [] → (t.queue fn q).st = 0) ∧
      (q = 0 → (t.func fn).drop = 0 ∧ (t.func fn).bad = 0)) ∧
    (∃ t, exec (.cqheadWrite fn q v) s = .next t ∧ (t.queue fn q).cqhead = w) ∧
    exec (.registerWrite fn fn (.at_ 0x008) v) s = .next (s.setFunc fn { f with argcfg := v }) ∧
    (∀ k, k ≠ fn → k ≠ 0 → exec (.registerWrite k fn (.at_ 0x008) v) s = .next s)

/-- REG_GRAPH, DEREG_GRAPH, LAUNCH and FEED (R240, R241): a descriptor misaligned, of no node or of more than 64 is BADARG; one that passes
has the lowest free handle (log entry 112); a graph with a live launch is BUSY, an unknown one BADARG, and another's handle is freed; a launch whose graph and
argument block are good is live with every node waiting and starts those that can, and is BADARG otherwise, HOSTERR with a refused page; FEED appends its
records to the work queue of the node's timetable, or answers NOTRES or NOSPACE. (The count of host bytes of a refused launch: log entry
170.) -/
def Obligations.GraphCommands : Prop :=
  (∀ (s : State) (p : Pkt) (desc : BitVec 64) (count : Nat),
    (hostAddr desc % 64 ≠ 0 ∨ count = 0 ∨ 64 < count → exec (.regGraph p desc count) s = .next (s.ends p 0x01 0x05)) ∧
    (hostAddr desc % 64 = 0 → 0 < count → count ≤ 64 → s.pagesRefused p.fn (pagesFrom (hostAddr desc) (64 * count)) = false →
      ∀ g s' h, (s.meterHost p.fn (64 * count) false).readNodes p.fn (hostAddr desc) count = (.ok g, s') → cycleAt g = none → succBad g = none →
      (s'.func p.fn).freeGraph = some h →
      exec (.regGraph p desc count) s = .next (((s'.setFunc p.fn { s'.func p.fn with
        graphs := SMap.set [] (s'.func p.fn).graphs h g }).planNodes p.fn h).complete p 0x01 0x00 0 false (BitVec.ofNat 128 h)))) ∧
  (∀ (s : State) (p : Pkt) (graph : Nat), let f := s.func p.fn
    (s.graph p.fn graph = [] → exec (.deregGraph p graph) s = .next (s.ends p 0x0B 0x05)) ∧
    (s.graph p.fn graph ≠ [] → (∃ l ∈ s.launches, l.2.live = true ∧ l.2.fn = p.fn ∧ l.2.req.graph = graph) →
      exec (.deregGraph p graph) s = .next (s.ends p 0x0B 0x06)) ∧
    (s.graph p.fn graph ≠ [] → (∀ l ∈ s.launches, ¬ (l.2.live = true ∧ l.2.fn = p.fn ∧ l.2.req.graph = graph)) →
      exec (.deregGraph p graph) s = .next ((s.setFunc p.fn { f with graphs := SMap.set [] f.graphs graph [] }).ends p 0x0B 0x00))) ∧
  (∀ (s : State) (p : Pkt) (r : LaunchReq), let pages := s.argPages p.fn r.argidx
    let lid := s.nextLaunch
    let bad := fun (n : Nat) => exec (.launch p r) s = .next ((s.meterHost p.fn (p.slotBytes + n) false).complete p 0x02 0x05 r.seq true 0)
    (s.pagesRefused p.fn pages = true →
      exec (.launch p r) s = .next (((s.dropPages p.fn pages).meterHost p.fn p.slotBytes false).complete p 0x02 0x08 r.seq true 0)) ∧
    (s.pagesRefused p.fn pages = false →
      (s.argBlock p.fn r.argidx = none → bad 0) ∧
      ∀ b, s.argBlock p.fn r.argidx = some b →
        (s.graph p.fn r.graph = [] ∨ s.blockCaps p.fn b = none → bad 1024) ∧
        (s.graph p.fn r.graph ≠ [] → s.blockCaps p.fn b ≠ none → exec (.launch p r) s = .next (State.advance
          { s.setLaunch lid ⟨true, p.fn, p, r, (s.graph p.fn r.graph).map fun _ => 0, true, 0, 0, p.slotBytes⟩ with nextLaunch := lid + 1 }
          lid)))) ∧
  ∀ (s : State) (p : Pkt) (graph seq node wq : Nat) (recs : List Slot),
    (s.residentNode p.fn graph seq node = none → exec (.feed p graph seq node wq recs) s = .next (s.ends p 0x03 0x0C)) ∧
    ∀ k, s.residentNode p.fn graph seq node = some k → let t := s.tt k
      (256 < t.wqLen wq + recs.length → exec (.feed p graph seq node wq recs) s = .next (s.ends p 0x03 0x07)) ∧
      (t.wqLen wq + recs.length ≤ 256 → exec (.feed p graph seq node wq recs) s = .next ((s.setTt k { t with
        wq := SMap.set [] t.wq wq (SMap.get [] t.wq wq ++ recs.map fun r => (s.gclk.toNat, r)) }).ends p 0x03 0x00))

/-- MAP_OBJ, COPY and WS_LOAD (R98..R106, R117, R240): of a tenant the function may name, an object of HOME 4 is made with the image given and
its capability sealed at the result address; a resize changes the length, and the extents of an object of HOME 4 or one extent more or
some fewer of another; one that needs more than the four extents of an entry moves the object into one, and is NOSPACE where it is pinned or there is no room (log entry
173); a resize, a free and a derivation of an object that does not exist are BADARG, a free of a
pinned one is BUSY, and an unpinned one is freed; a copy between two windows that pass their checks begins, and a capability that does not
unseal is BADARG. -/
def Obligations.ObjectCommands : Prop :=
  (∀ (s : State) (p : Pkt) (tenant obj : Nat) (image : Sealed) (result : BitVec 64) (rights : Byte) (wbase wlen : BitVec 64),
    let o := s.obj tenant obj
    let table := fun (image : Sealed) => pagesFrom (tableSpan image).1 (8 * (tableSpan image).2)
    let len := entLen image
    let size := 2 ^ (12 + entXsz o.entry)
    let n := (len + size - 1) / size
    let img := entSet image 249 3 (entHome o.entry)
    let sealed := fun (s : State) => (s.putSeal p.fn tenant obj result rights wbase wlen).ends p 0x04 0x00
    (obj = 0 → exec (.mapObjCreate p tenant obj image result rights wbase wlen) s = .next (s.ends p 0x04 0x05)) ∧
    (s.tenantOk p.fn tenant = true → s.pagesRefused p.fn (pagesFrom (hostAddr result) 32) = false →
      sealOk result rights wbase wlen = true →
      (obj ≠ 0 → entKind o.entry = 0 → imageOk image = true → entKind image ≠ 0 → entHome image = 4 →
        s.pagesRefused tenant (table image) = false → s.tableOk tenant image = true → ∃ e,
        exec (.mapObjCreate p tenant obj image result rights wbase wlen) s =
          .next (sealed ((s.chargeTable tenant image).setObj tenant obj { Obj.free with entry := e })) ∧ entKind e = entKind image ∧ entLen e = entLen image) ∧
      (entKind o.entry ≠ 0 → exec (.mapObjDerive p tenant obj result rights wbase wlen) s = .next (sealed s))) ∧
    (entKind o.entry = 0 → exec (.mapObjDerive p tenant obj result rights wbase wlen) s = .next (s.ends p 0x04 0x05) ∧
      exec (.mapObjResize p tenant obj image) s = .next (s.ends p 0x04 0x05) ∧
      exec (.mapObjFree p tenant obj) s = .next (s.ends p 0x04 0x05)) ∧
    (s.tenantOk p.fn tenant = true → entKind o.entry ≠ 0 →
      (entTp o.entry = 1 → exec (.mapObjFree p tenant obj) s = .next (s.ends p 0x04 0x06)) ∧
      (entTp o.entry ≠ 1 → exec (.mapObjFree p tenant obj) s = .next (((s.freeExtents tenant o.entry 0).setObj tenant obj Obj.free).ends p 0x04 0x00)) ∧
      (∃ t, exec (.mapObjResize p tenant obj image) s = .next t) ∧
      (imageOk image = true → imageOk img = true → s.pagesRefused tenant (table img) = false → s.tableOk tenant img = true →
        let s' := s.chargeTable tenant img
        (len < entLen o.entry → entTp o.entry = 1 → exec (.mapObjResize p tenant obj image) s = .next (s'.ends p 0x04 0x06)) ∧
        (entLen o.entry ≤ len ∨ entTp o.entry ≠ 1 →
          (entHome o.entry = 4 → exec (.mapObjResize p tenant obj image) s = .next ((s'.setObj tenant obj { o with
            entry := entSet (entSet o.entry 0 224 (entField image 0 224)) 234 8 (entField image 234 8) }).ends p 0x04 0x00)) ∧
          (entHome o.entry ≠ 4 → 4 < n →
            (entTp o.entry = 1 ∨ s.relocate tenant obj len = none → exec (.mapObjResize p tenant obj image) s = .next (s.ends p 0x04 0x07)) ∧
            ∀ u, entTp o.entry ≠ 1 → s.relocate tenant obj len = some u → exec (.mapObjResize p tenant obj image) s =
              .next ((u.setObj tenant obj { u.obj tenant obj with entry := entSet (u.obj tenant obj).entry 180 44 len }).ends p 0x04 0x00)) ∧
          (entHome o.entry ≠ 4 → n ≤ 4 →
            (n = entNx o.entry → exec (.mapObjResize p tenant obj image) s = .next ((s.setObj tenant obj { o with
              entry := entSet o.entry 180 44 len }).ends p 0x04 0x00)) ∧
            (n < entNx o.entry → exec (.mapObjResize p tenant obj image) s =
              .next (((s.freeExtents tenant o.entry n).setObj tenant obj { o with
                entry := entSet (entSet (entSet o.entry 239 3 n) 0 (180 - 45 * n) 0) 180 44 len }).ends p 0x04 0x00)) ∧
            (n = entNx o.entry + 1 → s.hasRoom (entDie o.entry) (entHome o.entry) size = true → ∃ t a,
              exec (.mapObjResize p tenant obj image) s = .next t ∧ (t.obj tenant obj).entry =
                entSet (entSet (entSet o.entry 239 3 n) (180 - 45 * n) 45 (a / 4096)) 180 44 len)))))) ∧
  ∀ (s : State) (p : Pkt) (dst src : Sealed) (doff len soff : BitVec 64), let key := (s.tenant p.fn).key
    (unsealCap key p.fn dst = none → exec (.copy p dst doff len src soff) s = .next (s.ends p 0x05 0x05) ∧
      exec (.wsLoad p dst doff len src soff) s = .next (s.ends p 0x06 0x05)) ∧
    ∀ d c, unsealCap key p.fn dst = some d → unsealCap key p.fn src = some c →
      s.bulkOk ⟨d, false⟩ doff.toNat len.toNat true = true → s.bulkOk ⟨c, false⟩ soff.toNat len.toNat false = true →
      exec (.copy p dst doff len src soff) s = .next (s.startBulk p 0x05 d c doff.toNat soff.toNat len.toNat) ∧
      (s.homeOfCap ⟨d, false⟩ = 2 → entWst (s.entryOf ⟨d, false⟩) ≠ 0 →
        exec (.wsLoad p dst doff len src soff) s = .next (s.startBulk p 0x06 d c doff.toNat soff.toNat len.toNat))

/-- SIGNAL, WAIT with its ends, METER and RESET_Q (R235, R240, R254): an amount of 1 to 2^31 is added to a host event counter below 64; a
semaphore signal needs a resident node and an entry its image has; WAIT completes at once where the counter has the value, and else holds
its queue until it has, or answers TIMEOUT at its time; METER writes at a multiple of 64 the 384 bytes of R254, the meters as they stood
when the gcy began, then their signature, 480 bytes and no other, and the tenant's count and PREV go on; RESET_Q of its own queue is BADARG. -/
def Obligations.SignalCommands : Prop :=
  ∀ (s : State) (p : Pkt) (event idx graph node seq target : Nat) (amount : BitVec 32) (value timeout addr : BitVec 64),
    let he := fun (fn k : Nat) => SMap.get 0 (s.func fn).he k
    (event < 64 → amount ≠ 0 → amount.toNat ≤ 2 ^ 31 →
      exec (.signalHostEvent p event amount) s = .next ((s.hostEvent p.fn event amount.toNat).ends p 0x07 0x00)) ∧
    (64 ≤ event ∨ amount = 0 ∨ 2 ^ 31 < amount.toNat → exec (.signalHostEvent p event amount) s = .next (s.ends p 0x07 0x05)) ∧
    (amount ≠ 0 → amount.toNat ≤ 2 ^ 31 →
      (s.residentNode p.fn graph seq node = none →
        exec (.signalSemaphore p idx graph node seq amount) s = .next (s.ends p 0x07 0x0C)) ∧
      ∀ k, s.residentNode p.fn graph seq node = some k → idx < (s.tt k).img.sems →
        exec (.signalSemaphore p idx graph node seq amount) s = .next
          ((((s.tt k).place.zipIdx.filter fun x => x.1.pkg == s.pkg).foldl (fun s x => s.hostSignal k x.2 idx amount.toNat) s).ends
            p 0x07 0x00)) ∧
    (64 ≤ event → exec (.wait p event value timeout) s = .next (s.ends p 0x08 0x05)) ∧
    (event < 64 →
      (value ≤ he p.fn event → exec (.wait p event value timeout) s = .next (s.ends p 0x08 0x00)) ∧
      (he p.fn event < value → exec (.wait p event value timeout) s = .next (s.setQueue p.fn p.q { s.queue p.fn p.q with
        wait := some (p, event, value, if timeout = 0 then none else some (s.gclk.toNat + 1024 * timeout.toNat)) }))) ∧
    (∀ fn q d, (s.queue fn q).wait = some (p, event, value, d) →
      (value ≤ he fn event → exec (.waitRelease fn q) s =
        .next ((s.setQueue fn q { s.queue fn q with wait := none }).ends p 0x08 0x00)) ∧
      ∀ g, d = some g → g ≤ s.gclk.toNat → exec (.waitTimeout fn q) s =
        .next ((s.setQueue fn q { s.queue fn q with wait := none }).ends p 0x08 0x0A)) ∧
    (hostAddr addr % 64 ≠ 0 → exec (.meter p addr) s = .next (s.ends p 0x09 0x05)) ∧
    (hostAddr addr % 64 = 0 → s.pagesRefused p.fn (pagesFrom (hostAddr addr) 480) = false → let x := s.tenant p.fn
      let a := s.spaceOf p.fn (hostAddr addr)
      let body := bytesOf 8 x.snaps ++ bytesOf 8 s.gclk.toNat ++ [BitVec.ofNat 8 p.fn] ++ bytesOf 7 0 ++ bytesOf 48 x.prev.toNat ++
        ((List.range 32).flatMap fun k => bytesOf 8 (SMap.get 0 x.before k).toNat) ++ bytesOf 56 0
      let b := body ++ s.signed (bytesOf 48 (Config.sha384 body).toNat)
      body.length = 384 ∧ b.length = 480 ∧ ∃ u : State, exec (.meter p addr) s = .next (u.ends p 0x09 0x00) ∧
        (∀ i < 480, u.mem.read (a + i) = b.getD i 0) ∧ (∀ k, k < a ∨ a + 480 ≤ k → u.mem.read k = s.mem.read k) ∧
        (u.tenant p.fn).snaps = x.snaps + 1 ∧ (u.tenant p.fn).prev = Config.sha384 body ∧ u.funcs = s.funcs ∧ u.strands = s.strands ∧ u.tts = s.tts) ∧
    (target = p.q → exec (.resetQ p target) s = .next (s.ends p 0x0A 0x05)) ∧
    (target ≠ p.q → exec (.resetQ p target) s = .next ((s.resetQueue p.fn target).ends p 0x0A 0x00))

/-! ### Tenants, sessions, life cycle -/

/-- TENANT_CREATE, TENANT_TEARDOWN, TDI_ERROR, TDISP_MESSAGE, TENANT_TURN and MULE_RESTART (R34, R35, R98, R230, R243, R250, R251): a new tenant
has its own key, no object and meters at 0; a tenant with no timetable that is torn down is gone, and so is that of a function in
ERROR; a TDI goes from UNLOCKED to LOCKED to RUN; a server's turn does what its unit does for the tenant its table names; a restart
drops what was fetched and starts the harts again, a queue whose reset waited for that alone is disabled, and nothing else changes where no
queue is being reset. -/
def Obligations.TenantSteps : Prop :=
  (∀ (s : State) (n : Nat), n ≠ 0 → n ≤ 255 → (s.tenant n).live = false → (s.tenant n).closing = false →
    ∃ t, exec (.tenantCreate n) s = .next t ∧ (t.tenant n).live = true ∧ (t.tenant n).key = s.keys ∧ (t.tenant n).objs = [] ∧
      (t.tenant n).meters = [] ∧ (t.tenant n).snaps = 0 ∧ t.keys = s.keys + 1) ∧
  (∀ (s : State) (n : Nat), n ≠ 0 → (s.tenant n).live = true → (s.tenant n).closing = false → s.requests = [] → s.compact = none →
    s.preempt = none → (∀ x ∈ s.tts, x.2.tenant ≠ n) →
    ∃ t, exec (.tenantTeardown n) s = .next t ∧ (t.tenant n).live = false ∧
      ∃ u, exec (.tdiError n) s = .next u ∧ (u.tenant n).live = false ∧ (u.func n).tdi = .error) ∧
  (∀ (s : State) (fn : Nat) (d : TdiState), fn ≠ 0 → let f := s.func fn
    (d = .locked → f.tdi = .unlocked → exec (.tdispMessage fn d) s = .next (s.setFunc fn { f with tdi := .locked })) ∧
    (d = .run → f.tdi = .locked → exec (.tdispMessage fn d) s = .next (s.setFunc fn { f with tdi := .run })) ∧
    (d = .unlocked → exec (.tdispMessage fn d) s = .next (s.setFunc fn { f with tdi := .unlocked })) ∧
    (d = .error → exec (.tdispMessage fn d) s = .next (s.tdiFails fn)) ∧
    exec (.tdispMessage 0 d) s = .next s) ∧
  (∀ (s t : State) (server tenant : Nat), s.turn server = some tenant →
    (server / 2 ^ 16 = 0x04 → s.engineTurn server tenant = some t → exec (.tenantTurn server) s = .next t) ∧
    (server / 2 ^ 16 = 0x0B → s.gooseTurn (server % 2 ^ 16) tenant = some t → exec (.tenantTurn server) s = .next t) ∧
    (server / 2 ^ 16 = 0x0C → s.dmaTurn tenant = some t → exec (.tenantTurn server) s = .next t) ∧
    (server / 2 ^ 16 ∈ [0x05, 0x07, 0x08, 0x09, 0x0D, 0x0E] → s.portTurn server tenant = some t → exec (.tenantTurn server) s = .next t)) ∧
  ∀ s : State, ∃ t, exec .muleRestart s = .next t ∧ t.muleDown = true ∧ t.harts = State.reset.harts ∧ t.strands = s.strands ∧
    (∀ fn q, (t.queue fn q).fetched = none ∧
      let x := s.queue fn q
      (x.resetting = true → x.running = 0 → x.comps = [] → (t.queue fn q).st = 0) ∧
      (x.resetting = false → t.queue fn q = { x with fetched := none })) ∧
    ((∀ fn q, (s.queue fn q).resetting = false) → t.mem = s.mem ∧ t.tenants = s.tenants ∧ t.launches = s.launches)

/-- The responder (R231, R255): each request is answered with one message of its code, or with ERROR: algorithms other than P-384 and SHA-384,
a session message outside a session, a tenant selected by another function than the first, an unknown measurement; KEY_EXCHANGE opens a
session with tenant 0 selected, END_SESSION closes it; nothing else changes but, for a measurement of the meters, the tenant's
snapshot. (The codes are those of SPDM 1.3: PRESUMED, log entry 56.) -/
def Obligations.SecuritySession : Prop :=
  ∀ (s : State) (fn off len tenant : Nat) (p384 sha384 : Bool) (nonce : Sealed), let f := s.func fn
    let answered := fun (t : State) (code : Nat) => ∃ bytes, t.outbox = s.outbox ++ [.spdm fn code bytes] ∧ t.mem = s.mem ∧
      t.strands = s.strands ∧ t.tts = s.tts
    let bad := s.answers fn 0x7F [0x01]
    exec (.getVersion fn) s = .next (s.answers fn 0x04 [0x13]) ∧
    (∃ t, exec (.getCapabilities fn) s = .next t ∧ answered t 0x61) ∧
    (p384 = true → sha384 = true → ∃ t, exec (.negotiateAlgorithms fn p384 sha384) s = .next t ∧ answered t 0x63) ∧
    (p384 = false ∨ sha384 = false → exec (.negotiateAlgorithms fn p384 sha384) s = .next bad) ∧
    exec (.getDigests fn) s = .next (s.answers fn 0x01 (bytesOf 48 (Config.sha384 (Config.certChain s.aliasOf fn)).toNat)) ∧
    exec (.getCertificate fn off len) s = .next (s.answers fn 0x02 (((Config.certChain s.aliasOf fn).drop off).take len)) ∧
    (∃ t, exec (.challenge fn nonce) s = .next t ∧ answered t 0x03) ∧
    (∃ t, exec (.keyExchange fn nonce) s = .next t ∧ answered t 0x64 ∧ (t.func fn).session = true ∧ (t.func fn).sel = 0) ∧
    (f.session = false → ∀ m, exec (.spdmSessionMessage fn m) s = .next bad) ∧
    (f.session = true → (∃ t, exec (.spdmSessionMessage fn .finish) s = .next t ∧ answered t 0x65) ∧
      exec (.spdmSessionMessage fn .heartbeat) s = .next (s.answers fn 0x68 []) ∧
      exec (.spdmSessionMessage fn .keyUpdate) s = .next (s.answers fn 0x69 []) ∧
      ∃ t, exec (.spdmSessionMessage fn .endSession) s = .next t ∧ answered t 0x6C ∧ (t.func fn).session = false) ∧
    (ownFn fn = true → tenant < 256 → ∃ t, exec (.selectTenant fn tenant) s = .next t ∧ answered t 0x7E ∧ (t.func fn).sel = tenant) ∧
    (ownFn fn = false ∨ 256 ≤ tenant → exec (.selectTenant fn tenant) s = .next bad) ∧
    exec (.getMeasurements fn 0x04) s = .next (s.answers fn 0x60 (bytesOf 1 s.lifecycle ++ bytesOf 48 (Config.measured 4).toNat)) ∧
    exec (.getMeasurements fn 0x03) s = .next (s.answers fn 0x60 (bytesOf 48 (Config.sha384 s.routines).toNat)) ∧
    exec (.getMeasurements fn 0x06) s = .next bad

/-- The life cycle and bring-up (R256, R257): MANUFACTURE, PROVISIONED, DEPLOYED, RETURNED in that order, each by its own request and by no other;
the state reads back; a cold reset keeps the fuses (life cycle, identity), the routine image, the package's number and the host's memory, takes the image whose signature
verifies as firmware, draws a new key for tenant 0, and everything else is as after reset; it is one step (log entry 115);
before bring-up is complete a configuration request is answered with Retry Status. (What the model keeps beside: the count of free choices,
what was sent out, and the agenda of steps to come.) -/
def Obligations.LifeCycle : Prop :=
  ∀ (s : State) (byFn : Nat) (auth sig : List Byte),
    exec .lifecycleRead s = .next { s with outbox := s.outbox ++ [.mctp (bytesOf 1 s.lifecycle)] } ∧
    (s.lifecycle = 0 → ∃ t, exec .provision s = .next t ∧ t.lifecycle = 1) ∧
    (s.lifecycle ≠ 0 → exec .provision s = .next s) ∧
    (s.lifecycle = 1 → byFn = 0 → ∃ t, exec (.claim byFn) s = .next t ∧ t.lifecycle = 2) ∧
    (s.lifecycle ≠ 1 ∨ byFn ≠ 0 → exec (.claim byFn) s = .next s) ∧
    (s.lifecycle = 2 → ∃ t, exec (.return_ auth sig) s = .next t ∧
      if Config.verify auth sig then t.lifecycle = 3 else t = s) ∧
    (s.lifecycle ≠ 2 → exec (.return_ auth sig) s = .next s) ∧
    (∃ t, exec (.coldReset auth sig) s = .next t ∧ (∀ a, t.mem.read a = if addrDev a then 0 else s.mem.read a) ∧
      t.tenants = [(0, { Tenant.none with live := true, key := s.keys })] ∧
      t = { State.reset with
        mem := t.mem, tenants := t.tenants, keys := s.keys + 1, bringup := if Config.verify auth sig then 5 else 1,
        firmware := if Config.verify auth sig then auth else [], lifecycle := s.lifecycle, identity := s.identity, routines := s.routines,
        pkg := s.pkg, choices := s.choices, outbox := s.outbox, agenda := s.agenda }) ∧
    (s.bringup < 5 → exec .configRequest s = .next { s with outbox := s.outbox ++ [.retry] }) ∧
    (5 ≤ s.bringup → exec .configRequest s = .next s)
end

