-- ==== Sys2Proof/Laws/Encoding.lean ====
section
/-! SUPPORT. Reading fields off a word that is put together from fields. -/
namespace Sys2Proof

/-- A field above the last part lies in what stands before it. -/
theorem ext_hi {m n lo len : Nat} (x : BitVec m) (y : BitVec n) (h : n ≤ lo) :
    (x ++ y).extractLsb' lo len = x.extractLsb' (lo - n) len := by
  ext i hi
  simp only [BitVec.getElem_extractLsb', BitVec.getLsbD_append]
  rw [if_neg (by omega), show lo + i - n = lo - n + i by omega]

/-- A field inside the last part. -/
theorem ext_lo {m n lo len : Nat} (x : BitVec m) (y : BitVec n) (h : lo + len ≤ n) :
    (x ++ y).extractLsb' lo len = y.extractLsb' lo len := by
  ext i hi
  simp only [BitVec.getElem_extractLsb', BitVec.getLsbD_append]
  rw [if_pos (by omega)]

/-- The whole of a part. -/
theorem ext_all {n : Nat} (x : BitVec n) : x.extractLsb' 0 n = x := by
  ext i
  simp

end Sys2Proof
end

