-- ==== Sys2Proof/Laws/Map.lean ====
section
/-! SUPPORT. The laws of sparse maps: reading after writing, and that writing and filtering keep the canonical form. -/
namespace Sys2Proof.Machine.SMap

variable {α : Type} {d : α} {m : SMap α} {k x : Nat} {v : α}

@[simp] theorem get_nil : get d ([] : SMap α) x = d := rfl

theorem get_cons (e : Nat × α) (t : SMap α) : get d (e :: t) x = if x = e.1 then e.2 else get d t x := rfl

theorem get_insert_self : get d (insert k v m) k = v := by
  induction m with
  | nil => rw [insert, get_cons, if_pos rfl]
  | cons first later below =>
    rw [insert]
    split
    · rw [get_cons, if_neg (by omega), below]
    · rw [get_cons, if_pos rfl]

theorem get_insert_ne (h : x ≠ k) : get d (insert k v m) x = get d m x := by
  induction m with
  | nil => rw [insert, get_cons, if_neg h]
  | cons first later below =>
    rw [insert]
    split
    · rw [get_cons, below, get_cons]
    · rw [get_cons, if_neg h]
      split
      next same => rw [get_cons, if_neg (same ▸ h)]
      · rfl

theorem get_erase_self : get d (erase m k) k = d := by
  induction m with
  | nil => rfl
  | cons e t ih =>
    unfold erase at ih ⊢
    by_cases he : e.1 = k
    · simp [he, ih]
    · simp [he, get_cons, Ne.symm he, ih]

theorem get_erase_ne (h : x ≠ k) : get d (erase m k) x = get d m x := by
  induction m with
  | nil => rfl
  | cons e t ih =>
    unfold erase at ih ⊢
    by_cases he : e.1 = k
    · simp [he, get_cons, ih, h]
    · simp [he, get_cons, ih]

section
variable [DecidableEq α]

/-- A key reads what was written to it. -/
@[simp] theorem get_set_self : get d (set d m k v) k = v := by
  unfold set
  split
  · next h => rw [get_erase_self, h]
  · exact get_insert_self

/-- Every other key reads what it held. -/
theorem get_set_ne (h : x ≠ k) : get d (set d m k v) x = get d m x := by
  unfold set
  split
  · exact get_erase_ne h
  · exact get_insert_ne h

theorem get_set : get d (set d m k v) x = if x = k then v else get d m x := by
  split
  · next h => rw [h, get_set_self]
  · next h => exact get_set_ne h

omit [DecidableEq α] in
theorem insert_insert {w : α} : insert k w (insert k v m) = insert k w m := by
  induction m with
  | nil => simp only [insert, Nat.lt_irrefl, if_true, if_false]
  | cons first later below =>
    rcases Nat.lt_or_ge first.1 k with less | more
    · simp only [insert, less, if_true, below]
    · simp only [insert, more.not_gt, Nat.lt_irrefl, if_true, if_false]

omit [DecidableEq α] in
theorem erase_insert : erase (insert k v m) k = erase m k := by
  induction m with
  | nil => simp only [erase, insert, List.filter_cons, bne_self_eq_false, Bool.false_eq_true, if_false]
  | cons first later below =>
    unfold erase at below ⊢
    rcases Nat.lt_trichotomy first.1 k with less | same | more
    · simp only [insert, less, if_true, List.filter_cons, below]
    · simp [insert, same]
    · simp [insert, more.not_gt, more.ne']

/-- A second write to a key replaces the first, where that was not the default. -/
theorem set_set {w : α} (h : v ≠ d) : set d (set d m k v) k w = set d m k w := by
  unfold set
  rw [if_neg h]
  split
  · exact erase_insert
  · exact insert_insert

/-- The canonical form as a proposition: keys rise strictly and no entry is the default. -/
theorem wf_cons (e : Nat × α) (t : SMap α) :
    wf d (e :: t) = true ↔ e.2 ≠ d ∧ (∀ x ∈ t, e.1 < x.1) ∧ wf d t = true := by
  simp [wf, and_assoc]

@[simp] theorem wf_nil : wf d ([] : SMap α) = true := rfl

/-- Any selection of entries of a canonical map is canonical. -/
theorem wf_filter (p : Nat × α → Bool) (h : wf d m = true) : wf d (m.filter p) = true := by
  induction m with
  | nil => rfl
  | cons e t ih =>
    obtain ⟨h1, h2, h3⟩ := (wf_cons e t).mp h
    by_cases hp : p e = true
    · rw [List.filter_cons_of_pos hp, wf_cons]
      exact ⟨h1, fun x hx => h2 x ((List.mem_filter.mp hx).1), ih h3⟩
    · rw [List.filter_cons_of_neg hp]
      exact ih h3

theorem wf_erase (h : wf d m = true) : wf d (erase m k) = true := wf_filter _ h

omit [DecidableEq α] in
/-- What holds of an entry and of all of a map holds of all of the map with that entry put in. -/
theorem forall_insert {P : Nat × α → Prop} (new : P (k, v)) (all : ∀ entry ∈ m, P entry) : ∀ entry ∈ insert k v m, P entry := by
  induction m with
  | nil => simpa only [insert, List.forall_mem_singleton] using new
  | cons first later below =>
    rw [List.forall_mem_cons] at all
    simp only [insert]
    split
    · exact List.forall_mem_cons.mpr ⟨all.left, below all.right⟩
    · refine List.forall_mem_cons.mpr ⟨new, ?_⟩
      split
      · exact all.right
      · exact List.forall_mem_cons.mpr all

theorem wf_insert (hv : v ≠ d) (h : wf d m = true) : wf d (insert k v m) = true := by
  induction m with
  | nil => simp [insert, wf, hv]
  | cons first later below =>
    have ⟨full, above, good⟩ := (wf_cons first later).mp h
    rcases Nat.lt_trichotomy k first.1 with less | same | more
    · rw [insert, if_neg less.not_gt, if_neg less.ne', wf_cons]
      exact ⟨hv, List.forall_mem_cons.mpr ⟨less, fun entry found => less.trans (above entry found)⟩, h⟩
    · rw [insert, if_neg same.le.not_gt, if_pos same.symm, wf_cons]
      exact ⟨hv, same ▸ above, good⟩
    · rw [insert, if_pos more, wf_cons]
      exact ⟨full, forall_insert more above, below good⟩

/-- Writing keeps the canonical form. -/
theorem wf_set (h : wf d m = true) : wf d (set d m k v) = true := by
  unfold set
  split
  · exact wf_erase h
  · next hv => exact wf_insert hv h

omit [DecidableEq α] in
/-- A key no entry carries reads the default. -/
theorem get_of_notin (h : ∀ e ∈ m, e.1 ≠ x) : get d m x = d := by
  induction m with
  | nil => rfl
  | cons e t ih =>
    rw [get_cons, if_neg (Ne.symm (h e List.mem_cons_self))]
    exact ih fun y hy => h y (List.mem_cons_of_mem _ hy)

/-- A map built from a function reads it below its bound, and the default from there up. -/
theorem get_ofFn (n : Nat) (f : Nat → α) : get d (ofFn d n f) x = if x < n then f x else d := by
  have aux : ∀ l : List Nat, get d (l.filterMap fun i => if f i = d then none else some (i, f i)) x
      = if x ∈ l then f x else d := by
    intro l
    induction l with
    | nil => rfl
    | cons i t ih =>
      by_cases hf : f i = d
      · rw [List.filterMap_cons_none (by simp [hf]), ih]
        by_cases hx : x = i
        · subst hx; simp [hf]
        · simp [hx]
      · rw [List.filterMap_cons_some (b := (i, f i)) (by simp [hf]), get_cons, ih]
        by_cases hx : x = i
        · subst hx; simp
        · simp [hx]
  simpa [ofFn] using aux (List.range n)

omit [DecidableEq α] in
/-- Below all its keys a map reads the default. -/
theorem get_below {key : Nat} (h : ∀ entry ∈ m, key < entry.1) : get d m key = d :=
  get_of_notin fun entry found => (h entry found).ne'

/-- The first key of a canonical map is the least that does not read the default. -/
theorem first_le {first first' : Nat × α} {later other : SMap α} (h : wf d (first :: later) = true) (ho : wf d (first' :: other) = true)
    (same : ∀ key, get d (first :: later) key = get d (first' :: other) key) : first'.1 ≤ first.1 := by
  by_contra more
  have off : get d (first' :: other) first.1 = d := get_below <| List.forall_mem_cons.mpr
    ⟨by omega, fun entry found => lt_trans (by omega) (((wf_cons _ _).mp ho).2.1 entry found)⟩
  exact ((wf_cons _ _).mp h).1 (by rw [← off, ← same, get_cons, if_pos rfl])

/-- Two canonical maps that read alike are equal. -/
theorem eq_of_get {m' : SMap α} (h : wf d m = true) (h' : wf d m' = true) (he : ∀ x, get d m x = get d m' x) : m = m' := by
  induction m generalizing m' with
  | nil => match m' with
    | [] => rfl
    | first :: _ => exact absurd ((he first.1).trans (by rw [get_cons, if_pos rfl])).symm ((wf_cons _ _).mp h').1
  | cons first later below => match m' with
    | [] => exact absurd ((he first.1).symm.trans (by rw [get_cons, if_pos rfl])).symm ((wf_cons _ _).mp h).1
    | first' :: other =>
      have key : first.1 = first'.1 := le_antisymm (first_le h' h fun x => (he x).symm) (first_le h h' he)
      have value : first.2 = first'.2 := by simpa [get_cons, key] using he first.1
      refine congr_arg₂ _ (Prod.ext key value) (below ((wf_cons _ _).mp h).2.2 ((wf_cons _ _).mp h').2.2 fun x => ?_)
      by_cases at_ : x = first.1
      · rw [at_, get_below ((wf_cons _ _).mp h).2.1, key, get_below ((wf_cons _ _).mp h').2.1]
      · simpa only [get_cons, if_neg at_, if_neg (key ▸ at_)] using he x

end

end Sys2Proof.Machine.SMap
end

