-- ==== Sys2Proof/Laws/Memory.lean ====
section
/-! SUPPORT. The laws of memory: reading after writing, what a write leaves, and that every memory operation keeps the canonical
form. -/
namespace Sys2Proof.Machine

variable {m : Memory} {a b : Nat} {v : Byte}

@[simp] theorem Memory.read_nil : Memory.read [] a = 0 := rfl

@[simp] theorem Memory.read_write_self : (m.write a v).read a = v := SMap.get_set_self

theorem Memory.read_write_ne (h : b ≠ a) : (m.write a v).read b = m.read b := SMap.get_set_ne h

theorem Memory.write_wf (h : m.wf = true) : (m.write a v).wf = true := SMap.wf_set h

/-- A byte outside the run written reads as before. -/
theorem Memory.read_writeN_out {l : List Byte} (h : b < a ∨ a + l.length ≤ b) : (m.writeN a l).read b = m.read b := by
  induction l generalizing m a with
  | nil => rfl
  | cons x t ih =>
    simp only [List.length_cons] at h
    unfold Memory.writeN
    rw [ih (by omega), read_write_ne (by omega)]

/-- Byte i of the run written. -/
theorem Memory.read_writeN_in {l : List Byte} {i : Nat} (h : i < l.length) : (m.writeN a l).read (a + i) = l[i] := by
  induction l generalizing m a i with
  | nil => exact absurd h (Nat.not_lt_zero _)
  | cons x t ih =>
    unfold Memory.writeN
    cases i with
    | zero =>
      rw [read_writeN_out (.inl (by omega))]
      exact read_write_self
    | succ j =>
      have hj : j < t.length := by simpa using h
      have := ih (m := m.write a x) (a := a + 1) hj
      rw [show a + (j + 1) = a + 1 + j by omega, this]
      rfl

theorem Memory.writeN_wf {l : List Byte} (h : m.wf = true) : (m.writeN a l).wf = true := by
  induction l generalizing m a with
  | nil => exact h
  | cons x t ih => exact ih (write_wf h)

/-- A run read back is the run written. -/
theorem Memory.readN_writeN {l : List Byte} : (m.writeN a l).readN a l.length = l := by
  apply List.ext_getElem
  · simp [Memory.readN]
  · intro i h1 h2
    simp only [Memory.readN, List.getElem_map, List.getElem_range]
    exact read_writeN_in h2

/-- A byte no pair names reads as before. -/
theorem Memory.read_writeAll_out {l : List (Nat × Byte)} (h : ∀ e ∈ l, e.1 ≠ b) : (m.writeAll l).read b = m.read b := by
  unfold Memory.writeAll
  induction l generalizing m with
  | nil => rfl
  | cons e t ih =>
    rw [List.foldl_cons, ih fun x hx => h x (List.mem_cons_of_mem _ hx)]
    exact read_write_ne (Ne.symm (h e List.mem_cons_self))

theorem Memory.writeAll_wf {l : List (Nat × Byte)} (h : m.wf = true) : (m.writeAll l).wf = true := by
  unfold Memory.writeAll
  induction l generalizing m with
  | nil => exact h
  | cons e t ih => exact ih (write_wf h)

/-- Bytes taken out of memory (an extent that leaves, storage scrubbed). -/
theorem Memory.filter_wf (p : Nat × Byte → Bool) (h : m.wf = true) : Memory.wf (m.filter p) = true := SMap.wf_filter p h

/-- Memories that read alike are equal data. -/
theorem Memory.eq_of_read {m' : Memory} (h : m.wf = true) (h' : m'.wf = true) (he : ∀ x, m.read x = m'.read x) : m = m' :=
  SMap.eq_of_get h h' he

theorem bytesOf_length (n v : Nat) : (bytesOf n v).length = n := by
  induction n generalizing v with
  | zero => rfl
  | succ n ih => simp [bytesOf, ih]

/-- The number that the bytes of a number hold. -/
theorem natOf_bytesOf (n v : Nat) : natOf (bytesOf n v) = v % 256 ^ n := by
  induction n generalizing v with
  | zero => simp [bytesOf, natOf, Nat.mod_one]
  | succ n ih =>
    have hb : (BitVec.ofNat 8 v).toNat = v % 256 := by rw [BitVec.toNat_ofNat]
    rw [bytesOf, natOf, ih, hb, show 256 ^ (n + 1) = 256 * 256 ^ n by rw [Nat.pow_succ, Nat.mul_comm]]
    exact Nat.mod_mul.symm

end Sys2Proof.Machine
end

