-- ==== Sys2Proof/Laws/Extents.lean ====
section
/-! SUPPORT. Placement of extents: where a level has room a place is found, it meets nothing allotted, and zeroing it leaves the rest
of memory alone. -/
namespace Sys2Proof.Machine

variable {s : State} {die level size : Nat}

/-- A place that is found is a free one. -/
theorem State.freePlace_slotFree {a : Nat} {t : State} (h : s.freePlace die level size = (some a, t)) :
    ∃ j, s.slotFree die level size j = true ∧ a = devAddr s.pkg die level (j * size) := by
  simp only [State.freePlace, Prod.mk.injEq, Option.map_eq_some_iff] at h
  obtain ⟨⟨j, hj, rfl⟩, -⟩ := h
  exact ⟨j, List.find?_some hj, rfl⟩

/-- Where a level has room, a place is found; nothing but the counter of free choices changes. -/
theorem State.freePlace_of_hasRoom (h : s.hasRoom die level size = true) :
    ∃ a, s.freePlace die level size = (some a, { s with choices := s.choices + 1 }) := by
  obtain ⟨j, hj, hf⟩ := List.any_eq_true.mp h
  cases hc : (Config.choose s.choices % (levelCap level / size) :: s.firstSlots die level size).find?
      (s.slotFree die level size) with
  | none => exact absurd hf (List.find?_eq_none.mp hc j (List.mem_cons_of_mem _ hj))
  | some k => exact ⟨devAddr s.pkg die level (k * size), by simp only [State.freePlace, State.pick, hc, Option.map_some]⟩

/-- With nothing allotted in a level there is room for whatever fits in it. -/
theorem State.hasRoom_of_empty (he : s.extentsAt die level = []) (hs : 0 < levelCap level / size) :
    s.hasRoom die level size = true := by
  simp [State.hasRoom, State.firstSlots, State.slotFree, he, hs]

/-- Zeroing a stretch of memory leaves every byte outside it. -/
theorem Memory.read_zeroed {m : Memory} {a n x : Nat} (hx : x < a ∨ a + n ≤ x) :
    Memory.read (m.filter fun e => decide (e.1 < a) || decide (a + n ≤ e.1)) x = m.read x := by
  simp only [Memory.read]
  induction m with
  | nil => rfl
  | cons e m ih =>
    rw [List.filter_cons]
    split
    · rw [SMap.get, SMap.get, ih]
    next hk =>
      have hne : x ≠ e.1 := by simp only [Bool.or_eq_true, decide_eq_true_eq] at hk; omega
      rw [SMap.get, if_neg hne, ih]

/-- A new extent where a level has room: its place is given back clean, and nothing else changes but the counter of free choices. -/
theorem State.newExtent_of_hasRoom (h : s.hasRoom die level size = true) :
    ∃ a, s.newExtent die level size = some (a, { s with choices := s.choices + 1 }.freeRange a size) := by
  obtain ⟨a, ha⟩ := State.freePlace_of_hasRoom h
  exact ⟨a, by unfold State.newExtent; rw [ha]⟩

@[simp] theorem State.writeBytes_strands {l : List (Nat × Byte)} : (s.writeBytes l).strands = s.strands := rfl
@[simp] theorem State.writeBytes_tts {l : List (Nat × Byte)} : (s.writeBytes l).tts = s.tts := rfl
@[simp] theorem State.writeBytes_tenants {l : List (Nat × Byte)} : (s.writeBytes l).tenants = s.tenants := rfl
@[simp] theorem State.writeBytes_mem {l : List (Nat × Byte)} : (s.writeBytes l).mem = s.mem.writeAll l := rfl
@[simp] theorem State.setObj_strands {n k : Nat} {o : Obj} : (s.setObj n k o).strands = s.strands := rfl
@[simp] theorem State.setObj_tts {n k : Nat} {o : Obj} : (s.setObj n k o).tts = s.tts := rfl
@[simp] theorem State.setObj_mem {n k : Nat} {o : Obj} : (s.setObj n k o).mem = s.mem := rfl

/-- What writing a save area does, where DRAM has room: the place is zeroed, the area's object entered, its bytes written, and the timetable
notes where it lies. -/
theorem State.writeSave_of_hasRoom {tt : Nat} {rot : List Nat} {stops : List SaveStop}
    (h : s.hasRoom (s.saveDie tt) 3 (s.saveSize tt stops) = true) :
    ∃ a s1 v n e, s.newExtent (s.saveDie tt) 3 (s.saveSize tt stops) = some (a, s1) ∧ v.at_ = s.gclk.toNat ∧
      s1 = { s with choices := s.choices + 1 }.freeRange a (s.saveSize tt stops) ∧
      s.writeSave tt rot stops = some (((({ s1 with choices := s1.choices + 1 } : State).setObj (s.tt tt).tenant n e).writeBytes
        (s.saveCells tt stops a)).setTt tt { s.tt tt with saved := some v }) := by
  obtain ⟨a, ha⟩ := State.newExtent_of_hasRoom h
  generalize hs1 : ({ s with choices := s.choices + 1 } : State).freeRange a (s.saveSize tt stops) = s1 at ha
  have key : ∃ v n e, v.at_ = s.gclk.toNat ∧ s.writeSave tt rot stops = some (((({ s1 with choices := s1.choices + 1 } : State).setObj
      (s.tt tt).tenant n e).writeBytes (s.saveCells tt stops a)).setTt tt { s.tt tt with saved := some v }) := by
    unfold State.writeSave
    rw [ha]
    exact ⟨_, _, _, rfl, rfl⟩
  obtain ⟨v, n, e, hv, hk⟩ := key
  exact ⟨a, s1, v, n, e, ha, hv, hs1.symm, hk⟩

end Sys2Proof.Machine
end

