-- ==== Sys2Proof/Laws/State.lean ====
section
/-! SUPPORT. What each update of the state and of a strand leaves: one lemma per field per update, and what each keyed part reads
after an update of itself. -/
namespace Sys2Proof.Machine

variable (s : State) (st : Strand)

/-! ### setStrand -/

@[simp] theorem State.setStrand_gclk (k : Nat) (v : Strand) : (s.setStrand k v).gclk = s.gclk := rfl
@[simp] theorem State.setStrand_pkg (k : Nat) (v : Strand) : (s.setStrand k v).pkg = s.pkg := rfl
@[simp] theorem State.setStrand_mem (k : Nat) (v : Strand) : (s.setStrand k v).mem = s.mem := rfl
@[simp] theorem State.setStrand_strands (k : Nat) (v : Strand) : (s.setStrand k v).strands = SMap.set Strand.blank s.strands k v := rfl
@[simp] theorem State.setStrand_tts (k : Nat) (v : Strand) : (s.setStrand k v).tts = s.tts := rfl
@[simp] theorem State.setStrand_nextTt (k : Nat) (v : Strand) : (s.setStrand k v).nextTt = s.nextTt := rfl
@[simp] theorem State.setStrand_gates (k : Nat) (v : Strand) : (s.setStrand k v).gates = s.gates := rfl
@[simp] theorem State.setStrand_hens (k : Nat) (v : Strand) : (s.setStrand k v).hens = s.hens := rfl
@[simp] theorem State.setStrand_replays (k : Nat) (v : Strand) : (s.setStrand k v).replays = s.replays := rfl
@[simp] theorem State.setStrand_ports (k : Nat) (v : Strand) : (s.setStrand k v).ports = s.ports := rfl
@[simp] theorem State.setStrand_xlat (k : Nat) (v : Strand) : (s.setStrand k v).xlat = s.xlat := rfl
@[simp] theorem State.setStrand_farLines (k : Nat) (v : Strand) : (s.setStrand k v).farLines = s.farLines := rfl
@[simp] theorem State.setStrand_asks (k : Nat) (v : Strand) : (s.setStrand k v).asks = s.asks := rfl
@[simp] theorem State.setStrand_jobs (k : Nat) (v : Strand) : (s.setStrand k v).jobs = s.jobs := rfl
@[simp] theorem State.setStrand_nextJob (k : Nat) (v : Strand) : (s.setStrand k v).nextJob = s.nextJob := rfl
@[simp] theorem State.setStrand_colls (k : Nat) (v : Strand) : (s.setStrand k v).colls = s.colls := rfl
@[simp] theorem State.setStrand_tenants (k : Nat) (v : Strand) : (s.setStrand k v).tenants = s.tenants := rfl
@[simp] theorem State.setStrand_keys (k : Nat) (v : Strand) : (s.setStrand k v).keys = s.keys := rfl
@[simp] theorem State.setStrand_funcs (k : Nat) (v : Strand) : (s.setStrand k v).funcs = s.funcs := rfl
@[simp] theorem State.setStrand_launches (k : Nat) (v : Strand) : (s.setStrand k v).launches = s.launches := rfl
@[simp] theorem State.setStrand_nextLaunch (k : Nat) (v : Strand) : (s.setStrand k v).nextLaunch = s.nextLaunch := rfl
@[simp] theorem State.setStrand_requests (k : Nat) (v : Strand) : (s.setStrand k v).requests = s.requests := rfl
@[simp] theorem State.setStrand_nextReq (k : Nat) (v : Strand) : (s.setStrand k v).nextReq = s.nextReq := rfl
@[simp] theorem State.setStrand_compact (k : Nat) (v : Strand) : (s.setStrand k v).compact = s.compact := rfl
@[simp] theorem State.setStrand_preempt (k : Nat) (v : Strand) : (s.setStrand k v).preempt = s.preempt := rfl
@[simp] theorem State.setStrand_pairs (k : Nat) (v : Strand) : (s.setStrand k v).pairs = s.pairs := rfl
@[simp] theorem State.setStrand_reserve (k : Nat) (v : Strand) : (s.setStrand k v).reserve = s.reserve := rfl
@[simp] theorem State.setStrand_turns (k : Nat) (v : Strand) : (s.setStrand k v).turns = s.turns := rfl
@[simp] theorem State.setStrand_compactWait (k : Nat) (v : Strand) : (s.setStrand k v).compactWait = s.compactWait := rfl
@[simp] theorem State.setStrand_ageBound (k : Nat) (v : Strand) : (s.setStrand k v).ageBound = s.ageBound := rfl
@[simp] theorem State.setStrand_preemptDl (k : Nat) (v : Strand) : (s.setStrand k v).preemptDl = s.preemptDl := rfl
@[simp] theorem State.setStrand_preemptLimit (k : Nat) (v : Strand) : (s.setStrand k v).preemptLimit = s.preemptLimit := rfl
@[simp] theorem State.setStrand_estQrate (k : Nat) (v : Strand) : (s.setStrand k v).estQrate = s.estQrate := rfl
@[simp] theorem State.setStrand_estSrate (k : Nat) (v : Strand) : (s.setStrand k v).estSrate = s.estSrate := rfl
@[simp] theorem State.setStrand_links (k : Nat) (v : Strand) : (s.setStrand k v).links = s.links := rfl
@[simp] theorem State.setStrand_table (k : Nat) (v : Strand) : (s.setStrand k v).table = s.table := rfl
@[simp] theorem State.setStrand_lgen (k : Nat) (v : Strand) : (s.setStrand k v).lgen = s.lgen := rfl
@[simp] theorem State.setStrand_trained (k : Nat) (v : Strand) : (s.setStrand k v).trained = s.trained := rfl
@[simp] theorem State.setStrand_aligned (k : Nat) (v : Strand) : (s.setStrand k v).aligned = s.aligned := rfl
@[simp] theorem State.setStrand_oref (k : Nat) (v : Strand) : (s.setStrand k v).oref = s.oref := rfl
@[simp] theorem State.setStrand_offCount (k : Nat) (v : Strand) : (s.setStrand k v).offCount = s.offCount := rfl
@[simp] theorem State.setStrand_losses (k : Nat) (v : Strand) : (s.setStrand k v).losses = s.losses := rfl
@[simp] theorem State.setStrand_okCount (k : Nat) (v : Strand) : (s.setStrand k v).okCount = s.okCount := rfl
@[simp] theorem State.setStrand_holdLeft (k : Nat) (v : Strand) : (s.setStrand k v).holdLeft = s.holdLeft := rfl
@[simp] theorem State.setStrand_fastPll (k : Nat) (v : Strand) : (s.setStrand k v).fastPll = s.fastPll := rfl
@[simp] theorem State.setStrand_loaded (k : Nat) (v : Strand) : (s.setStrand k v).loaded = s.loaded := rfl
@[simp] theorem State.setStrand_loadedAt (k : Nat) (v : Strand) : (s.setStrand k v).loadedAt = s.loadedAt := rfl
@[simp] theorem State.setStrand_alignOut (k : Nat) (v : Strand) : (s.setStrand k v).alignOut = s.alignOut := rfl
@[simp] theorem State.setStrand_routers (k : Nat) (v : Strand) : (s.setStrand k v).routers = s.routers := rfl
@[simp] theorem State.setStrand_bridges (k : Nat) (v : Strand) : (s.setStrand k v).bridges = s.bridges := rfl
@[simp] theorem State.setStrand_linkTabs (k : Nat) (v : Strand) : (s.setStrand k v).linkTabs = s.linkTabs := rfl
@[simp] theorem State.setStrand_rerr (k : Nat) (v : Strand) : (s.setStrand k v).rerr = s.rerr := rfl
@[simp] theorem State.setStrand_flits (k : Nat) (v : Strand) : (s.setStrand k v).flits = s.flits := rfl
@[simp] theorem State.setStrand_lostFlits (k : Nat) (v : Strand) : (s.setStrand k v).lostFlits = s.lostFlits := rfl
@[simp] theorem State.setStrand_remoteSeq (k : Nat) (v : Strand) : (s.setStrand k v).remoteSeq = s.remoteSeq := rfl
@[simp] theorem State.setStrand_post (k : Nat) (v : Strand) : (s.setStrand k v).post = s.post := rfl
@[simp] theorem State.setStrand_remotes (k : Nat) (v : Strand) : (s.setStrand k v).remotes = s.remotes := rfl
@[simp] theorem State.setStrand_wanted (k : Nat) (v : Strand) : (s.setStrand k v).wanted = s.wanted := rfl
@[simp] theorem State.setStrand_codeStores (k : Nat) (v : Strand) : (s.setStrand k v).codeStores = s.codeStores := rfl
@[simp] theorem State.setStrand_synced (k : Nat) (v : Strand) : (s.setStrand k v).synced = s.synced := rfl
@[simp] theorem State.setStrand_arming (k : Nat) (v : Strand) : (s.setStrand k v).arming = s.arming := rfl
@[simp] theorem State.setStrand_lateBytes (k : Nat) (v : Strand) : (s.setStrand k v).lateBytes = s.lateBytes := rfl
@[simp] theorem State.setStrand_routines (k : Nat) (v : Strand) : (s.setStrand k v).routines = s.routines := rfl
@[simp] theorem State.setStrand_harts (k : Nat) (v : Strand) : (s.setStrand k v).harts = s.harts := rfl
@[simp] theorem State.setStrand_served (k : Nat) (v : Strand) : (s.setStrand k v).served = s.served := rfl
@[simp] theorem State.setStrand_firmware (k : Nat) (v : Strand) : (s.setStrand k v).firmware = s.firmware := rfl
@[simp] theorem State.setStrand_identity (k : Nat) (v : Strand) : (s.setStrand k v).identity = s.identity := rfl
@[simp] theorem State.setStrand_mule (k : Nat) (v : Strand) : (s.setStrand k v).mule = s.mule := rfl
@[simp] theorem State.setStrand_muleDown (k : Nat) (v : Strand) : (s.setStrand k v).muleDown = s.muleDown := rfl
@[simp] theorem State.setStrand_sram (k : Nat) (v : Strand) : (s.setStrand k v).sram = s.sram := rfl
@[simp] theorem State.setStrand_sramBase (k : Nat) (v : Strand) : (s.setStrand k v).sramBase = s.sramBase := rfl
@[simp] theorem State.setStrand_sramLen (k : Nat) (v : Strand) : (s.setStrand k v).sramLen = s.sramLen := rfl
@[simp] theorem State.setStrand_rotate (k : Nat) (v : Strand) : (s.setStrand k v).rotate = s.rotate := rfl
@[simp] theorem State.setStrand_bulks (k : Nat) (v : Strand) : (s.setStrand k v).bulks = s.bulks := rfl
@[simp] theorem State.setStrand_errlog (k : Nat) (v : Strand) : (s.setStrand k v).errlog = s.errlog := rfl
@[simp] theorem State.setStrand_lifecycle (k : Nat) (v : Strand) : (s.setStrand k v).lifecycle = s.lifecycle := rfl
@[simp] theorem State.setStrand_bringup (k : Nat) (v : Strand) : (s.setStrand k v).bringup = s.bringup := rfl
@[simp] theorem State.setStrand_secded (k : Nat) (v : Strand) : (s.setStrand k v).secded = s.secded := rfl
@[simp] theorem State.setStrand_choices (k : Nat) (v : Strand) : (s.setStrand k v).choices = s.choices := rfl
@[simp] theorem State.setStrand_cur (k : Nat) (v : Strand) : (s.setStrand k v).cur = s.cur := rfl
@[simp] theorem State.setStrand_todo (k : Nat) (v : Strand) : (s.setStrand k v).todo = s.todo := rfl
@[simp] theorem State.setStrand_stage (k : Nat) (v : Strand) : (s.setStrand k v).stage = s.stage := rfl
@[simp] theorem State.setStrand_agenda (k : Nat) (v : Strand) : (s.setStrand k v).agenda = s.agenda := rfl
@[simp] theorem State.setStrand_landed (k : Nat) (v : Strand) : (s.setStrand k v).landed = s.landed := rfl
@[simp] theorem State.setStrand_outbox (k : Nat) (v : Strand) : (s.setStrand k v).outbox = s.outbox := rfl
@[simp] theorem State.setStrand_tt (k : Nat) (j : Nat) (v : Strand) : (s.setStrand k v).tt j = s.tt j := rfl
@[simp] theorem State.setStrand_tenant (k : Nat) (j : Nat) (v : Strand) : (s.setStrand k v).tenant j = s.tenant j := rfl
@[simp] theorem State.setStrand_func (k : Nat) (j : Nat) (v : Strand) : (s.setStrand k v).func j = s.func j := rfl
@[simp] theorem State.setStrand_hen (k : Nat) (j : Nat) (v : Strand) : (s.setStrand k v).hen j = s.hen j := rfl
@[simp] theorem State.setStrand_hart (k : Nat) (j : Fin 32) (v : Strand) : (s.setStrand k v).hart j = s.hart j := rfl
@[simp] theorem State.setStrand_job (k : Nat) (j : Nat) (v : Strand) : (s.setStrand k v).job j = s.job j := rfl

/-! ### setTt -/

@[simp] theorem State.setTt_gclk (k : Nat) (v : Timetable) : (s.setTt k v).gclk = s.gclk := rfl
@[simp] theorem State.setTt_pkg (k : Nat) (v : Timetable) : (s.setTt k v).pkg = s.pkg := rfl
@[simp] theorem State.setTt_mem (k : Nat) (v : Timetable) : (s.setTt k v).mem = s.mem := rfl
@[simp] theorem State.setTt_strands (k : Nat) (v : Timetable) : (s.setTt k v).strands = s.strands := rfl
@[simp] theorem State.setTt_tts (k : Nat) (v : Timetable) : (s.setTt k v).tts = SMap.set Timetable.blank s.tts k v := rfl
@[simp] theorem State.setTt_nextTt (k : Nat) (v : Timetable) : (s.setTt k v).nextTt = s.nextTt := rfl
@[simp] theorem State.setTt_gates (k : Nat) (v : Timetable) : (s.setTt k v).gates = s.gates := rfl
@[simp] theorem State.setTt_hens (k : Nat) (v : Timetable) : (s.setTt k v).hens = s.hens := rfl
@[simp] theorem State.setTt_replays (k : Nat) (v : Timetable) : (s.setTt k v).replays = s.replays := rfl
@[simp] theorem State.setTt_ports (k : Nat) (v : Timetable) : (s.setTt k v).ports = s.ports := rfl
@[simp] theorem State.setTt_xlat (k : Nat) (v : Timetable) : (s.setTt k v).xlat = s.xlat := rfl
@[simp] theorem State.setTt_farLines (k : Nat) (v : Timetable) : (s.setTt k v).farLines = s.farLines := rfl
@[simp] theorem State.setTt_asks (k : Nat) (v : Timetable) : (s.setTt k v).asks = s.asks := rfl
@[simp] theorem State.setTt_jobs (k : Nat) (v : Timetable) : (s.setTt k v).jobs = s.jobs := rfl
@[simp] theorem State.setTt_nextJob (k : Nat) (v : Timetable) : (s.setTt k v).nextJob = s.nextJob := rfl
@[simp] theorem State.setTt_colls (k : Nat) (v : Timetable) : (s.setTt k v).colls = s.colls := rfl
@[simp] theorem State.setTt_tenants (k : Nat) (v : Timetable) : (s.setTt k v).tenants = s.tenants := rfl
@[simp] theorem State.setTt_keys (k : Nat) (v : Timetable) : (s.setTt k v).keys = s.keys := rfl
@[simp] theorem State.setTt_funcs (k : Nat) (v : Timetable) : (s.setTt k v).funcs = s.funcs := rfl
@[simp] theorem State.setTt_launches (k : Nat) (v : Timetable) : (s.setTt k v).launches = s.launches := rfl
@[simp] theorem State.setTt_nextLaunch (k : Nat) (v : Timetable) : (s.setTt k v).nextLaunch = s.nextLaunch := rfl
@[simp] theorem State.setTt_requests (k : Nat) (v : Timetable) : (s.setTt k v).requests = s.requests := rfl
@[simp] theorem State.setTt_nextReq (k : Nat) (v : Timetable) : (s.setTt k v).nextReq = s.nextReq := rfl
@[simp] theorem State.setTt_compact (k : Nat) (v : Timetable) : (s.setTt k v).compact = s.compact := rfl
@[simp] theorem State.setTt_preempt (k : Nat) (v : Timetable) : (s.setTt k v).preempt = s.preempt := rfl
@[simp] theorem State.setTt_pairs (k : Nat) (v : Timetable) : (s.setTt k v).pairs = s.pairs := rfl
@[simp] theorem State.setTt_reserve (k : Nat) (v : Timetable) : (s.setTt k v).reserve = s.reserve := rfl
@[simp] theorem State.setTt_turns (k : Nat) (v : Timetable) : (s.setTt k v).turns = s.turns := rfl
@[simp] theorem State.setTt_compactWait (k : Nat) (v : Timetable) : (s.setTt k v).compactWait = s.compactWait := rfl
@[simp] theorem State.setTt_ageBound (k : Nat) (v : Timetable) : (s.setTt k v).ageBound = s.ageBound := rfl
@[simp] theorem State.setTt_preemptDl (k : Nat) (v : Timetable) : (s.setTt k v).preemptDl = s.preemptDl := rfl
@[simp] theorem State.setTt_preemptLimit (k : Nat) (v : Timetable) : (s.setTt k v).preemptLimit = s.preemptLimit := rfl
@[simp] theorem State.setTt_estQrate (k : Nat) (v : Timetable) : (s.setTt k v).estQrate = s.estQrate := rfl
@[simp] theorem State.setTt_estSrate (k : Nat) (v : Timetable) : (s.setTt k v).estSrate = s.estSrate := rfl
@[simp] theorem State.setTt_links (k : Nat) (v : Timetable) : (s.setTt k v).links = s.links := rfl
@[simp] theorem State.setTt_table (k : Nat) (v : Timetable) : (s.setTt k v).table = s.table := rfl
@[simp] theorem State.setTt_lgen (k : Nat) (v : Timetable) : (s.setTt k v).lgen = s.lgen := rfl
@[simp] theorem State.setTt_trained (k : Nat) (v : Timetable) : (s.setTt k v).trained = s.trained := rfl
@[simp] theorem State.setTt_aligned (k : Nat) (v : Timetable) : (s.setTt k v).aligned = s.aligned := rfl
@[simp] theorem State.setTt_oref (k : Nat) (v : Timetable) : (s.setTt k v).oref = s.oref := rfl
@[simp] theorem State.setTt_offCount (k : Nat) (v : Timetable) : (s.setTt k v).offCount = s.offCount := rfl
@[simp] theorem State.setTt_losses (k : Nat) (v : Timetable) : (s.setTt k v).losses = s.losses := rfl
@[simp] theorem State.setTt_okCount (k : Nat) (v : Timetable) : (s.setTt k v).okCount = s.okCount := rfl
@[simp] theorem State.setTt_holdLeft (k : Nat) (v : Timetable) : (s.setTt k v).holdLeft = s.holdLeft := rfl
@[simp] theorem State.setTt_fastPll (k : Nat) (v : Timetable) : (s.setTt k v).fastPll = s.fastPll := rfl
@[simp] theorem State.setTt_loaded (k : Nat) (v : Timetable) : (s.setTt k v).loaded = s.loaded := rfl
@[simp] theorem State.setTt_loadedAt (k : Nat) (v : Timetable) : (s.setTt k v).loadedAt = s.loadedAt := rfl
@[simp] theorem State.setTt_alignOut (k : Nat) (v : Timetable) : (s.setTt k v).alignOut = s.alignOut := rfl
@[simp] theorem State.setTt_routers (k : Nat) (v : Timetable) : (s.setTt k v).routers = s.routers := rfl
@[simp] theorem State.setTt_bridges (k : Nat) (v : Timetable) : (s.setTt k v).bridges = s.bridges := rfl
@[simp] theorem State.setTt_linkTabs (k : Nat) (v : Timetable) : (s.setTt k v).linkTabs = s.linkTabs := rfl
@[simp] theorem State.setTt_rerr (k : Nat) (v : Timetable) : (s.setTt k v).rerr = s.rerr := rfl
@[simp] theorem State.setTt_flits (k : Nat) (v : Timetable) : (s.setTt k v).flits = s.flits := rfl
@[simp] theorem State.setTt_lostFlits (k : Nat) (v : Timetable) : (s.setTt k v).lostFlits = s.lostFlits := rfl
@[simp] theorem State.setTt_remoteSeq (k : Nat) (v : Timetable) : (s.setTt k v).remoteSeq = s.remoteSeq := rfl
@[simp] theorem State.setTt_post (k : Nat) (v : Timetable) : (s.setTt k v).post = s.post := rfl
@[simp] theorem State.setTt_remotes (k : Nat) (v : Timetable) : (s.setTt k v).remotes = s.remotes := rfl
@[simp] theorem State.setTt_wanted (k : Nat) (v : Timetable) : (s.setTt k v).wanted = s.wanted := rfl
@[simp] theorem State.setTt_codeStores (k : Nat) (v : Timetable) : (s.setTt k v).codeStores = s.codeStores := rfl
@[simp] theorem State.setTt_synced (k : Nat) (v : Timetable) : (s.setTt k v).synced = s.synced := rfl
@[simp] theorem State.setTt_arming (k : Nat) (v : Timetable) : (s.setTt k v).arming = s.arming := rfl
@[simp] theorem State.setTt_lateBytes (k : Nat) (v : Timetable) : (s.setTt k v).lateBytes = s.lateBytes := rfl
@[simp] theorem State.setTt_routines (k : Nat) (v : Timetable) : (s.setTt k v).routines = s.routines := rfl
@[simp] theorem State.setTt_harts (k : Nat) (v : Timetable) : (s.setTt k v).harts = s.harts := rfl
@[simp] theorem State.setTt_served (k : Nat) (v : Timetable) : (s.setTt k v).served = s.served := rfl
@[simp] theorem State.setTt_firmware (k : Nat) (v : Timetable) : (s.setTt k v).firmware = s.firmware := rfl
@[simp] theorem State.setTt_identity (k : Nat) (v : Timetable) : (s.setTt k v).identity = s.identity := rfl
@[simp] theorem State.setTt_mule (k : Nat) (v : Timetable) : (s.setTt k v).mule = s.mule := rfl
@[simp] theorem State.setTt_muleDown (k : Nat) (v : Timetable) : (s.setTt k v).muleDown = s.muleDown := rfl
@[simp] theorem State.setTt_sram (k : Nat) (v : Timetable) : (s.setTt k v).sram = s.sram := rfl
@[simp] theorem State.setTt_sramBase (k : Nat) (v : Timetable) : (s.setTt k v).sramBase = s.sramBase := rfl
@[simp] theorem State.setTt_sramLen (k : Nat) (v : Timetable) : (s.setTt k v).sramLen = s.sramLen := rfl
@[simp] theorem State.setTt_rotate (k : Nat) (v : Timetable) : (s.setTt k v).rotate = s.rotate := rfl
@[simp] theorem State.setTt_bulks (k : Nat) (v : Timetable) : (s.setTt k v).bulks = s.bulks := rfl
@[simp] theorem State.setTt_errlog (k : Nat) (v : Timetable) : (s.setTt k v).errlog = s.errlog := rfl
@[simp] theorem State.setTt_lifecycle (k : Nat) (v : Timetable) : (s.setTt k v).lifecycle = s.lifecycle := rfl
@[simp] theorem State.setTt_bringup (k : Nat) (v : Timetable) : (s.setTt k v).bringup = s.bringup := rfl
@[simp] theorem State.setTt_secded (k : Nat) (v : Timetable) : (s.setTt k v).secded = s.secded := rfl
@[simp] theorem State.setTt_choices (k : Nat) (v : Timetable) : (s.setTt k v).choices = s.choices := rfl
@[simp] theorem State.setTt_cur (k : Nat) (v : Timetable) : (s.setTt k v).cur = s.cur := rfl
@[simp] theorem State.setTt_todo (k : Nat) (v : Timetable) : (s.setTt k v).todo = s.todo := rfl
@[simp] theorem State.setTt_stage (k : Nat) (v : Timetable) : (s.setTt k v).stage = s.stage := rfl
@[simp] theorem State.setTt_agenda (k : Nat) (v : Timetable) : (s.setTt k v).agenda = s.agenda := rfl
@[simp] theorem State.setTt_landed (k : Nat) (v : Timetable) : (s.setTt k v).landed = s.landed := rfl
@[simp] theorem State.setTt_outbox (k : Nat) (v : Timetable) : (s.setTt k v).outbox = s.outbox := rfl
@[simp] theorem State.setTt_strand (k : Nat) (j : Nat) (v : Timetable) : (s.setTt k v).strand j = s.strand j := rfl
@[simp] theorem State.setTt_tenant (k : Nat) (j : Nat) (v : Timetable) : (s.setTt k v).tenant j = s.tenant j := rfl
@[simp] theorem State.setTt_func (k : Nat) (j : Nat) (v : Timetable) : (s.setTt k v).func j = s.func j := rfl
@[simp] theorem State.setTt_hen (k : Nat) (j : Nat) (v : Timetable) : (s.setTt k v).hen j = s.hen j := rfl
@[simp] theorem State.setTt_hart (k : Nat) (j : Fin 32) (v : Timetable) : (s.setTt k v).hart j = s.hart j := rfl
@[simp] theorem State.setTt_job (k : Nat) (j : Nat) (v : Timetable) : (s.setTt k v).job j = s.job j := rfl

/-! ### setTenant -/

@[simp] theorem State.setTenant_gclk (k : Nat) (v : Tenant) : (s.setTenant k v).gclk = s.gclk := rfl
@[simp] theorem State.setTenant_pkg (k : Nat) (v : Tenant) : (s.setTenant k v).pkg = s.pkg := rfl
@[simp] theorem State.setTenant_mem (k : Nat) (v : Tenant) : (s.setTenant k v).mem = s.mem := rfl
@[simp] theorem State.setTenant_strands (k : Nat) (v : Tenant) : (s.setTenant k v).strands = s.strands := rfl
@[simp] theorem State.setTenant_tts (k : Nat) (v : Tenant) : (s.setTenant k v).tts = s.tts := rfl
@[simp] theorem State.setTenant_nextTt (k : Nat) (v : Tenant) : (s.setTenant k v).nextTt = s.nextTt := rfl
@[simp] theorem State.setTenant_gates (k : Nat) (v : Tenant) : (s.setTenant k v).gates = s.gates := rfl
@[simp] theorem State.setTenant_hens (k : Nat) (v : Tenant) : (s.setTenant k v).hens = s.hens := rfl
@[simp] theorem State.setTenant_replays (k : Nat) (v : Tenant) : (s.setTenant k v).replays = s.replays := rfl
@[simp] theorem State.setTenant_ports (k : Nat) (v : Tenant) : (s.setTenant k v).ports = s.ports := rfl
@[simp] theorem State.setTenant_xlat (k : Nat) (v : Tenant) : (s.setTenant k v).xlat = s.xlat := rfl
@[simp] theorem State.setTenant_farLines (k : Nat) (v : Tenant) : (s.setTenant k v).farLines = s.farLines := rfl
@[simp] theorem State.setTenant_asks (k : Nat) (v : Tenant) : (s.setTenant k v).asks = s.asks := rfl
@[simp] theorem State.setTenant_jobs (k : Nat) (v : Tenant) : (s.setTenant k v).jobs = s.jobs := rfl
@[simp] theorem State.setTenant_nextJob (k : Nat) (v : Tenant) : (s.setTenant k v).nextJob = s.nextJob := rfl
@[simp] theorem State.setTenant_colls (k : Nat) (v : Tenant) : (s.setTenant k v).colls = s.colls := rfl
@[simp] theorem State.setTenant_tenants (k : Nat) (v : Tenant) : (s.setTenant k v).tenants = SMap.set Tenant.none s.tenants k v := rfl
@[simp] theorem State.setTenant_keys (k : Nat) (v : Tenant) : (s.setTenant k v).keys = s.keys := rfl
@[simp] theorem State.setTenant_funcs (k : Nat) (v : Tenant) : (s.setTenant k v).funcs = s.funcs := rfl
@[simp] theorem State.setTenant_launches (k : Nat) (v : Tenant) : (s.setTenant k v).launches = s.launches := rfl
@[simp] theorem State.setTenant_nextLaunch (k : Nat) (v : Tenant) : (s.setTenant k v).nextLaunch = s.nextLaunch := rfl
@[simp] theorem State.setTenant_requests (k : Nat) (v : Tenant) : (s.setTenant k v).requests = s.requests := rfl
@[simp] theorem State.setTenant_nextReq (k : Nat) (v : Tenant) : (s.setTenant k v).nextReq = s.nextReq := rfl
@[simp] theorem State.setTenant_compact (k : Nat) (v : Tenant) : (s.setTenant k v).compact = s.compact := rfl
@[simp] theorem State.setTenant_preempt (k : Nat) (v : Tenant) : (s.setTenant k v).preempt = s.preempt := rfl
@[simp] theorem State.setTenant_pairs (k : Nat) (v : Tenant) : (s.setTenant k v).pairs = s.pairs := rfl
@[simp] theorem State.setTenant_reserve (k : Nat) (v : Tenant) : (s.setTenant k v).reserve = s.reserve := rfl
@[simp] theorem State.setTenant_turns (k : Nat) (v : Tenant) : (s.setTenant k v).turns = s.turns := rfl
@[simp] theorem State.setTenant_compactWait (k : Nat) (v : Tenant) : (s.setTenant k v).compactWait = s.compactWait := rfl
@[simp] theorem State.setTenant_ageBound (k : Nat) (v : Tenant) : (s.setTenant k v).ageBound = s.ageBound := rfl
@[simp] theorem State.setTenant_preemptDl (k : Nat) (v : Tenant) : (s.setTenant k v).preemptDl = s.preemptDl := rfl
@[simp] theorem State.setTenant_preemptLimit (k : Nat) (v : Tenant) : (s.setTenant k v).preemptLimit = s.preemptLimit := rfl
@[simp] theorem State.setTenant_estQrate (k : Nat) (v : Tenant) : (s.setTenant k v).estQrate = s.estQrate := rfl
@[simp] theorem State.setTenant_estSrate (k : Nat) (v : Tenant) : (s.setTenant k v).estSrate = s.estSrate := rfl
@[simp] theorem State.setTenant_links (k : Nat) (v : Tenant) : (s.setTenant k v).links = s.links := rfl
@[simp] theorem State.setTenant_table (k : Nat) (v : Tenant) : (s.setTenant k v).table = s.table := rfl
@[simp] theorem State.setTenant_lgen (k : Nat) (v : Tenant) : (s.setTenant k v).lgen = s.lgen := rfl
@[simp] theorem State.setTenant_trained (k : Nat) (v : Tenant) : (s.setTenant k v).trained = s.trained := rfl
@[simp] theorem State.setTenant_aligned (k : Nat) (v : Tenant) : (s.setTenant k v).aligned = s.aligned := rfl
@[simp] theorem State.setTenant_oref (k : Nat) (v : Tenant) : (s.setTenant k v).oref = s.oref := rfl
@[simp] theorem State.setTenant_offCount (k : Nat) (v : Tenant) : (s.setTenant k v).offCount = s.offCount := rfl
@[simp] theorem State.setTenant_losses (k : Nat) (v : Tenant) : (s.setTenant k v).losses = s.losses := rfl
@[simp] theorem State.setTenant_okCount (k : Nat) (v : Tenant) : (s.setTenant k v).okCount = s.okCount := rfl
@[simp] theorem State.setTenant_holdLeft (k : Nat) (v : Tenant) : (s.setTenant k v).holdLeft = s.holdLeft := rfl
@[simp] theorem State.setTenant_fastPll (k : Nat) (v : Tenant) : (s.setTenant k v).fastPll = s.fastPll := rfl
@[simp] theorem State.setTenant_loaded (k : Nat) (v : Tenant) : (s.setTenant k v).loaded = s.loaded := rfl
@[simp] theorem State.setTenant_loadedAt (k : Nat) (v : Tenant) : (s.setTenant k v).loadedAt = s.loadedAt := rfl
@[simp] theorem State.setTenant_alignOut (k : Nat) (v : Tenant) : (s.setTenant k v).alignOut = s.alignOut := rfl
@[simp] theorem State.setTenant_routers (k : Nat) (v : Tenant) : (s.setTenant k v).routers = s.routers := rfl
@[simp] theorem State.setTenant_bridges (k : Nat) (v : Tenant) : (s.setTenant k v).bridges = s.bridges := rfl
@[simp] theorem State.setTenant_linkTabs (k : Nat) (v : Tenant) : (s.setTenant k v).linkTabs = s.linkTabs := rfl
@[simp] theorem State.setTenant_rerr (k : Nat) (v : Tenant) : (s.setTenant k v).rerr = s.rerr := rfl
@[simp] theorem State.setTenant_flits (k : Nat) (v : Tenant) : (s.setTenant k v).flits = s.flits := rfl
@[simp] theorem State.setTenant_lostFlits (k : Nat) (v : Tenant) : (s.setTenant k v).lostFlits = s.lostFlits := rfl
@[simp] theorem State.setTenant_remoteSeq (k : Nat) (v : Tenant) : (s.setTenant k v).remoteSeq = s.remoteSeq := rfl
@[simp] theorem State.setTenant_post (k : Nat) (v : Tenant) : (s.setTenant k v).post = s.post := rfl
@[simp] theorem State.setTenant_remotes (k : Nat) (v : Tenant) : (s.setTenant k v).remotes = s.remotes := rfl
@[simp] theorem State.setTenant_wanted (k : Nat) (v : Tenant) : (s.setTenant k v).wanted = s.wanted := rfl
@[simp] theorem State.setTenant_codeStores (k : Nat) (v : Tenant) : (s.setTenant k v).codeStores = s.codeStores := rfl
@[simp] theorem State.setTenant_synced (k : Nat) (v : Tenant) : (s.setTenant k v).synced = s.synced := rfl
@[simp] theorem State.setTenant_arming (k : Nat) (v : Tenant) : (s.setTenant k v).arming = s.arming := rfl
@[simp] theorem State.setTenant_lateBytes (k : Nat) (v : Tenant) : (s.setTenant k v).lateBytes = s.lateBytes := rfl
@[simp] theorem State.setTenant_routines (k : Nat) (v : Tenant) : (s.setTenant k v).routines = s.routines := rfl
@[simp] theorem State.setTenant_harts (k : Nat) (v : Tenant) : (s.setTenant k v).harts = s.harts := rfl
@[simp] theorem State.setTenant_served (k : Nat) (v : Tenant) : (s.setTenant k v).served = s.served := rfl
@[simp] theorem State.setTenant_firmware (k : Nat) (v : Tenant) : (s.setTenant k v).firmware = s.firmware := rfl
@[simp] theorem State.setTenant_identity (k : Nat) (v : Tenant) : (s.setTenant k v).identity = s.identity := rfl
@[simp] theorem State.setTenant_mule (k : Nat) (v : Tenant) : (s.setTenant k v).mule = s.mule := rfl
@[simp] theorem State.setTenant_muleDown (k : Nat) (v : Tenant) : (s.setTenant k v).muleDown = s.muleDown := rfl
@[simp] theorem State.setTenant_sram (k : Nat) (v : Tenant) : (s.setTenant k v).sram = s.sram := rfl
@[simp] theorem State.setTenant_sramBase (k : Nat) (v : Tenant) : (s.setTenant k v).sramBase = s.sramBase := rfl
@[simp] theorem State.setTenant_sramLen (k : Nat) (v : Tenant) : (s.setTenant k v).sramLen = s.sramLen := rfl
@[simp] theorem State.setTenant_rotate (k : Nat) (v : Tenant) : (s.setTenant k v).rotate = s.rotate := rfl
@[simp] theorem State.setTenant_bulks (k : Nat) (v : Tenant) : (s.setTenant k v).bulks = s.bulks := rfl
@[simp] theorem State.setTenant_errlog (k : Nat) (v : Tenant) : (s.setTenant k v).errlog = s.errlog := rfl
@[simp] theorem State.setTenant_lifecycle (k : Nat) (v : Tenant) : (s.setTenant k v).lifecycle = s.lifecycle := rfl
@[simp] theorem State.setTenant_bringup (k : Nat) (v : Tenant) : (s.setTenant k v).bringup = s.bringup := rfl
@[simp] theorem State.setTenant_secded (k : Nat) (v : Tenant) : (s.setTenant k v).secded = s.secded := rfl
@[simp] theorem State.setTenant_choices (k : Nat) (v : Tenant) : (s.setTenant k v).choices = s.choices := rfl
@[simp] theorem State.setTenant_cur (k : Nat) (v : Tenant) : (s.setTenant k v).cur = s.cur := rfl
@[simp] theorem State.setTenant_todo (k : Nat) (v : Tenant) : (s.setTenant k v).todo = s.todo := rfl
@[simp] theorem State.setTenant_stage (k : Nat) (v : Tenant) : (s.setTenant k v).stage = s.stage := rfl
@[simp] theorem State.setTenant_agenda (k : Nat) (v : Tenant) : (s.setTenant k v).agenda = s.agenda := rfl
@[simp] theorem State.setTenant_landed (k : Nat) (v : Tenant) : (s.setTenant k v).landed = s.landed := rfl
@[simp] theorem State.setTenant_outbox (k : Nat) (v : Tenant) : (s.setTenant k v).outbox = s.outbox := rfl
@[simp] theorem State.setTenant_strand (k : Nat) (j : Nat) (v : Tenant) : (s.setTenant k v).strand j = s.strand j := rfl
@[simp] theorem State.setTenant_tt (k : Nat) (j : Nat) (v : Tenant) : (s.setTenant k v).tt j = s.tt j := rfl
@[simp] theorem State.setTenant_func (k : Nat) (j : Nat) (v : Tenant) : (s.setTenant k v).func j = s.func j := rfl
@[simp] theorem State.setTenant_hen (k : Nat) (j : Nat) (v : Tenant) : (s.setTenant k v).hen j = s.hen j := rfl
@[simp] theorem State.setTenant_hart (k : Nat) (j : Fin 32) (v : Tenant) : (s.setTenant k v).hart j = s.hart j := rfl
@[simp] theorem State.setTenant_job (k : Nat) (j : Nat) (v : Tenant) : (s.setTenant k v).job j = s.job j := rfl

/-! ### setFunc -/

@[simp] theorem State.setFunc_gclk (k : Nat) (v : Func) : (s.setFunc k v).gclk = s.gclk := rfl
@[simp] theorem State.setFunc_pkg (k : Nat) (v : Func) : (s.setFunc k v).pkg = s.pkg := rfl
@[simp] theorem State.setFunc_mem (k : Nat) (v : Func) : (s.setFunc k v).mem = s.mem := rfl
@[simp] theorem State.setFunc_strands (k : Nat) (v : Func) : (s.setFunc k v).strands = s.strands := rfl
@[simp] theorem State.setFunc_tts (k : Nat) (v : Func) : (s.setFunc k v).tts = s.tts := rfl
@[simp] theorem State.setFunc_nextTt (k : Nat) (v : Func) : (s.setFunc k v).nextTt = s.nextTt := rfl
@[simp] theorem State.setFunc_gates (k : Nat) (v : Func) : (s.setFunc k v).gates = s.gates := rfl
@[simp] theorem State.setFunc_hens (k : Nat) (v : Func) : (s.setFunc k v).hens = s.hens := rfl
@[simp] theorem State.setFunc_replays (k : Nat) (v : Func) : (s.setFunc k v).replays = s.replays := rfl
@[simp] theorem State.setFunc_ports (k : Nat) (v : Func) : (s.setFunc k v).ports = s.ports := rfl
@[simp] theorem State.setFunc_xlat (k : Nat) (v : Func) : (s.setFunc k v).xlat = s.xlat := rfl
@[simp] theorem State.setFunc_farLines (k : Nat) (v : Func) : (s.setFunc k v).farLines = s.farLines := rfl
@[simp] theorem State.setFunc_asks (k : Nat) (v : Func) : (s.setFunc k v).asks = s.asks := rfl
@[simp] theorem State.setFunc_jobs (k : Nat) (v : Func) : (s.setFunc k v).jobs = s.jobs := rfl
@[simp] theorem State.setFunc_nextJob (k : Nat) (v : Func) : (s.setFunc k v).nextJob = s.nextJob := rfl
@[simp] theorem State.setFunc_colls (k : Nat) (v : Func) : (s.setFunc k v).colls = s.colls := rfl
@[simp] theorem State.setFunc_tenants (k : Nat) (v : Func) : (s.setFunc k v).tenants = s.tenants := rfl
@[simp] theorem State.setFunc_keys (k : Nat) (v : Func) : (s.setFunc k v).keys = s.keys := rfl
@[simp] theorem State.setFunc_funcs (k : Nat) (v : Func) : (s.setFunc k v).funcs = SMap.set Func.off s.funcs k v := rfl
@[simp] theorem State.setFunc_launches (k : Nat) (v : Func) : (s.setFunc k v).launches = s.launches := rfl
@[simp] theorem State.setFunc_nextLaunch (k : Nat) (v : Func) : (s.setFunc k v).nextLaunch = s.nextLaunch := rfl
@[simp] theorem State.setFunc_requests (k : Nat) (v : Func) : (s.setFunc k v).requests = s.requests := rfl
@[simp] theorem State.setFunc_nextReq (k : Nat) (v : Func) : (s.setFunc k v).nextReq = s.nextReq := rfl
@[simp] theorem State.setFunc_compact (k : Nat) (v : Func) : (s.setFunc k v).compact = s.compact := rfl
@[simp] theorem State.setFunc_preempt (k : Nat) (v : Func) : (s.setFunc k v).preempt = s.preempt := rfl
@[simp] theorem State.setFunc_pairs (k : Nat) (v : Func) : (s.setFunc k v).pairs = s.pairs := rfl
@[simp] theorem State.setFunc_reserve (k : Nat) (v : Func) : (s.setFunc k v).reserve = s.reserve := rfl
@[simp] theorem State.setFunc_turns (k : Nat) (v : Func) : (s.setFunc k v).turns = s.turns := rfl
@[simp] theorem State.setFunc_compactWait (k : Nat) (v : Func) : (s.setFunc k v).compactWait = s.compactWait := rfl
@[simp] theorem State.setFunc_ageBound (k : Nat) (v : Func) : (s.setFunc k v).ageBound = s.ageBound := rfl
@[simp] theorem State.setFunc_preemptDl (k : Nat) (v : Func) : (s.setFunc k v).preemptDl = s.preemptDl := rfl
@[simp] theorem State.setFunc_preemptLimit (k : Nat) (v : Func) : (s.setFunc k v).preemptLimit = s.preemptLimit := rfl
@[simp] theorem State.setFunc_estQrate (k : Nat) (v : Func) : (s.setFunc k v).estQrate = s.estQrate := rfl
@[simp] theorem State.setFunc_estSrate (k : Nat) (v : Func) : (s.setFunc k v).estSrate = s.estSrate := rfl
@[simp] theorem State.setFunc_links (k : Nat) (v : Func) : (s.setFunc k v).links = s.links := rfl
@[simp] theorem State.setFunc_table (k : Nat) (v : Func) : (s.setFunc k v).table = s.table := rfl
@[simp] theorem State.setFunc_lgen (k : Nat) (v : Func) : (s.setFunc k v).lgen = s.lgen := rfl
@[simp] theorem State.setFunc_trained (k : Nat) (v : Func) : (s.setFunc k v).trained = s.trained := rfl
@[simp] theorem State.setFunc_aligned (k : Nat) (v : Func) : (s.setFunc k v).aligned = s.aligned := rfl
@[simp] theorem State.setFunc_oref (k : Nat) (v : Func) : (s.setFunc k v).oref = s.oref := rfl
@[simp] theorem State.setFunc_offCount (k : Nat) (v : Func) : (s.setFunc k v).offCount = s.offCount := rfl
@[simp] theorem State.setFunc_losses (k : Nat) (v : Func) : (s.setFunc k v).losses = s.losses := rfl
@[simp] theorem State.setFunc_okCount (k : Nat) (v : Func) : (s.setFunc k v).okCount = s.okCount := rfl
@[simp] theorem State.setFunc_holdLeft (k : Nat) (v : Func) : (s.setFunc k v).holdLeft = s.holdLeft := rfl
@[simp] theorem State.setFunc_fastPll (k : Nat) (v : Func) : (s.setFunc k v).fastPll = s.fastPll := rfl
@[simp] theorem State.setFunc_loaded (k : Nat) (v : Func) : (s.setFunc k v).loaded = s.loaded := rfl
@[simp] theorem State.setFunc_loadedAt (k : Nat) (v : Func) : (s.setFunc k v).loadedAt = s.loadedAt := rfl
@[simp] theorem State.setFunc_alignOut (k : Nat) (v : Func) : (s.setFunc k v).alignOut = s.alignOut := rfl
@[simp] theorem State.setFunc_routers (k : Nat) (v : Func) : (s.setFunc k v).routers = s.routers := rfl
@[simp] theorem State.setFunc_bridges (k : Nat) (v : Func) : (s.setFunc k v).bridges = s.bridges := rfl
@[simp] theorem State.setFunc_linkTabs (k : Nat) (v : Func) : (s.setFunc k v).linkTabs = s.linkTabs := rfl
@[simp] theorem State.setFunc_rerr (k : Nat) (v : Func) : (s.setFunc k v).rerr = s.rerr := rfl
@[simp] theorem State.setFunc_flits (k : Nat) (v : Func) : (s.setFunc k v).flits = s.flits := rfl
@[simp] theorem State.setFunc_lostFlits (k : Nat) (v : Func) : (s.setFunc k v).lostFlits = s.lostFlits := rfl
@[simp] theorem State.setFunc_remoteSeq (k : Nat) (v : Func) : (s.setFunc k v).remoteSeq = s.remoteSeq := rfl
@[simp] theorem State.setFunc_post (k : Nat) (v : Func) : (s.setFunc k v).post = s.post := rfl
@[simp] theorem State.setFunc_remotes (k : Nat) (v : Func) : (s.setFunc k v).remotes = s.remotes := rfl
@[simp] theorem State.setFunc_wanted (k : Nat) (v : Func) : (s.setFunc k v).wanted = s.wanted := rfl
@[simp] theorem State.setFunc_codeStores (k : Nat) (v : Func) : (s.setFunc k v).codeStores = s.codeStores := rfl
@[simp] theorem State.setFunc_synced (k : Nat) (v : Func) : (s.setFunc k v).synced = s.synced := rfl
@[simp] theorem State.setFunc_arming (k : Nat) (v : Func) : (s.setFunc k v).arming = s.arming := rfl
@[simp] theorem State.setFunc_lateBytes (k : Nat) (v : Func) : (s.setFunc k v).lateBytes = s.lateBytes := rfl
@[simp] theorem State.setFunc_routines (k : Nat) (v : Func) : (s.setFunc k v).routines = s.routines := rfl
@[simp] theorem State.setFunc_harts (k : Nat) (v : Func) : (s.setFunc k v).harts = s.harts := rfl
@[simp] theorem State.setFunc_served (k : Nat) (v : Func) : (s.setFunc k v).served = s.served := rfl
@[simp] theorem State.setFunc_firmware (k : Nat) (v : Func) : (s.setFunc k v).firmware = s.firmware := rfl
@[simp] theorem State.setFunc_identity (k : Nat) (v : Func) : (s.setFunc k v).identity = s.identity := rfl
@[simp] theorem State.setFunc_mule (k : Nat) (v : Func) : (s.setFunc k v).mule = s.mule := rfl
@[simp] theorem State.setFunc_muleDown (k : Nat) (v : Func) : (s.setFunc k v).muleDown = s.muleDown := rfl
@[simp] theorem State.setFunc_sram (k : Nat) (v : Func) : (s.setFunc k v).sram = s.sram := rfl
@[simp] theorem State.setFunc_sramBase (k : Nat) (v : Func) : (s.setFunc k v).sramBase = s.sramBase := rfl
@[simp] theorem State.setFunc_sramLen (k : Nat) (v : Func) : (s.setFunc k v).sramLen = s.sramLen := rfl
@[simp] theorem State.setFunc_rotate (k : Nat) (v : Func) : (s.setFunc k v).rotate = s.rotate := rfl
@[simp] theorem State.setFunc_bulks (k : Nat) (v : Func) : (s.setFunc k v).bulks = s.bulks := rfl
@[simp] theorem State.setFunc_errlog (k : Nat) (v : Func) : (s.setFunc k v).errlog = s.errlog := rfl
@[simp] theorem State.setFunc_lifecycle (k : Nat) (v : Func) : (s.setFunc k v).lifecycle = s.lifecycle := rfl
@[simp] theorem State.setFunc_bringup (k : Nat) (v : Func) : (s.setFunc k v).bringup = s.bringup := rfl
@[simp] theorem State.setFunc_secded (k : Nat) (v : Func) : (s.setFunc k v).secded = s.secded := rfl
@[simp] theorem State.setFunc_choices (k : Nat) (v : Func) : (s.setFunc k v).choices = s.choices := rfl
@[simp] theorem State.setFunc_cur (k : Nat) (v : Func) : (s.setFunc k v).cur = s.cur := rfl
@[simp] theorem State.setFunc_todo (k : Nat) (v : Func) : (s.setFunc k v).todo = s.todo := rfl
@[simp] theorem State.setFunc_stage (k : Nat) (v : Func) : (s.setFunc k v).stage = s.stage := rfl
@[simp] theorem State.setFunc_agenda (k : Nat) (v : Func) : (s.setFunc k v).agenda = s.agenda := rfl
@[simp] theorem State.setFunc_landed (k : Nat) (v : Func) : (s.setFunc k v).landed = s.landed := rfl
@[simp] theorem State.setFunc_outbox (k : Nat) (v : Func) : (s.setFunc k v).outbox = s.outbox := rfl
@[simp] theorem State.setFunc_strand (k : Nat) (j : Nat) (v : Func) : (s.setFunc k v).strand j = s.strand j := rfl
@[simp] theorem State.setFunc_tt (k : Nat) (j : Nat) (v : Func) : (s.setFunc k v).tt j = s.tt j := rfl
@[simp] theorem State.setFunc_tenant (k : Nat) (j : Nat) (v : Func) : (s.setFunc k v).tenant j = s.tenant j := rfl
@[simp] theorem State.setFunc_hen (k : Nat) (j : Nat) (v : Func) : (s.setFunc k v).hen j = s.hen j := rfl
@[simp] theorem State.setFunc_hart (k : Nat) (j : Fin 32) (v : Func) : (s.setFunc k v).hart j = s.hart j := rfl
@[simp] theorem State.setFunc_job (k : Nat) (j : Nat) (v : Func) : (s.setFunc k v).job j = s.job j := rfl

/-! ### setHen -/

@[simp] theorem State.setHen_gclk (k : Nat) (v : Hen) : (s.setHen k v).gclk = s.gclk := rfl
@[simp] theorem State.setHen_pkg (k : Nat) (v : Hen) : (s.setHen k v).pkg = s.pkg := rfl
@[simp] theorem State.setHen_mem (k : Nat) (v : Hen) : (s.setHen k v).mem = s.mem := rfl
@[simp] theorem State.setHen_strands (k : Nat) (v : Hen) : (s.setHen k v).strands = s.strands := rfl
@[simp] theorem State.setHen_tts (k : Nat) (v : Hen) : (s.setHen k v).tts = s.tts := rfl
@[simp] theorem State.setHen_nextTt (k : Nat) (v : Hen) : (s.setHen k v).nextTt = s.nextTt := rfl
@[simp] theorem State.setHen_gates (k : Nat) (v : Hen) : (s.setHen k v).gates = s.gates := rfl
@[simp] theorem State.setHen_hens (k : Nat) (v : Hen) : (s.setHen k v).hens = SMap.set Hen.idle s.hens k v := rfl
@[simp] theorem State.setHen_replays (k : Nat) (v : Hen) : (s.setHen k v).replays = s.replays := rfl
@[simp] theorem State.setHen_ports (k : Nat) (v : Hen) : (s.setHen k v).ports = s.ports := rfl
@[simp] theorem State.setHen_xlat (k : Nat) (v : Hen) : (s.setHen k v).xlat = s.xlat := rfl
@[simp] theorem State.setHen_farLines (k : Nat) (v : Hen) : (s.setHen k v).farLines = s.farLines := rfl
@[simp] theorem State.setHen_asks (k : Nat) (v : Hen) : (s.setHen k v).asks = s.asks := rfl
@[simp] theorem State.setHen_jobs (k : Nat) (v : Hen) : (s.setHen k v).jobs = s.jobs := rfl
@[simp] theorem State.setHen_nextJob (k : Nat) (v : Hen) : (s.setHen k v).nextJob = s.nextJob := rfl
@[simp] theorem State.setHen_colls (k : Nat) (v : Hen) : (s.setHen k v).colls = s.colls := rfl
@[simp] theorem State.setHen_tenants (k : Nat) (v : Hen) : (s.setHen k v).tenants = s.tenants := rfl
@[simp] theorem State.setHen_keys (k : Nat) (v : Hen) : (s.setHen k v).keys = s.keys := rfl
@[simp] theorem State.setHen_funcs (k : Nat) (v : Hen) : (s.setHen k v).funcs = s.funcs := rfl
@[simp] theorem State.setHen_launches (k : Nat) (v : Hen) : (s.setHen k v).launches = s.launches := rfl
@[simp] theorem State.setHen_nextLaunch (k : Nat) (v : Hen) : (s.setHen k v).nextLaunch = s.nextLaunch := rfl
@[simp] theorem State.setHen_requests (k : Nat) (v : Hen) : (s.setHen k v).requests = s.requests := rfl
@[simp] theorem State.setHen_nextReq (k : Nat) (v : Hen) : (s.setHen k v).nextReq = s.nextReq := rfl
@[simp] theorem State.setHen_compact (k : Nat) (v : Hen) : (s.setHen k v).compact = s.compact := rfl
@[simp] theorem State.setHen_preempt (k : Nat) (v : Hen) : (s.setHen k v).preempt = s.preempt := rfl
@[simp] theorem State.setHen_pairs (k : Nat) (v : Hen) : (s.setHen k v).pairs = s.pairs := rfl
@[simp] theorem State.setHen_reserve (k : Nat) (v : Hen) : (s.setHen k v).reserve = s.reserve := rfl
@[simp] theorem State.setHen_turns (k : Nat) (v : Hen) : (s.setHen k v).turns = s.turns := rfl
@[simp] theorem State.setHen_compactWait (k : Nat) (v : Hen) : (s.setHen k v).compactWait = s.compactWait := rfl
@[simp] theorem State.setHen_ageBound (k : Nat) (v : Hen) : (s.setHen k v).ageBound = s.ageBound := rfl
@[simp] theorem State.setHen_preemptDl (k : Nat) (v : Hen) : (s.setHen k v).preemptDl = s.preemptDl := rfl
@[simp] theorem State.setHen_preemptLimit (k : Nat) (v : Hen) : (s.setHen k v).preemptLimit = s.preemptLimit := rfl
@[simp] theorem State.setHen_estQrate (k : Nat) (v : Hen) : (s.setHen k v).estQrate = s.estQrate := rfl
@[simp] theorem State.setHen_estSrate (k : Nat) (v : Hen) : (s.setHen k v).estSrate = s.estSrate := rfl
@[simp] theorem State.setHen_links (k : Nat) (v : Hen) : (s.setHen k v).links = s.links := rfl
@[simp] theorem State.setHen_table (k : Nat) (v : Hen) : (s.setHen k v).table = s.table := rfl
@[simp] theorem State.setHen_lgen (k : Nat) (v : Hen) : (s.setHen k v).lgen = s.lgen := rfl
@[simp] theorem State.setHen_trained (k : Nat) (v : Hen) : (s.setHen k v).trained = s.trained := rfl
@[simp] theorem State.setHen_aligned (k : Nat) (v : Hen) : (s.setHen k v).aligned = s.aligned := rfl
@[simp] theorem State.setHen_oref (k : Nat) (v : Hen) : (s.setHen k v).oref = s.oref := rfl
@[simp] theorem State.setHen_offCount (k : Nat) (v : Hen) : (s.setHen k v).offCount = s.offCount := rfl
@[simp] theorem State.setHen_losses (k : Nat) (v : Hen) : (s.setHen k v).losses = s.losses := rfl
@[simp] theorem State.setHen_okCount (k : Nat) (v : Hen) : (s.setHen k v).okCount = s.okCount := rfl
@[simp] theorem State.setHen_holdLeft (k : Nat) (v : Hen) : (s.setHen k v).holdLeft = s.holdLeft := rfl
@[simp] theorem State.setHen_fastPll (k : Nat) (v : Hen) : (s.setHen k v).fastPll = s.fastPll := rfl
@[simp] theorem State.setHen_loaded (k : Nat) (v : Hen) : (s.setHen k v).loaded = s.loaded := rfl
@[simp] theorem State.setHen_loadedAt (k : Nat) (v : Hen) : (s.setHen k v).loadedAt = s.loadedAt := rfl
@[simp] theorem State.setHen_alignOut (k : Nat) (v : Hen) : (s.setHen k v).alignOut = s.alignOut := rfl
@[simp] theorem State.setHen_routers (k : Nat) (v : Hen) : (s.setHen k v).routers = s.routers := rfl
@[simp] theorem State.setHen_bridges (k : Nat) (v : Hen) : (s.setHen k v).bridges = s.bridges := rfl
@[simp] theorem State.setHen_linkTabs (k : Nat) (v : Hen) : (s.setHen k v).linkTabs = s.linkTabs := rfl
@[simp] theorem State.setHen_rerr (k : Nat) (v : Hen) : (s.setHen k v).rerr = s.rerr := rfl
@[simp] theorem State.setHen_flits (k : Nat) (v : Hen) : (s.setHen k v).flits = s.flits := rfl
@[simp] theorem State.setHen_lostFlits (k : Nat) (v : Hen) : (s.setHen k v).lostFlits = s.lostFlits := rfl
@[simp] theorem State.setHen_remoteSeq (k : Nat) (v : Hen) : (s.setHen k v).remoteSeq = s.remoteSeq := rfl
@[simp] theorem State.setHen_post (k : Nat) (v : Hen) : (s.setHen k v).post = s.post := rfl
@[simp] theorem State.setHen_remotes (k : Nat) (v : Hen) : (s.setHen k v).remotes = s.remotes := rfl
@[simp] theorem State.setHen_wanted (k : Nat) (v : Hen) : (s.setHen k v).wanted = s.wanted := rfl
@[simp] theorem State.setHen_codeStores (k : Nat) (v : Hen) : (s.setHen k v).codeStores = s.codeStores := rfl
@[simp] theorem State.setHen_synced (k : Nat) (v : Hen) : (s.setHen k v).synced = s.synced := rfl
@[simp] theorem State.setHen_arming (k : Nat) (v : Hen) : (s.setHen k v).arming = s.arming := rfl
@[simp] theorem State.setHen_lateBytes (k : Nat) (v : Hen) : (s.setHen k v).lateBytes = s.lateBytes := rfl
@[simp] theorem State.setHen_routines (k : Nat) (v : Hen) : (s.setHen k v).routines = s.routines := rfl
@[simp] theorem State.setHen_harts (k : Nat) (v : Hen) : (s.setHen k v).harts = s.harts := rfl
@[simp] theorem State.setHen_served (k : Nat) (v : Hen) : (s.setHen k v).served = s.served := rfl
@[simp] theorem State.setHen_firmware (k : Nat) (v : Hen) : (s.setHen k v).firmware = s.firmware := rfl
@[simp] theorem State.setHen_identity (k : Nat) (v : Hen) : (s.setHen k v).identity = s.identity := rfl
@[simp] theorem State.setHen_mule (k : Nat) (v : Hen) : (s.setHen k v).mule = s.mule := rfl
@[simp] theorem State.setHen_muleDown (k : Nat) (v : Hen) : (s.setHen k v).muleDown = s.muleDown := rfl
@[simp] theorem State.setHen_sram (k : Nat) (v : Hen) : (s.setHen k v).sram = s.sram := rfl
@[simp] theorem State.setHen_sramBase (k : Nat) (v : Hen) : (s.setHen k v).sramBase = s.sramBase := rfl
@[simp] theorem State.setHen_sramLen (k : Nat) (v : Hen) : (s.setHen k v).sramLen = s.sramLen := rfl
@[simp] theorem State.setHen_rotate (k : Nat) (v : Hen) : (s.setHen k v).rotate = s.rotate := rfl
@[simp] theorem State.setHen_bulks (k : Nat) (v : Hen) : (s.setHen k v).bulks = s.bulks := rfl
@[simp] theorem State.setHen_errlog (k : Nat) (v : Hen) : (s.setHen k v).errlog = s.errlog := rfl
@[simp] theorem State.setHen_lifecycle (k : Nat) (v : Hen) : (s.setHen k v).lifecycle = s.lifecycle := rfl
@[simp] theorem State.setHen_bringup (k : Nat) (v : Hen) : (s.setHen k v).bringup = s.bringup := rfl
@[simp] theorem State.setHen_secded (k : Nat) (v : Hen) : (s.setHen k v).secded = s.secded := rfl
@[simp] theorem State.setHen_choices (k : Nat) (v : Hen) : (s.setHen k v).choices = s.choices := rfl
@[simp] theorem State.setHen_cur (k : Nat) (v : Hen) : (s.setHen k v).cur = s.cur := rfl
@[simp] theorem State.setHen_todo (k : Nat) (v : Hen) : (s.setHen k v).todo = s.todo := rfl
@[simp] theorem State.setHen_stage (k : Nat) (v : Hen) : (s.setHen k v).stage = s.stage := rfl
@[simp] theorem State.setHen_agenda (k : Nat) (v : Hen) : (s.setHen k v).agenda = s.agenda := rfl
@[simp] theorem State.setHen_landed (k : Nat) (v : Hen) : (s.setHen k v).landed = s.landed := rfl
@[simp] theorem State.setHen_outbox (k : Nat) (v : Hen) : (s.setHen k v).outbox = s.outbox := rfl
@[simp] theorem State.setHen_strand (k : Nat) (j : Nat) (v : Hen) : (s.setHen k v).strand j = s.strand j := rfl
@[simp] theorem State.setHen_tt (k : Nat) (j : Nat) (v : Hen) : (s.setHen k v).tt j = s.tt j := rfl
@[simp] theorem State.setHen_tenant (k : Nat) (j : Nat) (v : Hen) : (s.setHen k v).tenant j = s.tenant j := rfl
@[simp] theorem State.setHen_func (k : Nat) (j : Nat) (v : Hen) : (s.setHen k v).func j = s.func j := rfl
@[simp] theorem State.setHen_hart (k : Nat) (j : Fin 32) (v : Hen) : (s.setHen k v).hart j = s.hart j := rfl
@[simp] theorem State.setHen_job (k : Nat) (j : Nat) (v : Hen) : (s.setHen k v).job j = s.job j := rfl

/-! ### setHart -/

@[simp] theorem State.setHart_gclk (k : Fin 32) (v : Hart) : (s.setHart k v).gclk = s.gclk := rfl
@[simp] theorem State.setHart_pkg (k : Fin 32) (v : Hart) : (s.setHart k v).pkg = s.pkg := rfl
@[simp] theorem State.setHart_mem (k : Fin 32) (v : Hart) : (s.setHart k v).mem = s.mem := rfl
@[simp] theorem State.setHart_strands (k : Fin 32) (v : Hart) : (s.setHart k v).strands = s.strands := rfl
@[simp] theorem State.setHart_tts (k : Fin 32) (v : Hart) : (s.setHart k v).tts = s.tts := rfl
@[simp] theorem State.setHart_nextTt (k : Fin 32) (v : Hart) : (s.setHart k v).nextTt = s.nextTt := rfl
@[simp] theorem State.setHart_gates (k : Fin 32) (v : Hart) : (s.setHart k v).gates = s.gates := rfl
@[simp] theorem State.setHart_hens (k : Fin 32) (v : Hart) : (s.setHart k v).hens = s.hens := rfl
@[simp] theorem State.setHart_replays (k : Fin 32) (v : Hart) : (s.setHart k v).replays = s.replays := rfl
@[simp] theorem State.setHart_ports (k : Fin 32) (v : Hart) : (s.setHart k v).ports = s.ports := rfl
@[simp] theorem State.setHart_xlat (k : Fin 32) (v : Hart) : (s.setHart k v).xlat = s.xlat := rfl
@[simp] theorem State.setHart_farLines (k : Fin 32) (v : Hart) : (s.setHart k v).farLines = s.farLines := rfl
@[simp] theorem State.setHart_asks (k : Fin 32) (v : Hart) : (s.setHart k v).asks = s.asks := rfl
@[simp] theorem State.setHart_jobs (k : Fin 32) (v : Hart) : (s.setHart k v).jobs = s.jobs := rfl
@[simp] theorem State.setHart_nextJob (k : Fin 32) (v : Hart) : (s.setHart k v).nextJob = s.nextJob := rfl
@[simp] theorem State.setHart_colls (k : Fin 32) (v : Hart) : (s.setHart k v).colls = s.colls := rfl
@[simp] theorem State.setHart_tenants (k : Fin 32) (v : Hart) : (s.setHart k v).tenants = s.tenants := rfl
@[simp] theorem State.setHart_keys (k : Fin 32) (v : Hart) : (s.setHart k v).keys = s.keys := rfl
@[simp] theorem State.setHart_funcs (k : Fin 32) (v : Hart) : (s.setHart k v).funcs = s.funcs := rfl
@[simp] theorem State.setHart_launches (k : Fin 32) (v : Hart) : (s.setHart k v).launches = s.launches := rfl
@[simp] theorem State.setHart_nextLaunch (k : Fin 32) (v : Hart) : (s.setHart k v).nextLaunch = s.nextLaunch := rfl
@[simp] theorem State.setHart_requests (k : Fin 32) (v : Hart) : (s.setHart k v).requests = s.requests := rfl
@[simp] theorem State.setHart_nextReq (k : Fin 32) (v : Hart) : (s.setHart k v).nextReq = s.nextReq := rfl
@[simp] theorem State.setHart_compact (k : Fin 32) (v : Hart) : (s.setHart k v).compact = s.compact := rfl
@[simp] theorem State.setHart_preempt (k : Fin 32) (v : Hart) : (s.setHart k v).preempt = s.preempt := rfl
@[simp] theorem State.setHart_pairs (k : Fin 32) (v : Hart) : (s.setHart k v).pairs = s.pairs := rfl
@[simp] theorem State.setHart_reserve (k : Fin 32) (v : Hart) : (s.setHart k v).reserve = s.reserve := rfl
@[simp] theorem State.setHart_turns (k : Fin 32) (v : Hart) : (s.setHart k v).turns = s.turns := rfl
@[simp] theorem State.setHart_compactWait (k : Fin 32) (v : Hart) : (s.setHart k v).compactWait = s.compactWait := rfl
@[simp] theorem State.setHart_ageBound (k : Fin 32) (v : Hart) : (s.setHart k v).ageBound = s.ageBound := rfl
@[simp] theorem State.setHart_preemptDl (k : Fin 32) (v : Hart) : (s.setHart k v).preemptDl = s.preemptDl := rfl
@[simp] theorem State.setHart_preemptLimit (k : Fin 32) (v : Hart) : (s.setHart k v).preemptLimit = s.preemptLimit := rfl
@[simp] theorem State.setHart_estQrate (k : Fin 32) (v : Hart) : (s.setHart k v).estQrate = s.estQrate := rfl
@[simp] theorem State.setHart_estSrate (k : Fin 32) (v : Hart) : (s.setHart k v).estSrate = s.estSrate := rfl
@[simp] theorem State.setHart_links (k : Fin 32) (v : Hart) : (s.setHart k v).links = s.links := rfl
@[simp] theorem State.setHart_table (k : Fin 32) (v : Hart) : (s.setHart k v).table = s.table := rfl
@[simp] theorem State.setHart_lgen (k : Fin 32) (v : Hart) : (s.setHart k v).lgen = s.lgen := rfl
@[simp] theorem State.setHart_trained (k : Fin 32) (v : Hart) : (s.setHart k v).trained = s.trained := rfl
@[simp] theorem State.setHart_aligned (k : Fin 32) (v : Hart) : (s.setHart k v).aligned = s.aligned := rfl
@[simp] theorem State.setHart_oref (k : Fin 32) (v : Hart) : (s.setHart k v).oref = s.oref := rfl
@[simp] theorem State.setHart_offCount (k : Fin 32) (v : Hart) : (s.setHart k v).offCount = s.offCount := rfl
@[simp] theorem State.setHart_losses (k : Fin 32) (v : Hart) : (s.setHart k v).losses = s.losses := rfl
@[simp] theorem State.setHart_okCount (k : Fin 32) (v : Hart) : (s.setHart k v).okCount = s.okCount := rfl
@[simp] theorem State.setHart_holdLeft (k : Fin 32) (v : Hart) : (s.setHart k v).holdLeft = s.holdLeft := rfl
@[simp] theorem State.setHart_fastPll (k : Fin 32) (v : Hart) : (s.setHart k v).fastPll = s.fastPll := rfl
@[simp] theorem State.setHart_loaded (k : Fin 32) (v : Hart) : (s.setHart k v).loaded = s.loaded := rfl
@[simp] theorem State.setHart_loadedAt (k : Fin 32) (v : Hart) : (s.setHart k v).loadedAt = s.loadedAt := rfl
@[simp] theorem State.setHart_alignOut (k : Fin 32) (v : Hart) : (s.setHart k v).alignOut = s.alignOut := rfl
@[simp] theorem State.setHart_routers (k : Fin 32) (v : Hart) : (s.setHart k v).routers = s.routers := rfl
@[simp] theorem State.setHart_bridges (k : Fin 32) (v : Hart) : (s.setHart k v).bridges = s.bridges := rfl
@[simp] theorem State.setHart_linkTabs (k : Fin 32) (v : Hart) : (s.setHart k v).linkTabs = s.linkTabs := rfl
@[simp] theorem State.setHart_rerr (k : Fin 32) (v : Hart) : (s.setHart k v).rerr = s.rerr := rfl
@[simp] theorem State.setHart_flits (k : Fin 32) (v : Hart) : (s.setHart k v).flits = s.flits := rfl
@[simp] theorem State.setHart_lostFlits (k : Fin 32) (v : Hart) : (s.setHart k v).lostFlits = s.lostFlits := rfl
@[simp] theorem State.setHart_remoteSeq (k : Fin 32) (v : Hart) : (s.setHart k v).remoteSeq = s.remoteSeq := rfl
@[simp] theorem State.setHart_post (k : Fin 32) (v : Hart) : (s.setHart k v).post = s.post := rfl
@[simp] theorem State.setHart_remotes (k : Fin 32) (v : Hart) : (s.setHart k v).remotes = s.remotes := rfl
@[simp] theorem State.setHart_wanted (k : Fin 32) (v : Hart) : (s.setHart k v).wanted = s.wanted := rfl
@[simp] theorem State.setHart_codeStores (k : Fin 32) (v : Hart) : (s.setHart k v).codeStores = s.codeStores := rfl
@[simp] theorem State.setHart_synced (k : Fin 32) (v : Hart) : (s.setHart k v).synced = s.synced := rfl
@[simp] theorem State.setHart_arming (k : Fin 32) (v : Hart) : (s.setHart k v).arming = s.arming := rfl
@[simp] theorem State.setHart_lateBytes (k : Fin 32) (v : Hart) : (s.setHart k v).lateBytes = s.lateBytes := rfl
@[simp] theorem State.setHart_routines (k : Fin 32) (v : Hart) : (s.setHart k v).routines = s.routines := rfl
@[simp] theorem State.setHart_harts (k : Fin 32) (v : Hart) : (s.setHart k v).harts = s.harts.set k v := rfl
@[simp] theorem State.setHart_served (k : Fin 32) (v : Hart) : (s.setHart k v).served = s.served := rfl
@[simp] theorem State.setHart_firmware (k : Fin 32) (v : Hart) : (s.setHart k v).firmware = s.firmware := rfl
@[simp] theorem State.setHart_identity (k : Fin 32) (v : Hart) : (s.setHart k v).identity = s.identity := rfl
@[simp] theorem State.setHart_mule (k : Fin 32) (v : Hart) : (s.setHart k v).mule = s.mule := rfl
@[simp] theorem State.setHart_muleDown (k : Fin 32) (v : Hart) : (s.setHart k v).muleDown = s.muleDown := rfl
@[simp] theorem State.setHart_sram (k : Fin 32) (v : Hart) : (s.setHart k v).sram = s.sram := rfl
@[simp] theorem State.setHart_sramBase (k : Fin 32) (v : Hart) : (s.setHart k v).sramBase = s.sramBase := rfl
@[simp] theorem State.setHart_sramLen (k : Fin 32) (v : Hart) : (s.setHart k v).sramLen = s.sramLen := rfl
@[simp] theorem State.setHart_rotate (k : Fin 32) (v : Hart) : (s.setHart k v).rotate = s.rotate := rfl
@[simp] theorem State.setHart_bulks (k : Fin 32) (v : Hart) : (s.setHart k v).bulks = s.bulks := rfl
@[simp] theorem State.setHart_errlog (k : Fin 32) (v : Hart) : (s.setHart k v).errlog = s.errlog := rfl
@[simp] theorem State.setHart_lifecycle (k : Fin 32) (v : Hart) : (s.setHart k v).lifecycle = s.lifecycle := rfl
@[simp] theorem State.setHart_bringup (k : Fin 32) (v : Hart) : (s.setHart k v).bringup = s.bringup := rfl
@[simp] theorem State.setHart_secded (k : Fin 32) (v : Hart) : (s.setHart k v).secded = s.secded := rfl
@[simp] theorem State.setHart_choices (k : Fin 32) (v : Hart) : (s.setHart k v).choices = s.choices := rfl
@[simp] theorem State.setHart_cur (k : Fin 32) (v : Hart) : (s.setHart k v).cur = s.cur := rfl
@[simp] theorem State.setHart_todo (k : Fin 32) (v : Hart) : (s.setHart k v).todo = s.todo := rfl
@[simp] theorem State.setHart_stage (k : Fin 32) (v : Hart) : (s.setHart k v).stage = s.stage := rfl
@[simp] theorem State.setHart_agenda (k : Fin 32) (v : Hart) : (s.setHart k v).agenda = s.agenda := rfl
@[simp] theorem State.setHart_landed (k : Fin 32) (v : Hart) : (s.setHart k v).landed = s.landed := rfl
@[simp] theorem State.setHart_outbox (k : Fin 32) (v : Hart) : (s.setHart k v).outbox = s.outbox := rfl
@[simp] theorem State.setHart_strand (k : Fin 32) (j : Nat) (v : Hart) : (s.setHart k v).strand j = s.strand j := rfl
@[simp] theorem State.setHart_tt (k : Fin 32) (j : Nat) (v : Hart) : (s.setHart k v).tt j = s.tt j := rfl
@[simp] theorem State.setHart_tenant (k : Fin 32) (j : Nat) (v : Hart) : (s.setHart k v).tenant j = s.tenant j := rfl
@[simp] theorem State.setHart_func (k : Fin 32) (j : Nat) (v : Hart) : (s.setHart k v).func j = s.func j := rfl
@[simp] theorem State.setHart_hen (k : Fin 32) (j : Nat) (v : Hart) : (s.setHart k v).hen j = s.hen j := rfl
@[simp] theorem State.setHart_job (k : Fin 32) (j : Nat) (v : Hart) : (s.setHart k v).job j = s.job j := rfl

/-! ### setJob -/

@[simp] theorem State.setJob_gclk (k : Nat) (v : Job) : (s.setJob k v).gclk = s.gclk := rfl
@[simp] theorem State.setJob_pkg (k : Nat) (v : Job) : (s.setJob k v).pkg = s.pkg := rfl
@[simp] theorem State.setJob_mem (k : Nat) (v : Job) : (s.setJob k v).mem = s.mem := rfl
@[simp] theorem State.setJob_strands (k : Nat) (v : Job) : (s.setJob k v).strands = s.strands := rfl
@[simp] theorem State.setJob_tts (k : Nat) (v : Job) : (s.setJob k v).tts = s.tts := rfl
@[simp] theorem State.setJob_nextTt (k : Nat) (v : Job) : (s.setJob k v).nextTt = s.nextTt := rfl
@[simp] theorem State.setJob_gates (k : Nat) (v : Job) : (s.setJob k v).gates = s.gates := rfl
@[simp] theorem State.setJob_hens (k : Nat) (v : Job) : (s.setJob k v).hens = s.hens := rfl
@[simp] theorem State.setJob_replays (k : Nat) (v : Job) : (s.setJob k v).replays = s.replays := rfl
@[simp] theorem State.setJob_ports (k : Nat) (v : Job) : (s.setJob k v).ports = s.ports := rfl
@[simp] theorem State.setJob_xlat (k : Nat) (v : Job) : (s.setJob k v).xlat = s.xlat := rfl
@[simp] theorem State.setJob_farLines (k : Nat) (v : Job) : (s.setJob k v).farLines = s.farLines := rfl
@[simp] theorem State.setJob_asks (k : Nat) (v : Job) : (s.setJob k v).asks = s.asks := rfl
@[simp] theorem State.setJob_jobs (k : Nat) (v : Job) : (s.setJob k v).jobs = SMap.set Job.none s.jobs k v := rfl
@[simp] theorem State.setJob_nextJob (k : Nat) (v : Job) : (s.setJob k v).nextJob = s.nextJob := rfl
@[simp] theorem State.setJob_colls (k : Nat) (v : Job) : (s.setJob k v).colls = s.colls := rfl
@[simp] theorem State.setJob_tenants (k : Nat) (v : Job) : (s.setJob k v).tenants = s.tenants := rfl
@[simp] theorem State.setJob_keys (k : Nat) (v : Job) : (s.setJob k v).keys = s.keys := rfl
@[simp] theorem State.setJob_funcs (k : Nat) (v : Job) : (s.setJob k v).funcs = s.funcs := rfl
@[simp] theorem State.setJob_launches (k : Nat) (v : Job) : (s.setJob k v).launches = s.launches := rfl
@[simp] theorem State.setJob_nextLaunch (k : Nat) (v : Job) : (s.setJob k v).nextLaunch = s.nextLaunch := rfl
@[simp] theorem State.setJob_requests (k : Nat) (v : Job) : (s.setJob k v).requests = s.requests := rfl
@[simp] theorem State.setJob_nextReq (k : Nat) (v : Job) : (s.setJob k v).nextReq = s.nextReq := rfl
@[simp] theorem State.setJob_compact (k : Nat) (v : Job) : (s.setJob k v).compact = s.compact := rfl
@[simp] theorem State.setJob_preempt (k : Nat) (v : Job) : (s.setJob k v).preempt = s.preempt := rfl
@[simp] theorem State.setJob_pairs (k : Nat) (v : Job) : (s.setJob k v).pairs = s.pairs := rfl
@[simp] theorem State.setJob_reserve (k : Nat) (v : Job) : (s.setJob k v).reserve = s.reserve := rfl
@[simp] theorem State.setJob_turns (k : Nat) (v : Job) : (s.setJob k v).turns = s.turns := rfl
@[simp] theorem State.setJob_compactWait (k : Nat) (v : Job) : (s.setJob k v).compactWait = s.compactWait := rfl
@[simp] theorem State.setJob_ageBound (k : Nat) (v : Job) : (s.setJob k v).ageBound = s.ageBound := rfl
@[simp] theorem State.setJob_preemptDl (k : Nat) (v : Job) : (s.setJob k v).preemptDl = s.preemptDl := rfl
@[simp] theorem State.setJob_preemptLimit (k : Nat) (v : Job) : (s.setJob k v).preemptLimit = s.preemptLimit := rfl
@[simp] theorem State.setJob_estQrate (k : Nat) (v : Job) : (s.setJob k v).estQrate = s.estQrate := rfl
@[simp] theorem State.setJob_estSrate (k : Nat) (v : Job) : (s.setJob k v).estSrate = s.estSrate := rfl
@[simp] theorem State.setJob_links (k : Nat) (v : Job) : (s.setJob k v).links = s.links := rfl
@[simp] theorem State.setJob_table (k : Nat) (v : Job) : (s.setJob k v).table = s.table := rfl
@[simp] theorem State.setJob_lgen (k : Nat) (v : Job) : (s.setJob k v).lgen = s.lgen := rfl
@[simp] theorem State.setJob_trained (k : Nat) (v : Job) : (s.setJob k v).trained = s.trained := rfl
@[simp] theorem State.setJob_aligned (k : Nat) (v : Job) : (s.setJob k v).aligned = s.aligned := rfl
@[simp] theorem State.setJob_oref (k : Nat) (v : Job) : (s.setJob k v).oref = s.oref := rfl
@[simp] theorem State.setJob_offCount (k : Nat) (v : Job) : (s.setJob k v).offCount = s.offCount := rfl
@[simp] theorem State.setJob_losses (k : Nat) (v : Job) : (s.setJob k v).losses = s.losses := rfl
@[simp] theorem State.setJob_okCount (k : Nat) (v : Job) : (s.setJob k v).okCount = s.okCount := rfl
@[simp] theorem State.setJob_holdLeft (k : Nat) (v : Job) : (s.setJob k v).holdLeft = s.holdLeft := rfl
@[simp] theorem State.setJob_fastPll (k : Nat) (v : Job) : (s.setJob k v).fastPll = s.fastPll := rfl
@[simp] theorem State.setJob_loaded (k : Nat) (v : Job) : (s.setJob k v).loaded = s.loaded := rfl
@[simp] theorem State.setJob_loadedAt (k : Nat) (v : Job) : (s.setJob k v).loadedAt = s.loadedAt := rfl
@[simp] theorem State.setJob_alignOut (k : Nat) (v : Job) : (s.setJob k v).alignOut = s.alignOut := rfl
@[simp] theorem State.setJob_routers (k : Nat) (v : Job) : (s.setJob k v).routers = s.routers := rfl
@[simp] theorem State.setJob_bridges (k : Nat) (v : Job) : (s.setJob k v).bridges = s.bridges := rfl
@[simp] theorem State.setJob_linkTabs (k : Nat) (v : Job) : (s.setJob k v).linkTabs = s.linkTabs := rfl
@[simp] theorem State.setJob_rerr (k : Nat) (v : Job) : (s.setJob k v).rerr = s.rerr := rfl
@[simp] theorem State.setJob_flits (k : Nat) (v : Job) : (s.setJob k v).flits = s.flits := rfl
@[simp] theorem State.setJob_lostFlits (k : Nat) (v : Job) : (s.setJob k v).lostFlits = s.lostFlits := rfl
@[simp] theorem State.setJob_remoteSeq (k : Nat) (v : Job) : (s.setJob k v).remoteSeq = s.remoteSeq := rfl
@[simp] theorem State.setJob_post (k : Nat) (v : Job) : (s.setJob k v).post = s.post := rfl
@[simp] theorem State.setJob_remotes (k : Nat) (v : Job) : (s.setJob k v).remotes = s.remotes := rfl
@[simp] theorem State.setJob_wanted (k : Nat) (v : Job) : (s.setJob k v).wanted = s.wanted := rfl
@[simp] theorem State.setJob_codeStores (k : Nat) (v : Job) : (s.setJob k v).codeStores = s.codeStores := rfl
@[simp] theorem State.setJob_synced (k : Nat) (v : Job) : (s.setJob k v).synced = s.synced := rfl
@[simp] theorem State.setJob_arming (k : Nat) (v : Job) : (s.setJob k v).arming = s.arming := rfl
@[simp] theorem State.setJob_lateBytes (k : Nat) (v : Job) : (s.setJob k v).lateBytes = s.lateBytes := rfl
@[simp] theorem State.setJob_routines (k : Nat) (v : Job) : (s.setJob k v).routines = s.routines := rfl
@[simp] theorem State.setJob_harts (k : Nat) (v : Job) : (s.setJob k v).harts = s.harts := rfl
@[simp] theorem State.setJob_served (k : Nat) (v : Job) : (s.setJob k v).served = s.served := rfl
@[simp] theorem State.setJob_firmware (k : Nat) (v : Job) : (s.setJob k v).firmware = s.firmware := rfl
@[simp] theorem State.setJob_identity (k : Nat) (v : Job) : (s.setJob k v).identity = s.identity := rfl
@[simp] theorem State.setJob_mule (k : Nat) (v : Job) : (s.setJob k v).mule = s.mule := rfl
@[simp] theorem State.setJob_muleDown (k : Nat) (v : Job) : (s.setJob k v).muleDown = s.muleDown := rfl
@[simp] theorem State.setJob_sram (k : Nat) (v : Job) : (s.setJob k v).sram = s.sram := rfl
@[simp] theorem State.setJob_sramBase (k : Nat) (v : Job) : (s.setJob k v).sramBase = s.sramBase := rfl
@[simp] theorem State.setJob_sramLen (k : Nat) (v : Job) : (s.setJob k v).sramLen = s.sramLen := rfl
@[simp] theorem State.setJob_rotate (k : Nat) (v : Job) : (s.setJob k v).rotate = s.rotate := rfl
@[simp] theorem State.setJob_bulks (k : Nat) (v : Job) : (s.setJob k v).bulks = s.bulks := rfl
@[simp] theorem State.setJob_errlog (k : Nat) (v : Job) : (s.setJob k v).errlog = s.errlog := rfl
@[simp] theorem State.setJob_lifecycle (k : Nat) (v : Job) : (s.setJob k v).lifecycle = s.lifecycle := rfl
@[simp] theorem State.setJob_bringup (k : Nat) (v : Job) : (s.setJob k v).bringup = s.bringup := rfl
@[simp] theorem State.setJob_secded (k : Nat) (v : Job) : (s.setJob k v).secded = s.secded := rfl
@[simp] theorem State.setJob_choices (k : Nat) (v : Job) : (s.setJob k v).choices = s.choices := rfl
@[simp] theorem State.setJob_cur (k : Nat) (v : Job) : (s.setJob k v).cur = s.cur := rfl
@[simp] theorem State.setJob_todo (k : Nat) (v : Job) : (s.setJob k v).todo = s.todo := rfl
@[simp] theorem State.setJob_stage (k : Nat) (v : Job) : (s.setJob k v).stage = s.stage := rfl
@[simp] theorem State.setJob_agenda (k : Nat) (v : Job) : (s.setJob k v).agenda = s.agenda := rfl
@[simp] theorem State.setJob_landed (k : Nat) (v : Job) : (s.setJob k v).landed = s.landed := rfl
@[simp] theorem State.setJob_outbox (k : Nat) (v : Job) : (s.setJob k v).outbox = s.outbox := rfl
@[simp] theorem State.setJob_strand (k : Nat) (j : Nat) (v : Job) : (s.setJob k v).strand j = s.strand j := rfl
@[simp] theorem State.setJob_tt (k : Nat) (j : Nat) (v : Job) : (s.setJob k v).tt j = s.tt j := rfl
@[simp] theorem State.setJob_tenant (k : Nat) (j : Nat) (v : Job) : (s.setJob k v).tenant j = s.tenant j := rfl
@[simp] theorem State.setJob_func (k : Nat) (j : Nat) (v : Job) : (s.setJob k v).func j = s.func j := rfl
@[simp] theorem State.setJob_hen (k : Nat) (j : Nat) (v : Job) : (s.setJob k v).hen j = s.hen j := rfl
@[simp] theorem State.setJob_hart (k : Nat) (j : Fin 32) (v : Job) : (s.setJob k v).hart j = s.hart j := rfl

/-! ### modStrand -/

@[simp] theorem State.modStrand_gclk (k : Nat) (f : Strand → Strand) : (s.modStrand k f).gclk = s.gclk := rfl
@[simp] theorem State.modStrand_pkg (k : Nat) (f : Strand → Strand) : (s.modStrand k f).pkg = s.pkg := rfl
@[simp] theorem State.modStrand_mem (k : Nat) (f : Strand → Strand) : (s.modStrand k f).mem = s.mem := rfl
@[simp] theorem State.modStrand_tts (k : Nat) (f : Strand → Strand) : (s.modStrand k f).tts = s.tts := rfl
@[simp] theorem State.modStrand_nextTt (k : Nat) (f : Strand → Strand) : (s.modStrand k f).nextTt = s.nextTt := rfl
@[simp] theorem State.modStrand_gates (k : Nat) (f : Strand → Strand) : (s.modStrand k f).gates = s.gates := rfl
@[simp] theorem State.modStrand_hens (k : Nat) (f : Strand → Strand) : (s.modStrand k f).hens = s.hens := rfl
@[simp] theorem State.modStrand_replays (k : Nat) (f : Strand → Strand) : (s.modStrand k f).replays = s.replays := rfl
@[simp] theorem State.modStrand_ports (k : Nat) (f : Strand → Strand) : (s.modStrand k f).ports = s.ports := rfl
@[simp] theorem State.modStrand_xlat (k : Nat) (f : Strand → Strand) : (s.modStrand k f).xlat = s.xlat := rfl
@[simp] theorem State.modStrand_farLines (k : Nat) (f : Strand → Strand) : (s.modStrand k f).farLines = s.farLines := rfl
@[simp] theorem State.modStrand_asks (k : Nat) (f : Strand → Strand) : (s.modStrand k f).asks = s.asks := rfl
@[simp] theorem State.modStrand_jobs (k : Nat) (f : Strand → Strand) : (s.modStrand k f).jobs = s.jobs := rfl
@[simp] theorem State.modStrand_nextJob (k : Nat) (f : Strand → Strand) : (s.modStrand k f).nextJob = s.nextJob := rfl
@[simp] theorem State.modStrand_colls (k : Nat) (f : Strand → Strand) : (s.modStrand k f).colls = s.colls := rfl
@[simp] theorem State.modStrand_tenants (k : Nat) (f : Strand → Strand) : (s.modStrand k f).tenants = s.tenants := rfl
@[simp] theorem State.modStrand_keys (k : Nat) (f : Strand → Strand) : (s.modStrand k f).keys = s.keys := rfl
@[simp] theorem State.modStrand_funcs (k : Nat) (f : Strand → Strand) : (s.modStrand k f).funcs = s.funcs := rfl
@[simp] theorem State.modStrand_launches (k : Nat) (f : Strand → Strand) : (s.modStrand k f).launches = s.launches := rfl
@[simp] theorem State.modStrand_nextLaunch (k : Nat) (f : Strand → Strand) : (s.modStrand k f).nextLaunch = s.nextLaunch := rfl
@[simp] theorem State.modStrand_requests (k : Nat) (f : Strand → Strand) : (s.modStrand k f).requests = s.requests := rfl
@[simp] theorem State.modStrand_nextReq (k : Nat) (f : Strand → Strand) : (s.modStrand k f).nextReq = s.nextReq := rfl
@[simp] theorem State.modStrand_compact (k : Nat) (f : Strand → Strand) : (s.modStrand k f).compact = s.compact := rfl
@[simp] theorem State.modStrand_preempt (k : Nat) (f : Strand → Strand) : (s.modStrand k f).preempt = s.preempt := rfl
@[simp] theorem State.modStrand_pairs (k : Nat) (f : Strand → Strand) : (s.modStrand k f).pairs = s.pairs := rfl
@[simp] theorem State.modStrand_reserve (k : Nat) (f : Strand → Strand) : (s.modStrand k f).reserve = s.reserve := rfl
@[simp] theorem State.modStrand_turns (k : Nat) (f : Strand → Strand) : (s.modStrand k f).turns = s.turns := rfl
@[simp] theorem State.modStrand_compactWait (k : Nat) (f : Strand → Strand) : (s.modStrand k f).compactWait = s.compactWait := rfl
@[simp] theorem State.modStrand_ageBound (k : Nat) (f : Strand → Strand) : (s.modStrand k f).ageBound = s.ageBound := rfl
@[simp] theorem State.modStrand_preemptDl (k : Nat) (f : Strand → Strand) : (s.modStrand k f).preemptDl = s.preemptDl := rfl
@[simp] theorem State.modStrand_preemptLimit (k : Nat) (f : Strand → Strand) : (s.modStrand k f).preemptLimit = s.preemptLimit := rfl
@[simp] theorem State.modStrand_estQrate (k : Nat) (f : Strand → Strand) : (s.modStrand k f).estQrate = s.estQrate := rfl
@[simp] theorem State.modStrand_estSrate (k : Nat) (f : Strand → Strand) : (s.modStrand k f).estSrate = s.estSrate := rfl
@[simp] theorem State.modStrand_links (k : Nat) (f : Strand → Strand) : (s.modStrand k f).links = s.links := rfl
@[simp] theorem State.modStrand_table (k : Nat) (f : Strand → Strand) : (s.modStrand k f).table = s.table := rfl
@[simp] theorem State.modStrand_lgen (k : Nat) (f : Strand → Strand) : (s.modStrand k f).lgen = s.lgen := rfl
@[simp] theorem State.modStrand_trained (k : Nat) (f : Strand → Strand) : (s.modStrand k f).trained = s.trained := rfl
@[simp] theorem State.modStrand_aligned (k : Nat) (f : Strand → Strand) : (s.modStrand k f).aligned = s.aligned := rfl
@[simp] theorem State.modStrand_oref (k : Nat) (f : Strand → Strand) : (s.modStrand k f).oref = s.oref := rfl
@[simp] theorem State.modStrand_offCount (k : Nat) (f : Strand → Strand) : (s.modStrand k f).offCount = s.offCount := rfl
@[simp] theorem State.modStrand_losses (k : Nat) (f : Strand → Strand) : (s.modStrand k f).losses = s.losses := rfl
@[simp] theorem State.modStrand_okCount (k : Nat) (f : Strand → Strand) : (s.modStrand k f).okCount = s.okCount := rfl
@[simp] theorem State.modStrand_holdLeft (k : Nat) (f : Strand → Strand) : (s.modStrand k f).holdLeft = s.holdLeft := rfl
@[simp] theorem State.modStrand_fastPll (k : Nat) (f : Strand → Strand) : (s.modStrand k f).fastPll = s.fastPll := rfl
@[simp] theorem State.modStrand_loaded (k : Nat) (f : Strand → Strand) : (s.modStrand k f).loaded = s.loaded := rfl
@[simp] theorem State.modStrand_loadedAt (k : Nat) (f : Strand → Strand) : (s.modStrand k f).loadedAt = s.loadedAt := rfl
@[simp] theorem State.modStrand_alignOut (k : Nat) (f : Strand → Strand) : (s.modStrand k f).alignOut = s.alignOut := rfl
@[simp] theorem State.modStrand_routers (k : Nat) (f : Strand → Strand) : (s.modStrand k f).routers = s.routers := rfl
@[simp] theorem State.modStrand_bridges (k : Nat) (f : Strand → Strand) : (s.modStrand k f).bridges = s.bridges := rfl
@[simp] theorem State.modStrand_linkTabs (k : Nat) (f : Strand → Strand) : (s.modStrand k f).linkTabs = s.linkTabs := rfl
@[simp] theorem State.modStrand_rerr (k : Nat) (f : Strand → Strand) : (s.modStrand k f).rerr = s.rerr := rfl
@[simp] theorem State.modStrand_flits (k : Nat) (f : Strand → Strand) : (s.modStrand k f).flits = s.flits := rfl
@[simp] theorem State.modStrand_lostFlits (k : Nat) (f : Strand → Strand) : (s.modStrand k f).lostFlits = s.lostFlits := rfl
@[simp] theorem State.modStrand_remoteSeq (k : Nat) (f : Strand → Strand) : (s.modStrand k f).remoteSeq = s.remoteSeq := rfl
@[simp] theorem State.modStrand_post (k : Nat) (f : Strand → Strand) : (s.modStrand k f).post = s.post := rfl
@[simp] theorem State.modStrand_remotes (k : Nat) (f : Strand → Strand) : (s.modStrand k f).remotes = s.remotes := rfl
@[simp] theorem State.modStrand_wanted (k : Nat) (f : Strand → Strand) : (s.modStrand k f).wanted = s.wanted := rfl
@[simp] theorem State.modStrand_codeStores (k : Nat) (f : Strand → Strand) : (s.modStrand k f).codeStores = s.codeStores := rfl
@[simp] theorem State.modStrand_synced (k : Nat) (f : Strand → Strand) : (s.modStrand k f).synced = s.synced := rfl
@[simp] theorem State.modStrand_arming (k : Nat) (f : Strand → Strand) : (s.modStrand k f).arming = s.arming := rfl
@[simp] theorem State.modStrand_lateBytes (k : Nat) (f : Strand → Strand) : (s.modStrand k f).lateBytes = s.lateBytes := rfl
@[simp] theorem State.modStrand_routines (k : Nat) (f : Strand → Strand) : (s.modStrand k f).routines = s.routines := rfl
@[simp] theorem State.modStrand_harts (k : Nat) (f : Strand → Strand) : (s.modStrand k f).harts = s.harts := rfl
@[simp] theorem State.modStrand_served (k : Nat) (f : Strand → Strand) : (s.modStrand k f).served = s.served := rfl
@[simp] theorem State.modStrand_firmware (k : Nat) (f : Strand → Strand) : (s.modStrand k f).firmware = s.firmware := rfl
@[simp] theorem State.modStrand_identity (k : Nat) (f : Strand → Strand) : (s.modStrand k f).identity = s.identity := rfl
@[simp] theorem State.modStrand_mule (k : Nat) (f : Strand → Strand) : (s.modStrand k f).mule = s.mule := rfl
@[simp] theorem State.modStrand_muleDown (k : Nat) (f : Strand → Strand) : (s.modStrand k f).muleDown = s.muleDown := rfl
@[simp] theorem State.modStrand_sram (k : Nat) (f : Strand → Strand) : (s.modStrand k f).sram = s.sram := rfl
@[simp] theorem State.modStrand_sramBase (k : Nat) (f : Strand → Strand) : (s.modStrand k f).sramBase = s.sramBase := rfl
@[simp] theorem State.modStrand_sramLen (k : Nat) (f : Strand → Strand) : (s.modStrand k f).sramLen = s.sramLen := rfl
@[simp] theorem State.modStrand_rotate (k : Nat) (f : Strand → Strand) : (s.modStrand k f).rotate = s.rotate := rfl
@[simp] theorem State.modStrand_bulks (k : Nat) (f : Strand → Strand) : (s.modStrand k f).bulks = s.bulks := rfl
@[simp] theorem State.modStrand_errlog (k : Nat) (f : Strand → Strand) : (s.modStrand k f).errlog = s.errlog := rfl
@[simp] theorem State.modStrand_lifecycle (k : Nat) (f : Strand → Strand) : (s.modStrand k f).lifecycle = s.lifecycle := rfl
@[simp] theorem State.modStrand_bringup (k : Nat) (f : Strand → Strand) : (s.modStrand k f).bringup = s.bringup := rfl
@[simp] theorem State.modStrand_secded (k : Nat) (f : Strand → Strand) : (s.modStrand k f).secded = s.secded := rfl
@[simp] theorem State.modStrand_choices (k : Nat) (f : Strand → Strand) : (s.modStrand k f).choices = s.choices := rfl
@[simp] theorem State.modStrand_cur (k : Nat) (f : Strand → Strand) : (s.modStrand k f).cur = s.cur := rfl
@[simp] theorem State.modStrand_todo (k : Nat) (f : Strand → Strand) : (s.modStrand k f).todo = s.todo := rfl
@[simp] theorem State.modStrand_stage (k : Nat) (f : Strand → Strand) : (s.modStrand k f).stage = s.stage := rfl
@[simp] theorem State.modStrand_agenda (k : Nat) (f : Strand → Strand) : (s.modStrand k f).agenda = s.agenda := rfl
@[simp] theorem State.modStrand_landed (k : Nat) (f : Strand → Strand) : (s.modStrand k f).landed = s.landed := rfl
@[simp] theorem State.modStrand_outbox (k : Nat) (f : Strand → Strand) : (s.modStrand k f).outbox = s.outbox := rfl
@[simp] theorem State.modStrand_tt (k : Nat) (j : Nat) (f : Strand → Strand) : (s.modStrand k f).tt j = s.tt j := rfl
@[simp] theorem State.modStrand_tenant (k : Nat) (j : Nat) (f : Strand → Strand) : (s.modStrand k f).tenant j = s.tenant j := rfl
@[simp] theorem State.modStrand_func (k : Nat) (j : Nat) (f : Strand → Strand) : (s.modStrand k f).func j = s.func j := rfl
@[simp] theorem State.modStrand_hen (k : Nat) (j : Nat) (f : Strand → Strand) : (s.modStrand k f).hen j = s.hen j := rfl
@[simp] theorem State.modStrand_hart (k : Nat) (j : Fin 32) (f : Strand → Strand) : (s.modStrand k f).hart j = s.hart j := rfl
@[simp] theorem State.modStrand_job (k : Nat) (j : Nat) (f : Strand → Strand) : (s.modStrand k f).job j = s.job j := rfl

/-! ### modTt -/

@[simp] theorem State.modTt_gclk (k : Nat) (f : Timetable → Timetable) : (s.modTt k f).gclk = s.gclk := rfl
@[simp] theorem State.modTt_pkg (k : Nat) (f : Timetable → Timetable) : (s.modTt k f).pkg = s.pkg := rfl
@[simp] theorem State.modTt_mem (k : Nat) (f : Timetable → Timetable) : (s.modTt k f).mem = s.mem := rfl
@[simp] theorem State.modTt_strands (k : Nat) (f : Timetable → Timetable) : (s.modTt k f).strands = s.strands := rfl
@[simp] theorem State.modTt_nextTt (k : Nat) (f : Timetable → Timetable) : (s.modTt k f).nextTt = s.nextTt := rfl
@[simp] theorem State.modTt_gates (k : Nat) (f : Timetable → Timetable) : (s.modTt k f).gates = s.gates := rfl
@[simp] theorem State.modTt_hens (k : Nat) (f : Timetable → Timetable) : (s.modTt k f).hens = s.hens := rfl
@[simp] theorem State.modTt_replays (k : Nat) (f : Timetable → Timetable) : (s.modTt k f).replays = s.replays := rfl
@[simp] theorem State.modTt_ports (k : Nat) (f : Timetable → Timetable) : (s.modTt k f).ports = s.ports := rfl
@[simp] theorem State.modTt_xlat (k : Nat) (f : Timetable → Timetable) : (s.modTt k f).xlat = s.xlat := rfl
@[simp] theorem State.modTt_farLines (k : Nat) (f : Timetable → Timetable) : (s.modTt k f).farLines = s.farLines := rfl
@[simp] theorem State.modTt_asks (k : Nat) (f : Timetable → Timetable) : (s.modTt k f).asks = s.asks := rfl
@[simp] theorem State.modTt_jobs (k : Nat) (f : Timetable → Timetable) : (s.modTt k f).jobs = s.jobs := rfl
@[simp] theorem State.modTt_nextJob (k : Nat) (f : Timetable → Timetable) : (s.modTt k f).nextJob = s.nextJob := rfl
@[simp] theorem State.modTt_colls (k : Nat) (f : Timetable → Timetable) : (s.modTt k f).colls = s.colls := rfl
@[simp] theorem State.modTt_tenants (k : Nat) (f : Timetable → Timetable) : (s.modTt k f).tenants = s.tenants := rfl
@[simp] theorem State.modTt_keys (k : Nat) (f : Timetable → Timetable) : (s.modTt k f).keys = s.keys := rfl
@[simp] theorem State.modTt_funcs (k : Nat) (f : Timetable → Timetable) : (s.modTt k f).funcs = s.funcs := rfl
@[simp] theorem State.modTt_launches (k : Nat) (f : Timetable → Timetable) : (s.modTt k f).launches = s.launches := rfl
@[simp] theorem State.modTt_nextLaunch (k : Nat) (f : Timetable → Timetable) : (s.modTt k f).nextLaunch = s.nextLaunch := rfl
@[simp] theorem State.modTt_requests (k : Nat) (f : Timetable → Timetable) : (s.modTt k f).requests = s.requests := rfl
@[simp] theorem State.modTt_nextReq (k : Nat) (f : Timetable → Timetable) : (s.modTt k f).nextReq = s.nextReq := rfl
@[simp] theorem State.modTt_compact (k : Nat) (f : Timetable → Timetable) : (s.modTt k f).compact = s.compact := rfl
@[simp] theorem State.modTt_preempt (k : Nat) (f : Timetable → Timetable) : (s.modTt k f).preempt = s.preempt := rfl
@[simp] theorem State.modTt_pairs (k : Nat) (f : Timetable → Timetable) : (s.modTt k f).pairs = s.pairs := rfl
@[simp] theorem State.modTt_reserve (k : Nat) (f : Timetable → Timetable) : (s.modTt k f).reserve = s.reserve := rfl
@[simp] theorem State.modTt_turns (k : Nat) (f : Timetable → Timetable) : (s.modTt k f).turns = s.turns := rfl
@[simp] theorem State.modTt_compactWait (k : Nat) (f : Timetable → Timetable) : (s.modTt k f).compactWait = s.compactWait := rfl
@[simp] theorem State.modTt_ageBound (k : Nat) (f : Timetable → Timetable) : (s.modTt k f).ageBound = s.ageBound := rfl
@[simp] theorem State.modTt_preemptDl (k : Nat) (f : Timetable → Timetable) : (s.modTt k f).preemptDl = s.preemptDl := rfl
@[simp] theorem State.modTt_preemptLimit (k : Nat) (f : Timetable → Timetable) : (s.modTt k f).preemptLimit = s.preemptLimit := rfl
@[simp] theorem State.modTt_estQrate (k : Nat) (f : Timetable → Timetable) : (s.modTt k f).estQrate = s.estQrate := rfl
@[simp] theorem State.modTt_estSrate (k : Nat) (f : Timetable → Timetable) : (s.modTt k f).estSrate = s.estSrate := rfl
@[simp] theorem State.modTt_links (k : Nat) (f : Timetable → Timetable) : (s.modTt k f).links = s.links := rfl
@[simp] theorem State.modTt_table (k : Nat) (f : Timetable → Timetable) : (s.modTt k f).table = s.table := rfl
@[simp] theorem State.modTt_lgen (k : Nat) (f : Timetable → Timetable) : (s.modTt k f).lgen = s.lgen := rfl
@[simp] theorem State.modTt_trained (k : Nat) (f : Timetable → Timetable) : (s.modTt k f).trained = s.trained := rfl
@[simp] theorem State.modTt_aligned (k : Nat) (f : Timetable → Timetable) : (s.modTt k f).aligned = s.aligned := rfl
@[simp] theorem State.modTt_oref (k : Nat) (f : Timetable → Timetable) : (s.modTt k f).oref = s.oref := rfl
@[simp] theorem State.modTt_offCount (k : Nat) (f : Timetable → Timetable) : (s.modTt k f).offCount = s.offCount := rfl
@[simp] theorem State.modTt_losses (k : Nat) (f : Timetable → Timetable) : (s.modTt k f).losses = s.losses := rfl
@[simp] theorem State.modTt_okCount (k : Nat) (f : Timetable → Timetable) : (s.modTt k f).okCount = s.okCount := rfl
@[simp] theorem State.modTt_holdLeft (k : Nat) (f : Timetable → Timetable) : (s.modTt k f).holdLeft = s.holdLeft := rfl
@[simp] theorem State.modTt_fastPll (k : Nat) (f : Timetable → Timetable) : (s.modTt k f).fastPll = s.fastPll := rfl
@[simp] theorem State.modTt_loaded (k : Nat) (f : Timetable → Timetable) : (s.modTt k f).loaded = s.loaded := rfl
@[simp] theorem State.modTt_loadedAt (k : Nat) (f : Timetable → Timetable) : (s.modTt k f).loadedAt = s.loadedAt := rfl
@[simp] theorem State.modTt_alignOut (k : Nat) (f : Timetable → Timetable) : (s.modTt k f).alignOut = s.alignOut := rfl
@[simp] theorem State.modTt_routers (k : Nat) (f : Timetable → Timetable) : (s.modTt k f).routers = s.routers := rfl
@[simp] theorem State.modTt_bridges (k : Nat) (f : Timetable → Timetable) : (s.modTt k f).bridges = s.bridges := rfl
@[simp] theorem State.modTt_linkTabs (k : Nat) (f : Timetable → Timetable) : (s.modTt k f).linkTabs = s.linkTabs := rfl
@[simp] theorem State.modTt_rerr (k : Nat) (f : Timetable → Timetable) : (s.modTt k f).rerr = s.rerr := rfl
@[simp] theorem State.modTt_flits (k : Nat) (f : Timetable → Timetable) : (s.modTt k f).flits = s.flits := rfl
@[simp] theorem State.modTt_lostFlits (k : Nat) (f : Timetable → Timetable) : (s.modTt k f).lostFlits = s.lostFlits := rfl
@[simp] theorem State.modTt_remoteSeq (k : Nat) (f : Timetable → Timetable) : (s.modTt k f).remoteSeq = s.remoteSeq := rfl
@[simp] theorem State.modTt_post (k : Nat) (f : Timetable → Timetable) : (s.modTt k f).post = s.post := rfl
@[simp] theorem State.modTt_remotes (k : Nat) (f : Timetable → Timetable) : (s.modTt k f).remotes = s.remotes := rfl
@[simp] theorem State.modTt_wanted (k : Nat) (f : Timetable → Timetable) : (s.modTt k f).wanted = s.wanted := rfl
@[simp] theorem State.modTt_codeStores (k : Nat) (f : Timetable → Timetable) : (s.modTt k f).codeStores = s.codeStores := rfl
@[simp] theorem State.modTt_synced (k : Nat) (f : Timetable → Timetable) : (s.modTt k f).synced = s.synced := rfl
@[simp] theorem State.modTt_arming (k : Nat) (f : Timetable → Timetable) : (s.modTt k f).arming = s.arming := rfl
@[simp] theorem State.modTt_lateBytes (k : Nat) (f : Timetable → Timetable) : (s.modTt k f).lateBytes = s.lateBytes := rfl
@[simp] theorem State.modTt_routines (k : Nat) (f : Timetable → Timetable) : (s.modTt k f).routines = s.routines := rfl
@[simp] theorem State.modTt_harts (k : Nat) (f : Timetable → Timetable) : (s.modTt k f).harts = s.harts := rfl
@[simp] theorem State.modTt_served (k : Nat) (f : Timetable → Timetable) : (s.modTt k f).served = s.served := rfl
@[simp] theorem State.modTt_firmware (k : Nat) (f : Timetable → Timetable) : (s.modTt k f).firmware = s.firmware := rfl
@[simp] theorem State.modTt_identity (k : Nat) (f : Timetable → Timetable) : (s.modTt k f).identity = s.identity := rfl
@[simp] theorem State.modTt_mule (k : Nat) (f : Timetable → Timetable) : (s.modTt k f).mule = s.mule := rfl
@[simp] theorem State.modTt_muleDown (k : Nat) (f : Timetable → Timetable) : (s.modTt k f).muleDown = s.muleDown := rfl
@[simp] theorem State.modTt_sram (k : Nat) (f : Timetable → Timetable) : (s.modTt k f).sram = s.sram := rfl
@[simp] theorem State.modTt_sramBase (k : Nat) (f : Timetable → Timetable) : (s.modTt k f).sramBase = s.sramBase := rfl
@[simp] theorem State.modTt_sramLen (k : Nat) (f : Timetable → Timetable) : (s.modTt k f).sramLen = s.sramLen := rfl
@[simp] theorem State.modTt_rotate (k : Nat) (f : Timetable → Timetable) : (s.modTt k f).rotate = s.rotate := rfl
@[simp] theorem State.modTt_bulks (k : Nat) (f : Timetable → Timetable) : (s.modTt k f).bulks = s.bulks := rfl
@[simp] theorem State.modTt_errlog (k : Nat) (f : Timetable → Timetable) : (s.modTt k f).errlog = s.errlog := rfl
@[simp] theorem State.modTt_lifecycle (k : Nat) (f : Timetable → Timetable) : (s.modTt k f).lifecycle = s.lifecycle := rfl
@[simp] theorem State.modTt_bringup (k : Nat) (f : Timetable → Timetable) : (s.modTt k f).bringup = s.bringup := rfl
@[simp] theorem State.modTt_secded (k : Nat) (f : Timetable → Timetable) : (s.modTt k f).secded = s.secded := rfl
@[simp] theorem State.modTt_choices (k : Nat) (f : Timetable → Timetable) : (s.modTt k f).choices = s.choices := rfl
@[simp] theorem State.modTt_cur (k : Nat) (f : Timetable → Timetable) : (s.modTt k f).cur = s.cur := rfl
@[simp] theorem State.modTt_todo (k : Nat) (f : Timetable → Timetable) : (s.modTt k f).todo = s.todo := rfl
@[simp] theorem State.modTt_stage (k : Nat) (f : Timetable → Timetable) : (s.modTt k f).stage = s.stage := rfl
@[simp] theorem State.modTt_agenda (k : Nat) (f : Timetable → Timetable) : (s.modTt k f).agenda = s.agenda := rfl
@[simp] theorem State.modTt_landed (k : Nat) (f : Timetable → Timetable) : (s.modTt k f).landed = s.landed := rfl
@[simp] theorem State.modTt_outbox (k : Nat) (f : Timetable → Timetable) : (s.modTt k f).outbox = s.outbox := rfl
@[simp] theorem State.modTt_strand (k : Nat) (j : Nat) (f : Timetable → Timetable) : (s.modTt k f).strand j = s.strand j := rfl
@[simp] theorem State.modTt_tenant (k : Nat) (j : Nat) (f : Timetable → Timetable) : (s.modTt k f).tenant j = s.tenant j := rfl
@[simp] theorem State.modTt_func (k : Nat) (j : Nat) (f : Timetable → Timetable) : (s.modTt k f).func j = s.func j := rfl
@[simp] theorem State.modTt_hen (k : Nat) (j : Nat) (f : Timetable → Timetable) : (s.modTt k f).hen j = s.hen j := rfl
@[simp] theorem State.modTt_hart (k : Nat) (j : Fin 32) (f : Timetable → Timetable) : (s.modTt k f).hart j = s.hart j := rfl
@[simp] theorem State.modTt_job (k : Nat) (j : Nat) (f : Timetable → Timetable) : (s.modTt k f).job j = s.job j := rfl

/-! ### Strand.push -/

@[simp] theorem Strand.push_life (slot lat : Nat) (e : Eff) : (st.push slot lat e).life = st.life := rfl
@[simp] theorem Strand.push_psg (slot lat : Nat) (e : Eff) : (st.push slot lat e).psg = st.psg := rfl
@[simp] theorem Strand.push_lcore (slot lat : Nat) (e : Eff) : (st.push slot lat e).lcore = st.lcore := rfl
@[simp] theorem Strand.push_sib (slot lat : Nat) (e : Eff) : (st.push slot lat e).sib = st.sib := rfl
@[simp] theorem Strand.push_cls (slot lat : Nat) (e : Eff) : (st.push slot lat e).cls = st.cls := rfl
@[simp] theorem Strand.push_d (slot lat : Nat) (e : Eff) : (st.push slot lat e).d = st.d := rfl
@[simp] theorem Strand.push_taint (slot lat : Nat) (e : Eff) : (st.push slot lat e).taint = st.taint := rfl
@[simp] theorem Strand.push_c (slot lat : Nat) (e : Eff) : (st.push slot lat e).c = st.c := rfl
@[simp] theorem Strand.push_v (slot lat : Nat) (e : Eff) : (st.push slot lat e).v = st.v := rfl
@[simp] theorem Strand.push_p (slot lat : Nat) (e : Eff) : (st.push slot lat e).p = st.p := rfl
@[simp] theorem Strand.push_mq (slot lat : Nat) (e : Eff) : (st.push slot lat e).mq = st.mq := rfl
@[simp] theorem Strand.push_mb (slot lat : Nat) (e : Eff) : (st.push slot lat e).mb = st.mb := rfl
@[simp] theorem Strand.push_csr (slot lat : Nat) (e : Eff) : (st.push slot lat e).csr = st.csr := rfl
@[simp] theorem Strand.push_fault (slot lat : Nat) (e : Eff) : (st.push slot lat e).fault = st.fault := rfl
@[simp] theorem Strand.push_qb (slot lat : Nat) (e : Eff) : (st.push slot lat e).qb = st.qb := rfl
@[simp] theorem Strand.push_vclk (slot lat : Nat) (e : Eff) : (st.push slot lat e).vclk = st.vclk := rfl
@[simp] theorem Strand.push_started (slot lat : Nat) (e : Eff) : (st.push slot lat e).started = st.started := rfl
@[simp] theorem Strand.push_ran (slot lat : Nat) (e : Eff) : (st.push slot lat e).ran = st.ran := rfl
@[simp] theorem Strand.push_begun (slot lat : Nat) (e : Eff) : (st.push slot lat e).begun = st.begun := rfl
@[simp] theorem Strand.push_pc (slot lat : Nat) (e : Eff) : (st.push slot lat e).pc = st.pc := rfl
@[simp] theorem Strand.push_bundle (slot lat : Nat) (e : Eff) : (st.push slot lat e).bundle = st.bundle := rfl
@[simp] theorem Strand.push_slots (slot lat : Nat) (e : Eff) : (st.push slot lat e).slots = st.slots := rfl
@[simp] theorem Strand.push_slotPc (slot lat : Nat) (e : Eff) : (st.push slot lat e).slotPc = st.slotPc := rfl
@[simp] theorem Strand.push_lastIss (slot lat : Nat) (e : Eff) : (st.push slot lat e).lastIss = st.lastIss := rfl
@[simp] theorem Strand.push_minGap (slot lat : Nat) (e : Eff) : (st.push slot lat e).minGap = st.minGap := rfl
@[simp] theorem Strand.push_redir (slot lat : Nat) (e : Eff) : (st.push slot lat e).redir = st.redir := rfl
@[simp] theorem Strand.push_loops (slot lat : Nat) (e : Eff) : (st.push slot lat e).loops = st.loops := rfl
@[simp] theorem Strand.push_met (slot lat : Nat) (e : Eff) : (st.push slot lat e).met = st.met := rfl
@[simp] theorem Strand.push_wait (slot lat : Nat) (e : Eff) : (st.push slot lat e).wait = st.wait := rfl
@[simp] theorem Strand.push_more (slot lat : Nat) (e : Eff) : (st.push slot lat e).more = st.more := rfl
@[simp] theorem Strand.push_owed (slot lat : Nat) (e : Eff) : (st.push slot lat e).owed = st.owed := rfl
@[simp] theorem Strand.push_pend (slot lat : Nat) (e : Eff) : (st.push slot lat e).pend = st.pend ++ [⟨st.vclk + lat, none, slot, st.seq, e⟩] := rfl
@[simp] theorem Strand.push_seq (slot lat : Nat) (e : Eff) : (st.push slot lat e).seq = st.seq + 1 := rfl
@[simp] theorem Strand.push_occV (slot lat : Nat) (e : Eff) : (st.push slot lat e).occV = st.occV := rfl
@[simp] theorem Strand.push_occT (slot lat : Nat) (e : Eff) : (st.push slot lat e).occT = st.occT := rfl
@[simp] theorem Strand.push_oq (slot lat : Nat) (e : Eff) : (st.push slot lat e).oq = st.oq := rfl
@[simp] theorem Strand.push_markers (slot lat : Nat) (e : Eff) : (st.push slot lat e).markers = st.markers := rfl
@[simp] theorem Strand.push_order (slot lat : Nat) (e : Eff) : (st.push slot lat e).order = st.order := rfl
@[simp] theorem Strand.push_qbheld (slot lat : Nat) (e : Eff) : (st.push slot lat e).qbheld = st.qbheld := rfl
@[simp] theorem Strand.push_sigs (slot lat : Nat) (e : Eff) : (st.push slot lat e).sigs = st.sigs := rfl
@[simp] theorem Strand.push_rels (slot lat : Nat) (e : Eff) : (st.push slot lat e).rels = st.rels := rfl
@[simp] theorem Strand.push_arrived (slot lat : Nat) (e : Eff) : (st.push slot lat e).arrived = st.arrived := rfl
@[simp] theorem Strand.push_barMet (slot lat : Nat) (e : Eff) : (st.push slot lat e).barMet = st.barMet := rfl
@[simp] theorem Strand.push_leaves (slot lat : Nat) (e : Eff) : (st.push slot lat e).leaves = st.leaves := rfl
@[simp] theorem Strand.push_sstep (slot lat : Nat) (e : Eff) : (st.push slot lat e).sstep = st.sstep := rfl
@[simp] theorem Strand.push_node (slot lat : Nat) (e : Eff) : (st.push slot lat e).node = st.node := rfl
@[simp] theorem Strand.push_halt (slot lat : Nat) (e : Eff) : (st.push slot lat e).halt = st.halt := rfl
@[simp] theorem Strand.push_susp (slot lat : Nat) (e : Eff) : (st.push slot lat e).susp = st.susp := rfl
@[simp] theorem Strand.push_safeAt (slot lat : Nat) (e : Eff) : (st.push slot lat e).safeAt = st.safeAt := rfl
@[simp] theorem Strand.push_stepPc (slot lat : Nat) (e : Eff) : (st.push slot lat e).stepPc = st.stepPc := rfl
@[simp] theorem Strand.push_stepOrder (slot lat : Nat) (e : Eff) : (st.push slot lat e).stepOrder = st.stepOrder := rfl
@[simp] theorem Strand.push_stepLc (slot lat : Nat) (e : Eff) : (st.push slot lat e).stepLc = st.stepLc := rfl
@[simp] theorem Strand.push_replay (slot lat : Nat) (e : Eff) : (st.push slot lat e).replay = st.replay := rfl
@[simp] theorem Strand.push_performed (slot lat : Nat) (e : Eff) : (st.push slot lat e).performed = st.performed := rfl
@[simp] theorem Strand.push_skip (slot lat : Nat) (e : Eff) : (st.push slot lat e).skip = st.skip := rfl
@[simp] theorem Strand.push_raised (slot lat : Nat) (e : Eff) : (st.push slot lat e).raised = st.raised := rfl
@[simp] theorem Strand.push_events (slot lat : Nat) (e : Eff) : (st.push slot lat e).events = st.events := rfl
@[simp] theorem Strand.push_ecsel (slot lat : Nat) (e : Eff) : (st.push slot lat e).ecsel = st.ecsel := rfl

/-! ### Strand.pushLoad -/

@[simp] theorem Strand.pushLoad_life (slot lat : Nat) (e : Eff) : (st.pushLoad slot lat e).life = st.life := rfl
@[simp] theorem Strand.pushLoad_psg (slot lat : Nat) (e : Eff) : (st.pushLoad slot lat e).psg = st.psg := rfl
@[simp] theorem Strand.pushLoad_lcore (slot lat : Nat) (e : Eff) : (st.pushLoad slot lat e).lcore = st.lcore := rfl
@[simp] theorem Strand.pushLoad_sib (slot lat : Nat) (e : Eff) : (st.pushLoad slot lat e).sib = st.sib := rfl
@[simp] theorem Strand.pushLoad_cls (slot lat : Nat) (e : Eff) : (st.pushLoad slot lat e).cls = st.cls := rfl
@[simp] theorem Strand.pushLoad_d (slot lat : Nat) (e : Eff) : (st.pushLoad slot lat e).d = st.d := rfl
@[simp] theorem Strand.pushLoad_taint (slot lat : Nat) (e : Eff) : (st.pushLoad slot lat e).taint = st.taint := rfl
@[simp] theorem Strand.pushLoad_c (slot lat : Nat) (e : Eff) : (st.pushLoad slot lat e).c = st.c := rfl
@[simp] theorem Strand.pushLoad_v (slot lat : Nat) (e : Eff) : (st.pushLoad slot lat e).v = st.v := rfl
@[simp] theorem Strand.pushLoad_p (slot lat : Nat) (e : Eff) : (st.pushLoad slot lat e).p = st.p := rfl
@[simp] theorem Strand.pushLoad_mq (slot lat : Nat) (e : Eff) : (st.pushLoad slot lat e).mq = st.mq := rfl
@[simp] theorem Strand.pushLoad_mb (slot lat : Nat) (e : Eff) : (st.pushLoad slot lat e).mb = st.mb := rfl
@[simp] theorem Strand.pushLoad_csr (slot lat : Nat) (e : Eff) : (st.pushLoad slot lat e).csr = st.csr := rfl
@[simp] theorem Strand.pushLoad_fault (slot lat : Nat) (e : Eff) : (st.pushLoad slot lat e).fault = st.fault := rfl
@[simp] theorem Strand.pushLoad_qb (slot lat : Nat) (e : Eff) : (st.pushLoad slot lat e).qb = st.qb := rfl
@[simp] theorem Strand.pushLoad_vclk (slot lat : Nat) (e : Eff) : (st.pushLoad slot lat e).vclk = st.vclk := rfl
@[simp] theorem Strand.pushLoad_started (slot lat : Nat) (e : Eff) : (st.pushLoad slot lat e).started = st.started := rfl
@[simp] theorem Strand.pushLoad_ran (slot lat : Nat) (e : Eff) : (st.pushLoad slot lat e).ran = st.ran := rfl
@[simp] theorem Strand.pushLoad_begun (slot lat : Nat) (e : Eff) : (st.pushLoad slot lat e).begun = st.begun := rfl
@[simp] theorem Strand.pushLoad_pc (slot lat : Nat) (e : Eff) : (st.pushLoad slot lat e).pc = st.pc := rfl
@[simp] theorem Strand.pushLoad_bundle (slot lat : Nat) (e : Eff) : (st.pushLoad slot lat e).bundle = st.bundle := rfl
@[simp] theorem Strand.pushLoad_slots (slot lat : Nat) (e : Eff) : (st.pushLoad slot lat e).slots = st.slots := rfl
@[simp] theorem Strand.pushLoad_slotPc (slot lat : Nat) (e : Eff) : (st.pushLoad slot lat e).slotPc = st.slotPc := rfl
@[simp] theorem Strand.pushLoad_lastIss (slot lat : Nat) (e : Eff) : (st.pushLoad slot lat e).lastIss = st.lastIss := rfl
@[simp] theorem Strand.pushLoad_minGap (slot lat : Nat) (e : Eff) : (st.pushLoad slot lat e).minGap = st.minGap := rfl
@[simp] theorem Strand.pushLoad_redir (slot lat : Nat) (e : Eff) : (st.pushLoad slot lat e).redir = st.redir := rfl
@[simp] theorem Strand.pushLoad_loops (slot lat : Nat) (e : Eff) : (st.pushLoad slot lat e).loops = st.loops := rfl
@[simp] theorem Strand.pushLoad_met (slot lat : Nat) (e : Eff) : (st.pushLoad slot lat e).met = st.met := rfl
@[simp] theorem Strand.pushLoad_wait (slot lat : Nat) (e : Eff) : (st.pushLoad slot lat e).wait = st.wait := rfl
@[simp] theorem Strand.pushLoad_more (slot lat : Nat) (e : Eff) : (st.pushLoad slot lat e).more = st.more := rfl
@[simp] theorem Strand.pushLoad_owed (slot lat : Nat) (e : Eff) : (st.pushLoad slot lat e).owed = st.owed := rfl
@[simp] theorem Strand.pushLoad_pend (slot lat : Nat) (e : Eff) : (st.pushLoad slot lat e).pend = st.pend ++ [⟨st.vclk + lat, some (st.vclk + lat), slot, st.seq, e⟩] := rfl
@[simp] theorem Strand.pushLoad_seq (slot lat : Nat) (e : Eff) : (st.pushLoad slot lat e).seq = st.seq + 1 := rfl
@[simp] theorem Strand.pushLoad_occV (slot lat : Nat) (e : Eff) : (st.pushLoad slot lat e).occV = st.occV := rfl
@[simp] theorem Strand.pushLoad_occT (slot lat : Nat) (e : Eff) : (st.pushLoad slot lat e).occT = st.occT := rfl
@[simp] theorem Strand.pushLoad_oq (slot lat : Nat) (e : Eff) : (st.pushLoad slot lat e).oq = st.oq := rfl
@[simp] theorem Strand.pushLoad_markers (slot lat : Nat) (e : Eff) : (st.pushLoad slot lat e).markers = st.markers := rfl
@[simp] theorem Strand.pushLoad_order (slot lat : Nat) (e : Eff) : (st.pushLoad slot lat e).order = st.order := rfl
@[simp] theorem Strand.pushLoad_qbheld (slot lat : Nat) (e : Eff) : (st.pushLoad slot lat e).qbheld = st.qbheld := rfl
@[simp] theorem Strand.pushLoad_sigs (slot lat : Nat) (e : Eff) : (st.pushLoad slot lat e).sigs = st.sigs := rfl
@[simp] theorem Strand.pushLoad_rels (slot lat : Nat) (e : Eff) : (st.pushLoad slot lat e).rels = st.rels := rfl
@[simp] theorem Strand.pushLoad_arrived (slot lat : Nat) (e : Eff) : (st.pushLoad slot lat e).arrived = st.arrived := rfl
@[simp] theorem Strand.pushLoad_barMet (slot lat : Nat) (e : Eff) : (st.pushLoad slot lat e).barMet = st.barMet := rfl
@[simp] theorem Strand.pushLoad_leaves (slot lat : Nat) (e : Eff) : (st.pushLoad slot lat e).leaves = st.leaves := rfl
@[simp] theorem Strand.pushLoad_sstep (slot lat : Nat) (e : Eff) : (st.pushLoad slot lat e).sstep = st.sstep := rfl
@[simp] theorem Strand.pushLoad_node (slot lat : Nat) (e : Eff) : (st.pushLoad slot lat e).node = st.node := rfl
@[simp] theorem Strand.pushLoad_halt (slot lat : Nat) (e : Eff) : (st.pushLoad slot lat e).halt = st.halt := rfl
@[simp] theorem Strand.pushLoad_susp (slot lat : Nat) (e : Eff) : (st.pushLoad slot lat e).susp = st.susp := rfl
@[simp] theorem Strand.pushLoad_safeAt (slot lat : Nat) (e : Eff) : (st.pushLoad slot lat e).safeAt = st.safeAt := rfl
@[simp] theorem Strand.pushLoad_stepPc (slot lat : Nat) (e : Eff) : (st.pushLoad slot lat e).stepPc = st.stepPc := rfl
@[simp] theorem Strand.pushLoad_stepOrder (slot lat : Nat) (e : Eff) : (st.pushLoad slot lat e).stepOrder = st.stepOrder := rfl
@[simp] theorem Strand.pushLoad_stepLc (slot lat : Nat) (e : Eff) : (st.pushLoad slot lat e).stepLc = st.stepLc := rfl
@[simp] theorem Strand.pushLoad_replay (slot lat : Nat) (e : Eff) : (st.pushLoad slot lat e).replay = st.replay := rfl
@[simp] theorem Strand.pushLoad_performed (slot lat : Nat) (e : Eff) : (st.pushLoad slot lat e).performed = st.performed := rfl
@[simp] theorem Strand.pushLoad_skip (slot lat : Nat) (e : Eff) : (st.pushLoad slot lat e).skip = st.skip := rfl
@[simp] theorem Strand.pushLoad_raised (slot lat : Nat) (e : Eff) : (st.pushLoad slot lat e).raised = st.raised := rfl
@[simp] theorem Strand.pushLoad_events (slot lat : Nat) (e : Eff) : (st.pushLoad slot lat e).events = st.events := rfl
@[simp] theorem Strand.pushLoad_ecsel (slot lat : Nat) (e : Eff) : (st.pushLoad slot lat e).ecsel = st.ecsel := rfl

/-! ### Strand.setCsr -/

@[simp] theorem Strand.setCsr_life (n : Nat) (v : BitVec 64) : (st.setCsr n v).life = st.life := rfl
@[simp] theorem Strand.setCsr_psg (n : Nat) (v : BitVec 64) : (st.setCsr n v).psg = st.psg := rfl
@[simp] theorem Strand.setCsr_lcore (n : Nat) (v : BitVec 64) : (st.setCsr n v).lcore = st.lcore := rfl
@[simp] theorem Strand.setCsr_sib (n : Nat) (v : BitVec 64) : (st.setCsr n v).sib = st.sib := rfl
@[simp] theorem Strand.setCsr_cls (n : Nat) (v : BitVec 64) : (st.setCsr n v).cls = st.cls := rfl
@[simp] theorem Strand.setCsr_d (n : Nat) (v : BitVec 64) : (st.setCsr n v).d = st.d := rfl
@[simp] theorem Strand.setCsr_taint (n : Nat) (v : BitVec 64) : (st.setCsr n v).taint = st.taint := rfl
@[simp] theorem Strand.setCsr_c (n : Nat) (v : BitVec 64) : (st.setCsr n v).c = st.c := rfl
@[simp] theorem Strand.setCsr_v (n : Nat) (v : BitVec 64) : (st.setCsr n v).v = st.v := rfl
@[simp] theorem Strand.setCsr_p (n : Nat) (v : BitVec 64) : (st.setCsr n v).p = st.p := rfl
@[simp] theorem Strand.setCsr_mq (n : Nat) (v : BitVec 64) : (st.setCsr n v).mq = st.mq := rfl
@[simp] theorem Strand.setCsr_mb (n : Nat) (v : BitVec 64) : (st.setCsr n v).mb = st.mb := rfl
@[simp] theorem Strand.setCsr_csr (n : Nat) (v : BitVec 64) : (st.setCsr n v).csr = SMap.set 0 st.csr n v := rfl
@[simp] theorem Strand.setCsr_fault (n : Nat) (v : BitVec 64) : (st.setCsr n v).fault = st.fault := rfl
@[simp] theorem Strand.setCsr_qb (n : Nat) (v : BitVec 64) : (st.setCsr n v).qb = st.qb := rfl
@[simp] theorem Strand.setCsr_vclk (n : Nat) (v : BitVec 64) : (st.setCsr n v).vclk = st.vclk := rfl
@[simp] theorem Strand.setCsr_started (n : Nat) (v : BitVec 64) : (st.setCsr n v).started = st.started := rfl
@[simp] theorem Strand.setCsr_ran (n : Nat) (v : BitVec 64) : (st.setCsr n v).ran = st.ran := rfl
@[simp] theorem Strand.setCsr_begun (n : Nat) (v : BitVec 64) : (st.setCsr n v).begun = st.begun := rfl
@[simp] theorem Strand.setCsr_pc (n : Nat) (v : BitVec 64) : (st.setCsr n v).pc = st.pc := rfl
@[simp] theorem Strand.setCsr_bundle (n : Nat) (v : BitVec 64) : (st.setCsr n v).bundle = st.bundle := rfl
@[simp] theorem Strand.setCsr_slots (n : Nat) (v : BitVec 64) : (st.setCsr n v).slots = st.slots := rfl
@[simp] theorem Strand.setCsr_slotPc (n : Nat) (v : BitVec 64) : (st.setCsr n v).slotPc = st.slotPc := rfl
@[simp] theorem Strand.setCsr_lastIss (n : Nat) (v : BitVec 64) : (st.setCsr n v).lastIss = st.lastIss := rfl
@[simp] theorem Strand.setCsr_minGap (n : Nat) (v : BitVec 64) : (st.setCsr n v).minGap = st.minGap := rfl
@[simp] theorem Strand.setCsr_redir (n : Nat) (v : BitVec 64) : (st.setCsr n v).redir = st.redir := rfl
@[simp] theorem Strand.setCsr_loops (n : Nat) (v : BitVec 64) : (st.setCsr n v).loops = st.loops := rfl
@[simp] theorem Strand.setCsr_met (n : Nat) (v : BitVec 64) : (st.setCsr n v).met = st.met := rfl
@[simp] theorem Strand.setCsr_wait (n : Nat) (v : BitVec 64) : (st.setCsr n v).wait = st.wait := rfl
@[simp] theorem Strand.setCsr_more (n : Nat) (v : BitVec 64) : (st.setCsr n v).more = st.more := rfl
@[simp] theorem Strand.setCsr_owed (n : Nat) (v : BitVec 64) : (st.setCsr n v).owed = st.owed := rfl
@[simp] theorem Strand.setCsr_pend (n : Nat) (v : BitVec 64) : (st.setCsr n v).pend = st.pend := rfl
@[simp] theorem Strand.setCsr_seq (n : Nat) (v : BitVec 64) : (st.setCsr n v).seq = st.seq := rfl
@[simp] theorem Strand.setCsr_occV (n : Nat) (v : BitVec 64) : (st.setCsr n v).occV = st.occV := rfl
@[simp] theorem Strand.setCsr_occT (n : Nat) (v : BitVec 64) : (st.setCsr n v).occT = st.occT := rfl
@[simp] theorem Strand.setCsr_oq (n : Nat) (v : BitVec 64) : (st.setCsr n v).oq = st.oq := rfl
@[simp] theorem Strand.setCsr_markers (n : Nat) (v : BitVec 64) : (st.setCsr n v).markers = st.markers := rfl
@[simp] theorem Strand.setCsr_order (n : Nat) (v : BitVec 64) : (st.setCsr n v).order = st.order := rfl
@[simp] theorem Strand.setCsr_qbheld (n : Nat) (v : BitVec 64) : (st.setCsr n v).qbheld = st.qbheld := rfl
@[simp] theorem Strand.setCsr_sigs (n : Nat) (v : BitVec 64) : (st.setCsr n v).sigs = st.sigs := rfl
@[simp] theorem Strand.setCsr_rels (n : Nat) (v : BitVec 64) : (st.setCsr n v).rels = st.rels := rfl
@[simp] theorem Strand.setCsr_arrived (n : Nat) (v : BitVec 64) : (st.setCsr n v).arrived = st.arrived := rfl
@[simp] theorem Strand.setCsr_barMet (n : Nat) (v : BitVec 64) : (st.setCsr n v).barMet = st.barMet := rfl
@[simp] theorem Strand.setCsr_leaves (n : Nat) (v : BitVec 64) : (st.setCsr n v).leaves = st.leaves := rfl
@[simp] theorem Strand.setCsr_sstep (n : Nat) (v : BitVec 64) : (st.setCsr n v).sstep = st.sstep := rfl
@[simp] theorem Strand.setCsr_node (n : Nat) (v : BitVec 64) : (st.setCsr n v).node = st.node := rfl
@[simp] theorem Strand.setCsr_halt (n : Nat) (v : BitVec 64) : (st.setCsr n v).halt = st.halt := rfl
@[simp] theorem Strand.setCsr_susp (n : Nat) (v : BitVec 64) : (st.setCsr n v).susp = st.susp := rfl
@[simp] theorem Strand.setCsr_safeAt (n : Nat) (v : BitVec 64) : (st.setCsr n v).safeAt = st.safeAt := rfl
@[simp] theorem Strand.setCsr_stepPc (n : Nat) (v : BitVec 64) : (st.setCsr n v).stepPc = st.stepPc := rfl
@[simp] theorem Strand.setCsr_stepOrder (n : Nat) (v : BitVec 64) : (st.setCsr n v).stepOrder = st.stepOrder := rfl
@[simp] theorem Strand.setCsr_stepLc (n : Nat) (v : BitVec 64) : (st.setCsr n v).stepLc = st.stepLc := rfl
@[simp] theorem Strand.setCsr_replay (n : Nat) (v : BitVec 64) : (st.setCsr n v).replay = st.replay := rfl
@[simp] theorem Strand.setCsr_performed (n : Nat) (v : BitVec 64) : (st.setCsr n v).performed = st.performed := rfl
@[simp] theorem Strand.setCsr_skip (n : Nat) (v : BitVec 64) : (st.setCsr n v).skip = st.skip := rfl
@[simp] theorem Strand.setCsr_raised (n : Nat) (v : BitVec 64) : (st.setCsr n v).raised = st.raised := rfl
@[simp] theorem Strand.setCsr_events (n : Nat) (v : BitVec 64) : (st.setCsr n v).events = st.events := rfl
@[simp] theorem Strand.setCsr_ecsel (n : Nat) (v : BitVec 64) : (st.setCsr n v).ecsel = st.ecsel := rfl

/-! ### Strand.setQb -/

@[simp] theorem Strand.setQb_life (h : Nat) (q : QB) : (st.setQb h q).life = st.life := rfl
@[simp] theorem Strand.setQb_psg (h : Nat) (q : QB) : (st.setQb h q).psg = st.psg := rfl
@[simp] theorem Strand.setQb_lcore (h : Nat) (q : QB) : (st.setQb h q).lcore = st.lcore := rfl
@[simp] theorem Strand.setQb_sib (h : Nat) (q : QB) : (st.setQb h q).sib = st.sib := rfl
@[simp] theorem Strand.setQb_cls (h : Nat) (q : QB) : (st.setQb h q).cls = st.cls := rfl
@[simp] theorem Strand.setQb_d (h : Nat) (q : QB) : (st.setQb h q).d = st.d := rfl
@[simp] theorem Strand.setQb_taint (h : Nat) (q : QB) : (st.setQb h q).taint = st.taint := rfl
@[simp] theorem Strand.setQb_c (h : Nat) (q : QB) : (st.setQb h q).c = st.c := rfl
@[simp] theorem Strand.setQb_v (h : Nat) (q : QB) : (st.setQb h q).v = st.v := rfl
@[simp] theorem Strand.setQb_p (h : Nat) (q : QB) : (st.setQb h q).p = st.p := rfl
@[simp] theorem Strand.setQb_mq (h : Nat) (q : QB) : (st.setQb h q).mq = st.mq := rfl
@[simp] theorem Strand.setQb_mb (h : Nat) (q : QB) : (st.setQb h q).mb = st.mb := rfl
@[simp] theorem Strand.setQb_csr (h : Nat) (q : QB) : (st.setQb h q).csr = st.csr := rfl
@[simp] theorem Strand.setQb_fault (h : Nat) (q : QB) : (st.setQb h q).fault = st.fault := rfl
@[simp] theorem Strand.setQb_qb (h : Nat) (q : QB) : (st.setQb h q).qb = SMap.set QB.zero st.qb h q := rfl
@[simp] theorem Strand.setQb_vclk (h : Nat) (q : QB) : (st.setQb h q).vclk = st.vclk := rfl
@[simp] theorem Strand.setQb_started (h : Nat) (q : QB) : (st.setQb h q).started = st.started := rfl
@[simp] theorem Strand.setQb_ran (h : Nat) (q : QB) : (st.setQb h q).ran = st.ran := rfl
@[simp] theorem Strand.setQb_begun (h : Nat) (q : QB) : (st.setQb h q).begun = st.begun := rfl
@[simp] theorem Strand.setQb_pc (h : Nat) (q : QB) : (st.setQb h q).pc = st.pc := rfl
@[simp] theorem Strand.setQb_bundle (h : Nat) (q : QB) : (st.setQb h q).bundle = st.bundle := rfl
@[simp] theorem Strand.setQb_slots (h : Nat) (q : QB) : (st.setQb h q).slots = st.slots := rfl
@[simp] theorem Strand.setQb_slotPc (h : Nat) (q : QB) : (st.setQb h q).slotPc = st.slotPc := rfl
@[simp] theorem Strand.setQb_lastIss (h : Nat) (q : QB) : (st.setQb h q).lastIss = st.lastIss := rfl
@[simp] theorem Strand.setQb_minGap (h : Nat) (q : QB) : (st.setQb h q).minGap = st.minGap := rfl
@[simp] theorem Strand.setQb_redir (h : Nat) (q : QB) : (st.setQb h q).redir = st.redir := rfl
@[simp] theorem Strand.setQb_loops (h : Nat) (q : QB) : (st.setQb h q).loops = st.loops := rfl
@[simp] theorem Strand.setQb_met (h : Nat) (q : QB) : (st.setQb h q).met = st.met := rfl
@[simp] theorem Strand.setQb_wait (h : Nat) (q : QB) : (st.setQb h q).wait = st.wait := rfl
@[simp] theorem Strand.setQb_more (h : Nat) (q : QB) : (st.setQb h q).more = st.more := rfl
@[simp] theorem Strand.setQb_owed (h : Nat) (q : QB) : (st.setQb h q).owed = st.owed := rfl
@[simp] theorem Strand.setQb_pend (h : Nat) (q : QB) : (st.setQb h q).pend = st.pend := rfl
@[simp] theorem Strand.setQb_seq (h : Nat) (q : QB) : (st.setQb h q).seq = st.seq := rfl
@[simp] theorem Strand.setQb_occV (h : Nat) (q : QB) : (st.setQb h q).occV = st.occV := rfl
@[simp] theorem Strand.setQb_occT (h : Nat) (q : QB) : (st.setQb h q).occT = st.occT := rfl
@[simp] theorem Strand.setQb_oq (h : Nat) (q : QB) : (st.setQb h q).oq = st.oq := rfl
@[simp] theorem Strand.setQb_markers (h : Nat) (q : QB) : (st.setQb h q).markers = st.markers := rfl
@[simp] theorem Strand.setQb_order (h : Nat) (q : QB) : (st.setQb h q).order = st.order := rfl
@[simp] theorem Strand.setQb_qbheld (h : Nat) (q : QB) : (st.setQb h q).qbheld = st.qbheld := rfl
@[simp] theorem Strand.setQb_sigs (h : Nat) (q : QB) : (st.setQb h q).sigs = st.sigs := rfl
@[simp] theorem Strand.setQb_rels (h : Nat) (q : QB) : (st.setQb h q).rels = st.rels := rfl
@[simp] theorem Strand.setQb_arrived (h : Nat) (q : QB) : (st.setQb h q).arrived = st.arrived := rfl
@[simp] theorem Strand.setQb_barMet (h : Nat) (q : QB) : (st.setQb h q).barMet = st.barMet := rfl
@[simp] theorem Strand.setQb_leaves (h : Nat) (q : QB) : (st.setQb h q).leaves = st.leaves := rfl
@[simp] theorem Strand.setQb_sstep (h : Nat) (q : QB) : (st.setQb h q).sstep = st.sstep := rfl
@[simp] theorem Strand.setQb_node (h : Nat) (q : QB) : (st.setQb h q).node = st.node := rfl
@[simp] theorem Strand.setQb_halt (h : Nat) (q : QB) : (st.setQb h q).halt = st.halt := rfl
@[simp] theorem Strand.setQb_susp (h : Nat) (q : QB) : (st.setQb h q).susp = st.susp := rfl
@[simp] theorem Strand.setQb_safeAt (h : Nat) (q : QB) : (st.setQb h q).safeAt = st.safeAt := rfl
@[simp] theorem Strand.setQb_stepPc (h : Nat) (q : QB) : (st.setQb h q).stepPc = st.stepPc := rfl
@[simp] theorem Strand.setQb_stepOrder (h : Nat) (q : QB) : (st.setQb h q).stepOrder = st.stepOrder := rfl
@[simp] theorem Strand.setQb_stepLc (h : Nat) (q : QB) : (st.setQb h q).stepLc = st.stepLc := rfl
@[simp] theorem Strand.setQb_replay (h : Nat) (q : QB) : (st.setQb h q).replay = st.replay := rfl
@[simp] theorem Strand.setQb_performed (h : Nat) (q : QB) : (st.setQb h q).performed = st.performed := rfl
@[simp] theorem Strand.setQb_skip (h : Nat) (q : QB) : (st.setQb h q).skip = st.skip := rfl
@[simp] theorem Strand.setQb_raised (h : Nat) (q : QB) : (st.setQb h q).raised = st.raised := rfl
@[simp] theorem Strand.setQb_events (h : Nat) (q : QB) : (st.setQb h q).events = st.events := rfl
@[simp] theorem Strand.setQb_ecsel (h : Nat) (q : QB) : (st.setQb h q).ecsel = st.ecsel := rfl

/-! ### Strand.setQueue -/

@[simp] theorem Strand.setQueue_life (q : Nat) (l : List QEnt) : (st.setQueue q l).life = st.life := rfl
@[simp] theorem Strand.setQueue_psg (q : Nat) (l : List QEnt) : (st.setQueue q l).psg = st.psg := rfl
@[simp] theorem Strand.setQueue_lcore (q : Nat) (l : List QEnt) : (st.setQueue q l).lcore = st.lcore := rfl
@[simp] theorem Strand.setQueue_sib (q : Nat) (l : List QEnt) : (st.setQueue q l).sib = st.sib := rfl
@[simp] theorem Strand.setQueue_cls (q : Nat) (l : List QEnt) : (st.setQueue q l).cls = st.cls := rfl
@[simp] theorem Strand.setQueue_d (q : Nat) (l : List QEnt) : (st.setQueue q l).d = st.d := rfl
@[simp] theorem Strand.setQueue_taint (q : Nat) (l : List QEnt) : (st.setQueue q l).taint = st.taint := rfl
@[simp] theorem Strand.setQueue_c (q : Nat) (l : List QEnt) : (st.setQueue q l).c = st.c := rfl
@[simp] theorem Strand.setQueue_v (q : Nat) (l : List QEnt) : (st.setQueue q l).v = st.v := rfl
@[simp] theorem Strand.setQueue_p (q : Nat) (l : List QEnt) : (st.setQueue q l).p = st.p := rfl
@[simp] theorem Strand.setQueue_mq (q : Nat) (l : List QEnt) : (st.setQueue q l).mq = st.mq := rfl
@[simp] theorem Strand.setQueue_mb (q : Nat) (l : List QEnt) : (st.setQueue q l).mb = st.mb := rfl
@[simp] theorem Strand.setQueue_csr (q : Nat) (l : List QEnt) : (st.setQueue q l).csr = st.csr := rfl
@[simp] theorem Strand.setQueue_fault (q : Nat) (l : List QEnt) : (st.setQueue q l).fault = st.fault := rfl
@[simp] theorem Strand.setQueue_qb (q : Nat) (l : List QEnt) : (st.setQueue q l).qb = st.qb := rfl
@[simp] theorem Strand.setQueue_vclk (q : Nat) (l : List QEnt) : (st.setQueue q l).vclk = st.vclk := rfl
@[simp] theorem Strand.setQueue_started (q : Nat) (l : List QEnt) : (st.setQueue q l).started = st.started := rfl
@[simp] theorem Strand.setQueue_ran (q : Nat) (l : List QEnt) : (st.setQueue q l).ran = st.ran := rfl
@[simp] theorem Strand.setQueue_begun (q : Nat) (l : List QEnt) : (st.setQueue q l).begun = st.begun := rfl
@[simp] theorem Strand.setQueue_pc (q : Nat) (l : List QEnt) : (st.setQueue q l).pc = st.pc := rfl
@[simp] theorem Strand.setQueue_bundle (q : Nat) (l : List QEnt) : (st.setQueue q l).bundle = st.bundle := rfl
@[simp] theorem Strand.setQueue_slots (q : Nat) (l : List QEnt) : (st.setQueue q l).slots = st.slots := rfl
@[simp] theorem Strand.setQueue_slotPc (q : Nat) (l : List QEnt) : (st.setQueue q l).slotPc = st.slotPc := rfl
@[simp] theorem Strand.setQueue_lastIss (q : Nat) (l : List QEnt) : (st.setQueue q l).lastIss = st.lastIss := rfl
@[simp] theorem Strand.setQueue_minGap (q : Nat) (l : List QEnt) : (st.setQueue q l).minGap = st.minGap := rfl
@[simp] theorem Strand.setQueue_redir (q : Nat) (l : List QEnt) : (st.setQueue q l).redir = st.redir := rfl
@[simp] theorem Strand.setQueue_loops (q : Nat) (l : List QEnt) : (st.setQueue q l).loops = st.loops := rfl
@[simp] theorem Strand.setQueue_met (q : Nat) (l : List QEnt) : (st.setQueue q l).met = st.met := rfl
@[simp] theorem Strand.setQueue_wait (q : Nat) (l : List QEnt) : (st.setQueue q l).wait = st.wait := rfl
@[simp] theorem Strand.setQueue_more (q : Nat) (l : List QEnt) : (st.setQueue q l).more = st.more := rfl
@[simp] theorem Strand.setQueue_owed (q : Nat) (l : List QEnt) : (st.setQueue q l).owed = st.owed := rfl
@[simp] theorem Strand.setQueue_pend (q : Nat) (l : List QEnt) : (st.setQueue q l).pend = st.pend := rfl
@[simp] theorem Strand.setQueue_seq (q : Nat) (l : List QEnt) : (st.setQueue q l).seq = st.seq := rfl
@[simp] theorem Strand.setQueue_occV (q : Nat) (l : List QEnt) : (st.setQueue q l).occV = st.occV := rfl
@[simp] theorem Strand.setQueue_occT (q : Nat) (l : List QEnt) : (st.setQueue q l).occT = st.occT := rfl
@[simp] theorem Strand.setQueue_oq (q : Nat) (l : List QEnt) : (st.setQueue q l).oq = SMap.set [] st.oq q l := rfl
@[simp] theorem Strand.setQueue_markers (q : Nat) (l : List QEnt) : (st.setQueue q l).markers = st.markers := rfl
@[simp] theorem Strand.setQueue_order (q : Nat) (l : List QEnt) : (st.setQueue q l).order = st.order := rfl
@[simp] theorem Strand.setQueue_qbheld (q : Nat) (l : List QEnt) : (st.setQueue q l).qbheld = st.qbheld := rfl
@[simp] theorem Strand.setQueue_sigs (q : Nat) (l : List QEnt) : (st.setQueue q l).sigs = st.sigs := rfl
@[simp] theorem Strand.setQueue_rels (q : Nat) (l : List QEnt) : (st.setQueue q l).rels = st.rels := rfl
@[simp] theorem Strand.setQueue_arrived (q : Nat) (l : List QEnt) : (st.setQueue q l).arrived = st.arrived := rfl
@[simp] theorem Strand.setQueue_barMet (q : Nat) (l : List QEnt) : (st.setQueue q l).barMet = st.barMet := rfl
@[simp] theorem Strand.setQueue_leaves (q : Nat) (l : List QEnt) : (st.setQueue q l).leaves = st.leaves := rfl
@[simp] theorem Strand.setQueue_sstep (q : Nat) (l : List QEnt) : (st.setQueue q l).sstep = st.sstep := rfl
@[simp] theorem Strand.setQueue_node (q : Nat) (l : List QEnt) : (st.setQueue q l).node = st.node := rfl
@[simp] theorem Strand.setQueue_halt (q : Nat) (l : List QEnt) : (st.setQueue q l).halt = st.halt := rfl
@[simp] theorem Strand.setQueue_susp (q : Nat) (l : List QEnt) : (st.setQueue q l).susp = st.susp := rfl
@[simp] theorem Strand.setQueue_safeAt (q : Nat) (l : List QEnt) : (st.setQueue q l).safeAt = st.safeAt := rfl
@[simp] theorem Strand.setQueue_stepPc (q : Nat) (l : List QEnt) : (st.setQueue q l).stepPc = st.stepPc := rfl
@[simp] theorem Strand.setQueue_stepOrder (q : Nat) (l : List QEnt) : (st.setQueue q l).stepOrder = st.stepOrder := rfl
@[simp] theorem Strand.setQueue_stepLc (q : Nat) (l : List QEnt) : (st.setQueue q l).stepLc = st.stepLc := rfl
@[simp] theorem Strand.setQueue_replay (q : Nat) (l : List QEnt) : (st.setQueue q l).replay = st.replay := rfl
@[simp] theorem Strand.setQueue_performed (q : Nat) (l : List QEnt) : (st.setQueue q l).performed = st.performed := rfl
@[simp] theorem Strand.setQueue_skip (q : Nat) (l : List QEnt) : (st.setQueue q l).skip = st.skip := rfl
@[simp] theorem Strand.setQueue_raised (q : Nat) (l : List QEnt) : (st.setQueue q l).raised = st.raised := rfl
@[simp] theorem Strand.setQueue_events (q : Nat) (l : List QEnt) : (st.setQueue q l).events = st.events := rfl
@[simp] theorem Strand.setQueue_ecsel (q : Nat) (l : List QEnt) : (st.setQueue q l).ecsel = st.ecsel := rfl

/-! ### Strand.count -/

@[simp] theorem Strand.count_life (src n : Nat) : (st.count src n).life = st.life := rfl
@[simp] theorem Strand.count_psg (src n : Nat) : (st.count src n).psg = st.psg := rfl
@[simp] theorem Strand.count_lcore (src n : Nat) : (st.count src n).lcore = st.lcore := rfl
@[simp] theorem Strand.count_sib (src n : Nat) : (st.count src n).sib = st.sib := rfl
@[simp] theorem Strand.count_cls (src n : Nat) : (st.count src n).cls = st.cls := rfl
@[simp] theorem Strand.count_d (src n : Nat) : (st.count src n).d = st.d := rfl
@[simp] theorem Strand.count_taint (src n : Nat) : (st.count src n).taint = st.taint := rfl
@[simp] theorem Strand.count_c (src n : Nat) : (st.count src n).c = st.c := rfl
@[simp] theorem Strand.count_v (src n : Nat) : (st.count src n).v = st.v := rfl
@[simp] theorem Strand.count_p (src n : Nat) : (st.count src n).p = st.p := rfl
@[simp] theorem Strand.count_mq (src n : Nat) : (st.count src n).mq = st.mq := rfl
@[simp] theorem Strand.count_mb (src n : Nat) : (st.count src n).mb = st.mb := rfl
@[simp] theorem Strand.count_csr (src n : Nat) : (st.count src n).csr = st.csr := rfl
@[simp] theorem Strand.count_fault (src n : Nat) : (st.count src n).fault = st.fault := rfl
@[simp] theorem Strand.count_qb (src n : Nat) : (st.count src n).qb = st.qb := rfl
@[simp] theorem Strand.count_vclk (src n : Nat) : (st.count src n).vclk = st.vclk := rfl
@[simp] theorem Strand.count_started (src n : Nat) : (st.count src n).started = st.started := rfl
@[simp] theorem Strand.count_ran (src n : Nat) : (st.count src n).ran = st.ran := rfl
@[simp] theorem Strand.count_begun (src n : Nat) : (st.count src n).begun = st.begun := rfl
@[simp] theorem Strand.count_pc (src n : Nat) : (st.count src n).pc = st.pc := rfl
@[simp] theorem Strand.count_bundle (src n : Nat) : (st.count src n).bundle = st.bundle := rfl
@[simp] theorem Strand.count_slots (src n : Nat) : (st.count src n).slots = st.slots := rfl
@[simp] theorem Strand.count_slotPc (src n : Nat) : (st.count src n).slotPc = st.slotPc := rfl
@[simp] theorem Strand.count_lastIss (src n : Nat) : (st.count src n).lastIss = st.lastIss := rfl
@[simp] theorem Strand.count_minGap (src n : Nat) : (st.count src n).minGap = st.minGap := rfl
@[simp] theorem Strand.count_redir (src n : Nat) : (st.count src n).redir = st.redir := rfl
@[simp] theorem Strand.count_loops (src n : Nat) : (st.count src n).loops = st.loops := rfl
@[simp] theorem Strand.count_met (src n : Nat) : (st.count src n).met = st.met := rfl
@[simp] theorem Strand.count_wait (src n : Nat) : (st.count src n).wait = st.wait := rfl
@[simp] theorem Strand.count_more (src n : Nat) : (st.count src n).more = st.more := rfl
@[simp] theorem Strand.count_owed (src n : Nat) : (st.count src n).owed = st.owed := rfl
@[simp] theorem Strand.count_pend (src n : Nat) : (st.count src n).pend = st.pend := rfl
@[simp] theorem Strand.count_seq (src n : Nat) : (st.count src n).seq = st.seq := rfl
@[simp] theorem Strand.count_occV (src n : Nat) : (st.count src n).occV = st.occV := rfl
@[simp] theorem Strand.count_occT (src n : Nat) : (st.count src n).occT = st.occT := rfl
@[simp] theorem Strand.count_oq (src n : Nat) : (st.count src n).oq = st.oq := rfl
@[simp] theorem Strand.count_markers (src n : Nat) : (st.count src n).markers = st.markers := rfl
@[simp] theorem Strand.count_order (src n : Nat) : (st.count src n).order = st.order := rfl
@[simp] theorem Strand.count_qbheld (src n : Nat) : (st.count src n).qbheld = st.qbheld := rfl
@[simp] theorem Strand.count_sigs (src n : Nat) : (st.count src n).sigs = st.sigs := rfl
@[simp] theorem Strand.count_rels (src n : Nat) : (st.count src n).rels = st.rels := rfl
@[simp] theorem Strand.count_arrived (src n : Nat) : (st.count src n).arrived = st.arrived := rfl
@[simp] theorem Strand.count_barMet (src n : Nat) : (st.count src n).barMet = st.barMet := rfl
@[simp] theorem Strand.count_leaves (src n : Nat) : (st.count src n).leaves = st.leaves := rfl
@[simp] theorem Strand.count_sstep (src n : Nat) : (st.count src n).sstep = st.sstep := rfl
@[simp] theorem Strand.count_node (src n : Nat) : (st.count src n).node = st.node := rfl
@[simp] theorem Strand.count_halt (src n : Nat) : (st.count src n).halt = st.halt := rfl
@[simp] theorem Strand.count_susp (src n : Nat) : (st.count src n).susp = st.susp := rfl
@[simp] theorem Strand.count_safeAt (src n : Nat) : (st.count src n).safeAt = st.safeAt := rfl
@[simp] theorem Strand.count_stepPc (src n : Nat) : (st.count src n).stepPc = st.stepPc := rfl
@[simp] theorem Strand.count_stepOrder (src n : Nat) : (st.count src n).stepOrder = st.stepOrder := rfl
@[simp] theorem Strand.count_stepLc (src n : Nat) : (st.count src n).stepLc = st.stepLc := rfl
@[simp] theorem Strand.count_replay (src n : Nat) : (st.count src n).replay = st.replay := rfl
@[simp] theorem Strand.count_performed (src n : Nat) : (st.count src n).performed = st.performed := rfl
@[simp] theorem Strand.count_skip (src n : Nat) : (st.count src n).skip = st.skip := rfl
@[simp] theorem Strand.count_raised (src n : Nat) : (st.count src n).raised = st.raised := rfl
@[simp] theorem Strand.count_events (src n : Nat) : (st.count src n).events = SMap.set 0 st.events src (SMap.get 0 st.events src + n) := rfl
@[simp] theorem Strand.count_ecsel (src n : Nat) : (st.count src n).ecsel = st.ecsel := rfl

/-! ### Strand.wd -/

@[simp] theorem Strand.wd_life (r : Nat) (v : BitVec 64) (t : Bool) : (st.wd r v t).life = st.life := by
  unfold Strand.wd; split <;> rfl
@[simp] theorem Strand.wd_psg (r : Nat) (v : BitVec 64) (t : Bool) : (st.wd r v t).psg = st.psg := by
  unfold Strand.wd; split <;> rfl
@[simp] theorem Strand.wd_lcore (r : Nat) (v : BitVec 64) (t : Bool) : (st.wd r v t).lcore = st.lcore := by
  unfold Strand.wd; split <;> rfl
@[simp] theorem Strand.wd_sib (r : Nat) (v : BitVec 64) (t : Bool) : (st.wd r v t).sib = st.sib := by
  unfold Strand.wd; split <;> rfl
@[simp] theorem Strand.wd_cls (r : Nat) (v : BitVec 64) (t : Bool) : (st.wd r v t).cls = st.cls := by
  unfold Strand.wd; split <;> rfl
@[simp] theorem Strand.wd_c (r : Nat) (v : BitVec 64) (t : Bool) : (st.wd r v t).c = st.c := by
  unfold Strand.wd; split <;> rfl
@[simp] theorem Strand.wd_v (r : Nat) (v : BitVec 64) (t : Bool) : (st.wd r v t).v = st.v := by
  unfold Strand.wd; split <;> rfl
@[simp] theorem Strand.wd_p (r : Nat) (v : BitVec 64) (t : Bool) : (st.wd r v t).p = st.p := by
  unfold Strand.wd; split <;> rfl
@[simp] theorem Strand.wd_mq (r : Nat) (v : BitVec 64) (t : Bool) : (st.wd r v t).mq = st.mq := by
  unfold Strand.wd; split <;> rfl
@[simp] theorem Strand.wd_mb (r : Nat) (v : BitVec 64) (t : Bool) : (st.wd r v t).mb = st.mb := by
  unfold Strand.wd; split <;> rfl
@[simp] theorem Strand.wd_csr (r : Nat) (v : BitVec 64) (t : Bool) : (st.wd r v t).csr = st.csr := by
  unfold Strand.wd; split <;> rfl
@[simp] theorem Strand.wd_fault (r : Nat) (v : BitVec 64) (t : Bool) : (st.wd r v t).fault = st.fault := by
  unfold Strand.wd; split <;> rfl
@[simp] theorem Strand.wd_qb (r : Nat) (v : BitVec 64) (t : Bool) : (st.wd r v t).qb = st.qb := by
  unfold Strand.wd; split <;> rfl
@[simp] theorem Strand.wd_vclk (r : Nat) (v : BitVec 64) (t : Bool) : (st.wd r v t).vclk = st.vclk := by
  unfold Strand.wd; split <;> rfl
@[simp] theorem Strand.wd_started (r : Nat) (v : BitVec 64) (t : Bool) : (st.wd r v t).started = st.started := by
  unfold Strand.wd; split <;> rfl
@[simp] theorem Strand.wd_ran (r : Nat) (v : BitVec 64) (t : Bool) : (st.wd r v t).ran = st.ran := by
  unfold Strand.wd; split <;> rfl
@[simp] theorem Strand.wd_begun (r : Nat) (v : BitVec 64) (t : Bool) : (st.wd r v t).begun = st.begun := by
  unfold Strand.wd; split <;> rfl
@[simp] theorem Strand.wd_pc (r : Nat) (v : BitVec 64) (t : Bool) : (st.wd r v t).pc = st.pc := by
  unfold Strand.wd; split <;> rfl
@[simp] theorem Strand.wd_bundle (r : Nat) (v : BitVec 64) (t : Bool) : (st.wd r v t).bundle = st.bundle := by
  unfold Strand.wd; split <;> rfl
@[simp] theorem Strand.wd_slots (r : Nat) (v : BitVec 64) (t : Bool) : (st.wd r v t).slots = st.slots := by
  unfold Strand.wd; split <;> rfl
@[simp] theorem Strand.wd_slotPc (r : Nat) (v : BitVec 64) (t : Bool) : (st.wd r v t).slotPc = st.slotPc := by
  unfold Strand.wd; split <;> rfl
@[simp] theorem Strand.wd_lastIss (r : Nat) (v : BitVec 64) (t : Bool) : (st.wd r v t).lastIss = st.lastIss := by
  unfold Strand.wd; split <;> rfl
@[simp] theorem Strand.wd_minGap (r : Nat) (v : BitVec 64) (t : Bool) : (st.wd r v t).minGap = st.minGap := by
  unfold Strand.wd; split <;> rfl
@[simp] theorem Strand.wd_redir (r : Nat) (v : BitVec 64) (t : Bool) : (st.wd r v t).redir = st.redir := by
  unfold Strand.wd; split <;> rfl
@[simp] theorem Strand.wd_loops (r : Nat) (v : BitVec 64) (t : Bool) : (st.wd r v t).loops = st.loops := by
  unfold Strand.wd; split <;> rfl
@[simp] theorem Strand.wd_met (r : Nat) (v : BitVec 64) (t : Bool) : (st.wd r v t).met = st.met := by
  unfold Strand.wd; split <;> rfl
@[simp] theorem Strand.wd_wait (r : Nat) (v : BitVec 64) (t : Bool) : (st.wd r v t).wait = st.wait := by
  unfold Strand.wd; split <;> rfl
@[simp] theorem Strand.wd_more (r : Nat) (v : BitVec 64) (t : Bool) : (st.wd r v t).more = st.more := by
  unfold Strand.wd; split <;> rfl
@[simp] theorem Strand.wd_owed (r : Nat) (v : BitVec 64) (t : Bool) : (st.wd r v t).owed = st.owed := by
  unfold Strand.wd; split <;> rfl
@[simp] theorem Strand.wd_pend (r : Nat) (v : BitVec 64) (t : Bool) : (st.wd r v t).pend = st.pend := by
  unfold Strand.wd; split <;> rfl
@[simp] theorem Strand.wd_seq (r : Nat) (v : BitVec 64) (t : Bool) : (st.wd r v t).seq = st.seq := by
  unfold Strand.wd; split <;> rfl
@[simp] theorem Strand.wd_occV (r : Nat) (v : BitVec 64) (t : Bool) : (st.wd r v t).occV = st.occV := by
  unfold Strand.wd; split <;> rfl
@[simp] theorem Strand.wd_occT (r : Nat) (v : BitVec 64) (t : Bool) : (st.wd r v t).occT = st.occT := by
  unfold Strand.wd; split <;> rfl
@[simp] theorem Strand.wd_oq (r : Nat) (v : BitVec 64) (t : Bool) : (st.wd r v t).oq = st.oq := by
  unfold Strand.wd; split <;> rfl
@[simp] theorem Strand.wd_markers (r : Nat) (v : BitVec 64) (t : Bool) : (st.wd r v t).markers = st.markers := by
  unfold Strand.wd; split <;> rfl
@[simp] theorem Strand.wd_order (r : Nat) (v : BitVec 64) (t : Bool) : (st.wd r v t).order = st.order := by
  unfold Strand.wd; split <;> rfl
@[simp] theorem Strand.wd_qbheld (r : Nat) (v : BitVec 64) (t : Bool) : (st.wd r v t).qbheld = st.qbheld := by
  unfold Strand.wd; split <;> rfl
@[simp] theorem Strand.wd_sigs (r : Nat) (v : BitVec 64) (t : Bool) : (st.wd r v t).sigs = st.sigs := by
  unfold Strand.wd; split <;> rfl
@[simp] theorem Strand.wd_rels (r : Nat) (v : BitVec 64) (t : Bool) : (st.wd r v t).rels = st.rels := by
  unfold Strand.wd; split <;> rfl
@[simp] theorem Strand.wd_arrived (r : Nat) (v : BitVec 64) (t : Bool) : (st.wd r v t).arrived = st.arrived := by
  unfold Strand.wd; split <;> rfl
@[simp] theorem Strand.wd_barMet (r : Nat) (v : BitVec 64) (t : Bool) : (st.wd r v t).barMet = st.barMet := by
  unfold Strand.wd; split <;> rfl
@[simp] theorem Strand.wd_leaves (r : Nat) (v : BitVec 64) (t : Bool) : (st.wd r v t).leaves = st.leaves := by
  unfold Strand.wd; split <;> rfl
@[simp] theorem Strand.wd_sstep (r : Nat) (v : BitVec 64) (t : Bool) : (st.wd r v t).sstep = st.sstep := by
  unfold Strand.wd; split <;> rfl
@[simp] theorem Strand.wd_node (r : Nat) (v : BitVec 64) (t : Bool) : (st.wd r v t).node = st.node := by
  unfold Strand.wd; split <;> rfl
@[simp] theorem Strand.wd_halt (r : Nat) (v : BitVec 64) (t : Bool) : (st.wd r v t).halt = st.halt := by
  unfold Strand.wd; split <;> rfl
@[simp] theorem Strand.wd_susp (r : Nat) (v : BitVec 64) (t : Bool) : (st.wd r v t).susp = st.susp := by
  unfold Strand.wd; split <;> rfl
@[simp] theorem Strand.wd_safeAt (r : Nat) (v : BitVec 64) (t : Bool) : (st.wd r v t).safeAt = st.safeAt := by
  unfold Strand.wd; split <;> rfl
@[simp] theorem Strand.wd_stepPc (r : Nat) (v : BitVec 64) (t : Bool) : (st.wd r v t).stepPc = st.stepPc := by
  unfold Strand.wd; split <;> rfl
@[simp] theorem Strand.wd_stepOrder (r : Nat) (v : BitVec 64) (t : Bool) : (st.wd r v t).stepOrder = st.stepOrder := by
  unfold Strand.wd; split <;> rfl
@[simp] theorem Strand.wd_stepLc (r : Nat) (v : BitVec 64) (t : Bool) : (st.wd r v t).stepLc = st.stepLc := by
  unfold Strand.wd; split <;> rfl
@[simp] theorem Strand.wd_replay (r : Nat) (v : BitVec 64) (t : Bool) : (st.wd r v t).replay = st.replay := by
  unfold Strand.wd; split <;> rfl
@[simp] theorem Strand.wd_performed (r : Nat) (v : BitVec 64) (t : Bool) : (st.wd r v t).performed = st.performed := by
  unfold Strand.wd; split <;> rfl
@[simp] theorem Strand.wd_skip (r : Nat) (v : BitVec 64) (t : Bool) : (st.wd r v t).skip = st.skip := by
  unfold Strand.wd; split <;> rfl
@[simp] theorem Strand.wd_raised (r : Nat) (v : BitVec 64) (t : Bool) : (st.wd r v t).raised = st.raised := by
  unfold Strand.wd; split <;> rfl
@[simp] theorem Strand.wd_events (r : Nat) (v : BitVec 64) (t : Bool) : (st.wd r v t).events = st.events := by
  unfold Strand.wd; split <;> rfl
@[simp] theorem Strand.wd_ecsel (r : Nat) (v : BitVec 64) (t : Bool) : (st.wd r v t).ecsel = st.ecsel := by
  unfold Strand.wd; split <;> rfl

/-! ### Strand.wc -/

@[simp] theorem Strand.wc_life (r : Nat) (v : Cap) : (st.wc r v).life = st.life := by
  unfold Strand.wc; split <;> rfl
@[simp] theorem Strand.wc_psg (r : Nat) (v : Cap) : (st.wc r v).psg = st.psg := by
  unfold Strand.wc; split <;> rfl
@[simp] theorem Strand.wc_lcore (r : Nat) (v : Cap) : (st.wc r v).lcore = st.lcore := by
  unfold Strand.wc; split <;> rfl
@[simp] theorem Strand.wc_sib (r : Nat) (v : Cap) : (st.wc r v).sib = st.sib := by
  unfold Strand.wc; split <;> rfl
@[simp] theorem Strand.wc_cls (r : Nat) (v : Cap) : (st.wc r v).cls = st.cls := by
  unfold Strand.wc; split <;> rfl
@[simp] theorem Strand.wc_d (r : Nat) (v : Cap) : (st.wc r v).d = st.d := by
  unfold Strand.wc; split <;> rfl
@[simp] theorem Strand.wc_taint (r : Nat) (v : Cap) : (st.wc r v).taint = st.taint := by
  unfold Strand.wc; split <;> rfl
@[simp] theorem Strand.wc_v (r : Nat) (v : Cap) : (st.wc r v).v = st.v := by
  unfold Strand.wc; split <;> rfl
@[simp] theorem Strand.wc_p (r : Nat) (v : Cap) : (st.wc r v).p = st.p := by
  unfold Strand.wc; split <;> rfl
@[simp] theorem Strand.wc_mq (r : Nat) (v : Cap) : (st.wc r v).mq = st.mq := by
  unfold Strand.wc; split <;> rfl
@[simp] theorem Strand.wc_mb (r : Nat) (v : Cap) : (st.wc r v).mb = st.mb := by
  unfold Strand.wc; split <;> rfl
@[simp] theorem Strand.wc_csr (r : Nat) (v : Cap) : (st.wc r v).csr = st.csr := by
  unfold Strand.wc; split <;> rfl
@[simp] theorem Strand.wc_fault (r : Nat) (v : Cap) : (st.wc r v).fault = st.fault := by
  unfold Strand.wc; split <;> rfl
@[simp] theorem Strand.wc_qb (r : Nat) (v : Cap) : (st.wc r v).qb = st.qb := by
  unfold Strand.wc; split <;> rfl
@[simp] theorem Strand.wc_vclk (r : Nat) (v : Cap) : (st.wc r v).vclk = st.vclk := by
  unfold Strand.wc; split <;> rfl
@[simp] theorem Strand.wc_started (r : Nat) (v : Cap) : (st.wc r v).started = st.started := by
  unfold Strand.wc; split <;> rfl
@[simp] theorem Strand.wc_ran (r : Nat) (v : Cap) : (st.wc r v).ran = st.ran := by
  unfold Strand.wc; split <;> rfl
@[simp] theorem Strand.wc_begun (r : Nat) (v : Cap) : (st.wc r v).begun = st.begun := by
  unfold Strand.wc; split <;> rfl
@[simp] theorem Strand.wc_pc (r : Nat) (v : Cap) : (st.wc r v).pc = st.pc := by
  unfold Strand.wc; split <;> rfl
@[simp] theorem Strand.wc_bundle (r : Nat) (v : Cap) : (st.wc r v).bundle = st.bundle := by
  unfold Strand.wc; split <;> rfl
@[simp] theorem Strand.wc_slots (r : Nat) (v : Cap) : (st.wc r v).slots = st.slots := by
  unfold Strand.wc; split <;> rfl
@[simp] theorem Strand.wc_slotPc (r : Nat) (v : Cap) : (st.wc r v).slotPc = st.slotPc := by
  unfold Strand.wc; split <;> rfl
@[simp] theorem Strand.wc_lastIss (r : Nat) (v : Cap) : (st.wc r v).lastIss = st.lastIss := by
  unfold Strand.wc; split <;> rfl
@[simp] theorem Strand.wc_minGap (r : Nat) (v : Cap) : (st.wc r v).minGap = st.minGap := by
  unfold Strand.wc; split <;> rfl
@[simp] theorem Strand.wc_redir (r : Nat) (v : Cap) : (st.wc r v).redir = st.redir := by
  unfold Strand.wc; split <;> rfl
@[simp] theorem Strand.wc_loops (r : Nat) (v : Cap) : (st.wc r v).loops = st.loops := by
  unfold Strand.wc; split <;> rfl
@[simp] theorem Strand.wc_met (r : Nat) (v : Cap) : (st.wc r v).met = st.met := by
  unfold Strand.wc; split <;> rfl
@[simp] theorem Strand.wc_wait (r : Nat) (v : Cap) : (st.wc r v).wait = st.wait := by
  unfold Strand.wc; split <;> rfl
@[simp] theorem Strand.wc_more (r : Nat) (v : Cap) : (st.wc r v).more = st.more := by
  unfold Strand.wc; split <;> rfl
@[simp] theorem Strand.wc_owed (r : Nat) (v : Cap) : (st.wc r v).owed = st.owed := by
  unfold Strand.wc; split <;> rfl
@[simp] theorem Strand.wc_pend (r : Nat) (v : Cap) : (st.wc r v).pend = st.pend := by
  unfold Strand.wc; split <;> rfl
@[simp] theorem Strand.wc_seq (r : Nat) (v : Cap) : (st.wc r v).seq = st.seq := by
  unfold Strand.wc; split <;> rfl
@[simp] theorem Strand.wc_occV (r : Nat) (v : Cap) : (st.wc r v).occV = st.occV := by
  unfold Strand.wc; split <;> rfl
@[simp] theorem Strand.wc_occT (r : Nat) (v : Cap) : (st.wc r v).occT = st.occT := by
  unfold Strand.wc; split <;> rfl
@[simp] theorem Strand.wc_oq (r : Nat) (v : Cap) : (st.wc r v).oq = st.oq := by
  unfold Strand.wc; split <;> rfl
@[simp] theorem Strand.wc_markers (r : Nat) (v : Cap) : (st.wc r v).markers = st.markers := by
  unfold Strand.wc; split <;> rfl
@[simp] theorem Strand.wc_order (r : Nat) (v : Cap) : (st.wc r v).order = st.order := by
  unfold Strand.wc; split <;> rfl
@[simp] theorem Strand.wc_qbheld (r : Nat) (v : Cap) : (st.wc r v).qbheld = st.qbheld := by
  unfold Strand.wc; split <;> rfl
@[simp] theorem Strand.wc_sigs (r : Nat) (v : Cap) : (st.wc r v).sigs = st.sigs := by
  unfold Strand.wc; split <;> rfl
@[simp] theorem Strand.wc_rels (r : Nat) (v : Cap) : (st.wc r v).rels = st.rels := by
  unfold Strand.wc; split <;> rfl
@[simp] theorem Strand.wc_arrived (r : Nat) (v : Cap) : (st.wc r v).arrived = st.arrived := by
  unfold Strand.wc; split <;> rfl
@[simp] theorem Strand.wc_barMet (r : Nat) (v : Cap) : (st.wc r v).barMet = st.barMet := by
  unfold Strand.wc; split <;> rfl
@[simp] theorem Strand.wc_leaves (r : Nat) (v : Cap) : (st.wc r v).leaves = st.leaves := by
  unfold Strand.wc; split <;> rfl
@[simp] theorem Strand.wc_sstep (r : Nat) (v : Cap) : (st.wc r v).sstep = st.sstep := by
  unfold Strand.wc; split <;> rfl
@[simp] theorem Strand.wc_node (r : Nat) (v : Cap) : (st.wc r v).node = st.node := by
  unfold Strand.wc; split <;> rfl
@[simp] theorem Strand.wc_halt (r : Nat) (v : Cap) : (st.wc r v).halt = st.halt := by
  unfold Strand.wc; split <;> rfl
@[simp] theorem Strand.wc_susp (r : Nat) (v : Cap) : (st.wc r v).susp = st.susp := by
  unfold Strand.wc; split <;> rfl
@[simp] theorem Strand.wc_safeAt (r : Nat) (v : Cap) : (st.wc r v).safeAt = st.safeAt := by
  unfold Strand.wc; split <;> rfl
@[simp] theorem Strand.wc_stepPc (r : Nat) (v : Cap) : (st.wc r v).stepPc = st.stepPc := by
  unfold Strand.wc; split <;> rfl
@[simp] theorem Strand.wc_stepOrder (r : Nat) (v : Cap) : (st.wc r v).stepOrder = st.stepOrder := by
  unfold Strand.wc; split <;> rfl
@[simp] theorem Strand.wc_stepLc (r : Nat) (v : Cap) : (st.wc r v).stepLc = st.stepLc := by
  unfold Strand.wc; split <;> rfl
@[simp] theorem Strand.wc_replay (r : Nat) (v : Cap) : (st.wc r v).replay = st.replay := by
  unfold Strand.wc; split <;> rfl
@[simp] theorem Strand.wc_performed (r : Nat) (v : Cap) : (st.wc r v).performed = st.performed := by
  unfold Strand.wc; split <;> rfl
@[simp] theorem Strand.wc_skip (r : Nat) (v : Cap) : (st.wc r v).skip = st.skip := by
  unfold Strand.wc; split <;> rfl
@[simp] theorem Strand.wc_raised (r : Nat) (v : Cap) : (st.wc r v).raised = st.raised := by
  unfold Strand.wc; split <;> rfl
@[simp] theorem Strand.wc_events (r : Nat) (v : Cap) : (st.wc r v).events = st.events := by
  unfold Strand.wc; split <;> rfl
@[simp] theorem Strand.wc_ecsel (r : Nat) (v : Cap) : (st.wc r v).ecsel = st.ecsel := by
  unfold Strand.wc; split <;> rfl

/-! ### Strand.wp -/

@[simp] theorem Strand.wp_life (r : Nat) (m x : PReg) : (st.wp r m x).life = st.life := by
  unfold Strand.wp; split <;> rfl
@[simp] theorem Strand.wp_psg (r : Nat) (m x : PReg) : (st.wp r m x).psg = st.psg := by
  unfold Strand.wp; split <;> rfl
@[simp] theorem Strand.wp_lcore (r : Nat) (m x : PReg) : (st.wp r m x).lcore = st.lcore := by
  unfold Strand.wp; split <;> rfl
@[simp] theorem Strand.wp_sib (r : Nat) (m x : PReg) : (st.wp r m x).sib = st.sib := by
  unfold Strand.wp; split <;> rfl
@[simp] theorem Strand.wp_cls (r : Nat) (m x : PReg) : (st.wp r m x).cls = st.cls := by
  unfold Strand.wp; split <;> rfl
@[simp] theorem Strand.wp_d (r : Nat) (m x : PReg) : (st.wp r m x).d = st.d := by
  unfold Strand.wp; split <;> rfl
@[simp] theorem Strand.wp_taint (r : Nat) (m x : PReg) : (st.wp r m x).taint = st.taint := by
  unfold Strand.wp; split <;> rfl
@[simp] theorem Strand.wp_c (r : Nat) (m x : PReg) : (st.wp r m x).c = st.c := by
  unfold Strand.wp; split <;> rfl
@[simp] theorem Strand.wp_v (r : Nat) (m x : PReg) : (st.wp r m x).v = st.v := by
  unfold Strand.wp; split <;> rfl
@[simp] theorem Strand.wp_mq (r : Nat) (m x : PReg) : (st.wp r m x).mq = st.mq := by
  unfold Strand.wp; split <;> rfl
@[simp] theorem Strand.wp_mb (r : Nat) (m x : PReg) : (st.wp r m x).mb = st.mb := by
  unfold Strand.wp; split <;> rfl
@[simp] theorem Strand.wp_csr (r : Nat) (m x : PReg) : (st.wp r m x).csr = st.csr := by
  unfold Strand.wp; split <;> rfl
@[simp] theorem Strand.wp_fault (r : Nat) (m x : PReg) : (st.wp r m x).fault = st.fault := by
  unfold Strand.wp; split <;> rfl
@[simp] theorem Strand.wp_qb (r : Nat) (m x : PReg) : (st.wp r m x).qb = st.qb := by
  unfold Strand.wp; split <;> rfl
@[simp] theorem Strand.wp_vclk (r : Nat) (m x : PReg) : (st.wp r m x).vclk = st.vclk := by
  unfold Strand.wp; split <;> rfl
@[simp] theorem Strand.wp_started (r : Nat) (m x : PReg) : (st.wp r m x).started = st.started := by
  unfold Strand.wp; split <;> rfl
@[simp] theorem Strand.wp_ran (r : Nat) (m x : PReg) : (st.wp r m x).ran = st.ran := by
  unfold Strand.wp; split <;> rfl
@[simp] theorem Strand.wp_begun (r : Nat) (m x : PReg) : (st.wp r m x).begun = st.begun := by
  unfold Strand.wp; split <;> rfl
@[simp] theorem Strand.wp_pc (r : Nat) (m x : PReg) : (st.wp r m x).pc = st.pc := by
  unfold Strand.wp; split <;> rfl
@[simp] theorem Strand.wp_bundle (r : Nat) (m x : PReg) : (st.wp r m x).bundle = st.bundle := by
  unfold Strand.wp; split <;> rfl
@[simp] theorem Strand.wp_slots (r : Nat) (m x : PReg) : (st.wp r m x).slots = st.slots := by
  unfold Strand.wp; split <;> rfl
@[simp] theorem Strand.wp_slotPc (r : Nat) (m x : PReg) : (st.wp r m x).slotPc = st.slotPc := by
  unfold Strand.wp; split <;> rfl
@[simp] theorem Strand.wp_lastIss (r : Nat) (m x : PReg) : (st.wp r m x).lastIss = st.lastIss := by
  unfold Strand.wp; split <;> rfl
@[simp] theorem Strand.wp_minGap (r : Nat) (m x : PReg) : (st.wp r m x).minGap = st.minGap := by
  unfold Strand.wp; split <;> rfl
@[simp] theorem Strand.wp_redir (r : Nat) (m x : PReg) : (st.wp r m x).redir = st.redir := by
  unfold Strand.wp; split <;> rfl
@[simp] theorem Strand.wp_loops (r : Nat) (m x : PReg) : (st.wp r m x).loops = st.loops := by
  unfold Strand.wp; split <;> rfl
@[simp] theorem Strand.wp_met (r : Nat) (m x : PReg) : (st.wp r m x).met = st.met := by
  unfold Strand.wp; split <;> rfl
@[simp] theorem Strand.wp_wait (r : Nat) (m x : PReg) : (st.wp r m x).wait = st.wait := by
  unfold Strand.wp; split <;> rfl
@[simp] theorem Strand.wp_more (r : Nat) (m x : PReg) : (st.wp r m x).more = st.more := by
  unfold Strand.wp; split <;> rfl
@[simp] theorem Strand.wp_owed (r : Nat) (m x : PReg) : (st.wp r m x).owed = st.owed := by
  unfold Strand.wp; split <;> rfl
@[simp] theorem Strand.wp_pend (r : Nat) (m x : PReg) : (st.wp r m x).pend = st.pend := by
  unfold Strand.wp; split <;> rfl
@[simp] theorem Strand.wp_seq (r : Nat) (m x : PReg) : (st.wp r m x).seq = st.seq := by
  unfold Strand.wp; split <;> rfl
@[simp] theorem Strand.wp_occV (r : Nat) (m x : PReg) : (st.wp r m x).occV = st.occV := by
  unfold Strand.wp; split <;> rfl
@[simp] theorem Strand.wp_occT (r : Nat) (m x : PReg) : (st.wp r m x).occT = st.occT := by
  unfold Strand.wp; split <;> rfl
@[simp] theorem Strand.wp_oq (r : Nat) (m x : PReg) : (st.wp r m x).oq = st.oq := by
  unfold Strand.wp; split <;> rfl
@[simp] theorem Strand.wp_markers (r : Nat) (m x : PReg) : (st.wp r m x).markers = st.markers := by
  unfold Strand.wp; split <;> rfl
@[simp] theorem Strand.wp_order (r : Nat) (m x : PReg) : (st.wp r m x).order = st.order := by
  unfold Strand.wp; split <;> rfl
@[simp] theorem Strand.wp_qbheld (r : Nat) (m x : PReg) : (st.wp r m x).qbheld = st.qbheld := by
  unfold Strand.wp; split <;> rfl
@[simp] theorem Strand.wp_sigs (r : Nat) (m x : PReg) : (st.wp r m x).sigs = st.sigs := by
  unfold Strand.wp; split <;> rfl
@[simp] theorem Strand.wp_rels (r : Nat) (m x : PReg) : (st.wp r m x).rels = st.rels := by
  unfold Strand.wp; split <;> rfl
@[simp] theorem Strand.wp_arrived (r : Nat) (m x : PReg) : (st.wp r m x).arrived = st.arrived := by
  unfold Strand.wp; split <;> rfl
@[simp] theorem Strand.wp_barMet (r : Nat) (m x : PReg) : (st.wp r m x).barMet = st.barMet := by
  unfold Strand.wp; split <;> rfl
@[simp] theorem Strand.wp_leaves (r : Nat) (m x : PReg) : (st.wp r m x).leaves = st.leaves := by
  unfold Strand.wp; split <;> rfl
@[simp] theorem Strand.wp_sstep (r : Nat) (m x : PReg) : (st.wp r m x).sstep = st.sstep := by
  unfold Strand.wp; split <;> rfl
@[simp] theorem Strand.wp_node (r : Nat) (m x : PReg) : (st.wp r m x).node = st.node := by
  unfold Strand.wp; split <;> rfl
@[simp] theorem Strand.wp_halt (r : Nat) (m x : PReg) : (st.wp r m x).halt = st.halt := by
  unfold Strand.wp; split <;> rfl
@[simp] theorem Strand.wp_susp (r : Nat) (m x : PReg) : (st.wp r m x).susp = st.susp := by
  unfold Strand.wp; split <;> rfl
@[simp] theorem Strand.wp_safeAt (r : Nat) (m x : PReg) : (st.wp r m x).safeAt = st.safeAt := by
  unfold Strand.wp; split <;> rfl
@[simp] theorem Strand.wp_stepPc (r : Nat) (m x : PReg) : (st.wp r m x).stepPc = st.stepPc := by
  unfold Strand.wp; split <;> rfl
@[simp] theorem Strand.wp_stepOrder (r : Nat) (m x : PReg) : (st.wp r m x).stepOrder = st.stepOrder := by
  unfold Strand.wp; split <;> rfl
@[simp] theorem Strand.wp_stepLc (r : Nat) (m x : PReg) : (st.wp r m x).stepLc = st.stepLc := by
  unfold Strand.wp; split <;> rfl
@[simp] theorem Strand.wp_replay (r : Nat) (m x : PReg) : (st.wp r m x).replay = st.replay := by
  unfold Strand.wp; split <;> rfl
@[simp] theorem Strand.wp_performed (r : Nat) (m x : PReg) : (st.wp r m x).performed = st.performed := by
  unfold Strand.wp; split <;> rfl
@[simp] theorem Strand.wp_skip (r : Nat) (m x : PReg) : (st.wp r m x).skip = st.skip := by
  unfold Strand.wp; split <;> rfl
@[simp] theorem Strand.wp_raised (r : Nat) (m x : PReg) : (st.wp r m x).raised = st.raised := by
  unfold Strand.wp; split <;> rfl
@[simp] theorem Strand.wp_events (r : Nat) (m x : PReg) : (st.wp r m x).events = st.events := by
  unfold Strand.wp; split <;> rfl
@[simp] theorem Strand.wp_ecsel (r : Nat) (m x : PReg) : (st.wp r m x).ecsel = st.ecsel := by
  unfold Strand.wp; split <;> rfl

/-! ### Strand.pushFlags -/

@[simp] theorem Strand.pushFlags_life (slot lat : Nat) (f : BitVec 8) : (st.pushFlags slot lat f).life = st.life := by
  unfold Strand.pushFlags; split <;> rfl
@[simp] theorem Strand.pushFlags_psg (slot lat : Nat) (f : BitVec 8) : (st.pushFlags slot lat f).psg = st.psg := by
  unfold Strand.pushFlags; split <;> rfl
@[simp] theorem Strand.pushFlags_lcore (slot lat : Nat) (f : BitVec 8) : (st.pushFlags slot lat f).lcore = st.lcore := by
  unfold Strand.pushFlags; split <;> rfl
@[simp] theorem Strand.pushFlags_sib (slot lat : Nat) (f : BitVec 8) : (st.pushFlags slot lat f).sib = st.sib := by
  unfold Strand.pushFlags; split <;> rfl
@[simp] theorem Strand.pushFlags_cls (slot lat : Nat) (f : BitVec 8) : (st.pushFlags slot lat f).cls = st.cls := by
  unfold Strand.pushFlags; split <;> rfl
@[simp] theorem Strand.pushFlags_d (slot lat : Nat) (f : BitVec 8) : (st.pushFlags slot lat f).d = st.d := by
  unfold Strand.pushFlags; split <;> rfl
@[simp] theorem Strand.pushFlags_taint (slot lat : Nat) (f : BitVec 8) : (st.pushFlags slot lat f).taint = st.taint := by
  unfold Strand.pushFlags; split <;> rfl
@[simp] theorem Strand.pushFlags_c (slot lat : Nat) (f : BitVec 8) : (st.pushFlags slot lat f).c = st.c := by
  unfold Strand.pushFlags; split <;> rfl
@[simp] theorem Strand.pushFlags_v (slot lat : Nat) (f : BitVec 8) : (st.pushFlags slot lat f).v = st.v := by
  unfold Strand.pushFlags; split <;> rfl
@[simp] theorem Strand.pushFlags_p (slot lat : Nat) (f : BitVec 8) : (st.pushFlags slot lat f).p = st.p := by
  unfold Strand.pushFlags; split <;> rfl
@[simp] theorem Strand.pushFlags_mq (slot lat : Nat) (f : BitVec 8) : (st.pushFlags slot lat f).mq = st.mq := by
  unfold Strand.pushFlags; split <;> rfl
@[simp] theorem Strand.pushFlags_mb (slot lat : Nat) (f : BitVec 8) : (st.pushFlags slot lat f).mb = st.mb := by
  unfold Strand.pushFlags; split <;> rfl
@[simp] theorem Strand.pushFlags_csr (slot lat : Nat) (f : BitVec 8) : (st.pushFlags slot lat f).csr = st.csr := by
  unfold Strand.pushFlags; split <;> rfl
@[simp] theorem Strand.pushFlags_fault (slot lat : Nat) (f : BitVec 8) : (st.pushFlags slot lat f).fault = st.fault := by
  unfold Strand.pushFlags; split <;> rfl
@[simp] theorem Strand.pushFlags_qb (slot lat : Nat) (f : BitVec 8) : (st.pushFlags slot lat f).qb = st.qb := by
  unfold Strand.pushFlags; split <;> rfl
@[simp] theorem Strand.pushFlags_vclk (slot lat : Nat) (f : BitVec 8) : (st.pushFlags slot lat f).vclk = st.vclk := by
  unfold Strand.pushFlags; split <;> rfl
@[simp] theorem Strand.pushFlags_started (slot lat : Nat) (f : BitVec 8) : (st.pushFlags slot lat f).started = st.started := by
  unfold Strand.pushFlags; split <;> rfl
@[simp] theorem Strand.pushFlags_ran (slot lat : Nat) (f : BitVec 8) : (st.pushFlags slot lat f).ran = st.ran := by
  unfold Strand.pushFlags; split <;> rfl
@[simp] theorem Strand.pushFlags_begun (slot lat : Nat) (f : BitVec 8) : (st.pushFlags slot lat f).begun = st.begun := by
  unfold Strand.pushFlags; split <;> rfl
@[simp] theorem Strand.pushFlags_pc (slot lat : Nat) (f : BitVec 8) : (st.pushFlags slot lat f).pc = st.pc := by
  unfold Strand.pushFlags; split <;> rfl
@[simp] theorem Strand.pushFlags_bundle (slot lat : Nat) (f : BitVec 8) : (st.pushFlags slot lat f).bundle = st.bundle := by
  unfold Strand.pushFlags; split <;> rfl
@[simp] theorem Strand.pushFlags_slots (slot lat : Nat) (f : BitVec 8) : (st.pushFlags slot lat f).slots = st.slots := by
  unfold Strand.pushFlags; split <;> rfl
@[simp] theorem Strand.pushFlags_slotPc (slot lat : Nat) (f : BitVec 8) : (st.pushFlags slot lat f).slotPc = st.slotPc := by
  unfold Strand.pushFlags; split <;> rfl
@[simp] theorem Strand.pushFlags_lastIss (slot lat : Nat) (f : BitVec 8) : (st.pushFlags slot lat f).lastIss = st.lastIss := by
  unfold Strand.pushFlags; split <;> rfl
@[simp] theorem Strand.pushFlags_minGap (slot lat : Nat) (f : BitVec 8) : (st.pushFlags slot lat f).minGap = st.minGap := by
  unfold Strand.pushFlags; split <;> rfl
@[simp] theorem Strand.pushFlags_redir (slot lat : Nat) (f : BitVec 8) : (st.pushFlags slot lat f).redir = st.redir := by
  unfold Strand.pushFlags; split <;> rfl
@[simp] theorem Strand.pushFlags_loops (slot lat : Nat) (f : BitVec 8) : (st.pushFlags slot lat f).loops = st.loops := by
  unfold Strand.pushFlags; split <;> rfl
@[simp] theorem Strand.pushFlags_met (slot lat : Nat) (f : BitVec 8) : (st.pushFlags slot lat f).met = st.met := by
  unfold Strand.pushFlags; split <;> rfl
@[simp] theorem Strand.pushFlags_wait (slot lat : Nat) (f : BitVec 8) : (st.pushFlags slot lat f).wait = st.wait := by
  unfold Strand.pushFlags; split <;> rfl
@[simp] theorem Strand.pushFlags_more (slot lat : Nat) (f : BitVec 8) : (st.pushFlags slot lat f).more = st.more := by
  unfold Strand.pushFlags; split <;> rfl
@[simp] theorem Strand.pushFlags_owed (slot lat : Nat) (f : BitVec 8) : (st.pushFlags slot lat f).owed = st.owed := by
  unfold Strand.pushFlags; split <;> rfl
@[simp] theorem Strand.pushFlags_occV (slot lat : Nat) (f : BitVec 8) : (st.pushFlags slot lat f).occV = st.occV := by
  unfold Strand.pushFlags; split <;> rfl
@[simp] theorem Strand.pushFlags_occT (slot lat : Nat) (f : BitVec 8) : (st.pushFlags slot lat f).occT = st.occT := by
  unfold Strand.pushFlags; split <;> rfl
@[simp] theorem Strand.pushFlags_oq (slot lat : Nat) (f : BitVec 8) : (st.pushFlags slot lat f).oq = st.oq := by
  unfold Strand.pushFlags; split <;> rfl
@[simp] theorem Strand.pushFlags_markers (slot lat : Nat) (f : BitVec 8) : (st.pushFlags slot lat f).markers = st.markers := by
  unfold Strand.pushFlags; split <;> rfl
@[simp] theorem Strand.pushFlags_order (slot lat : Nat) (f : BitVec 8) : (st.pushFlags slot lat f).order = st.order := by
  unfold Strand.pushFlags; split <;> rfl
@[simp] theorem Strand.pushFlags_qbheld (slot lat : Nat) (f : BitVec 8) : (st.pushFlags slot lat f).qbheld = st.qbheld := by
  unfold Strand.pushFlags; split <;> rfl
@[simp] theorem Strand.pushFlags_sigs (slot lat : Nat) (f : BitVec 8) : (st.pushFlags slot lat f).sigs = st.sigs := by
  unfold Strand.pushFlags; split <;> rfl
@[simp] theorem Strand.pushFlags_rels (slot lat : Nat) (f : BitVec 8) : (st.pushFlags slot lat f).rels = st.rels := by
  unfold Strand.pushFlags; split <;> rfl
@[simp] theorem Strand.pushFlags_arrived (slot lat : Nat) (f : BitVec 8) : (st.pushFlags slot lat f).arrived = st.arrived := by
  unfold Strand.pushFlags; split <;> rfl
@[simp] theorem Strand.pushFlags_barMet (slot lat : Nat) (f : BitVec 8) : (st.pushFlags slot lat f).barMet = st.barMet := by
  unfold Strand.pushFlags; split <;> rfl
@[simp] theorem Strand.pushFlags_leaves (slot lat : Nat) (f : BitVec 8) : (st.pushFlags slot lat f).leaves = st.leaves := by
  unfold Strand.pushFlags; split <;> rfl
@[simp] theorem Strand.pushFlags_sstep (slot lat : Nat) (f : BitVec 8) : (st.pushFlags slot lat f).sstep = st.sstep := by
  unfold Strand.pushFlags; split <;> rfl
@[simp] theorem Strand.pushFlags_node (slot lat : Nat) (f : BitVec 8) : (st.pushFlags slot lat f).node = st.node := by
  unfold Strand.pushFlags; split <;> rfl
@[simp] theorem Strand.pushFlags_halt (slot lat : Nat) (f : BitVec 8) : (st.pushFlags slot lat f).halt = st.halt := by
  unfold Strand.pushFlags; split <;> rfl
@[simp] theorem Strand.pushFlags_susp (slot lat : Nat) (f : BitVec 8) : (st.pushFlags slot lat f).susp = st.susp := by
  unfold Strand.pushFlags; split <;> rfl
@[simp] theorem Strand.pushFlags_safeAt (slot lat : Nat) (f : BitVec 8) : (st.pushFlags slot lat f).safeAt = st.safeAt := by
  unfold Strand.pushFlags; split <;> rfl
@[simp] theorem Strand.pushFlags_stepPc (slot lat : Nat) (f : BitVec 8) : (st.pushFlags slot lat f).stepPc = st.stepPc := by
  unfold Strand.pushFlags; split <;> rfl
@[simp] theorem Strand.pushFlags_stepOrder (slot lat : Nat) (f : BitVec 8) : (st.pushFlags slot lat f).stepOrder = st.stepOrder := by
  unfold Strand.pushFlags; split <;> rfl
@[simp] theorem Strand.pushFlags_stepLc (slot lat : Nat) (f : BitVec 8) : (st.pushFlags slot lat f).stepLc = st.stepLc := by
  unfold Strand.pushFlags; split <;> rfl
@[simp] theorem Strand.pushFlags_replay (slot lat : Nat) (f : BitVec 8) : (st.pushFlags slot lat f).replay = st.replay := by
  unfold Strand.pushFlags; split <;> rfl
@[simp] theorem Strand.pushFlags_performed (slot lat : Nat) (f : BitVec 8) : (st.pushFlags slot lat f).performed = st.performed := by
  unfold Strand.pushFlags; split <;> rfl
@[simp] theorem Strand.pushFlags_skip (slot lat : Nat) (f : BitVec 8) : (st.pushFlags slot lat f).skip = st.skip := by
  unfold Strand.pushFlags; split <;> rfl
@[simp] theorem Strand.pushFlags_raised (slot lat : Nat) (f : BitVec 8) : (st.pushFlags slot lat f).raised = st.raised := by
  unfold Strand.pushFlags; split <;> rfl
@[simp] theorem Strand.pushFlags_events (slot lat : Nat) (f : BitVec 8) : (st.pushFlags slot lat f).events = st.events := by
  unfold Strand.pushFlags; split <;> rfl
@[simp] theorem Strand.pushFlags_ecsel (slot lat : Nat) (f : BitVec 8) : (st.pushFlags slot lat f).ecsel = st.ecsel := by
  unfold Strand.pushFlags; split <;> rfl

/-! ### Strand.takeFault -/

@[simp] theorem Strand.takeFault_life (code slot creg off : Nat) : (st.takeFault code slot creg off).life = st.life := by
  unfold Strand.takeFault; split <;> rfl
@[simp] theorem Strand.takeFault_psg (code slot creg off : Nat) : (st.takeFault code slot creg off).psg = st.psg := by
  unfold Strand.takeFault; split <;> rfl
@[simp] theorem Strand.takeFault_lcore (code slot creg off : Nat) : (st.takeFault code slot creg off).lcore = st.lcore := by
  unfold Strand.takeFault; split <;> rfl
@[simp] theorem Strand.takeFault_sib (code slot creg off : Nat) : (st.takeFault code slot creg off).sib = st.sib := by
  unfold Strand.takeFault; split <;> rfl
@[simp] theorem Strand.takeFault_cls (code slot creg off : Nat) : (st.takeFault code slot creg off).cls = st.cls := by
  unfold Strand.takeFault; split <;> rfl
@[simp] theorem Strand.takeFault_d (code slot creg off : Nat) : (st.takeFault code slot creg off).d = st.d := by
  unfold Strand.takeFault; split <;> rfl
@[simp] theorem Strand.takeFault_taint (code slot creg off : Nat) : (st.takeFault code slot creg off).taint = st.taint := by
  unfold Strand.takeFault; split <;> rfl
@[simp] theorem Strand.takeFault_c (code slot creg off : Nat) : (st.takeFault code slot creg off).c = st.c := by
  unfold Strand.takeFault; split <;> rfl
@[simp] theorem Strand.takeFault_v (code slot creg off : Nat) : (st.takeFault code slot creg off).v = st.v := by
  unfold Strand.takeFault; split <;> rfl
@[simp] theorem Strand.takeFault_p (code slot creg off : Nat) : (st.takeFault code slot creg off).p = st.p := by
  unfold Strand.takeFault; split <;> rfl
@[simp] theorem Strand.takeFault_mq (code slot creg off : Nat) : (st.takeFault code slot creg off).mq = st.mq := by
  unfold Strand.takeFault; split <;> rfl
@[simp] theorem Strand.takeFault_mb (code slot creg off : Nat) : (st.takeFault code slot creg off).mb = st.mb := by
  unfold Strand.takeFault; split <;> rfl
@[simp] theorem Strand.takeFault_csr (code slot creg off : Nat) : (st.takeFault code slot creg off).csr = st.csr := by
  unfold Strand.takeFault; split <;> rfl
@[simp] theorem Strand.takeFault_qb (code slot creg off : Nat) : (st.takeFault code slot creg off).qb = st.qb := by
  unfold Strand.takeFault; split <;> rfl
@[simp] theorem Strand.takeFault_vclk (code slot creg off : Nat) : (st.takeFault code slot creg off).vclk = st.vclk := by
  unfold Strand.takeFault; split <;> rfl
@[simp] theorem Strand.takeFault_started (code slot creg off : Nat) : (st.takeFault code slot creg off).started = st.started := by
  unfold Strand.takeFault; split <;> rfl
@[simp] theorem Strand.takeFault_ran (code slot creg off : Nat) : (st.takeFault code slot creg off).ran = st.ran := by
  unfold Strand.takeFault; split <;> rfl
@[simp] theorem Strand.takeFault_begun (code slot creg off : Nat) : (st.takeFault code slot creg off).begun = st.begun := by
  unfold Strand.takeFault; split <;> rfl
@[simp] theorem Strand.takeFault_pc (code slot creg off : Nat) : (st.takeFault code slot creg off).pc = st.pc := by
  unfold Strand.takeFault; split <;> rfl
@[simp] theorem Strand.takeFault_bundle (code slot creg off : Nat) : (st.takeFault code slot creg off).bundle = st.bundle := by
  unfold Strand.takeFault; split <;> rfl
@[simp] theorem Strand.takeFault_slots (code slot creg off : Nat) : (st.takeFault code slot creg off).slots = st.slots := by
  unfold Strand.takeFault; split <;> rfl
@[simp] theorem Strand.takeFault_slotPc (code slot creg off : Nat) : (st.takeFault code slot creg off).slotPc = st.slotPc := by
  unfold Strand.takeFault; split <;> rfl
@[simp] theorem Strand.takeFault_lastIss (code slot creg off : Nat) : (st.takeFault code slot creg off).lastIss = st.lastIss := by
  unfold Strand.takeFault; split <;> rfl
@[simp] theorem Strand.takeFault_minGap (code slot creg off : Nat) : (st.takeFault code slot creg off).minGap = st.minGap := by
  unfold Strand.takeFault; split <;> rfl
@[simp] theorem Strand.takeFault_redir (code slot creg off : Nat) : (st.takeFault code slot creg off).redir = st.redir := by
  unfold Strand.takeFault; split <;> rfl
@[simp] theorem Strand.takeFault_loops (code slot creg off : Nat) : (st.takeFault code slot creg off).loops = st.loops := by
  unfold Strand.takeFault; split <;> rfl
@[simp] theorem Strand.takeFault_met (code slot creg off : Nat) : (st.takeFault code slot creg off).met = st.met := by
  unfold Strand.takeFault; split <;> rfl
@[simp] theorem Strand.takeFault_wait (code slot creg off : Nat) : (st.takeFault code slot creg off).wait = st.wait := by
  unfold Strand.takeFault; split <;> rfl
@[simp] theorem Strand.takeFault_more (code slot creg off : Nat) : (st.takeFault code slot creg off).more = st.more := by
  unfold Strand.takeFault; split <;> rfl
@[simp] theorem Strand.takeFault_owed (code slot creg off : Nat) : (st.takeFault code slot creg off).owed = st.owed := by
  unfold Strand.takeFault; split <;> rfl
@[simp] theorem Strand.takeFault_pend (code slot creg off : Nat) : (st.takeFault code slot creg off).pend = st.pend := by
  unfold Strand.takeFault; split <;> rfl
@[simp] theorem Strand.takeFault_seq (code slot creg off : Nat) : (st.takeFault code slot creg off).seq = st.seq := by
  unfold Strand.takeFault; split <;> rfl
@[simp] theorem Strand.takeFault_occV (code slot creg off : Nat) : (st.takeFault code slot creg off).occV = st.occV := by
  unfold Strand.takeFault; split <;> rfl
@[simp] theorem Strand.takeFault_occT (code slot creg off : Nat) : (st.takeFault code slot creg off).occT = st.occT := by
  unfold Strand.takeFault; split <;> rfl
@[simp] theorem Strand.takeFault_oq (code slot creg off : Nat) : (st.takeFault code slot creg off).oq = st.oq := by
  unfold Strand.takeFault; split <;> rfl
@[simp] theorem Strand.takeFault_markers (code slot creg off : Nat) : (st.takeFault code slot creg off).markers = st.markers := by
  unfold Strand.takeFault; split <;> rfl
@[simp] theorem Strand.takeFault_order (code slot creg off : Nat) : (st.takeFault code slot creg off).order = st.order := by
  unfold Strand.takeFault; split <;> rfl
@[simp] theorem Strand.takeFault_qbheld (code slot creg off : Nat) : (st.takeFault code slot creg off).qbheld = st.qbheld := by
  unfold Strand.takeFault; split <;> rfl
@[simp] theorem Strand.takeFault_sigs (code slot creg off : Nat) : (st.takeFault code slot creg off).sigs = st.sigs := by
  unfold Strand.takeFault; split <;> rfl
@[simp] theorem Strand.takeFault_rels (code slot creg off : Nat) : (st.takeFault code slot creg off).rels = st.rels := by
  unfold Strand.takeFault; split <;> rfl
@[simp] theorem Strand.takeFault_arrived (code slot creg off : Nat) : (st.takeFault code slot creg off).arrived = st.arrived := by
  unfold Strand.takeFault; split <;> rfl
@[simp] theorem Strand.takeFault_barMet (code slot creg off : Nat) : (st.takeFault code slot creg off).barMet = st.barMet := by
  unfold Strand.takeFault; split <;> rfl
@[simp] theorem Strand.takeFault_leaves (code slot creg off : Nat) : (st.takeFault code slot creg off).leaves = st.leaves := by
  unfold Strand.takeFault; split <;> rfl
@[simp] theorem Strand.takeFault_sstep (code slot creg off : Nat) : (st.takeFault code slot creg off).sstep = st.sstep := by
  unfold Strand.takeFault; split <;> rfl
@[simp] theorem Strand.takeFault_node (code slot creg off : Nat) : (st.takeFault code slot creg off).node = st.node := by
  unfold Strand.takeFault; split <;> rfl
@[simp] theorem Strand.takeFault_halt (code slot creg off : Nat) : (st.takeFault code slot creg off).halt = st.halt := by
  unfold Strand.takeFault; split <;> rfl
@[simp] theorem Strand.takeFault_susp (code slot creg off : Nat) : (st.takeFault code slot creg off).susp = st.susp := by
  unfold Strand.takeFault; split <;> rfl
@[simp] theorem Strand.takeFault_safeAt (code slot creg off : Nat) : (st.takeFault code slot creg off).safeAt = st.safeAt := by
  unfold Strand.takeFault; split <;> rfl
@[simp] theorem Strand.takeFault_stepPc (code slot creg off : Nat) : (st.takeFault code slot creg off).stepPc = st.stepPc := by
  unfold Strand.takeFault; split <;> rfl
@[simp] theorem Strand.takeFault_stepOrder (code slot creg off : Nat) : (st.takeFault code slot creg off).stepOrder = st.stepOrder := by
  unfold Strand.takeFault; split <;> rfl
@[simp] theorem Strand.takeFault_stepLc (code slot creg off : Nat) : (st.takeFault code slot creg off).stepLc = st.stepLc := by
  unfold Strand.takeFault; split <;> rfl
@[simp] theorem Strand.takeFault_replay (code slot creg off : Nat) : (st.takeFault code slot creg off).replay = st.replay := by
  unfold Strand.takeFault; split <;> rfl
@[simp] theorem Strand.takeFault_performed (code slot creg off : Nat) : (st.takeFault code slot creg off).performed = st.performed := by
  unfold Strand.takeFault; split <;> rfl
@[simp] theorem Strand.takeFault_skip (code slot creg off : Nat) : (st.takeFault code slot creg off).skip = st.skip := by
  unfold Strand.takeFault; split <;> rfl
@[simp] theorem Strand.takeFault_raised (code slot creg off : Nat) : (st.takeFault code slot creg off).raised = st.raised := by
  unfold Strand.takeFault; split <;> rfl
@[simp] theorem Strand.takeFault_events (code slot creg off : Nat) : (st.takeFault code slot creg off).events = st.events := by
  unfold Strand.takeFault; split <;> rfl
@[simp] theorem Strand.takeFault_ecsel (code slot creg off : Nat) : (st.takeFault code slot creg off).ecsel = st.ecsel := by
  unfold Strand.takeFault; split <;> rfl

/-! ### Strand.wv -/

@[simp] theorem Strand.wv_life (r : Nat) (m : PReg) (y : VReg) : (st.wv r m y).life = st.life := by simp only [Strand.wv]
@[simp] theorem Strand.wv_psg (r : Nat) (m : PReg) (y : VReg) : (st.wv r m y).psg = st.psg := by simp only [Strand.wv]
@[simp] theorem Strand.wv_lcore (r : Nat) (m : PReg) (y : VReg) : (st.wv r m y).lcore = st.lcore := by simp only [Strand.wv]
@[simp] theorem Strand.wv_sib (r : Nat) (m : PReg) (y : VReg) : (st.wv r m y).sib = st.sib := by simp only [Strand.wv]
@[simp] theorem Strand.wv_cls (r : Nat) (m : PReg) (y : VReg) : (st.wv r m y).cls = st.cls := by simp only [Strand.wv]
@[simp] theorem Strand.wv_d (r : Nat) (m : PReg) (y : VReg) : (st.wv r m y).d = st.d := by simp only [Strand.wv]
@[simp] theorem Strand.wv_taint (r : Nat) (m : PReg) (y : VReg) : (st.wv r m y).taint = st.taint := by simp only [Strand.wv]
@[simp] theorem Strand.wv_c (r : Nat) (m : PReg) (y : VReg) : (st.wv r m y).c = st.c := by simp only [Strand.wv]
@[simp] theorem Strand.wv_p (r : Nat) (m : PReg) (y : VReg) : (st.wv r m y).p = st.p := by simp only [Strand.wv]
@[simp] theorem Strand.wv_mq (r : Nat) (m : PReg) (y : VReg) : (st.wv r m y).mq = st.mq := by simp only [Strand.wv]
@[simp] theorem Strand.wv_mb (r : Nat) (m : PReg) (y : VReg) : (st.wv r m y).mb = st.mb := by simp only [Strand.wv]
@[simp] theorem Strand.wv_csr (r : Nat) (m : PReg) (y : VReg) : (st.wv r m y).csr = st.csr := by simp only [Strand.wv]
@[simp] theorem Strand.wv_fault (r : Nat) (m : PReg) (y : VReg) : (st.wv r m y).fault = st.fault := by simp only [Strand.wv]
@[simp] theorem Strand.wv_qb (r : Nat) (m : PReg) (y : VReg) : (st.wv r m y).qb = st.qb := by simp only [Strand.wv]
@[simp] theorem Strand.wv_vclk (r : Nat) (m : PReg) (y : VReg) : (st.wv r m y).vclk = st.vclk := by simp only [Strand.wv]
@[simp] theorem Strand.wv_started (r : Nat) (m : PReg) (y : VReg) : (st.wv r m y).started = st.started := by simp only [Strand.wv]
@[simp] theorem Strand.wv_ran (r : Nat) (m : PReg) (y : VReg) : (st.wv r m y).ran = st.ran := by simp only [Strand.wv]
@[simp] theorem Strand.wv_begun (r : Nat) (m : PReg) (y : VReg) : (st.wv r m y).begun = st.begun := by simp only [Strand.wv]
@[simp] theorem Strand.wv_pc (r : Nat) (m : PReg) (y : VReg) : (st.wv r m y).pc = st.pc := by simp only [Strand.wv]
@[simp] theorem Strand.wv_bundle (r : Nat) (m : PReg) (y : VReg) : (st.wv r m y).bundle = st.bundle := by simp only [Strand.wv]
@[simp] theorem Strand.wv_slots (r : Nat) (m : PReg) (y : VReg) : (st.wv r m y).slots = st.slots := by simp only [Strand.wv]
@[simp] theorem Strand.wv_slotPc (r : Nat) (m : PReg) (y : VReg) : (st.wv r m y).slotPc = st.slotPc := by simp only [Strand.wv]
@[simp] theorem Strand.wv_lastIss (r : Nat) (m : PReg) (y : VReg) : (st.wv r m y).lastIss = st.lastIss := by simp only [Strand.wv]
@[simp] theorem Strand.wv_minGap (r : Nat) (m : PReg) (y : VReg) : (st.wv r m y).minGap = st.minGap := by simp only [Strand.wv]
@[simp] theorem Strand.wv_redir (r : Nat) (m : PReg) (y : VReg) : (st.wv r m y).redir = st.redir := by simp only [Strand.wv]
@[simp] theorem Strand.wv_loops (r : Nat) (m : PReg) (y : VReg) : (st.wv r m y).loops = st.loops := by simp only [Strand.wv]
@[simp] theorem Strand.wv_met (r : Nat) (m : PReg) (y : VReg) : (st.wv r m y).met = st.met := by simp only [Strand.wv]
@[simp] theorem Strand.wv_wait (r : Nat) (m : PReg) (y : VReg) : (st.wv r m y).wait = st.wait := by simp only [Strand.wv]
@[simp] theorem Strand.wv_more (r : Nat) (m : PReg) (y : VReg) : (st.wv r m y).more = st.more := by simp only [Strand.wv]
@[simp] theorem Strand.wv_owed (r : Nat) (m : PReg) (y : VReg) : (st.wv r m y).owed = st.owed := by simp only [Strand.wv]
@[simp] theorem Strand.wv_pend (r : Nat) (m : PReg) (y : VReg) : (st.wv r m y).pend = st.pend := by simp only [Strand.wv]
@[simp] theorem Strand.wv_seq (r : Nat) (m : PReg) (y : VReg) : (st.wv r m y).seq = st.seq := by simp only [Strand.wv]
@[simp] theorem Strand.wv_occV (r : Nat) (m : PReg) (y : VReg) : (st.wv r m y).occV = st.occV := by simp only [Strand.wv]
@[simp] theorem Strand.wv_occT (r : Nat) (m : PReg) (y : VReg) : (st.wv r m y).occT = st.occT := by simp only [Strand.wv]
@[simp] theorem Strand.wv_oq (r : Nat) (m : PReg) (y : VReg) : (st.wv r m y).oq = st.oq := by simp only [Strand.wv]
@[simp] theorem Strand.wv_markers (r : Nat) (m : PReg) (y : VReg) : (st.wv r m y).markers = st.markers := by simp only [Strand.wv]
@[simp] theorem Strand.wv_order (r : Nat) (m : PReg) (y : VReg) : (st.wv r m y).order = st.order := by simp only [Strand.wv]
@[simp] theorem Strand.wv_qbheld (r : Nat) (m : PReg) (y : VReg) : (st.wv r m y).qbheld = st.qbheld := by simp only [Strand.wv]
@[simp] theorem Strand.wv_sigs (r : Nat) (m : PReg) (y : VReg) : (st.wv r m y).sigs = st.sigs := by simp only [Strand.wv]
@[simp] theorem Strand.wv_rels (r : Nat) (m : PReg) (y : VReg) : (st.wv r m y).rels = st.rels := by simp only [Strand.wv]
@[simp] theorem Strand.wv_arrived (r : Nat) (m : PReg) (y : VReg) : (st.wv r m y).arrived = st.arrived := by simp only [Strand.wv]
@[simp] theorem Strand.wv_barMet (r : Nat) (m : PReg) (y : VReg) : (st.wv r m y).barMet = st.barMet := by simp only [Strand.wv]
@[simp] theorem Strand.wv_leaves (r : Nat) (m : PReg) (y : VReg) : (st.wv r m y).leaves = st.leaves := by simp only [Strand.wv]
@[simp] theorem Strand.wv_sstep (r : Nat) (m : PReg) (y : VReg) : (st.wv r m y).sstep = st.sstep := by simp only [Strand.wv]
@[simp] theorem Strand.wv_node (r : Nat) (m : PReg) (y : VReg) : (st.wv r m y).node = st.node := by simp only [Strand.wv]
@[simp] theorem Strand.wv_halt (r : Nat) (m : PReg) (y : VReg) : (st.wv r m y).halt = st.halt := by simp only [Strand.wv]
@[simp] theorem Strand.wv_susp (r : Nat) (m : PReg) (y : VReg) : (st.wv r m y).susp = st.susp := by simp only [Strand.wv]
@[simp] theorem Strand.wv_safeAt (r : Nat) (m : PReg) (y : VReg) : (st.wv r m y).safeAt = st.safeAt := by simp only [Strand.wv]
@[simp] theorem Strand.wv_stepPc (r : Nat) (m : PReg) (y : VReg) : (st.wv r m y).stepPc = st.stepPc := by simp only [Strand.wv]
@[simp] theorem Strand.wv_stepOrder (r : Nat) (m : PReg) (y : VReg) : (st.wv r m y).stepOrder = st.stepOrder := by simp only [Strand.wv]
@[simp] theorem Strand.wv_stepLc (r : Nat) (m : PReg) (y : VReg) : (st.wv r m y).stepLc = st.stepLc := by simp only [Strand.wv]
@[simp] theorem Strand.wv_replay (r : Nat) (m : PReg) (y : VReg) : (st.wv r m y).replay = st.replay := by simp only [Strand.wv]
@[simp] theorem Strand.wv_performed (r : Nat) (m : PReg) (y : VReg) : (st.wv r m y).performed = st.performed := by simp only [Strand.wv]
@[simp] theorem Strand.wv_skip (r : Nat) (m : PReg) (y : VReg) : (st.wv r m y).skip = st.skip := by simp only [Strand.wv]
@[simp] theorem Strand.wv_raised (r : Nat) (m : PReg) (y : VReg) : (st.wv r m y).raised = st.raised := by simp only [Strand.wv]
@[simp] theorem Strand.wv_events (r : Nat) (m : PReg) (y : VReg) : (st.wv r m y).events = st.events := by simp only [Strand.wv]
@[simp] theorem Strand.wv_ecsel (r : Nat) (m : PReg) (y : VReg) : (st.wv r m y).ecsel = st.ecsel := by simp only [Strand.wv]

end Sys2Proof.Machine
end

