-- ==== Sys2Proof/Laws/Ops.lean ====
section
/-! SUPPORT. What the shared operations do: the keyed parts of the state, registers read after a write, faults, traps, and who runs a
word. -/
namespace Sys2Proof.Machine

variable {s : State} {st : Strand}

/-! ### Keyed parts -/

@[simp] theorem State.strand_setStrand (sid : Nat) (x : Strand) : (s.setStrand sid x).strand sid = x := SMap.get_set_self
theorem State.strand_setStrand_ne {sid j : Nat} {x : Strand} (h : j ≠ sid) : (s.setStrand sid x).strand j = s.strand j :=
  SMap.get_set_ne h
@[simp] theorem State.tt_setTt (k : Nat) (x : Timetable) : (s.setTt k x).tt k = x := SMap.get_set_self
theorem State.tt_setTt_ne {k j : Nat} {x : Timetable} (h : j ≠ k) : (s.setTt k x).tt j = s.tt j := SMap.get_set_ne h
@[simp] theorem State.tenant_setTenant (k : Nat) (x : Tenant) : (s.setTenant k x).tenant k = x := SMap.get_set_self
theorem State.tenant_setTenant_ne {k j : Nat} {x : Tenant} (h : j ≠ k) : (s.setTenant k x).tenant j = s.tenant j :=
  SMap.get_set_ne h
@[simp] theorem State.func_setFunc (k : Nat) (x : Func) : (s.setFunc k x).func k = x := SMap.get_set_self
theorem State.func_setFunc_ne {k j : Nat} {x : Func} (h : j ≠ k) : (s.setFunc k x).func j = s.func j := SMap.get_set_ne h
@[simp] theorem State.hen_setHen (k : Nat) (x : Hen) : (s.setHen k x).hen k = x := SMap.get_set_self
theorem State.hen_setHen_ne {k j : Nat} {x : Hen} (h : j ≠ k) : (s.setHen k x).hen j = s.hen j := SMap.get_set_ne h
@[simp] theorem State.hart_setHart (k : Fin 32) (x : Hart) : (s.setHart k x).hart k = x := by simp [State.hart, State.setHart]
theorem State.hart_setHart_ne {k j : Fin 32} {x : Hart} (h : j ≠ k) : (s.setHart k x).hart j = s.hart j := by
  have hkj : (k : Nat) ≠ j := fun e => h (Fin.ext e.symm)
  simp [State.hart, State.setHart, hkj]
@[simp] theorem State.job_setJob (k : Nat) (x : Job) : (s.setJob k x).job k = x := SMap.get_set_self
theorem State.job_setJob_ne {k j : Nat} {x : Job} (h : j ≠ k) : (s.setJob k x).job j = s.job j := SMap.get_set_ne h
@[simp] theorem Func.queue_setQueue (f : Func) (q : Nat) (x : Queue) : (f.setQueue q x).queue q = x := SMap.get_set_self
@[simp] theorem State.queue_setQueue (fn q : Nat) (x : Queue) : (s.setQueue fn q x).queue fn q = x := by
  simp [State.queue, State.setQueue]

@[simp] theorem State.strand_modStrand (sid : Nat) (f : Strand → Strand) : (s.modStrand sid f).strand sid = f (s.strand sid) :=
  State.strand_setStrand _ _
theorem State.strand_modStrand_ne {sid j : Nat} {f : Strand → Strand} (h : j ≠ sid) : (s.modStrand sid f).strand j = s.strand j :=
  State.strand_setStrand_ne h
@[simp] theorem State.tt_modTt (k : Nat) (f : Timetable → Timetable) : (s.modTt k f).tt k = f (s.tt k) := State.tt_setTt _ _
theorem State.tt_modTt_ne {k j : Nat} {f : Timetable → Timetable} (h : j ≠ k) : (s.modTt k f).tt j = s.tt j := State.tt_setTt_ne h

/-! ### Registers of a strand (f12 R303) -/

@[simp] theorem Strand.rd_zero : st.rd 0 = 0 := rfl
@[simp] theorem Strand.rc_zero : st.rc 0 = Cap.null := rfl
@[simp] theorem Strand.rt_zero : st.rt 0 = false := rfl

/-- A D register written reads the value; D0 keeps reading 0. -/
theorem Strand.rd_wd (r : Nat) (v : BitVec 64) (t : Bool) (x : Nat) :
    (st.wd r v t).rd x = if x = r ∧ r ≠ 0 then v else st.rd x := by
  unfold Strand.wd
  split
  · next h => simp [h]
  · next h =>
    unfold Strand.rd
    by_cases hx : x = r
    · subst hx; simp [h]
    · simp [hx, SMap.get_set_ne hx]

/-- A C register written reads the capability; C0 stays null. -/
theorem Strand.rc_wc (r : Nat) (v : Cap) (x : Nat) : (st.wc r v).rc x = if x = r ∧ r ≠ 0 then v else st.rc x := by
  unfold Strand.wc
  split
  · next h => simp [h]
  · next h =>
    unfold Strand.rc
    by_cases hx : x = r
    · subst hx; simp [h]
    · simp [hx, SMap.get_set_ne hx]

/-- A V register written: the masked lanes below 1024 take the value, the others keep theirs. -/
theorem Strand.lane_wv (r : Nat) (m : PReg) (y : VReg) (x l : Nat) (h : l < 1024) :
    (st.wv r m y).lane x l = if x = r ∧ SMap.get false m l = true then SMap.get 0 y l else st.lane x l := by
  unfold Strand.wv Strand.lane Strand.rv
  by_cases hx : x = r
  · subst hx
    simp only [SMap.get_set_self, SMap.get_ofFn, h, if_true]
    split <;> simp_all
  · simp [hx, SMap.get_set_ne hx]

/-- A predicate written: the masked bits take the value; P0 keeps reading all ones. -/
theorem Strand.pb_wp (r : Nat) (m y : PReg) (x l : Nat) (h : l < 1024) :
    (st.wp r m y).pb x l = if x = r ∧ r ≠ 0 ∧ SMap.get false m l = true then SMap.get false y l else st.pb x l := by
  unfold Strand.wp
  simp only
  split
  · next hr => simp [hr]
  · next hr =>
    unfold Strand.pb
    by_cases hx : x = r
    · subst hx
      simp only [hr, if_false, SMap.get_set_self, SMap.get_ofFn, h, if_true, ne_eq, not_false_eq_true, true_and]
    · simp [hx, SMap.get_set_ne hx]

/-! ### Faults (f10 R258) -/

/-- With no fault recorded, a fault is recorded whole. -/
theorem Strand.takeFault_first {code slot creg off : Nat} (h : st.fault.toNat / 2 ^ 56 = 0) :
    (st.takeFault code slot creg off).fault = faultWord code slot creg off := by
  rw [Strand.takeFault, if_pos h]

/-- A recorded fault is kept, and MORE is set. -/
theorem Strand.takeFault_further {code slot creg off : Nat} (h : st.fault.toNat / 2 ^ 56 ≠ 0) :
    (st.takeFault code slot creg off).fault = st.fault ||| BitVec.twoPow 64 53 := by
  rw [Strand.takeFault, if_neg h]

/-! ### The trap of a Mule hart and the return from it -/

@[simp] theorem Hart.trap_mepc (h : Hart) (c : Nat) (v : BitVec 64) : (h.trap c v).mepc = h.pc := rfl
@[simp] theorem Hart.trap_mcause (h : Hart) (c : Nat) (v : BitVec 64) : (h.trap c v).mcause = BitVec.ofNat 64 c := rfl
@[simp] theorem Hart.trap_mtval (h : Hart) (c : Nat) (v : BitVec 64) : (h.trap c v).mtval = v := rfl
@[simp] theorem Hart.trap_mode (h : Hart) (c : Nat) (v : BitVec 64) : (h.trap c v).mode = 3 := rfl
@[simp] theorem Hart.trap_pc (h : Hart) (c : Nat) (v : BitVec 64) : (h.trap c v).pc = h.mtvec &&& ~~~ 3#64 := rfl
@[simp] theorem Hart.trap_x (h : Hart) (c : Nat) (v : BitVec 64) : (h.trap c v).x = h.x := rfl
@[simp] theorem Hart.mret_pc (h : Hart) : h.mret.pc = h.mepc := rfl

/-! ### Who runs a word -/

section
variable {f g : Nat → State} {e : Fin 32 → State}

theorem byAgent_strand {sid : Nat} (h : s.cur = .strand sid) : byAgent s f g e = .next (f sid) := by simp [byAgent, h]
theorem byAgent_hen {p : Nat} (h : s.cur = .hen p) : byAgent s f g e = .next (g p) := by simp [byAgent, h]
theorem byAgent_hart {n : Fin 32} (h : s.cur = .hart n) : byAgent s f g e = .next (e n) := by simp [byAgent, h]
theorem strandOnly_strand {sid : Nat} (h : s.cur = .strand sid) : strandOnly s f = .next (f sid) := byAgent_strand h
theorem henOnly_hen {p : Nat} (h : s.cur = .hen p) : henOnly s f = .next (f p) := byAgent_hen h
theorem hartOnly_hart {n : Fin 32} (h : s.cur = .hart n) : hartOnly s e = .next (e n) := byAgent_hart h

/-- A word with an agent always answers a next state: of one of the three agents. -/
theorem byAgent_next {t : State} (h : byAgent s f g e = .next t) :
    (∃ sid, s.cur = .strand sid ∧ t = f sid) ∨ (∃ p, s.cur = .hen p ∧ t = g p) ∨ (∃ n, s.cur = .hart n ∧ t = e n) := by
  unfold byAgent at h
  split at h <;> simp_all [notEnabled]
end

/-- The D mould in a strand: one write is pending, at issue + `lat`. -/
theorem dResult_strand {sid lat : Nat} {d : BitVec 6} {srcs : List (BitVec 6)} {tn : Bool}
    {val : (Nat → BitVec 64) → BitVec 64} (h : s.cur = .strand sid) :
    dResult s lat d srcs tn val = .next (s.setStrand sid ((s.strand sid).push 0 lat
      (.d d.toNat (val (s.strand sid).rd) (tn && (s.strand sid).taints (srcs.map (·.toNat)))))) := byAgent_strand h

/-- The D mould in a Hen: the register is written at once. -/
theorem dResult_hen {p lat : Nat} {d : BitVec 6} {srcs : List (BitVec 6)} {tn : Bool} {val : (Nat → BitVec 64) → BitVec 64}
    (h : s.cur = .hen p) (hd : d.toNat < 32) (hs : ∀ r ∈ srcs, r.toNat < 32) :
    dResult s lat d srcs tn val = .next (s.setHen p ((s.hen p).wd d.toNat (val (s.hen p).rd))) := by
  unfold dResult
  rw [byAgent_hen h]
  have : (srcs.all fun r => decide (r.toNat < 32)) = true := by simpa using hs
  simp [hd, this]

end Sys2Proof.Machine
end

