-- ==== Sys2Proof/Laws/Goose.lean ====
section
/-! SUPPORT. What counting meters and writing a control block leave alone. -/
namespace Sys2Proof.Machine

variable {s : State}

/-- A state with other tenants and timetables. -/
def State.withTotals (s : State) (x : SMap Tenant) (y : SMap Timetable) : State := { s with tenants := x, tts := y }

/-- Two states differ in the counted totals alone: meters of tenants and of timetables. -/
def State.SameButTotals (s t : State) : Prop := ∃ x y, t = s.withTotals x y ∧ ∀ j, ∃ m, t.tt j = { s.tt j with meters := m }

theorem State.SameButTotals.rfl' : s.SameButTotals s := ⟨s.tenants, s.tts, rfl, fun j => ⟨(s.tt j).meters, rfl⟩⟩

theorem State.SameButTotals.trans {t u : State} (h : s.SameButTotals t) (g : t.SameButTotals u) : s.SameButTotals u := by
  obtain ⟨x, y, rfl, h⟩ := h
  obtain ⟨x', y', rfl, g⟩ := g
  refine ⟨x', y', rfl, fun j => ?_⟩
  obtain ⟨m, h⟩ := h j
  obtain ⟨m', g⟩ := g j
  exact ⟨m', by rw [g, h]⟩

/-- Counting a tenant's meter changes the tenants alone. -/
theorem State.meter_frame (k i n : Nat) : ∃ x, s.meter k i n = s.withTotals x s.tts := by
  simp only [State.meter]
  by_cases h : n = 0 ∨ (s.tenant k).live = false
  · rw [if_pos h]; exact ⟨s.tenants, rfl⟩
  · rw [if_neg h]; exact ⟨_, rfl⟩

/-- Counting a timetable's meter changes totals alone. -/
theorem State.meterTt_frame (k i n : Nat) : s.SameButTotals (s.meterTt k i n) := by
  obtain ⟨x, hx⟩ := State.meter_frame (s := s) (s.tt k).tenant i n
  simp only [State.meterTt, hx]
  by_cases h : n = 0
  · rw [if_pos h]; exact ⟨x, s.tts, rfl, fun j => ⟨(s.tt j).meters, rfl⟩⟩
  · rw [if_neg h]
    refine ⟨x, _, rfl, fun j => ?_⟩
    by_cases h : j = k
    · subst h; exact ⟨_, State.tt_setTt ..⟩
    · exact ⟨(s.tt j).meters, State.tt_setTt_ne h⟩

/-- The same of bytes counted at the units that performed them. -/
theorem State.meterBytes_frame (k : Nat) (l : List Nat) (w : Bool) : s.SameButTotals (s.meterBytes k l w) := by
  unfold State.meterBytes
  generalize [11, 12, 13, 14, 19, 20] = is
  induction is generalizing s with
  | nil => exact .rfl'
  | cons i is ih => exact (State.meterTt_frame k i _).trans ih

/-- Bytes of a control block perform: the memory holds them, where no SYNCARM reaches its word on this gcy; otherwise totals alone change. -/
theorem State.collPut_frame (sid : Nat) (c1 : Cap) (o k : Nat) (l : List Byte) (h : s.arming = []) :
    ∃ x, ({ s with mem := s.mem.writeAll (s.placed sid c1 (o + k) l), landed := x } : State).SameButTotals (s.collPut sid c1 o k l) := by
  generalize hp : s.placed sid c1 (o + k) l = p
  have hu : s.untimedWrite (s.owner sid) p =
      { s with mem := s.mem.writeAll p, landed := s.landed ++ byteLocs (s.owner sid) (p.map fun x : Nat × Byte => x.1) } := by
    simp only [State.untimedWrite, State.writeBytes, h, List.any_nil, Bool.not_false, List.filter_true, List.filter_false, List.append_nil]
  refine ⟨s.landed ++ byteLocs (s.owner sid) (p.map fun x : Nat × Byte => x.1), ?_⟩
  simp only [State.collPut, hp, hu]
  exact State.meterBytes_frame ..

end Sys2Proof.Machine
end

