-- ==== Sys2Proof/Laws/PerInstr.lean ====
section
/-! SUPPORT. A fact of the syntax, instruction by instruction: an instruction has a word exactly when it stands in a map, and its word
carries the map's mark: bit 31 clear for the common map and set for the private ones (f12 R304), the custom-0 opcode for the Mule's
words (f09 R244). -/
namespace Sys2Proof.Laws.InMap

open Machine

set_option Elab.async false
set_option linter.unusedSimpArgs false
set_option linter.unnecessarySeqFocus false

/-- The mark of a map on a word. -/
def mark (k : MapKind) (w : Word) : Prop :=
  match k with
  | .common => fld w 31 1 = 0
  | .virbel => fld w 0 7 = 0x0B
  | _ => fld w 31 1 = 1

/-- A word, and it carries the mark of its map; or neither word nor map. -/
def Statement (i : Instr) : Prop :=
  match encode i, i.mapKind with
  | some w, some k => mark k w
  | none, none => True
  | _, _ => False

theorem bndl (d : BitVec 8) (s : BitVec 1) (f : BitVec 1) (l : BitVec 2) (m : BitVec 4) : Statement (.bndl d s f l m) := by
  simp (disch := decide) only [Statement, encode, Instr.mapKind, mark, fld, ext_hi, ext_lo] <;> rfl
theorem nop  : Statement .nop := by
  simp (disch := decide) only [Statement, encode, Instr.mapKind, mark, fld, ext_hi, ext_lo] <;> rfl
theorem add (d : BitVec 6) (a : BitVec 6) (b : BitVec 6) : Statement (.add d a b) := by
  simp (disch := decide) only [Statement, encode, Instr.mapKind, mark, fld, ext_hi, ext_lo] <;> rfl
theorem sub (d : BitVec 6) (a : BitVec 6) (b : BitVec 6) : Statement (.sub d a b) := by
  simp (disch := decide) only [Statement, encode, Instr.mapKind, mark, fld, ext_hi, ext_lo] <;> rfl
theorem mul (d : BitVec 6) (a : BitVec 6) (b : BitVec 6) : Statement (.mul d a b) := by
  simp (disch := decide) only [Statement, encode, Instr.mapKind, mark, fld, ext_hi, ext_lo] <;> rfl
theorem mulh (d : BitVec 6) (a : BitVec 6) (b : BitVec 6) : Statement (.mulh d a b) := by
  simp (disch := decide) only [Statement, encode, Instr.mapKind, mark, fld, ext_hi, ext_lo] <;> rfl
theorem div (d : BitVec 6) (a : BitVec 6) (b : BitVec 6) : Statement (.div d a b) := by
  simp (disch := decide) only [Statement, encode, Instr.mapKind, mark, fld, ext_hi, ext_lo] <;> rfl
theorem rem (d : BitVec 6) (a : BitVec 6) (b : BitVec 6) : Statement (.rem d a b) := by
  simp (disch := decide) only [Statement, encode, Instr.mapKind, mark, fld, ext_hi, ext_lo] <;> rfl
theorem and_ (d : BitVec 6) (a : BitVec 6) (b : BitVec 6) : Statement (.and_ d a b) := by
  simp (disch := decide) only [Statement, encode, Instr.mapKind, mark, fld, ext_hi, ext_lo] <;> rfl
theorem or_ (d : BitVec 6) (a : BitVec 6) (b : BitVec 6) : Statement (.or_ d a b) := by
  simp (disch := decide) only [Statement, encode, Instr.mapKind, mark, fld, ext_hi, ext_lo] <;> rfl
theorem xor_ (d : BitVec 6) (a : BitVec 6) (b : BitVec 6) : Statement (.xor_ d a b) := by
  simp (disch := decide) only [Statement, encode, Instr.mapKind, mark, fld, ext_hi, ext_lo] <;> rfl
theorem shl (d : BitVec 6) (a : BitVec 6) (b : BitVec 6) : Statement (.shl d a b) := by
  simp (disch := decide) only [Statement, encode, Instr.mapKind, mark, fld, ext_hi, ext_lo] <;> rfl
theorem shr (d : BitVec 6) (a : BitVec 6) (b : BitVec 6) : Statement (.shr d a b) := by
  simp (disch := decide) only [Statement, encode, Instr.mapKind, mark, fld, ext_hi, ext_lo] <;> rfl
theorem sar (d : BitVec 6) (a : BitVec 6) (b : BitVec 6) : Statement (.sar d a b) := by
  simp (disch := decide) only [Statement, encode, Instr.mapKind, mark, fld, ext_hi, ext_lo] <;> rfl
theorem min (d : BitVec 6) (a : BitVec 6) (b : BitVec 6) : Statement (.min d a b) := by
  simp (disch := decide) only [Statement, encode, Instr.mapKind, mark, fld, ext_hi, ext_lo] <;> rfl
theorem max (d : BitVec 6) (a : BitVec 6) (b : BitVec 6) : Statement (.max d a b) := by
  simp (disch := decide) only [Statement, encode, Instr.mapKind, mark, fld, ext_hi, ext_lo] <;> rfl
theorem slt (d : BitVec 6) (a : BitVec 6) (b : BitVec 6) : Statement (.slt d a b) := by
  simp (disch := decide) only [Statement, encode, Instr.mapKind, mark, fld, ext_hi, ext_lo] <;> rfl
theorem sel (d : BitVec 6) (a : BitVec 6) (b : BitVec 6) (x : BitVec 6) : Statement (.sel d a b x) := by
  simp (disch := decide) only [Statement, encode, Instr.mapKind, mark, fld, ext_hi, ext_lo] <;> rfl
theorem clz (d : BitVec 6) (a : BitVec 6) : Statement (.clz d a) := by
  simp (disch := decide) only [Statement, encode, Instr.mapKind, mark, fld, ext_hi, ext_lo] <;> rfl
theorem popc (d : BitVec 6) (a : BitVec 6) : Statement (.popc d a) := by
  simp (disch := decide) only [Statement, encode, Instr.mapKind, mark, fld, ext_hi, ext_lo] <;> rfl
theorem agen (d : BitVec 6) (a : BitVec 6) (b : BitVec 6) (x : BitVec 6) : Statement (.agen d a b x) := by
  simp (disch := decide) only [Statement, encode, Instr.mapKind, mark, fld, ext_hi, ext_lo] <;> rfl
theorem getcycGclk (d : BitVec 6) : Statement (.getcycGclk d) := by
  simp (disch := decide) only [Statement, encode, Instr.mapKind, mark, fld, ext_hi, ext_lo] <;> rfl
theorem getcycVclk (d : BitVec 6) : Statement (.getcycVclk d) := by
  simp (disch := decide) only [Statement, encode, Instr.mapKind, mark, fld, ext_hi, ext_lo] <;> rfl
theorem cinc (d : BitVec 6) (a : BitVec 6) (b : BitVec 6) : Statement (.cinc d a b) := by
  simp (disch := decide) only [Statement, encode, Instr.mapKind, mark, fld, ext_hi, ext_lo] <;> rfl
theorem csetb (d : BitVec 6) (a : BitVec 6) (b : BitVec 6) : Statement (.csetb d a b) := by
  simp (disch := decide) only [Statement, encode, Instr.mapKind, mark, fld, ext_hi, ext_lo] <;> rfl
theorem crestr (d : BitVec 6) (a : BitVec 6) (b : BitVec 6) : Statement (.crestr d a b) := by
  simp (disch := decide) only [Statement, encode, Instr.mapKind, mark, fld, ext_hi, ext_lo] <;> rfl
theorem clrt (d : BitVec 6) (a : BitVec 6) (b : BitVec 6) (x : BitVec 6) : Statement (.clrt d a b x) := by
  simp (disch := decide) only [Statement, encode, Instr.mapKind, mark, fld, ext_hi, ext_lo] <;> rfl
theorem addi (d : BitVec 6) (a : BitVec 6) (i : BitVec 12) : Statement (.addi d a i) := by
  simp (disch := decide) only [Statement, encode, Instr.mapKind, mark, fld, ext_hi, ext_lo] <;> rfl
theorem bfx (d : BitVec 6) (a : BitVec 6) (l : BitVec 6) (w : BitVec 6) : Statement (.bfx d a l w) := by
  simp (disch := decide) only [Statement, encode, Instr.mapKind, mark, fld, ext_hi, ext_lo] <;> rfl
theorem bfi (d : BitVec 6) (a : BitVec 6) (l : BitVec 6) (w : BitVec 6) : Statement (.bfi d a l w) := by
  simp (disch := decide) only [Statement, encode, Instr.mapKind, mark, fld, ext_hi, ext_lo] <;> rfl
theorem rdcsr (d : BitVec 6) (c : BitVec 12) : Statement (.rdcsr d c) := by
  simp (disch := decide) only [Statement, encode, Instr.mapKind, mark, fld, ext_hi, ext_lo] <;> rfl
theorem wrcsr (a : BitVec 6) (c : BitVec 12) : Statement (.wrcsr a c) := by
  simp (disch := decide) only [Statement, encode, Instr.mapKind, mark, fld, ext_hi, ext_lo] <;> rfl
theorem movi (d : BitVec 6) (h : BitVec 2) (i : BitVec 16) : Statement (.movi d h i) := by
  simp (disch := decide) only [Statement, encode, Instr.mapKind, mark, fld, ext_hi, ext_lo] <;> rfl
theorem movhi (d : BitVec 6) (h : BitVec 2) (i : BitVec 16) : Statement (.movhi d h i) := by
  simp (disch := decide) only [Statement, encode, Instr.mapKind, mark, fld, ext_hi, ext_lo] <;> rfl
theorem trap (i : BitVec 16) : Statement (.trap i) := by
  simp (disch := decide) only [Statement, encode, Instr.mapKind, mark, fld, ext_hi, ext_lo] <;> rfl
theorem br (a : BitVec 6) (c : BitVec 3) (o : BitVec 15) : Statement (.br a c o) := by
  simp (disch := decide) only [Statement, encode, Instr.mapKind, mark, fld, ext_hi, ext_lo] <;> rfl
theorem jmp (o : BitVec 15) : Statement (.jmp o) := by
  simp (disch := decide) only [Statement, encode, Instr.mapKind, mark, fld, ext_hi, ext_lo] <;> rfl
theorem call (a : BitVec 6) (o : BitVec 15) : Statement (.call a o) := by
  simp (disch := decide) only [Statement, encode, Instr.mapKind, mark, fld, ext_hi, ext_lo] <;> rfl
theorem ret (a : BitVec 6) : Statement (.ret a) := by
  simp (disch := decide) only [Statement, encode, Instr.mapKind, mark, fld, ext_hi, ext_lo] <;> rfl
theorem loopImm (l : BitVec 2) (n : BitVec 8) (c : BitVec 13) : Statement (.loopImm l n c) := by
  simp (disch := decide) only [Statement, encode, Instr.mapKind, mark, fld, ext_hi, ext_lo] <;> rfl
theorem loopReg (l : BitVec 2) (n : BitVec 8) (r : BitVec 6) : Statement (.loopReg l n r) := by
  simp (disch := decide) only [Statement, encode, Instr.mapKind, mark, fld, ext_hi, ext_lo] <;> rfl
theorem lds (d : BitVec 6) (a : BitVec 6) (b : BitVec 6) (x : BitVec 6) : Statement (.lds d a b x) := by
  simp (disch := decide) only [Statement, encode, Instr.mapKind, mark, fld, ext_hi, ext_lo] <;> rfl
theorem sts (d : BitVec 6) (a : BitVec 6) (b : BitVec 6) (x : BitVec 6) : Statement (.sts d a b x) := by
  simp (disch := decide) only [Statement, encode, Instr.mapKind, mark, fld, ext_hi, ext_lo] <;> rfl
theorem sfadd (d : BitVec 6) (a : BitVec 6) (b : BitVec 6) : Statement (.sfadd d a b) := by
  simp (disch := decide) only [Statement, encode, Instr.mapKind, mark, fld, ext_hi, ext_lo] <;> rfl
theorem sfmul (d : BitVec 6) (a : BitVec 6) (b : BitVec 6) : Statement (.sfmul d a b) := by
  simp (disch := decide) only [Statement, encode, Instr.mapKind, mark, fld, ext_hi, ext_lo] <;> rfl
theorem sfma (d : BitVec 6) (a : BitVec 6) (b : BitVec 6) (x : BitVec 6) : Statement (.sfma d a b x) := by
  simp (disch := decide) only [Statement, encode, Instr.mapKind, mark, fld, ext_hi, ext_lo] <;> rfl
theorem sfcmp (d : BitVec 6) (a : BitVec 6) (b : BitVec 6) (x : BitVec 6) : Statement (.sfcmp d a b x) := by
  simp (disch := decide) only [Statement, encode, Instr.mapKind, mark, fld, ext_hi, ext_lo] <;> rfl
theorem sfcvt (d : BitVec 6) (a : BitVec 6) (x : BitVec 6) : Statement (.sfcvt d a x) := by
  simp (disch := decide) only [Statement, encode, Instr.mapKind, mark, fld, ext_hi, ext_lo] <;> rfl
theorem sdot4 (d : BitVec 6) (a : BitVec 6) (b : BitVec 6) (x : BitVec 6) : Statement (.sdot4 d a b x) := by
  simp (disch := decide) only [Statement, encode, Instr.mapKind, mark, fld, ext_hi, ext_lo] <;> rfl
theorem exit (n : BitVec 12) : Statement (.exit n) := by
  simp (disch := decide) only [Statement, encode, Instr.mapKind, mark, fld, ext_hi, ext_lo] <;> rfl
theorem sstep  : Statement .sstep := by
  simp (disch := decide) only [Statement, encode, Instr.mapKind, mark, fld, ext_hi, ext_lo] <;> rfl
theorem sstepM (n : BitVec 11) : Statement (.sstepM n) := by
  simp (disch := decide) only [Statement, encode, Instr.mapKind, mark, fld, ext_hi, ext_lo] <;> rfl
theorem svcNull  : Statement .svcNull := by
  simp (disch := decide) only [Statement, encode, Instr.mapKind, mark, fld, ext_hi, ext_lo] <;> rfl
theorem svcHostev  : Statement .svcHostev := by
  simp (disch := decide) only [Statement, encode, Instr.mapKind, mark, fld, ext_hi, ext_lo] <;> rfl
theorem svcSnapshot  : Statement .svcSnapshot := by
  simp (disch := decide) only [Statement, encode, Instr.mapKind, mark, fld, ext_hi, ext_lo] <;> rfl
theorem svcLinkgen  : Statement .svcLinkgen := by
  simp (disch := decide) only [Statement, encode, Instr.mapKind, mark, fld, ext_hi, ext_lo] <;> rfl
theorem svcComplete (sid : Nat) : Statement (.svcComplete sid) := trivial
theorem wqpop (d : BitVec 6) (a : BitVec 6) (q : BitVec 2) : Statement (.wqpop d a q) := by
  simp (disch := decide) only [Statement, encode, Instr.mapKind, mark, fld, ext_hi, ext_lo] <;> rfl
theorem wqwait (q : BitVec 2) : Statement (.wqwait q) := by
  simp (disch := decide) only [Statement, encode, Instr.mapKind, mark, fld, ext_hi, ext_lo] <;> rfl
theorem wqwaitComplete (sid : Nat) : Statement (.wqwaitComplete sid) := trivial
theorem vadd (z : BitVec 1) (d : BitVec 6) (a : BitVec 6) (b : BitVec 6) (g : BitVec 4) (t : BitVec 2) : Statement (.vadd z d a b g t) := by
  simp (disch := decide) only [Statement, encode, Instr.mapKind, mark, fld, ext_hi, ext_lo] <;> rfl
theorem vsub (z : BitVec 1) (d : BitVec 6) (a : BitVec 6) (b : BitVec 6) (g : BitVec 4) (t : BitVec 2) : Statement (.vsub z d a b g t) := by
  simp (disch := decide) only [Statement, encode, Instr.mapKind, mark, fld, ext_hi, ext_lo] <;> rfl
theorem vmul (z : BitVec 1) (d : BitVec 6) (a : BitVec 6) (b : BitVec 6) (g : BitVec 4) (t : BitVec 2) : Statement (.vmul z d a b g t) := by
  simp (disch := decide) only [Statement, encode, Instr.mapKind, mark, fld, ext_hi, ext_lo] <;> rfl
theorem vfma (z : BitVec 1) (d : BitVec 6) (a : BitVec 6) (b : BitVec 6) (g : BitVec 4) (t : BitVec 2) : Statement (.vfma z d a b g t) := by
  simp (disch := decide) only [Statement, encode, Instr.mapKind, mark, fld, ext_hi, ext_lo] <;> rfl
theorem vmin (z : BitVec 1) (d : BitVec 6) (a : BitVec 6) (b : BitVec 6) (g : BitVec 4) (t : BitVec 2) : Statement (.vmin z d a b g t) := by
  simp (disch := decide) only [Statement, encode, Instr.mapKind, mark, fld, ext_hi, ext_lo] <;> rfl
theorem vmax (z : BitVec 1) (d : BitVec 6) (a : BitVec 6) (b : BitVec 6) (g : BitVec 4) (t : BitVec 2) : Statement (.vmax z d a b g t) := by
  simp (disch := decide) only [Statement, encode, Instr.mapKind, mark, fld, ext_hi, ext_lo] <;> rfl
theorem vabs (z : BitVec 1) (d : BitVec 6) (a : BitVec 6) (g : BitVec 4) (t : BitVec 2) : Statement (.vabs z d a g t) := by
  simp (disch := decide) only [Statement, encode, Instr.mapKind, mark, fld, ext_hi, ext_lo] <;> rfl
theorem vand (z : BitVec 1) (d : BitVec 6) (a : BitVec 6) (b : BitVec 6) (g : BitVec 4) (t : BitVec 2) : Statement (.vand z d a b g t) := by
  simp (disch := decide) only [Statement, encode, Instr.mapKind, mark, fld, ext_hi, ext_lo] <;> rfl
theorem vor (z : BitVec 1) (d : BitVec 6) (a : BitVec 6) (b : BitVec 6) (g : BitVec 4) (t : BitVec 2) : Statement (.vor z d a b g t) := by
  simp (disch := decide) only [Statement, encode, Instr.mapKind, mark, fld, ext_hi, ext_lo] <;> rfl
theorem vxor (z : BitVec 1) (d : BitVec 6) (a : BitVec 6) (b : BitVec 6) (g : BitVec 4) (t : BitVec 2) : Statement (.vxor z d a b g t) := by
  simp (disch := decide) only [Statement, encode, Instr.mapKind, mark, fld, ext_hi, ext_lo] <;> rfl
theorem vshl (z : BitVec 1) (d : BitVec 6) (a : BitVec 6) (b : BitVec 6) (g : BitVec 4) (t : BitVec 2) : Statement (.vshl z d a b g t) := by
  simp (disch := decide) only [Statement, encode, Instr.mapKind, mark, fld, ext_hi, ext_lo] <;> rfl
theorem vshr (z : BitVec 1) (d : BitVec 6) (a : BitVec 6) (b : BitVec 6) (g : BitVec 4) (t : BitVec 2) : Statement (.vshr z d a b g t) := by
  simp (disch := decide) only [Statement, encode, Instr.mapKind, mark, fld, ext_hi, ext_lo] <;> rfl
theorem vsar (z : BitVec 1) (d : BitVec 6) (a : BitVec 6) (b : BitVec 6) (g : BitVec 4) (t : BitVec 2) : Statement (.vsar z d a b g t) := by
  simp (disch := decide) only [Statement, encode, Instr.mapKind, mark, fld, ext_hi, ext_lo] <;> rfl
theorem vcmpEq (p : BitVec 6) (a : BitVec 6) (b : BitVec 6) (g : BitVec 4) (t : BitVec 2) : Statement (.vcmpEq p a b g t) := by
  simp (disch := decide) only [Statement, encode, Instr.mapKind, mark, fld, ext_hi, ext_lo] <;> rfl
theorem vcmpNe (p : BitVec 6) (a : BitVec 6) (b : BitVec 6) (g : BitVec 4) (t : BitVec 2) : Statement (.vcmpNe p a b g t) := by
  simp (disch := decide) only [Statement, encode, Instr.mapKind, mark, fld, ext_hi, ext_lo] <;> rfl
theorem vcmpLt (p : BitVec 6) (a : BitVec 6) (b : BitVec 6) (g : BitVec 4) (t : BitVec 2) : Statement (.vcmpLt p a b g t) := by
  simp (disch := decide) only [Statement, encode, Instr.mapKind, mark, fld, ext_hi, ext_lo] <;> rfl
theorem vcmpLe (p : BitVec 6) (a : BitVec 6) (b : BitVec 6) (g : BitVec 4) (t : BitVec 2) : Statement (.vcmpLe p a b g t) := by
  simp (disch := decide) only [Statement, encode, Instr.mapKind, mark, fld, ext_hi, ext_lo] <;> rfl
theorem vsel (d : BitVec 6) (a : BitVec 6) (b : BitVec 6) (s : BitVec 4) : Statement (.vsel d a b s) := by
  simp (disch := decide) only [Statement, encode, Instr.mapKind, mark, fld, ext_hi, ext_lo] <;> rfl
theorem vaddH16 (z : BitVec 1) (d : BitVec 6) (a : BitVec 6) (b : BitVec 6) (g : BitVec 4) : Statement (.vaddH16 z d a b g) := by
  simp (disch := decide) only [Statement, encode, Instr.mapKind, mark, fld, ext_hi, ext_lo] <;> rfl
theorem vaddB16 (z : BitVec 1) (d : BitVec 6) (a : BitVec 6) (b : BitVec 6) (g : BitVec 4) : Statement (.vaddB16 z d a b g) := by
  simp (disch := decide) only [Statement, encode, Instr.mapKind, mark, fld, ext_hi, ext_lo] <;> rfl
theorem vsubH16 (z : BitVec 1) (d : BitVec 6) (a : BitVec 6) (b : BitVec 6) (g : BitVec 4) : Statement (.vsubH16 z d a b g) := by
  simp (disch := decide) only [Statement, encode, Instr.mapKind, mark, fld, ext_hi, ext_lo] <;> rfl
theorem vsubB16 (z : BitVec 1) (d : BitVec 6) (a : BitVec 6) (b : BitVec 6) (g : BitVec 4) : Statement (.vsubB16 z d a b g) := by
  simp (disch := decide) only [Statement, encode, Instr.mapKind, mark, fld, ext_hi, ext_lo] <;> rfl
theorem vmulH16 (z : BitVec 1) (d : BitVec 6) (a : BitVec 6) (b : BitVec 6) (g : BitVec 4) : Statement (.vmulH16 z d a b g) := by
  simp (disch := decide) only [Statement, encode, Instr.mapKind, mark, fld, ext_hi, ext_lo] <;> rfl
theorem vmulB16 (z : BitVec 1) (d : BitVec 6) (a : BitVec 6) (b : BitVec 6) (g : BitVec 4) : Statement (.vmulB16 z d a b g) := by
  simp (disch := decide) only [Statement, encode, Instr.mapKind, mark, fld, ext_hi, ext_lo] <;> rfl
theorem vfmaH16 (z : BitVec 1) (d : BitVec 6) (a : BitVec 6) (b : BitVec 6) (g : BitVec 4) : Statement (.vfmaH16 z d a b g) := by
  simp (disch := decide) only [Statement, encode, Instr.mapKind, mark, fld, ext_hi, ext_lo] <;> rfl
theorem vfmaB16 (z : BitVec 1) (d : BitVec 6) (a : BitVec 6) (b : BitVec 6) (g : BitVec 4) : Statement (.vfmaB16 z d a b g) := by
  simp (disch := decide) only [Statement, encode, Instr.mapKind, mark, fld, ext_hi, ext_lo] <;> rfl
theorem vminH16 (z : BitVec 1) (d : BitVec 6) (a : BitVec 6) (b : BitVec 6) (g : BitVec 4) : Statement (.vminH16 z d a b g) := by
  simp (disch := decide) only [Statement, encode, Instr.mapKind, mark, fld, ext_hi, ext_lo] <;> rfl
theorem vminB16 (z : BitVec 1) (d : BitVec 6) (a : BitVec 6) (b : BitVec 6) (g : BitVec 4) : Statement (.vminB16 z d a b g) := by
  simp (disch := decide) only [Statement, encode, Instr.mapKind, mark, fld, ext_hi, ext_lo] <;> rfl
theorem vmaxH16 (z : BitVec 1) (d : BitVec 6) (a : BitVec 6) (b : BitVec 6) (g : BitVec 4) : Statement (.vmaxH16 z d a b g) := by
  simp (disch := decide) only [Statement, encode, Instr.mapKind, mark, fld, ext_hi, ext_lo] <;> rfl
theorem vmaxB16 (z : BitVec 1) (d : BitVec 6) (a : BitVec 6) (b : BitVec 6) (g : BitVec 4) : Statement (.vmaxB16 z d a b g) := by
  simp (disch := decide) only [Statement, encode, Instr.mapKind, mark, fld, ext_hi, ext_lo] <;> rfl
theorem vcvt (z : BitVec 1) (d : BitVec 6) (a : BitVec 6) (c : BitVec 6) (g : BitVec 4) : Statement (.vcvt z d a c g) := by
  simp (disch := decide) only [Statement, encode, Instr.mapKind, mark, fld, ext_hi, ext_lo] <;> rfl
theorem vsf (z : BitVec 1) (d : BitVec 6) (a : BitVec 6) (f : BitVec 6) (g : BitVec 4) : Statement (.vsf z d a f g) := by
  simp (disch := decide) only [Statement, encode, Instr.mapKind, mark, fld, ext_hi, ext_lo] <;> rfl
theorem vrotr (z : BitVec 1) (d : BitVec 6) (a : BitVec 6) (b : BitVec 6) (g : BitVec 4) : Statement (.vrotr z d a b g) := by
  simp (disch := decide) only [Statement, encode, Instr.mapKind, mark, fld, ext_hi, ext_lo] <;> rfl
theorem vrotc (z : BitVec 1) (d : BitVec 6) (a : BitVec 6) (b : BitVec 6) (g : BitVec 4) : Statement (.vrotc z d a b g) := by
  simp (disch := decide) only [Statement, encode, Instr.mapKind, mark, fld, ext_hi, ext_lo] <;> rfl
theorem vbcr (z : BitVec 1) (d : BitVec 6) (a : BitVec 6) (c : BitVec 6) (g : BitVec 4) : Statement (.vbcr z d a c g) := by
  simp (disch := decide) only [Statement, encode, Instr.mapKind, mark, fld, ext_hi, ext_lo] <;> rfl
theorem vbcc (z : BitVec 1) (d : BitVec 6) (a : BitVec 6) (r : BitVec 6) (g : BitVec 4) : Statement (.vbcc z d a r g) := by
  simp (disch := decide) only [Statement, encode, Instr.mapKind, mark, fld, ext_hi, ext_lo] <;> rfl
theorem vredr (z : BitVec 1) (d : BitVec 6) (a : BitVec 6) (o : BitVec 6) (g : BitVec 4) (t : BitVec 2) : Statement (.vredr z d a o g t) := by
  simp (disch := decide) only [Statement, encode, Instr.mapKind, mark, fld, ext_hi, ext_lo] <;> rfl
theorem vredc (z : BitVec 1) (d : BitVec 6) (a : BitVec 6) (o : BitVec 6) (g : BitVec 4) (t : BitVec 2) : Statement (.vredc z d a o g t) := by
  simp (disch := decide) only [Statement, encode, Instr.mapKind, mark, fld, ext_hi, ext_lo] <;> rfl
theorem vcomp (z : BitVec 1) (d : BitVec 6) (a : BitVec 6) (m : BitVec 4) : Statement (.vcomp z d a m) := by
  simp (disch := decide) only [Statement, encode, Instr.mapKind, mark, fld, ext_hi, ext_lo] <;> rfl
theorem vexpd (z : BitVec 1) (d : BitVec 6) (a : BitVec 6) (m : BitVec 4) : Statement (.vexpd z d a m) := by
  simp (disch := decide) only [Statement, encode, Instr.mapKind, mark, fld, ext_hi, ext_lo] <;> rfl
theorem vslup (z : BitVec 1) (d : BitVec 6) (a : BitVec 6) (b : BitVec 6) (g : BitVec 4) : Statement (.vslup z d a b g) := by
  simp (disch := decide) only [Statement, encode, Instr.mapKind, mark, fld, ext_hi, ext_lo] <;> rfl
theorem vsldn (z : BitVec 1) (d : BitVec 6) (a : BitVec 6) (b : BitVec 6) (g : BitVec 4) : Statement (.vsldn z d a b g) := by
  simp (disch := decide) only [Statement, encode, Instr.mapKind, mark, fld, ext_hi, ext_lo] <;> rfl
theorem vperm (z : BitVec 1) (d : BitVec 6) (a : BitVec 6) (b : BitVec 6) (g : BitVec 4) : Statement (.vperm z d a b g) := by
  simp (disch := decide) only [Statement, encode, Instr.mapKind, mark, fld, ext_hi, ext_lo] <;> rfl
theorem vmov (z : BitVec 1) (d : BitVec 6) (a : BitVec 6) (g : BitVec 4) : Statement (.vmov z d a g) := by
  simp (disch := decide) only [Statement, encode, Instr.mapKind, mark, fld, ext_hi, ext_lo] <;> rfl
theorem vsplati (z : BitVec 1) (d : BitVec 6) (i : BitVec 12) (g : BitVec 4) (t : BitVec 2) : Statement (.vsplati z d i g t) := by
  simp (disch := decide) only [Statement, encode, Instr.mapKind, mark, fld, ext_hi, ext_lo] <;> rfl
theorem vsplats (z : BitVec 1) (d : BitVec 6) (a : BitVec 6) (g : BitVec 4) (t : BitVec 2) : Statement (.vsplats z d a g t) := by
  simp (disch := decide) only [Statement, encode, Instr.mapKind, mark, fld, ext_hi, ext_lo] <;> rfl
theorem vget (d : BitVec 6) (a : BitVec 6) (b : BitVec 6) : Statement (.vget d a b) := by
  simp (disch := decide) only [Statement, encode, Instr.mapKind, mark, fld, ext_hi, ext_lo] <;> rfl
theorem vput (d : BitVec 6) (a : BitVec 6) (b : BitVec 6) : Statement (.vput d a b) := by
  simp (disch := decide) only [Statement, encode, Instr.mapKind, mark, fld, ext_hi, ext_lo] <;> rfl
theorem vmmul (z : BitVec 1) (d : BitVec 6) (a : BitVec 6) (b : BitVec 6) (g : BitVec 4) (k : BitVec 2) : Statement (.vmmul z d a b g k) := by
  simp (disch := decide) only [Statement, encode, Instr.mapKind, mark, fld, ext_hi, ext_lo] <;> rfl
theorem vmadd (z : BitVec 1) (d : BitVec 6) (a : BitVec 6) (b : BitVec 6) (g : BitVec 4) (k : BitVec 2) : Statement (.vmadd z d a b g k) := by
  simp (disch := decide) only [Statement, encode, Instr.mapKind, mark, fld, ext_hi, ext_lo] <;> rfl
theorem vmsub (z : BitVec 1) (d : BitVec 6) (a : BitVec 6) (b : BitVec 6) (g : BitVec 4) (k : BitVec 2) : Statement (.vmsub z d a b g k) := by
  simp (disch := decide) only [Statement, encode, Instr.mapKind, mark, fld, ext_hi, ext_lo] <;> rfl
theorem vmred (z : BitVec 1) (d : BitVec 6) (a : BitVec 6) (g : BitVec 4) (k : BitVec 2) : Statement (.vmred z d a g k) := by
  simp (disch := decide) only [Statement, encode, Instr.mapKind, mark, fld, ext_hi, ext_lo] <;> rfl
theorem vbfly (z : BitVec 1) (d : BitVec 6) (a : BitVec 6) (b : BitVec 6) (g : BitVec 4) (k : BitVec 2) : Statement (.vbfly z d a b g k) := by
  simp (disch := decide) only [Statement, encode, Instr.mapKind, mark, fld, ext_hi, ext_lo] <;> rfl
theorem vbflyGs (z : BitVec 1) (d : BitVec 6) (a : BitVec 6) (b : BitVec 6) (g : BitVec 4) (k : BitVec 2) : Statement (.vbflyGs z d a b g k) := by
  simp (disch := decide) only [Statement, encode, Instr.mapKind, mark, fld, ext_hi, ext_lo] <;> rfl
theorem vnttp (z : BitVec 1) (d : BitVec 6) (a : BitVec 6) (s : BitVec 6) (g : BitVec 4) : Statement (.vnttp z d a s g) := by
  simp (disch := decide) only [Statement, encode, Instr.mapKind, mark, fld, ext_hi, ext_lo] <;> rfl
theorem vrng (z : BitVec 1) (d : BitVec 6) (b : BitVec 6) (g : BitVec 4) : Statement (.vrng z d b g) := by
  simp (disch := decide) only [Statement, encode, Instr.mapKind, mark, fld, ext_hi, ext_lo] <;> rfl
theorem vlnmul (z : BitVec 1) (d : BitVec 6) (a : BitVec 6) (b : BitVec 6) (g : BitVec 4) : Statement (.vlnmul z d a b g) := by
  simp (disch := decide) only [Statement, encode, Instr.mapKind, mark, fld, ext_hi, ext_lo] <;> rfl
theorem vlnadd (z : BitVec 1) (d : BitVec 6) (a : BitVec 6) (b : BitVec 6) (g : BitVec 4) : Statement (.vlnadd z d a b g) := by
  simp (disch := decide) only [Statement, encode, Instr.mapKind, mark, fld, ext_hi, ext_lo] <;> rfl
theorem vmqset (a : BitVec 6) (b : BitVec 6) (k : BitVec 2) : Statement (.vmqset a b k) := by
  simp (disch := decide) only [Statement, encode, Instr.mapKind, mark, fld, ext_hi, ext_lo] <;> rfl
theorem pand (d : BitVec 6) (a : BitVec 6) (b : BitVec 6) (e : BitVec 1) (f : BitVec 1) (g : BitVec 1) : Statement (.pand d a b e f g) := by
  simp (disch := decide) only [Statement, encode, Instr.mapKind, mark, fld, ext_hi, ext_lo] <;> rfl
theorem por (d : BitVec 6) (a : BitVec 6) (b : BitVec 6) (e : BitVec 1) (f : BitVec 1) (g : BitVec 1) : Statement (.por d a b e f g) := by
  simp (disch := decide) only [Statement, encode, Instr.mapKind, mark, fld, ext_hi, ext_lo] <;> rfl
theorem pxor (d : BitVec 6) (a : BitVec 6) (b : BitVec 6) (e : BitVec 1) (f : BitVec 1) (g : BitVec 1) : Statement (.pxor d a b e f g) := by
  simp (disch := decide) only [Statement, encode, Instr.mapKind, mark, fld, ext_hi, ext_lo] <;> rfl
theorem pnot (d : BitVec 6) (a : BitVec 6) (e : BitVec 1) (f : BitVec 1) : Statement (.pnot d a e f) := by
  simp (disch := decide) only [Statement, encode, Instr.mapKind, mark, fld, ext_hi, ext_lo] <;> rfl
theorem pcnt (d : BitVec 6) (a : BitVec 6) (f : BitVec 1) : Statement (.pcnt d a f) := by
  simp (disch := decide) only [Statement, encode, Instr.mapKind, mark, fld, ext_hi, ext_lo] <;> rfl
theorem pfirst (d : BitVec 6) (a : BitVec 6) (f : BitVec 1) : Statement (.pfirst d a f) := by
  simp (disch := decide) only [Statement, encode, Instr.mapKind, mark, fld, ext_hi, ext_lo] <;> rfl
theorem pset (d : BitVec 6) (n : BitVec 12) (e : BitVec 1) : Statement (.pset d n e) := by
  simp (disch := decide) only [Statement, encode, Instr.mapKind, mark, fld, ext_hi, ext_lo] <;> rfl
theorem mma (c : BitVec 8) (a : BitVec 6) (b : BitVec 6) (f : BitVec 4) : Statement (.mma c a b f) := by
  simp (disch := decide) only [Statement, encode, Instr.mapKind, mark, fld, ext_hi, ext_lo] <;> rfl
theorem mmaRs (c : BitVec 8) (a : BitVec 6) (b : BitVec 6) (f : BitVec 4) : Statement (.mmaRs c a b f) := by
  simp (disch := decide) only [Statement, encode, Instr.mapKind, mark, fld, ext_hi, ext_lo] <;> rfl
theorem mmas (c : BitVec 8) (a : BitVec 6) (b : BitVec 6) (f : BitVec 4) : Statement (.mmas c a b f) := by
  simp (disch := decide) only [Statement, encode, Instr.mapKind, mark, fld, ext_hi, ext_lo] <;> rfl
theorem mmasRs (c : BitVec 8) (a : BitVec 6) (b : BitVec 6) (f : BitVec 4) : Statement (.mmasRs c a b f) := by
  simp (disch := decide) only [Statement, encode, Instr.mapKind, mark, fld, ext_hi, ext_lo] <;> rfl
theorem mzero (c : BitVec 8) : Statement (.mzero c) := by
  simp (disch := decide) only [Statement, encode, Instr.mapKind, mark, fld, ext_hi, ext_lo] <;> rfl
theorem mload (c : BitVec 8) (a : BitVec 6) : Statement (.mload c a) := by
  simp (disch := decide) only [Statement, encode, Instr.mapKind, mark, fld, ext_hi, ext_lo] <;> rfl
theorem mdrain (c : BitVec 8) (a : BitVec 6) (b : BitVec 6) (f : BitVec 4) : Statement (.mdrain c a b f) := by
  simp (disch := decide) only [Statement, encode, Instr.mapKind, mark, fld, ext_hi, ext_lo] <;> rfl
theorem mdrains (c : BitVec 8) (a : BitVec 6) (b : BitVec 6) (f : BitVec 4) : Statement (.mdrains c a b f) := by
  simp (disch := decide) only [Statement, encode, Instr.mapKind, mark, fld, ext_hi, ext_lo] <;> rfl
theorem mlease  : Statement .mlease := by
  simp (disch := decide) only [Statement, encode, Instr.mapKind, mark, fld, ext_hi, ext_lo] <;> rfl
theorem mfree  : Statement .mfree := by
  simp (disch := decide) only [Statement, encode, Instr.mapKind, mark, fld, ext_hi, ext_lo] <;> rfl
theorem leaseGrant (sid : Nat) : Statement (.leaseGrant sid) := trivial
theorem vld (r : BitVec 6) (c : BitVec 5) (k : BitVec 6) (p : BitVec 7) : Statement (.vld r c k p) := by
  simp (disch := decide) only [Statement, encode, Instr.mapKind, mark, fld, ext_hi, ext_lo] <;> rfl
theorem vst (r : BitVec 6) (c : BitVec 5) (k : BitVec 6) (p : BitVec 7) : Statement (.vst r c k p) := by
  simp (disch := decide) only [Statement, encode, Instr.mapKind, mark, fld, ext_hi, ext_lo] <;> rfl
theorem vldx (r : BitVec 6) (c : BitVec 5) (k : BitVec 6) (p : BitVec 7) : Statement (.vldx r c k p) := by
  simp (disch := decide) only [Statement, encode, Instr.mapKind, mark, fld, ext_hi, ext_lo] <;> rfl
theorem vstx (r : BitVec 6) (c : BitVec 5) (k : BitVec 6) (p : BitVec 7) : Statement (.vstx r c k p) := by
  simp (disch := decide) only [Statement, encode, Instr.mapKind, mark, fld, ext_hi, ext_lo] <;> rfl
theorem pld (r : BitVec 6) (c : BitVec 5) (k : BitVec 6) (h : BitVec 1) : Statement (.pld r c k h) := by
  simp (disch := decide) only [Statement, encode, Instr.mapKind, mark, fld, ext_hi, ext_lo] <;> rfl
theorem pst (r : BitVec 6) (c : BitVec 5) (k : BitVec 6) (h : BitVec 1) : Statement (.pst r c k h) := by
  simp (disch := decide) only [Statement, encode, Instr.mapKind, mark, fld, ext_hi, ext_lo] <;> rfl
theorem ldc (r : BitVec 6) (c : BitVec 5) (k : BitVec 6) (g : BitVec 5) : Statement (.ldc r c k g) := by
  simp (disch := decide) only [Statement, encode, Instr.mapKind, mark, fld, ext_hi, ext_lo] <;> rfl
theorem ldcArrival (sid : Nat) : Statement (.ldcArrival sid) := trivial
theorem cld (r : BitVec 6) (c : BitVec 5) (k : BitVec 6) (i : BitVec 7) : Statement (.cld r c k i) := by
  simp (disch := decide) only [Statement, encode, Instr.mapKind, mark, fld, ext_hi, ext_lo] <;> rfl
theorem cst (r : BitVec 6) (c : BitVec 5) (k : BitVec 6) (i : BitVec 7) : Statement (.cst r c k i) := by
  simp (disch := decide) only [Statement, encode, Instr.mapKind, mark, fld, ext_hi, ext_lo] <;> rfl
theorem qbbind (r : BitVec 6) (h : BitVec 4) : Statement (.qbbind r h) := by
  simp (disch := decide) only [Statement, encode, Instr.mapKind, mark, fld, ext_hi, ext_lo] <;> rfl
theorem qbwait (k : BitVec 6) (h : BitVec 4) : Statement (.qbwait k h) := by
  simp (disch := decide) only [Statement, encode, Instr.mapKind, mark, fld, ext_hi, ext_lo] <;> rfl
theorem qbwaitE (k : BitVec 6) (h : BitVec 4) : Statement (.qbwaitE k h) := by
  simp (disch := decide) only [Statement, encode, Instr.mapKind, mark, fld, ext_hi, ext_lo] <;> rfl
theorem qbwaitComplete (sid : Nat) : Statement (.qbwaitComplete sid) := trivial
theorem qbtake (k : BitVec 6) (h : BitVec 4) : Statement (.qbtake k h) := by
  simp (disch := decide) only [Statement, encode, Instr.mapKind, mark, fld, ext_hi, ext_lo] <;> rfl
theorem qbgive (k : BitVec 6) (h : BitVec 4) : Statement (.qbgive k h) := by
  simp (disch := decide) only [Statement, encode, Instr.mapKind, mark, fld, ext_hi, ext_lo] <;> rfl
theorem qbVisibleUpdate (sid : Nat) : Statement (.qbVisibleUpdate sid) := trivial
theorem semwait (r : BitVec 6) (s : BitVec 8) (t : BitVec 7) : Statement (.semwait r s t) := by
  simp (disch := decide) only [Statement, encode, Instr.mapKind, mark, fld, ext_hi, ext_lo] <;> rfl
theorem semwaitServed (sid : Nat) : Statement (.semwaitServed sid) := trivial
theorem semwaitTimeout (sid : Nat) : Statement (.semwaitTimeout sid) := trivial
theorem semsig (s : BitVec 8) (n : BitVec 7) : Statement (.semsig s n) := by
  simp (disch := decide) only [Statement, encode, Instr.mapKind, mark, fld, ext_hi, ext_lo] <;> rfl
theorem semsigApply (sid : Nat) : Statement (.semsigApply sid) := trivial
theorem syncarm (r : BitVec 6) (c : BitVec 5) (k : BitVec 6) (i : BitVec 7) : Statement (.syncarm r c k i) := by
  simp (disch := decide) only [Statement, encode, Instr.mapKind, mark, fld, ext_hi, ext_lo] <;> rfl
theorem syncwait (r : BitVec 6) (c : BitVec 5) (k : BitVec 6) (i : BitVec 7) : Statement (.syncwait r c k i) := by
  simp (disch := decide) only [Statement, encode, Instr.mapKind, mark, fld, ext_hi, ext_lo] <;> rfl
theorem syncwaitComplete (sid : Nat) : Statement (.syncwaitComplete sid) := trivial
theorem fence (g : BitVec 1) (q : BitVec 4) : Statement (.fence g q) := by
  simp (disch := decide) only [Statement, encode, Instr.mapKind, mark, fld, ext_hi, ext_lo] <;> rfl
theorem join  : Statement .join := by
  simp (disch := decide) only [Statement, encode, Instr.mapKind, mark, fld, ext_hi, ext_lo] <;> rfl
theorem joinComplete (sid : Nat) : Statement (.joinComplete sid) := trivial
theorem acq (c : BitVec 5) : Statement (.acq c) := by
  simp (disch := decide) only [Statement, encode, Instr.mapKind, mark, fld, ext_hi, ext_lo] <;> rfl
theorem gateGrant (gate : Nat) : Statement (.gateGrant gate) := trivial
theorem rel (c : BitVec 5) : Statement (.rel c) := by
  simp (disch := decide) only [Statement, encode, Instr.mapKind, mark, fld, ext_hi, ext_lo] <;> rfl
theorem gateRelease (sid : Nat) : Statement (.gateRelease sid) := trivial
theorem bind (r : BitVec 6) (c : BitVec 5) (k : BitVec 5) : Statement (.bind r c k) := by
  simp (disch := decide) only [Statement, encode, Instr.mapKind, mark, fld, ext_hi, ext_lo] <;> rfl
theorem bindAnswer (sid : Nat) : Statement (.bindAnswer sid) := trivial
theorem wsseal (r : BitVec 6) (c : BitVec 5) (s : BitVec 1) : Statement (.wsseal r c s) := by
  simp (disch := decide) only [Statement, encode, Instr.mapKind, mark, fld, ext_hi, ext_lo] <;> rfl
theorem wssealAnswer (sid : Nat) : Statement (.wssealAnswer sid) := trivial
theorem oxcopy (d : BitVec 5) (s : BitVec 5) (p : BitVec 6) (q : BitVec 2) (t : BitVec 1) : Statement (.oxcopy d s p q t) := by
  simp (disch := decide) only [Statement, encode, Instr.mapKind, mark, fld, ext_hi, ext_lo] <;> rfl
theorem oxgath (d : BitVec 5) (s : BitVec 5) (p : BitVec 6) (q : BitVec 2) (t : BitVec 1) : Statement (.oxgath d s p q t) := by
  simp (disch := decide) only [Statement, encode, Instr.mapKind, mark, fld, ext_hi, ext_lo] <;> rfl
theorem oxscat (d : BitVec 5) (s : BitVec 5) (p : BitVec 6) (q : BitVec 2) (t : BitVec 1) : Statement (.oxscat d s p q t) := by
  simp (disch := decide) only [Statement, encode, Instr.mapKind, mark, fld, ext_hi, ext_lo] <;> rfl
theorem oxfill (d : BitVec 5) (p : BitVec 6) (q : BitVec 2) (t : BitVec 1) : Statement (.oxfill d p q t) := by
  simp (disch := decide) only [Statement, encode, Instr.mapKind, mark, fld, ext_hi, ext_lo] <;> rfl
theorem oxacc (d : BitVec 5) (s : BitVec 5) (p : BitVec 6) (o : BitVec 1) (q : BitVec 2) : Statement (.oxacc d s p o q) := by
  simp (disch := decide) only [Statement, encode, Instr.mapKind, mark, fld, ext_hi, ext_lo] <;> rfl
theorem oxcas (d : BitVec 5) (s : BitVec 5) (p : BitVec 6) (q : BitVec 2) : Statement (.oxcas d s p q) := by
  simp (disch := decide) only [Statement, encode, Instr.mapKind, mark, fld, ext_hi, ext_lo] <;> rfl
theorem oxenq (d : BitVec 5) (p : BitVec 6) (q : BitVec 2) : Statement (.oxenq d p q) := by
  simp (disch := decide) only [Statement, encode, Instr.mapKind, mark, fld, ext_hi, ext_lo] <;> rfl
theorem oxchase (d : BitVec 5) (s : BitVec 5) (p : BitVec 6) (q : BitVec 2) : Statement (.oxchase d s p q) := by
  simp (disch := decide) only [Statement, encode, Instr.mapKind, mark, fld, ext_hi, ext_lo] <;> rfl
theorem oxhen (d : BitVec 5) (s : BitVec 5) (p : BitVec 6) (o : BitVec 1) (q : BitVec 2) : Statement (.oxhen d s p o q) := by
  simp (disch := decide) only [Statement, encode, Instr.mapKind, mark, fld, ext_hi, ext_lo] <;> rfl
theorem oxpage (d : BitVec 5) (p : BitVec 6) (q : BitVec 2) : Statement (.oxpage d p q) := by
  simp (disch := decide) only [Statement, encode, Instr.mapKind, mark, fld, ext_hi, ext_lo] <;> rfl
theorem coll (d : BitVec 5) (s : BitVec 5) (p : BitVec 6) : Statement (.coll d s p) := by
  simp (disch := decide) only [Statement, encode, Instr.mapKind, mark, fld, ext_hi, ext_lo] <;> rfl
theorem hnext  : Statement .hnext := by
  simp (disch := decide) only [Statement, encode, Instr.mapKind, mark, fld, ext_hi, ext_lo] <;> rfl
theorem hldl (a : BitVec 6) : Statement (.hldl a) := by
  simp (disch := decide) only [Statement, encode, Instr.mapKind, mark, fld, ext_hi, ext_lo] <;> rfl
theorem hstl (a : BitVec 6) : Statement (.hstl a) := by
  simp (disch := decide) only [Statement, encode, Instr.mapKind, mark, fld, ext_hi, ext_lo] <;> rfl
theorem hcmp (d : BitVec 6) (a : BitVec 6) (b : BitVec 6) (x : BitVec 6) : Statement (.hcmp d a b x) := by
  simp (disch := decide) only [Statement, encode, Instr.mapKind, mark, fld, ext_hi, ext_lo] <;> rfl
theorem haddl (a : BitVec 6) (t : BitVec 12) : Statement (.haddl a t) := by
  simp (disch := decide) only [Statement, encode, Instr.mapKind, mark, fld, ext_hi, ext_lo] <;> rfl
theorem hreply (a : BitVec 6) (b : BitVec 6) : Statement (.hreply a b) := by
  simp (disch := decide) only [Statement, encode, Instr.mapKind, mark, fld, ext_hi, ext_lo] <;> rfl
theorem hstage (a : BitVec 6) (b : BitVec 6) (x : BitVec 6) : Statement (.hstage a b x) := by
  simp (disch := decide) only [Statement, encode, Instr.mapKind, mark, fld, ext_hi, ext_lo] <;> rfl
theorem hcommit (a : BitVec 6) : Statement (.hcommit a) := by
  simp (disch := decide) only [Statement, encode, Instr.mapKind, mark, fld, ext_hi, ext_lo] <;> rfl
theorem vbRfetch (s : BitVec 5) (a : BitVec 5) (d : BitVec 5) : Statement (.vbRfetch s a d) := by
  simp (disch := decide) only [Statement, encode, Instr.mapKind, mark, fld, ext_hi, ext_lo] <;> rfl
theorem vbBfx (s : BitVec 5) (a : BitVec 5) (d : BitVec 5) : Statement (.vbBfx s a d) := by
  simp (disch := decide) only [Statement, encode, Instr.mapKind, mark, fld, ext_hi, ext_lo] <;> rfl
theorem vbSigwait (s : BitVec 5) (a : BitVec 5) (d : BitVec 5) : Statement (.vbSigwait s a d) := by
  simp (disch := decide) only [Statement, encode, Instr.mapKind, mark, fld, ext_hi, ext_lo] <;> rfl
theorem vbDispatch (s : BitVec 5) (a : BitVec 5) (d : BitVec 5) : Statement (.vbDispatch s a d) := by
  simp (disch := decide) only [Statement, encode, Instr.mapKind, mark, fld, ext_hi, ext_lo] <;> rfl
theorem timedPerform (tt : Nat) : Statement (.timedPerform tt) := trivial
theorem syncMeeting (tt lc : Nat) : Statement (.syncMeeting tt lc) := trivial
theorem mstepArrival (sid : Nat) : Statement (.mstepArrival sid) := trivial
theorem barrierRelease (tt : Nat) : Statement (.barrierRelease tt) := trivial
theorem barrierMessage (link : Nat) (msg : BarMsg) : Statement (.barrierMessage link msg) := trivial
theorem strandEnd (sid : Nat) : Statement (.strandEnd sid) := trivial
theorem timetableStop (tt : Nat) : Statement (.timetableStop tt) := trivial
theorem oxJobStart (sid q : Nat) : Statement (.oxJobStart sid q) := trivial
theorem oxJobFinish (job : Nat) : Statement (.oxJobFinish job) := trivial
theorem henRequest (port : Nat) : Statement (.henRequest port) := trivial
theorem retransmitTimeout (job : Nat) : Statement (.retransmitTimeout job) := trivial
theorem priResponse (fn page : Nat) (ok : Bool) : Statement (.priResponse fn page ok) := trivial
theorem extentResident (tenant obj ext : Nat) : Statement (.extentResident tenant obj ext) := trivial
theorem extentMigrate (tenant obj ext base : Nat) : Statement (.extentMigrate tenant obj ext base) := trivial
theorem collStart (sid : Nat) : Statement (.collStart sid) := trivial
theorem collComplete (ctx : Nat) : Statement (.collComplete ctx) := trivial
theorem collTimeout (ctx pkg : Nat) : Statement (.collTimeout ctx pkg) := trivial
theorem abort (ctx pkg mgen lost : Nat) : Statement (.abort ctx pkg mgen lost) := trivial
theorem holdSend (ctx : Nat) : Statement (.holdSend ctx) := trivial
theorem hold (ctx pkg : Nat) : Statement (.hold ctx pkg) := trivial
theorem membershipAgree (tt : Nat) (lost : List Nat) : Statement (.membershipAgree tt lost) := trivial
theorem recordInstall (tt : Nat) : Statement (.recordInstall tt) := trivial
theorem linkFrame (link : Nat) (frame : Frame) : Statement (.linkFrame link frame) := trivial
theorem bridgeFlit (src dst lane : Nat) (flit : Flit) (errs : Nat) : Statement (.bridgeFlit src dst lane flit errs) := trivial
theorem routerFlit (router port lane : Nat) : Statement (.routerFlit router port lane) := trivial
theorem linkLoss (key : LinkKey) : Statement (.linkLoss key) := trivial
theorem linkTraining (key : LinkKey) (transit : Nat) : Statement (.linkTraining key transit) := trivial
theorem alignExchange (t1 t2 t3 t4 : Int) : Statement (.alignExchange t1 t2 t3 t4) := trivial
theorem counterHold  : Statement .counterHold := trivial
theorem alignloss : Statement .alignloss := trivial
theorem gclkLoad  : Statement .gclkLoad := trivial
theorem tokenWindow  : Statement .tokenWindow := trivial
theorem refreshWindow  : Statement .refreshWindow := trivial
theorem machineCheck (tt unit addr : Nat) : Statement (.machineCheck tt unit addr) := trivial
theorem scrubError (addr : Nat) : Statement (.scrubError addr) := trivial
theorem admitNext  : Statement .admitNext := trivial
theorem compactionUpdate  : Statement .compactionUpdate := trivial
theorem compactTimeout  : Statement .compactTimeout := trivial
theorem ageRaise (req : Nat) : Statement (.ageRaise req) := trivial
theorem preemptRequest (tt cluster : Nat) : Statement (.preemptRequest tt cluster) := trivial
theorem saveCommit (tt : Nat) : Statement (.saveCommit tt) := trivial
theorem victimVacated (tt : Nat) : Statement (.victimVacated tt) := trivial
theorem preemptCancel (tt : Nat) : Statement (.preemptCancel tt) := trivial
theorem placeTableWrite (tt : Nat) (table : List Place) : Statement (.placeTableWrite tt table) := trivial
theorem kick (fn q : Nat) (v : BitVec 64) : Statement (.kick fn q v) := trivial
theorem launchWrite (fn q : Nat) (v : BitVec 64) : Statement (.launchWrite fn q v) := trivial
theorem enable (fn q : Nat) : Statement (.enable fn q) := trivial
theorem pause (fn q : Nat) : Statement (.pause fn q) := trivial
theorem resume (fn q : Nat) : Statement (.resume fn q) := trivial
theorem reset (fn q : Nat) : Statement (.reset fn q) := trivial
theorem cqheadWrite (fn q : Nat) (v : BitVec 64) : Statement (.cqheadWrite fn q v) := trivial
theorem registerWrite (byFn fn : Nat) (reg : HostReg) (v : BitVec 64) : Statement (.registerWrite byFn fn reg v) := trivial
theorem regGraph (p : Pkt) (desc : BitVec 64) (count : Nat) : Statement (.regGraph p desc count) := trivial
theorem launch (p : Pkt) (r : LaunchReq) : Statement (.launch p r) := trivial
theorem feed (p : Pkt) (graph seq node wq : Nat) (recs : List Slot) : Statement (.feed p graph seq node wq recs) := trivial
theorem mapObjCreate (p : Pkt) (tenant obj : Nat) (image : Sealed) (result : BitVec 64) (rights : Byte) (wbase wlen : BitVec 64) : Statement (.mapObjCreate p tenant obj image result rights wbase wlen) := trivial
theorem mapObjResize (p : Pkt) (tenant obj : Nat) (image : Sealed) : Statement (.mapObjResize p tenant obj image) := trivial
theorem mapObjFree (p : Pkt) (tenant obj : Nat) : Statement (.mapObjFree p tenant obj) := trivial
theorem mapObjDerive (p : Pkt) (tenant obj : Nat) (result : BitVec 64) (rights : Byte) (wbase wlen : BitVec 64) : Statement (.mapObjDerive p tenant obj result rights wbase wlen) := trivial
theorem copy (p : Pkt) (dst : Sealed) (doff len : BitVec 64) (src : Sealed) (soff : BitVec 64) : Statement (.copy p dst doff len src soff) := trivial
theorem wsLoad (p : Pkt) (dst : Sealed) (doff len : BitVec 64) (src : Sealed) (soff : BitVec 64) : Statement (.wsLoad p dst doff len src soff) := trivial
theorem signalHostEvent (p : Pkt) (event : Nat) (amount : BitVec 32) : Statement (.signalHostEvent p event amount) := trivial
theorem signalSemaphore (p : Pkt) (idx graph node seq : Nat) (amount : BitVec 32) : Statement (.signalSemaphore p idx graph node seq amount) := trivial
theorem wait (p : Pkt) (event : Nat) (value timeout : BitVec 64) : Statement (.wait p event value timeout) := trivial
theorem waitRelease (fn q : Nat) : Statement (.waitRelease fn q) := trivial
theorem waitTimeout (fn q : Nat) : Statement (.waitTimeout fn q) := trivial
theorem meter (p : Pkt) (addr : BitVec 64) : Statement (.meter p addr) := trivial
theorem resetQ (p : Pkt) (target : Nat) : Statement (.resetQ p target) := trivial
theorem deregGraph (p : Pkt) (graph : Nat) : Statement (.deregGraph p graph) := trivial
theorem muleRestart  : Statement .muleRestart := trivial
theorem tenantCreate (tenant : Nat) : Statement (.tenantCreate tenant) := trivial
theorem tenantTeardown (tenant : Nat) : Statement (.tenantTeardown tenant) := trivial
theorem tdiError (fn : Nat) : Statement (.tdiError fn) := trivial
theorem getVersion (fn : Nat) : Statement (.getVersion fn) := trivial
theorem getCapabilities (fn : Nat) : Statement (.getCapabilities fn) := trivial
theorem negotiateAlgorithms (fn : Nat) (p384 sha384 : Bool) : Statement (.negotiateAlgorithms fn p384 sha384) := trivial
theorem getDigests (fn : Nat) : Statement (.getDigests fn) := trivial
theorem getCertificate (fn off len : Nat) : Statement (.getCertificate fn off len) := trivial
theorem challenge (fn : Nat) (nonce : Sealed) : Statement (.challenge fn nonce) := trivial
theorem getMeasurements (fn index : Nat) : Statement (.getMeasurements fn index) := trivial
theorem keyExchange (fn : Nat) (nonce : Sealed) : Statement (.keyExchange fn nonce) := trivial
theorem selectTenant (fn tenant : Nat) : Statement (.selectTenant fn tenant) := trivial
theorem lifecycleRead  : Statement .lifecycleRead := trivial
theorem provision  : Statement .provision := trivial
theorem claim (byFn : Nat) : Statement (.claim byFn) := trivial
theorem return_ (auth sig : List Byte) : Statement (.return_ auth sig) := trivial
theorem coldReset (image sig : List Byte) : Statement (.coldReset image sig) := trivial
theorem configRequest  : Statement .configRequest := trivial
theorem tenantTurn (server : Nat) : Statement (.tenantTurn server) := trivial
theorem eviction (tenant obj ext : Nat) : Statement (.eviction tenant obj ext) := trivial
theorem sigwaitWake (hart : Nat) : Statement (.sigwaitWake hart) := trivial
theorem tdispMessage (fn : Nat) (dest : TdiState) : Statement (.tdispMessage fn dest) := trivial
theorem atsInvalidation (fn page : Nat) : Statement (.atsInvalidation fn page) := trivial
theorem spdmSessionMessage (fn : Nat) (msg : SessMsg) : Statement (.spdmSessionMessage fn msg) := trivial

end Sys2Proof.Laws.InMap
end

