-- ==== Sys2Proof/Laws/Words.lean ====
section
/-! SUPPORT. What the shared operations of the words do, said once: faults and suppression, waits, the memory port, the matrix array,
and the landing of each kind of write. -/
namespace Sys2Proof.Machine

variable {s : State} {sid : Nat}

/-! ### Faults and suppression (R258, R259, R317) -/

@[simp] theorem State.reachBoundary_mem (k : Nat) : (s.reachBoundary sid k).mem = s.mem := by
  unfold State.reachBoundary; dsimp only; split <;> rfl
@[simp] theorem State.fault_mem (code slot creg off : Nat) : (s.fault sid code slot creg off).mem = s.mem := by
  unfold State.fault; dsimp only; split <;> split <;> simp [State.setStrand, State.setTt]
@[simp] theorem State.suppress_mem (code slot creg off : Nat) : (s.suppress sid code slot creg off).mem = s.mem := by
  simp [State.suppress, State.setStrand]
@[simp] theorem State.suppressHere_mem (code slot : Nat) : (s.suppressHere sid code slot).mem = s.mem := State.suppress_mem ..
@[simp] theorem State.slotIllegal_mem (slot : Nat) : (s.slotIllegal sid slot).mem = s.mem := State.suppressHere_mem ..

theorem State.reachBoundary_strand_ne {j : Nat} (h : j ≠ sid) (k : Nat) : (s.reachBoundary sid k).strand j = s.strand j := by
  unfold State.reachBoundary; dsimp only; split
  · exact State.strand_setStrand_ne (s := s) h
  · exact State.strand_setStrand_ne h
theorem State.fault_strand_ne {j : Nat} (h : j ≠ sid) (code slot creg off : Nat) :
    (s.fault sid code slot creg off).strand j = s.strand j := by
  unfold State.fault; dsimp only
  split <;> split <;> first
    | exact State.strand_setStrand_ne (s := s) h
    | rw [State.reachBoundary_strand_ne h]; exact State.strand_setStrand_ne (s := s) h
/-- Suppression touches no other strand. -/
theorem State.suppress_strand_ne {j : Nat} (h : j ≠ sid) (code slot creg off : Nat) :
    (s.suppress sid code slot creg off).strand j = s.strand j := by
  rw [State.suppress, State.strand_setStrand_ne h, State.fault_strand_ne h]

/-! ### Waits (R66, R319) -/

/-- A word that waits acts where waiting is legal, and is an illegal word elsewhere. -/
theorem waitWord_strand {f : Nat → State} (h : s.cur = .strand sid) :
    waitWord s f = .next (if s.noWait sid then s.slotIllegal sid 3 else f sid) := strandOnly_strand h

/-- The answer to the only wait of a bundle: its writes are due on the strand's next vcy. -/
theorem Strand.answer_last {st : Strand} {effs : List Eff} (h : st.more = []) :
    st.answer effs = { st with wait := .done (st.owed ++ effs), owed := [] } := by simp [Strand.answer, h]
/-- With another wait in the bundle, that wait is taken up. -/
theorem Strand.answer_more {st : Strand} {effs : List Eff} {w : Wait} {rest : List Wait} (h : st.more = w :: rest) :
    st.answer effs = { st with wait := w, more := rest, owed := st.owed ++ effs } := by simp [Strand.answer, h]

/-! ### The memory port and the matrix array (R318, R78, R81) -/

/-- A word of the memory port: suppressed while the port is busy, else it occupies the port and does its work. -/
theorem tPort_strand {occ : Nat} {f : State → Nat → State} (h : s.cur = .strand sid) :
    tPort s occ f = .next (if (s.strand sid).vclk < (s.strand sid).occT then s.slotIllegal sid 3
      else f (s.setStrand sid { s.strand sid with occT := (s.strand sid).vclk + occ }) sid) := strandOnly_strand h

/-- A matrix word whose strand holds the lease, with a tile of the window and its own earlier command over: it occupies the array. -/
theorem xCommand_holder {c : BitVec 8} {occ : Image → Strand → Nat} {f : State → Nat → State} (h : s.cur = .strand sid)
    (hl : s.holdsLease sid = true) (hc : c.toNat < (s.ttOfStrand sid).img.tiles)
    (hb : ((s.lease sid).busy.any fun b => b.1 == sid && decide ((s.strand sid).vclk < b.2)) = false) :
    xCommand s (some c) occ f = .next (f (s.occupy sid (occ (s.ttOfStrand sid).img (s.strand sid))) sid) := by
  rw [xCommand, strandOnly_strand h]
  simp [State.inWindow, State.ownBusy, hl, hc, hb]

/-! ### The landing of each kind of write (R62) -/

section
variable {old : Timetable} {r t k n : Nat}

theorem State.land_d {v : BitVec 64} {x : Bool} : s.land old sid (.d r v x) = s.setStrand sid ((s.strand sid).wd r v x) := rfl
theorem State.land_clrt {m : BitVec 64} :
    s.land old sid (.clrt m) = s.setStrand sid { s.strand sid with taint := (s.strand sid).taint &&& ~~~ m } := rfl
theorem State.land_c {v : Cap} : s.land old sid (.c r v) = s.setStrand sid ((s.strand sid).wc r v) := rfl
theorem State.land_v {m : PReg} {x : VReg} : s.land old sid (.v r m x) = s.setStrand sid ((s.strand sid).wv r m x) := rfl
theorem State.land_vbits {m x : VReg} : s.land old sid (.vbits r m x) = s.setStrand sid ((s.strand sid).wvBits r m x) := rfl
theorem State.land_p {m x : PReg} : s.land old sid (.p r m x) = s.setStrand sid ((s.strand sid).wp r m x) := rfl
theorem State.land_csr {v : BitVec 64} : s.land old sid (.csr n v) = s.setStrand sid ((s.strand sid).landCsr n v) := rfl
theorem State.land_flags {f : BitVec 8} : s.land old sid (.flags f) = s.setStrand sid ((s.strand sid).raise f) := rfl
theorem State.land_tile {x : VReg} : s.land old sid (.tile t x) =
    s.setTt (ttOf sid) { s.ttOfStrand sid with tiles := SMap.set [] (s.ttOfStrand sid).tiles t x } := rfl
theorem State.land_rowsum {x : VReg} : s.land old sid (.rowsum t x) =
    s.setTt (ttOf sid) { s.ttOfStrand sid with rows := SMap.set [] (s.ttOfStrand sid).rows t x } := rfl
theorem State.land_qb {q : QB} : s.land old sid (.qb k q) = s.setStrand sid { (s.strand sid).setQb k q with
    qbheld := (s.strand sid).qbheld.filter fun u => u.1 != k } := rfl
end

end Sys2Proof.Machine
end

