-- ==== Sys2Proof/Tests/Slice0.lean ====
section
/-! SUPPORT. The author's own tests: the ill-formed terms the checks refuse, the words of the spec's encodings, and for each statement
states and operands that meet its hypotheses. -/
set_option Elab.async false
set_option maxRecDepth 100000
namespace Sys2Proof.Tests
open Sys2Proof Sys2Proof.Machine

/-! ### Ill-formed terms are refused -/

theorem test_ill_formed_scalar :
    (Instr.bndl 0 0 0 0 1).wellFormed = false ∧ (Instr.cinc 32 1 2).wellFormed = false ∧ (Instr.bfx 1 2 60 5).wellFormed = false ∧
    (Instr.rdcsr 1 6).wellFormed = false ∧ (Instr.wrcsr 1 0x11).wellFormed = false ∧ (Instr.br 1 6 0).wellFormed = false ∧
    (Instr.loopImm 3 1 1).wellFormed = false ∧ (Instr.loopReg 0 0 1).wellFormed = false ∧ (Instr.lds 1 32 2 0).wellFormed = false ∧
    (Instr.sfcmp 1 2 3 5).wellFormed = false ∧ (Instr.sfcvt 1 2 4).wellFormed = false ∧ (Instr.sfcvt 1 2 0x29).wellFormed = false ∧
    (Instr.exit 64).wellFormed = false ∧ (Instr.wqpop 0 9 1).wellFormed = false ∧ (Instr.wqpop 8 9 1).wellFormed = false := by decide

theorem test_ill_formed_vector :
    (Instr.vadd 0 48 1 2 0 0).wellFormed = false ∧ (Instr.vabs 0 1 48 0 0).wellFormed = false ∧
    (Instr.vcmpEq 1 48 2 0 0).wellFormed = false ∧ (Instr.vsel 1 2 48 0).wellFormed = false ∧
    (Instr.vaddH16 0 1 2 48 0).wellFormed = false ∧ (Instr.vcvt 0 1 48 2 0).wellFormed = false ∧ (Instr.vsf 0 1 2 8 0).wellFormed = false ∧
    (Instr.vrotr 0 1 48 2 0).wellFormed = false ∧ (Instr.vbcr 0 48 1 2 0).wellFormed = false ∧ (Instr.vbcc 0 1 2 16 0).wellFormed = false ∧
    (Instr.vredr 0 1 2 3 0 0).wellFormed = false ∧ (Instr.vcomp 0 48 1 0).wellFormed = false ∧
    (Instr.vperm 0 1 2 48 0).wellFormed = false ∧ (Instr.vmov 0 48 1 0).wellFormed = false ∧
    (Instr.vsplati 0 1 128 0 3).wellFormed = false ∧ (Instr.vsplats 0 48 1 0 0).wellFormed = false ∧
    (Instr.vget 1 48 2).wellFormed = false ∧ (Instr.vput 48 1 2).wellFormed = false ∧ (Instr.vmmul 0 1 2 48 0 0).wellFormed = false ∧
    (Instr.vmred 0 48 1 0 0).wellFormed = false ∧ (Instr.vnttp 0 1 2 10 0).wellFormed = false ∧ (Instr.vrng 0 48 1 0).wellFormed = false ∧
    (Instr.vlnmul 0 48 1 2 0).wellFormed = false ∧ (Instr.vmqset 1 47 0).wellFormed = false ∧
    (Instr.pset 1 1025 0).wellFormed = false := by decide

theorem test_ill_formed_memory :
    (Instr.mma 0 1 45 0).wellFormed = false ∧ (Instr.mmas 0 48 1 0).wellFormed = false ∧ (Instr.mload 0 48).wellFormed = false ∧
    (Instr.mdrain 0 1 47 0).wellFormed = false ∧ (Instr.mdrains 0 1 47 0).wellFormed = false ∧ (Instr.vld 48 1 2 0).wellFormed = false ∧
    (Instr.vldx 1 1 48 0).wellFormed = false ∧ (Instr.ldc 0 1 2 0).wellFormed = false ∧ (Instr.cld 32 1 2 0).wellFormed = false ∧
    (Instr.semwait 1 2 55).wellFormed = false ∧ (Instr.semsig 1 0).wellFormed = false ∧ (Instr.oxcopy 1 2 12 0 0).wellFormed = false ∧
    (Instr.oxfill 1 0 0 0).wellFormed = false ∧ (Instr.oxacc 1 2 9 0 0).wellFormed = false ∧ (Instr.oxcas 1 2 0 0).wellFormed = false ∧
    (Instr.oxenq 1 4 0).wellFormed = false ∧ (Instr.coll 1 2 0).wellFormed = false ∧ (Instr.haddl 1 3).wellFormed = false ∧
    (Instr.hldl 32).wellFormed = false ∧ (Instr.hcmp 1 2 32 0).wellFormed = false ∧ (Instr.hreply 32 1).wellFormed = false ∧
    (Instr.hstage 1 2 3).wellFormed = false := by decide

/-! ### Words written out from the encodings of f12 and the opcode table -/

theorem test_decode_scalar_1 :
    decodeHeader 0x7F0BD007 = some (.bndl 11 1 1 1 7) ∧
    decodeSlot 0 0x00000000 = some .nop ∧
    decodeSlot 0 0x015420C0 = some (.add 21 2 3) ∧
    decodeSlot 0 0x026D2100 = some (.sub 27 18 4) ∧
    decodeSlot 0 0x03313080 = some (.mul 12 19 2) ∧
    decodeSlot 0 0x047911C0 = some (.mulh 30 17 7) ∧
    decodeSlot 0 0x05083380 = some (.div 2 3 14) ∧
    decodeSlot 0 0x06383200 = some (.rem 14 3 8) ∧
    decodeSlot 0 0x070D2380 = some (.and_ 3 18 14) ∧
    decodeSlot 0 0x0809B4C0 = some (.or_ 2 27 19) ∧
    decodeSlot 0 0x0911F200 = some (.xor_ 4 31 8) ∧
    decodeSlot 0 0x0A5554C0 = some (.shl 21 21 19) ∧
    decodeSlot 0 0x0B7C24C0 = some (.shr 31 2 19) ∧
    decodeSlot 0 0x0C4CD080 = some (.sar 19 13 2) ∧
    decodeSlot 0 0x0D202480 = some (.min 8 2 18) := by decide

theorem test_decode_scalar_2 :
    decodeSlot 0 0x0E705280 = some (.max 28 5 10) ∧
    decodeSlot 0 0x0F385480 = some (.slt 14 5 18) ∧
    decodeSlot 0 0x10113292 = some (.sel 4 19 10 18) ∧
    decodeSlot 0 0x116D6000 = some (.clz 27 22) ∧
    decodeSlot 0 0x12184000 = some (.popc 6 4) ∧
    decodeSlot 0 0x134D3547 = some (.agen 19 19 21 7) ∧
    decodeSlot 0 0x14300000 = some (.getcycGclk 12) ∧
    decodeSlot 0 0x14100001 = some (.getcycVclk 4) ∧
    decodeSlot 0 0x154970C0 = some (.cinc 18 23 3) ∧
    decodeSlot 0 0x164C2500 = some (.csetb 19 2 20) ∧
    decodeSlot 0 0x171D0580 = some (.crestr 7 16 22) ∧
    decodeSlot 0 0x1848E64B = some (.clrt 18 14 25 11) ∧
    decodeSlot 0 0x203D301E = some (.addi 15 19 30) ∧
    decodeSlot 0 0x2114350B = some (.bfx 5 3 20 11) ∧
    decodeSlot 0 0x2214350B = some (.bfi 5 3 20 11) := by decide

theorem test_decode_scalar_3 :
    decodeSlot 0 0x23100011 = some (.rdcsr 4 17) ∧
    decodeSlot 0 0x24009045 = some (.wrcsr 9 69) ∧
    decodeSlot 0 0x2846001D = some (.movi 17 2 29) ∧
    decodeSlot 0 0x292F000F = some (.movhi 11 3 15) ∧
    decodeSlot 0 0x2A00000A = some (.trap 10) ∧
    decodeSlot 0 0x30267FFE = some (.br 9 4 32766) ∧
    decodeSlot 0 0x31000011 = some (.jmp 17) ∧
    decodeSlot 0 0x32380006 = some (.call 14 6) ∧
    decodeSlot 0 0x33640000 = some (.ret 25) ∧
    decodeSlot 0 0x3841C12C = some (.loopImm 1 7 300) ∧
    decodeSlot 0 0x3881E013 = some (.loopReg 2 7 19) ∧
    decodeSlot 0 0x817D60D9 = some (.lds 31 22 3 25) ∧
    decodeSlot 0 0x8249369D = some (.sts 18 19 26 29) ∧
    decodeSlot 0 0x886CB2C0 = some (.sfadd 27 11 11) ∧
    decodeSlot 0 0x895CC500 = some (.sfmul 23 12 20) := by decide

theorem test_decode_scalar_4 :
    decodeSlot 0 0x8A41368F = some (.sfma 16 19 26 15) ∧
    decodeSlot 0 0x8B1C5244 = some (.sfcmp 7 5 9 4) ∧
    decodeSlot 0 0x8C1C5009 = some (.sfcvt 7 5 9) ∧
    decodeSlot 0 0x90583098 = some (.sdot4 22 3 2 24) ∧
    decodeSlot 0 0xA0000025 = some (.exit 37) ∧
    decodeSlot 0 0xA1000000 = some .sstep ∧
    decodeSlot 0 0xA100080A = some (.sstepM 10) ∧
    decodeSlot 0 0xA2000000 = some .svcNull ∧
    decodeSlot 0 0xA2000001 = some .svcHostev ∧
    decodeSlot 0 0xA2000002 = some .svcSnapshot ∧
    decodeSlot 0 0xA2000003 = some .svcLinkgen ∧
    decodeSlot 0 0xA8203002 = some (.wqpop 8 3 2) ∧
    decodeSlot 0 0xA9000002 = some (.wqwait 2) := by decide

theorem test_decode_vector_1 :
    decodeSlot 1 0x8129737F = some (.vadd 1 10 23 13 15 3) ∧
    decodeSlot 1 0x833017E2 = some (.vsub 1 12 1 31 8 2) ∧
    decodeSlot 1 0x85194121 = some (.vmul 1 6 20 4 8 1) ∧
    decodeSlot 1 0x871D928F = some (.vfma 1 7 25 10 3 3) ∧
    decodeSlot 1 0x8920D37E = some (.vmin 1 8 13 13 15 2) ∧
    decodeSlot 1 0x8B0C63DF = some (.vmax 1 3 6 15 7 3) ∧
    decodeSlot 1 0x8D25D00E = some (.vabs 1 9 29 3 2) ∧
    decodeSlot 1 0x8F712272 = some (.vand 1 28 18 9 12 2) ∧
    decodeSlot 1 0x9131675D = some (.vor 1 12 22 29 7 1) ∧
    decodeSlot 1 0x9314318D = some (.vxor 1 5 3 6 3 1) ∧
    decodeSlot 1 0x95588063 = some (.vshl 1 22 8 1 8 3) ∧
    decodeSlot 1 0x97189285 = some (.vshr 1 6 9 10 1 1) ∧
    decodeSlot 1 0x9939232B = some (.vsar 1 14 18 12 10 3) ∧
    decodeSlot 1 0x9A2DF173 = some (.vcmpEq 11 31 5 12 3) ∧
    decodeSlot 1 0x9B7D456F = some (.vcmpNe 31 20 21 11 3) := by decide

theorem test_decode_vector_2 :
    decodeSlot 1 0x9C08F77B = some (.vcmpLt 2 15 29 14 3) ∧
    decodeSlot 1 0x9D69235E = some (.vcmpLe 26 18 13 7 2) ∧
    decodeSlot 1 0x9E34442C = some (.vsel 13 4 16 11) ∧
    decodeSlot 1 0xA13421CA = some (.vaddH16 1 13 2 7 2) ∧
    decodeSlot 1 0xA31CF18A = some (.vaddB16 1 7 15 6 2) ∧
    decodeSlot 1 0xA52D408A = some (.vsubH16 1 11 20 2 2) ∧
    decodeSlot 1 0xA7053166 = some (.vsubB16 1 1 19 5 9) ∧
    decodeSlot 1 0xA911F32A = some (.vmulH16 1 4 31 12 10) ∧
    decodeSlot 1 0xAB043712 = some (.vmulB16 1 1 3 28 4) ∧
    decodeSlot 1 0xAD50D16E = some (.vfmaH16 1 20 13 5 11) ∧
    decodeSlot 1 0xAF25F32A = some (.vfmaB16 1 9 31 12 10) ∧
    decodeSlot 1 0xB131010A = some (.vminH16 1 12 16 4 2) ∧
    decodeSlot 1 0xB37103E2 = some (.vminB16 1 28 16 15 8) ∧
    decodeSlot 1 0xB540A0CE = some (.vmaxH16 1 16 10 3 3) ∧
    decodeSlot 1 0xB71182F2 = some (.vmaxB16 1 4 24 11 12) := by decide

theorem test_decode_vector_3 :
    decodeSlot 1 0xB92506F0 = some (.vcvt 1 9 16 27 12) ∧
    decodeSlot 1 0xBB1910D0 = some (.vsf 1 6 17 3 4) ∧
    decodeSlot 1 0xBD7DF458 = some (.vrotr 1 31 31 17 6) ∧
    decodeSlot 1 0xBF1574BC = some (.vrotc 1 5 23 18 15) ∧
    decodeSlot 1 0xC1059454 = some (.vbcr 1 1 25 17 5) ∧
    decodeSlot 1 0xC355C2F0 = some (.vbcc 1 21 28 11 12) ∧
    decodeSlot 1 0xC5709099 = some (.vredr 1 28 9 2 6 1) ∧
    decodeSlot 1 0xC7319067 = some (.vredc 1 12 25 1 9 3) ∧
    decodeSlot 1 0xC9651018 = some (.vcomp 1 25 17 6) ∧
    decodeSlot 1 0xCB548028 = some (.vexpd 1 21 8 10) ∧
    decodeSlot 1 0xCD69A678 = some (.vslup 1 26 26 25 14) ∧
    decodeSlot 1 0xCF1DA238 = some (.vsldn 1 7 26 8 14) ∧
    decodeSlot 1 0xD1358690 = some (.vperm 1 13 24 26 4) ∧
    decodeSlot 1 0xD31D1020 = some (.vmov 1 7 17 8) ∧
    decodeSlot 1 0xD517FF8E = some (.vsplati 1 5 4094 3 2) := by decide

theorem test_decode_vector_4 :
    decodeSlot 1 0xD7689022 = some (.vsplats 1 26 9 8 2) ∧
    decodeSlot 1 0xD81D7500 = some (.vget 7 23 20) ∧
    decodeSlot 1 0xDA7CC3C0 = some (.vput 31 12 15) ∧
    decodeSlot 1 0xDD69E61A = some (.vmmul 1 26 30 24 6 2) ∧
    decodeSlot 1 0xDF0C8112 = some (.vmadd 1 3 8 4 4 2) ∧
    decodeSlot 1 0xE11CB1E3 = some (.vmsub 1 7 11 7 8 3) ∧
    decodeSlot 1 0xE3754039 = some (.vmred 1 29 20 14 1) ∧
    decodeSlot 1 0xE541E55B = some (.vbfly 1 16 30 21 6 3) ∧
    decodeSlot 1 0xE70DB58A = some (.vbflyGs 1 3 27 22 2 2) ∧
    decodeSlot 1 0xE9697250 = some (.vnttp 1 26 23 9 4) ∧
    decodeSlot 1 0xEB40074C = some (.vrng 1 16 29 3) ∧
    decodeSlot 1 0xED39A558 = some (.vlnmul 1 14 26 21 6) ∧
    decodeSlot 1 0xEF0DA7F0 = some (.vlnadd 1 3 26 31 12) ∧
    decodeSlot 1 0xF000D3C2 = some (.vmqset 13 15 2) ∧
    decodeSlot 1 0xF261F0F8 = some (.pand 24 31 3 1 1 1) := by decide

theorem test_decode_vector_5 :
    decodeSlot 1 0xF26061B9 = some (.por 24 6 6 1 1 1) ∧
    decodeSlot 1 0xF214117A = some (.pxor 5 1 5 1 1 1) ∧
    decodeSlot 1 0xF24DD033 = some (.pnot 19 29 1 1) ∧
    decodeSlot 1 0xF43DA010 = some (.pcnt 15 26 1) ∧
    decodeSlot 1 0xF6545010 = some (.pfirst 21 5 1) ∧
    decodeSlot 1 0xF818E120 = some (.pset 6 900 1) := by decide

theorem test_decode_matrix_1 :
    decodeSlot 2 0x9014416F = some (.mma 20 16 22 15) ∧
    decodeSlot 2 0x910C1529 = some (.mmaRs 12 5 18 9) ∧
    decodeSlot 2 0x9205041D = some (.mmas 5 1 1 13) ∧
    decodeSlot 2 0x93185449 = some (.mmasRs 24 21 4 9) ∧
    decodeSlot 2 0x98180000 = some (.mzero 24) ∧
    decodeSlot 2 0x991E1400 = some (.mload 30 5) ∧
    decodeSlot 2 0x9A0E707E = some (.mdrain 14 28 7 14) ∧
    decodeSlot 2 0x9B1C1C15 = some (.mdrains 28 7 1 5) ∧
    decodeSlot 2 0x9E000000 = some .mlease ∧
    decodeSlot 2 0x9F000000 = some .mfree := by decide

theorem test_decode_memory_1 :
    decodeSlot 3 0x801D4888 = some (.vld 7 10 17 8) ∧
    decodeSlot 3 0x81666589 = some (.vst 25 19 11 9) ∧
    decodeSlot 3 0x8249CD85 = some (.vldx 18 14 27 5) ∧
    decodeSlot 3 0x830BCC0C = some (.vstx 2 30 24 12) ∧
    decodeSlot 3 0x8475EB40 = some (.pld 29 15 22 1) ∧
    decodeSlot 3 0x854F6EC0 = some (.pst 19 27 29 1) ∧
    decodeSlot 3 0x8845CD9E = some (.ldc 17 14 27 30) ∧
    decodeSlot 3 0x89762292 = some (.cld 29 17 5 18) ∧
    decodeSlot 3 0x8A162881 = some (.cst 5 17 17 1) ∧
    decodeSlot 3 0x90700008 = some (.qbbind 28 8) ∧
    decodeSlot 3 0x91000C83 = some (.qbwait 25 3) ∧
    decodeSlot 3 0x91000A11 = some (.qbwaitE 20 1) ∧
    decodeSlot 3 0x92000C8D = some (.qbtake 25 13) ∧
    decodeSlot 3 0x93000283 = some (.qbgive 5 3) ∧
    decodeSlot 3 0x98140814 = some (.semwait 5 16 20) := by decide

theorem test_decode_memory_2 :
    decodeSlot 3 0x99000C04 = some (.semsig 24 4) ∧
    decodeSlot 3 0x9A484596 = some (.syncarm 18 2 11 22) ∧
    decodeSlot 3 0x9B462910 = some (.syncwait 17 17 18 16) ∧
    decodeSlot 3 0xA000001D = some (.fence 1 13) ∧
    decodeSlot 3 0xA1000000 = some .join ∧
    decodeSlot 3 0xA2032000 = some (.acq 25) ∧
    decodeSlot 3 0xA3008000 = some (.rel 4) ∧
    decodeSlot 3 0xA4764100 = some (.bind 29 18 2) ∧
    decodeSlot 3 0xA820E001 = some (.wsseal 8 7 1) ∧
    decodeSlot 3 0xC048A803 = some (.oxcopy 9 2 40 1 1) ∧
    decodeSlot 3 0xC18BE803 = some (.oxgath 17 15 40 1 1) ∧
    decodeSlot 3 0xC2CF6803 = some (.oxscat 25 29 40 1 1) ∧
    decodeSlot 3 0xC3782807 = some (.oxfill 15 40 3 1) ∧
    decodeSlot 3 0xC48D280A = some (.oxacc 17 20 40 1 1) ∧
    decodeSlot 3 0xC5BA6806 = some (.oxcas 23 9 40 3) := by decide

theorem test_decode_memory_3 :
    decodeSlot 3 0xC6902804 = some (.oxenq 18 40 2) ∧
    decodeSlot 3 0xC78FE806 = some (.oxchase 17 31 40 3) ∧
    decodeSlot 3 0xC88F680C = some (.oxhen 17 29 40 1 2) ∧
    decodeSlot 3 0xC9F02802 = some (.oxpage 30 40 1) ∧
    decodeSlot 3 0xCADBC500 = some (.coll 27 15 5) := by decide

theorem test_decode_hen_1 :
    decodeHen 0x81000000 = some .hnext ∧
    decodeHen 0x8200E000 = some (.hldl 14) ∧
    decodeHen 0x83004000 = some (.hstl 4) ∧
    decodeHen 0x8434F2C3 = some (.hcmp 13 15 11 3) ∧
    decodeHen 0x85016002 = some (.haddl 22 2) ∧
    decodeHen 0x8600E0C0 = some (.hreply 14 3) ∧
    decodeHen 0x87007582 = some (.hstage 7 22 2) ∧
    decodeHen 0x8801A000 = some (.hcommit 26) := by decide

theorem test_decode_virbel_1 :
    decodeMule 0x004E8C8B = some (.vbRfetch 4 29 25) ∧
    decodeMule 0x005F9B8B = some (.vbBfx 5 31 23) ∧
    decodeMule 0x015B260B = some (.vbSigwait 21 22 12) ∧
    decodeMule 0x0054BE8B = some (.vbDispatch 5 9 29) := by decide

/-! ### States that meet the hypotheses of the statements -/

/-- An image with one bank, four tiles, four semaphores and a code section of 64 words. -/
def img : Image := { Image.none with banks := 1, tiles := 4, sems := 4, codeLen := [(0, 64)] }
/-- Timetable 0 of tenant 0, running, in a C-step, on core 0 with slot group 0. -/
def tt : Timetable := { Timetable.blank with life := 1, step := 1, img := img, place := [⟨0, 0, 0, 0, 1, true, [0]⟩] }
/-- Its strand: the window in C1, small numbers in D1, D2. -/
def st : Strand := { Strand.blank with life := 1, d := [(1, 5), (2, 7)], c := [(1, windowCap tt)], pc := 2, bundle := 0, slotPc := 2 }
/-- That strand's turn to run a word. -/
def one (f : Strand → Strand) : State := { State.reset with cur := .strand 0, strands := [(0, f st)], tts := [(0, tt)] }
/-- The same with the timetable changed. -/
def onTt (f : Timetable → Timetable) (s : State) : State := { s with tts := [(0, f tt)] }
/-- A Hen serving a request that covers line 0 of its channel group, and a hart in machine mode. -/
def req : HenReq := ⟨0, 0x48, 0, 0, 0, 0, false, 0, devAddr 0 0 3 0, 128, [], [(devAddr 0 0 3 0, 128)], [], none, none, 0, 0, 0⟩
def hen : State := { State.reset with cur := .hen 0, hens := [(0, { Hen.idle with cur := some req, len := 4 })] }
def mule (h : Hart) : State := { State.reset with cur := .hart 0, harts := State.reset.harts.set 0 h }

theorem test_meets_DecodeEncodeAgree :
    (Instr.add 63 0 63).mapKind = some .common ∧ (Instr.add 63 0 63).wellFormed = true ∧
    decode .common 0x01FC0FC0#32 = some (.add 63 0 63) := by decide

theorem test_meets_DecodedWordIsTheEncoding :
    decode .vMap 0xF2181929 = some (.por 6 1 36 1 0 1) ∧ decode .vMap 0xF2146103 = none := by decide

theorem test_meets_IntegerElementsWrap : 1 < 2 ∧ 3 < 4 ∧ (elemLane 3 .add 0xFF 0x01 0).1 = 0 := by decide

theorem test_meets_StepRunsDecodedWord :
    (let s := State.reset.withFetchWord 32 0x7F010001
     s.cur = .strand 0 ∧ (s.strand 0).slots = [] ∧ (s.strand 0).pc < s.codeLen 0 ∧
     decodeHeader (s.codeWord 0 (s.strand 0).pc) = some (.bndl 1 0 0 0 1)) ∧
    (let s := State.reset.withFetchWord 32 0x010C1080
     s.cur = .strand 0 ∧ (s.strand 0).slots = [0] ∧ decodeSlot 0 (s.codeWord 0 (s.strand 0).slotPc) = some (.add 3 1 2)) ∧
    (let s := State.reset.withFetchWord 32 0x85016002
     s.cur = .hen 0 ∧ (s.hen 0).cur.isSome ∧ (s.hen 0).pc < (s.hen 0).len ∧ decodeHen (s.henWord 0) = some (.haddl 22 2)) ∧
    (let s := State.reset.withFetchWord 32 0x00C5950B
     s.cur = .hart 0 ∧ (s.hart 0).sleep = none ∧ decodeMule (s.hartWord 0) = some (.vbBfx 12 11 10)) := by decide

theorem test_meets_StepsWithoutADecodedWord :
    (let s := (State.reset.withFetchWord 32 0x010C1080).modTt 0 fun t => { t with img := { t.img with code := [(0, [(1, 0x010C1081#32)])] } }
     s.cur = .strand 0 ∧ (s.strand 0).slots = [0] ∧ decodeSlot 0 (s.codeWord 0 (s.strand 0).slotPc) = none ∧
     (s.codeWord 0 (s.strand 0).slotPc).extractLsb' 12 20 ≠ 0xA2000#20) ∧
    (let s : State := { State.reset with todo := [.hart 3] }
     s.cur = .none ∧ s.todo = [.hart 3]) ∧ State.reset.cur = .none ∧ State.reset.todo = [] ∧
    ({ State.reset with stage := .tick } : State).stage = .tick := by decide

/-- A step that has a next state, from a state with canonical memory. -/
theorem test_meets_StepKeepsMemoryCanonical :
    State.reset.memOk = true ∧ ∃ s, step State.reset = .next s := ⟨by decide, _, rfl⟩

theorem test_meets_IntegerWordsInAStrand :
    (one id).cur = .strand 0 ∧ (Instr.div 3 1 0).wellFormed = true ∧
    intSpec 0 ((one id).strand 0).rd (.div 3 1 0) = some (3, [1, 0], 18, true, BitVec.allOnes 64) ∧
    intSpec 0 ((one id).strand 0).rd (.addi 0 2 0x800) = some (0, [2], 1, true, BitVec.ofInt 64 (7 - 2048)) :=
  ⟨by decide, by decide, by rfl, by rfl⟩

theorem test_meets_IntegerWordsInAHen :
    hen.cur = .hen 0 ∧ (Instr.add 31 1 2).wellFormed = true ∧ intSpec 0 (hen.hen 0).rd (.add 31 1 2) = some (31, [1, 2], 1, true, 0) ∧
    (31#6).toNat < 32 ∧ (∀ x ∈ [1#6, 2], x.toNat < 32) ∧ intSpec 0 (hen.hen 0).rd (.add 32 1 2) = some (32, [1, 2], 1, true, 0) ∧
    32 ≤ (32#6).toNat := ⟨by decide, by decide, by rfl, by decide, by decide, by rfl, by decide⟩

theorem test_meets_BitWordsInAStrand : (one id).cur = .strand 0 ∧ (0#6).toNat + (63#6).toNat < 64 := by decide

theorem test_meets_AddiAndAgenPerform : (one id).cur = .strand 0 := by decide

theorem test_meets_CsrWords :
    (one id).cur = .strand 0 ∧ isRwCsr 0x45 = true ∧ isRwCsr 0x11 = false ∧ hen.cur = .hen 0 ∧ (State.reset.ttOfStrand 0).life = 0 ∧
    ((one id).ttOfStrand 0).life ≠ 0 := by decide

theorem test_meets_FaultsAndTraps :
    (0 < 0x17 ∧ 0x17 < 256) ∧ ((one id).strand 0).ending = false ∧ bits ((one id).strand 0).fault 63 56 = 0 ∧
    (let s := one fun st => { st with fault := faultWord 0x0D 3 31 0 }
     (s.strand 0).ending = false ∧ bits (s.strand 0).fault 63 56 ≠ 0) ∧
    (mule { Hart.zero with mode := 0 }).cur = .hart 0 ∧ ((mule { Hart.zero with mode := 0 }).hart 0).mode ≠ 3 ∧ Hart.zero.mode < 4 := by decide

theorem test_meets_CapabilitiesNarrow :
    (let x := ((one id).strand 0).rc 1
     (one id).cur = .strand 0 ∧ hasRights (capRights x.bits) rightD = true ∧ (((one id).strand 0).rd 1).toNat ≤ capLen x.bits ∧
     capBase x.bits + (((one id).strand 0).rd 1).toNat < 2 ^ 44) ∧
    (let s := one fun st => { st with d := [(1, 131073)] }
     capLen ((s.strand 0).rc 1).bits < ((s.strand 0).rd 1).toNat) ∧
    ¬ hasRights (capRights (((one id).strand 0).rc 0).bits) rightD = true := by decide

theorem test_meets_ScalarFloatWords : (one id).cur = .strand 0 := by decide

theorem test_meets_LdsAndSts :
    (let s := one id
     let c := (s.strand 0).rc 1
     (capBase c.bits + 131064) % 8 = 0 ∧ s.readCheck 0 c 131064 8 (rightR + rightT) = none ∧
     s.writeCheck 0 c 131064 8 (rightW + rightT) = none ∧ (capBase c.bits + 5) % 8 ≠ 0) ∧
    (((one fun st => { st with d := [(2, 131064)] }).strand 0).rd 2 + 8 * (0#6).setWidth 64).toNat = 131064 ∧
    (((one id).strand 0).rd 1 + 8 * (0#6).setWidth 64).toNat = 5 := by decide

theorem test_meets_BranchesAndLoops :
    (let s := one id
     s.cur = .strand 0 ∧ 0 ≤ ((s.strand 0).bundle : Int) + (63#15).toInt ∧ ((s.strand 0).bundle : Int) + (63#15).toInt < s.codeLen 0 ∧
     ¬ ((s.strand 0).bundle : Int) + (64#15).toInt < s.codeLen 0 ∧ ((s.strand 0).rd 1).toInt ≠ 0 ∧ ((s.strand 0).rd 0).toInt = 0 ∧
     ((s.strand 0).rd 1).toNat < s.codeLen 0) ∧ ((one id).skipBundles 0 (1#8).toNat ((one id).strand 0).pc).2 ≤ 256 := by decide

theorem test_meets_BundleIssues :
    (let s := one id
     s.cur = .strand 0 ∧ (1#4) ≠ 0 ∧ (s.strand 0).pc + 1 + ((List.range 4).countP fun i => (1#4).getLsbD i) ≤ s.codeLen 0 ∧
     (1#4).getLsbD 2 = false ∧ lendFor (s.strand 0).loops ((s.strand 0).pc + 2) = (0#2).toNat) ∧
    ((one fun st => { st with met := true }).strand 0).met = true := by decide

theorem test_meets_EndsOfStepsAndStrands :
    (let s := one id
     s.cur = .strand 0 ∧ s.inMStep 0 = false ∧ (s.strand 0).life = 1 ∧ (s.strand 0).wait = .none ∧ (s.strand 0).fault = 0 ∧
     (s.ttOfStrand 0).cause = 0 ∧ (s.ttOfStrand 0).firstFault = none ∧ s.holdsLease 0 = false ∧ (63#12).toNat < 64 ∧
     (s.ttOfStrand 0).mstep = none ∧ (s.ttOfStrand 0).opensM = false) ∧
    ((onTt (fun t => { t with step := 2 }) (one id)).ttOfStrand 0).opensM = true := by decide

theorem test_meets_VectorWordsPerformByLanes :
    (one id).cur = .strand 0 ∧ ((one id).strand 0).occV ≤ ((one id).strand 0).vclk ∧
    (laneSpec 0 ((one id).strand 0) (.vadd 0 47 1 2 0 3)).isSome ∧ ((one id).strand 0).guard 0 1023 = true ∧
    1023 ∈ (List.range 1024).filter (((one id).strand 0).guard 0) := by decide +kernel

theorem test_meets_VectorUnitBusyOrIdle :
    ((one fun st => { st with occV := 1 }).strand 0).vclk < ((one fun st => { st with occV := 1 }).strand 0).occV ∧
    (List.range 1024).filter (((one id).strand 0).guard 1) = [] := by decide +kernel

theorem test_meets_ConversionsAndCompares :
    1023 ∈ (List.range 1024).filter (((one id).strand 0).guard 0) ∧ (cvtCtl 0 1 2 0).isSome ∧
    cvtCtl (BitVec.twoPow 64 8) 1 2 0 = none := by decide +kernel

theorem test_meets_LaneWords :
    (one id).cur = .strand 0 ∧ ((one id).strand 0).occV ≤ ((one id).strand 0).vclk ∧
    1023 ∈ (List.range 1024).filter (((one id).strand 0).guard 0) := by decide +kernel

theorem test_meets_ModularWords :
    (one id).cur = .strand 0 ∧ 1023 ∈ (List.range 1024).filter (((one id).strand 0).guard 0) ∧
    511 ∈ (List.range 512).filter (fun i => ((one id).strand 0).guard 0 (2 * i)) ∧ 2 ≤ 2 ^ 31 - 1 ∧ 2 ^ 31 - 1 < 2 ^ 31 ∧
    0 < 2 ^ 31 - 1 := by decide +kernel

theorem test_meets_PredicateWords : (one id).cur = .strand 0 ∧ ((one id).strand 0).occV ≤ ((one id).strand 0).vclk := by decide

/-- The strand holds its core's lease, with one and with two commands left. -/
def held (n : Nat) : State := onTt (fun t => { t with leases := [(0, ⟨some 0, n, 0, 3, [(0, 2)], 0⟩)] }) (one fun st => { st with vclk := 2, occT := 2 })
/-- The strand frozen in a wait. -/
def waits (w : Wait) : State := one fun st => { st with wait := w, vclk := 9 }
/-- A word of memory. -/
def at8 (a : Nat) (v : BitVec 64) (s : State) : State := { s with mem := s.mem.writeN a (bytesOf 8 v.toNat) }

theorem test_meets_MatrixArray :
    ((held 1).holdsLease 0 = true ∧ (held 2).holdsLease 0 = true ∧ 1 < ((held 2).lease 0).left ∧ ((held 1).lease 0).left ≤ 1 ∧
      (3#8).toNat < ((held 1).ttOfStrand 0).img.tiles ∧
      (((held 1).lease 0).busy.any fun x => x.1 == 0 && decide (((held 1).strand 0).vclk < x.2)) = false ∧
      ftCheck (((held 1).strand 0).ftEntry 0) false false = none ∧ drainBad (((held 1).strand 0).rd 0) = false) ∧
    (let s := one fun st => { st with csr := [(0x020, 3), (0x04F, 0x88)] }
     ftCheck ((s.strand 0).ftEntry 15) true ((s.ttOfStrand 0).img.emulates ((s.strand 0).ftEntry 15)) = none) ∧
    ((one id).inMStep 0 = false ∧ ((one id).strand 0).wait = .none ∧ (one id).holdsLease 0 = false ∧ (one id).leaseFree 0 = true ∧ (one id).ownBusy 0 = false) ∧
    (onTt (fun t => { t with leases := [(0, ⟨some 0, 1, 0, 3, [(0, 9)], 0⟩)] }) (one id)).ownBusy 0 = true ∧
    ((held 1).ownBusy 0 = false ∧ (held 1).holdsLease 0 = true) ∧
    (held 64).leaseFree 0 = false ∧ ((waits .lease).leaseFree 0 = true ∧ (waits .mlease).leaseFree 0 = true) := by decide +kernel

theorem test_meets_MatrixMemoryWords :
    let s1 := (held 2).occupy 0 16
    let st := (held 2).strand 0
    let line := fun (n : Nat) => bits (0 : BitVec 64) 31 0 + n / 32 * bits (512 : BitVec 64) 31 0 + n % 32 / 2 * 0 + 128 * (n % 2)
    (∀ n < 128, s1.readCheck 0 (st.rc 1) (line n) 128 (rightR + rightT) = none) ∧ bits (512 : BitVec 64) 63 34 = 0 ∧
    bits (512 : BitVec 64) 31 0 % 128 = 0 ∧
    ((held 2).occupy 0 4).writeCheck 0 (st.rc 1) 126976 4096 (rightW + rightT) = none ∧ 126976 % 128 = 0 ∧
    ((held 2).occupy 0 4).writeCheck 0 (st.rc 1) 127104 4096 (rightW + rightT) ≠ none := by decide +kernel

theorem test_meets_TimedMemoryWords :
    let s := one fun st => { st with d := [(1, 126976)], p := [(5, [(7, true)])] }
    (s.strand 0).occT ≤ (s.strand 0).vclk ∧
    s.vmemCheck 0 ((s.strand 0).rc 1) ⟨List.range 1024, (List.range 1024).map fun l => 126976 + 4 * l, true, 0⟩ false = none ∧
    s.vmemCheck 0 ((s.strand 0).rc 1) ⟨[7], [131068], false, 4⟩ true = none ∧
    s.vmemCheck 0 ((s.strand 0).rc 1) ⟨[7], [131072], false, 4⟩ true ≠ none ∧
    (capBase ((s.strand 0).rc 1).bits + 130944) % 128 = 0 ∧ s.readCheck 0 ((s.strand 0).rc 1) 130944 128 (rightR + rightT) = none ∧
    s.writeCheck 0 ((s.strand 0).rc 1) 131040 32 (rightW + rightT) = none ∧
    hasRights (capRights ((s.strand 0).rc 1).bits) rightS = false ∧ hasRights 63 rightS = true := by decide +kernel

/-- Accesses of the eight timed memory words that R91 allows, at the last bytes of the window, whole and for lane 7 alone. -/
theorem test_meets_TimedMemoryWordsComplete :
    let s := one fun st => { st with
      d := [(1, 126976), (2, 130944), (3, 131040)], v := [(4, [(7, 131068)])], p := [(5, [(7, true)])], c := [(1, windowCap tt), (2, ⟨capMake 0 1 127 0 64, false⟩)] }
    let c := (s.strand 0).rc 1
    (s.strand 0).occT ≤ (s.strand 0).vclk ∧
    (AccessOk s 0 c 126976 4096 rightR false ∧ AccessOk s 0 c 126976 4096 rightW true ∧ (capBase c.bits + 126976) % 4 = 0) ∧
    ((List.range 1024).filter ((s.strand 0).pb 5) = [7] ∧ (s.strand 0).lane 4 7 = 131068 ∧ (capBase c.bits + 131068) % 4 = 0 ∧
      AccessOk s 0 c 131068 4 rightR false ∧ AccessOk s 0 c 131068 4 rightW true) ∧
    ((capBase c.bits + 130944) % 128 = 0 ∧ AccessOk s 0 c 130944 128 rightR false ∧ AccessOk s 0 c 130944 128 rightW true) ∧
    ((capBase c.bits + 131040) % 32 = 0 ∧ AccessOk s 0 c 131040 32 rightR false ∧ AccessOk s 0 c 131040 32 rightW true ∧
      hasRights (capRights ((s.strand 0).rc 2).bits) rightS = true) := by
  have h (f : Strand → Strand) (a : Nat) : (one f).inGate a = false := rfl
  refine ⟨by decide +kernel, ⟨?_, ?_, by decide +kernel⟩, ⟨by decide +kernel, by decide +kernel, by decide +kernel, ?_, ?_⟩,
    ⟨by decide +kernel, ?_, ?_⟩, by decide +kernel, ?_, ?_, by decide +kernel⟩ <;>
  exact ⟨by decide +kernel, by decide +kernel, by decide +kernel, by decide +kernel, by decide +kernel, by decide +kernel,
    by decide +kernel, by decide +kernel, by decide +kernel, by decide +kernel, fun _ _ _ => h _ _⟩

/-- A queue buffer of two slots of 64 bytes, one of them filled. -/
def qbuf : QB := ⟨1, 0, 1, 0, 1, 6, true, 0⟩

theorem test_meets_QueueBuffers :
    let s := one fun st => { st with qb := [(15, qbuf)], qbheld := [(15, true, 1, 0)], vclk := 1 }
    let v : BitVec 64 := 1 * 2 ^ 32 + 6 * 2 ^ 24
    (bits v 63 44 = 0 ∧ bits v 31 29 = 0 ∧ v.getLsbD 23 = false ∧ 6 ≤ bits v 28 24 ∧
      bits v 22 0 + (bits v 43 32 + 1) * 2 ^ bits v 28 24 ≤ capLen ((s.strand 0).rc 1).bits ∧ (s.strand 0).qbBusy 14 = false) ∧
    (let q := (s.strand 0).qbuf 15
     q.v = true ∧ 1 ≤ q.nm1.toNat + 1 - (q.prod - q.cons).toNat ∧ 1 ≤ (q.prod - q.cons).toNat ∧
      ((s.strand 0).qbuf 0).v = false ∧ 2 ≤ q.nm1.toNat + 1 ∧ ¬ 2 ≤ (q.vprod - q.vcons).toNat ∧
      ¬ 2 ≤ q.nm1.toNat + 1 - (q.vprod - q.vcons).toNat) ∧
    (s.strand 0).qbheld = (15, true, 1, 0) :: [] ∧ 0 < (s.strand 0).vclk ∧
    ((waits (.qb 15 false 1)).strand 0).wait = .qb 15 false 1 := by decide +kernel

theorem test_meets_Semaphores :
    ((3#8).toNat < ((one id).ttOfStrand 0).img.sems ∧ ((one id).ttOfStrand 0).img.sems ≤ (4#8).toNat) ∧
    (let s := onTt (fun t => { t with sems := [(3, 0xC100FFFF)] }) (waits (.sem 4 3 none))
     (s.strand 0).wait = .sem 4 3 none ∧ 3 < (s.ttOfStrand 0).img.sems ∧
     ((s.ttOfStrand 0).sem (((s.strand 0).lcore * 256) + 3)).toNat % 2 ^ 16 ≠ 0 ∧ (s.strand 0).ran = false) ∧
    (let s := one fun st => { st with wait := .sem 4 3 (some 0), ran := true, sigs := [(3, 127, 0, 5)], vclk := 1 }
     (s.strand 0).wait = .sem 4 3 (some 0) ∧ (s.strand 0).ran = true ∧ (s.strand 0).more = [] ∧ (s.strand 0).owed = [] ∧
     (s.strand 0).sigs = (3, 127, 0, 5) :: [] ∧ 0 < (s.strand 0).vclk ∧ 0 % 2 ^ 16 + 127 ≤ 65535) := by decide +kernel

theorem test_meets_SyncWordsAndTheirWaits :
    ((one id).syncAddr 0 (((one id).strand 0).rc 1) 131040 rightW).toOption = some (2 ^ 56 + 131040) ∧
    ((one id).syncAddr 0 (((one id).strand 0).rc 1) 131040 rightR).toOption = some (2 ^ 56 + 131040) ∧
    (syncGen ((one id).syncWord (2 ^ 56 + 131040))).toNat ≤ (((one id).strand 0).rd 1).toNat ∧
    (((one id).strand 0).rd 0).toNat < (syncGen ((at8 (2 ^ 56 + 131056) 1 (one id)).syncWord (2 ^ 56 + 131040))).toNat ∧
    (let s := at8 (2 ^ 56 + 80) 1 (waits (.sync (2 ^ 56 + 64) 0))
     (s.strand 0).wait = .sync (2 ^ 56 + 64) 0 ∧ (0 : BitVec 64).toNat < (syncGen (s.syncWord (2 ^ 56 + 64))).toNat) ∧
    syncTarget ((at8 (2 ^ 56 + 64) 4096 State.reset).syncWord (2 ^ 56 + 64)) ≠ 0 ∧
    syncTarget (State.reset.syncWord (2 ^ 56 + 64)) = 0 := by decide +kernel

theorem test_meets_FencesAndJoins :
    (one id).inMStep 0 = false ∧ ((one id).strand 0).wait = .none ∧ ((one id).strand 0).marked = false ∧
    ((one fun st => { st with oq := [(4, [.marker 0])] }).strand 0).marked = true ∧ ((waits .join).strand 0).wait = .join ∧
    ((waits .join).strand 0).marked = false := by decide +kernel

/-- An object of one extent of 4096 bytes in a memory level (its first byte at offset 0 of that level), and a capability for its first
`len` bytes with every right. -/
def obj (home : Nat) : Obj :=
  { Obj.free with entry := BitVec.ofNat 256 (2 ^ 252 + home * 2 ^ 249 + 2 ^ 239 + 4096 * 2 ^ 180 + devAddr 0 0 home 0 / 4096 * 2 ^ 135) }
def objCap (len : Nat) : Cap := ⟨capMake 0 1 127 0 len, false⟩
/-- Tenant 0 with that object as its object 1, and a capability for it in C2. -/
def withObj (home len : Nat) (s : State) : State :=
  { s with
    tenants := [(0, { s.tenant 0 with objs := [(1, obj home)] })]
    strands := [(0, { s.strand 0 with c := [(1, windowCap tt), (2, objCap len)] })] }
def dram : Nat := devAddr 0 0 3 0

theorem test_meets_ServicesAndWorkQueues :
    ((one id).inMStep 0 = false ∧ ((one id).strand 0).wait = .none) ∧ (2 : BitVec 64) ^ 31 ≠ 0 ∧ ((2 : BitVec 64) ^ 31).toNat ≤ 2 ^ 31 ∧
    2 ^ 31 < ((2 : BitVec 64) ^ 31 + 1).toNat ∧
    (let s := waits (.svc 2 130560 0 false)
     (s.strand 0).wait = .svc 2 130560 0 false ∧ 130592 % 64 ≠ 0 ∧ 130560 % 64 = 0 ∧ s.writeCheck 0 ((s.strand 0).rc 1) 130560 480 (rightR + rightW) = none ∧
     s.writeCheck 0 ((s.strand 0).rc 1) 130624 480 (rightR + rightW) ≠ none ∧
     ∀ i < 480, s.byteReady 0 ((s.strand 0).rc 1) (130560 + i) = true) ∧
    (let s := onTt (fun t => { t with group := some ⟨3, [0, 1], [], 2⟩ }) (waits (.svc 3 0 0 true))
     (s.ttOfStrand 0).group = some ⟨3, [0, 1], [], 2⟩) ∧
    (let s := onTt (fun t => { t with wq := [(3, [(0, 7), (1, 8)])], wqTaken := [(2, 0)] }) { one id with gclk := 2 }
     (s.wqReady 0 2).length ≤ SMap.get 0 (s.ttOfStrand 0).wqTaken 2 ∧
     (s.wqReady 0 3)[SMap.get 0 (s.ttOfStrand 0).wqTaken 3]? = some 7 ∧ s.wqReady 0 3 ≠ [] ∧ s.wqReady 0 2 = []) := by decide +kernel

theorem test_meets_ObservedLoads :
    let s := withObj 3 64 (one id)
    let cap := (s.strand 0).rc 2
    (s.inMStep 0 = false ∧ (s.strand 0).wait = .none ∧ (capBase cap.bits + 56) % 8 = 0 ∧ s.readCheck 0 cap 56 8 rightR = none ∧
      s.readCheck 0 cap 64 8 rightR ≠ none ∧ s.capCheck 0 cap 0 64 rightG = none ∧ s.capAddr 0 cap 0 = .at_ dram) ∧
    (let s : State := { s with reserve := [(7, (1, 0))], gclk := 256 }
     s.farAway dram = false ∧ s.byteReady 0 cap 56 = true ∧ s.turnAt (s.owner 0) dram = true ∧
     s.capAddr 0 cap 56 = .at_ (dram + 56) ∧ s.turnAt (s.owner 0) (dram + 56) = true) ∧
    (let s : State := { s with tenants := [(0, { s.tenant 0 with objs := [(1,
       { obj 3 with entry := entSet (obj 3).entry 135 45 (devAddr 1 0 3 0 / 4096) })] })] }
     s.capAddr 0 cap 56 = .at_ (devAddr 1 0 3 56) ∧ s.farAway (devAddr 1 0 3 56) = true ∧ s.awaiting (waitKey 0) = false ∧
     s.stopBit (s.owner 0) (devAddr 1 0 3 56) = false) := by decide +kernel

/-- A gate at the first word of DRAM. -/
def gated (g : Gate) (s : State) : State := { withObj 3 64 s with gates := [(dram, g)] }

theorem test_meets_Gates :
    (((gated Gate.none (one id)).gateOf 0 (((gated Gate.none (one id)).strand 0).rc 2)).toOption = some (some dram)) ∧
    (let s := gated ⟨true, some 0, false, 0, [], [], none⟩ (one id)
     (s.gate dram).holder = some 0 ∧ (s.gate dram).holder ≠ some 1 ∧ s.farAway dram = false) ∧ (Gate.none.holder ≠ some 0) ∧
    (let s : State := { gated ⟨true, none, true, 4, [], [0], none⟩ (waits (.acq dram)) with reserve := [(7, (1, 0))] }
     (s.gate dram).holder = none ∧ (s.gate dram).freeing = none ∧ s.ask 0 = none ∧ s.turnAt (s.owner 0) dram = true ∧
     (s.gate dram).waiters.filter (fun w => !s.abandons w) = 0 :: [] ∧ (s.strand 0).wait = .acq dram) ∧
    (let s : State := { gated ⟨true, none, true, 4, [], [0], none⟩ (waits (.acq dram)) with gclk := 256 }
     s.henFree (s.owner 0) dram = true) ∧
    (let s : State := { withObj 3 64 (one id) with tenants := [(0, { (one id).tenant 0 with objs := [(1,
       { obj 3 with entry := entSet (obj 3).entry 135 45 absentBase })] })] }
     (s.gateOf 0 ((s.strand 0).rc 2)).toOption = some none) ∧
    (let s : State := { withObj 3 64 (one id) with tenants := [(0, { (one id).tenant 0 with objs := [(1,
       { obj 3 with entry := entSet (obj 3).entry 135 45 (devAddr 1 0 3 0 / 4096) })] })] }
     (s.gateOf 0 ((s.strand 0).rc 2)).toOption = some (some (devAddr 1 0 3 0)) ∧ s.farAway (devAddr 1 0 3 0) = true ∧
     (s.gate (devAddr 1 0 3 0)).holder ≠ some 0) ∧
    (let st := (one fun st => { st with rels := [(dram, 3, 1)], vclk := 2, oq := [(0, [.marker 8])] }).strand 0
     st.rels = (dram, 3, 1) :: [] ∧ 1 < st.vclk ∧ (∀ q < 5, ∀ k < 5, QEnt.marker (3 + k) ∉ st.queue q)) := by decide +kernel

theorem test_meets_BindAndSeal :
    (let s := withObj 3 64 (one id)
     s.inMStep 0 = false ∧ (s.strand 0).wait = .none ∧ (2#5) ≠ 0 ∧ s.capCheck 0 (s.strand 0 |>.rc 2) 0 64 rightG = none ∧
     s.capCheck 0 (s.strand 0 |>.rc 2) 0 64 rightW = none) ∧
    (let full : Gate := ⟨true, some 0, false, 0, List.replicate 8 (0, 1, 0, 64), [], none⟩
     full.holder = some 0 ∧ 8 ≤ full.binds.length ∧
     (let s : State := { gated full (waits (.bind 3 dram none)) with reserve := [(7, (1, 0))] }
      (s.strand 0).wait = .bind 3 dram none ∧ s.farAway dram = false ∧ s.turnAt (s.owner 0) dram = true ∧ s.henFree (s.owner 0) dram = true ∧
       (s.gate dram).holder = some 0)) ∧
    (let s := waits (.bind 3 (devAddr 1 0 3 0) none)
     s.farAway (devAddr 1 0 3 0) = true ∧ s.awaiting (waitKey 0) = false) ∧ [(0, 1, 0, 64)].length < 8 ∧
    (let e := (obj 2).entry
     entHome e = 2 ∧ 4096 = entLen e ∧ 4095 ≠ entLen e ∧ (obj 2).loading = 0 ∧ entTp e ≠ 1 ∧ entHome (obj 3).entry ≠ 2 ∧
     entTp (entSet e 245 1 1) = 1) := by decide +kernel

/-- A block for `n` bytes to the window's first bytes from its offset 4096, in the registers D8..D15. -/
def block (n : Nat) (ctl : BitVec 64) : SMap (BitVec 64) :=
  [(9, 4096), (10, BitVec.ofNat 64 (n + 2 ^ 16 + 2 ^ 32 + 2 ^ 48)), (14, ctl)]
def oxState (q : List QEnt) : State := one fun st => { st with d := block 256 0, oq := [(2, q)] }
def oxBlock (s : State) : PBlk := (List.range 8).map fun i => (s.strand 0).rd (8 + i)

theorem test_meets_OxWords :
    (Instr.oxcopy 1 1 8 2 0, 0x40, 1, false) ∈ oxForms 1 1 8 0 2 ∧ (Instr.oxcopy 1 1 8 2 1, 0x40, 1) ∈ oxTimedForms 1 1 8 2 ∧
    (8#6).toNat % 8 = 0 ∧ (63#6).toNat % 8 ≠ 0 ∧
    (let s := oxState []
     let b := oxBlock s
     let c := (s.strand 0).rc 1
     (s.blockCheck 0 0x40 true b = none ∧ s.rowCheck 0x40 b c c 1 = none ∧
      (∀ x ∈ s.sides 0x40 true b c c c 1 1, s.sideIssue 0 x = none ∧ s.sidePort 0 x = none) ∧ b.syen = false ∧ b.qben = false) ∧
     overlapVerdict 0x40 b c c (s.streamOf 0 0x40 true b c c c) = none ∧ s.engineBusy 0 2 = false ∧ s.oxWaitsInM 0 0x40 c c (s.streamOf 0 0x40 true b c c c) = false ∧
     r177 (some (s.homeOfCap c)) (s.homeOfCap c) = some (12, 256)) ∧
    (let s := oxState (List.replicate 64 (.job Job.none))
     64 ≤ ((s.strand 0).queue 2).countP (fun e => match e with
       | .job _ => true
       | _ => false) ∧ (oxBlock s).sen = false) ∧
    (let s := oxState []
     let b := oxBlock s
     let c := (s.strand 0).rc 1
     s.gateRow 0 0x42 b c (s.rowsOf 0 0x42 true b c c (s.indexList 0 b c)) = none) ∧
    ({ oxState [] with tts := [(0, { tt with oxbusy := [(2, 0, 1)] })] } : State).engineBusy 0 2 = true := by decide +kernel

/-- A job at the head of queue 2 of strand 0, and a state that holds it. -/
def job (stt : JobState) (ctl : BitVec 64) : Job :=
  { Job.none with id := 5, q := 2, op := 0x43, blk := [0, 4096, 64 + 2 ^ 16 + 2 ^ 32 + 2 ^ 48, 0, 0, 0, ctl, 0], cd := windowCap tt, c1 := windowCap tt, kd := 1, st := stt }
def jobState (stt : JobState) (ctl : BitVec 64) : State :=
  { onTt (fun t => { t with sems := [(3, 1)] }) (one fun st => { st with oq := [(2, [.job (job stt ctl)])] }) with
    jobs := [(5, job stt ctl)] }

theorem test_meets_OxJobs :
    (let s := jobState .queued 0
     s.waitingJob 0 2 = some (job .queued 0) ∧ s.startLacks (job .queued 0) = [] ∧ (job .queued 0).again = false ∧ PBlk.wen (job .queued 0).blk = false ∧
     s.jobPorts (job .queued 0) = none) ∧
    (let s := jobState .queued 0x10003
     PBlk.wen (job .queued 0x10003).blk = true ∧ s.semKey 0 (PBlk.wsem (job .queued 0x10003).blk) = some 3 ∧
     semCount ((s.ttOfStrand 0).sem 3) ≠ 0 ∧
     State.startLacks (s.setTt 0 ((s.ttOfStrand 0).setSem 3 (semWith ((s.ttOfStrand 0).sem 3) 0))) (job .queued 0x10003) = []) ∧
    (let s := jobState .started 0
     s.jobDone (s.job 5) = true ∧ (s.job 5).q < 4 ∧ PBlk.syen (s.job 5).blk = false) := by decide +kernel

theorem test_meets_OxJobs_remotes :
    let s : State := { State.reset with remotes := [(5, ⟨8, 0, 1, 0, 7, .read 0 8⟩), (6, ⟨8, 0, 2, 0, 8, .read 0 8⟩)], gclk := 65536 }
    (s.remotes.find? fun x => x.1 == 5) = some (5, ⟨8, 0, 1, 0, 7, .read 0 8⟩) ∧ 0 + 2 ^ 16 ≤ s.gclk.toNat ∧
    s.stopFor (s.owner 0) (8 / 320) = false ∧ 5 < 2 ^ 64 ∧
    (s.remotes.find? fun x => x.1 == 6) = some (6, ⟨8, 0, 2, 0, 8, .read 0 8⟩) := ⟨rfl, by decide, rfl, by decide, rfl⟩

/-- A Hen in a request over its first line, with the line's address in D1, a count in D2 and the buffer. -/
def henAt (rb : List (BitVec 64)) (n : BitVec 64) : State :=
  { hen with hens := [(0, { Hen.idle with cur := some req, len := 4, d := [(1, 0), (2, n)], rb := rb })] }

theorem test_meets_HenRoutines :
    (let s : State := { State.reset with reserve := [(7, (1, 0))], hens := [(0, { Hen.idle with queue := [req] })] }
     s.turn (henServer 0) = some 0 ∧ (s.hen 0).cur = none ∧ (s.hen (0 * 256 + 0)).queue = req :: [] ∧
     (∀ x ∈ s.reqBytes req, s.byteReady (s.job req.job).sid x.1 x.2 = true) ∧ (∀ x ∈ s.reqAddrs 0 req, s.migratingAt x = false)) ∧
    (let s := henAt [] 8
     s.cur = .hen 0 ∧ (s.hen 0).cur = some req ∧ req.from_ = none ∧ s.henAddr 0 ((s.hen 0).rd 1) = some dram ∧ dram % 128 = 0 ∧
     req.covers dram = true ∧ (s.hen 0).replied = none ∧ (2#12).toNat ≤ 2 ∧ 2 < (3#12).toNat ∧
     0 < 8 ∧ ((s.hen 0).rd 2).toNat ≤ 8 ∧ (0#6).toNat + 2 * 8 ≤ 16 ∧
     (∀ i < 8, (wordsOf (s.mem.readN dram 64)).getD i 0 = (s.hen 0).buf i) ∧
     (s.hen 0).stagedBytes req.tenant + 160 ≤ (s.tenant req.tenant).stagePart) ∧
    (let s := henAt [1] 8
     ¬ ∀ i < 8, (wordsOf (s.mem.readN dram 64)).getD i 0 = (s.hen 0).buf i) ∧
    ({ Hen.idle with replied := some (0, []) } : Hen).replied ≠ none := by decide +kernel

theorem test_meets_VirbelWords :
    (let h : Hart := { Hart.zero with mode := 0 }
     (mule h).cur = .hart 0 ∧ ((mule h).hart 0).mode ≠ 3) ∧
    (let s := mule Hart.zero
     (s.hart 0).mode = 3 ∧ s.inSram s.sramBase = true ∧ s.sramBase % 64 = 0 ∧ (s.queue 0 0).st = 0 ∧
     s.signals 0 &&& 255 = 0 ∧ s.servedBy 0 0 = (0 : Fin 32).val ∧ s.servedBy 0 0 ≠ (31 : Fin 32).val ∧ ((s.setQueue 0 0 { s.queue 0 0 with st := 1 }).queue 0 0).st ≠ 0) ∧
    (let b : BitVec 64 := 63 * 2 ^ 8
     bits b 7 6 = 0 ∧ bits b 63 14 = 0 ∧ bits b 5 0 + bits b 13 8 + 1 ≤ 64 ∧ 64 < bits (b + 1) 5 0 + bits (b + 1) 13 8 + 1) ∧
    bits (255 : BitVec 64) 63 8 = 0 ∧ bits (256 : BitVec 64) 63 8 ≠ 0 ∧ (BitVec.twoPow 64 13).getLsbD 13 = true ∧
    (let s := mule { Hart.zero with sleep := some (31, 255, 0) }
     (s.hart 0).sleep = some (31, 255, 0) ∧ 0 ≤ s.gclk.toNat) := by decide +kernel

/-- Two writes to D4 and two stores to one byte, due at the vcy the strand ran, and a write still to come. -/
def landing : State := one fun st => { st with
  ran := true, vclk := 3
  pend := [⟨2, none, 0, 0, .d 4 7 false⟩, ⟨3, none, 3, 1, .store [(some dram, 9), (some dram, 8)] none false []⟩, ⟨3, none, 0, 2, .d 4 8 false⟩,
    ⟨4, none, 0, 3, .d 5 1 false⟩] }

theorem test_meets_TimedWritesPerform :
    landing.landings 0 ≠ [] ∧
    landing.landings 0 = [(0, ⟨2, none, 0, 0, .d 4 7 false⟩)] ++ (0, ⟨3, none, 0, 2, .d 4 8 false⟩) ::
      [(0, ⟨3, none, 3, 1, .store [(some dram, 9), (some dram, 8)] none false []⟩)] ∧
    landing.isRemote 0 dram = false ∧ (landing.strand 0).ran = true ∧ 0 ∈ landing.sids 0 := by decide +kernel

theorem test_meets_SyncMeetings :
    (waits .meet).allMet 0 0 = true ∧ 0 ∈ (waits .meet).siblings 0 0 ∧ ((waits .meet).strand 0).wait = .meet := by decide +kernel

/-- At the barrier of step 1, arrived. -/
def barrier (f : Timetable → Timetable) : State :=
  onTt f (one fun st => { st with wait := .barrier, leaves := some 4, arrived := some 9, vclk := 9 })

theorem test_meets_StepBarriers :
    (let st := (one fun st => { st with wait := .barrier, leaves := some 4, vclk := 4 }).strand 0
     st.wait = .barrier ∧ st.leaves = some 4 ∧ st.arrived = none ∧ st.life = 1 ∧ st.halt = false ∧ 4 ≤ st.vclk) ∧
    (let s := barrier fun t => { t with start := some (3, 9) }
     let s := { s with gclk := 3 }
     (s.tt 0).start = some (3, 9) ∧ (s.tt 0).life = 1 ∧ (s.tt 0).cause = 0 ∧ (s.tt 0).held = false ∧ 3 ≤ s.gclk.toNat ∧
     s.allArrived 0 = true ∧ s.someParked 0 = false ∧ s.stagedLines 0 = 0 ∧ (one id).allArrived 0 = false ∧ ¬ ((s.tt 0).lost = true ∧ (s.tt 0).mstep.isSome = true) ∧ s.gclk.toNat < 4 ∧
     ({ s with hens := [(0, { Hen.idle with staged := [⟨[dram], 0, 0, 0, 0, 0, [], none⟩] })] } : State).stagedLines 0 ≠ 0) := by
  decide +kernel

theorem test_meets_EndsAndStops :
    (let st : Strand := { st with wait := .exit (some 63) }
     let s := onTt (fun t => { t with img := { t.img with width := 2 } }) { one id with strands := [(0, st), (1, st)] }
     (s.strand 0).wait = .exit (some 63) ∧ (s.strand 0).life = 1 ∧ (s.strand 0).halt = false ∧ (s.strand 0).drained = true ∧
     ∃ k ∈ s.alive 0, k ≠ 0) ∧
    (let s := onTt (fun t => { t with cause := 2 }) (one fun st => { st with halt := true })
     (s.tt 0).placed = true ∧ (s.tt 0).cause ≠ 0 ∧ s.stopped 0 = true ∧ s.quiet 0 = true ∧ (s.tt 0).cause ≠ 5 ∧ 0 ∈ s.sids 0 ∧
     (s.strand 0).life = 1) ∧ (5 < 6 ∧ 9 < 10 ∧ dram / 32 * 32 + 32 ≤ dram + 32) := by decide +kernel

/-- A link between packages 0 and 1, and a collective over it. -/
def key01 : LinkKey := ⟨0, 0, 1, 0⟩
def coll : Coll := { Coll.none with live := true, tmo := 1, group := ⟨3, [0, 1], [key01], 2⟩, trees := [(0, [key01])] }
def collState (c : Coll) : State := { onTt (fun t => { t with group := some ⟨3, [0, 1], [key01], 2⟩ }) (one id) with colls := [(0, c)], gclk := 1024 }

theorem test_meets_CollectivesAndTheirFailures :
    (let s := one id
     (4#6) ≠ 0 ∧ 131008 % 64 = 0 ∧ s.capCheck 0 ((s.strand 0).rc 1) 131008 64 (rightR + rightW) = none ∧
     ((s.strand 0).queue 4).countP (fun e => match e with
       | .coll _ => true
       | _ => false) < 64) ∧
    (let cmd : CollCmd := ⟨0, Cap.null, Cap.null, 1, 2, 0, false, 0, 0⟩
     let s := one fun st => { st with oq := [(4, List.replicate 64 (.coll cmd))] }
     64 ≤ ((s.strand 0).queue 4).countP (fun e => match e with
       | .coll _ => true
       | _ => false) ∧ (s.strand 0).queue 4 = .coll cmd :: List.replicate 63 (.coll cmd) ∧ (s.coll 0).live = false ∧
     s.contexts (s.placeOfStrand 0).die (s.tt 0).tenant < 16 ∧ ¬ ((s.tt 0).aborted = true ∧ (s.tt 0).member = some 0)) ∧
    (collState { coll with agreed := true, trees := [], group := ⟨3, [0], [], 2⟩, op := 1 }).collFinished 0 = true := by decide +kernel

theorem test_meets_CollectiveFailures :
    (let s := collState coll
     let c := s.coll 0
     c.live = true ∧ 1 ∈ s.collWaits 0 ∧ s.collWaits 0 ≠ [] ∧ c.began + c.tmo * 1024 ≤ s.gclk.toNat ∧ (c.heard.find? fun x => x.1 == 1) = none ∧ c.group.mgen = 3 ∧
     1 ∈ c.group.members ∧ c.group.mgen ≠ 2 ∧ c.held + c.tmo * 256 ≤ s.gclk.toNat ∧ (∃ x ∈ c.trees, 1 ∈ neighbours x.2 s.pkg)) ∧
    Coll.none.live = false ∧
    (let s := onTt (fun t => { t with aborted := true, group := some ⟨3, [0, 1], [], 2⟩ }) (one id)
     (s.tt 0).life ≠ 0 ∧ (s.tt 0).pending = none ∧ (s.groupOf 0).members[1]? = some 1 ∧ 1 ∉ [0] ∧ (s.tt 0).silent.testBit 1 = false) ∧
    (let s := onTt (fun t => { t with pending := some ⟨4, [0], [], 2⟩ }) (one id)
     (s.tt 0).pending = some ⟨4, [0], [], 2⟩ ∧ (s.coll 0).live = false) := by decide +kernel

theorem test_meets_Residency :
    (let s := State.reset.setFunc 0 { State.reset.func 0 with pri := [5] }
     (s.func 0).pri.contains 5 = true ∧ (s.func 0).pri.contains 6 = false) ∧
    (let s : State := { State.reset with wanted := [(0, 1, 0)] }
     (0, 1, 0) ∈ s.wanted ∧ entKind (s.obj 0 1).entry = 0) ∧
    (let s := withObj 3 64 (one id)
     let o := s.obj 0 1
     extentBase s 0 o.entry 0 = some (dram / 4096) ∧ dram / 4096 ≠ absentBase ∧ entTp o.entry ≠ 1 ∧ entKind o.entry ≠ 0 ∧
     addrOk ((dram / 4096 + 1) * 4096) = true ∧ (dram / 4096 + 1) * 4096 % 2 ^ (12 + entXsz o.entry) = 0 ∧
     homeOf ((dram / 4096 + 1) * 4096) = entHome o.entry ∧
     (∀ x ∈ s.extentsAt (addrDie ((dram / 4096 + 1) * 4096)) (homeOf ((dram / 4096 + 1) * 4096)),
       ¬ ((dram / 4096 + 1) * 4096 < x.1 + x.2 ∧ x.1 < (dram / 4096 + 1) * 4096 + 4096)) ∧ 0 ∉ o.mig ∧ 0 ∈ ({ o with mig := [0] } : Obj).mig ∧
     entHome o.entry = 3 ∧ 0 * 2 ^ (12 + entXsz o.entry) < entLen o.entry ∧ entNx o.entry ≠ 7 ∧ s.gates = []) := by decide +kernel

/-- An object whose one extent is not resident finds a free place. -/
theorem test_meets_Residency_place :
    let s : State := { withObj 3 64 (one id) with tenants := [(0, { State.reset.tenant 0 with objs := [(1,
      { obj 3 with entry := entSet (obj 3).entry 135 45 absentBase })] })] }
    extentBase s 0 (s.obj 0 1).entry 0 = some absentBase ∧ entKind (s.obj 0 1).entry ≠ 0 ∧ s.hasRoom 0 3 4096 = true := by decide +kernel


/-- Package 1 with its link to package 0 trained. -/
def pair : State :=
  { State.reset with
    pkg := 1
    trained := [key01]
    table := [key01]
    links := [(0, { Link.down with trained := true, transit := 40, sentAt := 1000, oref := 2 })] }
def flit : Flit := ⟨0, 0, 0, 0, none⟩
def frame : Frame := ⟨1, true, 100, 2, [3], none, [(5, flit)], [], [], []⟩

theorem test_meets_FabricEvents :
    (let s : State := { State.reset with flits := [(8, [⟨7, 15, 0, 1, flit⟩])], gclk := 256, routers := [(8, [(0, 0xFFFFFFF7)])], reserve := [(8, (1, 0))] }
     ((SMap.get [] s.flits 8).find? fun y =>
       y.port == 7 && y.lane == 15 && decide (y.at_ < s.gclk.toNat) && s.holds 0x08 8 y.flit) = some ⟨7, 15, 0, 1, flit⟩ ∧
     (∀ o < 8, ¬ (8 ≤ selOf (s.entryNow s.routers 8) o ∧ selOf (s.entryNow s.routers 8) o < 15)) ∧ s.holds 0x08 8 flit = true ∧
     (∃ o < 8, selOf (s.entryNow s.routers 8) o = 7) ∧ (∀ o < 8, s.outRoom 8 o flit = true) ∧ (∀ o < 8, selOf (s.entryNow s.routers 8) o ≠ 6)) ∧
    (let f : Flit := { flit with owner := 1 }
     let s : State := { State.reset with flits := [(bridgeStage 0 7, [⟨0, 15, 0, 4, f⟩])] }
     f.owner ≠ 0 ∧ ((SMap.get [] s.flits (bridgeStage 0 7)).find? fun y => y.lane == 15 && y.flit == f) = some ⟨0, 15, 0, 4, f⟩) ∧ (State.reset.link 0).trained = false ∧ (pair.link 0).trained = true ∧
    ({ frame with crcOk := false } : Frame).crcOk = false ∧
    (frame.crcOk = true ∧ frame.barrier = none ∧ frame.posts = [] ∧
      frame.bad = [] ∧ (∀ x ∈ frame.lanes, x.1 < 12) ∧ (pair.link 0).drops ≤ 2 ^ 10) ∧
    key01.touches 1 = true ∧ key01.a < key01.b ∧ key01.b ≤ ({ key01 with a := 1 } : LinkKey).a := by decide +kernel

theorem test_meets_AlignmentAndWindows :
    pair.parentLink = some 0 ∧ (2 ^ 20 : Int) % 2 ^ 20 = 0 ∧
    (let s : State := { State.reset with holdLeft := 1, gclk := 2 ^ 19 }
     s.holdDue = true) ∧
    (let s : State := { State.reset with offCount := 2, aligned := true }
     s.lostAlign = true ∧ s.aligned = true) ∧
    (let s : State := { pair with losses := [1] }
     s.lostAlign = false ∧ s.losses = 1 :: []) ∧
    ({ pair with loaded := false } : State).loaded = false ∧ (∀ x ∈ pair.tts, x.2.placed = false) ∧ (1024 : BitVec 64).toNat % 1024 = 0 ∧
    (512 : BitVec 64).toNat % 4096 = 512 ∧
    (let s : State := { waits (.refresh 512) with gclk := 512 }
     (s.strand 0).wait = .refresh 512 ∧ 512 ≤ s.gclk.toNat ∧ 0 ∈ SMap.keys s.strands) := by decide +kernel

/-- An admission request of class c. -/
def adm (c : Nat) : AdmReq := ⟨7, 0, 0, 0, 0, c, c, 0, 0, [], false, none⟩

theorem test_meets_Admission :
    (let s : State := { State.reset with requests := [adm 2] }
     s.compact = none ∧ s.preempt = none ∧ nextRequest s.requests = some (adm 2) ∧ s.muleDown = false) ∧
    (let c : Compaction := ⟨7, (4, 0), [(0, 2, 1)], 0⟩
     let s : State := { onTt (fun t => { t with held := true }) (one id) with requests := [adm 2], compact := some c }
     s.compact = some c ∧ (s.requests.find? fun r => r.id == c.req) = some (adm 2) ∧ (∀ m ∈ c.moves, (s.tt m.1).held = true) ∧
     c.since + ({ s with gclk := 2 ^ 40 } : State).compactWait ≤ ({ s with gclk := 2 ^ 40 } : State).gclk.toNat ∧
     (([] : List AdmReq).find? fun r => r.id == c.req) = none ∧ (adm 2).cls < 3 ∧ (adm 2).raised + s.ageBound ≤ 2 ^ 40) := by
  decide +kernel

theorem test_meets_Preemptions :
    (let p : Preemption := ⟨0, 7, 0, []⟩
     let s : State := { one id with preempt := some p, gclk := 2 ^ 40 }
     s.preempt = some p ∧ (∀ m ∈ (s.tt p.victim).modes, m.1 ≠ 0) ∧ s.onCluster p.victim 0 ≠ [] ∧ p.since + s.preemptLimit ≤ s.gclk.toNat) ∧
    (let s : State := { onTt (fun t => { t with modes := [(0, 1)] }) (one fun st => { st with life := 4 }) with preempt := some ⟨0, 7, 0, []⟩ }
     s.preempting 0 = true ∧ (s.tt 0).cause = 0 ∧ (s.tt 0).life = 1 ∧ (s.tt 0).saved = none ∧ s.allSaved 0 = true ∧ s.collIdle 0 = true ∧
     s.quiet 0 = true ∧ s.hasRoom (s.saveDie 0) 3 (s.saveSize 0 (s.stops 0)) = true) ∧
    (let e := entSet (entSet (entSet (entSet (entSet 0 252 4 4) 249 3 3) 239 3 1) 180 44 256) 135 45 (devAddr 0 0 3 0 / 4096)
     let s := onTt (fun t => { t with saved := some ⟨5, [], 9, []⟩ }) (one id)
     let s := { s.setObj (s.tt 0).tenant 5 { Obj.free with entry := e } with mem := [(devAddr 0 0 3 128, 1)], preempt := some ⟨0, 7, 0, []⟩ }
     s.preempt = some ⟨0, 7, 0, []⟩ ∧ (s.requests.find? fun r => r.id == 7) = none ∧ s.preempting 0 = true ∧ (s.tt 0).life = 1 ∧ s.committed 0 = true) ∧
    (let s := one id
     (s.tt 0).life ≠ 3) ∧
    (let s := onTt (fun t => { t with life := 3 }) (one id)
     (s.tt 0).life = 3 ∧ (∀ r ∈ s.requests, ¬ (r.kind = 1 ∧ r.tt = 0)) ∧ ∃ p ∈ [(⟨0, 0, 0, 0, 1, false, [0]⟩ : Place)], p.v = false) := by
  decide +kernel

/-- A queue of a state, with a ring of 64 slots. -/
def queueSt (st : Nat) : Queue := { Queue.off with st := st, qcfg := 6, cqcfg := 16 }

theorem test_meets_HostRegisters :
    ((queueSt 1).st = 1 ∧ (queueSt 1).slots < ((65 : BitVec 32) - (queueSt 1).ridx).toNat ∧
      ((64 : BitVec 32) - (queueSt 1).ridx).toNat ≤ (queueSt 1).slots ∧ ((64 : BitVec 32) - (queueSt 1).latch).toNat < 2 ^ 31) ∧
    ((queueSt 4).st ≠ 1 ∧ (queueSt 4).st ≠ 2) ∧ (queueSt 0).st = 0 ∧ ringOk (queueSt 0).qcfg = true ∧ ringOk (queueSt 0).cqcfg = true ∧
    ringOk (1 : BitVec 64) = false ∧ bits (BitVec.twoPow 64 34) 47 34 ≠ 0 ∧ bits (BitVec.twoPow 64 33) 47 34 = 0 ∧
    ((queueSt 1).fetched = none ∧ (queueSt 1).running = 0 ∧ (queueSt 1).comps = [] ∧
      ({ queueSt 1 with fetched := some [] } : Queue).fetched ≠ none) ∧ 64 ≤ (List.replicate 64 (0, (0 : BitVec 64))).length ∧ (State.reset.func 0).fifo.length < 64 ∧ (256 : Nat) ≠ 0 := by decide +kernel

theorem test_meets_GraphCommands :
    (hostAddr 63 % 64 ≠ 0 ∧ 64 < 65 ∧ hostAddr 64 % 64 = 0 ∧ State.reset.pagesRefused 0 (pagesFrom (hostAddr 64) (64 * 64)) = false) ∧
    (let n : Node := ⟨img, 0, 0, 0, 0, 0, 0, none, false⟩
     let s := State.reset.setFunc 0 { State.reset.func 0 with graphs := [(256, [n])] }
     cycleAt [n] = none ∧ succBad [n] = none ∧ (s.func 0).freeGraph = some 1 ∧ s.graph 0 1 = [] ∧ s.graph 0 256 ≠ [] ∧
     (∀ l ∈ s.launches, ¬ (l.2.live = true ∧ l.2.fn = 0 ∧ l.2.req.graph = 256)) ∧
     (let s : State := { s with launches := [(0, { Launch.none with live := true, req := ⟨256, 0, 0, 0⟩ })] }
      ∃ l ∈ s.launches, l.2.live = true ∧ l.2.fn = 0 ∧ l.2.req.graph = 256)) ∧
    State.reset.pagesRefused 0 (State.reset.argPages 0 0) = false ∧ State.reset.residentNode 0 1 0 0 = none ∧
    (let s : State := { one id with launches := [(0, { Launch.none with live := true, req := ⟨1, 0, 0, 0⟩, nodes := [0] })] }
     s.residentNode 0 1 0 0 = some 0 ∧ (s.tt 0).wqLen 3 + 256 ≤ 256 ∧ 256 < (s.tt 0).wqLen 3 + 257) := by decide +kernel

/-- An object of one page of host memory. -/
def hostEntry : BitVec 256 := BitVec.ofNat 256 (2 ^ 252 + 4 * 2 ^ 249 + 2 ^ 239 + 4096 * 2 ^ 180 + 1 * 2 ^ 135)

theorem test_meets_ObjectCommands :
    (let s := State.reset
     s.tenantOk 0 0 = true ∧ s.pagesRefused 0 (pagesFrom (hostAddr 0) 32) = false ∧ sealOk 0 127 0 0 = true ∧
     (s.pagesRefused 0 (pagesFrom (tableSpan hostEntry).1 (8 * (tableSpan hostEntry).2)) = false ∧ s.tableOk 0 hostEntry = true) ∧
     entKind (s.obj 0 1).entry = 0 ∧ imageOk hostEntry = true ∧ entKind hostEntry ≠ 0 ∧ entHome hostEntry = 4 ∧
     imageOk (entSet hostEntry 249 3 (entHome hostEntry)) = true) ∧
    (let s := withObj 3 4096 (one id)
     let c : Cap := ⟨(objCap 4096).bits, false⟩
     (let o := s.obj 0 1
      let image := fun n => entSet o.entry 180 44 n
      s.tenantOk 0 0 = true ∧ (∀ n ∈ [0, 4096, 8192], imageOk (image n) = true ∧ imageOk (entSet (image n) 249 3 (entHome o.entry)) = true ∧
        s.pagesRefused 0 (pagesFrom (tableSpan (image n)).1 (8 * (tableSpan (image n)).2)) = false ∧ s.tableOk 0 (image n) = true) ∧
      entHome o.entry ≠ 4 ∧ (entLen (image 0) < entLen o.entry ∧ (0 + 4095) / 4096 < entNx o.entry) ∧
      (entLen o.entry ≤ entLen (image 4096) ∧ (4096 + 4095) / 4096 = entNx o.entry) ∧
      ((8192 + 4095) / 4096 = entNx o.entry + 1 ∧ s.hasRoom (entDie o.entry) (entHome o.entry) (2 ^ (12 + entXsz o.entry)) = true)) ∧
     entKind (s.obj 0 1).entry ≠ 0 ∧ entTp (s.obj 0 1).entry ≠ 1 ∧ entTp (entSet (obj 3).entry 245 1 1) = 1 ∧
     s.bulkOk c 0 4096 true = true ∧ s.bulkOk c 0 4096 false = true) ∧
    (let e := entSet (obj 2).entry 244 1 1
     let s := { one id with tenants := [(0, { State.reset.tenant 0 with objs := [(1, { Obj.free with entry := e })] })] }
     let c : Cap := ⟨(objCap 4096).bits, false⟩
     s.bulkOk c 0 4096 true = true ∧ s.homeOfCap c = 2 ∧ entWst (s.entryOf c) ≠ 0) ∧ unsealCap 0 1 (BitVec.twoPow 256 255) = none := by
  refine ⟨by decide +kernel, by decide +kernel, by decide +kernel, ?_⟩
  exact if_neg fun h => absurd h.2.1 (by decide +kernel)


theorem test_meets_SignalCommands :
    (63 < 64 ∧ (2 ^ 31 : BitVec 32) ≠ 0 ∧ (2 ^ 31 : BitVec 32).toNat ≤ 2 ^ 31 ∧ 2 ^ 31 < (2 ^ 31 + 1 : BitVec 32).toNat) ∧
    State.reset.residentNode 0 1 0 0 = none ∧
    (let s : State := { one id with launches := [(0, { Launch.none with live := true, req := ⟨1, 0, 0, 0⟩, nodes := [0] })] }
     s.residentNode 0 1 0 0 = some 0 ∧ 3 < (s.tt 0).img.sems) ∧
    (0 : BitVec 64) ≤ SMap.get 0 (State.reset.func 0).he 63 ∧ SMap.get 0 (State.reset.func 0).he 63 < (1 : BitVec 64) ∧
    (let p : Pkt := ⟨0, 2, 0, 0, true, true⟩
     let s := State.reset.setQueue 0 2 { State.reset.queue 0 2 with wait := some (p, 63, 0, some 0) }
     (s.queue 0 2).wait = some (p, 63, 0, some 0) ∧ 0 ≤ s.gclk.toNat) ∧
    hostAddr 63 % 64 ≠ 0 ∧ hostAddr 64 % 64 = 0 ∧ State.reset.pagesRefused 0 (pagesFrom (hostAddr 64) 480) = false := by decide +kernel

theorem test_meets_TenantSteps :
    (255 ≤ 255 ∧ (State.reset.tenant 255).live = false ∧ (State.reset.tenant 255).closing = false) ∧
    (let s := State.reset.setTenant 255 { State.reset.tenant 255 with live := true }
     (s.tenant 255).live = true ∧ (s.tenant 255).closing = false ∧ s.requests = [] ∧ s.compact = none ∧ s.preempt = none ∧
     ∀ x ∈ s.tts, x.2.tenant ≠ 255) ∧
    (State.reset.func 1).tdi = .unlocked ∧ ((State.reset.setFunc 1 { State.reset.func 1 with tdi := .locked }).func 1).tdi = .locked ∧
    State.reset.turn (gooseServer 7) = some 0 ∧ (gooseServer 7) / 2 ^ 16 = 0x0B ∧ State.reset.turn dmaServer = some 0 ∧ dmaServer / 2 ^ 16 = 0x0C ∧
    (let s : State := { State.reset with reserve := [(4, (1, 0))] }
     s.turn (4 * 2 ^ 16) = some 0 ∧ 4 * 2 ^ 16 / 2 ^ 16 = 0x04) ∧
    (State.reset.turn (bankServer 7 767) = some 0 ∧ bankServer 7 767 / 2 ^ 16 = 0x0D ∧ State.reset.turn (groupServer 7 15) = some 0 ∧
     groupServer 7 15 / 2 ^ 16 = 0x0E ∧ henServer 319 / 2 ^ 16 = 0x05 ∧ henServer 311 / 2 ^ 16 = 0x07) := by decide +kernel

theorem test_meets_SecuritySession :
    (State.reset.func 0).session = false ∧ ((State.reset.setFunc 0 { State.reset.func 0 with session := true }).func 0).session = true ∧
    ownFn 0 = true ∧ ownFn 1 = false ∧ 255 < 256 := by decide +kernel

theorem test_meets_LifeCycle :
    State.reset.lifecycle = 0 ∧ ({ State.reset with lifecycle := 1 } : State).lifecycle = 1 ∧
    ({ State.reset with lifecycle := 2 } : State).lifecycle = 2 ∧ ({ State.reset with bringup := 4 } : State).bringup < 5 ∧
    5 ≤ ({ State.reset with bringup := 5 } : State).bringup := by decide +kernel

/-- Two rows of R27's table: (8, 3) collides with (16, 11) and not with (16, 5). -/
theorem test_meets_PhaseSetsShareAGcy : 3 < 2 ^ 3 ∧ 11 < 2 ^ 4 ∧ 5 < 2 ^ 4 ∧ collides (8, 3) (16, 11) = true ∧
    collides (8, 3) (16, 5) = false := by decide

/-- A capability for an image object of 64 bytes, and its owner's memory with a descriptor of one node at 64: the sealed capability, and zeros. -/
def imgCap : BitVec 128 := capMake 0 1 127 0 64
def imgTenant (l : List (BitVec 384 × Image)) : Tenant :=
  { State.reset.tenant 0 with objs := [(1, { obj 3 with entry := entSet (obj 3).entry 252 4 3 })], images := l }
/-- An image that declares stride 1. -/
def regImg : Image := { img with strides := 1 }
def imgBytes (s : State) : List Byte := (s.objectAddrs imgCap).map fun a => a.elim 0 s.mem.read
def regState : State :=
  let s : State := { State.reset with
    mem := Memory.writeN [] 64 (bytesOf 32 (sealCap 0 imgCap).toNat)
    tenants := [(0, { imgTenant [] with key := 0 })] }
  { s with tenants := [(0, { imgTenant [(Config.sha384 (imgBytes s), regImg)] with key := 0 })] }
/-- The descriptor's bytes counted, and the image's after them. -/
def regMet : State := regState.meterHost 0 64 false
def regRead : State := regMet.meterTenant 0 ((regMet.objectAddrs imgCap).filterMap id) false

/-- What a node is read from. -/
def Same (s s' : State) : Prop :=
  s'.mem = s.mem ∧ s'.funcs = s.funcs ∧ (s'.tenant 0).objs = (s.tenant 0).objs ∧ (s'.tenant 0).images = (s.tenant 0).images ∧
    (s'.tenant 0).key = (s.tenant 0).key

theorem Same.meter {s s' : State} (h : Same s s') (k n : Nat) : Same s (s'.meter 0 k n) := by
  by_cases hn : n = 0 ∨ (s'.tenant 0).live = false
  · rwa [State.meter, if_pos hn]
  · rw [State.meter, if_neg hn]
    refine ⟨h.1, h.2.1, ?_, ?_, ?_⟩ <;> rw [State.tenant_setTenant]
    · exact h.2.2.1
    · exact h.2.2.2.1
    · exact h.2.2.2.2

theorem same_met : Same regState regMet := Same.meter ⟨rfl, rfl, rfl, rfl, rfl⟩ _ _
theorem same_read : Same regState regRead := by
  have h : ∀ (f : Nat → Nat) (l : List Nat) (s : State), Same regState s → Same regState (l.foldl (fun s k => s.meter 0 k (f k)) s) := by
    intro f l
    induction l with
    | nil => exact fun _ h => h
    | cons a l ih => exact fun s h => ih _ (h.meter _ _)
  exact h _ _ _ same_met

theorem imgBytes_congr {s s' : State} (h : s'.mem = s.mem) (hf : s'.funcs = s.funcs) (ho : (s'.tenant 0).objs = (s.tenant 0).objs) :
    imgBytes s' = imgBytes s := by
  have ht : capTid imgCap = 0 := by decide
  have he : s'.entryOf ⟨imgCap, false⟩ = s.entryOf ⟨imgCap, false⟩ := by
    simp only [State.entryOf, State.obj, ht, Tenant.obj, ho]
  have hx (e : BitVec 256) (x : Nat) : Sys2Proof.Machine.translate s' 0 e x = Sys2Proof.Machine.translate s 0 e x := by
    have hs (a : Nat) : s'.spaceOf 0 a = s.spaceOf 0 a := by rw [State.spaceOf, State.spaceOf, State.func, State.func, hf]
    have hb (n : Nat) : extentBase s' 0 e n = extentBase s 0 e n := by rw [extentBase, extentBase, h, hs]
    rw [Sys2Proof.Machine.translate, Sys2Proof.Machine.translate, hb]; simp only [hs]
  simp only [imgBytes, State.objectAddrs, he, ht, hx, h]

theorem unseal_imgCap : unsealCap 0 0 (sealCap 0 imgCap) = some imgCap := by
  have h (k n : Nat) : (sealCap 0 imgCap).extractLsb' k n =
      ((0#64 ++ sipHash (Config.sealKey 0) imgCap) ++ imgCap).extractLsb' k n := rfl
  have h0 : (sealCap 0 imgCap).extractLsb' 0 128 = imgCap := by
    rw [h]; ext i hi; simp only [BitVec.getElem_extractLsb', BitVec.getLsbD_append]; simp [hi]
  have h1 : (sealCap 0 imgCap).extractLsb' 128 64 = sipHash (Config.sealKey 0) imgCap := by
    rw [h]; ext i hi; simp only [BitVec.getElem_extractLsb', BitVec.getLsbD_append]; simp [hi]
  have h2 : (sealCap 0 imgCap).extractLsb' 192 64 = 0 := by
    rw [h]; ext i hi; simp only [BitVec.getElem_extractLsb', BitVec.getLsbD_append]
    rw [if_neg (by omega), if_neg (by omega)]; simp
  simp only [unsealCap, h0, h1, h2, true_and]
  rw [if_pos (by decide)]

theorem node_bytes : regState.mem.readN 64 64 = bytesOf 32 (sealCap 0 imgCap).toNat ++ List.replicate 32 0 := by
  apply List.ext_getElem (by simp [Memory.readN, bytesOf_length])
  intro i h1 h2
  simp only [Memory.readN, List.getElem_map, List.getElem_range]
  by_cases hi : i < 32
  · rw [List.getElem_append_left (by simpa [bytesOf_length] using hi)]
    exact Memory.read_writeN_in (by simpa [bytesOf_length] using hi)
  · rw [List.getElem_append_right (by simpa [bytesOf_length] using hi), List.getElem_replicate]
    exact Memory.read_writeN_out (by right; simp [bytesOf_length]; omega)

/-- A descriptor of one node that REG_GRAPH takes. -/
theorem test_meets_GraphCommands_nodes : ∃ g s', (regState.meterHost 0 (64 * 1) false).readNodes 0 64 1 = (.ok g, s') ∧
    cycleAt g = none ∧ succBad g = none ∧ (s'.func 0).freeGraph = some 1 := by
  have hp (o n : Nat) (h : 32 ≤ o) : pktNat (bytesOf 32 (sealCap 0 imgCap).toNat ++ List.replicate 32 0) o n =
      pktNat (List.replicate 64 0) o n := by
    simp only [pktNat]; rw [List.drop_append, List.drop_eq_nil_of_le (by simpa [bytesOf_length] using h)]
    rw [List.nil_append, bytesOf_length, List.drop_replicate, List.drop_replicate, show 32 - (o - 32) = 64 - o by omega]
  have h0 : BitVec.ofNat 256 (pktNat (bytesOf 32 (sealCap 0 imgCap).toNat ++ List.replicate 32 0) 0 32) = sealCap 0 imgCap := by
    have : (bytesOf 32 (sealCap 0 imgCap).toNat ++ List.replicate 32 0).take 32 = bytesOf 32 (sealCap 0 imgCap).toNat := by
      rw [List.take_append_of_le_length (by simp [bytesOf_length]), List.take_of_length_le (by simp [bytesOf_length])]
    rw [pktNat, List.drop_zero, this, natOf_bytesOf]
    exact BitVec.eq_of_toNat_eq (by rw [BitVec.toNat_ofNat]; have := (sealCap 0 imgCap).isLt; omega)
  obtain ⟨hm, hf, ho, hi, hk⟩ := same_met
  obtain ⟨hm', hf', ho', hi', hk'⟩ := same_read
  have hk : (regMet.tenant 0).key = 0 := hk.trans rfl
  have he : ¬ (capObj imgCap = 0 ∨ entKind (regMet.entryOf ⟨imgCap, false⟩) ≠ 3) := by
    have : regMet.entryOf ⟨imgCap, false⟩ = regState.entryOf ⟨imgCap, false⟩ := by
      simp only [State.entryOf, State.obj, show capTid imgCap = 0 by decide, Tenant.obj, ho]
    rw [this]; decide
  have hr : regRead.imageOf 0 (imgBytes regMet) = (.ok regImg, regRead) := by
    have h : (regRead.tenant 0).images = [(Config.sha384 (imgBytes regMet), regImg)] := by
      rw [hi', imgBytes_congr hm hf ho]; rfl
    simp [State.imageOf, h]
  refine ⟨[⟨regImg, 0, 0, 0, 0, 0, 0, none, false⟩], regRead, ?_, by decide, by decide, ?_⟩
  · have hn : regMet.readNode 0 1 (regMet.mem.readN 64 64) = (.ok ⟨regImg, 0, 0, 0, 0, 0, 0, none, false⟩, regRead) := by
      rw [hm, node_bytes]
      simp only [State.readNode, h0, hk, unseal_imgCap]
      rw [if_neg he]
      have h1 : (regMet.meterTenant 0 ((regMet.objectAddrs imgCap).filterMap id) false).imageOf 0
          ((regMet.objectAddrs imgCap).map fun a => a.elim 0 regMet.mem.read) = (.ok regImg, regRead) := hr
      rw [h1]
      simp only [hp _ _ (show 32 ≤ 32 by decide), hp _ _ (show 32 ≤ 40 by decide), hp _ _ (show 32 ≤ 48 by decide),
        hp _ _ (show 32 ≤ 49 by decide), hp _ _ (show 32 ≤ 50 by decide), hp _ _ (show 32 ≤ 51 by decide), hp _ _ (show 32 ≤ 52 by decide)]
      rw [if_neg (by decide +kernel)]
      rfl
    have hsp : regMet.spaceOf 0 64 = 64 := by
      simp only [State.spaceOf, State.func, hf]; decide
    change regMet.readNodes 0 64 1 = _
    simp only [State.readNodes, List.range_one, List.foldl_cons, List.foldl_nil, Nat.mul_zero, Nat.add_zero, hsp, hn, List.nil_append]
  · simp only [State.func, hf']; decide


/-! ### One step of a word, its result worked out by hand from the spec's rule -/

/-- The writes of strand 0 still to land after one step. -/
def writes (o : Host.Outcome State Fault Refusal) : List (Nat × Eff) :=
  match o with
  | .next s => (s.strand 0).pend.map fun p => (p.due, p.eff)
  | _ => []
/-- A word placed where the next step takes it, with two D registers. -/
def placed (w : Nat) (a b : BitVec 64) : State := (State.reset.withFetchWord 32 w).modStrand 0 fun st => { st with d := [(1, a), (2, b)] }

/-- ADDI D3, D1, −2048 of 7 (R342). -/
theorem test_step_addi : writes (step (placed 0x200C1800 7 0)) = [(1, .d 3 (BitVec.ofInt 64 (-2041)) false)] := by decide +kernel
/-- SUB D3, D1, D2 of 0 and 1 wraps (R341). -/
theorem test_step_sub : writes (step (placed 0x020C1080 0 1)) = [(1, .d 3 (BitVec.allOnes 64) false)] := by decide +kernel
/-- CLZ D3, D1 of 1 is 63 (R341). -/
theorem test_step_clz : writes (step (placed 0x110C1000 1 0)) = [(1, .d 3 63 false)] := by decide +kernel
/-- SFADD D3, D1, D2 of 1.0 and 2^-24 is 1.0, the tie going to the even significand (R396), 4 vcy later. -/
theorem test_step_sfadd : (writes (step (placed 0x880C1080 0x3F800000 0x33800000))).head? = some (4, .d 3 0x3F800000 false) := by decide +kernel
/-- A word of the S position with an undefined operation is suppressed with ILLOP, and the strand goes on (R317). -/
theorem test_step_illegal :
    (match step ((State.reset.withFetchWord 32 0x010C1080).modTt 0 fun t => { t with img := { t.img with code := [(0, [(1, 0x7E000000#32)])] } }) with
      | .next s => (bits (s.strand 0).fault 63 56, (s.strand 0).pend.length, (s.strand 0).life)
      | _ => (0, 0, 0)) = (0x01, 0, 1) := by decide +kernel

theorem test_ox_word :
    decodeTableWord 32 (oxWord opAcc 3 4 8 2 false true).toNat = some (.oxacc 3 4 8 1 2) ∧
    decodeTableWord 32 (oxWord opCopy 3 4 8 2 true false).toNat = some (.oxcopy 3 4 8 2 1) := by
  decide +kernel

/-! ### States that meet the hypotheses of further clauses -/

/-- A hart whose word at its pc is no Virbel word. -/
theorem test_meets_StepTakesTurnsThenStages_hart :
    (mule Hart.zero).cur = .hart 0 ∧ ((mule Hart.zero).hart 0).sleep = none ∧ decodeMule ((mule Hart.zero).hartWord 0) = none := by
  decide +kernel

/-- The strand in M-step 0, on the first gcy of a refresh window of bank group 0, with a weight-store object pinned. -/
def inM (f : Strand → Strand) : State :=
  { onTt (fun t => { t with mstep := some 0, pins := [(1, 1)] }) (withObj 2 4096 (one f)) with gclk := 0 }

theorem test_meets_LdsAndSts_checks :
    (let s := one fun st => { st with d := [(1, 131072)] }
     let c := (s.strand 0).rc 1
     (capBase c.bits + 131072) % 8 = 0 ∧ s.readCheck 0 c 131072 8 (rightR + rightT) = some Code.capBound ∧
     s.writeCheck 0 c 131072 8 (rightW + rightT) = some Code.capBound) ∧
    (let s := inM id
     let c := (s.strand 0).rc 2
     s.readCheck 0 c 0 8 (rightR + rightT) = none ∧ s.refreshInM 0 (s.accLat 0 c 0 ldsLat true) (s.capBytes 0 c 0 8) = true ∧
     s.refreshInM 0 (s.accLat 0 c 0 vldLat true) (s.capBytes 0 c 0 32) = true ∧ ((one id).refreshInM 0 8 ((one id).capBytes 0 c 0 8)) = false) := by
  decide +kernel

theorem test_meets_HartTrap_maps :
    (Instr.add 1 2 3).mapKind = some .common ∧ MapKind.common ≠ .virbel ∧ (Instr.haddl 1 2).mapKind = some .hMap ∧
    MapKind.hMap ≠ .virbel := by decide

theorem test_meets_BranchesAndLoops_outside :
    (let s := one fun st => { st with d := [(1, 64)] }
     s.codeLen 0 ≤ ((s.strand 0).rd 1).toNat ∧ ((s.strand 0).rd 1).toInt ≠ 0) ∧
    (let s := onTt (fun t => { t with img := { t.img with codeLen := [(0, 1024)], code := [(0, (List.range 128).map fun k => (5 * k, 0x7F01000F#32))] } }) (one id)
     256 < (s.skipBundles 0 (80#8).toNat 0).2) := by decide +kernel

theorem test_meets_MatrixLeases_refresh :
    ((waits .lease).leaseFree 0 = true ∧ ((waits .lease).strand 0).wait = .lease ∧ (waits .lease).refreshHeld 0 9 = false) := by decide +kernel

theorem test_meets_QueueBuffers_state :
    (let s := one fun st => { st with d := [(1, 2), (2, 3)], qb := [(15, qbuf)] }
     let q := (s.strand 0).qbuf 15
     q.nm1.toNat + 1 - (q.prod - q.cons).toNat < 2 ∧ (q.prod - q.cons).toNat < 2 ∧ ((s.strand 0).rd 0).toNat = 0 ∧
     q.nm1.toNat + 1 < ((s.strand 0).rd 2).toNat ∧ s.inMStep 0 = false) ∧ (inM id).inMStep 0 = true := by decide +kernel

theorem test_meets_FirmwareServices_refused :
    (inM id).inMStep 0 = true ∧ ((waits (.svc 1 0 0 false)).strand 0).wait = .svc 1 0 0 false ∧
    ((waits (.svc 1 (2 ^ 31) 63 false)).strand 0).wait = .svc 1 (2 ^ 31) 63 false ∧ 2 ^ 31 < ((2 : BitVec 64) ^ 31 + 1).toNat := by decide +kernel

theorem test_meets_OxWords_refused :
    (let s := one fun st => { st with d := [(8, 4096), (9, 4100), (10, BitVec.ofNat 64 (16 + 2 * 2 ^ 16 + 2 ^ 32 + 2 ^ 48)), (11, 32), (12, 32)] }
     let b := oxBlock s
     let c := (s.strand 0).rc 1
     overlapVerdict 0x40 b c c (s.streamOf 0 0x40 false b c c c) = some false ∧ s.blockCheck 0 0x40 false b = none ∧ s.rowCheck 0x40 b c c 1 = none ∧
     b.syen = false ∧ b.qben = false ∧ ∀ x ∈ s.sides 0x40 false b c c c 1 1, s.sideIssue 0 x = none) ∧
    (let s := { oxState (List.replicate 64 (.job Job.none)) with strands := [(0, { (oxState (List.replicate 64 (.job Job.none))).strand 0 with d := block 256 (BitVec.ofNat 64 (2 ^ 17 + 3 * 2 ^ 8)) })] }
     (oxBlock s).sen = true ∧ s.semKey 0 (oxBlock s).ssem = some 3) := by decide +kernel

/-- An object whose extent lies on another die, and one of another package, in C2. -/
def away (pkg die : Nat) (s : State) : State :=
  { withObj 3 4096 s with tenants := [(0, { s.tenant 0 with objs := [(1, { obj 3 with entry := entSet (obj 3).entry 135 45 (devAddr pkg die 3 0 / 4096) })] })] }

theorem test_meets_OxWords_away :
    (let s := onTt (fun t => { t with pins := [(1, 1)] }) (away 0 1 (one id))
     let s := { s with strands := [(0, { s.strand 0 with d := block 256 0 })] }
     let b := oxBlock s
     let str := s.streamOf 0 0x40 true b ((s.strand 0).rc 2) ((s.strand 0).rc 1) ((s.strand 0).rc 1)
     (str.findSome? fun x => x.dst) = some 0 ∧ s.capAddr 0 ((s.strand 0).rc 2) 0 = .at_ (devAddr 0 1 3 0) ∧ s.isRemote 0 (devAddr 0 1 3 0) = true) ∧
    (let s := { inM id with strands := [(0, { (inM id).strand 0 with d := [(8, 4096), (10, BitVec.ofNat 64 (256 + 2 ^ 16 + 2 ^ 32 + 2 ^ 48))] })] }
     let b := oxBlock s
     let src := (s.strand 0).rc 2
     s.engineBusy 0 2 = false ∧ s.oxWaitsInM 0 0x40 ((s.strand 0).rc 1) src (s.streamOf 0 0x40 true b ((s.strand 0).rc 1) src ((s.strand 0).rc 1)) = true) := by
  decide +kernel

theorem test_meets_Gates_away :
    (let s := away 1 0 (one fun st => { st with rels := [(devAddr 1 0 3 0, 3, 1)], vclk := 2 })
     ((one fun st => { st with rels := [(devAddr 1 0 3 0, 3, 1)], vclk := 2 }).strand 0).rels = (devAddr 1 0 3 0, 3, 1) :: [] ∧
     s.farAway (devAddr 1 0 3 0) = true) := by decide +kernel

/-- The strand waits to meet, with a weight-store read due in a refresh window. -/
theorem test_meets_SyncMeetings_refresh :
    let s : State := { waits .meet with gclk := 511, strands := [(0, { (waits .meet).strand 0 with
      pend := [⟨12, some 9, 3, 0, .load (.p 1) [some (devAddr 0 0 2 0)] none⟩] })] }
    s.allMet 0 0 = true ∧ (s.strand 0).wait = .meet ∧ s.refreshHeld 0 9 = true ∧
    ({ s with gclk := 512 } : State).refreshHeld 0 9 = false := by decide +kernel

/-- Package 1 below package 0 in the alignment tree, with timetable 0 on both, and package 0 above package 1. -/
def spans (pkg : Nat) (f : Timetable → Timetable) : State :=
  let s := barrier fun t => f { t with opened := 100, last := 150, stride := 8, phase := 3, place := [⟨0, 0, 0, 0, 1, true, [0]⟩, ⟨1, 0, 0, 0, 1, true, [0]⟩] }
  { s with pkg := pkg, trained := [key01], table := [key01], aligned := true, gclk := 200, links := [(0, { Link.down with trained := true, transit := 40 })] }

theorem test_meets_StepBarriers_spanning :
    (let s := spans 0 id
     ((s.alignTree.2.find? fun e => e.touches s.pkg && e.linkAt s.pkg == 0).map fun e => e.other s.pkg) = some 1 ∧ (s.tt 0).life = 1 ∧
     99 < (s.tt 0).opened ∧ (s.tt 0).opened ≤ 100 ∧ s.allArrived 0 = true ∧ (s.tt 0).cause = 0 ∧ (s.tt 0).start = none ∧
     1 ∉ (s.tt 0).gone ∧ 1 ∈ s.barChildren (s.tt 0) ∧ s.treeParent = none ∧ s.stagedLines 0 = 0 ∧ 0 < (s.tt 0).stride) ∧
    (let s := spans 0 fun t => { t with reports := [(1, 160, 9)] }
     ∀ v ∈ (s.barChildren (s.tt 0)).filter fun v => !(s.tt 0).gone.contains v, ∃ r ∈ (s.tt 0).reports, r.1 = v) ∧
    (let s := { spans 1 id with aligned := false, strands := [] }
     s.allArrived 0 = false ∧ (s.tt 0).failed = false) ∧
    (let s := spans 0 fun t => { t with gone := [1], start := some (300, 9) }
     1 ∈ (s.tt 0).gone ∧ (s.tt 0).start ≠ none ∧ s.gclk.toNat < 300 ∧ (s.tt 0).opened < 300 ∧ 200 ≤ s.gclk.toNat) ∧
    (let s := barrier fun t => { t with start := some (3, 9), lost := true, mstep := some 0 }
     s.stagedLines 0 = 0 ∧ (s.tt 0).lost = true ∧ (s.tt 0).mstep.isSome = true) := by decide +kernel

/-- The parent of a package that is not the root. -/
theorem test_meets_StepBarriers_child :
    let s : State := { spans 1 id with aligned := false, links := [(0, { Link.down with trained := true, transit := 40 })] }
    s.treeParent = some 0 ∧ s.stagedLines 0 = 0 ∧ s.barChildren (s.tt 0) = [] := by decide +kernel

theorem test_meets_EndsAndStops_victim :
    let s : State := { onTt (fun t => { t with cause := 2 }) (one fun st => { st with halt := true }) with preempt := some ⟨0, 7, 0, []⟩ }
    s.preempt = some ⟨0, 7, 0, []⟩ ∧ (s.tt 0).placed = true ∧ s.stopped 0 = true ∧ s.quiet 0 = true := by decide +kernel

/-- A collective command at the head of GQ of strand 0, with a control block of header `h` at offset 4096 of its window. -/
def cmd : CollCmd := ⟨0, windowCap tt, windowCap tt, 1, 1, 4096, false, 0, 0⟩
def collAt (h : Nat) (f : Timetable → Timetable) : State :=
  let s := onTt (fun t => f { t with member := some 0 }) (one fun st => { st with oq := [(4, [.coll cmd])] })
  { s with mem := Memory.writeN [] (2 ^ 56 + 4096) (bytesOf 64 h) }
/-- ALLRED of 128 bytes from offset 8192 to 12288, SSEM 3, TIMEOUT 1, of a generation. -/
def header (op mgen soff : Nat) : Nat := op + 3 * 2 ^ 8 + mgen * 2 ^ 32 + 128 * 2 ^ 64 + soff * 2 ^ 128 + 12288 * 2 ^ 192 + 2 ^ 256
/-- The state after the header has been counted. -/
def counted (s : State) : State := s.meterBytes 0 ((s.capBytes 0 ((s.strand 0).rc 1) 4096 64).filterMap id) false

theorem test_meets_CollStart :
    let s := collAt (header 1 1 8192) id
    let v := counted s
    let c1 := (s.strand 0).rc 1
    (s.strand 0).queue 4 = .coll cmd :: [] ∧ (s.coll 0).live = false ∧ s.rangeLacks 0 c1 cmd.o 64 = [] ∧
    s.contexts (s.placeOfStrand 0).die (s.tt 0).tenant < 16 ∧ ¬ ((s.tt 0).aborted = true ∧ (s.tt 0).member = some 0) ∧
    (s.tt 0).member = some 0 ∧ s.collHeader 0 c1 cmd.o = header 1 1 8192 ∧ (v.semKey 0 3).isNone = false ∧
    v.writeCheck 0 c1 cmd.o 129 (rightR + rightW) = none ∧ v.readCheck 0 cmd.cs 8192 128 rightR = none ∧
    v.writeCheck 0 cmd.cd 12288 128 rightW = none ∧ (s.groupOf 0).mgen = 1 ∧ headerBad (header 1 1 8192) 1 = false ∧
    badOverlap cmd.cd cmd.cs 1 8192 128 12288 128 = false ∧ packTrees (s.groupOf 0).members (s.groupOf 0).links ≠ [] ∧
    (s.tt 0).early = [] := by decide +kernel

theorem test_meets_CollStart_refused :
    ((collAt 0 fun t => { t with member := some 1 }).tt 0).member ≠ some 0 ∧
    (let v := counted (collAt 0 id)
     v.writeCheck 0 ((v.strand 0).rc 1) 131008 129 (rightR + rightW) = some Code.capBound ∧
     v.readCheck 0 cmd.cs 131072 128 rightR = some Code.capBound ∧ v.writeCheck 0 cmd.cd 131072 128 rightW = some Code.capBound) ∧
    2 % 2 ^ 32 ≠ ((collAt 0 id).groupOf 0).mgen % 2 ^ 32 ∧ headerBad (header 0 1 8192) 1 = true ∧
    badOverlap cmd.cd cmd.cs 1 12160 256 12288 128 = true ∧
    packTrees [0, 1] [] = [] := by decide +kernel

theorem test_meets_CollComplete :
    (let s := collState { coll with agreed := true, trees := [], group := ⟨3, [0], [], 2⟩, op := 1, c1 := windowCap tt }
     s.collFinished 0 = true ∧ s.blockLacks (s.coll 0) = []) ∧
    (let s := collState { coll with ending := some (0x10, 2), c1 := windowCap tt }
     (s.coll 0).ending = some (0x10, 2) ∧ s.opsOf (.coll 0) = [] ∧ s.blockLacks (s.coll 0) = []) ∧ (collState coll).arming = [] := by
  decide +kernel

theorem test_meets_CollectiveFailures_abort :
    (let s := onTt (fun t => { t with group := some ⟨3, [0, 1], [key01], 2⟩ }) (one id)
     (s.coll 0).live = false ∧ (s.tt 0).life ≠ 0 ∧ (s.tt 0).aborted = false ∧ (s.groupOf 0).mgen = 3 ∧ 1 ∈ (s.groupOf 0).members ∧
     ((s.tt 0).early.any fun f => f.mgen == 3 && f.no == (s.tt 0).collNo && f.abortSet.isSome) = false ∧
     packTrees (s.groupOf 0).members (s.groupOf 0).links ≠ []) ∧
    (let s := onTt (fun t => { t with group := some ⟨3, [0, 1], [key01], 2⟩, early := [⟨0, 1, 0, 3, 0, .abort 3 2⟩] }) (one id)
     ((s.tt 0).early.any fun f => f.mgen == 3 && f.no == (s.tt 0).collNo && f.abortSet.isSome) = true) ∧
    (let s := collState coll
     (s.coll 0).live = true ∧ (s.coll 0).ending = none ∧ (s.coll 0).group.mgen = 3 ∧ 2 ∉ (s.coll 0).group.members ∧ (s.coll 0).group.mgen ≠ 4) ∧
    (collState { coll with ending := some (0x10, 2) }).coll 0 ≠ coll := by decide +kernel

theorem test_meets_HoldSend :
    let s : State := { collState coll with links := [(0, { Link.down with trained := true })] }
    (s.coll 0).live = true ∧ s.collWaits 0 ≠ [] ∧ (s.coll 0).held + (s.coll 0).tmo * 256 ≤ s.gclk.toNat ∧
    1 ∈ neighbours [key01] s.pkg ∧ s.stopFor (s.tt 0).tenant 1 = false := by decide +kernel

/-- Function 0 waits for host page 5 in a job and in an LDC. -/
theorem test_meets_PriResponse :
    let s : State := { State.reset.setFunc 0 { State.reset.func 0 with pri := [5] } with
      jobs := [(5, { job .started 0 with wait := [5] })], strands := [(0, { Strand.blank with wait := .ldc 3 (objCap 4096) 0 none })] }
    (s.func 0).pri.contains 5 = true ∧ 5 ∈ SMap.keys s.jobs ∧ s.launchFn (ttOf (s.job 5).sid) = 0 ∧ 5 ∈ (s.job 5).wait ∧
    0 ∈ SMap.keys s.strands ∧ (s.strand 0).wait = .ldc 3 (objCap 4096) 0 none := by decide +kernel

/-- An object of host memory at page 5, which the function has not been given: an LDC of it waits for the page. -/
theorem test_meets_PriResponse_page :
    let s : State := { withObj 4 4096 (one id) with tenants := [(0, { State.reset.tenant 0 with objs := [(1, { obj 4 with entry := entSet (obj 4).entry 135 45 5 })] })] }
    5 ∈ s.pagesOf 0 ((List.range 8).map fun i => ((s.strand 0).rc 2, 0 + i)) := by decide +kernel

theorem test_meets_Residency_kept :
    (let s : State := { withObj 3 64 (one id) with tenants := [(0, { State.reset.tenant 0 with objs := [(1,
       { obj 3 with entry := entSet (obj 3).entry 135 45 absentBase, backing := [(0, [(4095, 7)])] })] })] }
     (∀ x ∈ SMap.get [] (s.obj 0 1).backing 0, x.1 < 2 ^ (12 + entXsz (s.obj 0 1).entry)) ∧ TableOutside s 0 (s.obj 0 1).entry 0 dram 4096) ∧
    (let s := withObj 3 64 (one id)
     s.heldAt (fun a => decide (dram / 4096 * 4096 ≤ a) && decide (a < dram / 4096 * 4096 + 4096)) = false ∧ s.memOk = true ∧
     TableOutside s 0 (s.obj 0 1).entry 0 dram 4096 ∧ TableOutside s 0 (s.obj 0 1).entry 0 (dram + 4096) 4096) ∧
    (∀ i < 4096, ∀ k < 4096, dram / 4096 * 4096 + i ≠ (dram / 4096 + 1) * 4096 + k) :=
  ⟨⟨by decide +kernel, .inl (by decide +kernel)⟩, ⟨by decide +kernel, by decide +kernel, .inl (by decide +kernel), .inl (by decide +kernel)⟩,
    fun i hi k hk => by simp only [dram]; omega⟩

theorem test_meets_FabricEvents_more :
    (let s : State := { State.reset with
       flits := [(bridgeStage 0 7, [⟨0, 15, 0, 4, { flit with owner := 1 }⟩])],
       pairs := [⟨0x09, bridgeNo 0 7, 1, 8, 0⟩],
       bridges := [(bridgeNo 0 7, [(0, 0xFFFFFFF0)])] }
     ((SMap.get [] s.flits (bridgeStage 0 7)).find? fun y => y.lane == 15 && y.flit == { flit with owner := 1 }) =
       some ⟨0, 15, 0, 4, { flit with owner := 1 }⟩ ∧ s.holds 0x09 (bridgeNo 0 7) { flit with owner := 1 } = true ∧
     connects (s.entryNow s.bridges (bridgeNo 0 7)) = true ∧ connects (State.reset.entryNow State.reset.bridges (bridgeNo 0 7)) = false) ∧
    (let p : PostFlit := ⟨2, 0, true, 0, 2, .request 0 0 1 (.read 0 8)⟩
     ({ frame with posts := [p] } : Frame).posts = [p] ∧ p.no = 0 ∧ p.last = true ∧ p.dest ≠ pair.pkg) := by decide +kernel

theorem test_meets_AlignmentAndWindows_more :
    (let s : State := { pair with links := [(0, { pair.link 0 with exchOut := 2 ^ 20, exch := (2 ^ 20, 1048700) })] }
     s.parentLink = some 0 ∧ (2 ^ 20 : Int) = ((s.link 0).exchOut : Int) ∧ (2 ^ 20 : Int) = ((s.link 0).exch.1 : Int) ∧
     (1048700 : Int) = ((s.link 0).exch.2 : Int)) ∧
    (let r : Route := ⟨0x0A, 0, 0, 0, 0, []⟩
     let s : State := { pair with tts := [(0, { tt with mstep := some 0, place := [⟨1, 0, 0, 0, 1, true, [0]⟩], img := { img with msteps := [⟨4, [], [r]⟩] } })] }
     (0 : Nat) ≠ s.pkg ∧ (s.tt 0).life = 1 ∧ (s.tt 0).mstep.isSome = true ∧ r ∈ s.localRoutes (s.tt 0) ∧ key01 ∈ s.trained ∧
     key01.touches 0 = true ∧ key01.touches s.pkg = true ∧ key01.linkAt s.pkg = routeInst (s.tt 0) r) := by decide +kernel

/-- A launch of graph 1 with one node, and requests for it. -/
def theNode : Node := ⟨img, 0, 0, 0, 0, 0, 0, none, false⟩
def asking (l : List AdmReq) (f : Timetable → Timetable) : State :=
  let s := (onTt f (one id)).setFunc 0 { State.reset.func 0 with graphs := [(1, [theNode])], argcfg := 1 }
  { s with launches := [(0, { Launch.none with live := true, req := ⟨1, 0, 0, 0⟩, nodes := [0] })], requests := l }

theorem test_meets_AdmitNext :
    (let s := asking [adm 2] id
     s.compact = none ∧ s.preempt = none ∧ nextRequest s.requests = some (adm 2) ∧ s.muleDown = false ∧ s.overtaken (adm 2) = false ∧
     (adm 2).kind = 0 ∧ s.reqNode (adm 2) = some theNode ∧ theNode.plan = none ∧ (s.freshNode (adm 2) theNode).2.1 = true ∧
     ((s.freshNode (adm 2) theNode).2.2.readArgs (adm 2).launch).isSome = true) ∧
    (let s := (asking [adm 2] id).setFunc 0 { (asking [adm 2] id).func 0 with argcfg := 0 }
     (s.freshNode (adm 2) theNode).2.2.readArgs (adm 2).launch = none) ∧
    (let s : State := { asking [adm 2] id with launches := [(0, { Launch.none with live := true, req := ⟨1, 0, 0, 0⟩, nodes := [0], status := 5 })] }
     s.overtaken (adm 2) = true) ∧
    (let r : AdmReq := { adm 2 with kind := 1 }
     let s := asking [r] id
     r.kind ≠ 0 ∧ s.overtaken r = false ∧ s.reqNode r = some theNode) := by decide +kernel

theorem test_meets_CompactionUpdate :
    (let c : Compaction := ⟨7, (8, 0), [(0, 8, 1)], 0⟩
     let s : State := { asking [{ adm 2 with tt := 1 }] fun t => { t with held := true } with compact := some c }
     s.compact = some c ∧ s.overtaken { adm 2 with tt := 1 } = false ∧ (∀ m ∈ c.moves, (s.tt m.1).held = true) ∧ s.updateFits c 1 = true) ∧
    (let c : Compaction := ⟨7, (8, 0), [(0, 8, 1)], 0⟩
     let s : State := { asking [adm 2] fun t => { t with held := true, touched := [(1, 0)] } with
       compact := some c
       tts := [(0, { tt with held := true, touched := [(1, 0)] }), (1, { tt with touched := [(1, 0)] })]
       pairs := [⟨1, 0, 3, 8, 1⟩] }
     s.updateFits c 1 = false) ∧
    (let s : State := { asking [adm 2] id with
       tts := [(0, { tt with touched := [(1, 0)] }), (1, { Timetable.blank with strides := 1, touched := [(1, 0)] })]
       pairs := [⟨1, 0, 1, 1, 0⟩] }
     s.victim (adm 2) 1 = some 0 ∧ s.victim (adm 0) 1 = none) := by decide +kernel

theorem test_meets_Preemptions_modes :
    (let s : State := { onTt (fun t => { t with img := { t.img with restart := [1] } }) (one id) with preempt := some ⟨0, 7, 0, []⟩ }
     s.mayDiscard 0 = true ∧ s.onCluster 0 0 = [0] ∧ s.chooseMode 0 0 s.preemptDl ≤ 2) ∧
    (let s : State := { asking [{ adm 2 with kind := 1 }] id with preempt := some ⟨0, 7, 0, []⟩, strands := [(0, { st with life := 4 })], gclk := 2 ^ 40 }
     (s.requests.find? fun r => r.id == 7) = some { adm 2 with kind := 1 } ∧ s.reqNode { adm 2 with kind := 1 } = some theNode ∧
     0 ∈ s.sids 0 ∧ (s.strand 0).life = 4 ∧ (s.strand 0).wait ≠ .barrier ∧ 0 + s.preemptLimit ≤ s.gclk.toNat) := by decide +kernel

theorem test_meets_Launch :
    (let s := asking [] id
     s.pagesRefused 0 (s.argPages 0 0) = false ∧ (s.argBlock 0 0).isSome = true ∧ s.graph 0 1 ≠ [] ∧ s.graph 0 2 = [] ∧
     s.blockCaps 0 ((s.argBlock 0 0).getD []) ≠ none) ∧
    (asking [] id).argBlock 0 1 = none ∧
    (let s := (asking [] id).setFunc 0 { (asking [] id).func 0 with refused := [0], asked := [0] }
     s.pagesRefused 0 (s.argPages 0 0) = true) := by decide +kernel

theorem test_meets_ObjectCommands_relocate :
    let e := entSet (entSet (obj 3).entry 239 3 4) 180 44 16384
    let s : State := { withObj 3 4096 (one id) with tenants := [(0, { State.reset.tenant 0 with objs := [(1, { obj 3 with entry := e })] })] }
    let image := entSet e 180 44 20480
    4 < (entLen image + 4095) / 2 ^ (12 + entXsz (s.obj 0 1).entry) ∧ entHome (s.obj 0 1).entry ≠ 4 ∧ imageOk image = true ∧
    entTp (s.obj 0 1).entry ≠ 1 ∧ s.hasRoom 0 3 32768 = true := by decide +kernel

theorem test_meets_TenantSteps_reset :
    (let s := State.reset.setQueue 0 1 { queueSt 1 with resetting := true, fetched := some [] }
     (s.queue 0 1).resetting = true ∧ (s.queue 0 1).running = 0 ∧ (s.queue 0 1).comps = []) ∧
    ∀ q < 17, (State.reset.queue 0 q).resetting = false := by decide +kernel

/-! ### RV64GC words of a hart (R244) -/

/-- Hart 0 after one step on a word at its pc. -/
def hartAfter (w : Nat) (x : SMap (BitVec 64)) : Hart :=
  match step (let h := { Hart.zero with pc := BitVec.ofNat 64 State.reset.sramBase, x := x }
    { mule h with sram := Memory.writeN [] State.reset.sramBase (bytesOf 4 w) }) with
  | .next s => s.hart 0
  | _ => Hart.zero

/-- ADDI x5, x0, −1 (FFF00293), and C.LI x5, 1 (4285). -/
theorem test_step_rv :
    ((hartAfter 0xFFF00293 []).rx 5, (hartAfter 0xFFF00293 []).pc) = (BitVec.allOnes 64, BitVec.ofNat 64 (State.reset.sramBase + 4)) ∧
    ((hartAfter 0x4285 []).rx 5, (hartAfter 0x4285 []).pc) = (1, BitVec.ofNat 64 (State.reset.sramBase + 2)) := by decide +kernel

end Sys2Proof.Tests
end

section
/-! SUPPORT. The canonical form of the memories as a fact of the two memories alone, and the rules by which it passes through the
constructs the model is written in: branches, folds, optional states and steps that may fail. Below, a function that leaves both
memories alone gets an equation `(s.f a).memOk = s.memOk`, and one that may write gets an implication from `s.memOk = true`. -/
namespace Sys2Proof.Machine

variable {s : State}

/-! ### The two memories -/

/-- The canonical form of the package's memory and of the Mule's SRAM, as a fact of the two alone. -/
def bothWf (mem sram : Memory) : Bool := mem.wf && sram.wf

@[simp] theorem bothWf_mem_sram : bothWf s.mem s.sram = s.memOk := by rw [State.memOk, bothWf]

/-- Only the two memories count, so an update of other fields leaves the canonical form as it was. -/
@[simp] theorem State.memOk_mk {gclk_ pkg_ mem_ strands_ tts_ nextTt_ gates_ hens_ replays_ ports_ xlat_ farLines_
    asks_ jobs_ nextJob_ colls_ tenants_ keys_ funcs_ launches_ nextLaunch_ requests_ nextReq_ compact_ preempt_
    pairs_ reserve_ turns_ compactWait_ ageBound_ preemptDl_ preemptLimit_ estQrate_ estSrate_ links_ table_ lgen_
    trained_ aligned_ oref_ offCount_ losses_ okCount_ holdLeft_ fastPll_ loaded_ loadedAt_ alignOut_ routers_
    bridges_ linkTabs_ rerr_ flits_ lostFlits_ remoteSeq_ post_ remotes_ wanted_ codeStores_ synced_ arming_
    lateBytes_ routines_ harts_ served_ firmware_ identity_ mule_ muleDown_ sram_ sramBase_ sramLen_ rotate_ bulks_
    errlog_ lifecycle_ bringup_ secded_ choices_ cur_ todo_ stage_ agenda_ landed_ outbox_} :
    State.memOk ⟨gclk_, pkg_, mem_, strands_, tts_, nextTt_, gates_, hens_, replays_, ports_, xlat_, farLines_,
    asks_, jobs_, nextJob_, colls_, tenants_, keys_, funcs_, launches_, nextLaunch_, requests_, nextReq_, compact_,
    preempt_, pairs_, reserve_, turns_, compactWait_, ageBound_, preemptDl_, preemptLimit_, estQrate_, estSrate_,
    links_, table_, lgen_, trained_, aligned_, oref_, offCount_, losses_, okCount_, holdLeft_, fastPll_, loaded_,
    loadedAt_, alignOut_, routers_, bridges_, linkTabs_, rerr_, flits_, lostFlits_, remoteSeq_, post_, remotes_,
    wanted_, codeStores_, synced_, arming_, lateBytes_, routines_, harts_, served_, firmware_, identity_, mule_,
    muleDown_, sram_, sramBase_, sramLen_, rotate_, bulks_, errlog_, lifecycle_, bringup_, secded_, choices_, cur_,
    todo_, stage_, agenda_, landed_, outbox_⟩ =
      bothWf mem_ sram_ := by
  rw [State.memOk, bothWf]

theorem bothWf_iff {m r : Memory} : bothWf m r = true ↔ m.wf = true ∧ r.wf = true := Bool.and_eq_true_iff

section
variable {m r : Memory}

@[simp] theorem bothWf_writeN {a l} (h : bothWf m r = true) : bothWf (m.writeN a l) r = true :=
  bothWf_iff.2 ⟨Memory.writeN_wf (bothWf_iff.1 h).1, (bothWf_iff.1 h).2⟩

@[simp] theorem bothWf_writeAll {l} (h : bothWf m r = true) : bothWf (m.writeAll l) r = true :=
  bothWf_iff.2 ⟨Memory.writeAll_wf (bothWf_iff.1 h).1, (bothWf_iff.1 h).2⟩

@[simp] theorem bothWf_filter {p : Nat × Byte → Bool} (h : bothWf m r = true) : bothWf (m.filter p) r = true :=
  bothWf_iff.2 ⟨Memory.filter_wf p (bothWf_iff.1 h).1, (bothWf_iff.1 h).2⟩

@[simp] theorem bothWf_sram_writeN {a l} (h : bothWf m r = true) : bothWf m (r.writeN a l) = true :=
  bothWf_iff.2 ⟨(bothWf_iff.1 h).1, Memory.writeN_wf (bothWf_iff.1 h).2⟩

@[simp] theorem bothWf_sram_nil (h : bothWf m r = true) : bothWf m [] = true :=
  bothWf_iff.2 ⟨(bothWf_iff.1 h).1, rfl⟩

end

@[simp] theorem State.writeBytes_sram (l : List (Nat × Byte)) : (s.writeBytes l).sram = s.sram := rfl
@[simp] theorem State.setObj_sram {n k : Nat} {o : Obj} : (s.setObj n k o).sram = s.sram := rfl

/-! ### Results -/

/-- What a result leaves: the canonical form of the next state, and nothing to ask of a fault or a refusal. -/
def Result.memOk : Result → Bool
  | .next s => s.memOk
  | _ => true

@[simp] theorem Result.memOk_next : Result.memOk (.next s) = s.memOk := rfl
@[simp] theorem notEnabled_memOk (w : String) : Result.memOk (notEnabled w) = true := rfl

/-- A meaning that keeps the canonical form: what is proved of every instruction and event, and in the end of `step`. -/
def KeepsMemOk (f : State → Result) : Prop := ∀ s, s.memOk = true → Result.memOk (f s) = true

theorem Result.orElse_memOk {r : Result} (hr : Result.memOk r = true) (h : s.memOk = true) : (Result.orElse r s).memOk = true := by
  cases r with
  | next t => exact hr
  | fault e => exact h
  | refused e => exact h

@[simp] theorem State.try_memOk {f : State → Result} (hf : KeepsMemOk f) (h : s.memOk = true) : (s.try f).memOk = true :=
  Result.orElse_memOk (hf s h) h

/-! ### Branches -/

@[simp] theorem State.memOk_ite {c : Prop} [Decidable c] {a b : State} :
    (if c then a else b).memOk = if c then a.memOk else b.memOk := apply_ite ..

@[simp] theorem Result.memOk_ite {c : Prop} [Decidable c] {a b : Result} :
    Result.memOk (if c then a else b) = if c then Result.memOk a else Result.memOk b := apply_ite ..

@[simp] theorem State.memOk_snd_ite {α : Type} {c : Prop} [Decidable c] {p q : α × State} :
    (if c then p else q).2.memOk = if c then p.2.memOk else q.2.memOk := apply_ite (fun p : α × State => p.2.memOk) ..

theorem State.memOk_of_ite {c : Prop} [Decidable c] {a b : State} (ha : a.memOk = true) (hb : b.memOk = true) :
    (if c then a else b).memOk = true := by
  split
  · exact ha
  · exact hb

theorem Result.memOk_of_ite {c : Prop} [Decidable c] {a b : Result} (ha : Result.memOk a = true) (hb : Result.memOk b = true) :
    Result.memOk (if c then a else b) = true := by
  split
  · exact ha
  · exact hb

/-! ### Folds -/

@[simp] theorem foldl_memOk {α : Type} {f : State → α → State} {l : List α} (hf : ∀ s a, (f s a).memOk = s.memOk) :
    (l.foldl f s).memOk = s.memOk := by
  induction l generalizing s with
  | nil => rfl
  | cons a l ih => rw [List.foldl_cons, ih, hf]

theorem foldl_memOk_of {α : Type} {f : State → α → State} {l : List α}
    (hf : ∀ s a, s.memOk = true → (f s a).memOk = true) (h : s.memOk = true) : (l.foldl f s).memOk = true :=
  List.foldlRecOn l f h fun t ht a _ => hf t a ht

/-- A fold that carries something beside the state. -/
theorem foldl_fst_memOk {α β : Type} {f : State × β → α → State × β} {l : List α} {p : State × β}
    (hf : ∀ p a, p.1.memOk = true → (f p a).1.memOk = true) (h : p.1.memOk = true) : (l.foldl f p).1.memOk = true :=
  List.foldlRecOn (motive := fun q : State × β => q.1.memOk = true) l f h fun q hq a _ => hf q a hq

/-! ### States that are there or not, and states beside a value -/

theorem memOk_of_some {o : Option State} {t : State} (ho : o.all State.memOk = true) (e : o = some t) : t.memOk = true := by
  simpa [e] using ho

@[simp] theorem all_map_memOk {α : Type} {o : Option α} {f : α → State} (hf : ∀ a, (f a).memOk = true) :
    (o.map f).all State.memOk = true := by
  cases o with
  | none => rfl
  | some a => exact hf a

theorem memOk_findSome? {α : Type} {l : List α} {f : α → Option State} (hf : ∀ a, (f a).all State.memOk = true) :
    (l.findSome? f).all State.memOk = true := by
  cases e : l.findSome? f with
  | none => rfl
  | some t =>
    obtain ⟨a, -, ha⟩ := List.exists_of_findSome?_eq_some e
    exact memOk_of_some (hf a) ha

theorem getD_memOk {o : Option State} (ho : o.all State.memOk = true) (h : s.memOk = true) : (o.getD s).memOk = true := by
  cases o with
  | none => exact h
  | some t => exact ho

theorem memOk_of_snd {α : Type} {p : α × State} {a : α} {t : State} (hp : p.2.memOk = true) (e : p = (a, t)) :
    t.memOk = true := by
  simpa [e] using hp

end Sys2Proof.Machine
end

section
/-! SUPPORT. The named operations, taking a fault and a resource choice keep the canonical form of the memories. -/
namespace Sys2Proof.Machine

variable {s : State}

@[simp] theorem State.setStrand_memOk (sid st) : (s.setStrand sid st).memOk = s.memOk := by simp [State.setStrand]
@[simp] theorem State.setTt_memOk (t x) : (s.setTt t x).memOk = s.memOk := by simp [State.setTt]
@[simp] theorem State.setTenant_memOk (n x) : (s.setTenant n x).memOk = s.memOk := by simp [State.setTenant]
@[simp] theorem State.setFunc_memOk (n x) : (s.setFunc n x).memOk = s.memOk := by simp [State.setFunc]
@[simp] theorem State.setHen_memOk (n x) : (s.setHen n x).memOk = s.memOk := by simp [State.setHen]
@[simp] theorem State.setHart_memOk (n x) : (s.setHart n x).memOk = s.memOk := by simp [State.setHart]
@[simp] theorem State.setQueue_memOk (fn q x) : (s.setQueue fn q x).memOk = s.memOk := by simp [State.setQueue]
@[simp] theorem State.meter_memOk (tenant idx n) : (s.meter tenant idx n).memOk = s.memOk := by simp [State.meter]
@[simp] theorem State.meterTt_memOk (tt idx n) : (s.meterTt tt idx n).memOk = s.memOk := by simp [State.meterTt]
@[simp] theorem State.keepMeters_memOk (old tt) : (s.keepMeters old tt).memOk = s.memOk := by simp [State.keepMeters]

@[simp] theorem State.reachBoundary_memOk (sid kind) : (s.reachBoundary sid kind).memOk = s.memOk := by
  unfold State.reachBoundary
  dsimp only
  split <;> simp

@[simp] theorem State.fault_memOk (sid code slot creg offset) :
    (s.fault sid code slot creg offset).memOk = s.memOk := by
  unfold State.fault
  dsimp only
  repeat' split
  all_goals simp

@[simp] theorem State.suppress_memOk (sid code slot creg offset) :
    (s.suppress sid code slot creg offset).memOk = s.memOk := by
  simp [State.suppress]

@[simp] theorem State.suppressHere_memOk (sid code slot) : (s.suppressHere sid code slot).memOk = s.memOk := by
  simp [State.suppressHere]
@[simp] theorem State.pick_memOk (n) : (s.pick n).2.memOk = s.memOk := by simp [State.pick]
@[simp] theorem State.modStrand_memOk (sid f) : (s.modStrand sid f).memOk = s.memOk := by simp [State.modStrand]
@[simp] theorem State.modTt_memOk (t f) : (s.modTt t f).memOk = s.memOk := by simp [State.modTt]

end Sys2Proof.Machine
end

section
/-! SUPPORT. Writing an entry of an object table keeps the canonical form. -/
namespace Sys2Proof.Machine

variable {s : State}

@[simp] theorem State.setObj_memOk (tenant n o) : (s.setObj tenant n o).memOk = s.memOk := by simp [State.setObj]

end Sys2Proof.Machine
end

section
/-! SUPPORT. The moulds that say who executes a word keep the canonical form when each agent's part does. -/
namespace Sys2Proof.Machine

variable {s : State}

@[simp] theorem State.setJob_memOk (n j) : (s.setJob n j).memOk = s.memOk := by simp [State.setJob]
@[simp] theorem State.setColl_memOk (ctx c) : (s.setColl ctx c).memOk = s.memOk := by simp [State.setColl]
@[simp] theorem State.replyMail_memOk (port x bytes) : (s.replyMail port x bytes).memOk = s.memOk := by
  simp [State.replyMail]
@[simp] theorem State.henReply_memOk (port x status data) : (s.henReply port x status data).memOk = s.memOk := by
  simp [State.henReply]

@[simp] theorem State.henEnd_memOk (port status) : (s.henEnd port status).memOk = s.memOk := by
  unfold State.henEnd
  dsimp only
  repeat' split
  all_goals simp

@[simp] theorem State.henIllegal_memOk (port) : (s.henIllegal port).memOk = s.memOk := by simp [State.henIllegal]
@[simp] theorem State.hartIllegal_memOk (n) : (s.hartIllegal n).memOk = s.memOk := by simp [State.hartIllegal]
@[simp] theorem State.slotIllegal_memOk (sid slot) : (s.slotIllegal sid slot).memOk = s.memOk := by
  simp [State.slotIllegal]

@[simp] theorem byAgent_memOk {f g : Nat → State} {e : Fin 32 → State} (hf : ∀ sid, (f sid).memOk = true)
    (hg : ∀ p, (g p).memOk = true) (he : ∀ n, (e n).memOk = true) : Result.memOk (byAgent s f g e) = true := by
  unfold byAgent
  split
  · exact hf _
  · exact hg _
  · exact he _
  · rfl

@[simp] theorem strandOnly_memOk {f : Nat → State} (h : s.memOk = true) (hf : ∀ k, (f k).memOk = true) :
    Result.memOk (strandOnly s f) = true := by
  simp [strandOnly, h, hf]

@[simp] theorem henOnly_memOk {f : Nat → State} (h : s.memOk = true) (hf : ∀ k, (f k).memOk = true) :
    Result.memOk (henOnly s f) = true := by
  simp [henOnly, h, hf]

@[simp] theorem hartOnly_memOk {f : Fin 32 → State} (h : s.memOk = true) (hf : ∀ k, (f k).memOk = true) :
    Result.memOk (hartOnly s f) = true := by
  simp [hartOnly, h, hf]

@[simp] theorem dResult_memOk (h : s.memOk = true) (lat d srcs tainted val) :
    Result.memOk (dResult s lat d srcs tainted val) = true := by
  simp [dResult, h]

@[simp] theorem State.freeze_memOk (sid w) : (s.freeze sid w).memOk = s.memOk := by simp [State.freeze]

@[simp] theorem State.signal_memOk (sid idx n err bundle) : (s.signal sid idx n err bundle).memOk = s.memOk := by
  unfold State.signal
  split <;> simp

end Sys2Proof.Machine
end

section
/-! SUPPORT. The integer and control-register words keep the canonical form. -/
namespace Sys2Proof.Machine

variable {s : State}

@[simp] theorem execNop_keepsMemOk : KeepsMemOk execNop := fun s h => by simp [execNop, h]
@[simp] theorem execGetcycVclk_keepsMemOk (d) : KeepsMemOk (execGetcycVclk d) := fun s h => by simp [execGetcycVclk, h]

@[simp] theorem derive_memOk {d a b f} (h : s.memOk = true) : Result.memOk (derive s d a b f) = true := by
  refine strandOnly_memOk h fun sid => ?_
  dsimp only
  split <;> simp [h]

@[simp] theorem execClrt_keepsMemOk (d a b x) : KeepsMemOk (execClrt d a b x) := fun s h => by simp [execClrt, h]
@[simp] theorem execRdcsr_keepsMemOk (d c) : KeepsMemOk (execRdcsr d c) := fun s h => by simp [execRdcsr, h]
@[simp] theorem execWrcsr_keepsMemOk (a c) : KeepsMemOk (execWrcsr a c) := fun s h => by simp [execWrcsr, h]

@[simp] theorem sResult_memOk (h : s.memOk = true) (lat d srcs val) :
    Result.memOk (sResult s lat d srcs val) = true := by
  simp [sResult, h]

@[simp] theorem State.timedLoad_memOk (sid slot lat dst addrs) :
    (s.timedLoad sid slot lat dst addrs).memOk = s.memOk := by
  simp [State.timedLoad]

@[simp] theorem execLds_keepsMemOk (d a b x) : KeepsMemOk (execLds d a b x) := by
  refine fun s h => strandOnly_memOk h fun sid => ?_
  dsimp only
  repeat' split
  all_goals simp [h]

@[simp] theorem execSts_keepsMemOk (d a b x) : KeepsMemOk (execSts d a b x) := by
  refine fun s h => strandOnly_memOk h fun sid => ?_
  dsimp only
  repeat' split
  all_goals simp [h]

end Sys2Proof.Machine
end

section
/-! SUPPORT. Bundles, branches, loops, steps and the ends of strands keep the canonical form. -/
namespace Sys2Proof.Machine

variable {s : State}

@[simp] theorem State.finishBundle_memOk (sid) : (s.finishBundle sid).memOk = s.memOk := by simp [State.finishBundle]
@[simp] theorem State.issued_memOk (sid next) : (s.issued sid next).memOk = s.memOk := by simp [State.issued]
@[simp] theorem State.badHeader_memOk (sid) : (s.badHeader sid).memOk = s.memOk := by simp [State.badHeader]
@[simp] theorem State.pastEnd_memOk (sid) : (s.pastEnd sid).memOk = s.memOk := by simp [State.pastEnd]
@[simp] theorem State.park_memOk (sid) : (s.park sid).memOk = s.memOk := by simp [State.park]
@[simp] theorem State.setLease_memOk (sid l) : (s.setLease sid l).memOk = s.memOk := by simp [State.setLease]
@[simp] theorem State.endLease_memOk (sid) : (s.endLease sid).memOk = s.memOk := by simp [State.endLease]
@[simp] theorem State.grantLease_memOk (sid) : (s.grantLease sid).memOk = s.memOk := by simp [State.grantLease]
@[simp] theorem execBndl_keepsMemOk (_d sy f l m) : KeepsMemOk (execBndl _d sy f l m) := fun s h => by simp [execBndl, h]
@[simp] theorem State.branchTo_memOk (sid target) : (s.branchTo sid target).memOk = s.memOk := by
  simp [State.branchTo]
@[simp] theorem State.henBranch_memOk (p target) : (s.henBranch p target).memOk = s.memOk := by simp [State.henBranch]

@[simp] theorem relBranch_memOk (h : s.memOk = true) (o link taken regs) :
    Result.memOk (relBranch s o link taken regs) = true := by
  unfold relBranch
  split <;> simp [h]

@[simp] theorem execRet_keepsMemOk (a) : KeepsMemOk (execRet a) := fun s h => by simp [execRet, h]
@[simp] theorem State.openLoop_memOk (sid level len count) : (s.openLoop sid level len count).memOk = s.memOk := by
  simp [State.openLoop]
@[simp] theorem execLoopImm_keepsMemOk (l n c) : KeepsMemOk (execLoopImm l n c) := fun s h => by simp [execLoopImm, h]
@[simp] theorem execLoopReg_keepsMemOk (l n r) : KeepsMemOk (execLoopReg l n r) := fun s h => by simp [execLoopReg, h]
@[simp] theorem execExit_keepsMemOk (n) : KeepsMemOk (execExit n) := fun s h => by simp [execExit, h]
@[simp] theorem State.closeStep_memOk (sid m n) : (s.closeStep sid m n).memOk = s.memOk := by simp [State.closeStep]
@[simp] theorem execSstep_keepsMemOk : KeepsMemOk execSstep := fun s h => by simp [execSstep, h]
@[simp] theorem execSstepM_keepsMemOk (n) : KeepsMemOk (execSstepM n) := fun s h => by simp [execSstepM, h]
@[simp] theorem execTrap_keepsMemOk (i) : KeepsMemOk (execTrap i) := fun s h => by simp [execTrap, h]

end Sys2Proof.Machine
end

section
/-! SUPPORT. Metering, snapshots, host events and whole writes of bytes keep the canonical form. -/
namespace Sys2Proof.Machine

variable {s : State}

@[simp] theorem State.meter_sram (tenant idx n) : (s.meter tenant idx n).sram = s.sram := by
  unfold State.meter
  dsimp only
  split <;> rfl

@[simp] theorem State.meterHost_sram (fn n w) : (s.meterHost fn n w).sram = s.sram := State.meter_sram ..
@[simp] theorem State.meterHost_memOk (fn n w) : (s.meterHost fn n w).memOk = s.memOk := State.meter_memOk ..
@[simp] theorem State.snapshot_memOk (tenant) : (s.snapshot tenant).2.2.memOk = s.memOk := by simp [State.snapshot]
@[simp] theorem State.hostEvent_memOk (fn n amount) : (s.hostEvent fn n amount).memOk = s.memOk := by
  simp [State.hostEvent]
@[simp] theorem State.writeBytes_memOk (h : s.memOk = true) (l) : (s.writeBytes l).memOk = true := by
  simp [State.writeBytes, h]
@[simp] theorem State.untimedWrite_memOk {n l} (h : s.memOk = true) : (s.untimedWrite n l).memOk = true :=
  bothWf_writeAll h
@[simp] theorem State.meterBytes_memOk (tt l write) : (s.meterBytes tt l write).memOk = s.memOk := by
  simp [State.meterBytes]
@[simp] theorem State.meterCross_memOk (sid l timed) : (s.meterCross sid l timed).memOk = s.memOk := by
  simp [State.meterCross]
@[simp] theorem State.meterMove_memOk (sid l write timed) : (s.meterMove sid l write timed).memOk = s.memOk := by
  simp [State.meterMove]

end Sys2Proof.Machine
end

section
/-! SUPPORT. Page requests, messages between packages and the pieces of the untimed servers keep the canonical form. -/
namespace Sys2Proof.Machine

variable {s : State}

@[simp] theorem State.xlatFill_memOk (tenant a c o) : (s.xlatFill tenant a c o).memOk = s.memOk := by
  simp [State.xlatFill]
@[simp] theorem State.want_memOk (x) : (s.want x).memOk = s.memOk := by simp [State.want]
@[simp] theorem State.askPage_memOk (fn page) : (s.askPage fn page).memOk = s.memOk := by simp [State.askPage]

@[simp] theorem State.askByte_memOk (sid c o) : (s.askByte sid c o).memOk = s.memOk := by
  unfold State.askByte
  split <;> simp

@[simp] theorem State.mail_memOk (dest tenant router m) : (s.mail dest tenant router m).memOk = s.memOk := by
  simp [State.mail]

@[simp] theorem State.mailBy_memOk (link dest tenant router m) :
    (s.mailBy link dest tenant router m).memOk = s.memOk := by
  simp [State.mailBy]

@[simp] theorem State.sendHen_memOk (key sid hen op) : (s.sendHen key sid hen op).memOk = s.memOk := by
  simp [State.sendHen]
@[simp] theorem State.sendFar_memOk (key sid a op) : (s.sendFar key sid a op).memOk = s.memOk := by
  simp [State.sendFar]
@[simp] theorem State.putOp_memOk (p) : (s.putOp p).memOk = s.memOk := by simp [State.putOp]

/-- What serving a piece does for its owner keeps the canonical form. -/
structure MoverFx.KeepsMemOk (fx : MoverFx) : Prop where
  read : ∀ l s, s.memOk = true → (fx.read l s).memOk = true
  write : ∀ l s, s.memOk = true → (fx.write l s).memOk = true
  request : ∀ p s, s.memOk = true → (fx.request p s).memOk = true

theorem State.moveOn_memOk {fx : MoverFx} {p cr cw} (hfx : fx.KeepsMemOk) (h : s.memOk = true) :
    (s.moveOn p fx cr cw).memOk = true := by
  simp [State.moveOn, hfx.read, hfx.write, hfx.request, h]

@[simp] theorem State.dropOps_memOk (who) : (s.dropOps who).memOk = s.memOk := by simp [State.dropOps]
@[simp] theorem State.nudge_memOk (p) : (s.nudge p).memOk = s.memOk := by simp [State.nudge]

end Sys2Proof.Machine
end

section
/-! SUPPORT. Queue buffers, semaphores, sync words, fences, gates, work queues and services keep the canonical form. -/
namespace Sys2Proof.Machine

variable {s : State}

@[simp] theorem waitWord_memOk {f : Nat → State} (h : s.memOk = true) (hf : ∀ k, (f k).memOk = true) :
    Result.memOk (waitWord s f) = true := by
  simp [waitWord, h, hf]

@[simp] theorem execQbbind_keepsMemOk (r d) : KeepsMemOk (execQbbind r d) := fun s h => by simp [execQbbind, h]

@[simp] theorem qbWait_memOk (h : s.memOk = true) (e k d) : Result.memOk (qbWait s e k d) = true := by
  refine waitWord_memOk h fun sid => ?_
  dsimp only
  repeat' split
  all_goals simp [h]

@[simp] theorem execQbwaitComplete_keepsMemOk (sid) : KeepsMemOk (execQbwaitComplete sid) := by
  intro s h
  unfold execQbwaitComplete
  dsimp only
  split <;> simp [h]

@[simp] theorem qbClaim_memOk (h : s.memOk = true) (give k d) : Result.memOk (qbClaim s give k d) = true := by
  refine strandOnly_memOk h fun sid => ?_
  dsimp only
  repeat' split
  all_goals simp [h]

@[simp] theorem execQbVisibleUpdate_keepsMemOk (sid) : KeepsMemOk (execQbVisibleUpdate sid) := by
  intro s h
  unfold execQbVisibleUpdate
  dsimp only
  split <;> simp [h]

@[simp] theorem execSemwait_keepsMemOk (r n t) : KeepsMemOk (execSemwait r n t) := by
  refine fun s h => strandOnly_memOk h fun sid => ?_
  dsimp only
  repeat' split
  all_goals simp [h]

@[simp] theorem execSemwaitServed_keepsMemOk (sid) : KeepsMemOk (execSemwaitServed sid) := by
  intro s h
  unfold execSemwaitServed
  dsimp only
  repeat' split
  all_goals simp [h]

@[simp] theorem execSemwaitTimeout_keepsMemOk (sid) : KeepsMemOk (execSemwaitTimeout sid) := by
  intro s h
  unfold execSemwaitTimeout
  dsimp only
  split <;> simp [h]

theorem execSemsig_keepsMemOk (n a) : KeepsMemOk (execSemsig n a) := by
  refine fun s h => strandOnly_memOk h fun sid => ?_
  split <;> simp [h]

@[simp] theorem execSemsigApply_keepsMemOk (sid) : KeepsMemOk (execSemsigApply sid) := by
  intro s h
  unfold execSemsigApply
  dsimp only
  split <;> simp [h]

@[simp] theorem execSyncarm_keepsMemOk (r c k i) : KeepsMemOk (execSyncarm r c k i) := by
  refine fun s h => strandOnly_memOk h fun sid => ?_
  dsimp only
  split <;> simp [h]

@[simp] theorem execSyncwait_keepsMemOk (r c k i) : KeepsMemOk (execSyncwait r c k i) := by
  refine fun s h => strandOnly_memOk h fun sid => ?_
  dsimp only
  repeat' split
  all_goals simp [h]

@[simp] theorem execSyncwaitComplete_keepsMemOk (sid) : KeepsMemOk (execSyncwaitComplete sid) := by
  intro s h
  unfold execSyncwaitComplete
  dsimp only
  split <;> simp [h]

@[simp] theorem execFence_keepsMemOk (g q) : KeepsMemOk (execFence g q) := fun s h => by simp [execFence, h]
@[simp] theorem execJoin_keepsMemOk : KeepsMemOk execJoin := fun s h => by simp [execJoin, h]

@[simp] theorem execJoinComplete_keepsMemOk (sid) : KeepsMemOk (execJoinComplete sid) := by
  intro s h
  unfold execJoinComplete
  dsimp only
  split <;> simp [h]

@[simp] theorem State.setGate_memOk {a g} (h : s.memOk = true) : (s.setGate a g).memOk = true := by
  simp [State.setGate, h]
@[simp] theorem State.joinGate_memOk (sid a) : (s.joinGate sid a).memOk = s.memOk := by simp [State.joinGate]

@[simp] theorem execAcq_keepsMemOk (c) : KeepsMemOk (execAcq c) := by
  refine fun s h => strandOnly_memOk h fun sid => ?_
  dsimp only
  repeat' split
  all_goals simp [h]

@[simp] theorem State.granted_memOk (w) : (s.granted w).memOk = s.memOk := by
  unfold State.granted
  split <;> simp

@[simp] theorem execGateGrant_keepsMemOk (gate) : KeepsMemOk (execGateGrant gate) := by
  intro s h
  unfold execGateGrant
  dsimp only
  split <;> simp [h]

theorem execRel_keepsMemOk (c) : KeepsMemOk (execRel c) := by
  refine fun s h => strandOnly_memOk h fun sid => ?_
  split
  · simp [h]
  · simp [h]
  · simp [h]

@[simp] theorem State.releaseGate_memOk (h : s.memOk = true) (sid a poison) :
    (s.releaseGate sid a poison).memOk = true := by
  simp [State.releaseGate, h]

@[simp] theorem execGateRelease_keepsMemOk (sid) : KeepsMemOk (execGateRelease sid) := by
  intro s h
  unfold execGateRelease
  dsimp only
  split <;> simp [h]

@[simp] theorem execBind_keepsMemOk (r c k) : KeepsMemOk (execBind r c k) := by
  refine fun s h => strandOnly_memOk h fun sid => ?_
  dsimp only
  repeat' split
  all_goals simp [h]

@[simp] theorem State.bindAt_memOk (h : s.memOk = true) (sid a w) : (s.bindAt sid a w).2.memOk = true := by
  simp [State.bindAt, h]

@[simp] theorem execBindAnswer_keepsMemOk (sid) : KeepsMemOk (execBindAnswer sid) := by
  intro s h
  unfold execBindAnswer
  dsimp only
  split <;> simp [h]

@[simp] theorem State.gateThere_memOk (sid) : (s.gateThere sid).memOk = s.memOk := by
  unfold State.gateThere
  dsimp only
  repeat' split
  all_goals simp

@[simp] theorem execWsseal_keepsMemOk (r c t) : KeepsMemOk (execWsseal r c t) := by
  refine fun s h => strandOnly_memOk h fun sid => ?_
  dsimp only
  repeat' split
  all_goals simp [h]

@[simp] theorem execWssealAnswer_keepsMemOk (sid) : KeepsMemOk (execWssealAnswer sid) := by
  intro s h
  unfold execWssealAnswer
  dsimp only
  split <;> simp [h]

@[simp] theorem execLdc_keepsMemOk (r c k g) : KeepsMemOk (execLdc r c k g) := by
  refine fun s h => strandOnly_memOk h fun sid => ?_
  dsimp only
  repeat' split
  all_goals simp [h]

@[simp] theorem execLdcArrival_keepsMemOk (sid) : KeepsMemOk (execLdcArrival sid) := by
  intro s h
  unfold execLdcArrival
  dsimp only
  repeat' split
  all_goals simp [h]

@[simp] theorem execWqpop_keepsMemOk (d a q) : KeepsMemOk (execWqpop d a q) := by
  refine fun s h => strandOnly_memOk h fun sid => ?_
  dsimp only
  split <;> simp [h]

@[simp] theorem execWqwait_keepsMemOk (q) : KeepsMemOk (execWqwait q) := fun s h => by simp [execWqwait, h]

@[simp] theorem execWqwaitComplete_keepsMemOk (sid) : KeepsMemOk (execWqwaitComplete sid) := by
  intro s h
  unfold execWqwaitComplete
  dsimp only
  split <;> simp [h]

@[simp] theorem svcCall_memOk (h : s.memOk = true) (n) : Result.memOk (svcCall s n) = true := by simp [svcCall, h]

@[simp] theorem execSvcComplete_keepsMemOk (sid) : KeepsMemOk (execSvcComplete sid) := by
  intro s h
  unfold execSvcComplete
  dsimp only
  split <;> simp [h]

end Sys2Proof.Machine
end

section
/-! SUPPORT. The issue of an Ox command keeps the canonical form. -/
namespace Sys2Proof.Machine

variable {s : State}

@[simp] theorem State.oxSeat_memOk (sid op q b cd cs kd c1 str) :
    (s.oxSeat sid op q b cd cs kd c1 str).memOk = s.memOk := by
  simp [State.oxSeat]

@[simp] theorem State.oxSuppress_memOk (sid timed b code creg off) :
    (s.oxSuppress sid timed b code creg off).memOk = s.memOk := by
  simp [State.oxSuppress]

@[simp] theorem State.oxEnqueue_memOk (sid op q word ord b cd cs c1 kd ks taint) :
    (s.oxEnqueue sid op q word ord b cd cs c1 kd ks taint).memOk = s.memOk := by
  simp [State.oxEnqueue]

@[simp] theorem oxCommand_memOk {op d cs p q t o} (h : s.memOk = true) :
    Result.memOk (oxCommand s op d cs p q t o) = true := by
  refine strandOnly_memOk h fun sid => ?_
  dsimp only
  repeat' split
  all_goals simp [h]

end Sys2Proof.Machine
end

section
/-! SUPPORT. The pieces of an asynchronous Ox job, its replies, its end and the residency of extents keep the canonical form. -/
namespace Sys2Proof.Machine

variable {s : State}

@[simp] theorem State.jobRefused_memOk (j status fault) : (s.jobRefused j status fault).memOk = s.memOk := by
  unfold State.jobRefused
  split <;> simp

@[simp] theorem State.startJob_memOk (j) : (s.startJob j).memOk = s.memOk := by
  unfold State.startJob
  dsimp only
  repeat' split
  all_goals simp

@[simp] theorem execOxJobStart_keepsMemOk (sid q) : KeepsMemOk (execOxJobStart sid q) := by
  intro s h
  unfold execOxJobStart
  dsimp only
  repeat' split
  all_goals simp [h]

@[simp] theorem State.toHen_memOk (port r) : (s.toHen port r).memOk = s.memOk := by simp [State.toHen]
@[simp] theorem State.syncArrive_memOk (h : s.memOk = true) (a m) : (s.syncArrive a m).memOk = true := by
  simp [State.syncArrive, h]

@[simp] theorem State.countAt_memOk (h : s.memOk = true) (sid a n) : (s.countAt sid a n).memOk = true := by
  unfold State.countAt
  split <;> simp [h]

@[simp] theorem State.countJob_memOk (h : s.memOk = true) (jid n) : (s.countJob jid n).memOk = true := by
  simp [State.countJob, h]
@[simp] theorem State.jobWrite_memOk (h : s.memOk = true) (jid l) : (s.jobWrite jid l).memOk = true := by
  simp [State.jobWrite, h]

@[simp] theorem State.sendLine_memOk (jid l) : (s.sendLine jid l).memOk = s.memOk := by
  unfold State.sendLine
  split <;> simp

@[simp] theorem State.sendRequest_memOk (jid p) : (s.sendRequest jid p).memOk = s.memOk := by
  unfold State.sendRequest
  dsimp only
  repeat' split
  all_goals simp

/-- What serving a job's piece does. -/
theorem jobFx_keepsMemOk (j : Job) (use : PortUse) : (jobFx j use).KeepsMemOk where
  read l s h := by simp [jobFx, h]
  write l s h := by
    unfold jobFx
    dsimp only
    split <;> simp [h]
  request p s h := by simp [jobFx, h]

@[simp] theorem State.postJob_memOk (h : s.memOk = true) (j u b) : (s.postJob j u b).memOk = true :=
  State.moveOn_memOk (jobFx_keepsMemOk ..) h
@[simp] theorem State.postRun_memOk (h : s.memOk = true) (j u c o b) : (s.postRun j u c o b).memOk = true :=
  foldl_memOk_of (fun _ _ h => State.postJob_memOk h ..) h

@[simp] theorem State.chaseOn_memOk (h : s.memOk = true) (jid) : (s.chaseOn jid).memOk = true := by
  unfold State.chaseOn
  dsimp only
  repeat' split
  all_goals simp [h]

@[simp] theorem State.chaseGot_memOk (h : s.memOk = true) (jid node) : (s.chaseGot jid node).memOk = true := by
  simp [State.chaseGot, h]
@[simp] theorem State.pageRequest_memOk (j) : (s.pageRequest j).memOk = s.memOk := by simp [State.pageRequest]

@[simp] theorem State.workPiece_memOk (h : s.memOk = true) (j i) : (s.workPiece j i).memOk = true := by
  unfold State.workPiece
  split <;> simp [h]

@[simp] theorem State.sendStray_memOk (j p) : (s.sendStray j p).memOk = s.memOk := by
  unfold State.sendStray
  split <;> simp

@[simp] theorem State.engineTurn_memOk (h : s.memOk = true) (server tenant) :
    (s.engineTurn server tenant).all State.memOk = true := by
  unfold State.engineTurn
  dsimp only
  repeat' split
  all_goals simp [h]

@[simp] theorem State.farDone_memOk (jid status) : (s.farDone jid status).memOk = s.memOk := by simp [State.farDone]
@[simp] theorem State.abandonJob_memOk (jid status) : (s.abandonJob jid status).memOk = s.memOk := by
  simp [State.abandonJob]

@[simp] theorem State.casReturn_memOk (h : s.memOk = true) (jid old status) :
    (s.casReturn jid old status).memOk = true := by
  simp [State.casReturn, h]

@[simp] theorem State.fetched_memOk (h : s.memOk = true) (j a d) : (s.fetched j a d).memOk = true := by
  unfold State.fetched
  split
  · exact h
  · exact State.moveOn_memOk (jobFx_keepsMemOk ..) (by simpa using h)

@[simp] theorem State.stored_memOk (h : s.memOk = true) (jid a data) : (s.stored jid a data).memOk = true := by
  unfold State.stored
  split <;> simp [h]

@[simp] theorem State.farGate_memOk (jid status op) : (s.farGate jid status op).memOk = s.memOk := by
  unfold State.farGate
  split <;> simp

@[simp] theorem State.stagedFar_memOk (j tt hen n lines) : (s.stagedFar j tt hen n lines).memOk = s.memOk := by
  simp [State.stagedFar]

@[simp] theorem State.jobReply_memOk (h : s.memOk = true) (jid status r data) :
    (s.jobReply jid status r data).memOk = true := by
  unfold State.jobReply
  dsimp only
  repeat' split
  all_goals simp [h]

@[simp] theorem execRetransmitTimeout_keepsMemOk (key) : KeepsMemOk (execRetransmitTimeout key) := by
  intro s h
  unfold execRetransmitTimeout
  split <;> simp [h]

@[simp] theorem State.syncArm_memOk (h : s.memOk = true) (a t) : (s.syncArm a t).memOk = true := by
  simp [State.syncArm, h]
@[simp] theorem execOxJobFinish_keepsMemOk (jid) : KeepsMemOk (execOxJobFinish jid) := fun s h => by simp [execOxJobFinish, h]
@[simp] theorem State.freePlace_memOk (die level size) : (s.freePlace die level size).2.memOk = s.memOk := by
  simp [State.freePlace]

@[simp] theorem State.setBase_memOk (h : s.memOk = true) (tenant obj e base) :
    (s.setBase tenant obj e base).memOk = true := by
  simp [State.setBase, h]

@[simp] theorem State.freeRange_memOk (h : s.memOk = true) (a n) : (s.freeRange a n).memOk = true := by
  simp [State.freeRange, h]

theorem State.newExtent_memOk {die home size a} {t : State} (h : s.memOk = true) (e : s.newExtent die home size = some (a, t)) :
    t.memOk = true := by
  unfold State.newExtent at e
  split at e
  next b u hp =>
    have hu : u.memOk = true := memOk_of_snd (by simpa using h) hp
    obtain ⟨rfl, rfl⟩ := Prod.mk.inj (Option.some.inj e)
    simp [hu]
  · cases e

@[simp] theorem State.grow_memOk (h : s.memOk = true) (tenant obj n) :
    (s.grow tenant obj n).all State.memOk = true := by
  refine List.foldlRecOn (motive := fun o : Option State => o.all State.memOk = true) _ _ (by simpa using h) fun acc hacc i _ => ?_
  split
  · rfl
  next t =>
    dsimp only
    split
    · exact hacc
    · cases e : t.newExtent (entDie (t.obj tenant obj).entry) (entHome (t.obj tenant obj).entry)
          (2 ^ (12 + entXsz (t.obj tenant obj).entry)) with
      | none => rfl
      | some x => simpa using State.newExtent_memOk (by simpa using hacc) e

@[simp] theorem State.freeExtents_memOk (h : s.memOk = true) (tenant e n) :
    (s.freeExtents tenant e n).memOk = true := by
  unfold State.freeExtents
  dsimp only
  split
  · exact h
  · refine foldl_memOk_of (fun t i ht => ?_) h
    split
    · split <;> simp [ht]
    · exact ht

@[simp] theorem execExtentResident_keepsMemOk (tenant obj ext) : KeepsMemOk (execExtentResident tenant obj ext) := by
  intro s h
  unfold execExtentResident
  dsimp only
  split
  · split <;> simp [h]
  · split
    · simp
    next a t hp =>
      have ht : t.memOk = true := memOk_of_snd (by simpa using h) hp
      have hbase : ((t.setObj tenant obj
        { s.obj tenant obj with backing := SMap.set [] (s.obj tenant obj).backing ext [] }).setBase tenant obj ext
        (a / 4096)).memOk = true := by simp [ht]
      simp [hbase]

@[simp] theorem State.moveWaiting_memOk (f) : (s.moveWaiting f).memOk = s.memOk := by simp [State.moveWaiting]

@[simp] theorem State.moveExtent_memOk (h : s.memOk = true) (tenant obj ext new) :
    (s.moveExtent tenant obj ext new).memOk = true := by
  unfold State.moveExtent
  dsimp only
  split
  · refine State.setBase_memOk ?_ ..
    rw [State.setObj_memOk, State.moveWaiting_memOk, State.memOk_mk]
    exact bothWf_writeAll (bothWf_filter (by simpa using h))
  · exact h

@[simp] theorem execExtentMigrate_keepsMemOk (tenant obj ext base) :
    KeepsMemOk (execExtentMigrate tenant obj ext base) := by
  intro s h
  unfold execExtentMigrate
  dsimp only
  split <;> simp [h]

@[simp] theorem execEviction_keepsMemOk (tenant obj ext) : KeepsMemOk (execEviction tenant obj ext) := by
  intro s h
  unfold execEviction
  dsimp only
  split <;> simp [h]

@[simp] theorem State.refusedWait_memOk (fn page sid) : (s.refusedWait fn page sid).memOk = s.memOk := by
  unfold State.refusedWait
  dsimp only
  repeat' split
  all_goals simp

@[simp] theorem execPriResponse_keepsMemOk (fn page ok) : KeepsMemOk (execPriResponse fn page ok) :=
  fun s h => by simp [execPriResponse, h]

end Sys2Proof.Machine
end

section
/-! SUPPORT. Requests at a Hen, its built-in routines and its private words keep the canonical form. -/
namespace Sys2Proof.Machine

variable {s : State}

@[simp] theorem State.accumulate_memOk (h : s.memOk = true) (tenant at_ ty add) :
    (s.accumulate tenant at_ ty add).memOk = true := by
  simp [State.accumulate, h]

@[simp] theorem State.stageLine_memOk (h : s.memOk = true) (port x) :
    (s.stageLine port x).all State.memOk = true := by
  unfold State.stageLine
  dsimp only
  split <;> simp [h]

@[simp] theorem State.commitAt_memOk (h : s.memOk = true) (port tt) : (s.commitAt port tt).memOk = true :=
  foldl_memOk_of (fun _ _ h => by simp [h]) h

@[simp] theorem State.henAcc_memOk (h : s.memOk = true) (port r) : (s.henAcc port r).memOk = true := by
  unfold State.henAcc
  dsimp only
  split
  · split
    next t e => simpa using memOk_of_some (State.stageLine_memOk h ..) e
    · simp [h]
  · simp [h]

@[simp] theorem State.henCas_memOk (h : s.memOk = true) (r) : (s.henCas r).memOk = true := by simp [State.henCas, h]

@[simp] theorem State.henEnq_memOk (h : s.memOk = true) (r) : (s.henEnq r).memOk = true := by
  unfold State.henEnq
  dsimp only
  repeat' split
  all_goals simp [h]

@[simp] theorem State.henChase_memOk (h : s.memOk = true) (r) : (s.henChase r).memOk = true := by
  simp [State.henChase, h]

@[simp] theorem State.henRemote_memOk (h : s.memOk = true) (port x r op) :
    (s.henRemote port x r op).memOk = true := by
  unfold State.henRemote
  cases op with
  | stage at_ ty tt strand order bytes =>
    dsimp only
    split
    · simp [h]
    · split
      next t e => simpa using memOk_of_some (State.stageLine_memOk h ..) e
      · simp [h]
  | run a routine arg d5 d6 ord ok bytes =>
    dsimp only
    split <;> simp [h]
  | _ => simp [h]

@[simp] theorem State.henArrived_memOk (h : s.memOk = true) (port x r op) :
    (s.henArrived port x r op).memOk = true := by
  unfold State.henArrived
  dsimp only
  repeat' split
  all_goals simp [h]

@[simp] theorem State.serve_memOk (h : s.memOk = true) (port r) : (s.serve port r).memOk = true := by
  unfold State.serve
  split
  · exact State.henArrived_memOk h ..
  · repeat' split
    all_goals simp [h]

@[simp] theorem execHenRequest_keepsMemOk (port) : KeepsMemOk (execHenRequest port) := by
  intro s h
  unfold execHenRequest
  dsimp only
  repeat' split
  all_goals simp [h]

@[simp] theorem State.askCommits_memOk (tt) : (s.askCommits tt).memOk = s.memOk := by simp [State.askCommits]
@[simp] theorem State.discardStaged_memOk (tt) : (s.discardStaged tt).memOk = s.memOk := by
  simp [State.discardStaged]
@[simp] theorem State.committedAt_memOk (h : s.memOk = true) (tt hen) : (s.committedAt tt hen).memOk = true :=
  foldl_memOk_of (fun _ _ h => by simp [h]) (by simpa using h)

@[simp] theorem State.waitReply_memOk (h : s.memOk = true) (sid status data) :
    (s.waitReply sid status data).memOk = true := by
  unfold State.waitReply
  dsimp only
  split <;> simp [h]

@[simp] theorem State.farReply_memOk (h : s.memOk = true) (key status data) :
    (s.farReply key status data).memOk = true := by
  unfold State.farReply
  dsimp only
  split <;> simp [h]

@[simp] theorem State.henLine_memOk {f : Nat → State} {port a n} (h : s.memOk = true) (hf : ∀ k, (f k).memOk = true) :
    (s.henLine port a n f).memOk = true := by
  unfold State.henLine
  dsimp only
  split
  · simp [h]
  · split <;> simp [h, hf]

@[simp] theorem State.henWrite_memOk (h : s.memOk = true) (port a bytes) :
    (s.henWrite port a bytes).memOk = true := by
  unfold State.henWrite
  split <;> simp [h]

@[simp] theorem State.henCountRead_memOk (port a n) : (s.henCountRead port a n).memOk = s.memOk := by
  unfold State.henCountRead
  split <;> simp

@[simp] theorem execHnext_keepsMemOk : KeepsMemOk execHnext := fun s h => by simp [execHnext, h]
@[simp] theorem execHldl_keepsMemOk (a) : KeepsMemOk (execHldl a) := fun s h => by simp [execHldl, h]
theorem execHstl_keepsMemOk (a) : KeepsMemOk (execHstl a) :=
  fun s h => henOnly_memOk h fun port => State.henLine_memOk h fun x => by simp [h]

theorem execHaddl_keepsMemOk (a t) : KeepsMemOk (execHaddl a t) := by
  refine fun s h => henOnly_memOk h fun port => ?_
  split
  · simp [h]
  · exact State.henLine_memOk h fun x => by simp [h]

@[simp] theorem execHcmp_keepsMemOk (d a b x) : KeepsMemOk (execHcmp d a b x) := by
  refine fun s h => henOnly_memOk h fun p => ?_
  split <;> simp [h]

@[simp] theorem execHreply_keepsMemOk (a b) : KeepsMemOk (execHreply a b) := by
  refine fun s h => henOnly_memOk h fun p => ?_
  dsimp only
  repeat' split
  all_goals simp [h]

theorem execHstage_keepsMemOk (a b x) : KeepsMemOk (execHstage a b x) := by
  refine fun s h => henOnly_memOk h fun port => ?_
  split
  · simp [h]
  · refine State.henLine_memOk h fun p => ?_
    dsimp only
    split
    · exact h
    · split
      next t e => simpa using memOk_of_some (State.stageLine_memOk h ..) e
      · simp [h]

@[simp] theorem execHcommit_keepsMemOk (a) : KeepsMemOk (execHcommit a) := fun s h => by simp [execHcommit, h]

end Sys2Proof.Machine
end

section
/-! SUPPORT. Every step of a collective, its failures and its membership keep the canonical form. -/
namespace Sys2Proof.Machine

variable {s : State}

@[simp] theorem State.collPut_memOk (h : s.memOk = true) (sid c1 o at_ bytes) :
    (s.collPut sid c1 o at_ bytes).memOk = true := by
  simp [State.collPut, h]

@[simp] theorem collStatus_memOk (h : s.memOk = true) (sid c1 o v) : (collStatus s sid c1 o v).memOk = true := by
  simp [collStatus, h]

@[simp] theorem execColl_keepsMemOk (d c p) : KeepsMemOk (execColl d c p) := by
  refine fun s h => strandOnly_memOk h fun sid => ?_
  dsimp only
  repeat' split
  all_goals simp [h]

@[simp] theorem State.gooseMail_memOk (ctx die link dest f) : (s.gooseMail ctx die link dest f).memOk = s.memOk := by
  simp [State.gooseMail]

@[simp] theorem State.gooseSend_memOk (ctx tree dest kind unit bytes m) :
    (s.gooseSend ctx tree dest kind unit bytes m).memOk = s.memOk := by
  simp [State.gooseSend]

@[simp] theorem State.meterOwn_memOk (ctx u) : (s.meterOwn ctx u).memOk = s.memOk := by simp [State.meterOwn]
@[simp] theorem State.collLand_memOk (h : s.memOk = true) (ctx l) : (s.collLand ctx l).memOk = true := by
  simp [State.collLand, h]
@[simp] theorem State.markAll_memOk (h : s.memOk = true) (ctx) : (s.markAll ctx).memOk = true :=
  foldl_memOk_of (fun _ _ h => by simp [h]) h

/-- What serving a collective's piece does. -/
theorem collFx_keepsMemOk (ctx : Nat) : (collFx ctx).KeepsMemOk where
  read l s h := h
  write l s h := by simp [collFx, h]
  request p s h := h

@[simp] theorem State.collWrite_memOk (h : s.memOk = true) (ctx off b) : (s.collWrite ctx off b).memOk = true :=
  foldl_memOk_of (fun _ _ h => State.moveOn_memOk (collFx_keepsMemOk _) h) h
@[simp] theorem State.collEnd_memOk (h : s.memOk = true) (ctx status) : (s.collEnd ctx status).memOk = true := by
  simp [State.collEnd, h]

@[simp] theorem State.collRefuse_memOk (h : s.memOk = true) (sid bundle c1 o ssem status cur) :
    (s.collRefuse sid bundle c1 o ssem status cur).memOk = true := by
  unfold State.collRefuse
  split <;> simp [h]

@[simp] theorem State.collOpen_memOk (h : s.memOk = true) (ctx) : (s.collOpen ctx).memOk = true := by
  simp [State.collOpen, h]

@[simp] theorem State.digestStep_memOk (h : s.memOk = true) (ctx) : (s.digestStep ctx).all State.memOk = true := by

  unfold State.digestStep
  dsimp only
  split
  · rfl
  · split
    · exact all_map_memOk fun l => by simp [h]
    · split
      · simp [h]
      · split
        · rfl
        · exact all_map_memOk fun l => by simp [h]

@[simp] theorem State.marksStep_memOk (h : s.memOk = true) (ctx) : (s.marksStep ctx).all State.memOk = true := by
  unfold State.marksStep
  dsimp only
  repeat' split
  all_goals simp [h]

@[simp] theorem State.sendOn_memOk (ctx tree dest kind unit bytes m) :
    (s.sendOn ctx tree dest kind unit bytes m).memOk = s.memOk := by
  simp [State.sendOn]

@[simp] theorem State.rootResult_memOk (h : s.memOk = true) (ctx u b) : (s.rootResult ctx u b).memOk = true := by
  unfold State.rootResult
  dsimp only
  split
  · simp [h]
  · refine foldl_memOk_of (fun t m ht => ?_) h
    split
    · exact ht
    · split
      · simp [ht]
      · split <;> simp [ht]

@[simp] theorem State.unitReduced_memOk (ctx u) : (s.unitReduced ctx u).memOk = s.memOk := by simp [State.unitReduced]

@[simp] theorem State.reduceStep_memOk (h : s.memOk = true) (ctx u) :
    (s.reduceStep ctx u).all State.memOk = true := by
  unfold State.reduceStep
  dsimp only
  split
  · rfl
  · split
    · split
      · split <;> simp [h]
      · rfl
      · split
        · simp [h]
        · refine all_map_memOk fun l => ?_
          split <;> simp [h]
    · refine all_map_memOk fun l => ?_
      split <;> simp [h]

@[simp] theorem State.forwardStep_memOk (h : s.memOk = true) (ctx x) :
    (s.forwardStep ctx x).all State.memOk = true := by
  unfold State.forwardStep
  dsimp only
  repeat' split
  all_goals simp [h]

@[simp] theorem State.ownStep_memOk (h : s.memOk = true) (ctx u) : (s.ownStep ctx u).all State.memOk = true := by
  unfold State.ownStep
  dsimp only
  split <;> simp [h]

@[simp] theorem State.collStep_memOk (h : s.memOk = true) (ctx) : (s.collStep ctx).all State.memOk = true := by
  have hfwd : ((s.coll ctx).inbox.findSome? fun x => s.forwardStep ctx x).all State.memOk = true :=
    memOk_findSome? fun x => State.forwardStep_memOk h ctx x
  unfold State.collStep
  dsimp only
  split
  · rfl
  · split
    · exact State.digestStep_memOk h ctx
    · split
      · exact State.marksStep_memOk h ctx
      · split
        · simp [h]
        · split
          next t e => exact memOk_of_some hfwd e
          · split
            · simp [h]
            · refine memOk_findSome? fun u => ?_
              split
              · exact State.reduceStep_memOk h ctx u
              · exact State.ownStep_memOk h ctx u

@[simp] theorem State.hostGo_memOk (h : s.memOk = true) (ctx x) : (s.hostGo ctx x).memOk = true := by
  unfold State.hostGo
  split
  · exact State.moveOn_memOk (collFx_keepsMemOk ctx) (by simpa using h)
  · simp [h]

@[simp] theorem State.gooseTurn_memOk (h : s.memOk = true) (die tenant) :
    (s.gooseTurn die tenant).all State.memOk = true := by
  unfold State.gooseTurn
  dsimp only
  split
  next t e => exact memOk_of_some (memOk_findSome? fun ctx => State.collStep_memOk h ctx) e
  · split
    · rfl
    · exact foldl_memOk_of (fun t x ht => State.hostGo_memOk ht ..) (by simpa using h)

@[simp] theorem State.collDrain_memOk (h : s.memOk = true) (ctx) : (s.collDrain ctx).memOk = true := by
  unfold State.collDrain
  dsimp only
  split
  next status lost _ =>
    split
    · exact h
    · have hopen : (if (s.coll ctx).agreed then s else s.collOpen ctx).memOk = true := by simp [h]
      have hmark := State.markAll_memOk hopen ctx
      simp [hmark]
  · exact h

@[simp] theorem State.landArrived_memOk (h : s.memOk = true) (ctx) : (s.landArrived ctx).memOk = true := by
  refine foldl_memOk_of (fun t x ht => ?_) h
  cases e : t.forwardStep ctx x with
  | none => exact ht
  | some u => exact memOk_of_some (State.forwardStep_memOk ht ctx x) e

@[simp] theorem State.collAbort_memOk (h : s.memOk = true) (ctx status lost) :
    (s.collAbort ctx status lost).memOk = true := by
  simp [State.collAbort, h]

@[simp] theorem execCollStart_keepsMemOk (sid) : KeepsMemOk (execCollStart sid) := by
  intro s h
  unfold execCollStart
  extract_lets st ctx t die c1 unused
  split
  next cmd _ _ =>
    extract_lets lacks hd s1 g n ssem len op soff doff rlen marks s2 refuse bad trees slen c s3 s4 early
    have h1 : s1.memOk = true := by simp [s1, h]
    have h2 : s2.memOk = true := by simp [s2, h1]
    have h4 : s4.memOk = true := by simp [s4, s3, h2]
    have hrefuse (u : State) (hu : u.memOk = true) (status cur) : Result.memOk (refuse u status cur) = true := by simp [refuse, hu]
    clear_value s1 s2 s4 refuse bad
    refine Result.memOk_of_ite rfl (Result.memOk_of_ite (by simp [h]) (Result.memOk_of_ite (hrefuse _ h2 ..) ?_))
    split
    · exact hrefuse _ (by simp [h2]) ..
    · refine Result.memOk_of_ite (hrefuse _ h2 ..) (Result.memOk_of_ite (hrefuse _ h2 ..) ?_)
      refine Result.memOk_of_ite (hrefuse _ h2 ..) ?_
      exact State.memOk_of_ite (State.collOpen_memOk h4 _) (State.memOk_of_ite h4 (State.collAbort_memOk h4 ..))
  · rfl

@[simp] theorem execCollComplete_keepsMemOk (ctx) : KeepsMemOk (execCollComplete ctx) :=
  fun s h => by simp [execCollComplete, h]

@[simp] theorem State.gooseAll_memOk (ctx die mgen no trees m) :
    (s.gooseAll ctx die mgen no trees m).memOk = s.memOk :=
  foldl_memOk fun _ _ => foldl_memOk fun _ _ => State.gooseMail_memOk ..

@[simp] theorem State.sendAborts_memOk (ctx lost) : (s.sendAborts ctx lost).memOk = s.memOk := by
  simp [State.sendAborts]
@[simp] theorem execCollTimeout_keepsMemOk (ctx pkg) : KeepsMemOk (execCollTimeout ctx pkg) :=
  fun s h => by simp [execCollTimeout, h]
@[simp] theorem execAbort_keepsMemOk (ctx pkg mgen lost) : KeepsMemOk (execAbort ctx pkg mgen lost) :=
  fun s h => by simp [execAbort, h]

@[simp] theorem State.linkGone_memOk (h : s.memOk = true) (key) : (s.linkGone key).memOk = true := by
  refine foldl_memOk_of (fun t ctx ht => ?_) h
  split <;> simp [ht]

@[simp] theorem State.collRefused_memOk (h : s.memOk = true) (ctx) : (s.collRefused ctx).memOk = true := by
  simp [State.collRefused, h]
@[simp] theorem execHoldSend_keepsMemOk (ctx) : KeepsMemOk (execHoldSend ctx) := fun s h => by simp [execHoldSend, h]
@[simp] theorem State.hear_memOk (ctx pkg) : (s.hear ctx pkg).memOk = s.memOk := by simp [State.hear]
@[simp] theorem execHold_keepsMemOk (ctx pkg) : KeepsMemOk (execHold ctx pkg) := fun s h => by simp [execHold, h]

@[simp] theorem State.gooseMsg_memOk (h : s.memOk = true) (f) : (s.gooseMsg f).memOk = true := by
  unfold State.gooseMsg
  extract_lets c t run
  have hrun (r : Result) (hr : Result.memOk r = true) : (run r).memOk = true := Result.orElse_memOk hr h
  split
  · exact hrun _ (execHold_keepsMemOk _ _ s h)
  · exact State.memOk_of_ite (hrun _ (execAbort_keepsMemOk _ _ _ _ s h)) (by simp [h])
  · simp [h]

@[simp] theorem execMembershipAgree_keepsMemOk (tt lost) : KeepsMemOk (execMembershipAgree tt lost) :=
  fun s h => by simp [execMembershipAgree, h]

@[simp] theorem execRecordInstall_keepsMemOk (tt) : KeepsMemOk (execRecordInstall tt) := by
  intro s h
  unfold execRecordInstall
  dsimp only
  split <;> simp [h]

end Sys2Proof.Machine
end

section
/-! SUPPORT. The moulds of the V-slot words keep the canonical form. -/
namespace Sys2Proof.Machine

variable {s : State}

@[simp] theorem vUnit_memOk (h : s.memOk = true) (occ f) : Result.memOk (vUnit s occ f) = true := by simp [vUnit, h]

@[simp] theorem vGuarded_memOk (h : s.memOk = true) (occ lat z d g f) :
    Result.memOk (vGuarded s occ lat z d g f) = true := by
  simp [vGuarded, h]

@[simp] theorem vElem_memOk (h : s.memOk = true) (op lat z d a b g t) :
    Result.memOk (vElem s op lat z d a b g t) = true := by
  simp [vElem, h]

@[simp] theorem vBits_memOk (h : s.memOk = true) (z d a b g f) : Result.memOk (vBits s z d a b g f) = true := by
  simp [vBits, h]
@[simp] theorem vShift_memOk (h : s.memOk = true) (z d a b g t f) : Result.memOk (vShift s z d a b g t f) = true := by
  simp [vShift, h]

@[simp] theorem vHalf_memOk (h : s.memOk = true) (f op lat z d a b g) :
    Result.memOk (vHalf s f op lat z d a b g) = true := by
  simp [vHalf, h]

@[simp] theorem vCompare_memOk (h : s.memOk = true) (cond p a b g t) :
    Result.memOk (vCompare s cond p a b g t) = true := by
  simp [vCompare, h]

@[simp] theorem vWhole_memOk (h : s.memOk = true) (lat d f) : Result.memOk (vWhole s lat d f) = true := by
  simp [vWhole, h]

@[simp] theorem vMove_memOk (h : s.memOk = true) (lat z d a g src) :
    Result.memOk (vMove s lat z d a g src) = true := by
  simp [vMove, h]

@[simp] theorem vMask_memOk (h : s.memOk = true) (z d a m pairs) : Result.memOk (vMask s z d a m pairs) = true := by
  simp [vMask, h]

@[simp] theorem vReduce'_memOk (h : s.memOk = true) (lat q z d a o g t groups groupOf members) :
    Result.memOk (vReduce' s lat q z d a o g t groups groupOf members) = true := by
  simp [vReduce', h]

@[simp] theorem vModular_memOk (h : s.memOk = true) (lat muls z d g f) :
    Result.memOk (vModular s lat muls z d g f) = true := by
  simp [vModular, h]

@[simp] theorem vButterfly_memOk (h : s.memOk = true) (gs z d a b g k) :
    Result.memOk (vButterfly s gs z d a b g k) = true := by
  simp [vButterfly, h]

@[simp] theorem pWhole_memOk (h : s.memOk = true) (d f) : Result.memOk (pWhole s d f) = true := by simp [pWhole, h]
@[simp] theorem pCount_memOk (h : s.memOk = true) (d f) : Result.memOk (pCount s d f) = true := by simp [pCount, h]

end Sys2Proof.Machine
end

section
/-! SUPPORT. VCVT keeps the canonical form. -/
namespace Sys2Proof.Machine

variable {s : State}

@[simp] theorem execVcvt_keepsMemOk (z d a x g) : KeepsMemOk (execVcvt z d a x g) := by
  refine fun s h => strandOnly_memOk h fun sid => ?_
  dsimp only
  repeat' split
  all_goals simp [h]

end Sys2Proof.Machine
end

section
/-! SUPPORT. The moulds of the X-slot commands, drains and leases keep the canonical form. -/
namespace Sys2Proof.Machine

variable {s : State}

@[simp] theorem State.occupy_memOk (sid occ) : (s.occupy sid occ).memOk = s.memOk := by simp [State.occupy]

@[simp] theorem xCommand_memOk {f : State → Nat → State} {acc occ} (h : s.memOk = true)
    (hf : ∀ t k, t.memOk = s.memOk → (f t k).memOk = true) :
    Result.memOk (xCommand s acc occ f) = true := by
  simp [xCommand, h, hf]

@[simp] theorem mmaWord_memOk {f : State → Nat → BitVec 64 → State} {acc ft rs} (h : s.memOk = true)
    (hf : ∀ t k v, t.memOk = s.memOk → (f t k v).memOk = true) :
    Result.memOk (mmaWord s acc ft rs f) = true := by
  refine xCommand_memOk h fun t k ht => ?_
  dsimp only
  split
  · simp [h, ht]
  · exact hf t k _ ht

@[simp] theorem mmaReg_memOk (h : s.memOk = true) (acc a b ft rs) : Result.memOk (mmaReg s acc a b ft rs) = true := by
  simp [mmaReg, h]

@[simp] theorem mmaMem_memOk (h : s.memOk = true) (acc a b ft rs) : Result.memOk (mmaMem s acc a b ft rs) = true := by
  refine mmaWord_memOk h fun t sid e ht => ?_
  dsimp only
  split
  · simp [h, ht]
  · split <;> simp [h, ht]

@[simp] theorem execMzero_keepsMemOk (c) : KeepsMemOk (execMzero c) := fun s h => by simp [execMzero, h]
@[simp] theorem execMload_keepsMemOk (c a) : KeepsMemOk (execMload c a) := fun s h => by simp [execMload, h]
@[simp] theorem execMdrain_keepsMemOk (c a b f) : KeepsMemOk (execMdrain c a b f) := fun s h => by simp [execMdrain, h]

@[simp] theorem execMdrains_keepsMemOk (c a b f) : KeepsMemOk (execMdrains c a b f) := by
  refine fun s h => strandOnly_memOk h fun sid => ?_
  dsimp only
  repeat' split
  all_goals simp [h]

@[simp] theorem execMlease_keepsMemOk : KeepsMemOk execMlease := fun s h => by simp [execMlease, h]
@[simp] theorem execMfree_keepsMemOk : KeepsMemOk execMfree := fun s h => by simp [execMfree, h]

@[simp] theorem execLeaseGrant_keepsMemOk (sid) : KeepsMemOk (execLeaseGrant sid) := by
  intro s h
  unfold execLeaseGrant
  dsimp only
  split <;> simp [h]

end Sys2Proof.Machine
end

section
/-! SUPPORT. The timed memory words keep the canonical form. -/
namespace Sys2Proof.Machine

variable {s : State}

@[simp] theorem tPort_memOk {f : State → Nat → State} {occ} (h : s.memOk = true)
    (hf : ∀ t k, t.memOk = s.memOk → (f t k).memOk = true) :
    Result.memOk (tPort s occ f) = true := by
  simp [tPort, h, hf]

@[simp] theorem State.vload_memOk (sid r c x resid clear) : (s.vload sid r c x resid clear).memOk = s.memOk := by
  unfold State.vload
  dsimp only
  split <;> simp

@[simp] theorem State.vstore_memOk (sid r c x resid clear) : (s.vstore sid r c x resid clear).memOk = s.memOk := by
  unfold State.vstore
  dsimp only
  split <;> simp

@[simp] theorem execVld_keepsMemOk (r c k p) : KeepsMemOk (execVld r c k p) := fun s h => by simp [execVld, h]
@[simp] theorem execVst_keepsMemOk (r c k p) : KeepsMemOk (execVst r c k p) := fun s h => by simp [execVst, h]
@[simp] theorem execVldx_keepsMemOk (r c k p) : KeepsMemOk (execVldx r c k p) := fun s h => by simp [execVldx, h]
@[simp] theorem execVstx_keepsMemOk (r c k p) : KeepsMemOk (execVstx r c k p) := fun s h => by simp [execVstx, h]

@[simp] theorem execPld_keepsMemOk (r c k d) : KeepsMemOk (execPld r c k d) := by
  refine fun s h => strandOnly_memOk h fun sid => ?_
  dsimp only
  repeat' split
  all_goals simp [h]

@[simp] theorem execPst_keepsMemOk (r c k d) : KeepsMemOk (execPst r c k d) := by
  refine fun s h => strandOnly_memOk h fun sid => ?_
  dsimp only
  repeat' split
  all_goals simp [h]

@[simp] theorem execCld_keepsMemOk (r c k i) : KeepsMemOk (execCld r c k i) := by
  refine fun s h => strandOnly_memOk h fun sid => ?_
  dsimp only
  repeat' split
  all_goals simp [h]

@[simp] theorem execCst_keepsMemOk (r c k i) : KeepsMemOk (execCst r c k i) := by
  refine fun s h => strandOnly_memOk h fun sid => ?_
  dsimp only
  repeat' split
  all_goals simp [h]

end Sys2Proof.Machine
end

section
/-! SUPPORT. Timed writes performing, sync words and sync meetings keep the canonical form. -/
namespace Sys2Proof.Machine

variable {s : State}

@[simp] theorem State.sampleStrand_memOk (sid) : (s.sampleStrand sid).memOk = s.memOk := by simp [State.sampleStrand]
@[simp] theorem State.sampleAll_memOk : s.sampleAll.memOk = s.memOk := by simp [State.sampleAll]
@[simp] theorem State.spendLost_memOk (sid addrs) : (s.spendLost sid addrs).memOk = s.memOk := by
  simp [State.spendLost]

@[simp] theorem State.syncStage_memOk (h : s.memOk = true) : s.syncStage.memOk = true := by
  have hsync : ((SMap.keys s.strands).foldl (fun s sid => (s.strand sid).landing.foldl (fun s p =>
      (s.arrivals sid p).foldl (fun s x => s.syncArrive x.1 x.2) s) s) s).memOk = true :=
    foldl_memOk_of (fun _ _ h => foldl_memOk_of (fun _ _ h => foldl_memOk_of (fun _ _ h => by simp [h]) h) h) h
  simp [State.syncStage, hsync]

@[simp] theorem State.armStage_memOk (h : s.memOk = true) : s.armStage.memOk = true := by
  have harm : (s.arming.foldl (fun s x => s.syncArm x.1 x.2) s).memOk = true := foldl_memOk_of (fun _ _ h => by simp [h]) h
  simp [State.armStage, harm]

@[simp] theorem State.landLoad_memOk (sid dst addrs got) : (s.landLoad sid dst addrs got).memOk = s.memOk := by
  unfold State.landLoad
  dsimp only
  repeat' split
  all_goals simp

@[simp] theorem State.landStore_memOk (h : s.memOk = true) (sid bytes resid clear lanes) :
    (s.landStore sid bytes resid clear lanes).memOk = true := by
  simp [State.landStore, h]

@[simp] theorem State.landOx_memOk (h : s.memOk = true) (sid dst src got fixed rpred line) :
    (s.landOx sid dst src got fixed rpred line).memOk = true := by
  unfold State.landOx
  split <;> simp [h]

@[simp] theorem State.sendOwn_memOk (h : s.memOk = true) : s.sendOwn.memOk = true := by simp [State.sendOwn, h]
@[simp] theorem State.countTt_memOk (tt src) : (s.countTt tt src).memOk = s.memOk := foldl_memOk fun _ _ => State.modStrand_memOk ..
@[simp] theorem State.landMma_memOk (old sid t e a b sc rs) : (s.landMma old sid t e a b sc rs).memOk = s.memOk := by
  simp [State.landMma]

@[simp] theorem State.land_memOk (h : s.memOk = true) (old sid e) : (s.land old sid e).memOk = true := by
  unfold State.land
  split <;> simp [h]

@[simp] theorem execTimedPerform_keepsMemOk (tt) : KeepsMemOk (execTimedPerform tt) := by
  intro s h
  unfold execTimedPerform
  split
  · rfl
  · refine foldl_memOk_of (fun t x ht => ?_) (by simpa using h)
    dsimp only
    repeat' split
    all_goals simp [ht]

@[simp] theorem State.meetAt_memOk (sid v) : (s.meetAt sid v).memOk = s.memOk := by simp [State.meetAt]
@[simp] theorem execSyncMeeting_keepsMemOk (tt lc) : KeepsMemOk (execSyncMeeting tt lc) :=
  fun s h => by simp [execSyncMeeting, h]

end Sys2Proof.Machine
end

section
/-! SUPPORT. Completion records and the advance of a launch keep the canonical form. -/
namespace Sys2Proof.Machine

variable {s : State}

@[simp] theorem State.flushOne_memOk (h : s.memOk = true) (fn q) : (s.flushOne fn q).memOk = true := by
  unfold State.flushOne
  dsimp only
  split
  · split
    · simp [h]
    · exact h
  · exact h

@[simp] theorem State.flush_memOk (h : s.memOk = true) (fn q) : (s.flush fn q).memOk = true := by
  have hall : ((s.queue fn q).comps.foldl (fun s _ => s.flushOne fn q) s).memOk = true :=
    foldl_memOk_of (fun _ _ h => by simp [h]) h
  simp [State.flush, hall]

@[simp] theorem State.complete_memOk (h : s.memOk = true) (p opc status seq prom data) :
    (s.complete p opc status seq prom data).memOk = true := by
  simp [State.complete, h]

@[simp] theorem State.setLaunch_memOk (n l) : (s.setLaunch n l).memOk = s.memOk := by simp [State.setLaunch]
@[simp] theorem State.setNode_memOk (lid i v) : (s.setNode lid i v).memOk = s.memOk := by simp [State.setNode]

@[simp] theorem State.dispatch_memOk (kind lid node tt cls place) :
    (s.dispatch kind lid node tt cls place).memOk = s.memOk := by
  simp [State.dispatch]

@[simp] theorem State.endLaunch_memOk (h : s.memOk = true) (lid) : (s.endLaunch lid).memOk = true := by
  simp [State.endLaunch, h]
@[simp] theorem State.advancePass_memOk (lid) : (s.advancePass lid).memOk = s.memOk := by simp [State.advancePass]
@[simp] theorem State.advance_memOk (h : s.memOk = true) (lid) : (s.advance lid).memOk = true := by
  simp [State.advance, h]

@[simp] theorem State.nodeDone_memOk (h : s.memOk = true) (lid node next) :
    (s.nodeDone lid node next).memOk = true := by
  unfold State.nodeDone
  dsimp only
  split <;> simp [h]

@[simp] theorem State.nodeFailed_memOk (h : s.memOk = true) (l n st d) : (s.nodeFailed l n st d).memOk = true := by
  simp [State.nodeFailed, h]
@[simp] theorem State.chargeGrant_memOk (lid) : (s.chargeGrant lid).memOk = s.memOk := by simp [State.chargeGrant]
@[simp] theorem State.startLaunch_memOk (h : s.memOk = true) (p r) : (s.startLaunch p r).memOk = true := by
  simp [State.startLaunch, h]

end Sys2Proof.Machine
end

section
/-! SUPPORT. Writing a save area and restoring from it keep the canonical form. -/
namespace Sys2Proof.Machine

variable {s : State}

@[simp] theorem State.freeObj_memOk (tenant) : (s.freeObj tenant).2.memOk = s.memOk := by simp [State.freeObj]

@[simp] theorem State.areaObject_memOk (h : s.memOk = true) (tenant die len a cells) :
    (s.areaObject tenant die len a cells).2.memOk = true := by
  simp [State.areaObject, h]

@[simp] theorem State.writeSave_memOk (h : s.memOk = true) (tt rot stops) :
    (s.writeSave tt rot stops).all State.memOk = true := by
  unfold State.writeSave
  dsimp only
  split
  · rfl
  next a t e =>
    have ht := State.newExtent_memOk h e
    simp [ht]

@[simp] theorem State.restoreBanks_memOk (h : s.memOk = true) (tt) : (s.restoreBanks tt).memOk = true := by
  simp [State.restoreBanks, h]

@[simp] theorem State.restoreStrand_memOk (m sid record off map) :
    (s.restoreStrand m sid record off map).memOk = s.memOk := by
  simp [State.restoreStrand]

@[simp] theorem State.restoreCore_memOk (m tt lc off maps) : (s.restoreCore m tt lc off maps).1.memOk = s.memOk := by
  simp [State.restoreCore]

@[simp] theorem State.restoreArea_memOk (h : s.memOk = true) (tt) : (s.restoreArea tt).memOk = true := by
  refine State.restoreBanks_memOk (foldl_fst_memOk (fun p lc hp => ?_) (foldl_fst_memOk (fun p x hp => ?_) h)) tt
  · simp [hp]
  · simp [hp]

@[simp] theorem State.takeTotals_memOk (tt) : (s.takeTotals tt).memOk = s.memOk := by
  unfold State.takeTotals
  split <;> simp

@[simp] theorem State.dropSave_memOk (h : s.memOk = true) (tt) : (s.dropSave tt).memOk = true := by
  unfold State.dropSave
  dsimp only
  split <;> simp [h]

end Sys2Proof.Machine
end

section
/-! SUPPORT. Placement, pinning, admission, compaction and grants keep the canonical form. -/
namespace Sys2Proof.Machine

variable {s : State}

@[simp] theorem State.farSpace_memOk (pkg die level size) : (s.farSpace pkg die level size).2.memOk = s.memOk := by
  simp [State.farSpace]

@[simp] theorem State.sendExtent_memOk (h : s.memOk = true) (tenant obj ext new) :
    (s.sendExtent tenant obj ext new).memOk = true := by
  unfold State.sendExtent
  dsimp only
  split <;> simp [h]

@[simp] theorem State.moveTo_memOk (h : s.memOk = true) (tenant obj i pkg die) :
    (s.moveTo tenant obj i pkg die).all State.memOk = true := by
  unfold State.moveTo
  dsimp only
  split
  · split
    next a t e => simpa using State.moveExtent_memOk (memOk_of_snd (by simpa using h) e) ..
    · rfl
  · split
    next a t e => simpa using State.sendExtent_memOk (memOk_of_snd (by simpa using h) e) ..
    · rfl

@[simp] theorem State.moveHome_memOk (h : s.memOk = true) (tenant obj pkg die) :
    (s.moveHome tenant obj pkg die).all State.memOk = true := by
  unfold State.moveHome
  dsimp only
  rw [Option.all_map]
  refine List.foldlRecOn (motive := fun o : Option State => o.all State.memOk = true) _ _ (by simpa using h) fun acc hacc i _ => ?_
  repeat' split
  · rfl
  · exact hacc
  · exact State.moveTo_memOk (by simpa using hacc) ..
  · exact hacc

theorem State.pinOne_memOk {t o l d} {u : State} (h : s.memOk = true) (e : s.pinOne t o l d = .ok u) :
    u.memOk = true := by
  unfold State.pinOne at e
  dsimp only at e
  repeat' split at e
  all_goals cases e
  · exact h
  · exact h
  next v hv _ _ =>
    have : v.memOk = true := by
      split at hv
      · exact memOk_of_some (State.moveHome_memOk h ..) hv
      · exact Option.some.inj hv ▸ h
    simpa using this

theorem State.pinAll_memOk {key l} {u : State} (h : s.memOk = true) (e : s.pinAll key l = .ok u) :
    u.memOk = true := by
  revert e u
  unfold State.pinAll
  refine List.foldlRecOn (motive := fun o : Except Nat State => ∀ {u}, o = .ok u → u.memOk = true) _ _ ?_
    fun acc hacc x _ u e => ?_
  · rintro u ⟨⟩
    exact h
  · split at e
    · cases e
    · split at e
      · cases e
      next t v hv =>
        have := State.pinOne_memOk (hacc rfl) hv
        cases e
        simp [this]

@[simp] theorem State.unpin_memOk (key keep) : (s.unpin key keep).memOk = s.memOk := by
  simp [State.unpin]
@[simp] theorem State.scrubBanks_memOk (h : s.memOk = true) (t) : (s.scrubBanks t).memOk = true := by
  simp [State.scrubBanks, h]
@[simp] theorem State.dropStrands_memOk (key) : (s.dropStrands key).memOk = s.memOk := by simp [State.dropStrands]
@[simp] theorem State.notify_memOk (bit) : (s.notify bit).memOk = s.memOk := by simp [State.notify]

@[simp] theorem State.refuse_memOk (h : s.memOk = true) (r key code rkind sug) :
    (s.refuse r key code rkind sug).memOk = true := by
  simp [State.refuse, h]

@[simp] theorem State.refusePhase_memOk (h : s.memOk = true) (r key) : (s.refusePhase r key).memOk = true := by
  simp [State.refusePhase, h]
@[simp] theorem State.enterPairs_memOk (key pair) : (s.enterPairs key pair).memOk = s.memOk := by
  simp [State.enterPairs]
@[simp] theorem State.startStrands_memOk (key caps regs) : (s.startStrands key caps regs).memOk = s.memOk :=
  foldl_memOk fun _ _ => State.setStrand_memOk ..
@[simp] theorem State.foreignStrands_memOk (key) : (s.foreignStrands key).memOk = s.memOk := by
  simp [State.foreignStrands]
@[simp] theorem State.wakeStrands_memOk (key g) : (s.wakeStrands key g).memOk = s.memOk := by simp [State.wakeStrands]
@[simp] theorem State.inherit_memOk (h : s.memOk = true) (key heir) : (s.inherit key heir).memOk = true := by
  simp [State.inherit, h]
@[simp] theorem State.loadCode_memOk (key) : (s.loadCode key).memOk = s.memOk := by simp [State.loadCode]
@[simp] theorem State.dropCode_memOk (key) : (s.dropCode key).memOk = s.memOk := by simp [State.dropCode]

@[simp] theorem State.grant_memOk (h : s.memOk = true) (r key pair) : (s.grant r key pair).memOk = true := by
  unfold State.grant
  dsimp only
  split
  · refine State.dropSave_memOk ((foldl_memOk fun _ _ => State.modTt_memOk ..).trans ?_) _
    simp only [State.modTt_memOk, State.wakeStrands_memOk, State.takeTotals_memOk]
    refine State.restoreArea_memOk ?_ _
    simp [h]
  · rw [State.startStrands_memOk]
    split <;> simp [h]

@[simp] theorem State.rise_memOk (key) : (s.rise key).memOk = s.memOk := by
  unfold State.rise
  dsimp only
  repeat' split
  all_goals simp

@[simp] theorem State.promote_memOk : s.promote.memOk = s.memOk := by simp [State.promote]
@[simp] theorem State.freePairs_memOk (key) : (s.freePairs key).memOk = s.memOk := by simp [State.freePairs]
@[simp] theorem State.leave_memOk (key keep) : (s.leave key keep).memOk = s.memOk := by simp [State.leave]

@[simp] theorem State.giveBack_memOk (r key) : (s.giveBack r key).memOk = s.memOk := by
  unfold State.giveBack
  split <;> simp

@[simp] theorem State.preemptFor_memOk (h : s.memOk = true) (r key) : (s.preemptFor r key).memOk = true := by
  unfold State.preemptFor
  split <;> simp [h]

@[simp] theorem State.findPair_memOk (h : s.memOk = true) (r key) : (s.findPair r key).memOk = true := by
  unfold State.findPair
  dsimp only
  repeat' split
  all_goals simp [h]

/-- A request prepared or refused: the state that is left. -/
def preparedMemOk : Except State State → Bool
  | .ok s => s.memOk
  | .error s => s.memOk

theorem State.prepare_memOk (h : s.memOk = true) (r key objs place) :
    preparedMemOk (s.prepare r key objs place) = true := by
  unfold State.prepare
  dsimp only
  split
  · simp [preparedMemOk, h]
  · split
    · simp [preparedMemOk, h]
    · split
      · simp [preparedMemOk, h]
      · split
        · simp [preparedMemOk, h]
        next t e =>
          have ht := State.pinAll_memOk (by simpa using h) e
          split <;> simp [preparedMemOk, ht]

@[simp] theorem State.planGrant_memOk (h : s.memOk = true) (r key objs plan) :
    (s.planGrant r key objs plan).all State.memOk = true := by
  unfold State.planGrant
  dsimp only
  split
  · rfl
  · split
    · rfl
    next t e =>
      have ht : t.memOk = true := by
        simpa [e, preparedMemOk] using State.prepare_memOk h r key objs (.ok (plan.place.map fun p => { p with banks := [] }))
      split
      · simp [ht]
      · rfl

@[simp] theorem State.setNodeOf_memOk (fn graph node n) : (s.setNodeOf fn graph node n).memOk = s.memOk := by
  simp [State.setNodeOf]

@[simp] theorem State.freshNode_memOk (r n) : (s.freshNode r n).2.2.memOk = s.memOk := by
  unfold State.freshNode
  repeat' split
  all_goals simp

@[simp] theorem State.missPlan_memOk (r fn) : (s.missPlan r fn).memOk = s.memOk := by simp [State.missPlan]
@[simp] theorem State.dropRequest_memOk (h : s.memOk = true) (r) : (s.dropRequest r).memOk = true := by
  simp [State.dropRequest, h]

@[simp] theorem State.admitReq_memOk (h : s.memOk = true) (r) : (s.admitReq r).memOk = true := by
  unfold State.admitReq
  refine State.memOk_of_ite (by simp [h]) ?_
  split
  · simp [h]
  next n _ =>
    generalize hp : (if r.kind = 0 then s.freshNode r n else (n, true, s)) = p
    have ht : p.2.2.memOk = true := by
      rw [← hp]
      split <;> simp [h]
    obtain ⟨n, routed, t⟩ := p
    dsimp -zeta only at ht ⊢
    split
    · simp [ht]
    next caps regs _ =>
      extract_lets key fresh placed u t' objs plan v
      have hu : u.memOk = true := by simp [u, placed, ht]
      refine State.memOk_of_ite (by simp [hu]) (State.memOk_of_ite (by simp [hu]) ?_)
      refine State.memOk_of_ite (by simp [hu]) (State.memOk_of_ite (by simp [hu]) ?_)
      split
      next w e =>
        obtain ⟨_, -, hw⟩ := Option.bind_eq_some_iff.mp e
        exact memOk_of_some (State.planGrant_memOk hu ..) hw
      · have hv : v.memOk = true := by simp [v, hu]
        have hprep := State.prepare_memOk hv r key objs (v.askPlace r t')
        split
        next e => rwa [e] at hprep
        next e =>
          rw [e] at hprep
          exact State.findPair_memOk hprep ..

@[simp] theorem execAdmit_keepsMemOk : KeepsMemOk execAdmit := by
  intro s h
  unfold execAdmit
  split <;> simp [h]

@[simp] theorem State.unhold_memOk (key) : (s.unhold key).memOk = s.memOk := by simp [State.unhold]
@[simp] theorem State.dropCompaction_memOk (c) : (s.dropCompaction c).memOk = s.memOk := by
  simp [State.dropCompaction]

@[simp] theorem execCompactionUpdate_keepsMemOk : KeepsMemOk execCompactionUpdate := by
  intro s h
  unfold execCompactionUpdate
  split
  · rfl
  · split
    · rfl
    · simp [h]

@[simp] theorem execCompactTimeout_keepsMemOk : KeepsMemOk execCompactTimeout := by
  intro s h
  unfold execCompactTimeout
  dsimp only
  repeat' split
  all_goals simp [h]

@[simp] theorem execAgeRaise_keepsMemOk (req) : KeepsMemOk (execAgeRaise req) := by
  intro s h
  unfold execAgeRaise
  split <;> simp [h]

@[simp] theorem State.sendArea_memOk (h : s.memOk = true) (tt pkg) : (s.sendArea tt pkg).memOk = true := by
  unfold State.sendArea
  dsimp only
  split <;> simp [h]

@[simp] theorem State.acceptArea_memOk (h : s.memOk = true) (m) : (s.acceptArea m).memOk = true := by
  unfold State.acceptArea
  split
  next n a t _ e =>
    have ht := State.newExtent_memOk h e
    simp [ht]
  · exact h

@[simp] theorem execPlaceTableWrite_keepsMemOk (tt table) : KeepsMemOk (execPlaceTableWrite tt table) :=
  fun s h => by simp [execPlaceTableWrite, h]
@[simp] theorem execTokenWindow_keepsMemOk : KeepsMemOk execTokenWindow := fun s h => by simp [execTokenWindow, h]
@[simp] theorem execRefreshWindow_keepsMemOk : KeepsMemOk execRefreshWindow := fun s h => by
  simp [execRefreshWindow, h]

end Sys2Proof.Machine
end

section
/-! SUPPORT. Barriers, ends, stops, machine checks and pre-emption keep the canonical form. -/
namespace Sys2Proof.Machine

variable {s : State}

@[simp] theorem State.setLink_memOk (n l) : (s.setLink n l).memOk = s.memOk := by simp [State.setLink]
@[simp] theorem State.sendBar_memOk (dest m) : (s.sendBar dest m).memOk = s.memOk := by simp [State.sendBar]
@[simp] theorem State.dropBars_memOk (tt) : (s.dropBars tt).memOk = s.memOk := by simp [State.dropBars]
@[simp] theorem State.haltAll_memOk (tt) : (s.haltAll tt).memOk = s.memOk := by simp [State.haltAll]
@[simp] theorem State.stepFail_memOk (tt aux) : (s.stepFail tt aux).memOk = s.memOk := by simp [State.stepFail]

@[simp] theorem State.setSlot_memOk (kind inst e w) : (s.setSlot kind inst e w).memOk = s.memOk := by
  unfold State.setSlot
  split <;> simp

@[simp] theorem State.layStep_memOk (tt m open_) : (s.layStep tt m open_).memOk = s.memOk := by simp [State.layStep]
@[simp] theorem State.arrive_memOk (sid) : (s.arrive sid).memOk = s.memOk := by simp [State.arrive]

@[simp] theorem execMstepArrival_keepsMemOk (sid) : KeepsMemOk (execMstepArrival sid) := by
  intro s h
  unfold execMstepArrival
  dsimp only
  split <;> simp [h]

@[simp] theorem State.takePromotion_memOk (tt) : (s.takePromotion tt).memOk = s.memOk := by
  unfold State.takePromotion
  dsimp only
  split <;> simp

@[simp] theorem State.meterBarrier_memOk (tt b sid) : (s.meterBarrier tt b sid).memOk = s.memOk := by
  simp [State.meterBarrier]
@[simp] theorem State.settleStart_memOk (tt g b) : (s.settleStart tt g b).memOk = s.memOk := by
  simp [State.settleStart]
@[simp] theorem State.openStart_memOk (tt after b) : (s.openStart tt after b).memOk = s.memOk := by
  simp [State.openStart]

@[simp] theorem State.reportUp_memOk (tt) : (s.reportUp tt).memOk = s.memOk := by
  unfold State.reportUp
  dsimp only
  repeat' split
  all_goals simp

@[simp] theorem State.sendFail_memOk (tt from_) : (s.sendFail tt from_).memOk = s.memOk := by simp [State.sendFail]

@[simp] theorem State.closeBarrier_memOk (tt) : (s.closeBarrier tt).memOk = s.memOk := by
  unfold State.closeBarrier
  dsimp only
  repeat' split
  all_goals simp

@[simp] theorem State.failStep_memOk (tt) : (s.failStep tt).memOk = s.memOk := by simp [State.failStep]
@[simp] theorem State.passBar_memOk (from_ m) : (s.passBar from_ m).memOk = s.memOk := by simp [State.passBar]

@[simp] theorem execBarrierMessage_keepsMemOk (link msg) : KeepsMemOk (execBarrierMessage link msg) := by
  intro s h
  unfold execBarrierMessage
  dsimp only
  repeat' split
  all_goals simp [h]

@[simp] theorem State.tellStop_memOk (tt) : (s.tellStop tt).memOk = s.memOk := by simp [State.tellStop]

@[simp] theorem State.openStep_memOk (tt b) : (s.openStep tt b).memOk = s.memOk := by
  unfold State.openStep
  dsimp only
  split
  · simp
  · simp

@[simp] theorem execBarrierRelease_keepsMemOk (tt) : KeepsMemOk (execBarrierRelease tt) := by
  intro s h
  unfold execBarrierRelease
  dsimp only
  split <;> simp [h]

@[simp] theorem State.poisonGates_memOk (h : s.memOk = true) (tt) : (s.poisonGates tt).memOk = true := by
  refine foldl_memOk_of (fun s x h => ?_) h
  dsimp only
  split <;> simp [h]

@[simp] theorem State.departTt_memOk (tt) : (s.departTt tt).memOk = s.memOk := by simp [State.departTt]

@[simp] theorem State.wipeObjects_memOk (h : s.memOk = true) (n) : (s.wipeObjects n).memOk = true := by
  have hfree : ((s.tenant n).objs.foldl (fun s o => s.freeExtents n o.2.entry 0) s).memOk = true :=
    foldl_memOk_of (fun _ _ h => by simp [h]) h
  simp [State.wipeObjects, hfree]

@[simp] theorem State.finishTeardown_memOk (tenant) : (s.finishTeardown tenant).memOk = s.memOk := by
  simp [State.finishTeardown]

@[simp] theorem State.rerunAdmit_memOk (h : s.memOk = true) (req) : (s.rerunAdmit req).memOk = true := by
  unfold State.rerunAdmit
  dsimp only
  split <;> simp [h]

@[simp] theorem State.gone_memOk (h : s.memOk = true) (tt) : (s.gone tt).memOk = true := by
  unfold State.gone
  dsimp only
  split <;> simp [h]

@[simp] theorem State.bequeath_memOk (heir) : (s.bequeath heir).memOk = s.memOk := by simp [State.bequeath]

@[simp] theorem State.startSuccessor_memOk (h : s.memOk = true) (tt j) : (s.startSuccessor tt j).memOk = true := by
  unfold State.startSuccessor
  extract_lets t s1 req heir fresh
  have h1 : s1.memOk = true := by simp [s1, h]
  have hfresh (u : State) (hu : u.memOk = true) : (fresh u).memOk = true := by simp [fresh, hu]
  split
  · exact hfresh _ h1
  next n _ =>
    have h2 : (s1.freshNode req n).2.2.memOk = true := by simp [h1]
    generalize s1.freshNode req n = p at h2 ⊢
    obtain ⟨n, routed, u⟩ := p
    dsimp -zeta only at h2 ⊢
    extract_lets key f room shape cut rest s3
    split
    · exact hfresh _ h2
    next place _ =>
      extract_lets placed s4
      have h3 : s3.memOk = true := by simp [s3, room, h2]
      have h4 : s4.memOk = true := by simp [s4, placed, h3]
      refine State.memOk_of_ite (hfresh _ h2) ?_
      split
      · simp [h4]
      next caps regs _ =>
        extract_lets s5
        have h5 : s5.memOk = true := by simp [s5, h4]
        refine State.memOk_of_ite (by simp [h5]) (State.memOk_of_ite (by simp [h5]) (State.memOk_of_ite (by simp [h5]) ?_))
        have hprep := State.prepare_memOk h5 req key (timedObjs n.image caps) (.ok place)
        split
        next e => rwa [e] at hprep
        next v e =>
          rw [e] at hprep
          have hv : v.memOk = true := hprep
          exact State.memOk_of_ite (by simp [hv]) (by simp [hv])

@[simp] theorem State.finish_memOk (h : s.memOk = true) (tt) : (s.finish tt).memOk = true := by
  unfold State.finish
  extract_lets t n named s1 s2 s3
  have h2 : s2.memOk = true := by simp [s2, s1, h]
  have h3 : s3.memOk = true := by simp [s3, h2]
  clear_value named
  split
  · exact h2
  · refine State.memOk_of_ite (by simp [h3]) ?_
    split
    · simp [h3]
    next j =>
      refine State.memOk_of_ite (by simp [h3]) ?_
      have hstart := State.startSuccessor_memOk (State.nodeDone_memOk h2 t.launch t.node (some j)) tt j
      simp [hstart]

@[simp] theorem execStrandEnd_keepsMemOk (sid) : KeepsMemOk (execStrandEnd sid) := by
  intro s h
  unfold execStrandEnd
  dsimp only
  split <;> simp [h]

@[simp] theorem State.logError_memOk (rec_) : (s.logError rec_).memOk = s.memOk := by simp [State.logError]

@[simp] theorem execTimetableStop_keepsMemOk (tt) : KeepsMemOk (execTimetableStop tt) := by
  intro s h
  unfold execTimetableStop
  extract_lets t dropped staged s1 s2 s3 s4 rec_ data s5 s6 s7 status s8
  have h2 : s2.memOk = true := by
    simp only [s2]
    split <;> simp [s1, h]
  have h3 : s3.memOk = true := by simp [s3, h2]
  have h5 : s5.memOk = true := by simp [s5, s4, h3]
  have h8 : s8.memOk = true := by simp [s8, s7, s6, h5]
  exact Result.memOk_of_ite rfl (by simp [h8])

@[simp] theorem State.zeroWord_memOk (h : s.memOk = true) (a) : (s.zeroWord a).memOk = true := by
  simp [State.zeroWord, h]
@[simp] theorem execMachineCheck_keepsMemOk (tt unit addr) : KeepsMemOk (execMachineCheck tt unit addr) :=
  fun s h => by simp [execMachineCheck, h]
@[simp] theorem execScrubError_keepsMemOk (addr) : KeepsMemOk (execScrubError addr) := fun s h => by simp [execScrubError, h]

@[simp] theorem execPreemptRequest_keepsMemOk (tt clu) : KeepsMemOk (execPreemptRequest tt clu) := by
  intro s h
  unfold execPreemptRequest
  split <;> simp [h]

@[simp] theorem State.clearSeats_memOk (sid) : (s.clearSeats sid).memOk = s.memOk := by simp [State.clearSeats]
@[simp] theorem State.rollBack_memOk (sid) : (s.rollBack sid).memOk = s.memOk := by simp [State.rollBack]
@[simp] theorem State.settleDiscard_memOk (sid) : (s.settleDiscard sid).memOk = s.memOk := by
  simp [State.settleDiscard]

@[simp] theorem execSaveCommit_keepsMemOk (tt) : KeepsMemOk (execSaveCommit tt) := by
  intro s h
  unfold execSaveCommit
  dsimp only
  split
  · rfl
  · split
    next t e => exact memOk_of_some (State.writeSave_memOk h ..) e
    · rfl

@[simp] theorem execVictimVacated_keepsMemOk (tt) : KeepsMemOk (execVictimVacated tt) := by
  intro s h
  unfold execVictimVacated
  dsimp only
  split
  · rfl
  · exact State.rerunAdmit_memOk (by simp [h]) _

@[simp] theorem execPreemptCancel_keepsMemOk (tt) : KeepsMemOk (execPreemptCancel tt) := by
  intro s h
  unfold execPreemptCancel
  dsimp only
  repeat' split
  all_goals simp [h]

end Sys2Proof.Machine
end

section
/-! SUPPORT. The pages of the host and the fetch of a packet keep the canonical form. -/
namespace Sys2Proof.Machine

variable {s : State}

@[simp] theorem execKick_keepsMemOk (fn q v) : KeepsMemOk (execKick fn q v) := fun s h => by simp [execKick, h]
@[simp] theorem execLaunchWrite_keepsMemOk (fn q v) : KeepsMemOk (execLaunchWrite fn q v) :=
  fun s h => by simp [execLaunchWrite, h]
@[simp] theorem execEnable_keepsMemOk (fn q) : KeepsMemOk (execEnable fn q) := fun s h => by simp [execEnable, h]
@[simp] theorem execPause_keepsMemOk (fn q) : KeepsMemOk (execPause fn q) := fun s h => by simp [execPause, h]
@[simp] theorem execResume_keepsMemOk (fn q) : KeepsMemOk (execResume fn q) := fun s h => by simp [execResume, h]
@[simp] theorem State.resetQueue_memOk (h : s.memOk = true) (fn q) : (s.resetQueue fn q).memOk = true := by
  simp [State.resetQueue, h]
@[simp] theorem execReset_keepsMemOk (fn q) : KeepsMemOk (execReset fn q) := fun s h => by simp [execReset, h]
@[simp] theorem execCqheadWrite_keepsMemOk (fn q v) : KeepsMemOk (execCqheadWrite fn q v) :=
  fun s h => by simp [execCqheadWrite, h]
@[simp] theorem State.pageWrite_memOk (fn off v) : (s.pageWrite fn off v).memOk = s.memOk := by simp [State.pageWrite]
@[simp] theorem State.modTenant_memOk (n f) : (s.modTenant n f).memOk = s.memOk := by simp [State.modTenant]

@[simp] theorem State.setting_memOk (reg v) : (s.setting reg v).memOk = s.memOk := by
  unfold State.setting
  split <;> simp

@[simp] theorem execRegisterWrite_keepsMemOk (byFn fn reg v) : KeepsMemOk (execRegisterWrite byFn fn reg v) := by
  intro s h
  unfold execRegisterWrite
  split <;> simp [h]

@[simp] theorem State.frontAsk_memOk (fn page) : (s.frontAsk fn page).memOk = s.memOk := by simp [State.frontAsk]
@[simp] theorem State.frontDrop_memOk (fn page) : (s.frontDrop fn page).memOk = s.memOk := by simp [State.frontDrop]
@[simp] theorem State.fetchBad_memOk (fn q code) : (s.fetchBad fn q code).memOk = s.memOk := by
  simp [State.fetchBad]
@[simp] theorem State.chargePacket_memOk (fn b) : (s.chargePacket fn b).memOk = s.memOk := by
  simp [State.chargePacket]
@[simp] theorem State.commitPacket_memOk (fn q n) : (s.commitPacket fn q n).memOk = s.memOk := by
  simp [State.commitPacket]

end Sys2Proof.Machine
end

section
/-! SUPPORT. The commands of the submission queues and the bulk moves keep the canonical form. -/
namespace Sys2Proof.Machine

variable {s : State}

@[simp] theorem State.ends_memOk (h : s.memOk = true) (p opc status) : (s.ends p opc status).memOk = true := by
  simp [State.ends, h]
@[simp] theorem State.dropPages_memOk (fn l) : (s.dropPages fn l).memOk = s.memOk := by
  simp [State.dropPages]
@[simp] theorem State.meterTenant_memOk (tenant l write) : (s.meterTenant tenant l write).memOk = s.memOk := by
  simp [State.meterTenant]

@[simp] theorem State.imageOf_memOk (tenant b) : (s.imageOf tenant b).2.memOk = s.memOk := by
  unfold State.imageOf
  dsimp only
  repeat' split
  all_goals simp

@[simp] theorem State.readNode_memOk (fn count b) : (s.readNode fn count b).2.memOk = s.memOk := by
  unfold State.readNode
  split
  · rfl
  next c _ =>
    split
    · rfl
    · have himage := State.imageOf_memOk (s := s.meterTenant fn ((s.objectAddrs c).filterMap id) false) fn
        ((s.objectAddrs c).map fun a => a.elim 0 s.mem.read)
      rw [State.meterTenant_memOk] at himage
      split
      next e => rwa [e] at himage
      next e =>
        rw [e] at himage
        have himage : State.memOk _ = s.memOk := himage
        simp [himage]

@[simp] theorem State.readNodes_memOk (fn desc count) : (s.readNodes fn desc count).2.memOk = s.memOk := by
  refine List.foldlRecOn (motive := fun p : Except (Nat × Nat × Nat) (List Node) × State => p.2.memOk = s.memOk) _ _ rfl
    fun p hp i _ => ?_
  split
  · exact hp
  next l t =>
    have hnode := (State.readNode_memOk fn count (t.mem.readN (t.spaceOf fn (desc + 64 * i)) 64)).trans hp
    split
    next e => rwa [e] at hnode
    next e => rwa [e] at hnode

@[simp] theorem State.planNodes_memOk (fn d) : (s.planNodes fn d).memOk = s.memOk := by simp [State.planNodes]

@[simp] theorem execRegGraph_keepsMemOk (p d c) : KeepsMemOk (execRegGraph p d c) := by
  intro s h
  unfold execRegGraph
  extract_lets d pages bad
  have hbad (u : State) (hu : u.memOk = true) (i r c) : (bad u i r c).memOk = true := by simp [bad, hu]
  refine Result.memOk_of_ite (by simp [h]) (Result.memOk_of_ite (by simp [h]) ?_)
  have hread : ((s.meterHost p.fn (64 * c) false).readNodes p.fn d c).2.memOk = true := by simp [h]
  split
  next e =>
    rw [e] at hread
    exact hbad _ hread ..
  next g t e =>
    rw [e] at hread
    have ht : t.memOk = true := hread
    split <;> simp [ht, hbad]

@[simp] theorem execDeregGraph_keepsMemOk (p graph) : KeepsMemOk (execDeregGraph p graph) :=
  fun s h => by simp [execDeregGraph, h]
@[simp] theorem execLaunch_keepsMemOk (p r) : KeepsMemOk (execLaunch p r) := fun s h => by simp [execLaunch, h]

@[simp] theorem execFeed_keepsMemOk (p graph seq node wq recs) : KeepsMemOk (execFeed p graph seq node wq recs) := by
  intro s h
  unfold execFeed
  split <;> simp [h]

@[simp] theorem execSignalHostEvent_keepsMemOk (p event amount) : KeepsMemOk (execSignalHostEvent p event amount) :=
  fun s h => by simp [execSignalHostEvent, h]

@[simp] theorem State.hostSignal_memOk (k lc idx n) : (s.hostSignal k lc idx n).memOk = s.memOk := by
  unfold State.hostSignal
  dsimp only
  split <;> simp

@[simp] theorem execSignalSemaphore_keepsMemOk (p idx graph node seq amount) :
    KeepsMemOk (execSignalSemaphore p idx graph node seq amount) := by
  intro s h
  unfold execSignalSemaphore
  repeat' split
  all_goals simp [h]

@[simp] theorem execWait_keepsMemOk (p event value timeout) : KeepsMemOk (execWait p event value timeout) :=
  fun s h => by simp [execWait, h]

@[simp] theorem execWaitRelease_keepsMemOk (fn q) : KeepsMemOk (execWaitRelease fn q) := by
  intro s h
  unfold execWaitRelease
  dsimp only
  split <;> simp [h]

@[simp] theorem execWaitTimeout_keepsMemOk (fn q) : KeepsMemOk (execWaitTimeout fn q) := by
  intro s h
  unfold execWaitTimeout
  dsimp only
  split <;> simp [h]

@[simp] theorem execMeter_keepsMemOk (p a) : KeepsMemOk (execMeter p a) := fun s h => by
  simp [execMeter, h]
@[simp] theorem execResetQ_keepsMemOk (p target) : KeepsMemOk (execResetQ p target) := fun s h => by simp [execResetQ, h]

@[simp] theorem execMuleRestart_keepsMemOk : KeepsMemOk execMuleRestart := by
  refine fun s h => foldl_memOk_of (fun t f ht => foldl_memOk_of (fun u q hu => ?_) ht) (by simpa using h)
  split <;> simp [hu]

@[simp] theorem State.chargeTable_memOk (tenant e) : (s.chargeTable tenant e).memOk = s.memOk := by
  simp [State.chargeTable]

@[simp] theorem State.putSeal_memOk (h : s.memOk = true) (fn n o r g b l) :
    (s.putSeal fn n o r g b l).memOk = true := by
  simp [State.putSeal, h]

@[simp] theorem execMapObjCreate_keepsMemOk (p t o i r g b l) : KeepsMemOk (execMapObjCreate p t o i r g b l) := by
  intro s h
  unfold execMapObjCreate
  extract_lets pages table good s1 done e e' size
  have h1 : s1.memOk = true := by simp [s1, h]
  have hdone (u : State) (hu : u.memOk = true) : Result.memOk (done u) = true := by simp [done, hu]
  refine Result.memOk_of_ite (by simp [h]) (Result.memOk_of_ite (by simp [h]) ?_)
  refine Result.memOk_of_ite (by simp [h1]) (Result.memOk_of_ite (by simp [h1]) ?_)
  refine Result.memOk_of_ite (hdone _ h1) (Result.memOk_of_ite (hdone _ (by simp [h1])) ?_)
  split
  next u hgrow => exact hdone _ (memOk_of_some (State.grow_memOk (by simp [h1]) ..) hgrow)
  · simp [h1]

@[simp] theorem State.relocate_memOk (h : s.memOk = true) (t o l) : (s.relocate t o l).all State.memOk = true := by
  unfold State.relocate
  dsimp only
  cases e : s.newExtent (entDie (s.obj t o).entry) (entHome (s.obj t o).entry) (2 ^ (12 + xszFor l)) with
  | none => rfl
  | some x =>
    have hx := State.newExtent_memOk h e
    simp [hx]

@[simp] theorem execMapObjResize_keepsMemOk (p t o i) : KeepsMemOk (execMapObjResize p t o i) := by
  intro s h
  unfold execMapObjResize
  extract_lets obj len img table good s1 e size n sized
  have h1 : s1.memOk = true := by simp [s1, h]
  have hsized : sized.all State.memOk = true := by
    simp only [sized]
    split
    · exact State.grow_memOk h1 ..
    · split
      · rfl
      · exact State.relocate_memOk h1 ..
  clear_value sized
  refine Result.memOk_of_ite (by simp [h]) (Result.memOk_of_ite (by simp [h]) ?_)
  refine Result.memOk_of_ite (by simp [h1]) (Result.memOk_of_ite (by simp [h1]) ?_)
  refine Result.memOk_of_ite (by simp [h1]) ?_
  cases sized with
  | none => simp [h1]
  | some u =>
    have hu : u.memOk = true := hsized
    simp [hu]

@[simp] theorem execMapObjFree_keepsMemOk (p tenant obj) : KeepsMemOk (execMapObjFree p tenant obj) :=
  fun s h => by simp [execMapObjFree, h]

@[simp] theorem execMapObjDerive_keepsMemOk (p tenant obj result rights wbase wlen) :
    KeepsMemOk (execMapObjDerive p tenant obj result rights wbase wlen) :=
  fun s h => by simp [execMapObjDerive, h]

@[simp] theorem State.startBulk_memOk (h : s.memOk = true) (p opc dst src doff soff len) :
    (s.startBulk p opc dst src doff soff len).memOk = true := by
  unfold State.startBulk
  dsimp only
  repeat' split
  all_goals simp [h]

@[simp] theorem bulkCommand_keepsMemOk (p opc dst doff len src soff) :
    KeepsMemOk (bulkCommand p opc dst doff len src soff) := by
  intro s h
  unfold bulkCommand
  dsimp only
  split <;> simp [h]

@[simp] theorem execCopy_keepsMemOk (p d x l c y) : KeepsMemOk (execCopy p d x l c y) := bulkCommand_keepsMemOk _ _ _ _ _ _ _
@[simp] theorem execWsLoad_keepsMemOk (p d x l c y) : KeepsMemOk (execWsLoad p d x l c y) := bulkCommand_keepsMemOk _ _ _ _ _ _ _

@[simp] theorem State.endBulk_memOk (h : s.memOk = true) (id status) : (s.endBulk id status).memOk = true := by
  unfold State.endBulk
  repeat' split
  all_goals simp [h]

@[simp] theorem State.closeBulk_memOk (h : s.memOk = true) (id) : (s.closeBulk id).memOk = true := by
  unfold State.closeBulk
  split <;> simp [h]

@[simp] theorem State.askLack_memOk (fn l) : (s.askLack fn l).memOk = s.memOk := by
  cases l <;> simp [State.askLack]

/-- What serving a bulk move's piece does. -/
theorem bulkFx_keepsMemOk (fn : Nat) : (bulkFx fn).KeepsMemOk where
  read l s h := by simp [bulkFx, h]
  write l s h := by simp [bulkFx, h]
  request p s h := h

@[simp] theorem State.bulkPiece_memOk (h : s.memOk = true) (b k) : (s.bulkPiece b k).memOk = true :=
  State.closeBulk_memOk (State.moveOn_memOk (bulkFx_keepsMemOk _) (by simpa using h)) _

@[simp] theorem State.dmaTurn_memOk (h : s.memOk = true) (n) : (s.dmaTurn n).all State.memOk = true := by
  unfold State.dmaTurn
  dsimp only
  split
  · refine all_map_memOk fun p => ?_
    split <;> simp [h]
  · split <;> simp [h]
  · exact all_map_memOk fun x => State.bulkPiece_memOk (by simpa using h) ..

@[simp] theorem State.runCommand_memOk (h : s.memOk = true) (p b) : (s.runCommand p b).memOk = true := by
  have hbad (opc st) : Result.memOk (.next (s.ends p opc st)) = true := by simp [h]
  refine Result.orElse_memOk ?_ h
  split
  · exact execRegGraph_keepsMemOk _ _ _ s h
  · exact execLaunch_keepsMemOk _ _ s h
  · exact execFeed_keepsMemOk _ _ _ _ _ _ s h
  · split
    · exact execMapObjCreate_keepsMemOk _ _ _ _ _ _ _ _ s h
    · exact execMapObjResize_keepsMemOk _ _ _ _ s h
    · exact execMapObjFree_keepsMemOk _ _ _ s h
    · exact execMapObjDerive_keepsMemOk _ _ _ _ _ _ _ s h
    · exact hbad _ _
  · exact execCopy_keepsMemOk _ _ _ _ _ _ s h
  · exact execWsLoad_keepsMemOk _ _ _ _ _ _ s h
  · split
    · exact execSignalHostEvent_keepsMemOk _ _ _ s h
    · exact execSignalSemaphore_keepsMemOk _ _ _ _ _ _ s h
    · exact hbad _ _
  · exact execWait_keepsMemOk _ _ _ _ s h
  · exact execMeter_keepsMemOk _ _ s h
  · exact execResetQ_keepsMemOk _ _ s h
  · exact execDeregGraph_keepsMemOk _ _ s h
  · exact hbad _ _

@[simp] theorem State.askOnce_memOk (h : s.memOk = true) (fn l) : (s.askOnce fn l).all State.memOk = true := by
  unfold State.askOnce
  split <;> simp [h]

@[simp] theorem State.popLaunch_memOk (h : s.memOk = true) (fn k v l) : (s.popLaunch fn k v l).memOk = true :=
  Result.orElse_memOk (execLaunch_keepsMemOk _ _ _ (by simpa using h)) h

@[simp] theorem State.queueWork_memOk (h : s.memOk = true) (fn q) : (s.queueWork fn q).all State.memOk = true := by
  unfold State.queueWork
  dsimp only
  repeat' split
  all_goals simp [h]

@[simp] theorem State.muleTurn_memOk (h : s.memOk = true) : s.muleTurn.memOk = true := by
  unfold State.muleTurn
  dsimp only
  split
  next k t e =>
    obtain ⟨a, -, ha⟩ := List.exists_of_findSome?_eq_some e
    obtain ⟨u, hu, hk⟩ := Option.map_eq_some_iff.mp ha
    obtain ⟨-, rfl⟩ := Prod.mk.inj hk
    simpa using memOk_of_some (State.queueWork_memOk h ..) hu
  · exact h

end Sys2Proof.Machine
end

section
/-! SUPPORT. A turn at a port of a memory keeps the canonical form. -/
namespace Sys2Proof.Machine

variable {s : State}

@[simp] theorem State.settleOp_memOk (h : s.memOk = true) (old p) : (s.settleOp old p).memOk = true := by
  unfold State.settleOp
  split <;> simp [h]

/-- What serving a piece does keeps the canonical form, whoever the piece is of. -/
theorem State.fxOf_keepsMemOk (p) : (s.fxOf p).KeepsMemOk := by
  unfold State.fxOf
  split
  · exact jobFx_keepsMemOk ..
  · exact bulkFx_keepsMemOk ..
  · exact collFx_keepsMemOk ..

theorem State.settleOp_moveOn_memOk (h : s.memOk = true) (t : State) (old p q cr cw) :
    ((s.moveOn p (t.fxOf q) cr cw).settleOp old p).memOk = true :=
  State.settleOp_memOk (State.moveOn_memOk (State.fxOf_keepsMemOk q) h) ..

@[simp] theorem State.passOps_memOk (h : s.memOk = true) (sv n) : (s.passOps sv n).memOk = true :=
  foldl_memOk_of (fun _ _ ht => State.settleOp_moveOn_memOk (by simpa using ht) ..) (by simpa using h)

@[simp] theorem State.serveOps_memOk (h : s.memOk = true) (sv n fuel w) :
    (s.serveOps sv n fuel w).all State.memOk = true := by
  induction fuel generalizing s w with
  | zero => rfl
  | succ fuel ih =>
    unfold State.serveOps
    refine all_map_memOk fun p => ?_
    split
    · simp [h]
    · extract_lets mine now here writes served
      have hserved : served.memOk = true := State.settleOp_moveOn_memOk (by simpa using h) ..
      exact getD_memOk (ih hserved _) hserved

@[simp] theorem State.portTurn_memOk (h : s.memOk = true) (server tenant) :
    (s.portTurn server tenant).all State.memOk = true := by
  unfold State.portTurn
  repeat' split
  all_goals simp [h]

end Sys2Proof.Machine
end

section
/-! SUPPORT. Routers, bridges, links and counter alignment keep the canonical form. -/
namespace Sys2Proof.Machine

variable {s : State}

@[simp] theorem State.routerError_memOk (r) : (s.routerError r).memOk = s.memOk := by simp [State.routerError]
@[simp] theorem State.seat_memOk (station port left f) : (s.seat station port left f).memOk = s.memOk := by
  simp [State.seat]
@[simp] theorem State.meterFlit_memOk (f timed untimed) : (s.meterFlit f timed untimed).memOk = s.memOk := by
  simp [State.meterFlit]

@[simp] theorem State.flitStore_memOk (h : s.memOk = true) (f) : (s.flitStore f).memOk = true := by
  unfold State.flitStore
  split
  next a _ =>
    split
    · have hw : ({ s with mem := s.mem.writeN a (bytesOf 32 f.data.toNat) } : State).memOk = true := by simp [h]
      dsimp only
      split
      · simpa using hw
      · exact foldl_memOk_of (fun _ _ h => by simp [h]) (by simpa using hw)
    · exact h
  · exact h

@[simp] theorem State.flitOut_memOk (h : s.memOk = true) (router out f) : (s.flitOut router out f).memOk = true := by
  unfold State.flitOut
  split <;> simp [h]

@[simp] theorem execRouterFlit_keepsMemOk (r p l) : KeepsMemOk (execRouterFlit r p l) := by
  intro s h
  unfold execRouterFlit
  dsimp only
  split
  · rfl
  · split
    · rfl
    · split
      · simp [h]
      · exact foldl_memOk_of (fun _ _ h => by simp [h]) (by simp [h])

@[simp] theorem State.countError_memOk (unit inst) : (s.countError unit inst).memOk = s.memOk := by
  simp [State.countError]

@[simp] theorem State.loseFlit_memOk (f) : (s.loseFlit f).memOk = s.memOk := by
  unfold State.loseFlit
  split <;> simp

@[simp] theorem execBridgeFlit_keepsMemOk (a b l f e) : KeepsMemOk (execBridgeFlit a b l f e) := by
  intro s h
  unfold execBridgeFlit
  extract_lets key seated s1 s2
  have h1 : s1.memOk = true := by
    simp only [s1]
    split <;> simp [h]
  have h2 : s2.memOk = true := by simp [s2, h1]
  dsimp only
  refine Result.memOk_of_ite (Result.memOk_of_ite (by simp [h2]) ?_) (by simp [h2])
  exact execMachineCheck_keepsMemOk _ _ _ _ h2

@[simp] theorem State.remoteRequest_memOk (tenant pkg core seq op) :
    (s.remoteRequest tenant pkg core seq op).memOk = s.memOk := by
  simp [State.remoteRequest]

@[simp] theorem State.remoteReply_memOk (h : s.memOk = true) (hen core seq status bytes) :
    (s.remoteReply hen core seq status bytes).memOk = true := by
  unfold State.remoteReply
  split <;> simp [h]

@[simp] theorem State.staleOn_memOk (key) : (s.staleOn key).memOk = s.memOk := by simp [State.staleOn]
@[simp] theorem State.dropLink_memOk (h : s.memOk = true) (key) : (s.dropLink key).memOk = true := by
  simp [State.dropLink, h]
@[simp] theorem execLinkLoss_keepsMemOk (key) : KeepsMemOk (execLinkLoss key) := fun s h => by simp [execLinkLoss, h]
@[simp] theorem State.enterLink_memOk (key transit) : (s.enterLink key transit).memOk = s.memOk := by
  simp [State.enterLink]
@[simp] theorem execLinkTraining_keepsMemOk (key transit) : KeepsMemOk (execLinkTraining key transit) :=
  fun s h => by simp [execLinkTraining, h]
@[simp] theorem State.hearLoss_memOk (pkgs) : (s.hearLoss pkgs).memOk = s.memOk := by simp [State.hearLoss]

@[simp] theorem State.linkDrops_memOk (h : s.memOk = true) (n count) : (s.linkDrops n count).memOk = true := by
  unfold State.linkDrops
  dsimp only
  repeat' split
  all_goals simp [h]

@[simp] theorem State.delivered_memOk (h : s.memOk = true) (n f) : (s.delivered n f).memOk = true := by
  unfold State.delivered
  repeat' split
  all_goals simp [h]

@[simp] theorem State.postFlit_memOk (h : s.memOk = true) (n bad f) : (s.postFlit n bad f).memOk = true := by
  simp [State.postFlit, h]

@[simp] theorem execLinkFrame_keepsMemOk (n f) : KeepsMemOk (execLinkFrame n f) := by
  intro s h
  unfold execLinkFrame
  dsimp only
  split
  · exact h
  · split
    · simp [h]
    · refine foldl_memOk_of (fun _ _ h => by simp [h]) ?_
      split <;> simp [h]

@[simp] theorem State.postStage_memOk : s.postStage.memOk = s.memOk := by simp [State.postStage]
@[simp] theorem State.sendFrame_memOk (n) : (s.sendFrame n).memOk = s.memOk := by simp [State.sendFrame]
@[simp] theorem State.sendFrames_memOk : s.sendFrames.memOk = s.memOk := by
  simp [State.sendFrames]
@[simp] theorem State.rejoin_memOk : s.rejoin.memOk = s.memOk := by simp [State.rejoin]

@[simp] theorem execAlignExchange_keepsMemOk (t1 t2 t3 t4) : KeepsMemOk (execAlignExchange t1 t2 t3 t4) := by
  intro s h
  unfold execAlignExchange
  split <;> simp [h]

@[simp] theorem execCounterHold_keepsMemOk : KeepsMemOk execCounterHold := fun s h => by simp [execCounterHold, h]
@[simp] theorem State.loseRoutes_memOk (links) : (s.loseRoutes links).memOk = s.memOk := by simp [State.loseRoutes]

@[simp] theorem State.othersLoss_memOk (h : s.memOk = true) (n) : (s.othersLoss n).memOk = true := by
  have hdrop : ((s.trained.filter fun k => k.touches n).foldl (fun s k => s.dropLink k) s).memOk = true :=
    foldl_memOk_of (fun _ _ h => by simp [h]) h
  simp [State.othersLoss, hdrop]

@[simp] theorem execAlignloss_keepsMemOk : KeepsMemOk execAlignloss := by
  intro s h
  unfold execAlignloss
  split
  · split
    · rfl
    · simp [h]
  · exact (State.loseRoutes_memOk _).trans (foldl_memOk_of (fun _ _ h => by simp [h]) (by simpa using h))

@[simp] theorem execGclkLoad_keepsMemOk : KeepsMemOk execGclkLoad := by
  intro s h
  unfold execGclkLoad
  split <;> simp [h]

end Sys2Proof.Machine
end

section
/-! SUPPORT. Tenants, their turns, the responder and the life cycle keep the canonical form. -/
namespace Sys2Proof.Machine

variable {s : State}

@[simp] theorem execTenantCreate_keepsMemOk (n) : KeepsMemOk (execTenantCreate n) := fun s h => by simp [execTenantCreate, h]

@[simp] theorem State.dropRequests_memOk (h : s.memOk = true) (fn) : (s.dropRequests fn).memOk = true := by
  unfold State.dropRequests
  dsimp only
  repeat' split
  all_goals simp [h]

@[simp] theorem State.stopTenant_memOk (n) : (s.stopTenant n).memOk = s.memOk := by simp [State.stopTenant]
@[simp] theorem State.shutFunc_memOk (n) : (s.shutFunc n).memOk = s.memOk := by simp [State.shutFunc]
@[simp] theorem State.teardown_memOk (h : s.memOk = true) (n) : (s.teardown n).memOk = true := by
  simp [State.teardown, h]
@[simp] theorem execTenantTeardown_keepsMemOk (n) : KeepsMemOk (execTenantTeardown n) :=
  fun s h => by simp [execTenantTeardown, h]
@[simp] theorem State.tdiFails_memOk (h : s.memOk = true) (fn) : (s.tdiFails fn).memOk = true := by
  simp [State.tdiFails, h]
@[simp] theorem execTdiError_keepsMemOk (fn) : KeepsMemOk (execTdiError fn) := fun s h => by simp [execTdiError, h]

@[simp] theorem execTdispMessage_keepsMemOk (fn dest) : KeepsMemOk (execTdispMessage fn dest) := by
  intro s h
  unfold execTdispMessage
  dsimp only
  repeat' split
  all_goals simp [h]

@[simp] theorem execAtsInvalidation_keepsMemOk (fn page) : KeepsMemOk (execAtsInvalidation fn page) :=
  fun s h => by simp [execAtsInvalidation, h]

theorem execTenantTurn_keepsMemOk (server) : KeepsMemOk (execTenantTurn server) := by
  intro s h
  unfold execTenantTurn
  extract_lets done
  have hdone : done.all State.memOk = true := by
    simp only [done]
    split
    · rfl
    · split <;> simp [h]
  clear_value done
  cases done with
  | none => rfl
  | some t => exact hdone

@[simp] theorem State.answers_memOk (fn code bytes) : (s.answers fn code bytes).memOk = s.memOk := by
  simp [State.answers]
@[simp] theorem State.spdmError_memOk (fn) : (s.spdmError fn).memOk = s.memOk := by simp [State.spdmError]
@[simp] theorem State.answersFree_memOk (fn code more) : (s.answersFree fn code more).memOk = s.memOk := by
  simp [State.answersFree]
@[simp] theorem execGetVersion_keepsMemOk (fn) : KeepsMemOk (execGetVersion fn) := fun s h => by simp [execGetVersion, h]
@[simp] theorem execGetCapabilities_keepsMemOk (fn) : KeepsMemOk (execGetCapabilities fn) :=
  fun s h => by simp [execGetCapabilities, h]

@[simp] theorem execNegotiateAlgorithms_keepsMemOk (fn p384 sha384) :
    KeepsMemOk (execNegotiateAlgorithms fn p384 sha384) :=
  fun s h => by simp [execNegotiateAlgorithms, h]

@[simp] theorem execGetDigests_keepsMemOk (fn) : KeepsMemOk (execGetDigests fn) := fun s h => by simp [execGetDigests, h]
@[simp] theorem execGetCertificate_keepsMemOk (fn off len) : KeepsMemOk (execGetCertificate fn off len) :=
  fun s h => by simp [execGetCertificate, h]
@[simp] theorem State.signedAnswer_memOk (fn code nonce) : (s.signedAnswer fn code nonce).memOk = s.memOk := by
  simp [State.signedAnswer]
@[simp] theorem execChallenge_keepsMemOk (fn nonce) : KeepsMemOk (execChallenge fn nonce) :=
  fun s h => by simp [execChallenge, h]
@[simp] theorem execKeyExchange_keepsMemOk (fn nonce) : KeepsMemOk (execKeyExchange fn nonce) :=
  fun s h => by simp [execKeyExchange, h]

@[simp] theorem execSpdmSessionMessage_keepsMemOk (fn msg) : KeepsMemOk (execSpdmSessionMessage fn msg) := by
  intro s h
  unfold execSpdmSessionMessage
  split <;> simp [h]

@[simp] theorem execSelectTenant_keepsMemOk (fn tenant) : KeepsMemOk (execSelectTenant fn tenant) :=
  fun s h => by simp [execSelectTenant, h]

@[simp] theorem execGetMeasurements_keepsMemOk (fn index) : KeepsMemOk (execGetMeasurements fn index) := by
  intro s h
  unfold execGetMeasurements
  split <;> simp [h]

@[simp] theorem State.wipeAll_memOk (h : s.memOk = true) : s.wipeAll.memOk = true := by
  have htear : ((SMap.keys s.tenants).foldl (fun s n => s.teardown n) s).memOk = true := foldl_memOk_of (fun _ _ h => by simp [h]) h
  have hwiped := bothWf_sram_nil (bothWf_filter (p := fun x => !addrDev x.1) htear)
  simp [State.wipeAll, hwiped]

@[simp] theorem execLifecycleRead_keepsMemOk : KeepsMemOk execLifecycleRead := fun s h => by simp [execLifecycleRead, h]
@[simp] theorem execProvision_keepsMemOk : KeepsMemOk execProvision := fun s h => by simp [execProvision, h]
@[simp] theorem execClaim_keepsMemOk (byFn) : KeepsMemOk (execClaim byFn) := fun s h => by simp [execClaim, h]
@[simp] theorem execReturn_keepsMemOk (auth sig) : KeepsMemOk (execReturn auth sig) := fun s h => by simp [execReturn, h]

@[simp] theorem execColdReset_keepsMemOk (i g) : KeepsMemOk (execColdReset i g) := by
  intro s h
  rw [execColdReset, Result.memOk_next, State.memOk_mk]
  exact bothWf_sram_nil (bothWf_filter h)

@[simp] theorem execConfigRequest_keepsMemOk : KeepsMemOk execConfigRequest := fun s h => by simp [execConfigRequest, h]

end Sys2Proof.Machine
end

section
/-! SUPPORT. The Virbel words keep the canonical form. -/
namespace Sys2Proof.Machine

variable {s : State}

@[simp] theorem virbel_memOk {f : Fin 32 → State} (h : s.memOk = true) (hf : ∀ k, (f k).memOk = true) :
    Result.memOk (virbel s f) = true := by
  simp [virbel, h, hf]

@[simp] theorem State.virbelFault_memOk (n cause val) : (s.virbelFault n cause val).memOk = s.memOk := by
  simp [State.virbelFault]
@[simp] theorem execVbBfx_keepsMemOk (rs2 rs1 rd) : KeepsMemOk (execVbBfx rs2 rs1 rd) := fun s h => by simp [execVbBfx, h]
@[simp] theorem State.retire_memOk (h : s.memOk = true) (fn q b) : (s.retire fn q b).memOk = true := by
  simp [State.retire, h]
@[simp] theorem State.sramWrite_memOk (h : s.memOk = true) (a b) : (s.sramWrite a b).memOk = true := by
  simp [State.sramWrite, h]

@[simp] theorem State.rfetch_memOk (h : s.memOk = true) (n rd fn q buf retired) :
    (s.rfetch n rd fn q buf retired).memOk = true := by
  unfold State.rfetch
  split <;> simp [h]

@[simp] theorem execVbRfetch_keepsMemOk (a b c) : KeepsMemOk (execVbRfetch a b c) := by
  refine fun s h => virbel_memOk h fun n => ?_
  extract_lets hart a b fn q buf got retire s1
  have h1 : s1.memOk = true := by
    clear_value got
    cases got <;> simp [s1, h]
  simp [h, h1]

@[simp] theorem execVbSigwait_keepsMemOk (rs2 rs1 rd) : KeepsMemOk (execVbSigwait rs2 rs1 rd) :=
  fun s h => by simp [execVbSigwait, h]

@[simp] theorem execSigwaitWake_keepsMemOk (n) : KeepsMemOk (execSigwaitWake n) := by
  intro s h
  unfold execSigwaitWake
  dsimp only
  repeat' split
  all_goals simp [h]

@[simp] theorem State.handRequest_memOk (b) : (s.handRequest b).memOk = s.memOk := by simp [State.handRequest]

@[simp] theorem execVbDispatch_keepsMemOk (a b c) : KeepsMemOk (execVbDispatch a b c) := by
  refine fun s h => virbel_memOk h fun n => ?_
  extract_lets hart a t fn q alone fromFifo fifo got s1 s2
  have h1 : s1.memOk = true := by simp [s1, h]
  have h2 : s2.memOk = true := by
    clear_value fifo got
    refine State.memOk_of_ite (by simp [h1]) (State.memOk_of_ite ?_ ?_)
    · cases fifo <;> simp [h1]
    · cases got <;> simp [h1]
  simp [h, h2]

end Sys2Proof.Machine
end

section
/-! SUPPORT. Every instruction keeps the canonical form. -/
namespace Sys2Proof.Machine

/-- One arm per row of the opcode table; rows made by one mould are kept by the lemma of that mould. -/
theorem exec_keepsMemOk (i : Instr) : KeepsMemOk (exec i) := by
  intro s h
  unfold exec
  cases i with
  | bndl d s1 f l m => exact execBndl_keepsMemOk d s1 f l m s h
  | nop => exact execNop_keepsMemOk s h
  | add | sub | mul | mulh | div | rem | and_ | or_ | xor_ | shl | shr | sar | min | max | slt | sel | clz | popc | agen |
  getcycGclk | addi | bfx | bfi | movi | movhi =>
    exact dResult_memOk h ..
  | getcycVclk d => exact execGetcycVclk_keepsMemOk d s h
  | cinc | csetb | crestr =>
    exact derive_memOk h ..
  | clrt d a b x => exact execClrt_keepsMemOk d a b x s h
  | rdcsr d c => exact execRdcsr_keepsMemOk d c s h
  | wrcsr a c => exact execWrcsr_keepsMemOk a c s h
  | trap i1 => exact execTrap_keepsMemOk i1 s h
  | br | jmp | call =>
    exact relBranch_memOk h ..
  | ret a => exact execRet_keepsMemOk a s h
  | loopImm l n c => exact execLoopImm_keepsMemOk l n c s h
  | loopReg l n r => exact execLoopReg_keepsMemOk l n r s h
  | lds d a b x => exact execLds_keepsMemOk d a b x s h
  | sts d a b x => exact execSts_keepsMemOk d a b x s h
  | sfadd | sfmul | sfma | sfcmp | sfcvt | sdot4 =>
    exact sResult_memOk h ..
  | exit n => exact execExit_keepsMemOk n s h
  | sstep => exact execSstep_keepsMemOk s h
  | sstepM n => exact execSstepM_keepsMemOk n s h
  | svcNull | svcHostev | svcSnapshot | svcLinkgen =>
    exact svcCall_memOk h ..
  | svcComplete sid => exact execSvcComplete_keepsMemOk sid s h
  | wqpop d a q => exact execWqpop_keepsMemOk d a q s h
  | wqwait q => exact execWqwait_keepsMemOk q s h
  | wqwaitComplete sid => exact execWqwaitComplete_keepsMemOk sid s h
  | vadd | vsub | vmul | vfma | vmin | vmax =>
    exact vElem_memOk h ..
  | vabs | vsf | vsplati | vsplats | vrng | vlnmul | vlnadd =>
    exact vGuarded_memOk h ..
  | vand | vor | vxor =>
    exact vBits_memOk h ..
  | vshl | vshr | vsar =>
    exact vShift_memOk h ..
  | vcmpEq | vcmpNe | vcmpLt | vcmpLe =>
    exact vCompare_memOk h ..
  | vsel =>
    exact vWhole_memOk h ..
  | vaddH16 | vaddB16 | vsubH16 | vsubB16 | vmulH16 | vmulB16 | vfmaH16 | vfmaB16 | vminH16 | vminB16 | vmaxH16 | vmaxB16 =>
    exact vHalf_memOk h ..
  | vcvt z d a c g => exact execVcvt_keepsMemOk z d a c g s h
  | vrotr | vrotc | vbcr | vbcc | vslup | vsldn | vperm | vmov | vnttp =>
    exact vMove_memOk h ..
  | vredr | vredc =>
    exact vReduce'_memOk h ..
  | vcomp | vexpd =>
    exact vMask_memOk h ..
  | vget | vput | vmqset =>
    exact vUnit_memOk h ..
  | vmmul | vmadd | vmsub | vmred =>
    exact vModular_memOk h ..
  | vbfly | vbflyGs =>
    exact vButterfly_memOk h ..
  | pand | por | pxor | pnot | pset =>
    exact pWhole_memOk h ..
  | pcnt | pfirst =>
    exact pCount_memOk h ..
  | mma | mmaRs =>
    exact mmaReg_memOk h ..
  | mmas | mmasRs =>
    exact mmaMem_memOk h ..
  | mzero c => exact execMzero_keepsMemOk c s h
  | mload c a => exact execMload_keepsMemOk c a s h
  | mdrain c a b f => exact execMdrain_keepsMemOk c a b f s h
  | mdrains c a b f => exact execMdrains_keepsMemOk c a b f s h
  | mlease => exact execMlease_keepsMemOk s h
  | mfree => exact execMfree_keepsMemOk s h
  | leaseGrant sid => exact execLeaseGrant_keepsMemOk sid s h
  | vld r c k p => exact execVld_keepsMemOk r c k p s h
  | vst r c k p => exact execVst_keepsMemOk r c k p s h
  | vldx r c k p => exact execVldx_keepsMemOk r c k p s h
  | vstx r c k p => exact execVstx_keepsMemOk r c k p s h
  | pld r c k h_ => exact execPld_keepsMemOk r c k h_ s h
  | pst r c k h_ => exact execPst_keepsMemOk r c k h_ s h
  | ldc r c k g => exact execLdc_keepsMemOk r c k g s h
  | ldcArrival sid => exact execLdcArrival_keepsMemOk sid s h
  | cld r c k i1 => exact execCld_keepsMemOk r c k i1 s h
  | cst r c k i1 => exact execCst_keepsMemOk r c k i1 s h
  | qbbind r h_ => exact execQbbind_keepsMemOk r h_ s h
  | qbwait | qbwaitE =>
    exact qbWait_memOk h ..
  | qbwaitComplete sid => exact execQbwaitComplete_keepsMemOk sid s h
  | qbtake | qbgive =>
    exact qbClaim_memOk h ..
  | qbVisibleUpdate sid => exact execQbVisibleUpdate_keepsMemOk sid s h
  | semwait r s1 t => exact execSemwait_keepsMemOk r s1 t s h
  | semwaitServed sid => exact execSemwaitServed_keepsMemOk sid s h
  | semwaitTimeout sid => exact execSemwaitTimeout_keepsMemOk sid s h
  | semsig s1 n => exact execSemsig_keepsMemOk s1 n s h
  | semsigApply sid => exact execSemsigApply_keepsMemOk sid s h
  | syncarm r c k i1 => exact execSyncarm_keepsMemOk r c k i1 s h
  | syncwait r c k i1 => exact execSyncwait_keepsMemOk r c k i1 s h
  | syncwaitComplete sid => exact execSyncwaitComplete_keepsMemOk sid s h
  | fence g q => exact execFence_keepsMemOk g q s h
  | join => exact execJoin_keepsMemOk s h
  | joinComplete sid => exact execJoinComplete_keepsMemOk sid s h
  | acq c => exact execAcq_keepsMemOk c s h
  | gateGrant gate => exact execGateGrant_keepsMemOk gate s h
  | rel c => exact execRel_keepsMemOk c s h
  | gateRelease sid => exact execGateRelease_keepsMemOk sid s h
  | bind r c k => exact execBind_keepsMemOk r c k s h
  | bindAnswer sid => exact execBindAnswer_keepsMemOk sid s h
  | wsseal r c s1 => exact execWsseal_keepsMemOk r c s1 s h
  | wssealAnswer sid => exact execWssealAnswer_keepsMemOk sid s h
  | oxcopy | oxgath | oxscat | oxfill | oxacc | oxcas | oxenq | oxchase | oxhen | oxpage =>
    exact oxCommand_memOk h ..
  | coll d s1 p => exact execColl_keepsMemOk d s1 p s h
  | hnext => exact execHnext_keepsMemOk s h
  | hldl a => exact execHldl_keepsMemOk a s h
  | hstl a => exact execHstl_keepsMemOk a s h
  | hcmp d a b x => exact execHcmp_keepsMemOk d a b x s h
  | haddl a t => exact execHaddl_keepsMemOk a t s h
  | hreply a b => exact execHreply_keepsMemOk a b s h
  | hstage a b x => exact execHstage_keepsMemOk a b x s h
  | hcommit a => exact execHcommit_keepsMemOk a s h
  | vbRfetch s1 a d => exact execVbRfetch_keepsMemOk s1 a d s h
  | vbBfx s1 a d => exact execVbBfx_keepsMemOk s1 a d s h
  | vbSigwait s1 a d => exact execVbSigwait_keepsMemOk s1 a d s h
  | vbDispatch s1 a d => exact execVbDispatch_keepsMemOk s1 a d s h
  | timedPerform tt => exact execTimedPerform_keepsMemOk tt s h
  | syncMeeting tt lc => exact execSyncMeeting_keepsMemOk tt lc s h
  | mstepArrival sid => exact execMstepArrival_keepsMemOk sid s h
  | barrierRelease tt => exact execBarrierRelease_keepsMemOk tt s h
  | barrierMessage link msg => exact execBarrierMessage_keepsMemOk link msg s h
  | strandEnd sid => exact execStrandEnd_keepsMemOk sid s h
  | timetableStop tt => exact execTimetableStop_keepsMemOk tt s h
  | oxJobStart sid q => exact execOxJobStart_keepsMemOk sid q s h
  | oxJobFinish job => exact execOxJobFinish_keepsMemOk job s h
  | henRequest port => exact execHenRequest_keepsMemOk port s h
  | retransmitTimeout job => exact execRetransmitTimeout_keepsMemOk job s h
  | priResponse fn page ok => exact execPriResponse_keepsMemOk fn page ok s h
  | extentResident tenant obj ext => exact execExtentResident_keepsMemOk tenant obj ext s h
  | extentMigrate tenant obj ext base => exact execExtentMigrate_keepsMemOk tenant obj ext base s h
  | collStart sid => exact execCollStart_keepsMemOk sid s h
  | collComplete ctx => exact execCollComplete_keepsMemOk ctx s h
  | collTimeout ctx pkg => exact execCollTimeout_keepsMemOk ctx pkg s h
  | abort ctx pkg mgen lost => exact execAbort_keepsMemOk ctx pkg mgen lost s h
  | holdSend ctx => exact execHoldSend_keepsMemOk ctx s h
  | hold ctx pkg => exact execHold_keepsMemOk ctx pkg s h
  | membershipAgree tt lost => exact execMembershipAgree_keepsMemOk tt lost s h
  | recordInstall tt => exact execRecordInstall_keepsMemOk tt s h
  | linkFrame link frame => exact execLinkFrame_keepsMemOk link frame s h
  | bridgeFlit src dst lane flit errs => exact execBridgeFlit_keepsMemOk src dst lane flit errs s h
  | routerFlit router port lane => exact execRouterFlit_keepsMemOk router port lane s h
  | linkLoss key => exact execLinkLoss_keepsMemOk key s h
  | linkTraining key transit => exact execLinkTraining_keepsMemOk key transit s h
  | alignExchange t1 t2 t3 t4 => exact execAlignExchange_keepsMemOk t1 t2 t3 t4 s h
  | counterHold => exact execCounterHold_keepsMemOk s h
  | alignloss => exact execAlignloss_keepsMemOk s h
  | gclkLoad => exact execGclkLoad_keepsMemOk s h
  | tokenWindow => exact execTokenWindow_keepsMemOk s h
  | refreshWindow => exact execRefreshWindow_keepsMemOk s h
  | machineCheck tt unit addr => exact execMachineCheck_keepsMemOk tt unit addr s h
  | scrubError addr => exact execScrubError_keepsMemOk addr s h
  | admitNext => exact execAdmit_keepsMemOk s h
  | compactionUpdate => exact execCompactionUpdate_keepsMemOk s h
  | compactTimeout => exact execCompactTimeout_keepsMemOk s h
  | ageRaise req => exact execAgeRaise_keepsMemOk req s h
  | preemptRequest tt cluster => exact execPreemptRequest_keepsMemOk tt cluster s h
  | saveCommit tt => exact execSaveCommit_keepsMemOk tt s h
  | victimVacated tt => exact execVictimVacated_keepsMemOk tt s h
  | preemptCancel tt => exact execPreemptCancel_keepsMemOk tt s h
  | placeTableWrite tt table => exact execPlaceTableWrite_keepsMemOk tt table s h
  | kick fn q v => exact execKick_keepsMemOk fn q v s h
  | launchWrite fn q v => exact execLaunchWrite_keepsMemOk fn q v s h
  | enable fn q => exact execEnable_keepsMemOk fn q s h
  | pause fn q => exact execPause_keepsMemOk fn q s h
  | resume fn q => exact execResume_keepsMemOk fn q s h
  | reset fn q => exact execReset_keepsMemOk fn q s h
  | cqheadWrite fn q v => exact execCqheadWrite_keepsMemOk fn q v s h
  | registerWrite byFn fn reg v => exact execRegisterWrite_keepsMemOk byFn fn reg v s h
  | regGraph p desc count => exact execRegGraph_keepsMemOk p desc count s h
  | launch p r => exact execLaunch_keepsMemOk p r s h
  | feed p graph seq node wq recs => exact execFeed_keepsMemOk p graph seq node wq recs s h
  | mapObjCreate p tenant obj image result rights wbase wlen =>
    exact execMapObjCreate_keepsMemOk p tenant obj image result rights wbase wlen s h
  | mapObjResize p tenant obj image => exact execMapObjResize_keepsMemOk p tenant obj image s h
  | mapObjFree p tenant obj => exact execMapObjFree_keepsMemOk p tenant obj s h
  | mapObjDerive p tenant obj result rights wbase wlen =>
    exact execMapObjDerive_keepsMemOk p tenant obj result rights wbase wlen s h
  | copy p dst doff len src soff => exact execCopy_keepsMemOk p dst doff len src soff s h
  | wsLoad p dst doff len src soff => exact execWsLoad_keepsMemOk p dst doff len src soff s h
  | signalHostEvent p event amount => exact execSignalHostEvent_keepsMemOk p event amount s h
  | signalSemaphore p idx graph node seq amount => exact execSignalSemaphore_keepsMemOk p idx graph node seq amount s h
  | wait p event value timeout => exact execWait_keepsMemOk p event value timeout s h
  | waitRelease fn q => exact execWaitRelease_keepsMemOk fn q s h
  | waitTimeout fn q => exact execWaitTimeout_keepsMemOk fn q s h
  | meter p addr => exact execMeter_keepsMemOk p addr s h
  | resetQ p target => exact execResetQ_keepsMemOk p target s h
  | deregGraph p graph => exact execDeregGraph_keepsMemOk p graph s h
  | muleRestart => exact execMuleRestart_keepsMemOk s h
  | tenantCreate tenant => exact execTenantCreate_keepsMemOk tenant s h
  | tenantTeardown tenant => exact execTenantTeardown_keepsMemOk tenant s h
  | tdiError fn => exact execTdiError_keepsMemOk fn s h
  | getVersion fn => exact execGetVersion_keepsMemOk fn s h
  | getCapabilities fn => exact execGetCapabilities_keepsMemOk fn s h
  | negotiateAlgorithms fn p384 sha384 => exact execNegotiateAlgorithms_keepsMemOk fn p384 sha384 s h
  | getDigests fn => exact execGetDigests_keepsMemOk fn s h
  | getCertificate fn off len => exact execGetCertificate_keepsMemOk fn off len s h
  | challenge fn nonce => exact execChallenge_keepsMemOk fn nonce s h
  | getMeasurements fn index => exact execGetMeasurements_keepsMemOk fn index s h
  | keyExchange fn nonce => exact execKeyExchange_keepsMemOk fn nonce s h
  | selectTenant fn tenant => exact execSelectTenant_keepsMemOk fn tenant s h
  | lifecycleRead => exact execLifecycleRead_keepsMemOk s h
  | provision => exact execProvision_keepsMemOk s h
  | claim byFn => exact execClaim_keepsMemOk byFn s h
  | return_ auth sig => exact execReturn_keepsMemOk auth sig s h
  | coldReset image sig => exact execColdReset_keepsMemOk image sig s h
  | configRequest => exact execConfigRequest_keepsMemOk s h
  | tenantTurn server => exact execTenantTurn_keepsMemOk server s h
  | eviction tenant obj ext => exact execEviction_keepsMemOk tenant obj ext s h
  | sigwaitWake hart => exact execSigwaitWake_keepsMemOk hart s h
  | tdispMessage fn dest => exact execTdispMessage_keepsMemOk fn dest s h
  | atsInvalidation fn page => exact execAtsInvalidation_keepsMemOk fn page s h
  | spdmSessionMessage fn msg => exact execSpdmSessionMessage_keepsMemOk fn msg s h

end Sys2Proof.Machine
end

section
/-! SUPPORT. The words of a Mule hart keep the canonical form. -/
namespace Sys2Proof.Machine

variable {s : State}

@[simp] theorem State.rvCsrOp_memOk (n w len) : (s.rvCsrOp n w len).memOk = s.memOk := by
  unfold State.rvCsrOp
  dsimp only
  split <;> simp

@[simp] theorem State.rvSystem_memOk (n w len) : (s.rvSystem n w len).memOk = s.memOk := by simp [State.rvSystem]

@[simp] theorem State.rvAtomic_memOk (h : s.memOk = true) (n w bytes len) :
    (s.rvAtomic n w bytes len).memOk = true := by
  unfold State.rvAtomic
  dsimp only
  repeat' split
  all_goals simp [h]

@[simp] theorem State.rvFpu_memOk (n w kind fmt a b c len) : (s.rvFpu n w kind fmt a b c len).memOk = s.memOk := by
  unfold State.rvFpu
  dsimp only
  split <;> simp

@[simp] theorem State.rvFp_memOk (n w len) : (s.rvFp n w len).memOk = s.memOk := by
  unfold State.rvFp
  dsimp only
  repeat' split
  all_goals simp

@[simp] theorem State.rvExec_memOk (h : s.memOk = true) (n w l) : (s.rvExec n w l).memOk = true := by
  unfold State.rvExec
  extract_lets hart a b f3 f7 bad put linked go opt s1 now v loaded s2
  have hbad : bad.memOk = true := by simp [bad, h]
  have hput (v) : (put v).memOk = true := by simp [put, h]
  have hgo (v) : (go v).memOk = true := by simp [go, h]
  have hopt (o) : (opt o).memOk = true := by cases o <;> simp [opt, hbad, hput]
  have h1 : s1.memOk = true := by simp [s1, h]
  have h2 : s2.memOk = true := by simp [s2, h]
  clear_value bad put go opt s1 s2
  repeat' split
  all_goals simp [h, hput, hbad, hgo, hopt, h1, h2]

@[simp] theorem State.rvStep_memOk (h : s.memOk = true) (n) : (s.rvStep n).memOk = true := by
  unfold State.rvStep
  dsimp only
  repeat' split
  all_goals simp [h]

end Sys2Proof.Machine
end

section
/-! SUPPORT. Every agent's turn and every stage of a gcy keep the canonical form. -/
namespace Sys2Proof.Machine

variable {s : State}

@[simp] theorem State.tryAll_memOk {f : Nat → State → Result} {l} (hf : ∀ k, KeepsMemOk (f k)) (h : s.memOk = true) :
    (s.tryAll l f).memOk = true :=
  foldl_memOk_of (fun _ k hs => State.try_memOk (hf k) hs) h

theorem State.slotRun_memOk (h : s.memOk = true) (sid slot w) : Result.memOk (s.slotRun sid slot w) = true := by
  unfold State.slotRun
  split
  · exact exec_keepsMemOk _ _ h
  · exact Result.memOk_of_ite (svcCall_memOk h ..) (by simp [h])

theorem State.headerRun_memOk (h : s.memOk = true) (sid) : Result.memOk (s.headerRun sid) = true := by
  refine Result.memOk_of_ite (by simp [h]) ?_
  split
  · exact exec_keepsMemOk _ _ h
  · simp [h]

@[simp] theorem State.idle_memOk : s.idle.memOk = s.memOk := by simp [State.idle]
@[simp] theorem State.afterSlot_memOk (sid) : (State.afterSlot sid s).memOk = s.memOk := by simp [State.afterSlot]
@[simp] theorem State.afterHeader_memOk (sid) : (State.afterHeader sid s).memOk = s.memOk := by
  simp [State.afterHeader]

theorem thenDo_memOk {r : Result} {f : State → State} (hr : Result.memOk r = true)
    (hf : ∀ t, t.memOk = true → (f t).memOk = true) :
    Result.memOk (thenDo r f) = true := by
  cases r with
  | next t => exact hf t hr
  | fault e => rfl
  | refused e => rfl

theorem State.strandStep_memOk (h : s.memOk = true) (sid) : Result.memOk (s.strandStep sid) = true := by
  unfold State.strandStep
  dsimp only
  split
  · exact thenDo_memOk (State.headerRun_memOk h sid) fun t ht => by simp [ht]
  · exact thenDo_memOk (State.slotRun_memOk (by simp [h]) ..) fun t ht => by simp [ht]

theorem State.henStep_memOk (h : s.memOk = true) (port) : Result.memOk (s.henStep port) = true := by
  refine Result.memOk_of_ite (by simp [h]) (Result.memOk_of_ite (by simp [h]) (thenDo_memOk ?_ fun t ht => by simp [ht]))
  split
  · exact exec_keepsMemOk _ _ (by simp [h])
  · simp [h]

theorem State.hartStep_memOk (h : s.memOk = true) (n) : Result.memOk (s.hartStep n) = true := by
  refine Result.memOk_of_ite (by simp [h]) ?_
  split
  · exact thenDo_memOk (exec_keepsMemOk _ _ h) fun t ht => by simp [ht]
  · simp [h]

theorem State.outsideStage_memOk (h : s.memOk = true) : s.outsideStage.memOk = true := by
  refine State.memOk_of_ite (by simp [h]) ?_
  split
  · exact State.memOk_of_ite (State.try_memOk (exec_keepsMemOk _) (by simp [h])) (by simp [h])
  · simp [h]

theorem State.clockStage_memOk (h : s.memOk = true) : s.clockStage.memOk = true := by
  have hwindows : ((s.try execTokenWindow).try execRefreshWindow).memOk = true := by simp [h]
  simp [State.clockStage, hwindows]

@[simp] theorem State.runVcy_memOk (sid effs) : (s.runVcy sid effs).memOk = s.memOk := by
  unfold State.runVcy
  dsimp only
  repeat' split
  all_goals simp

@[simp] theorem State.goOn_memOk (sid) : (s.goOn sid).memOk = s.memOk := by
  unfold State.goOn
  split <;> simp

theorem State.takeUp_memOk (h : s.memOk = true) (sid) : (s.takeUp sid).memOk = true := by
  unfold State.takeUp
  dsimp only
  refine State.memOk_of_ite h (State.memOk_of_ite (by simp [h]) ?_)
  repeat' split
  all_goals simp [h]

theorem State.takeUpStage_memOk (h : s.memOk = true) : s.takeUpStage.memOk = true := by
  have hall : ((SMap.keys s.strands).foldl State.takeUp s).memOk = true := foldl_memOk_of (fun _ _ h => State.takeUp_memOk h _) h
  simp [State.takeUpStage, hall]

theorem State.atMeeting_memOk (h : s.memOk = true) (sid) : (s.atMeeting sid).memOk = true := by
  unfold State.atMeeting
  split
  · refine State.memOk_of_ite ?_ h
    rw [State.idle_memOk]
    exact State.try_memOk (fun _ h => State.headerRun_memOk h sid) (by simp [h])
  · exact h

@[simp] theorem State.failMeet_memOk (sid) : (s.failMeet sid).memOk = s.memOk := by simp [State.failMeet]

theorem State.meetStage_memOk (h : s.memOk = true) : s.meetStage.memOk = true := by
  unfold State.meetStage
  extract_lets s1 cores s2 stuck s3
  have h1 : s1.memOk = true := foldl_memOk_of (fun _ _ h => State.atMeeting_memOk h _) h
  have h2 : s2.memOk = true := foldl_memOk_of (fun _ _ h => by simp [h]) h1
  have h3 : s3.memOk = true := foldl_memOk_of (fun _ _ h => by simp [h]) h2
  clear_value s3
  simp [h3]

theorem State.grantCore_memOk (h : s.memOk = true) (tt core) : (s.grantCore tt core).memOk = true := by
  unfold State.grantCore
  dsimp only
  split
  · exact h
  · refine State.memOk_of_ite h ?_
    split <;> simp [h]

theorem State.leaseStage_memOk (h : s.memOk = true) : s.leaseStage.memOk = true := by
  unfold State.leaseStage
  dsimp only
  rw [State.memOk_mk, bothWf_mem_sram]
  exact foldl_memOk_of (fun _ _ h => State.grantCore_memOk h ..) h

@[simp] theorem State.issueStage_memOk : s.issueStage.memOk = s.memOk := by simp [State.issueStage]
@[simp] theorem State.sampleStage_memOk (h : s.memOk = true) : s.sampleStage.memOk = true := by
  simp [State.sampleStage, h]

theorem State.answersStage_memOk (h : s.memOk = true) : s.answersStage.memOk = true := by
  refine foldl_memOk_of (fun t sid ht => State.memOk_of_ite ht ?_) h
  split <;> simp [ht]

@[simp] theorem State.passStage_memOk (station x) : (s.passStage station x).memOk = s.memOk := by
  simp [State.passStage]
@[simp] theorem State.leaveLink_memOk (n x) : (s.leaveLink n x).memOk = s.memOk := by simp [State.leaveLink]

theorem State.flitStage_memOk (h : s.memOk = true) : s.flitStage.memOk = true := by
  refine foldl_memOk_of (fun t y ht => ?_) h
  simp [ht]

theorem State.untimedStage_memOk (h : s.memOk = true) : s.untimedStage.memOk = true := by
  unfold State.untimedStage
  extract_lets s1 s2 s3 s4 s5 s6 s7 s8 s9 s10 s11 s12 s13 s14 s15 s16 s17 harts
  have h1 : s1.memOk = true := State.tryAll_memOk execOxJobFinish_keepsMemOk h
  have h2 : s2.memOk = true := State.tryAll_memOk execGateGrant_keepsMemOk h1
  have h3 : s3.memOk = true := State.answersStage_memOk h2
  have h4 : s4.memOk = true := foldl_memOk_of (fun _ _ h => by simp [h]) h3
  have h5 : s5.memOk = true := State.tryAll_memOk execCollStart_keepsMemOk h4
  have h6 : s6.memOk = true := State.tryAll_memOk execTenantTurn_keepsMemOk h5
  have h7 : s7.memOk = true := State.tryAll_memOk execHenRequest_keepsMemOk h6
  have h8 : s8.memOk = true := foldl_memOk_of (fun _ _ h => by simp [h]) h7
  have h9 : s9.memOk = true := State.tryAll_memOk execCollComplete_keepsMemOk h8
  have h10 : s10.memOk = true := foldl_memOk_of (fun _ _ h => by simp [h]) h9
  have h11 : s11.memOk = true := State.tryAll_memOk execHoldSend_keepsMemOk h10
  have h12 : s12.memOk = true := State.tryAll_memOk execRecordInstall_keepsMemOk h11
  have h13 : s13.memOk = true := State.tryAll_memOk execRetransmitTimeout_keepsMemOk h12
  have h14 : s14.memOk = true := (State.postStage_memOk).trans (State.flitStage_memOk h13)
  have h15 : s15.memOk = true := foldl_memOk_of (fun _ _ h => by simp [h]) h14
  have h16 : s16.memOk = true := State.tryAll_memOk execSigwaitWake_keepsMemOk h15
  have h17 : s17.memOk = true := State.memOk_of_ite h16 (State.muleTurn_memOk h16)
  clear_value s17
  simp [h17]

@[simp] theorem State.landStage_memOk (h : s.memOk = true) : s.landStage.memOk = true := by
  simp [State.landStage, h]
theorem State.startJobs_memOk (h : s.memOk = true) : s.startJobs.memOk = true :=
  foldl_memOk_of (fun _ _ h => by simp [h]) h

@[simp] theorem State.repeatTry_memOk {f : State → Result} {n} (hf : KeepsMemOk f) (h : s.memOk = true) :
    (s.repeatTry n f).memOk = true :=
  foldl_memOk_of (fun _ _ hs => State.try_memOk hf hs) h

theorem State.settleStrand_memOk (h : s.memOk = true) (sid) : (s.settleStrand sid).memOk = true := by
  unfold State.settleStrand
  extract_lets s1 st s2 s3
  have h3 : s3.memOk = true := by simp [s3, s2, s1, h]
  simp [h3]

theorem State.endings_memOk (h : s.memOk = true) : s.endings.memOk = true := by
  unfold State.endings
  extract_lets ks s1 s2 open_ s3 s4 s5
  have h1 : s1.memOk = true := by simp [s1, h]
  have h2 : s2.memOk = true := foldl_memOk_of (fun _ _ h => by simp [h]) h1
  have h3 : s3.memOk = true := foldl_memOk_of (fun _ _ h => by simp [h]) h2
  have h4 : s4.memOk = true := by simp [s4, h3]
  have h5 : s5.memOk = true := foldl_memOk_of (fun _ _ h => by simp [h]) h4
  simp [h5]

theorem State.weaverStage_memOk (h : s.memOk = true) : s.weaverStage.memOk = true := by
  unfold State.weaverStage
  extract_lets s1 s2 s3
  have h1 : s1.memOk = true := by
    cases e : s.preempt with
    | none => simp [s1, e, h]
    | some p =>
      have hreq := State.tryAll_memOk (l := s.clustersOf p.victim) (execPreemptRequest_keepsMemOk p.victim) h
      have hcommit := State.try_memOk (execSaveCommit_keepsMemOk p.victim) hreq
      simp [s1, e, hcommit]
  have h3 : s3.memOk = true := State.tryAll_memOk execAgeRaise_keepsMemOk (by simp [s2, h1])
  exact State.try_memOk execAdmit_keepsMemOk h3

theorem State.settleStage_memOk (h : s.memOk = true) : s.settleStage.memOk = true := by
  unfold State.settleStage
  extract_lets ks s1 s2 s3
  have h1 : s1.memOk = true := foldl_memOk_of (fun _ _ h => State.settleStrand_memOk h _) h
  have h2 : s2.memOk = true := by simp [s2, h1]
  have h3 : s3.memOk = true := State.weaverStage_memOk (State.endings_memOk (State.startJobs_memOk h2))
  simp [h3]

@[simp] theorem State.tickStrand_memOk (sid) : (s.tickStrand sid).memOk = s.memOk := by
  unfold State.tickStrand
  dsimp only
  repeat' split
  all_goals simp

@[simp] theorem State.tickStage_memOk : s.tickStage.memOk = s.memOk := by simp [State.tickStage]

theorem State.stageStep_memOk (h : s.memOk = true) : s.stageStep.memOk = true := by
  unfold State.stageStep
  split
  · exact State.outsideStage_memOk h
  · exact State.clockStage_memOk h
  · exact State.takeUpStage_memOk h
  · exact State.meetStage_memOk h
  · exact State.leaseStage_memOk h
  · simp [h]
  · simp [h]
  · exact State.untimedStage_memOk h
  · simp [h]
  · exact State.settleStage_memOk h
  · simp [h]

end Sys2Proof.Machine
end

section
/-! SUPPORT. One step of the machine keeps the canonical form. -/
namespace Sys2Proof.Machine

theorem step_keepsMemOk : KeepsMemOk step := by
  intro s h
  unfold step
  split
  · exact State.strandStep_memOk h _
  · exact State.henStep_memOk h _
  · exact State.hartStep_memOk h _
  · split
    · simp [h]
    · exact State.stageStep_memOk h

end Sys2Proof.Machine
end

section
/-! SUPPORT. The obligations on the canonical form of the memories. -/

/-- Settles O6: after reset both memories are empty, and the empty memory is canonical. -/
theorem resetMemoryCanonical : Obligations.ResetMemoryCanonical := rfl

/-- Settles O7: whichever agent's turn it is, or whichever stage of the gcy with none, the step keeps the canonical form
(`Sys2Proof.Machine.step_keepsMemOk`); every write goes through the operations of the memory that keep it. -/
theorem stepKeepsMemoryCanonical : Obligations.StepKeepsMemoryCanonical := by
  intro s s' h e
  have hstep := Sys2Proof.Machine.step_keepsMemOk s h
  rwa [e] at hstep

end

section
/-! SUPPORT. Collision of pairs and phase sets. -/
namespace Sys2Proof.Machine

theorem collides_iff {a b : Nat × Nat} : collides a b = true ↔ a.2 % Nat.min a.1 b.1 = b.2 % Nat.min a.1 b.1 :=
  beq_iff_eq

/-- Where one stride divides the other, two phase sets share a gcy exactly when the phases agree modulo the smaller stride. -/
theorem exists_common_gcy_iff_of_dvd {m n p q : Nat} (hmn : m ∣ n) (hp : p < m) (hq : q < n) :
    (∃ g, g % m = p ∧ g % n = q) ↔ p % m = q % m := by
  constructor
  · rintro ⟨g, hgp, hgq⟩
    calc p % m = g % m := by rw [Nat.mod_eq_of_lt hp, hgp]
      _ = g % n % m := (Nat.mod_mod_of_dvd g hmn).symm
      _ = q % m := by rw [hgq]
  · intro h
    exact ⟨q, by rw [← h, Nat.mod_eq_of_lt hp], Nat.mod_eq_of_lt hq⟩

/-- The smaller of two powers of two divides the greater, so R27's condition is exact for their phase sets. -/
theorem exists_common_gcy_iff {i j p q : Nat} (hp : p < 2 ^ i) (hq : q < 2 ^ j) :
    (∃ g, g % 2 ^ i = p ∧ g % 2 ^ j = q) ↔ p % Nat.min (2 ^ i) (2 ^ j) = q % Nat.min (2 ^ i) (2 ^ j) := by
  rcases Nat.le_total i j with hij | hji
  · have hmin : Nat.min (2 ^ i) (2 ^ j) = 2 ^ i := Nat.min_eq_left (Nat.pow_le_pow_right two_pos hij)
    rw [hmin]
    exact exists_common_gcy_iff_of_dvd (Nat.pow_dvd_pow 2 hij) hp hq
  · have hmin : Nat.min (2 ^ i) (2 ^ j) = 2 ^ j := Nat.min_eq_right (Nat.pow_le_pow_right two_pos hji)
    rw [hmin, eq_comm]
    simpa only [and_comm] using exists_common_gcy_iff_of_dvd (Nat.pow_dvd_pow 2 hji) hq hp

end Sys2Proof.Machine
end

section
/-! SUPPORT. The obligation on collision. -/

/-- Settles O50: both sides are the condition of R27 (`Sys2Proof.Machine.exists_common_gcy_iff`). -/
theorem phaseSetsShareAGcy : Obligations.PhaseSetsShareAGcy := by
  intro i j p q hp hq
  have hcollide := Sys2Proof.Machine.collides_iff (a := (2 ^ i, p)) (b := (2 ^ j, q))
  exact ⟨hcollide, (Sys2Proof.Machine.exists_common_gcy_iff hp hq).trans hcollide.symm⟩

end

section
/-! SUPPORT. The tenants and the untimed reserves after reset. -/
namespace Sys2Proof.Machine

theorem State.reset_tenant_live_iff (n : Nat) : (State.reset.tenant n).live = true ↔ n = 0 := by
  by_cases h : n = 0
  · subst h
    exact ⟨fun _ => rfl, fun _ => rfl⟩
  · have htenant : State.reset.tenant n = Tenant.none := if_neg h
    rw [htenant]
    exact ⟨fun hlive => absurd hlive Bool.false_ne_true, fun hn => absurd hn h⟩

theorem State.reset_reserve (k : Nat) :
    SMap.get (0, 0) State.reset.reserve k = if k ∈ [0x04, 0x05, 0x07, 0x08, 0x09, 0x0A] then (16, 15) else (0, 0) := by
  split
  · next h =>
    simp only [List.mem_cons, List.not_mem_nil, or_false] at h
    rcases h with rfl | rfl | rfl | rfl | rfl | rfl <;> rfl
  · next h =>
    refine SMap.get_of_notin fun entry found same => h ?_
    rw [← same]
    exact List.mem_map_of_mem (f := Prod.fst) found

end Sys2Proof.Machine
end

section
/-! SUPPORT. The obligation on reset. -/

open Sys2Proof Sys2Proof.Machine

/-- Settles O5: each clause is a field of `State.reset`; the tenants and the reserves have their lemmas. -/
theorem resetLeaves : Obligations.ResetLeaves :=
  ⟨rfl, rfl, rfl, rfl, fun _ => rfl, fun _ => rfl, fun _ _ => rfl, State.reset_tenant_live_iff, rfl, rfl, rfl, rfl, rfl,
    State.reset_reserve⟩

end

section
/-! SUPPORT. Sparse maps and folds: reading a map changed value by value, keys that are listed, and what a fold over a list of keys
leaves. -/
namespace Sys2Proof.Machine

section
variable {α : Type} {d : α} {m : SMap α} {k : Nat}

theorem SMap.get_mapVals {f : Nat → α → α} (hf : f k d = d) : SMap.get d (SMap.mapVals f m) k = f k (SMap.get d m k) := by
  induction m with
  | nil => exact hf.symm
  | cons e t ih =>
    show SMap.get d ((e.1, f e.1 e.2) :: SMap.mapVals f t) k = _
    rw [SMap.get_cons, SMap.get_cons, ih]
    split
    next h => rw [h]
    · rfl

/-- What a key reads is listed there, unless it is the default. -/
theorem SMap.mem_of_get_ne (h : SMap.get d m k ≠ d) : (k, SMap.get d m k) ∈ m := by
  induction m with
  | nil => exact absurd rfl h
  | cons e t ih =>
    rw [SMap.get_cons] at h ⊢
    split at h
    next hk => rw [if_pos hk, hk]; exact List.mem_cons_self
    next hk => rw [if_neg hk]; exact List.mem_cons_of_mem _ (ih h)

theorem SMap.mem_keys_of_get_ne (h : SMap.get d m k ≠ d) : k ∈ SMap.keys m :=
  List.mem_map_of_mem (f := Prod.fst) (SMap.mem_of_get_ne h)

/-- What a listed key reads is listed. -/
theorem SMap.get_mem_of_mem_keys (h : k ∈ SMap.keys m) : (k, SMap.get d m k) ∈ m := by
  induction m with
  | nil => exact absurd h List.not_mem_nil
  | cons e t ih =>
    rw [SMap.get_cons]
    split
    next hk => rw [hk]; exact List.mem_cons_self
    next hk => exact List.mem_cons_of_mem _ (ih ((List.mem_cons.mp h).resolve_left hk))

end

section
variable {σ α β : Type}

/-- A part of the state that no step of a fold changes. -/
theorem foldl_keeps {g : σ → β} {f : σ → α → σ} {l : List α} {s : σ} (hf : ∀ s a, g (f s a) = g s) : g (l.foldl f s) = g s :=
  List.foldlRecOn (motive := fun t => g t = g s) l f rfl fun t ht a _ => (hf t a).trans ht

/-- A fold over keys reads at a key what that key's own step makes of it, once or again. -/
theorem foldl_at_key {get : σ → Nat → β} {step : σ → Nat → σ} {f : Nat → β → β} {l : List Nat} {s : σ} {k : Nat}
    (own : ∀ s, get (step s k) k = f k (get s k)) (other : ∀ s j, k ≠ j → get (step s j) k = get s k)
    (again : ∀ b, f k (f k b) = f k b) : get (l.foldl step s) k = if k ∈ l then f k (get s k) else get s k := by
  induction l generalizing s with
  | nil => rfl
  | cons j rest ih =>
    rw [List.foldl_cons, ih]
    by_cases hj : k = j
    · subst hj
      simp [own, again]
    · simp [other s j hj, hj]

end

end Sys2Proof.Machine
end

section
/-! SUPPORT. What the live link table's side of the machine sees of a state, and that the work of a collective leaves it alone. -/
namespace Sys2Proof.Machine

variable {s : State}

/-- What decides where a timetable's routes lie and whether it is in an M-step. -/
def Timetable.standing (t : Timetable) : Nat × Option Nat × Image × List Place := (t.life, t.mstep, t.img, t.place)

/-- The parts of a state that alignment works on, and where the timetables stand. -/
structure LinkView where
  pkg      : Nat
  table    : List LinkKey
  trained  : List LinkKey
  aligned  : Bool
  alignOut : Bool
  offCount : Nat
  holdLeft : Nat
  losses   : List Nat
  standing : Nat → Nat × Option Nat × Image × List Place

/-- The same with another table. -/
def LinkView.withTable (v : LinkView) (l : List LinkKey) : LinkView := { v with table := l }

def State.linkView (s : State) : LinkView :=
  ⟨s.pkg, s.table, s.trained, s.aligned, s.alignOut, s.offCount, s.holdLeft, s.losses, fun k => (s.tt k).standing⟩

@[simp] theorem State.linkView_ite {c : Prop} [Decidable c] {a b : State} :
    (if c then a else b).linkView = if c then a.linkView else b.linkView := apply_ite ..

/-! ### The operations -/

@[simp] theorem State.setStrand_linkView (k v) : (s.setStrand k v).linkView = s.linkView := rfl
@[simp] theorem State.modStrand_linkView (k f) : (s.modStrand k f).linkView = s.linkView := rfl
@[simp] theorem State.setTenant_linkView (k v) : (s.setTenant k v).linkView = s.linkView := rfl
@[simp] theorem State.setColl_linkView (k v) : (s.setColl k v).linkView = s.linkView := rfl

/-- A timetable's record that stands where it stood. -/
theorem State.setTt_linkView {k : Nat} {v : Timetable} (h : v.standing = (s.tt k).standing) :
    (s.setTt k v).linkView = s.linkView := by
  have hstanding : (fun j => ((s.setTt k v).tt j).standing) = fun j => (s.tt j).standing := by
    funext j
    by_cases hj : j = k
    · subst hj
      rw [State.tt_setTt, h]
    · rw [State.tt_setTt_ne hj]
  exact congrArg (LinkView.mk _ _ _ _ _ _ _ _) hstanding

@[simp] theorem State.meter_linkView (tenant idx n) : (s.meter tenant idx n).linkView = s.linkView := by simp [State.meter]

@[simp] theorem State.meterTt_linkView (tt idx n) : (s.meterTt tt idx n).linkView = s.linkView := by
  have hmeter (m) : ((s.meter (s.tt tt).tenant idx n).setTt tt { s.tt tt with meters := m }).linkView = s.linkView := by
    rw [State.setTt_linkView, State.meter_linkView]
    have hview := State.meter_linkView (s := s) (s.tt tt).tenant idx n
    exact (congrFun (congrArg LinkView.standing hview) tt).symm
  simp [State.meterTt, hmeter]

@[simp] theorem State.meterBytes_linkView (tt l w) : (s.meterBytes tt l w).linkView = s.linkView :=
  foldl_keeps fun _ _ => State.meterTt_linkView ..

@[simp] theorem State.untimedWrite_linkView (n l) : (s.untimedWrite n l).linkView = s.linkView := rfl
@[simp] theorem State.mailBy_linkView (link dest tenant router m) : (s.mailBy link dest tenant router m).linkView = s.linkView := rfl
@[simp] theorem State.putOp_linkView (p) : (s.putOp p).linkView = s.linkView := rfl

@[simp] theorem State.reachBoundary_linkView (sid kind) : (s.reachBoundary sid kind).linkView = s.linkView := by
  unfold State.reachBoundary
  dsimp only
  split
  · exact State.setTt_linkView rfl
  · rfl

@[simp] theorem State.fault_linkView (sid code slot creg offset) : (s.fault sid code slot creg offset).linkView = s.linkView := by
  unfold State.fault
  dsimp only
  have hfirst (st v) : ((s.setStrand sid st).setTt (ttOf sid) { s.tt (ttOf sid) with firstFault := v }).linkView = s.linkView :=
    State.setTt_linkView rfl
  split <;> split <;> simp [hfirst]

@[simp] theorem State.signal_linkView (sid idx n err bundle) : (s.signal sid idx n err bundle).linkView = s.linkView := by
  have hsem (k v) : (s.setTt (ttOf sid) ((s.ttOfStrand sid).setSem k v)).linkView = s.linkView := State.setTt_linkView rfl
  unfold State.signal
  split
  · rfl
  · simp [hsem]

/-! ### Pieces and messages of a collective -/

theorem State.moveOn_linkView {fx : MoverFx} {p cr cw} (hread : ∀ l s, (fx.read l s).linkView = s.linkView)
    (hwrite : ∀ l s, (fx.write l s).linkView = s.linkView) (hrequest : ∀ p s, (fx.request p s).linkView = s.linkView) :
    (s.moveOn p fx cr cw).linkView = s.linkView := by
  simp [State.moveOn, hread, hwrite, hrequest]

@[simp] theorem State.collLand_linkView (ctx l) : (s.collLand ctx l).linkView = s.linkView := by simp [State.collLand]

@[simp] theorem State.collWrite_linkView (ctx off b) : (s.collWrite ctx off b).linkView = s.linkView :=
  foldl_keeps fun _ _ => State.moveOn_linkView (fun _ _ => rfl) (fun _ _ => State.collLand_linkView ..) fun _ _ => rfl

@[simp] theorem State.collPut_linkView (sid c o k b) : (s.collPut sid c o k b).linkView = s.linkView := by simp [State.collPut]

@[simp] theorem State.markAll_linkView (ctx) : (s.markAll ctx).linkView = s.linkView :=
  foldl_keeps fun _ _ => State.collPut_linkView ..

@[simp] theorem State.gooseSend_linkView (ctx tree dest kind unit bytes m) :
    (s.gooseSend ctx tree dest kind unit bytes m).linkView = s.linkView := by
  simp [State.gooseSend, State.gooseMail]

@[simp] theorem State.sendOn_linkView (ctx tree dest kind unit bytes m) :
    (s.sendOn ctx tree dest kind unit bytes m).linkView = s.linkView :=
  foldl_keeps fun _ _ => by simp

/-! ### The end of a collective -/

@[simp] theorem State.collEnd_linkView (ctx status) : (s.collEnd ctx status).linkView = s.linkView := by
  simp [State.collEnd, collStatus]

@[simp] theorem State.collOpen_linkView (ctx) : (s.collOpen ctx).linkView = s.linkView := by simp [State.collOpen]

@[simp] theorem State.collDrain_linkView (ctx) : (s.collDrain ctx).linkView = s.linkView := by
  unfold State.collDrain
  dsimp only
  split
  · simp
  · rfl

theorem State.forwardStep_linkView {t : State} {ctx x} (h : s.forwardStep ctx x = some t) : t.linkView = s.linkView := by
  unfold State.forwardStep at h
  dsimp only at h
  split at h
  · split at h
    · cases h
    · cases h
      simp
  · split at h
    · cases h
    · split at h
      · split at h
        · cases h
          simp
        · obtain ⟨v, -, rfl⟩ := Option.map_eq_some_iff.mp h
          simp
      · cases h
        simp
  · cases h

@[simp] theorem State.landArrived_linkView (ctx) : (s.landArrived ctx).linkView = s.linkView := by
  refine foldl_keeps fun t x => ?_
  cases h : t.forwardStep ctx x with
  | none => rfl
  | some u => exact State.forwardStep_linkView h

@[simp] theorem State.collAbort_linkView (ctx status lost) : (s.collAbort ctx status lost).linkView = s.linkView := by
  have hmark (u : State) (b n) : (u.setTt ctx { u.tt ctx with aborted := b, silent := n }).linkView = u.linkView :=
    State.setTt_linkView rfl
  simp [State.collAbort, State.modTt, hmark]

@[simp] theorem State.linkGone_linkView (key) : (s.linkGone key).linkView = s.linkView :=
  foldl_keeps fun _ _ => by simp

end Sys2Proof.Machine
end

section
/-! SUPPORT. Links that leave the table and links that enter it (f08 R211, R215). -/
namespace Sys2Proof.Machine

variable {s : State}

/-- A link that leaves takes nothing else of the link table's side along. -/
theorem State.dropLink_linkView (key : LinkKey) :
    (s.dropLink key).linkView = s.linkView.withTable (s.table.filter (· != key)) := by
  unfold State.dropLink
  split
  · exact State.linkGone_linkView key
  next h =>
    have hall : s.table.filter (· != key) = s.table := by
      refine List.filter_eq_self.mpr fun k hk => ?_
      have hne : k ≠ key := fun e => h (List.contains_iff_mem.mpr (e ▸ hk))
      simpa using hne
    rw [hall]
    rfl

theorem State.dropLinks_linkView (l : List LinkKey) :
    (l.foldl (fun s k => s.dropLink k) s).linkView = s.linkView.withTable (s.table.filter fun k => k ∉ l) := by
  induction l generalizing s with
  | nil => simp [State.linkView, LinkView.withTable]
  | cons key rest ih =>
    have htable : (s.dropLink key).table = s.table.filter (· != key) :=
      congrArg LinkView.table (State.dropLink_linkView key)
    have hfilter : ((s.table.filter (· != key)).filter fun k => k ∉ rest) = s.table.filter fun k => k ∉ key :: rest := by
      rw [List.filter_filter]
      refine List.filter_congr fun k _ => ?_
      rw [Bool.eq_iff_iff]
      simp [and_comm]
    rw [List.foldl_cons, ih, State.dropLink_linkView, htable, hfilter]
    rfl

/-- The record of a timetable, where it loses its step on account of links of this package. -/
def State.loseRoute (s : State) (links : List LinkKey) (t : Timetable) : Timetable :=
  if t.life = 1 ∧ t.mstep.isSome ∧
      ((s.localRoutes t).any fun r => r.kind == 0x0A && links.any fun k => k.linkAt s.pkg == routeInst t r) then { t with lost := true }
  else t

theorem State.loseRoutes_tt (links : List LinkKey) (k : Nat) : (s.loseRoutes links).tt k = s.loseRoute links (s.tt k) :=
  SMap.get_mapVals (f := fun _ t => s.loseRoute links t) (if_neg fun h => absurd h.1 (by decide))

@[simp] theorem State.loseRoutes_table (links : List LinkKey) : (s.loseRoutes links).table = s.table := rfl

theorem State.loseRoute_lost {links : List LinkKey} {t : Timetable} (hlife : t.life = 1) (hstep : t.mstep.isSome = true)
    (huses : ∃ r ∈ s.localRoutes t, r.kind = 0x0A ∧ ∃ k ∈ links, k.linkAt s.pkg = routeInst t r) :
    (s.loseRoute links t).lost = true := by
  obtain ⟨r, hr, hkind, k, hk, hat⟩ := huses
  have hany : ((s.localRoutes t).any fun r => r.kind == 0x0A && links.any fun k => k.linkAt s.pkg == routeInst t r) = true :=
    List.any_eq_true.mpr ⟨r, hr, by simpa [hkind] using ⟨k, hk, hat⟩⟩
  rw [State.loseRoute, if_pos ⟨hlife, hstep, hany⟩]

/-- The routes of a timetable here, and the units they name, by where it stands. -/
theorem State.localRoutes_congr {u : State} {t t' : Timetable} (hpkg : u.pkg = s.pkg) (h : t.standing = t'.standing) :
    u.localRoutes t = s.localRoutes t' ∧ routeInst t = routeInst t' := by
  simp only [Timetable.standing, Prod.mk.injEq] at h
  obtain ⟨-, -, himg, hplace⟩ := h
  constructor
  · simp only [State.localRoutes, Timetable.placeOf, himg, hplace, hpkg]
  · funext r
    simp only [routeInst, Timetable.placeOf, himg, hplace]

/-! ### ALIGNLOSS -/

/-- The package's own ALIGNLOSS: its links leave the table, and it holds its counter by what OREF asks for. -/
theorem execAlignloss_own (hlost : s.lostAlign = true) (haligned : s.aligned = true) : ∃ t, execAlignloss s = .next t ∧
    t.aligned = false ∧ t.alignOut = true ∧ t.offCount = 0 ∧ t.holdLeft = (if 2 ≤ s.oref then (s.oref / 2).toNat else 0) ∧
    t.table = s.table.filter fun k => k ∉ s.ownLinks := by
  unfold execAlignloss
  rw [if_neg (by simp [hlost, haligned])]
  extract_lets s1 s2
  have hview : s2.linkView = s1.linkView.withTable (s1.table.filter fun k => k ∉ s1.ownLinks) :=
    State.dropLinks_linkView _
  refine ⟨_, rfl, ?_, ?_, ?_, ?_, ?_⟩
  · exact congrArg LinkView.aligned hview
  · exact congrArg LinkView.alignOut hview
  · exact congrArg LinkView.offCount hview
  · exact congrArg LinkView.holdLeft hview
  · exact congrArg LinkView.table hview

/-- Another package's ALIGNLOSS: its links leave the table, and a timetable in an M-step with a route through it loses the step. -/
theorem State.othersLoss_spec (pkg : Nat) :
    (s.othersLoss pkg).aligned = s.aligned ∧ (s.othersLoss pkg).losses = s.losses ∧
    (s.othersLoss pkg).table = (s.table.filter fun k => k ∉ s.trained.filter fun k => k.touches pkg) ∧
    ∀ tt, (s.tt tt).life = 1 → (s.tt tt).mstep.isSome = true →
      (∃ r ∈ s.localRoutes (s.tt tt), r.kind = 0x0A ∧ ∃ k ∈ s.trained, k.touches pkg = true ∧ k.touches s.pkg = true ∧
        k.linkAt s.pkg = routeInst (s.tt tt) r) → ((s.othersLoss pkg).tt tt).lost = true := by
  unfold State.othersLoss
  extract_lets gone s1
  have hview := State.dropLinks_linkView (s := s) gone
  refine ⟨congrArg LinkView.aligned hview, congrArg LinkView.losses hview, congrArg LinkView.table hview, fun tt hlife hstep huses => ?_⟩
  set u := gone.foldl (fun s k => s.dropLink k) s
  have hpkg : u.pkg = s.pkg := congrArg LinkView.pkg hview
  have hstanding : (u.tt tt).standing = (s.tt tt).standing := congrFun (congrArg LinkView.standing hview) tt
  obtain ⟨hroutes, hinst⟩ := State.localRoutes_congr hpkg hstanding
  simp only [Timetable.standing, Prod.mk.injEq] at hstanding
  obtain ⟨hlife', hstep', -, -⟩ := hstanding
  have hlost : (u.loseRoute (gone.filter fun k => k.touches s.pkg) (u.tt tt)).lost = true := by
    refine State.loseRoute_lost (hlife'.trans hlife) (hstep' ▸ hstep) ?_
    obtain ⟨r, hr, hkind, k, hk, hpkg', hown, hat⟩ := huses
    exact ⟨r, hroutes ▸ hr, hkind, k, List.mem_filter.mpr ⟨List.mem_filter.mpr ⟨hk, hpkg'⟩, hown⟩, by rw [hpkg, hinst, hat]⟩
  exact (congrArg Timetable.lost (State.loseRoutes_tt _ tt)).trans hlost

theorem execAlignloss_others {pkg : Nat} {rest : List Nat} (hlost : s.lostAlign = false) (hlosses : s.losses = pkg :: rest) :
    execAlignloss s = .next (State.othersLoss { s with losses := rest } pkg) := by
  unfold execAlignloss
  rw [if_pos (.inl hlost), hlosses]

/-! ### Rejoining the table -/

/-- Links that rejoin the table change nothing of OREF, of memory or of the strands. -/
theorem State.rejoin_frame : (s.rejoin.oref, s.rejoin.mem, s.rejoin.strands) = (s.oref, s.mem, s.strands) :=
  foldl_keeps (g := fun s : State => (s.oref, s.mem, s.strands)) (s := { s with alignOut := false, okCount := 0 }) fun t k => by
    unfold State.enterLink
    split <;> rfl

theorem State.rejoin_if_frame (c : Prop) [Decidable c] : (if c then s.rejoin else s).oref = s.oref ∧
    (if c then s.rejoin else s).mem = s.mem ∧ (if c then s.rejoin else s).strands = s.strands := by
  split
  · have hframe := State.rejoin_frame (s := s)
    simpa only [Prod.mk.injEq] using hframe
  · exact ⟨rfl, rfl, rfl⟩

theorem execAlignExchange_oref {n : Nat} {t1 t2 t3 t4 : Int} (hparent : s.parentLink = some n) (h1 : t1 % 2 ^ 20 = 0)
    (h3 : t3 % 2 ^ 20 = 0) (hout : t1 = (s.link n).exchOut) (hsent : t3 = (s.link n).exch.1) (hcame : t4 = (s.link n).exch.2) :
    ∃ t, execAlignExchange t1 t2 t3 t4 s = .next t ∧ t.oref = (s.link n).oref + ((t1 - t2) + (t4 - t3)) ∧ t.mem = s.mem ∧
      t.strands = s.strands := by
  unfold execAlignExchange
  rw [hparent]
  dsimp only
  rw [if_neg (by simp only [ne_eq, h1, h3, ← hout, ← hsent, ← hcame, not_true_eq_false, or_self, not_false_eq_true])]
  exact ⟨_, rfl, State.rejoin_if_frame _⟩

end Sys2Proof.Machine
end

section
/-! SUPPORT. The fixed windows (f02 R48, R50) and the loading of the counter (f08 R216). -/
namespace Sys2Proof.Machine

variable {s : State}

/-- At a token window's start no lease of an earlier window has a holder. -/
theorem execTokenWindow_spec (h : s.gclk.toNat % 1024 = 0) : ∃ t, execTokenWindow s = .next t ∧ t.strands = s.strands ∧ t.mem = s.mem ∧
    ∀ x ∈ t.tts, ∀ y ∈ x.2.leases, y.2.holder ≠ none → s.gclk.toNat / 1024 ≤ y.2.window := by
  unfold execTokenWindow
  rw [if_pos h]
  refine ⟨_, rfl, rfl, rfl, fun x hx y hy hheld => ?_⟩
  obtain ⟨e, -, rfl⟩ := List.mem_map.mp hx
  obtain ⟨z, -, hz⟩ := List.mem_filterMap.mp hy
  dsimp only at hz
  split at hz
  · split at hz
    · split at hz
      · cases hz
      · cases hz
        exact absurd rfl hheld
    next hwindow =>
      split at hz
      · cases hz
      · cases hz
        exact not_lt.mp hwindow
  next hfree =>
    cases hz
    exact absurd hfree hheld

/-- A strand whose frozen read's window has ended. -/
def Strand.thaw (st : Strand) (g : Nat) : Strand :=
  match st.wait with
  | .refresh u => if u ≤ g ∧ ¬ st.met then { st with wait := .none } else st
  | _ => st

theorem Strand.thaw_refresh {st : Strand} {u g : Nat} (hwait : st.wait = .refresh u) (hmet : st.met = false) (hu : u ≤ g) :
    st.thaw g = { st with wait := .none } := by
  simp [Strand.thaw, hwait, hmet, hu]

theorem Strand.thaw_eq (st : Strand) (g : Nat) : st.thaw g = st ∨ st.thaw g = { st with wait := .none } := by
  unfold Strand.thaw
  split
  · split
    · exact .inr rfl
    · exact .inl rfl
  · exact .inl rfl

theorem Strand.thaw_thaw {st : Strand} {g : Nat} : (st.thaw g).thaw g = st.thaw g := by
  rcases Strand.thaw_eq st g with h | h
  · rw [h, h]
  · rw [h]
    rfl

theorem execRefreshWindow_spec (h : s.gclk.toNat % 4096 = 512) : ∃ t, execRefreshWindow s = .next t ∧ t.mem = s.mem ∧
    ∀ sid u, (s.strand sid).wait = .refresh u → (s.strand sid).met = false → u ≤ s.gclk.toNat → sid ∈ SMap.keys s.strands →
      t.strand sid = { s.strand sid with wait := .none } := by
  unfold execRefreshWindow
  rw [if_pos h]
  refine ⟨_, rfl, foldl_keeps fun _ _ => rfl, fun sid u hwait hmet hu hkey => ?_⟩
  have hfold := foldl_at_key (get := State.strand) (f := fun _ st => Strand.thaw st s.gclk.toNat) (l := SMap.keys s.strands) (s := s)
    (step := fun t sid => t.modStrand sid fun st => st.thaw s.gclk.toNat) (k := sid) (fun _ => State.strand_modStrand ..)
    (fun _ _ hne => State.strand_modStrand_ne hne) fun _ => Strand.thaw_thaw
  rw [if_pos hkey, Strand.thaw_refresh hwait hmet hu] at hfold
  exact hfold

theorem execGclkLoad_spec {n : Nat} (hparent : s.parentLink = some n) (hloaded : s.loaded = false)
    (hnone : ∀ x ∈ s.tts, x.2.placed = false) : execGclkLoad s = .next { s with
      gclk := BitVec.ofNat 64 ((s.link n).sentAt + (s.link n).transit), loaded := true,
      loadedAt := (s.link n).sentAt + (s.link n).transit } := by
  unfold execGclkLoad
  rw [hparent]
  dsimp only
  rw [if_neg (by simpa [hloaded] using hnone)]

end Sys2Proof.Machine
end

section
/-! SUPPORT. The obligation on alignment and the fixed windows. -/

open Sys2Proof Sys2Proof.Machine

/-- Settles O49: each clause is what its event does (`execAlignExchange_oref`, `execAlignloss_own`, `State.othersLoss_spec`,
`execGclkLoad_spec`, `execTokenWindow_spec`, `execRefreshWindow_spec`). That the collectives a lost link aborts leave the link table and the
standing of every timetable alone is `State.linkGone_linkView`. -/
theorem alignmentAndWindows : Obligations.AlignmentAndWindows := by
  refine ⟨?exchange, ?hold, ?own, ?others, ?load, fun s h => execTokenWindow_spec h, fun s h => execRefreshWindow_spec h⟩
  case exchange =>
    intro s n t1 t2 t3 t4 hparent h1 h3 hout hsent hcame
    exact execAlignExchange_oref hparent h1 h3 hout hsent hcame
  case hold =>
    intro s hdue
    exact if_pos hdue
  case own =>
    intro s hlost haligned
    obtain ⟨t, ht, haligned', hout, hoff, hhold, htable⟩ := execAlignloss_own hlost haligned
    refine ⟨t, ht, haligned', hout, hoff, hhold, fun k hk htouches hin => ?_⟩
    rw [htable, List.mem_filter] at hin
    exact of_decide_eq_true hin.2 (List.mem_filter.mpr ⟨hk, htouches⟩)
  case others =>
    intro s pkg rest hlost hlosses
    obtain ⟨haligned, hlosses', htable, hroutes⟩ := State.othersLoss_spec (s := { s with losses := rest }) pkg
    refine ⟨_, execAlignloss_others hlost hlosses, haligned, hlosses', fun k hk htouches hin => ?_, hroutes⟩
    rw [htable, List.mem_filter] at hin
    exact of_decide_eq_true hin.2 (List.mem_filter.mpr ⟨hk, htouches⟩)
  case load =>
    intro s n hparent hloaded hnone
    exact execGclkLoad_spec hparent hloaded hnone

end

section
/-! SUPPORT. Memory written cell by cell, runs put together from parts, and the header of a save area (f10 R275). -/
namespace Sys2Proof.Machine

variable {s : State}

/-- An address reads what every cell for it holds, where there is one or it read so before. -/
theorem Memory.read_writeAll {m : Memory} {l : List (Nat × Byte)} {x : Nat} {v : Byte} (hone : ∀ e ∈ l, e.1 = x → e.2 = v)
    (h : (x, v) ∈ l ∨ m.read x = v) : (m.writeAll l).read x = v := by
  unfold Memory.writeAll
  induction l generalizing m with
  | nil => exact h.resolve_left List.not_mem_nil
  | cons e t ih =>
    rw [List.foldl_cons]
    refine ih (fun y hy => hone y (List.mem_cons_of_mem _ hy)) ?_
    by_cases he : x = e.1
    · have hv : e.2 = v := hone e List.mem_cons_self he.symm
      right
      rw [he, Memory.read_write_self, hv]
    · rw [Memory.read_write_ne he]
      refine h.imp_left fun hmem => (List.mem_cons.mp hmem).resolve_left fun heq => he ?_
      rw [← heq]

/-- A stretch of memory taken out reads 0. -/
theorem Memory.read_zeroed_in {m : Memory} {a n x : Nat} (h1 : a ≤ x) (h2 : x < a + n) :
    Memory.read (m.filter fun e => decide (e.1 < a) || decide (a + n ≤ e.1)) x = 0 := by
  refine SMap.get_of_notin fun e he hx => ?_
  have hkeep := (List.mem_filter.mp he).2
  simp only [hx, Bool.or_eq_true, decide_eq_true_eq] at hkeep
  omega

theorem mem_partOf {l : List Byte} {o : Nat} {b : Byte} : (o, b) ∈ (partOf l).2 ↔ l[o]? = some b ∧ b ≠ 0 := by
  simp only [partOf, List.mem_map, List.mem_filter, Prod.mk.injEq, bne_iff_ne]
  constructor
  · rintro ⟨x, ⟨hx, hne⟩, rfl, rfl⟩
    exact ⟨List.mem_zipIdx_iff_getElem?.mp hx, hne⟩
  · rintro ⟨hx, hne⟩
    exact ⟨(b, o), ⟨List.mem_zipIdx_iff_getElem?.mpr hx, hne⟩, rfl, rfl⟩

theorem getElem?_append_mid {α : Type} {a b c : List α} {n i : Nat} (ha : a.length = n) (hi : i < b.length) :
    (a ++ b ++ c)[n + i]? = b[i]? := by
  rw [List.getElem?_append_left (by rw [List.length_append]; omega), List.getElem?_append_right (by omega), ← ha,
    Nat.add_sub_cancel_left]

theorem State.saveHeader_length (tt n : Nat) (dig : BitVec 384) : (s.saveHeader tt n dig).length = 256 := by
  simp [State.saveHeader, bytesOf_length]

/-- COMMIT, at offset 128 of the header, is 1. -/
theorem State.saveHeader_commit (tt n : Nat) (dig : BitVec 384) {i : Nat} (hi : i < 8) :
    (s.saveHeader tt n dig)[128 + i]? = some (if i = 0 then 1 else 0) := by
  have hmid : (s.saveHeader tt n dig)[128 + i]? = (bytesOf 8 1)[i]? :=
    getElem?_append_mid (by simp [bytesOf_length]) (by rw [bytesOf_length]; exact hi)
  rw [hmid]
  interval_cases i <;> rfl

/-- The cells of a save area that hold its COMMIT. -/
theorem State.mem_saveCells_commit {tt : Nat} {stops : List SaveStop} {a i : Nat} {v : Byte} (hi : i < 8) :
    (a + 128 + i, v) ∈ s.saveCells tt stops a ↔ i = 0 ∧ v = 1 := by
  unfold State.saveCells
  extract_lets body header
  have hlen : header.1 = 256 := State.saveHeader_length ..
  have hbody (x : Nat × Byte) : header.1 + x.1 ≠ 128 + i := by omega
  have hcommit : (128 + i, v) ∈ header.2 ↔ i = 0 ∧ v = 1 := by
    rw [mem_partOf, State.saveHeader_commit _ _ _ hi]
    by_cases h0 : i = 0
    · simp only [h0, if_true, Option.some.injEq, true_and]
      exact ⟨fun h => h.1.symm, fun h => ⟨h.symm, by rw [h]; decide⟩⟩
    · simp only [h0, if_false, Option.some.injEq, false_and, iff_false, not_and_not_right]
      exact Eq.symm
  rw [← hcommit]
  clear_value header body
  simp only [List.mem_map, Part.append, List.mem_append, Prod.mk.injEq, Prod.exists]
  constructor
  · rintro ⟨o, b, hob, ho, rfl⟩
    have ho' : o = 128 + i := by omega
    subst ho'
    exact hob.resolve_right fun ⟨x, y, _, hx, _⟩ => hbody (x, y) hx
  · intro h
    exact ⟨128 + i, v, .inl h, by omega, rfl⟩

theorem State.saveSize_ge {tt : Nat} {stops : List SaveStop} : 4096 ≤ s.saveSize tt stops :=
  calc 4096 = 2 ^ 12 := rfl
    _ ≤ s.saveSize tt stops := Nat.pow_le_pow_right two_pos (Nat.le_add_right ..)

section
variable {m : Memory} {cells : List (Nat × Byte)} {a size : Nat}

/-- A place zeroed and filled with cells of which COMMIT's are the one byte 1. -/
theorem Memory.read_area_commit {i : Nat} (hsize : 4096 ≤ size) (hi : i < 8)
    (hcells : ∀ v, (a + 128 + i, v) ∈ cells ↔ i = 0 ∧ v = 1) :
    (Memory.writeAll (m.filter fun e => decide (e.1 < a) || decide (a + size ≤ e.1)) cells).read (a + 128 + i) =
      if i = 0 then 1 else 0 := by
  refine Memory.read_writeAll (fun c hc hx => ?_) ?_
  · obtain ⟨hi0, hv⟩ := (hcells c.2).mp (hx ▸ hc)
    rw [hv, if_pos hi0]
  · by_cases hi0 : i = 0
    · left
      rw [if_pos hi0]
      exact (hcells 1).mpr ⟨hi0, rfl⟩
    · right
      rw [if_neg hi0]
      exact Memory.read_zeroed_in (by omega) (by omega)

/-- Outside the place and the cells nothing changes. -/
theorem Memory.read_area_outside {x : Nat} (hx : x < a ∨ a + size ≤ x) (hcell : x ∉ cells.map (·.1)) :
    (Memory.writeAll (m.filter fun e => decide (e.1 < a) || decide (a + size ≤ e.1)) cells).read x = m.read x :=
  (Memory.read_writeAll_out fun c hc hcx => hcell (List.mem_map.mpr ⟨c, hc, hcx⟩)).trans (Memory.read_zeroed hx)

end

/-- What the save of a pre-empted timetable does where DRAM has room: the area is written with COMMIT 1, the timetable notes where it lies,
and nothing else of memory, of the strands or of the other timetables changes. -/
theorem execSaveCommit_spec {tt : Nat} (hpre : s.preempting tt = true) (hcause : (s.tt tt).cause = 0) (hlife : (s.tt tt).life = 1)
    (hsaved : (s.tt tt).saved = none) (hall : s.allSaved tt = true) (hidle : s.collIdle tt = true) (hquiet : s.quiet tt = true)
    (hroom : s.hasRoom (s.saveDie tt) 3 (s.saveSize tt (s.stops tt)) = true) :
    ∃ t v a s1, s.newExtent (s.saveDie tt) 3 (s.saveSize tt (s.stops tt)) = some (a, s1) ∧ execSaveCommit tt s = .next t ∧
      t.tt tt = { s.tt tt with saved := some v } ∧ v.at_ = s.gclk.toNat ∧ t.strands = s.strands ∧ (∀ k, k ≠ tt → t.tt k = s.tt k) ∧
      (∀ i < 8, t.mem.read (a + 128 + i) = if i = 0 then 1 else 0) ∧
      ∀ x, (x < a ∨ a + s.saveSize tt (s.stops tt) ≤ x) → x ∉ (s.saveCells tt (s.stops tt) a).map (·.1) → t.mem.read x = s.mem.read x := by
  unfold execSaveCommit
  dsimp only
  rw [if_neg (by simp [hpre, hcause, hlife, hsaved, hall, hidle, hquiet])]
  generalize hrot : List.filter (fun sid => (s.strand sid).psg % 4 == (s.lease sid).prev) (s.alive tt) = rot
  obtain ⟨a, s1, v, n, e, hnew, hat, hs1, hwrite⟩ := State.writeSave_of_hasRoom (rot := rot) hroom
  have hmem : s1.mem = s.mem.filter fun e => decide (e.1 < a) || decide (a + s.saveSize tt (s.stops tt) ≤ e.1) := by
    rw [hs1]
    rfl
  have hstrands : s1.strands = s.strands := by
    rw [hs1]
    rfl
  have htts : s1.tts = s.tts := by
    rw [hs1]
    rfl
  rw [hwrite]
  refine ⟨_, v, a, s1, hnew, rfl, State.tt_setTt .., hat, ?_, fun k hk => ?_, fun i hi => ?_, fun x hx hcell => ?_⟩
  · rw [State.setTt_strands, State.writeBytes_strands, State.setObj_strands]
    exact hstrands
  · rw [State.tt_setTt_ne hk, State.tt, State.writeBytes_tts, State.setObj_tts]
    exact congrArg (SMap.get Timetable.blank · k) htts
  · rw [State.setTt_mem, State.writeBytes_mem, State.setObj_mem, hmem]
    exact Memory.read_area_commit State.saveSize_ge hi fun _ => State.mem_saveCells_commit hi
  · rw [State.setTt_mem, State.writeBytes_mem, State.setObj_mem, hmem]
    exact Memory.read_area_outside hx hcell

end Sys2Proof.Machine
end

section
/-! SUPPORT. The request of a pre-emption: the mode a cluster takes, and what it does to the cluster's strands (f10 R270, R272). -/
namespace Sys2Proof.Machine

variable {s : State}

/-- A fold that keeps one of two values ends with one it was given. -/
theorem foldl_choice_mem {α : Type} {f : α → α → α} (hf : ∀ a b, f a b = a ∨ f a b = b) (l : List α) (a : α) :
    l.foldl f a ∈ a :: l := by
  induction l generalizing a with
  | nil => exact List.mem_cons_self
  | cons b t ih =>
    rw [List.foldl_cons]
    rcases hf a b with h | h <;> rw [h]
    · rcases List.mem_cons.mp (ih a) with heq | ht
      · rw [heq]
        exact List.mem_cons_self
      · exact List.mem_cons_of_mem _ (List.mem_cons_of_mem _ ht)
    · exact List.mem_cons_of_mem _ (ih b)

/-- Discard is chosen only where it is open. -/
theorem State.mayDiscard_of_chooseMode {tt clu deadline : Nat} (h : s.chooseMode tt clu deadline = 2) : s.mayDiscard tt = true := by
  unfold State.chooseMode at h
  extract_lets t q r l maxOf maps gap jobs qall qrun set bsave bq back drain save disc opts fit cost at h
  have hopts : ∀ o ∈ opts, o.1 = 2 → s.mayDiscard tt = true := by
    intro o ho h2
    rcases List.mem_append.mp ho with hfirst | hlast
    · simp only [List.mem_cons, List.not_mem_nil, or_false] at hfirst
      rcases hfirst with heq | heq <;> rw [heq] at h2 <;> cases h2
    · by_contra hno
      rw [if_neg hno] at hlast
      exact List.not_mem_nil hlast
  have hmem : ∀ o ∈ (if fit.isEmpty = true then opts else fit), o ∈ opts := by
    intro o ho
    split at ho
    · exact ho
    · exact (List.mem_filter.mp ho).1
  split at h
  · exact absurd h (by decide)
  next o rest heq =>
    refine hopts _ (hmem _ ?_) h
    rw [heq]
    exact foldl_choice_mem (fun a b => by split <;> simp) rest o

/-- Another record that stands where it stood leaves the strands of a cluster as they are. -/
theorem State.onCluster_setTt {k tt clu : Nat} {v : Timetable} (h : v.standing = (s.tt k).standing) :
    (s.setTt k v).onCluster tt clu = s.onCluster tt clu := by
  have hstanding (j) : ((s.setTt k v).tt j).img = (s.tt j).img ∧ ((s.setTt k v).tt j).place = (s.tt j).place := by
    have hview := congrFun (congrArg LinkView.standing (State.setTt_linkView h)) j
    simp only [State.linkView, Timetable.standing, Prod.mk.injEq] at hview
    exact hview.2.2
  simp only [State.onCluster, State.alive, State.sids, Timetable.count, State.placeOfStrand, State.ttOfStrand, Timetable.placeOf,
    hstanding, State.setTt_strand]

/-- What discard makes of a strand: it issues nothing more, its wait abandoned. -/
def Strand.discarded (st : Strand) : Strand :=
  { st with skip := true, wait := .none, more := [], owed := [], slots := [], met := false, arrived := none, leaves := none }

/-- What the request does to one strand of the cluster. -/
def State.preemptStrand (s : State) (mode : Nat) (t : Timetable) (sid : Nat) : State :=
  if mode = 2 then s.setStrand sid (s.strand sid).discarded
  else if (s.strand sid).wait = .barrier ∧ (s.strand sid).arrived.isSome ∧ t.mstep.isNone then s.park sid
  else s

theorem State.preemptStrand_frame (mode : Nat) (t : Timetable) (sid : Nat) :
    ((s.preemptStrand mode t sid).mem, (s.preemptStrand mode t sid).tts) = (s.mem, s.tts) := by
  unfold State.preemptStrand
  split
  · rfl
  · split <;> rfl

/-- The record of the victim once a cluster has taken its mode. -/
def Timetable.withMode (t : Timetable) (clu mode : Nat) : Timetable :=
  { t with modes := t.modes ++ [(clu, mode)], start := none, held := false, wouldBe := none, late := false }

theorem execPreemptRequest_eq {p : Preemption} {clu : Nat} (hp : s.preempt = some p) (hnew : ∀ m ∈ (s.tt p.victim).modes, m.1 ≠ clu)
    (hsome : s.onCluster p.victim clu ≠ []) : let mode := s.chooseMode p.victim clu (p.since + s.preemptDl)
    execPreemptRequest p.victim clu s = .next ((s.onCluster p.victim clu).foldl (fun u sid => u.preemptStrand mode (s.tt p.victim) sid)
      (s.setTt p.victim ((s.tt p.victim).withMode clu mode))) := by
  have hany : ((s.tt p.victim).modes.any fun m => m.1 == clu) = false := List.any_eq_false.mpr fun m hm => by simpa using hnew m hm
  intro mode
  have hclu : (s.setTt p.victim ((s.tt p.victim).withMode clu mode)).onCluster p.victim clu = s.onCluster p.victim clu :=
    State.onCluster_setTt rfl
  unfold execPreemptRequest
  rw [hp]
  dsimp only
  rw [if_neg (by simpa [hany] using hsome), ← hclu]
  rfl

theorem execPreemptRequest_spec {p : Preemption} {clu : Nat} (hp : s.preempt = some p) (hnew : ∀ m ∈ (s.tt p.victim).modes, m.1 ≠ clu)
    (hsome : s.onCluster p.victim clu ≠ []) : let mode := s.chooseMode p.victim clu (p.since + s.preemptDl)
    ∃ t, execPreemptRequest p.victim clu s = .next t ∧ (t.tt p.victim).modes = (s.tt p.victim).modes ++ [(clu, mode)] ∧ t.mem = s.mem ∧
      (mode = 2 → ∀ sid, t.strand sid = if sid ∈ s.onCluster p.victim clu then (s.strand sid).discarded else s.strand sid) := by
  intro mode
  have hframe := foldl_keeps (g := fun s : State => (s.mem, s.tts)) (f := fun u sid => u.preemptStrand mode (s.tt p.victim) sid)
    (l := s.onCluster p.victim clu) (s := s.setTt p.victim ((s.tt p.victim).withMode clu mode)) fun _ _ => State.preemptStrand_frame ..
  rw [Prod.mk.injEq] at hframe
  obtain ⟨hmem, htts⟩ := hframe
  refine ⟨_, execPreemptRequest_eq hp hnew hsome, ?_, hmem, fun hmode sid => ?_⟩
  · have htt := congrArg (SMap.get Timetable.blank · p.victim) htts
    exact congrArg Timetable.modes (htt.trans (State.tt_setTt ..))
  · have hstep (u : State) (j) : u.preemptStrand mode (s.tt p.victim) j = u.setStrand j (u.strand j).discarded := if_pos hmode
    exact foldl_at_key (get := State.strand) (f := fun _ st => Strand.discarded st)
      (step := fun u sid => u.preemptStrand mode (s.tt p.victim) sid)
      (fun u => by rw [hstep, State.strand_setStrand]) (fun u j hne => by rw [hstep, State.strand_setStrand_ne hne]) fun _ => rfl

end Sys2Proof.Machine
end

section
/-! SUPPORT. What leaving, promotion and a dropped save area keep, and the end of a pre-emption: the victim leaves, or the pre-emption is
over (f10 R273, R437). -/
namespace Sys2Proof.Machine

variable {s : State}

/-! ### Promotion and leaving -/

/-- Promotion changes the timetables' records alone. -/
theorem State.rise_eq (key : Nat) : ∃ x, s.rise key = { s with tts := x } := by
  unfold State.rise
  dsimp only
  split
  · exact ⟨s.tts, rfl⟩
  · split
    · exact ⟨_, rfl⟩
    · split <;> exact ⟨_, rfl⟩

theorem State.promote_eq : ∃ x, s.promote = { s with tts := x } := by
  unfold State.promote
  split
  · exact ⟨s.tts, rfl⟩
  · refine List.foldlRecOn (motive := fun t : State => ∃ x, t = { s with tts := x }) _ _ ⟨s.tts, rfl⟩ ?_
    rintro _ ⟨x, rfl⟩ a -
    exact State.rise_eq _

/-- What a request and a pre-emption under way are of a state. -/
def State.asked (s : State) : List AdmReq × Option Preemption := (s.requests, s.preempt)

theorem State.modStrand_asked (k : Nat) (f : Strand → Strand) : (s.modStrand k f).asked = s.asked := rfl
theorem State.modTt_asked (k : Nat) (f : Timetable → Timetable) : (s.modTt k f).asked = s.asked := rfl
theorem State.scrubBanks_asked (t : Timetable) : (s.scrubBanks t).asked = s.asked := rfl

theorem State.dropCode_requests (k : Nat) : (s.dropCode k).requests = s.requests := rfl
theorem State.dropCode_tt (k j : Nat) : (s.dropCode k).tt j = s.tt j := rfl

theorem State.unpin_keep_asked (key : Nat) : (s.unpin key true).asked = s.asked := by
  simp only [State.unpin, if_true]
  split
  · rfl
  · exact foldl_keeps fun _ _ => rfl

theorem State.leave_asked (key : Nat) : (s.leave key true).asked = s.asked := by
  obtain ⟨x, hx⟩ := State.promote_eq (s := (s.freePairs key).unpin key true)
  rw [State.leave, hx]
  exact (State.unpin_keep_asked key).trans rfl

theorem State.rerunAdmit_none {req : Nat} (h : (s.requests.find? fun r => r.id == req) = none) :
    s.rerunAdmit req = { s with preempt := none } := by
  unfold State.rerunAdmit
  dsimp only
  rw [h]

theorem execVictimVacated_spec {tt : Nat} {p : Preemption} (hp : s.preempt = some p) (hpre : s.preempting tt = true)
    (hlife : (s.tt tt).life = 1) (hcommit : s.committed tt = true) :
    ∃ u : State, execVictimVacated tt s = .next (u.rerunAdmit p.req) ∧ (u.tt tt).life = 3 ∧ (∀ x ∈ (u.tt tt).place, x.v = false) ∧
      ((s.requests.find? fun r => r.id == p.req) = none → u.rerunAdmit p.req = { u with preempt := none }) := by
  unfold execVictimVacated
  extract_lets t maps liveTile s1 s2 s3
  rw [if_neg (by simp [t, hpre, hlife, hcommit])]
  have hasked : s3.asked = s.asked := calc
    s3.asked = s2.asked := State.modTt_asked ..
    _ = (s1.leave tt true).asked := State.scrubBanks_asked ..
    _ = s1.asked := State.leave_asked tt
    _ = s.asked := foldl_keeps fun _ _ => State.modStrand_asked ..
  simp only [State.asked, Prod.mk.injEq] at hasked
  obtain ⟨hrequests, hpreempt⟩ := hasked
  refine ⟨s3.dropCode tt, by rw [hpreempt, hp, Option.elim_some], ?_, fun x hx => ?_, fun hnone => State.rerunAdmit_none ?_⟩
  · rw [State.dropCode_tt, State.tt_modTt]
  · rw [State.dropCode_tt, State.tt_modTt] at hx
    obtain ⟨y, -, rfl⟩ := List.mem_map.mp hx
    rfl
  · rw [State.dropCode_requests, hrequests]
    exact hnone

/-! ### A save area given back -/

/-- A state with no memory and no gate. -/
def State.sansMemory (s : State) : State := { s with mem := [], gates := [] }

theorem State.freeExtents_sansMemory (tenant : Nat) (e : BitVec 256) (n : Nat) :
    (s.freeExtents tenant e n).sansMemory = s.sansMemory := by
  unfold State.freeExtents
  dsimp only
  split
  · rfl
  · refine foldl_keeps fun t i => ?_
    split
    · split <;> rfl
    · rfl

theorem State.dropSave_saved (tt : Nat) : ((s.dropSave tt).tt tt).saved = none := by
  unfold State.dropSave
  dsimp only
  split
  next h => exact h
  · rw [State.tt_setTt]

theorem State.dropSave_strands (tt : Nat) : (s.dropSave tt).strands = s.strands := by
  unfold State.dropSave
  dsimp only
  split
  · rfl
  next v _ =>
    have hfree := State.freeExtents_sansMemory (s := s) (s.tt tt).tenant (s.obj (s.tt tt).tenant v.obj).entry 0
    exact (congrArg State.strands hfree :)

theorem State.dropSave_asked (tt : Nat) : (s.dropSave tt).asked = s.asked := by
  unfold State.dropSave
  dsimp only
  split
  · rfl
  next v _ =>
    have hfree := State.freeExtents_sansMemory (s := s) (s.tt tt).tenant (s.obj (s.tt tt).tenant v.obj).entry 0
    exact (congrArg State.asked hfree :)

theorem State.dropSave_errlog (tt : Nat) : (s.dropSave tt).errlog = s.errlog := by
  unfold State.dropSave
  dsimp only
  split
  · rfl
  next v _ =>
    have hfree := State.freeExtents_sansMemory (s := s) (s.tt tt).tenant (s.obj (s.tt tt).tenant v.obj).entry 0
    exact (congrArg State.errlog hfree :)

/-! ### Strands that go on in place -/

/-- What waking makes of a strand with the slot group its place gives it; one that is not there stays so. -/
def Strand.woken (t : Timetable) (st : Strand) : Strand :=
  if st.life = 0 then st
  else st.wake (4 * (t.placeOf st.lcore).coreNo + (t.placeOf st.lcore).group st.sib)

theorem Strand.woken_woken {t : Timetable} {st : Strand} : (st.woken t).woken t = st.woken t := by
  unfold Strand.woken Strand.wake
  by_cases h0 : st.life = 0
  · simp [h0]
  · by_cases h4 : st.life = 4
    · by_cases hw : st.wait = .barrier <;> simp [h4, hw]
    · simp [h0, h4]

theorem Strand.woken_suspended {t : Timetable} {st : Strand} (h : st.life = 4) :
    (st.woken t).life = 1 ∧ (st.woken t).skip = false ∧ (st.wait ≠ .barrier → (st.woken t).vclk = st.vclk - 1) := by
  unfold Strand.woken Strand.wake
  by_cases hw : st.wait = .barrier <;> simp [h, hw]

theorem State.wakeStrands_strand {key g sid : Nat} (h : sid ∈ s.sids key) :
    (s.wakeStrands key g).strand sid = (s.strand sid).woken (s.tt key) := by
  have hfold := foldl_at_key (get := State.strand) (f := fun _ st => Strand.woken (s.tt key) st) (l := s.sids key) (s := s) (k := sid)
    (step := fun u sid => if (u.strand sid).life = 0 then u else u.modStrand sid fun st =>
      st.wake (4 * ((s.tt key).placeOf st.lcore).coreNo + ((s.tt key).placeOf st.lcore).group st.sib)) ?own ?other
    fun _ => Strand.woken_woken
  case own =>
    intro u
    unfold Strand.woken
    split
    · rfl
    · rw [State.strand_modStrand]
  case other =>
    intro u j hne
    split
    · rfl
    · rw [State.strand_modStrand_ne hne]
  rw [if_pos h] at hfold
  exact hfold

theorem State.wakeStrands_asked (key g : Nat) : (s.wakeStrands key g).asked = s.asked := by
  change State.asked (List.foldl _ s _) = s.asked
  refine foldl_keeps fun u sid => ?_
  split <;> rfl

theorem State.wakeStrands_errlog (key g : Nat) : (s.wakeStrands key g).errlog = s.errlog := by
  change State.errlog (List.foldl _ s _) = s.errlog
  refine foldl_keeps fun u sid => ?_
  split <;> rfl

/-! ### The pre-emption is over -/

/-- An error record is 64 bytes, its KIND at offset 8. -/
theorem State.errorRecord_length (tt kind aux : Nat) : (s.errorRecord tt kind aux).length = 64 := by
  simp [State.errorRecord, bytesOf_length]

theorem State.errorRecord_kind (tt kind aux : Nat) : (s.errorRecord tt kind aux)[8]? = some (BitVec.ofNat 8 kind) := by
  simp [State.errorRecord, bytesOf]

/-- The state once the limit has passed: the record written, the strands going on, what was saved dropped. -/
def State.cancelled (s : State) (victim : Nat) : State :=
  let v := { s with preempt := none }
  ((v.logError (v.errorRecord victim 7 0)).wakeStrands victim 0).dropSave victim

theorem State.cancelled_asked (victim : Nat) : (s.cancelled victim).asked = (s.requests, none) := by
  unfold State.cancelled
  rw [State.dropSave_asked, State.wakeStrands_asked]
  rfl

theorem State.cancelled_errlog (victim : Nat) :
    ∃ rec_, (s.cancelled victim).errlog = s.errlog ++ [rec_] ∧ rec_.length = 64 ∧ rec_[8]? = some 7 := by
  unfold State.cancelled
  rw [State.dropSave_errlog, State.wakeStrands_errlog]
  exact ⟨_, rfl, State.errorRecord_length .., State.errorRecord_kind ..⟩

theorem State.cancelled_strand {victim sid : Nat} (h : sid ∈ s.sids victim) :
    (s.cancelled victim).strand sid = (s.strand sid).woken (s.tt victim) := by
  unfold State.cancelled
  rw [State.strand, State.dropSave_strands]
  exact State.wakeStrands_strand h

/-- The record a refused request is refused with: its own, or a new one of the launch's node, with what the request touched. -/
def State.refusedRecord (s : State) (p : Preemption) (r : AdmReq) (n : Node) : State :=
  let key := if r.kind = 0 then s.nextTt else r.tt
  (if r.kind = 0 then s.setTt key (s.freshTt r n) else s).modTt key fun t => { t with touched := p.touched }

/-- Past the limit the pre-emption is over, and its request, where there is one, is refused. -/
theorem execPreemptCancel_eq {p : Preemption} (hp : s.preempt = some p) (hlimit : p.since + s.preemptLimit ≤ s.gclk.toNat) :
    let u := s.cancelled p.victim
    execPreemptCancel p.victim s = match s.requests.find? fun r => r.id == p.req with
      | none => .next u
      | some r => match u.reqNode r with
        | none => .next u
        | some n => .next (((u.refusedRecord p r n).refusePhase r (if r.kind = 0 then u.nextTt else r.tt)).promote) := by
  intro u
  have hrequests : u.requests = s.requests := congrArg Prod.fst (State.cancelled_asked p.victim)
  rw [← hrequests]
  unfold execPreemptCancel
  rw [hp]
  dsimp only
  rw [if_neg (by simpa using hlimit)]
  rfl

theorem State.refusePhase_eq (r : AdmReq) (key : Nat) :
    s.refusePhase r key = s.refuse r key (if (s.tt key).pin.isSome then rPhaseTaken else rNoPhase)
      (s.refusingKind (s.tt key) (s.tt key).touched) (s.suggestion (s.tt key) (s.tt key).touched) := rfl

theorem execPlaceTableWrite_unsuspended {tt : Nat} {l : List Place} (h : (s.tt tt).life ≠ 3) :
    execPlaceTableWrite tt l s = .next s := if_pos (.inl h)

/-- A refill with some V clear is taken, and requests nothing yet. -/
theorem execPlaceTableWrite_partial {tt : Nat} {l : List Place} (hlife : (s.tt tt).life = 3)
    (hnone : ∀ r ∈ s.requests, ¬ (r.kind = 1 ∧ r.tt = tt)) (hclear : ∃ p ∈ l, p.v = false) :
    execPlaceTableWrite tt l s = .next (s.setTt tt { s.tt tt with place := l }) := by
  obtain ⟨p, hp, hv⟩ := hclear
  have hany : (s.requests.any fun r => r.kind == 1 && r.tt == tt) = false :=
    List.any_eq_false.mpr fun r hr => by simpa using hnone r hr
  have hall : (l.all fun p => p.v) = false := List.all_eq_false.mpr ⟨p, hp, by simp [hv]⟩
  have hallAway (k) : (l.all fun p => p.v && p.pkg == k) = false := List.all_eq_false.mpr ⟨p, hp, by simp [hv]⟩
  unfold execPlaceTableWrite
  dsimp only
  rw [if_neg (by simp [hlife, hany]), if_neg (by simp [hallAway]), if_neg (by simp [hall])]

end Sys2Proof.Machine
end

section
/-! SUPPORT. The obligation on pre-emption. -/

open Sys2Proof Sys2Proof.Machine

/-- Settles O52: the request (`execPreemptRequest_spec`), the save (`execSaveCommit_spec`), the victim's leaving (`execVictimVacated_spec`),
the end past the limit (`execPreemptCancel_eq`, with what `State.cancelled` is) and the place table. -/
theorem preemptions : Obligations.Preemptions := by
  refine ⟨?request, fun s tt => execSaveCommit_spec, ?vacated, ?cancel, ?table⟩
  case request =>
    intro s p clu hp hnew hsome mode
    obtain ⟨t, ht, hmodes, hmem, hdiscard⟩ := execPreemptRequest_spec hp hnew hsome
    refine ⟨t, ht, hmodes, State.mayDiscard_of_chooseMode, hmem, fun hmode sid hsid => ?_, fun hmode sid hsid => ?_⟩
    · rw [hdiscard hmode, if_pos hsid]
      rfl
    · rw [hdiscard hmode, if_neg hsid]
  case vacated =>
    intro s tt p hp hpre hlife hcommit
    exact execVictimVacated_spec hp hpre hlife hcommit
  case cancel =>
    intro s p hp hlimit v u
    have hexec := execPreemptCancel_eq hp hlimit
    refine ⟨?_, congrArg Prod.snd (State.cancelled_asked p.victim), State.dropSave_saved p.victim,
      State.cancelled_errlog p.victim, fun hnone => ?_, fun r n hr hn => ⟨?_, State.refusePhase_eq ..⟩⟩
    · intro sid hsid st hst
      have hstrand : u.strand sid = (s.strand sid).woken (s.tt p.victim) := State.cancelled_strand hsid
      rw [hstrand]
      exact Strand.woken_suspended hst
    · rw [hnone] at hexec
      exact hexec
    · have hnode : (s.cancelled p.victim).reqNode r = some n := hn
      simp only [hr, hnode] at hexec
      exact hexec
  case table =>
    intro s tt l
    exact ⟨execPlaceTableWrite_unsuspended, execPlaceTableWrite_partial⟩

end

section
/-! SUPPORT. A teardown of a tenant that has no timetable, and what a flush of a queue changes. -/
namespace Sys2Proof.Machine

variable {s : State} {n fn q : Nat}

/-- A tenant's record with the next key taken. -/
theorem State.tenant_setTenant_keys {v : Tenant} {keys : Nat} : ({ s.setTenant n v with keys := keys } : State).tenant n = v :=
  State.tenant_setTenant n v

/-! ### Teardown -/

/-- Without a timetable of the tenant there is nothing to stop. -/
theorem State.stopTenant_none (h : ∀ x ∈ s.tts, x.2.tenant ≠ n) : s.stopTenant n = s := by
  refine List.foldlRecOn (motive := fun t => t = s) _ _ rfl fun t ht k hk => ?_
  subst ht
  have hne : (t.tt k).tenant ≠ n := h _ (SMap.get_mem_of_mem_keys hk)
  exact if_neg fun hstop => hne hstop.1

/-- Without a request, a compaction or a pre-emption there is nothing to drop. -/
theorem State.dropRequests_none (hreq : s.requests = []) (hc : s.compact = none) (hp : s.preempt = none) : s.dropRequests n = s := by
  simp only [State.dropRequests, hc, hp, hreq, List.filter_nil]
  rw [← hreq, ← hc, ← hp]

theorem State.finishTeardown_func (k : Nat) : (s.finishTeardown n).func k = s.func k := by
  simp only [State.finishTeardown, State.snapshot]
  split
  · rfl
  · split <;> rfl

/-- A closing tenant without a timetable is gone. -/
theorem State.finishTeardown_gone (hn : n ≠ 0) (hc : (s.tenant n).closing = true) (htts : ∀ x ∈ s.tts, x.2.tenant ≠ n) :
    ((s.finishTeardown n).tenant n).live = false := by
  have hany : (s.tts.any fun x => x.2.tenant == n && (x.2.placed || x.2.life == 3)) = false :=
    List.any_eq_false.mpr fun x hx => by simp [htts x hx]
  simp [State.finishTeardown, State.snapshot, hc, hany, hn]

/-- A teardown's first part: the function shut, its graphs dropped, the tenant closing. -/
def State.closes (s : State) (n : Nat) : State :=
  let s := s.shutFunc n
  let s := s.setFunc n { s.func n with graphs := [] }
  s.setTenant n { s.tenant n with closing := true }

/-- Its last part: the function's bulk transfers and launches end. -/
def State.dropWork (s : State) (n : Nat) : State :=
  { s with
    bulks := s.bulks.filter fun b => b.pkt.fn != n,
    ports := s.ports.filter fun p => !(s.bulks.any fun b => b.pkt.fn == n && p.who == Mover.bulk b.id),
    launches := SMap.mapVals (fun _ l => if l.fn = n then { l with live := false } else l) s.launches }

theorem State.teardown_eq (hl : (s.tenant n).live = true) (hc : (s.tenant n).closing = false) :
    s.teardown n = ((((s.closes n).stopTenant n).dropRequests n).dropWork n).finishTeardown n :=
  if_neg (by simp [hl, hc])

theorem State.closes_tts : (s.closes n).tts = s.tts := rfl
theorem State.closes_requests : (s.closes n).requests = s.requests := rfl
theorem State.closes_compact : (s.closes n).compact = s.compact := rfl
theorem State.closes_preempt : (s.closes n).preempt = s.preempt := rfl
theorem State.closes_closing : ((s.closes n).tenant n).closing = true := by simp [State.closes]
theorem State.closes_tdi : ((s.closes n).func n).tdi = (s.func n).tdi := by simp [State.closes, State.shutFunc]

theorem State.dropWork_tts : (s.dropWork n).tts = s.tts := rfl
theorem State.dropWork_tenant : (s.dropWork n).tenant n = s.tenant n := rfl
theorem State.dropWork_func (k : Nat) : (s.dropWork n).func k = s.func k := rfl

/-- A live tenant with no timetable and no request under way that is torn down is gone; its function's TDI stands as it stood. -/
theorem State.teardown_gone (hn : n ≠ 0) (hl : (s.tenant n).live = true) (hc : (s.tenant n).closing = false) (hreq : s.requests = [])
    (hcomp : s.compact = none) (hpre : s.preempt = none) (htts : ∀ x ∈ s.tts, x.2.tenant ≠ n) :
    ((s.teardown n).tenant n).live = false ∧ ((s.teardown n).func n).tdi = (s.func n).tdi := by
  rw [← State.closes_tts] at htts
  have heq : s.teardown n = ((s.closes n).dropWork n).finishTeardown n := by
    rw [State.teardown_eq hl hc, State.stopTenant_none htts,
      State.dropRequests_none (State.closes_requests.trans hreq) (State.closes_compact.trans hcomp) (State.closes_preempt.trans hpre)]
  rw [heq]
  constructor
  · refine State.finishTeardown_gone hn ?_ ?_
    · rw [State.dropWork_tenant, State.closes_closing]
    · rwa [State.dropWork_tts]
  · rw [State.finishTeardown_func, State.dropWork_func, State.closes_tdi]

/-! ### Flush -/

theorem State.queue_setQueue_ne {j k : Nat} {x : Queue} (h : (j, k) ≠ (fn, q)) : (s.setQueue fn q x).queue j k = s.queue j k := by
  by_cases hj : j = fn
  · subst hj
    have hk : k ≠ q := fun hk => h (hk ▸ rfl)
    simp [State.queue, State.setQueue, Func.setQueue, Func.queue, SMap.get_set_ne hk]
  · simp [State.queue, State.setQueue, State.func_setFunc_ne hj]

/-- A part of the state that a flush leaves as it is: one that meters, memory and queues do not touch. -/
theorem State.flush_keeps {β : Type} (g : State → β) (hmeter : ∀ s x tts, g (State.withTotals s x tts) = g s)
    (hmem : ∀ s m, g { s with mem := m } = g s) (hqueue : ∀ s x, g (State.setQueue s fn q x) = g s) : g (s.flush fn q) = g s := by
  have hone (s : State) : g (s.flushOne fn q) = g s := by
    unfold State.flushOne
    dsimp only
    split
    · split
      · rw [hqueue, hmem, State.meterHost]
        next c _ _ _ =>
          obtain ⟨x, hx⟩ := State.meter_frame (s := s) fn (if true = true then 20 else 19) (if c.status = cRefused then 0 else 32)
          rw [hx, hmeter]
      · rfl
    · rfl
  have hall : g ((s.queue fn q).comps.foldl (fun s _ => s.flushOne fn q) s) = g s := foldl_keeps fun s _ => hone s
  unfold State.flush
  dsimp only
  split
  · rw [hqueue, hall]
  · exact hall

/-- A flush of one queue leaves every other as it is. -/
theorem State.flush_queue_ne {j k : Nat} (h : (j, k) ≠ (fn, q)) : (s.flush fn q).queue j k = s.queue j k :=
  State.flush_keeps (fun s => s.queue j k) (fun _ _ _ => rfl) (fun _ _ => rfl) fun _ _ => State.queue_setQueue_ne h

theorem State.flushOne_fetched : ((s.flushOne fn q).queue fn q).fetched = (s.queue fn q).fetched := by
  unfold State.flushOne
  dsimp only
  split
  · split
    · rw [State.queue_setQueue]
    · rfl
  · rfl

theorem State.flush_fetched (h : (s.queue fn q).fetched = none) : ((s.flush fn q).queue fn q).fetched = none := by
  have hall : (((s.queue fn q).comps.foldl (fun s _ => s.flushOne fn q) s).queue fn q).fetched = none :=
    (foldl_keeps (g := fun s => (State.queue s fn q).fetched) fun _ _ => State.flushOne_fetched).trans h
  unfold State.flush
  dsimp only
  split
  · rw [State.queue_setQueue]
    rfl
  · exact hall

/-- A queue whose reset waits for nothing more is disabled. -/
theorem State.flush_disables (hr : (s.queue fn q).resetting = true) (hn : (s.queue fn q).running = 0) (hc : (s.queue fn q).comps = [])
    (hf : (s.queue fn q).fetched = none) : (s.flush fn q).queue fn q = { (s.queue fn q).disable with ecode := 0 } := by
  simp [State.flush, hr, hn, hc, hf]

/-! ### A restart of the Mule -/

/-- What a restart drops at once: the packets fetched, and the harts' own state. -/
def State.dropFetched (s : State) : State :=
  { s with
    harts := State.reset.harts, muleDown := true,
    funcs := SMap.mapVals (fun _ f => { f with queues := SMap.mapVals (fun _ q => { q with fetched := none }) f.queues }) s.funcs }

/-- A queue being reset is looked at again. -/
def State.flushResetting (s : State) (fn q : Nat) : State := if (s.queue fn q).resetting then s.flush fn q else s

/-- Every queue listed being reset is looked at again. -/
def State.flushAll (s : State) : State :=
  s.funcs.foldl (fun s f => f.2.queues.foldl (fun s q => s.flushResetting f.1 q.1) s) s

theorem execMuleRestart_eq : execMuleRestart s = .next s.dropFetched.flushAll := rfl

theorem State.dropFetched_queue : s.dropFetched.queue fn q = { s.queue fn q with fetched := none } := by
  have hfunc : s.dropFetched.func fn =
      { s.func fn with queues := SMap.mapVals (fun _ q => { q with fetched := none }) (s.func fn).queues } :=
    SMap.get_mapVals (f := fun _ (f : Func) => { f with queues := SMap.mapVals (fun _ q => { q with fetched := none }) f.queues }) rfl
  rw [State.queue, hfunc]
  exact SMap.get_mapVals (f := fun _ (q : Queue) => { q with fetched := none }) rfl

/-- What every step of the restart's work keeps holds at its end. -/
theorem State.flushAll_keeps {P : State → Prop} (hP : ∀ s fn q, P s → P (State.flushResetting s fn q)) (h : P s) : P s.flushAll :=
  List.foldlRecOn (motive := P) _ _ h fun _ ht f _ => List.foldlRecOn (motive := P) _ _ ht fun u hu q _ => hP u f.1 q.1 hu

/-- A fold that keeps `P` comes to `Q` at a listed entry that leads from `P` to `Q`, and keeps it. -/
theorem foldl_reaches {σ α : Type} {P Q : σ → Prop} {f : σ → α → σ} {l : List α} {s : σ} {a : α} (ha : a ∈ l) (hP : ∀ s b, P s → P (f s b))
    (hQ : ∀ s b, Q s → Q (f s b)) (hit : ∀ s, P s → Q (f s a)) (h : P s) : Q (l.foldl f s) := by
  obtain ⟨before, after, rfl⟩ := List.append_of_mem ha
  rw [List.foldl_append, List.foldl_cons]
  have hbefore : P (before.foldl f s) := List.foldlRecOn (motive := P) _ _ h fun t ht b _ => hP t b ht
  exact List.foldlRecOn (motive := Q) _ _ (hit _ hbefore) fun t ht b _ => hQ t b ht

/-- A queue listed in its function, and what the restart's work leads it to. -/
theorem State.flushAll_reaches {P Q : State → Prop} (hlisted : s.queue fn q ≠ Queue.off)
    (hP : ∀ s j k, P s → P (State.flushResetting s j k)) (hQ : ∀ s j k, Q s → Q (State.flushResetting s j k))
    (hit : ∀ s, P s → Q (State.flushResetting s fn q)) (h : P s) : Q s.flushAll := by
  have hfunc : s.func fn ≠ Func.off := fun hoff => hlisted (by rw [State.queue, hoff]; rfl)
  have hfn : (fn, s.func fn) ∈ s.funcs := SMap.mem_of_get_ne hfunc
  have hq : (q, s.queue fn q) ∈ (s.func fn).queues := SMap.mem_of_get_ne hlisted
  refine foldl_reaches (P := P) hfn (fun _ f ht => ?_) (fun _ f ht => ?_) (fun _ ht => ?_) h
  · exact List.foldlRecOn (motive := P) _ _ ht fun u hu k _ => hP u f.1 k.1 hu
  · exact List.foldlRecOn (motive := Q) _ _ ht fun u hu k _ => hQ u f.1 k.1 hu
  · exact foldl_reaches (P := P) hq (fun u k hu => hP u _ k.1 hu) (fun u k hu => hQ u _ k.1 hu) hit ht

theorem State.flushResetting_queue_ne {j k : Nat} (h : (j, k) ≠ (fn, q)) : (s.flushResetting fn q).queue j k = s.queue j k := by
  unfold State.flushResetting
  split
  · exact State.flush_queue_ne h
  · rfl

/-- A queue that is not being reset is left as it is. -/
theorem State.flushResetting_of_not (h : (s.queue fn q).resetting = false) : s.flushResetting fn q = s := by
  simp [State.flushResetting, h]

theorem State.flushResetting_keeps {β : Type} (g : State → β) (hmeter : ∀ s x tts, g (State.withTotals s x tts) = g s)
    (hmem : ∀ s m, g { s with mem := m } = g s) (hqueue : ∀ s x, g (State.setQueue s fn q x) = g s) : g (s.flushResetting fn q) = g s := by
  unfold State.flushResetting
  split
  · exact State.flush_keeps g hmeter hmem hqueue
  · rfl

/-- What a step of the restart's work keeps of one queue, where its own step keeps it. -/
theorem State.flushResetting_queue {P : Queue → Prop} (j k : Nat) (own : P (s.queue fn q) → P ((s.flushResetting fn q).queue fn q))
    (h : P (s.queue j k)) : P ((s.flushResetting fn q).queue j k) := by
  by_cases hjk : (j, k) = (fn, q)
  · cases hjk
    exact own h
  · rwa [State.flushResetting_queue_ne hjk]

/-! ### What becomes of the queues -/

/-- A queue whose reset, if it is under way, waits for nothing more, and which is disabled if it is not. -/
def Queue.resetDue (x : Queue) : Prop :=
  if x.resetting then x.running = 0 ∧ x.comps = [] ∧ x.fetched = none else x.st = 0

theorem State.flushResetting_fetched (j k : Nat) (h : (s.queue j k).fetched = none) : ((s.flushResetting fn q).queue j k).fetched = none := by
  refine State.flushResetting_queue (P := fun x => x.fetched = none) j k (fun hown => ?_) h
  unfold State.flushResetting
  split
  · exact State.flush_fetched hown
  · exact hown

/-- The reset of a queue that waits for nothing more is over. -/
theorem State.flushResetting_due (h : (s.queue fn q).resetDue) :
    ((s.flushResetting fn q).queue fn q).resetting = false ∧ ((s.flushResetting fn q).queue fn q).st = 0 := by
  unfold Queue.resetDue at h
  split at h
  next hr =>
    obtain ⟨hrun, hcomps, hfetched⟩ := h
    rw [State.flushResetting, if_pos hr, State.flush_disables hr hrun hcomps hfetched]
    exact ⟨rfl, rfl⟩
  next hr =>
    have hr : (s.queue fn q).resetting = false := by simpa using hr
    rw [State.flushResetting_of_not hr]
    exact ⟨hr, h⟩

theorem Queue.resetDue_of_over {x : Queue} (h : x.resetting = false ∧ x.st = 0) : x.resetDue := by simp [Queue.resetDue, h]

/-- A queue whose reset waited for the restart alone is disabled. -/
theorem State.flushAll_disables (hr : (s.queue fn q).resetting = true) (hdue : (s.queue fn q).resetDue) :
    (s.flushAll.queue fn q).st = 0 := by
  have hlisted : s.queue fn q ≠ Queue.off := fun hoff => by rw [hoff] at hr; cases hr
  have hreach : (s.flushAll.queue fn q).resetting = false ∧ (s.flushAll.queue fn q).st = 0 := by
    refine State.flushAll_reaches (P := fun t => (t.queue fn q).resetDue)
      (Q := fun t => (t.queue fn q).resetting = false ∧ (t.queue fn q).st = 0) hlisted (fun t j k ht => ?_) (fun t j k ht => ?_)
      (fun _ ht => State.flushResetting_due ht) hdue
    · exact State.flushResetting_queue (P := Queue.resetDue) fn q
        (fun hown => Queue.resetDue_of_over (State.flushResetting_due hown)) ht
    · exact State.flushResetting_queue (P := fun x => x.resetting = false ∧ x.st = 0) fn q
        (fun hown => State.flushResetting_due (Queue.resetDue_of_over hown)) ht
  exact hreach.2

/-- A queue that is not being reset is left alone. -/
theorem State.flushAll_queue (h : (s.queue fn q).resetting = false) : s.flushAll.queue fn q = s.queue fn q := by
  refine State.flushAll_keeps (P := fun t => t.queue fn q = s.queue fn q) (fun t j k ht => ?_) rfl
  exact State.flushResetting_queue (P := fun x => x = s.queue fn q) fn q
    (fun hown => by rw [State.flushResetting_of_not (hown ▸ h)]; exact hown) ht

/-- Where no queue is being reset nothing is done. -/
theorem State.flushAll_of_none (h : ∀ fn q, (s.queue fn q).resetting = false) : s.flushAll = s :=
  State.flushAll_keeps (P := fun t => t = s) (fun t j k ht => by rw [ht]; exact State.flushResetting_of_not (h j k)) rfl

end Sys2Proof.Machine
end

section
open Sys2Proof Sys2Proof.Machine

/-- Settles O58: a teardown with no timetable of the tenant goes through to its end; the work of a restart is a fold over the queues listed,
each of whose steps touches one queue that is being reset. -/
theorem tenantSteps : Obligations.TenantSteps := by
  unfold Obligations.TenantSteps
  refine ⟨?_, ?_, ?_, ?_, ?_⟩
  · intro s n hn hle hlive hclosing
    have hfree : ¬ (n = 0 ∨ 255 < n ∨ (s.tenant n).live = true ∨ (s.tenant n).closing = true) := by
      simp [hn, hlive, hclosing]; omega
    refine ⟨_, if_neg hfree, ?_⟩
    simp only [State.tenant_setTenant_keys, and_self]
  · intro s n hn hlive hclosing hreq hcomp hpre htts
    refine ⟨_, congrArg Host.Outcome.next (if_neg hn), (State.teardown_gone hn hlive hclosing hreq hcomp hpre htts).1, _,
      congrArg Host.Outcome.next (if_neg hn), ?_⟩
    obtain ⟨hgone, htdi⟩ := State.teardown_gone (s := (s.setFunc n { s.func n with tdi := .error }).shutFunc n) hn hlive hclosing hreq
      hcomp hpre htts
    refine ⟨hgone, htdi.trans ?_⟩
    simp [State.shutFunc]
  · intro s fn d hfn
    have hmsg : exec (.tdispMessage fn d) s = execTdispMessage fn d s := rfl
    have hnone : exec (.tdispMessage 0 d) s = .next s := rfl
    simp only [hmsg, hnone, execTdispMessage, if_neg hfn, and_true]
    refine ⟨?_, ?_, ?_, ?_⟩
    · rintro rfl hf
      rw [hf]
    · rintro rfl hf
      rw [hf]
    · rintro rfl
      rfl
    · rintro rfl
      rfl
  · intro s t server tenant hturn
    have hexec : exec (.tenantTurn server) s = execTenantTurn server s := rfl
    simp only [hexec, execTenantTurn, hturn]
    refine ⟨?_, ?_, ?_, ?_⟩
    · intro hu hwork
      rw [hu]
      simp only [hwork]
    · intro hu hwork
      rw [hu]
      simp only [hwork]
    · intro hu hwork
      rw [hu]
      simp only [hwork]
    · intro hu hwork
      simp only [List.mem_cons, List.not_mem_nil, or_false] at hu
      obtain hu | hu | hu | hu | hu | hu := hu <;> (rw [hu]; simp only [hwork])
  · intro s
    refine ⟨_, execMuleRestart_eq, ?_, ?_, ?_, fun fn q => ⟨?_, ?_⟩, ?_⟩
    · exact State.flushAll_keeps (P := fun t => t.muleDown = true)
        (fun t fn q ht => (State.flushResetting_keeps State.muleDown (fun _ _ _ => rfl) (fun _ _ => rfl) fun _ _ => rfl).trans ht) rfl
    · exact State.flushAll_keeps (P := fun t => t.harts = State.reset.harts)
        (fun t fn q ht => (State.flushResetting_keeps State.harts (fun _ _ _ => rfl) (fun _ _ => rfl) fun _ _ => rfl).trans ht) rfl
    · exact State.flushAll_keeps (P := fun t => t.strands = s.strands)
        (fun t fn q ht => (State.flushResetting_keeps State.strands (fun _ _ _ => rfl) (fun _ _ => rfl) fun _ _ => rfl).trans ht) rfl
    · exact State.flushAll_keeps (P := fun t => (t.queue fn q).fetched = none) (fun t j k ht => State.flushResetting_fetched fn q ht)
        (by rw [State.dropFetched_queue])
    · have hq : s.dropFetched.queue fn q = { s.queue fn q with fetched := none } := State.dropFetched_queue
      refine ⟨fun hr hrun hcomps => State.flushAll_disables ?_ ?_, fun hr => ?_⟩
      · rw [hq]
        exact hr
      · rw [hq]
        simp [Queue.resetDue, hr, hrun, hcomps]
      · rw [State.flushAll_queue, hq]
        rw [hq]
        exact hr
    · intro hnone
      rw [State.flushAll_of_none fun fn q => by rw [State.dropFetched_queue]; exact hnone fn q]
      exact ⟨rfl, rfl, rfl⟩

end

section
/-! SUPPORT. Refusals, grants and compaction: what they leave, part by part. -/
namespace Sys2Proof.Machine

variable {s : State} {key : Nat}

/-! ### What leaves the outbox alone -/

theorem State.flush_outbox (fn q : Nat) : (s.flush fn q).outbox = s.outbox :=
  State.flush_keeps State.outbox (fun _ _ _ => rfl) (fun _ _ => rfl) fun _ _ => rfl

theorem State.complete_outbox (p : Pkt) (opc status seq : Nat) (prom : Bool) (data : BitVec 128) :
    (s.complete p opc status seq prom data).outbox = s.outbox := by
  unfold State.complete
  extract_lets x x1 c x2
  split
  · rfl
  · exact State.flush_outbox ..

theorem State.endLaunch_outbox (lid : Nat) : (s.endLaunch lid).outbox = s.outbox := State.complete_outbox ..

theorem State.advancePass_outbox (lid : Nat) : (s.advancePass lid).outbox = s.outbox := by
  refine foldl_keeps fun s x => ?_
  dsimp only
  split
  · rfl
  · split
    · rfl
    · split
      · rfl
      · split <;> rfl

theorem State.advance_outbox (lid : Nat) : (s.advance lid).outbox = s.outbox := by
  have hpass : ((s.launch lid).nodes.foldl (fun s _ => s.advancePass lid) s).outbox = s.outbox :=
    foldl_keeps fun _ _ => State.advancePass_outbox lid
  have hstart : (if (s.launch lid).status = cOk then (s.launch lid).nodes.foldl (fun s _ => s.advancePass lid) s else s).outbox =
      s.outbox := by
    split
    · exact hpass
    · rfl
  unfold State.advance
  extract_lets l t l' busy
  split
  · exact (State.endLaunch_outbox lid).trans hstart
  · exact hstart

theorem State.nodeFailed_outbox (lid node status : Nat) (data : BitVec 128) : (s.nodeFailed lid node status data).outbox = s.outbox := by
  unfold State.nodeFailed
  extract_lets s1 l s2 gone s3
  have h2 : s2.outbox = s.outbox := by
    unfold s2
    split <;> rfl
  have h3 : (gone.foldl (fun s r => s.setNode lid r.node 4) s3).outbox = s3.outbox := foldl_keeps fun _ _ => rfl
  exact (State.advance_outbox lid).trans (h3.trans h2)

/-! ### Refusals -/

/-- A part of the state that a release of pins leaves as it is: one that neither the tenants nor the timetable's list of pins touch. -/
theorem State.unpin_keeps {β : Type} (g : State → β) (htenant : ∀ s k x, g (State.setTenant s k x) = g s)
    (hpins : ∀ s k f, g (State.modTt s k f) = g s) (keep : Bool) : g (s.unpin key keep) = g s := by
  unfold State.unpin
  extract_lets t s1
  have hreleased : g s1 = g s := by
    unfold s1
    split
    · rfl
    · exact foldl_keeps fun _ _ => htenant ..
  split
  · exact hreleased
  · exact (hpins ..).trans hreleased

/-- What every refusal does first: it releases the pins and writes the record. -/
def State.refused (s : State) (r : AdmReq) (key : Nat) (record : BitVec 128) : State :=
  let s := s.unpin key (r.kind == 1)
  let s := { s with requests := s.requests.filter (fun q => q.id != r.id), outbox := s.outbox ++ [Sent.refusal 0 record] }
  s.notify 2

/-- The record of a refusal. -/
def State.refusalRecord (s : State) (key code rkind : Nat) (sug : Nat × Nat) : BitVec 128 :=
  let l := s.launch (s.tt key).launch
  refusal s.gclk.toNat l.req.seq l.req.graph sug.2 sug.1 rkind code

theorem State.refused_outbox (r : AdmReq) (record : BitVec 128) :
    (s.refused r key record).outbox = s.outbox ++ [Sent.refusal 0 record] :=
  congrArg (· ++ [Sent.refusal 0 record]) (State.unpin_keeps State.outbox (fun _ _ _ => rfl) (fun _ _ _ => rfl) _)

theorem State.refused_requests (r : AdmReq) (record : BitVec 128) :
    (s.refused r key record).requests = s.requests.filter fun q => q.id != r.id :=
  congrArg (List.filter fun (q : AdmReq) => q.id != r.id) (State.unpin_keeps State.requests (fun _ _ _ => rfl) (fun _ _ _ => rfl) _)

/-- The table of a timetable with V cleared. -/
def Timetable.vacated (t : Timetable) : Timetable := { t with life := 3, place := t.place.map fun p => { p with v := false } }

/-- A resume refused leaves its timetable suspended with V cleared. -/
theorem State.refuse_resume {r : AdmReq} {code rkind : Nat} {sug : Nat × Nat} (hk : r.kind = 1) :
    s.refuse r key code rkind sug = (s.refused r key (s.refusalRecord key code rkind sug)).modTt key Timetable.vacated := if_pos hk

/-- A refusal's record is the one thing it sends. -/
theorem State.refuse_outbox (r : AdmReq) (code rkind : Nat) (sug : Nat × Nat) :
    (s.refuse r key code rkind sug).outbox = s.outbox ++ [Sent.refusal 0 (s.refusalRecord key code rkind sug)] := by
  have hfirst := State.refused_outbox (s := s) (key := key) r (s.refusalRecord key code rkind sug)
  unfold State.refuse
  extract_lets t l record s1 s2 s3 s4 s5 copy
  have h3 : s3.outbox = s.outbox ++ [Sent.refusal 0 record] := hfirst
  split
  · exact h3
  · refine (State.nodeFailed_outbox ..).trans ?_
    have h4 : s4.outbox = s3.outbox := by
      unfold s4
      split <;> rfl
    exact h4.trans h3

/-! ### Grants -/

/-- What a grant settles of the admission order and of a timetable: its life and pair, and the pairs of all. -/
structure GrantView where
  life     : Nat
  t0       : Nat
  stride   : Nat
  phase    : Nat
  requests : List AdmReq
  pairs    : List Pair

def State.grantView (s : State) (key : Nat) : GrantView :=
  ⟨(s.tt key).life, (s.tt key).t0, (s.tt key).stride, (s.tt key).phase, s.requests, s.pairs⟩

/-- A timetable's record with the same life and pair. -/
theorem State.setTt_grantView {v : Timetable} (hlife : v.life = (s.tt key).life) (ht0 : v.t0 = (s.tt key).t0)
    (hstride : v.stride = (s.tt key).stride) (hphase : v.phase = (s.tt key).phase) : (s.setTt key v).grantView key = s.grantView key := by
  simp [State.grantView, hlife, ht0, hstride, hphase]

theorem State.scrubBanks_grantView (t : Timetable) : (s.scrubBanks t).grantView key = s.grantView key := rfl
theorem State.loadCode_grantView (k : Nat) : (s.loadCode k).grantView key = s.grantView key := rfl
theorem State.setNode_grantView (lid i v : Nat) : (s.setNode lid i v).grantView key = s.grantView key := rfl
theorem State.setLaunch_grantView (n : Nat) (l : Launch) : (s.setLaunch n l).grantView key = s.grantView key := rfl
theorem State.writeBytes_grantView (l : List (Nat × Byte)) : (s.writeBytes l).grantView key = s.grantView key := rfl

theorem State.chargeGrant_grantView (lid : Nat) : (s.chargeGrant lid).grantView key = s.grantView key := by
  obtain ⟨x, hx⟩ := State.meter_frame (s := s) (s.launch lid).fn 19 (1024 + (s.launch lid).owed)
  have hmeter : s.meterHost (s.launch lid).fn (1024 + (s.launch lid).owed) false = s.withTotals x s.tts := hx
  rw [State.chargeGrant, State.setLaunch_grantView, hmeter]
  rfl

theorem State.inherit_grantView (h : Heir) : (s.inherit key h).grantView key = s.grantView key := by
  unfold State.inherit
  extract_lets t mine l
  rw [State.setTt_grantView, State.writeBytes_grantView] <;> rfl

theorem State.startStrands_grantView (caps : SMap Cap) (regs : SMap (BitVec 64)) :
    (s.startStrands key caps regs).grantView key = s.grantView key :=
  foldl_keeps (g := fun s => State.grantView s key) fun _ _ => rfl

/-- A grant's first part: the pair entered, the request out of the order, T0 set. -/
def State.placedInOrder (s : State) (r : AdmReq) (key : Nat) (pair : Nat × Nat) : State :=
  let s := (s.enterPairs key pair).notify 2
  let t0 := (s.gclk.toNat / 256 + 1) * 256
  let s := { s with requests := s.requests.filter fun q => q.id != r.id }
  let n := s.nextAdmitted
  s.modTt key fun t => { t with life := 1, t0 := t0, admitted := if t.admitted = 0 then n else t.admitted }

/-- Its last part, for all but a resume: the strands start. -/
def State.startNew (s : State) (r : AdmReq) (key : Nat) : State :=
  let s := (if r.kind = 2 then s else s.scrubBanks (s.tt key)).loadCode key
  let t := s.tt key
  let s := s.setTt key { t with leases := s.firstLeases t, group := s.firstGroup t }
  let s := if r.kind = 0 then s.chargeGrant t.launch else s
  let s := s.setNode t.launch t.node 2
  let s := match r.heir with
    | some h => s.inherit key h
    | none => s
  s.startStrands key t.caps0 t.regs0

theorem State.grant_eq {r : AdmReq} {pair : Nat × Nat} (hk : r.kind ≠ 1) : s.grant r key pair = (s.placedInOrder r key pair).startNew r key :=
  if_neg hk

theorem State.startNew_grantView (r : AdmReq) : (s.startNew r key).grantView key = s.grantView key := by
  unfold State.startNew
  extract_lets s1 t s2 s3 s4 s5
  have h1 : s1.grantView key = s.grantView key := by
    unfold s1
    rw [State.loadCode_grantView]
    split
    · rfl
    · exact State.scrubBanks_grantView ..
  have h2 : s2.grantView key = s1.grantView key := State.setTt_grantView rfl rfl rfl rfl
  have h3 : s3.grantView key = s2.grantView key := by
    unfold s3
    split
    · exact State.chargeGrant_grantView ..
    · rfl
  have h5 : s5.grantView key = s4.grantView key := by
    unfold s5
    split
    · exact State.inherit_grantView ..
    · rfl
  calc
    (s5.startStrands key t.caps0 t.regs0).grantView key = s5.grantView key := State.startStrands_grantView ..
    _ = s4.grantView key := h5
    _ = s3.grantView key := State.setNode_grantView ..
    _ = s2.grantView key := h3
    _ = s1.grantView key := h2
    _ = s.grantView key := h1

theorem State.enterPairs_pairs (pair : Nat × Nat) : (s.enterPairs key pair).pairs =
    (s.pairs.filter fun q => q.owner != key + 1) ++ (s.tt key).touched.map fun x => ⟨x.1, x.2, key + 1, pair.1, pair.2⟩ := rfl

theorem State.placedInOrder_grantView (r : AdmReq) (pair : Nat × Nat) : (s.placedInOrder r key pair).grantView key =
    ⟨1, (s.gclk.toNat / 256 + 1) * 256, pair.1, pair.2, s.requests.filter fun q => q.id != r.id, (s.enterPairs key pair).pairs⟩ := by
  unfold State.placedInOrder
  extract_lets s1 t0 s2 n
  have hpair : (s2.tt key).stride = pair.1 ∧ (s2.tt key).phase = pair.2 := by
    change ((s.enterPairs key pair).tt key).stride = pair.1 ∧ ((s.enterPairs key pair).tt key).phase = pair.2
    simp [State.enterPairs]
  simp only [State.grantView, State.tt_modTt, hpair]
  rfl

/-- A grant of a launch's node or of a successor starts it at the next multiple of 256 gcy, with its pair. -/
theorem State.grant_grantView {r : AdmReq} {pair : Nat × Nat} (hk : r.kind ≠ 1) : (s.grant r key pair).grantView key =
    ⟨1, (s.gclk.toNat / 256 + 1) * 256, pair.1, pair.2, s.requests.filter fun q => q.id != r.id, (s.enterPairs key pair).pairs⟩ := by
  rw [State.grant_eq hk, State.startNew_grantView, State.placedInOrder_grantView]

/-! ### Compaction -/

theorem State.unhold_tt : (s.unhold key).tt key =
    if (s.tt key).held then { s.tt key with held := false, start := ((s.unhold key).tt key).start } else s.tt key := by
  unfold State.unhold
  dsimp only
  by_cases hheld : (s.tt key).held = false
  · simp [hheld]
  · simp [hheld]

theorem State.unhold_tt_ne {k : Nat} (h : k ≠ key) : (s.unhold key).tt k = s.tt k := by
  unfold State.unhold
  dsimp only
  split
  · rfl
  · exact State.tt_setTt_ne h

theorem State.unhold_held : ((s.unhold key).tt key).held = false := by
  rw [State.unhold_tt]
  split
  · rfl
  next hheld => simpa using hheld

/-- A part of the state that a release of held timetables leaves as it is: one that their records do not touch. -/
theorem State.unhold_keeps {β : Type} (g : State → β) (htt : ∀ s k t, g (State.setTt s k t) = g s) : g (s.unhold key) = g s := by
  unfold State.unhold
  dsimp only
  split
  · rfl
  · exact htt ..

theorem State.dropCompaction_keeps {β : Type} (g : State → β) (c : Compaction) (htt : ∀ s k t, g (State.setTt s k t) = g s) :
    g (s.dropCompaction c) = g { s with compact := none } :=
  foldl_keeps fun _ _ => State.unhold_keeps g htt

/-- A compaction given up holds none of its timetables. -/
theorem State.dropCompaction_held {c : Compaction} {m : Nat × Nat × Nat} (hm : m ∈ c.moves) : ((s.dropCompaction c).tt m.1).held = false := by
  have hfold : s.dropCompaction c = (c.moves.map (·.1)).foldl State.unhold { s with compact := none } := List.foldl_map.symm
  have hlisted : m.1 ∈ c.moves.map (·.1) := List.mem_map_of_mem hm
  rw [hfold, foldl_at_key (get := fun s k => (State.tt s k).held) (f := fun _ _ => false) (fun _ => State.unhold_held)
    (fun _ _ hj => congrArg Timetable.held (State.unhold_tt_ne hj)) (fun _ => rfl), if_pos hlisted]

end Sys2Proof.Machine
end

section
/-! SUPPORT. Admission of one request: from its node to its pair. -/
namespace Sys2Proof.Machine

variable {s : State} {r : AdmReq} {key : Nat}

/-- The pair of a placed request is found as `FindsPair` says. -/
theorem State.findPair_findsPair : FindsPair s r key (s.findPair r key) := by
  unfold FindsPair State.findPair
  dsimp only
  cases (s.candidates (s.tt key)).find? fun p => s.free (s.tt key).touched p [] with
  | some p => rfl
  | none =>
    refine ⟨fun hnowait => if_pos hnowait, fun hwait => ?_⟩
    rw [if_neg (by simp [hwait])]
    refine ⟨fun p l hcompact => ?_, fun hcompact => ?_⟩
    · simp only [hcompact]
      refine ⟨fun hmoves => ?_, fun hmoves => ?_⟩
      · rw [if_pos (by rw [hmoves]; rfl)]
      · rw [if_neg (by simpa using hmoves)]
        exact ⟨rfl, rfl, rfl⟩
    · simp only [hcompact]
      refine ⟨fun v hvictim => ?_, fun hvictim => ?_⟩
      · simp only [State.preemptFor, hvictim]
      · simp only [State.preemptFor, hvictim]

/-- Admit of a request whose timetable's record stands, without a weave plan, for the objects that capabilities name. -/
def State.admitAt (s : State) (r : AdmReq) (key : Nat) (routed : Bool) (caps : SMap Cap) : State :=
  let t := s.tt key
  if ¬ routed then s.refuse r key rRoute 0 (0, 0)
  else if ¬ t.stepOk then s.refuse r key rStep 0 (0, 0)
  else if ¬ s.foreignOk key then s.refuse r key rNoSlots 0 (0, 0)
  else if ¬ s.strideOk t then s.refuse r key rStride 0 (0, 0)
  else match s.prepare r key (timedObjs t.img caps) (s.askPlace r t) with
    | .error s => s
    | .ok s => s.findPair r key

theorem State.admitAt_admits {routed : Bool} : Admits s r key routed (s.admitAt r key routed (s.tt key).caps0) := by
  unfold Admits State.admitAt
  dsimp only
  refine ⟨?_, ?_, ?_, ?_, ?_⟩
  · intro hroute
    simp [hroute]
  · intro hroute hstep
    simp [hroute, hstep]
  · intro hroute hstep hforeign
    simp [hroute, hstep, hforeign]
  · intro hroute hstep hforeign hstride
    simp [hroute, hstep, hforeign, hstride]
  · intro hroute hstep hforeign hstride
    simp only [hroute, hstep, hforeign, hstride, not_true_eq_false, if_false]
    cases s.prepare r key (timedObjs (s.tt key).img (s.tt key).caps0) (s.askPlace r (s.tt key)) with
    | error u => rfl
    | ok u => exact State.findPair_findsPair

/-- A request overtaken by its launch's failure is dropped. -/
theorem State.admitReq_overtaken (h : s.overtaken r = true) : s.admitReq r = s.dropRequest r := if_pos h

/-- A resume or a successor has its timetable's record already. -/
theorem State.admitReq_placed {n : Node} (h : s.overtaken r = false) (hk : r.kind ≠ 0) (hn : s.reqNode r = some n) :
    s.admitReq r = s.admitAt r r.tt true (s.tt r.tt).caps0 := by
  simp only [State.admitReq, h, hn, hk, Bool.false_eq_true, if_false, false_and, Option.bind_none, Option.isSome_none]
  rfl

/-- A launch's node gets its record, with the argument block as it then is. -/
def State.freshRecord (s : State) (r : AdmReq) (n : Node) (caps : SMap Cap) (regs : SMap (BitVec 64)) : State :=
  { s.setTt s.nextTt { s.freshTt r n with caps0 := caps, regs0 := regs } with nextTt := s.nextTt + 1 }

theorem State.freshRecord_caps {n : Node} {caps : SMap Cap} {regs : SMap (BitVec 64)} :
    ((s.freshRecord r n caps regs).tt s.nextTt).caps0 = caps :=
  congrArg Timetable.caps0 (State.tt_setTt s.nextTt { s.freshTt r n with caps0 := caps, regs0 := regs })

/-- A node whose argument block does not give its capabilities fails. -/
theorem State.admitReq_noArgs {n n' : Node} {routed : Bool} {u : State} (h : s.overtaken r = false) (hk : r.kind = 0)
    (hn : s.reqNode r = some n) (hfresh : s.freshNode r n = (n', routed, u)) (hargs : u.readArgs r.launch = none) :
    s.admitReq r = State.nodeFailed { u with requests := u.requests.filter fun q => q.id != r.id } r.launch r.node cBadArg 0 := by
  simp only [State.admitReq, h, hn, hk, hfresh, hargs, Bool.false_eq_true, if_false, if_true]

/-- A node without a weave plan that still holds is admitted like any other request. -/
theorem State.admitReq_node {n n' : Node} {routed : Bool} {u : State} {caps : SMap Cap} {regs : SMap (BitVec 64)}
    (h : s.overtaken r = false) (hk : r.kind = 0) (hn : s.reqNode r = some n) (hfresh : s.freshNode r n = (n', routed, u))
    (hargs : u.readArgs r.launch = some (caps, regs)) (hplan : r.missed = true ∨ n'.plan = none) :
    s.admitReq r = (u.freshRecord r n' caps regs).admitAt r u.nextTt routed caps := by
  have hnone : (if r.kind = 0 ∧ ¬ (r.missed = true) then n'.plan else none) = none := by
    split
    next hopen => exact hplan.resolve_left hopen.2
    · rfl
  simp only [State.admitReq, h, hn, if_pos hk, hfresh, hargs, hnone, Option.bind_none, Option.isSome_none, Bool.false_eq_true, if_false]
  rfl

theorem execAdmit_eq (hc : s.compact = none) (hp : s.preempt = none) (hr : nextRequest s.requests = some r) (hm : s.muleDown = false) :
    execAdmit s = .next (s.admitReq r).promote := by
  simp only [execAdmit, hc, hp, hr, hm, Bool.false_eq_true, if_false]

/-! ### The steps of a compaction -/

theorem execCompactionUpdate_overtaken {c : Compaction} (hc : s.compact = some c)
    (hr : (s.requests.find? fun r => r.id == c.req) = some r) (h : s.overtaken r = true) :
    execCompactionUpdate s = .next ((s.dropCompaction c).dropRequest r).promote := by
  simp only [execCompactionUpdate, hc, hr, h, if_true]

/-- The old pairs leave and the new ones enter, the held steps start, and the request is granted, in one update. -/
theorem execCompactionUpdate_fits {c : Compaction} (hc : s.compact = some c)
    (hr : (s.requests.find? fun r => r.id == c.req) = some r) (h : s.overtaken r = false) (hheld : ∀ m ∈ c.moves, (s.tt m.1).held = true)
    (hfits : s.updateFits c r.tt = true) :
    let u := c.moves.foldl (fun s m => s.unhold m.1) (c.moves.foldl (fun s m => s.enterPairs m.1 m.2) s)
    execCompactionUpdate s = .next (State.grant { u with compact := none } r r.tt c.pair).promote := by
  have hall : (c.moves.all fun m => (s.tt m.1).held) = true := List.all_eq_true.mpr hheld
  simp only [execCompactionUpdate, hc, hr, h, hall, hfits, Bool.false_eq_true, Bool.true_eq_false, if_false, if_true]

theorem execCompactionUpdate_unfit {c : Compaction} (hc : s.compact = some c)
    (hr : (s.requests.find? fun r => r.id == c.req) = some r) (h : s.overtaken r = false) (hheld : ∀ m ∈ c.moves, (s.tt m.1).held = true)
    (hfits : s.updateFits c r.tt = false) :
    execCompactionUpdate s = .next (((s.dropCompaction c).giveBack r r.tt).admitReq r).promote := by
  have hall : (c.moves.all fun m => (s.tt m.1).held) = true := List.all_eq_true.mpr hheld
  simp only [execCompactionUpdate, hc, hr, h, hall, hfits, Bool.false_eq_true, Bool.true_eq_false, if_false]

theorem State.dropCompaction_requests (c : Compaction) : (s.dropCompaction c).requests = s.requests :=
  State.dropCompaction_keeps State.requests c fun _ _ _ => rfl

/-- A compaction past its bound is given up. -/
theorem execCompactTimeout_none {c : Compaction} (hc : s.compact = some c) (hwait : c.since + s.compactWait ≤ s.gclk.toNat)
    (hr : (s.requests.find? fun r => r.id == c.req) = none) : execCompactTimeout s = .next (s.dropCompaction c) := by
  simp only [execCompactTimeout, hc, if_neg (Nat.not_lt.mpr hwait), State.dropCompaction_requests, hr]

/-- Its request, where it still waits, goes on to pre-emption. -/
theorem execCompactTimeout_some {c : Compaction} (hc : s.compact = some c) (hwait : c.since + s.compactWait ≤ s.gclk.toNat)
    (hr : (s.requests.find? fun r => r.id == c.req) = some r) : execCompactTimeout s =
      .next (if (s.dropCompaction c).overtaken r then (s.dropCompaction c).dropRequest r
        else (s.dropCompaction c).preemptFor r r.tt).promote := by
  simp only [execCompactTimeout, hc, if_neg (Nat.not_lt.mpr hwait), State.dropCompaction_requests, hr]

/-! ### Aging -/

/-- A request that has waited its bound goes up a class. -/
theorem execAgeRaise_eq {r : AdmReq} (hr : (s.requests.find? fun q => q.id == r.id) = some r) (hcls : r.cls < 3)
    (hwait : r.raised + s.ageBound ≤ s.gclk.toNat) : execAgeRaise r.id s = .next { s with requests := s.requests.map fun q =>
      if q.id = r.id then { q with cls := q.cls + 1, raised := q.raised + s.ageBound } else q } := by
  simp only [execAgeRaise, hr, hcls, hwait, and_self, if_true]

end Sys2Proof.Machine
end

section
open Sys2Proof Sys2Proof.Machine

/-- Settles O51: each command's equation for the case at hand, with what admission, a refusal, a grant and a compaction given up leave. -/
theorem admission : Obligations.Admission := by
  unfold Obligations.Admission
  refine ⟨?_, ?_, ?_, ?_, ?_, ?_, ?_⟩
  · intro s r hc hp hr hm
    have hexec : exec .admitNext s = .next (s.admitReq r).promote := execAdmit_eq hc hp hr hm
    refine ⟨fun h => ?_, fun h hk n hn => ?_, fun h hk n hn => ?_⟩
    · rw [hexec, State.admitReq_overtaken h]
    · have hfresh : s.freshNode r n = ((s.freshNode r n).1, (s.freshNode r n).2.1, (s.freshNode r n).2.2) := rfl
      refine ⟨fun hargs => ?_, fun caps regs hargs hplan => ⟨s.admitReq r, hexec, ?_⟩⟩
      · rw [hexec, State.admitReq_noArgs h hk hn hfresh hargs]
      · have hadmits := State.admitAt_admits
          (s := (s.freshNode r n).2.2.freshRecord r (s.freshNode r n).1 caps regs) (r := r) (key := (s.freshNode r n).2.2.nextTt)
          (routed := (s.freshNode r n).2.1)
        rwa [State.freshRecord_caps, ← State.admitReq_node h hk hn hfresh hargs hplan] at hadmits
    · refine ⟨s.admitReq r, hexec, ?_⟩
      rw [State.admitReq_placed h hk hn]
      exact State.admitAt_admits
  · intro s r key code rkind sug
    refine ⟨⟨[], State.refuse_outbox r code rkind sug⟩, fun hk => ?_⟩
    rw [State.refuse_resume hk]
    refine ⟨?_, ?_, State.refused_requests r (s.refusalRecord key code rkind sug)⟩
    · rw [State.tt_modTt]
      rfl
    · rw [State.tt_modTt]
      intro p hp
      obtain ⟨q, -, rfl⟩ := List.mem_map.mp hp
      rfl
  · intro s r key p hk
    have hview := State.grant_grantView (s := s) (key := key) (pair := p) hk
    simp only [State.grantView, GrantView.mk.injEq] at hview
    obtain ⟨hlife, ht0, hstride, hphase, hrequests, hpairs⟩ := hview
    refine ⟨hlife, ht0, hstride, hphase, ?_, hpairs⟩
    rw [hrequests]
    intro q hq
    simpa using (List.mem_filter.mp hq).2
  · intro s c r hc hr
    exact ⟨execCompactionUpdate_overtaken hc hr, fun h hheld =>
      ⟨execCompactionUpdate_fits hc hr h hheld, execCompactionUpdate_unfit hc hr h hheld⟩⟩
  · intro s key p
    exact ⟨State.enterPairs_pairs p, State.unhold_tt⟩
  · intro s c hc hwait
    have hgclk : (s.dropCompaction c).gclk = s.gclk := State.dropCompaction_keeps State.gclk c fun _ _ _ => rfl
    refine ⟨State.dropCompaction_keeps State.compact c fun _ _ _ => rfl, fun m hm => State.dropCompaction_held hm,
      State.dropCompaction_keeps State.pairs c fun _ _ _ => rfl, fun hr => execCompactTimeout_none hc hwait hr, fun r hr => ?_⟩
    have hexec : exec .compactTimeout s = _ := execCompactTimeout_some hc hwait hr
    refine ⟨fun h => ?_, fun h => ⟨fun v hvictim => ?_, fun hvictim => ?_⟩⟩
    · rw [hexec, if_pos h]
    · rw [hexec, if_neg (by simp [h]), State.preemptFor, hvictim, hgclk]
    · rw [hexec, if_neg (by simp [h]), State.preemptFor, hvictim]
  · intro s r hr hcls hwait
    exact ⟨_, execAgeRaise_eq hr hcls hwait, rfl, rfl, rfl⟩

end


section
/-! SUPPORT. What a turn runs: the word of the agent whose turn it is, where it decodes (f03 R58, f12 R316, f07 R196, f09 R244). -/
namespace Sys2Proof.Machine

variable {s : State} {i : Instr}

theorem State.headerRun_of_decodeHeader {sid : Nat} (hin : (s.strand sid).pc < s.codeLen sid)
    (h : decodeHeader (s.codeWord sid (s.strand sid).pc) = some i) : s.headerRun sid = exec i s := by
  simp only [State.headerRun, if_neg (Nat.not_le.mpr hin), h]

theorem State.slotRun_of_decodeSlot {sid slot : Nat} {w : Word} (h : decodeSlot slot w = some i) : s.slotRun sid slot w = exec i s := by
  simp only [State.slotRun, h]

theorem step_strand {sid : Nat} (h : s.cur = .strand sid) : step s = s.strandStep sid := by simp only [step, h]
theorem step_hen {p : Nat} (h : s.cur = .hen p) : step s = s.henStep p := by simp only [step, h]
theorem step_hart {n : Fin 32} (h : s.cur = .hart n) : step s = s.hartStep n := by simp only [step, h]

theorem State.strandStep_header {sid : Nat} (h : (s.strand sid).slots = []) :
    s.strandStep sid = thenDo (s.headerRun sid) (State.afterHeader sid) := by
  simp only [State.strandStep, h]

theorem State.strandStep_slot {sid slot : Nat} {rest : List Nat} (h : (s.strand sid).slots = slot :: rest) :
    s.strandStep sid = thenDo ((s.modStrand sid Strand.takeSlot).slotRun sid slot (s.codeWord sid (s.strand sid).slotPc))
      (State.afterSlot sid) := by
  simp only [State.strandStep, h]

theorem State.henStep_of_decodeHen {p : Nat} (hcur : (s.hen p).cur.isSome) (hin : (s.hen p).pc < (s.hen p).len)
    (h : decodeHen (s.henWord p) = some i) :
    s.henStep p = thenDo (exec i (s.setHen p { s.hen p with pc := (s.hen p).pc + 1 })) State.idle := by
  have hsome : ¬ (s.hen p).cur.isNone = true := by simpa [Option.isSome_iff_ne_none] using hcur
  simp only [State.henStep, if_neg hsome, if_neg (Nat.not_le.mpr hin), h]

theorem State.hartStep_of_decodeMule {n : Fin 32} (hawake : (s.hart n).sleep = none) (h : decodeMule (s.hartWord n) = some i) :
    s.hartStep n = thenDo (exec i s) State.idle := by
  simp [State.hartStep, hawake, h]

/-! ### The issue of a bundle (f03 R58, R59) -/

/-- A bundle without an X slot wants no lease. -/
theorem State.wantsLease_of_noX {sid pc : Nat} {m : BitVec 4} (h : m.getLsbD 2 = false) : s.wantsLease sid pc m = false := by
  simp only [State.wantsLease, State.xWord, h, Bool.false_eq_true, if_false]

/-- A mask with a bit set announces a slot word. -/
theorem countP_mask_ne_zero {m : BitVec 4} (h : m ≠ 0) : ((List.range 4).countP fun i => m.getLsbD i) ≠ 0 := by
  revert m
  decide

/-- Nothing holds back a bundle inside the section that is no safe point, has met its siblings or meets none, and wants no lease. -/
theorem execBndl_issues {sid : Nat} {d : BitVec 8} {sy : BitVec 1} {l : BitVec 2} {m : BitVec 4} (hcur : s.cur = .strand sid) (hm : m ≠ 0)
    (hin : (s.strand sid).pc + 1 + ((List.range 4).countP fun i => m.getLsbD i) ≤ s.codeLen sid)
    (hmet : sy = 0 ∨ (s.strand sid).met = true) (hx : m.getLsbD 2 = false)
    (hlend : lendFor (s.strand sid).loops ((s.strand sid).pc + 1 + (List.range 4).countP fun i => m.getLsbD i) = l.toNat) :
    execBndl d sy 0 l m s = .next ((s.issued sid ((s.strand sid).pc + 1 + (List.range 4).countP fun i => m.getLsbD i)).modStrand sid
      fun st => { st with slots := (List.range 4).filter fun i => m.getLsbD i }) := by
  have hmeeting : ¬ (sy = 1 ∧ ¬ (s.strand sid).met = true) := by
    rintro ⟨rfl, hno⟩
    exact hmet.elim (by decide) hno
  have hsafe : ¬ (0 : BitVec 1) = 1 := by decide
  rw [execBndl, strandOnly_strand hcur]
  simp only [if_neg (Nat.not_lt.mpr hin), hsafe, false_and, if_false, if_neg hmeeting, State.wantsLease_of_noX hx, Bool.false_and,
    Bool.false_eq_true, hlend, if_true, if_neg (countP_mask_ne_zero hm)]

end Sys2Proof.Machine
end

section
open Sys2Proof Sys2Proof.Machine

/-- Settles O4: whose turn it is decides the part of the step, and the word that decodes is run. -/
theorem stepRunsDecodedWord : Obligations.StepRunsDecodedWord := by
  refine ⟨fun s sid i hcur hslots hin hi => ?_, fun s sid slot rest i hcur hslots hi => ?_, fun s p i hcur hsome hin hi => ?_,
    fun s n i hcur hawake hi => ?_⟩
  · rw [step_strand hcur, State.strandStep_header hslots, State.headerRun_of_decodeHeader hin hi]
  · rw [step_strand hcur, State.strandStep_slot hslots, State.slotRun_of_decodeSlot hi]
  · rw [step_hen hcur, State.henStep_of_decodeHen hsome hin hi]
  · rw [step_hart hcur, State.hartStep_of_decodeMule hawake hi]

/-- Settles O16: nothing holds the bundle back (`execBndl_issues`), and issuing it touches its strand alone. -/
theorem bundleIssues : Obligations.BundleIssues := by
  intro s sid d sy l m hcur hm st n hin hmet hx hlend
  refine ⟨_, execBndl_issues (d := d) hcur hm hin hmet hx hlend, ?_, fun j hj => ?_, rfl, rfl⟩
  · rw [State.strand_modStrand, State.issued, State.strand_modStrand]
  · rw [State.strand_modStrand_ne hj, State.issued, State.strand_modStrand_ne hj]

end

section
/-! SUPPORT. Sync meetings (f03 R64): what a meeting makes of each sibling that waits at it. -/
namespace Sys2Proof.Machine

variable {s : State}

/-- No strand key stands twice in a timetable's list. -/
theorem State.sids_nodup (tt : Nat) : (s.sids tt).Nodup :=
  List.Nodup.map (fun a b h => by simpa [sidOf] using h) List.nodup_range

/-- Strands written one after another, each as a function of what the writes to the others leave alone. -/
theorem State.strand_foldl_setStrand {f : State → Nat → Strand} (hf : ∀ s j k x, k ≠ j → f (State.setStrand s j x) k = f s k)
    {l : List Nat} (hl : l.Nodup) (k : Nat) :
    (l.foldl (fun s j => s.setStrand j (f s j)) s).strand k = if k ∈ l then f s k else s.strand k := by
  induction l generalizing s with
  | nil => rfl
  | cons j rest ih =>
    obtain ⟨hj, hrest⟩ := List.nodup_cons.mp hl
    rw [List.foldl_cons, ih hrest]
    by_cases hk : k = j
    · subst hk
      rw [if_neg hj, State.strand_setStrand, if_pos List.mem_cons_self]
    · simp only [hf _ _ _ _ hk, State.strand_setStrand_ne hk, List.mem_cons, hk, false_or]

/-! ### The greatest of a list -/

section
variable {α : Type} {f : α → Nat} {l : List α}

theorem le_foldl_max (a : Nat) : a ≤ l.foldl (fun m x => Nat.max m (f x)) a := by
  induction l generalizing a with
  | nil => exact Nat.le_refl a
  | cons x t ih => exact (Nat.le_max_left a (f x)).trans (ih _)

theorem le_foldl_max_of_mem {x : α} (hx : x ∈ l) (a : Nat) : f x ≤ l.foldl (fun m x => Nat.max m (f x)) a := by
  obtain ⟨before, after, rfl⟩ := List.append_of_mem hx
  rw [List.foldl_append, List.foldl_cons]
  exact (Nat.le_max_right ..).trans (le_foldl_max _)

/-- The greatest of a list that is not empty stands in it. -/
theorem exists_mem_eq_foldl_max (hl : l ≠ []) : ∃ x ∈ l, f x = l.foldl (fun m x => Nat.max m (f x)) 0 := by
  have hmem : (l.map f).foldl Nat.max 0 ∈ 0 :: l.map f := foldl_choice_mem (fun a b => max_choice a b) _ _
  rw [List.foldl_map] at hmem
  rcases List.mem_cons.mp hmem with hzero | hmem
  · obtain ⟨x, hx⟩ := List.exists_mem_of_ne_nil l hl
    have hle : f x ≤ l.foldl (fun m x => Nat.max m (f x)) 0 := le_foldl_max_of_mem hx 0
    exact ⟨x, hx, by omega⟩
  · exact List.mem_map.mp hmem

end

/-! ### The meeting -/

/-- What a meeting with VCLK `v` makes of a strand. -/
def State.metStrand (s : State) (v sid : Nat) : Strand :=
  if s.refreshHeld sid v then
    { s.strand sid with vclk := v, wait := .refresh (s.gclk.toNat - s.gclk.toNat % 4096 + 512), met := true, ran := false }
  else { s.strand sid with vclk := v, wait := .none, met := true, ran := true }

theorem State.meetAt_eq (sid v : Nat) : s.meetAt sid v = s.setStrand sid (s.metStrand v sid) := by
  unfold State.meetAt State.metStrand
  split <;> rfl

theorem State.refreshHeld_setStrand_ne {j k v : Nat} {x : Strand} (h : k ≠ j) : (s.setStrand j x).refreshHeld k v = s.refreshHeld k v := by
  simp only [State.refreshHeld, State.strand_setStrand_ne h]
  rfl

theorem State.metStrand_setStrand_ne {j k v : Nat} {x : Strand} (h : k ≠ j) : (s.setStrand j x).metStrand v k = s.metStrand v k := by
  simp only [State.metStrand, State.refreshHeld_setStrand_ne h, State.strand_setStrand_ne h, State.setStrand_gclk]

/-- The siblings that wait at their core's meeting. -/
def State.meeters (s : State) (tt lc : Nat) : List Nat := (s.siblings tt lc).filter fun sid => (s.strand sid).wait == .meet

theorem State.mem_meeters {tt lc sid : Nat} : sid ∈ s.meeters tt lc ↔ sid ∈ s.siblings tt lc ∧ (s.strand sid).wait = .meet := by
  simp [State.meeters]

theorem State.meeters_nodup (tt lc : Nat) : (s.meeters tt lc).Nodup := ((State.sids_nodup tt).filter _).filter _

theorem State.meeters_ne_nil {tt lc : Nat} (h : s.allMet tt lc = true) : s.meeters tt lc ≠ [] := by
  obtain ⟨hsome, -⟩ := Bool.and_eq_true_iff.mp h
  obtain ⟨sid, hsid, hwait⟩ := List.any_eq_true.mp hsome
  exact List.ne_nil_of_mem (List.mem_filter.mpr ⟨hsid, hwait⟩)

/-- The VCLK a meeting goes on with. -/
def State.meetVclk (s : State) (tt lc : Nat) : Nat := (s.meeters tt lc).foldl (fun m sid => Nat.max m (s.strand sid).vclk) 0

theorem execSyncMeeting_eq {tt lc : Nat} (h : s.allMet tt lc = true) : execSyncMeeting tt lc s =
    .next ((s.meeters tt lc).foldl (fun u sid => u.setStrand sid (u.metStrand (s.meetVclk tt lc) sid)) s) := by
  have hsteps : (fun (u : State) sid => u.setStrand sid (u.metStrand (s.meetVclk tt lc) sid)) = fun u sid => u.meetAt sid (s.meetVclk tt lc) := by
    funext u sid
    exact (State.meetAt_eq ..).symm
  rw [hsteps, execSyncMeeting, if_neg (by simp [h])]
  rfl

end Sys2Proof.Machine
end

section
open Sys2Proof Sys2Proof.Machine

/-- Settles O44: the meeting writes each strand that waits at it once (`State.strand_foldl_setStrand`), with the greatest VCLK of them. -/
theorem syncMeetings : Obligations.SyncMeetings := by
  intro s tt lc hmet
  refine ⟨_, s.meetVclk tt lc, execSyncMeeting_eq hmet, foldl_keeps (g := State.mem) fun _ _ => rfl, ?_⟩
  have hstrand (sid) := State.strand_foldl_setStrand (s := s) (f := fun u sid => u.metStrand (s.meetVclk tt lc) sid)
    (fun _ _ _ _ hne => State.metStrand_setStrand_ne hne) (State.meeters_nodup (s := s) tt lc) sid
  refine ⟨?_, fun sid hwaits => ⟨?_, fun hfree => ?_, fun hheld => ?_⟩, fun sid hnot => ?_⟩
  · obtain ⟨sid, hsid, hv⟩ := exists_mem_eq_foldl_max (f := fun sid => (s.strand sid).vclk) (State.meeters_ne_nil hmet)
    exact ⟨sid, State.mem_meeters.mp hsid, hv⟩
  · exact le_foldl_max_of_mem (f := fun sid => (s.strand sid).vclk) (State.mem_meeters.mpr hwaits) 0
  · rw [hstrand, if_pos (State.mem_meeters.mpr hwaits), State.metStrand, if_neg (by simp [hfree])]
  · rw [hstrand, if_pos (State.mem_meeters.mpr hwaits), State.metStrand, if_pos hheld]
  · rw [hstrand, if_neg fun hmem => hnot (State.mem_meeters.mp hmem)]

end

section
/-! SUPPORT. The alignment tree as a function of what alignment works on, and the barrier messages its links repeat (f03 R68, f08 R214). -/
namespace Sys2Proof.Machine

variable {s t : State} {tt : Nat}

/-! ### The tree -/

theorem State.pkg_of_linkView (h : s.linkView = t.linkView) : s.pkg = t.pkg := congrArg LinkView.pkg h

theorem State.alignTree_of_linkView (h : s.linkView = t.linkView) : s.alignTree = t.alignTree := by
  simp only [State.linkView, LinkView.mk.injEq] at h
  obtain ⟨hpkg, htable, htrained, haligned, hout, -⟩ := h
  simp only [State.alignTree, State.packages, State.peerAligned, hpkg, htable, htrained, haligned, hout]

theorem State.barChildren_of_linkView (h : s.linkView = t.linkView) (x : Timetable) : s.barChildren x = t.barChildren x := by
  simp only [State.barChildren, State.treeChildren, State.treeParent, State.alignTree_of_linkView h, State.pkg_of_linkView h]

/-! ### Messages -/

/-- A state with other links. -/
def State.withLinks (s : State) (l : SMap Link) : State := { s with links := l }

theorem State.withLinks_tt (l : SMap Link) (k : Nat) : (s.withLinks l).tt k = s.tt k := rfl

theorem State.sendBar_eq (v : Nat) (m : BarMsg) : ∃ l, s.sendBar v m = s.withLinks l := by
  unfold State.sendBar
  dsimp only
  split
  · exact ⟨s.links, rfl⟩
  · exact ⟨_, rfl⟩

theorem State.link_setLink (n : Nat) (l : Link) : (s.setLink n l).link n = l := SMap.get_set_self
theorem State.link_setLink_ne {n k : Nat} {l : Link} (h : k ≠ n) : (s.setLink n l).link k = s.link k := SMap.get_set_ne h

/-- The message joins those of the link to the neighbour. -/
theorem State.mem_sendBar (v : Nat) (m : BarMsg) : ∃ k, (m, k) ∈ ((s.sendBar v m).link (linkTo s.alignTree.2 s.pkg v)).bars := by
  unfold State.sendBar
  dsimp only
  split
  next h =>
    obtain ⟨x, hx, heq⟩ := List.any_eq_true.mp h
    exact ⟨x.2, by rwa [← eq_of_beq heq]⟩
  · refine ⟨s.gclk.toNat, ?_⟩
    rw [State.link_setLink]
    exact List.mem_append_right _ List.mem_cons_self

/-- What a link repeats already it goes on repeating. -/
theorem State.mem_sendBar_of_mem {v n k : Nat} {m x : BarMsg} (h : (x, k) ∈ (s.link n).bars) : (x, k) ∈ ((s.sendBar v m).link n).bars := by
  unfold State.sendBar
  dsimp only
  split
  · exact h
  · by_cases hn : n = linkTo s.alignTree.2 s.pkg v
    · subst hn
      rw [State.link_setLink]
      exact List.mem_append_left _ h
    · rwa [State.link_setLink_ne hn]

/-- One message to several neighbours. -/
def State.sendBars (s : State) (l : List Nat) (m : BarMsg) : State := l.foldl (fun s v => s.sendBar v m) s

theorem State.sendBars_eq (l : List Nat) (m : BarMsg) : ∃ x, s.sendBars l m = s.withLinks x := by
  refine List.foldlRecOn (motive := fun u : State => ∃ x, u = s.withLinks x) _ _ ⟨s.links, rfl⟩ ?_
  rintro _ ⟨x, rfl⟩ v -
  exact State.sendBar_eq ..

theorem State.repeats_of_links {u : State} {l : List Nat} {m : BarMsg} (h : u.links = t.links) : Repeats s t l m → Repeats s u l m := by
  intro hrep v hv
  simpa only [State.link, h] using hrep v hv

/-- The links to these neighbours repeat the message, where the tree is the one meant. -/
theorem State.repeats_sendBars {l : List Nat} {m : BarMsg} (htree : t.alignTree = s.alignTree) (hpkg : t.pkg = s.pkg) :
    Repeats s (t.sendBars l m) l m := by
  intro v hv
  refine foldl_reaches (P := fun u : State => u.alignTree = s.alignTree ∧ u.pkg = s.pkg)
    (Q := fun u => ∃ k, (m, k) ∈ (u.link (linkTo s.alignTree.2 s.pkg v)).bars) hv ?keeps (fun u w hu => ?later) (fun u hu => ?hit)
    ⟨htree, hpkg⟩
  case keeps =>
    intro u w hu
    obtain ⟨x, hx⟩ := State.sendBar_eq (s := u) w m
    rw [hx]
    exact hu
  case later =>
    obtain ⟨k, hk⟩ := hu
    exact ⟨k, State.mem_sendBar_of_mem hk⟩
  case hit =>
    obtain ⟨hu1, hu2⟩ := hu
    rw [← hu1, ← hu2]
    exact State.mem_sendBar v m

/-! ### Failures and stops -/

/-- What halting makes of a strand that has not ended. -/
def Strand.halted (st : Strand) : Strand := if st.life = 1 ∨ st.life = 4 then { st with halt := true } else st

theorem Strand.halted_halted {st : Strand} : st.halted.halted = st.halted := by
  unfold Strand.halted
  by_cases h : st.life = 1 ∨ st.life = 4
  · simp only [h, if_true]
  · simp only [h, if_false]

/-- One strand halted. -/
def State.haltStrand (s : State) (sid : Nat) : State :=
  if (s.strand sid).life = 1 ∨ (s.strand sid).life = 4 then s.modStrand sid fun st => { st with halt := true } else s

theorem State.haltAll_eq : s.haltAll tt = (s.sids tt).foldl State.haltStrand s := rfl

theorem State.strand_haltStrand (sid : Nat) : (s.haltStrand sid).strand sid = (s.strand sid).halted := by
  unfold State.haltStrand Strand.halted
  split
  · exact State.strand_modStrand ..
  · rfl

theorem State.strand_haltStrand_ne {sid j : Nat} (h : sid ≠ j) : (s.haltStrand j).strand sid = s.strand sid := by
  unfold State.haltStrand
  split
  · exact State.strand_modStrand_ne h
  · rfl

theorem State.haltAll_strand {sid : Nat} (h : sid ∈ s.sids tt) : (s.haltAll tt).strand sid = (s.strand sid).halted := by
  rw [State.haltAll_eq, foldl_at_key (get := State.strand) (f := fun _ st => Strand.halted st) (fun _ => State.strand_haltStrand sid)
    (fun _ _ hne => State.strand_haltStrand_ne hne) (fun _ => Strand.halted_halted), if_pos h]

/-- A part of the state that halting strands leaves as it is. -/
theorem State.haltAll_keeps {β : Type} (g : State → β) (hstrand : ∀ s k f, g (State.modStrand s k f) = g s) :
    g (s.haltAll tt) = g s :=
  foldl_keeps fun u j => by
    split
    · exact hstrand ..
    · rfl

theorem State.sids_setTt_of_img {x : Timetable} (h : x.img = (s.tt tt).img) : (s.setTt tt x).sids tt = s.sids tt := by
  simp only [State.sids, Timetable.count, State.tt_setTt, h]

theorem State.mem_alive {sid : Nat} : sid ∈ s.alive tt ↔ sid ∈ s.sids tt ∧ ((s.strand sid).life = 1 ∨ (s.strand sid).life = 4) := by
  simp [State.alive]

/-- A step failure of a timetable that was not stopping: cause 2, every strand stopped, the links as they were. -/
theorem State.stepFail_spec {aux : Nat} (h : (s.tt tt).cause = 0) : ((s.stepFail tt aux).tt tt).cause = 2 ∧
    (∀ sid ∈ s.alive tt, ((s.stepFail tt aux).strand sid).halt = true) ∧ (s.stepFail tt aux).links = s.links := by
  unfold State.stepFail
  dsimp only
  rw [if_pos h]
  refine ⟨?_, fun sid hsid => ?_, State.haltAll_keeps State.links fun _ _ _ => rfl⟩
  · rw [State.haltAll_keeps (fun u => u.tt tt) fun _ _ _ => rfl, State.tt_setTt]
  · obtain ⟨hmem, hlife⟩ := State.mem_alive.mp hsid
    rw [State.haltAll_strand (by rwa [State.sids_setTt_of_img]; rfl), State.setTt_strand, Strand.halted, if_pos hlife]

/-- The step in progress fails, at once or at its barrier; the links are as they were. -/
theorem State.failStep_spec (h : (s.tt tt).cause = 0) : (s.allArrived tt = true → ((s.failStep tt).tt tt).cause = 2) ∧
    (s.allArrived tt = false → ((s.failStep tt).tt tt).failed = true) ∧ (s.failStep tt).links = s.links := by
  unfold State.failStep
  split
  next hall =>
    obtain ⟨hcause, -, hlinks⟩ := State.stepFail_spec (aux := 0xFFFFFFFF) h
    exact ⟨fun _ => hcause, fun hno => absurd hall (by simp [hno]), hlinks⟩
  next hall => exact ⟨fun hyes => absurd hyes hall, fun _ => by rw [State.tt_modTt], rfl⟩

/-- The neighbours in the tree with packages of a timetable. -/
def State.barAround (s : State) (x : Timetable) : List Nat := s.treeParent.toList ++ s.barChildren x

theorem State.sendFail_eq (from_ : Option Nat) :
    s.sendFail tt from_ = s.sendBars ((s.barAround (s.tt tt)).filter fun v => some v != from_) (.fail tt) := rfl

theorem State.passBar_eq (from_ : Option Nat) (m : BarMsg) :
    s.passBar from_ m = s.sendBars ((s.treeParent.toList ++ s.treeChildren).filter fun v => some v != from_) m := rfl

/-- A failure told to the neighbours and taken here. -/
theorem State.sendFail_failStep (h : (s.tt tt).cause = 0) (from_ : Option Nat) : let x := (s.sendFail tt from_).failStep tt
    ((s.allArrived tt = true → (x.tt tt).cause = 2) ∧ (s.allArrived tt = false → (x.tt tt).failed = true)) ∧
      Repeats s x ((s.barAround (s.tt tt)).filter fun v => some v != from_) (.fail tt) := by
  intro x
  obtain ⟨l, hl⟩ := State.sendBars_eq (s := s) ((s.barAround (s.tt tt)).filter fun v => some v != from_) (.fail tt)
  have hrep := State.repeats_sendBars (s := s) (t := s) (l := (s.barAround (s.tt tt)).filter fun v => some v != from_) (m := .fail tt) rfl rfl
  have hx : x = (s.withLinks l).failStep tt := by rw [← hl, ← State.sendFail_eq]
  obtain ⟨hall, hnot, hlinks⟩ := State.failStep_spec (s := s.withLinks l) (tt := tt) h
  rw [hl] at hrep
  rw [hx]
  exact ⟨⟨hall, hnot⟩, State.repeats_of_links hlinks hrep⟩

end Sys2Proof.Machine
end
section
/-! SUPPORT. The start gcy of a step (f02 R40, f03 R68): at least BARLEAD later, in the timetable's phase set. -/
namespace Sys2Proof.Machine

variable {s : State}

theorem firstGcy_ge (g stride phase : Nat) : g ≤ firstGcy g stride phase := Nat.le_add_right ..

/-- The first gcy of a phase set from `g` on is in the set, and in every coarser one. -/
theorem firstGcy_mod {g n k phase : Nat} (hn : 0 < n * k) : firstGcy g (n * k) phase % n = phase % n := by
  have hset : firstGcy g (n * k) phase % (n * k) = phase % (n * k) := by
    have hlt : g % (n * k) < n * k := Nat.mod_lt _ hn
    have hdiv := Nat.div_add_mod g (n * k)
    have hsum : g + (phase + n * k - g % (n * k)) = phase + n * k * (g / (n * k) + 1) := by
      rw [Nat.mul_add, Nat.mul_one]
      omega
    rw [firstGcy, Nat.add_mod_mod, hsum, Nat.add_mul_mod_self_left]
  rw [← Nat.mod_mul_right_mod _ n k, hset, Nat.mod_mul_right_mod]

/-- P of f02 R40 is not 0: an image's largest stride is at most 64. -/
theorem Image.slotPeriod_pos (img : Image) : 0 < img.slotPeriod := by
  have hmem (b : BitVec 8) : ∃ i < 7, (stridesOf b).getLastD 1 = 2 ^ i := by
    cases hl : stridesOf b with
    | nil => exact ⟨0, by decide, rfl⟩
    | cons a l =>
      have hlast : (a :: l).getLastD 1 ∈ stridesOf b := by
        rw [hl, List.getLastD_cons]
        exact List.getLastD_mem_cons ..
      obtain ⟨i, hi, heq⟩ := List.mem_map.mp hlast
      exact ⟨i, List.mem_range.mp (List.mem_filter.mp hi).1, heq.symm⟩
  obtain ⟨i, hi, heq⟩ := hmem (img.strides &&& 0x7F)
  have hle : 2 ^ i ≤ 2 ^ 8 := Nat.pow_le_pow_right (by decide) (by omega)
  rw [Image.slotPeriod, heq]
  exact Nat.div_pos hle (Nat.two_pow_pos i)

theorem State.barlead_ge (t : Timetable) : 64 ≤ s.barlead t := by
  unfold State.barlead
  split <;> omega

theorem State.startGcy_ge (t : Timetable) (after : Nat) : after + 64 ≤ s.startGcy t after := by
  have hlead := State.barlead_ge (s := s) t
  unfold State.startGcy
  dsimp only
  split
  · exact (Nat.add_le_add_left hlead after).trans (firstGcy_ge ..)
  · exact (Nat.add_le_add_left hlead after).trans (firstGcy_ge ..)

theorem State.startGcy_mod {t : Timetable} (h : 0 < t.stride) (after : Nat) : s.startGcy t after % t.stride = t.phase % t.stride := by
  unfold State.startGcy
  dsimp only
  split
  · exact firstGcy_mod (Nat.mul_pos h t.img.slotPeriod_pos)
  · simpa using firstGcy_mod (g := after + s.barlead t) (k := 1) (phase := t.phase) (by simpa using h)

end Sys2Proof.Machine
end

section
/-! SUPPORT. Arrival at a barrier, the settling and the release of a step's start, and what a package reports (f03 R68, R69, R71). -/
namespace Sys2Proof.Machine

variable {s : State} {tt : Nat}

/-! ### Arrival -/

theorem State.reachBoundary_strand (sid kind : Nat) : (s.reachBoundary sid kind).strand sid = { s.strand sid with halt := true } := by
  unfold State.reachBoundary
  dsimp only
  split <;> simp

theorem State.reachBoundary_last (sid kind : Nat) : ((s.reachBoundary sid kind).tt (ttOf sid)).last = (s.tt (ttOf sid)).last := by
  unfold State.reachBoundary
  dsimp only
  split <;> simp

/-- What an arrival writes, before its boundary or its stop point takes effect. -/
def State.arriving (s : State) (sid : Nat) : State :=
  (s.modStrand sid fun st => { st with arrived := some st.vclk, barMet := 0 }).modTt (ttOf sid) fun t => { t with last := s.gclk.toNat }

theorem State.arriving_strand (sid : Nat) :
    (s.arriving sid).strand sid = { s.strand sid with arrived := some (s.strand sid).vclk, barMet := 0 } := by
  unfold State.arriving
  rw [State.modTt_strand, State.strand_modStrand]

theorem State.arriving_last (sid : Nat) : ((s.arriving sid).tt (ttOf sid)).last = s.gclk.toNat := by
  unfold State.arriving
  rw [State.tt_modTt]

theorem State.arrive_spec (sid : Nat) : ((s.arrive sid).strand sid).arrived = some (s.strand sid).vclk ∧
    ((s.arrive sid).strand sid).d = (s.strand sid).d ∧ ((s.arrive sid).tt (ttOf sid)).last = s.gclk.toNat ∧
    (s.arrive sid).mem = s.mem := by
  have hstrand := State.arriving_strand (s := s) sid
  have hlast := State.arriving_last (s := s) sid
  have hmem : (s.arriving sid).mem = s.mem := rfl
  have heq : s.arrive sid = if (s.arriving sid).stopDue sid then (s.arriving sid).reachBoundary sid 1
      else if (s.arriving sid).preempting (ttOf sid) ∧ ((s.arriving sid).tt (ttOf sid)).mstep.isNone then (s.arriving sid).park sid
      else s.arriving sid := rfl
  generalize s.arriving sid = u at *
  rw [heq]
  split
  · rw [State.reachBoundary_strand, State.reachBoundary_last, State.reachBoundary_mem, hstrand]
    exact ⟨rfl, rfl, hlast, hmem⟩
  · split
    · rw [State.park, State.strand_modStrand, hstrand]
      exact ⟨rfl, rfl, hlast, hmem⟩
    · rw [hstrand]
      exact ⟨rfl, rfl, hlast, hmem⟩

theorem execMstepArrival_eq {sid l : Nat} (hwait : (s.strand sid).wait = .barrier) (hleaves : (s.strand sid).leaves = some l)
    (harrived : (s.strand sid).arrived = none) (hlife : (s.strand sid).life = 1) (hhalt : (s.strand sid).halt = false)
    (hl : l ≤ (s.strand sid).vclk) : execMstepArrival sid s = .next (s.arrive sid) := by
  simp [execMstepArrival, hwait, hleaves, harrived, hlife, hhalt, hl]

/-! ### The start is settled -/

theorem State.meterBarrier_tt (b sid j : Nat) : ∃ m, (s.meterBarrier tt b sid).tt j = { s.tt j with meters := m } := by
  obtain ⟨x, y, hxy, hmeters⟩ := State.meterTt_frame (s := s) tt 24 (b - (s.strand sid).arrived.getD b - (s.strand sid).barMet)
  exact hmeters j

theorem State.settleStart_start (g b : Nat) : ((s.settleStart tt g b).tt tt).start = some (g, b) := by
  have hfold (u : State) (sid : Nat) : ((u.meterBarrier tt b sid).tt tt).start = (u.tt tt).start := by
    obtain ⟨m, hm⟩ := State.meterBarrier_tt (s := u) (tt := tt) b sid tt
    rw [hm]
  unfold State.settleStart
  dsimp only
  rw [foldl_keeps (g := fun u => (State.tt u tt).start) hfold, State.tt_modTt]

theorem State.settleStart_linkView (g b : Nat) : (s.settleStart tt g b).linkView = s.linkView := by
  have hfold (u : State) (sid : Nat) : (u.meterBarrier tt b sid).linkView = u.linkView := by
    simp [State.meterBarrier]
  unfold State.settleStart
  dsimp only
  rw [foldl_keeps (g := State.linkView) hfold, State.modTt]
  exact State.setTt_linkView rfl

/-! ### Reports -/

theorem State.reportUp_eq (hlife : (s.tt tt).life = 1) (hstaged : s.stagedLines tt = 0)
    (hkids : ∀ v ∈ (s.barChildren (s.tt tt)).filter (fun v => !(s.tt tt).gone.contains v), ∃ r ∈ (s.tt tt).reports, r.1 = v)
    (hnew : ∀ r ∈ (s.tt tt).reports, r.1 ≠ 512) :
    let t := s.tt tt
    let last := t.reports.foldl (fun m r => Nat.max m r.2.1) t.last
    let b := t.reports.foldl (fun m r => Nat.max m r.2.2) (s.barrierValue tt)
    let u := s.modTt tt fun t => { t with reports := t.reports ++ [(512, 0, 0)] }
    let g := u.startGcy t last
    s.reportUp tt = match s.treeParent with
      | some p => u.sendBar p (.report tt last b)
      | none => (u.settleStart tt g b).sendBars ((s.barChildren t).filter fun v => !t.gone.contains v) (.start tt g b) := by
  intro t last b u g
  have hall : (((s.barChildren t).filter fun v => !t.gone.contains v).all fun v => t.reports.any fun r => r.1 == v) = true :=
    List.all_eq_true.mpr fun v hv => by simpa using hkids v hv
  have hany : (t.reports.any fun r => r.1 == 512) = false := List.any_eq_false.mpr fun r hr => by simpa using hnew r hr
  have hlife4 : ¬ (s.tt tt).life = 4 := by simp [hlife]
  unfold State.reportUp
  dsimp only
  rw [if_neg (fun h => hlife4 h.1), if_neg (by rw [hstaged, hall]; simp), if_neg (by rw [hany]; simp)]
  simp only [if_neg hlife4]
  rfl

theorem State.reportUp_child {p : Nat} (hlife : (s.tt tt).life = 1) (hstaged : s.stagedLines tt = 0)
    (hkids : ∀ v ∈ (s.barChildren (s.tt tt)).filter (fun v => !(s.tt tt).gone.contains v), ∃ r ∈ (s.tt tt).reports, r.1 = v)
    (hnew : ∀ r ∈ (s.tt tt).reports, r.1 ≠ 512) (hp : s.treeParent = some p) : let t := s.tt tt
    Repeats s (s.reportUp tt) [p] (.report tt (t.reports.foldl (fun m r => Nat.max m r.2.1) t.last)
      (t.reports.foldl (fun m r => Nat.max m r.2.2) (s.barrierValue tt))) := by
  intro t
  rw [State.reportUp_eq hlife hstaged hkids hnew, hp]
  have hview : (s.modTt tt fun t => { t with reports := t.reports ++ [(512, 0, 0)] }).linkView = s.linkView := State.setTt_linkView rfl
  exact State.repeats_sendBars (l := [p]) (State.alignTree_of_linkView hview) (State.pkg_of_linkView hview)

theorem State.reportUp_root (hlife : (s.tt tt).life = 1) (hstaged : s.stagedLines tt = 0)
    (hkids : ∀ v ∈ (s.barChildren (s.tt tt)).filter (fun v => !(s.tt tt).gone.contains v), ∃ r ∈ (s.tt tt).reports, r.1 = v)
    (hnew : ∀ r ∈ (s.tt tt).reports, r.1 ≠ 512) (hp : s.treeParent = none) (hstride : 0 < (s.tt tt).stride) : let t := s.tt tt
    let kids := (s.barChildren t).filter fun v => !t.gone.contains v
    let last := t.reports.foldl (fun m r => Nat.max m r.2.1) t.last
    let b := t.reports.foldl (fun m r => Nat.max m r.2.2) (s.barrierValue tt)
    ∃ g, ((s.reportUp tt).tt tt).start = some (g, b) ∧ last + 64 ≤ g ∧ g % t.stride = t.phase % t.stride ∧
      Repeats s (s.reportUp tt) kids (.start tt g b) := by
  intro t kids last b
  rw [State.reportUp_eq hlife hstaged hkids hnew, hp]
  dsimp only
  generalize hu : (s.modTt tt fun t => { t with reports := t.reports ++ [(512, 0, 0)] }) = u
  have hview : (u.settleStart tt (u.startGcy t last) b).linkView = s.linkView := by
    rw [State.settleStart_linkView, ← hu]
    exact State.setTt_linkView rfl
  refine ⟨u.startGcy t last, ?_, State.startGcy_ge .., State.startGcy_mod hstride _,
    State.repeats_sendBars (State.alignTree_of_linkView hview) (State.pkg_of_linkView hview)⟩
  obtain ⟨x, hx⟩ := State.sendBars_eq (s := u.settleStart tt (u.startGcy t last) b) kids (.start tt (u.startGcy t last) b)
  rw [hx, State.withLinks_tt]
  exact State.settleStart_start ..

/-! ### Release -/

/-- A part of the state that the slot tables of an M-step do not touch. -/
theorem State.layStep_keeps {β : Type} (g : State → β) (m : Nat) (open_ : Bool)
    (htables : ∀ (s : State) r b l f, g { s with routers := r, bridges := b, linkTabs := l, lostFlits := f } = g s) :
    g (s.layStep tt m open_) = g s := by
  have hslot (u : State) (kind inst e : Nat) (w : Word) : g (u.setSlot kind inst e w) = g u := by
    unfold State.setSlot
    dsimp only
    split <;> exact htables u _ _ _ _
  unfold State.layStep
  extract_lets t u
  have hu : g u = g s := by
    unfold u
    split
    · rfl
    · exact htables s _ _ _ _
  rw [foldl_keeps (g := g) fun u x => hslot u .., hu]

theorem Strand.release_release {st : Strand} (b : Nat) : (st.release b).release b = st.release b := rfl

/-- Every strand released. -/
def State.releaseAll (s : State) (tt b : Nat) : State := (s.alive tt).foldl (fun s sid => s.modStrand sid fun st => st.release b) s

theorem State.releaseAll_strand {sid : Nat} (b : Nat) (h : sid ∈ s.alive tt) :
    (s.releaseAll tt b).strand sid = (s.strand sid).release b := by
  rw [State.releaseAll, foldl_at_key (get := State.strand) (f := fun _ st => Strand.release st b)
    (fun _ => State.strand_modStrand ..) (fun _ _ hne => State.strand_modStrand_ne hne) (fun _ => Strand.release_release b), if_pos h]

theorem State.releaseAll_keeps {β : Type} (g : State → β) (b : Nat) (hstrand : ∀ s k f, g (State.modStrand s k f) = g s) :
    g (s.releaseAll tt b) = g s := foldl_keeps fun _ _ => hstrand ..

/-- The record of a timetable whose next step opens. -/
def Timetable.opening (t : Timetable) (b gclk : Nat) (m : Option Nat) (gens : List (BitVec 64)) : Timetable :=
  { t with
    step := t.step + 1, mstep := m, vcy0 := b + 1, start := none, wouldBe := none, late := false, reports := [], gens := gens, opened := gclk }

/-- A step opens: the record and the strands are those of its start, and memory is as it was. -/
theorem State.openStep_spec (b : Nat) : (∃ m gens, (s.openStep tt b).tt tt = (s.tt tt).opening b s.gclk.toNat m gens) ∧
    (∀ sid ∈ s.alive tt, (s.openStep tt b).strand sid = (s.strand sid).release b) ∧ (s.openStep tt b).mem = s.mem := by
  have htt : (s.releaseAll tt b).tt tt = s.tt tt := State.releaseAll_keeps (fun u => u.tt tt) b fun _ _ _ => rfl
  have hgclk : (s.releaseAll tt b).gclk = s.gclk := State.releaseAll_keeps State.gclk b fun _ _ _ => rfl
  have hmem : (s.releaseAll tt b).mem = s.mem := State.releaseAll_keeps State.mem b fun _ _ _ => rfl
  unfold State.openStep
  extract_lets t l m s1 gens s2 s3
  have hs1 : s1 = s.releaseAll tt b := rfl
  clear_value s1
  subst hs1
  have h2 : s2.tt tt = (s.tt tt).opening b s.gclk.toNat m gens := by
    rw [State.tt_modTt, htt, hgclk]
    rfl
  have h3 : (s3.tts, s3.strands, s3.mem) = (s2.tts, s2.strands, s2.mem) := by
    unfold s3
    split <;> rfl
  have hend : ∀ u : State, (u.tts, u.strands, u.mem) = (s3.tts, s3.strands, s3.mem) →
      (∃ m gens, u.tt tt = (s.tt tt).opening b s.gclk.toNat m gens) ∧
        (∀ sid ∈ s.alive tt, u.strand sid = (s.strand sid).release b) ∧ u.mem = s.mem := by
    intro u hu
    rw [h3] at hu
    simp only [Prod.mk.injEq] at hu
    obtain ⟨htts, hstrands, humem⟩ := hu
    refine ⟨⟨m, gens, ?_⟩, fun sid hsid => ?_, humem.trans hmem⟩
    · rw [State.tt, htts]
      exact h2
    · rw [State.strand, hstrands]
      exact State.releaseAll_strand b hsid
  clear_value s3 s2 gens m
  split
  · exact hend _ (State.layStep_keeps (fun u => (u.tts, u.strands, u.mem)) _ _ fun _ _ _ _ _ => rfl)
  · exact hend _ rfl

/-- The next gcy on which a step put off may start. -/
def State.putOffTo (s : State) (t : Timetable) : Nat :=
  if t.opensM then firstGcy (s.gclk.toNat + 1) (t.stride * t.img.slotPeriod) t.phase else firstGcy (s.gclk.toNat + 1) t.stride t.phase

theorem State.putOffTo_gt (t : Timetable) : s.gclk.toNat < s.putOffTo t := by
  unfold State.putOffTo
  split <;> exact firstGcy_ge ..

section
variable {g b : Nat} (hstart : (s.tt tt).start = some (g, b)) (hlife : (s.tt tt).life = 1) (hcause : (s.tt tt).cause = 0)
  (hheld : (s.tt tt).held = false) (hg : g ≤ s.gclk.toNat) (hall : s.allArrived tt = true) (hparked : s.someParked tt = false)
include hstart hlife hcause hheld hg hall hparked

theorem execBarrierRelease_eq : let t := s.tt tt
    execBarrierRelease tt s =
      if s.stagedLines tt ≠ 0 then
        .next (s.setTt tt { t with start := some (s.putOffTo t, b), late := true })
      else if t.lost ∧ t.mstep.isSome then .next ((if t.spans then s.sendFail tt none else s).stepFail tt 0xFFFFFFFF)
      else .next (s.openStep tt b) := by
  intro t
  unfold execBarrierRelease
  dsimp only
  rw [hstart]
  dsimp only
  rw [if_neg (by simp [hlife, hcause, hheld, hall, hparked, hg])]
  rfl

end

end Sys2Proof.Machine
end

section
/-! SUPPORT. What each message of the barrier does at a timetable that runs here (f03 R68, f17 R335). -/
namespace Sys2Proof.Machine

variable {s : State} {tt link : Nat}

/-- The neighbour at the other end of a link of the tree. -/
def State.barFrom (s : State) (link : Nat) : Option Nat :=
  (s.alignTree.2.find? fun e => e.touches s.pkg && e.linkAt s.pkg == link).map fun e => e.other s.pkg

theorem Timetable.endedHere_of_life {t : Timetable} (h : t.life = 1) : t.endedHere = false := by
  simp [Timetable.endedHere, h]

/-- Another record of the same image leaves who has arrived as it is. -/
theorem State.allArrived_setTt {x : Timetable} (h : x.img = (s.tt tt).img) : (s.setTt tt x).allArrived tt = s.allArrived tt := by
  simp only [State.allArrived, State.alive, State.sids_setTt_of_img h, State.setTt_strand]

section
variable {v last b : Nat} (hfrom : s.barFrom link = some v) (hlife : (s.tt tt).life = 1)
include hfrom hlife

theorem execBarrierMessage_report :
    let t := s.tt tt
    let kept := s.setTt tt { t with reports := (t.reports.filter fun r => r.1 != v) ++ [(v, last, b)] }
    execBarrierMessage link (.report tt last b) s = .next (if last < t.opened then s
      else if s.allArrived tt ∧ t.cause = 0 ∧ t.start.isNone then kept.reportUp tt else kept) := by
  intro t kept
  have harrived : kept.allArrived tt = s.allArrived tt := State.allArrived_setTt rfl
  unfold State.barFrom at hfrom
  unfold execBarrierMessage
  dsimp only
  rw [hfrom, ← harrived]
  dsimp only
  rw [if_pos (.inl hlife)]
  simp only [Timetable.endedHere_of_life hlife, Bool.false_eq_true, false_or]
  split <;> rfl

theorem execBarrierMessage_ended :
    let t := s.tt tt
    let kept := s.setTt tt { t with gone := t.gone ++ [v] }
    execBarrierMessage link (.ended tt) s = .next (if v ∈ t.gone then s
      else if s.allArrived tt ∧ t.cause = 0 ∧ t.start.isNone then kept.reportUp tt else kept) := by
  intro t kept
  have harrived : kept.allArrived tt = s.allArrived tt := State.allArrived_setTt rfl
  unfold State.barFrom at hfrom
  unfold execBarrierMessage
  dsimp only
  rw [hfrom, ← harrived]
  dsimp only
  simp only [Timetable.endedHere_of_life hlife, Bool.false_eq_true, false_or, or_false, List.contains_iff_mem, if_pos hlife]
  split <;> rfl

end

section
variable {g b : Nat} (hlife : (s.tt tt).life = 1)
include hlife

/-- A start of a step that has begun, or whose start is settled, does nothing. -/
theorem execBarrierMessage_start_old (h : g ≤ (s.tt tt).opened ∨ (s.tt tt).start ≠ none) :
    execBarrierMessage link (.start tt g b) s = .next s := by
  have hold : (s.tt tt).cause ≠ 0 ∨ g ≤ (s.tt tt).opened ∨ (s.tt tt).start.isSome = true := .inr (h.imp_right Option.isSome_iff_ne_none.mpr)
  simp only [execBarrierMessage, Timetable.endedHere_of_life hlife, Bool.false_eq_true, if_false, hlife, ne_eq, not_true, if_pos hold]

variable (hcause : (s.tt tt).cause = 0) (hnew : (s.tt tt).opened < g) (hstart : (s.tt tt).start = none)
include hcause hnew hstart

theorem execBarrierMessage_start_new : execBarrierMessage link (.start tt g b) s =
    .next (if g ≤ s.gclk.toNat ∨ s.allArrived tt = false then (s.sendFail tt none).failStep tt
      else (s.settleStart tt g b).sendBars ((s.settleStart tt g b).barChildren (s.tt tt)) (.start tt g b)) := by
  have hold : ¬ ((s.tt tt).cause ≠ 0 ∨ g ≤ (s.tt tt).opened ∨ (s.tt tt).start.isSome = true) := by
    simp [hcause, hstart, hnew]
  simp only [execBarrierMessage, Timetable.endedHere_of_life hlife, Bool.false_eq_true, if_false, hlife, ne_eq, not_true]
  rw [if_neg hold]
  split <;> rfl

/-- A start that comes in time is taken and passed on. -/
theorem execBarrierMessage_start_inTime (hg : s.gclk.toNat < g) (hall : s.allArrived tt = true) :
    ∃ x, execBarrierMessage link (.start tt g b) s = .next x ∧ (x.tt tt).start = some (g, b) ∧
      Repeats s x (s.barChildren (s.tt tt)) (.start tt g b) := by
  have hview := State.settleStart_linkView (s := s) (tt := tt) g b
  refine ⟨_, execBarrierMessage_start_new hlife hcause hnew hstart, ?_⟩
  rw [if_neg (by simp [hall, hg]), State.barChildren_of_linkView hview]
  refine ⟨?_, State.repeats_sendBars (State.alignTree_of_linkView hview) (State.pkg_of_linkView hview)⟩
  obtain ⟨x, hx⟩ := State.sendBars_eq (s := s.settleStart tt g b) (s.barChildren (s.tt tt)) (.start tt g b)
  rw [hx, State.withLinks_tt]
  exact State.settleStart_start ..

/-- One that comes late fails the step, and the failure is told all around. -/
theorem execBarrierMessage_start_late (hlate : g ≤ s.gclk.toNat ∨ s.allArrived tt = false) :
    ∃ x, execBarrierMessage link (.start tt g b) s = .next x ∧
      ((s.allArrived tt = true → (x.tt tt).cause = 2) ∧ (s.allArrived tt = false → (x.tt tt).failed = true)) ∧
      Repeats s x (s.barAround (s.tt tt)) (.fail tt) := by
  obtain ⟨hfails, hrep⟩ := State.sendFail_failStep hcause none
  refine ⟨_, execBarrierMessage_start_new hlife hcause hnew hstart, ?_⟩
  rw [if_pos hlate]
  refine ⟨hfails, fun v hv => hrep v (List.mem_filter.mpr ⟨hv, rfl⟩)⟩

end

/-- A failure of a step in progress is taken and passed on. -/
theorem execBarrierMessage_fail (hlife : (s.tt tt).life = 1) (hcause : (s.tt tt).cause = 0) (hnew : (s.tt tt).failed = false) :
    execBarrierMessage link (.fail tt) s = .next ((s.sendFail tt (s.barFrom link)).failStep tt) := by
  simp only [execBarrierMessage, hlife, hcause, hnew, Bool.false_eq_true, ne_eq, not_true, or_self, if_true, if_false]
  rfl

/-- A stop stops the timetable here, and is passed on. -/
theorem execBarrierMessage_stop {cause : Nat} (hlife : (s.tt tt).life = 1) (hcause : (s.tt tt).cause = 0) :
    ∃ x, execBarrierMessage link (.stop tt cause) s = .next x ∧ (x.tt tt).cause = cause ∧
      Repeats s x ((s.treeParent.toList ++ s.treeChildren).filter fun v => some v != s.barFrom link) (.stop tt cause) := by
  generalize hu : s.setTt tt { s.tt tt with cause := cause, told := true } = u
  have hexec : execBarrierMessage link (.stop tt cause) s = .next (u.passBar (s.barFrom link) (.stop tt cause)) := by
    rw [← hu]
    unfold execBarrierMessage
    dsimp only
    rw [if_pos ⟨hlife, hcause⟩]
    rfl
  have hview : u.linkView = s.linkView := by
    rw [← hu]
    exact State.setTt_linkView rfl
  have hdest : u.treeParent.toList ++ u.treeChildren = s.treeParent.toList ++ s.treeChildren := by
    rw [← hu]
    rfl
  rw [hexec, State.passBar_eq, hdest]
  refine ⟨_, rfl, ?_, State.repeats_sendBars (State.alignTree_of_linkView hview) (State.pkg_of_linkView hview)⟩
  obtain ⟨x, hx⟩ := State.sendBars_eq (s := u) ((s.treeParent.toList ++ s.treeChildren).filter fun v => some v != s.barFrom link)
    (.stop tt cause)
  rw [hx, State.withLinks_tt, ← hu, State.tt_setTt]

end Sys2Proof.Machine
end

section
open Sys2Proof Sys2Proof.Machine

/-- Settles O45: the arrival (`State.arrive_spec`), the release (`execBarrierRelease_eq`, `State.openStep_spec`), the report up the tree
(`State.reportUp_eq`), and each message's equation. -/
theorem stepBarriers : Obligations.StepBarriers := by
  refine ⟨?arrival, ?release, ?report, ?up, ?down⟩
  case arrival =>
    intro s sid l st hwait hleaves harrived hlife hhalt hl
    obtain ⟨h1, h2, h3, h4⟩ := State.arrive_spec (s := s) sid
    exact ⟨_, execMstepArrival_eq hwait hleaves harrived hlife hhalt hl, h1, h3, h4, h2⟩
  case release =>
    intro s tt g b t hstart hlife hcause hheld hg hall hparked
    have hexec : exec (.barrierRelease tt) s = _ := execBarrierRelease_eq hstart hlife hcause hheld hg hall hparked
    refine ⟨fun hstaged hkept => ?_, fun hstaged hlost hm => ?_, fun hstaged => ?_⟩
    · rw [if_neg (by simpa using hstaged), if_neg hkept] at hexec
      obtain ⟨⟨m, gens, htt⟩, hstrands, hmem⟩ := State.openStep_spec (s := s) (tt := tt) b
      refine ⟨_, hexec, ?_⟩
      rw [htt]
      refine ⟨rfl, rfl, rfl, rfl, fun sid hsid => ?_, hmem⟩
      rw [hstrands sid hsid]
      exact ⟨rfl, rfl, rfl, rfl⟩
    · rw [if_neg (by simpa using hstaged), if_pos ⟨hlost, hm⟩] at hexec
      have hlinks : ∃ l, (if t.spans then s.sendFail tt none else s) = s.withLinks l := by
        split
        · exact State.sendBars_eq ..
        · exact ⟨s.links, rfl⟩
      obtain ⟨l, hl⟩ := hlinks
      rw [hl] at hexec
      obtain ⟨hcause2, hhalt, -⟩ := State.stepFail_spec (s := s.withLinks l) (aux := 0xFFFFFFFF) hcause
      exact ⟨_, hexec, hcause2, hhalt⟩
    · rw [if_pos hstaged] at hexec
      refine ⟨_, s.putOffTo t, hexec, ?_⟩
      rw [State.tt_setTt]
      exact ⟨rfl, State.putOffTo_gt t, rfl, rfl⟩
  case report =>
    intro s link tt last b v t hfrom hlife kept
    have hreport : exec (.barrierMessage link (.report tt last b)) s = _ := execBarrierMessage_report hfrom hlife
    have hended : exec (.barrierMessage link (.ended tt)) s = _ := execBarrierMessage_ended hfrom hlife
    have hbusy (h : s.allArrived tt = false ∨ t.cause ≠ 0 ∨ t.start ≠ none) :
        ¬ (s.allArrived tt = true ∧ (s.tt tt).cause = 0 ∧ (s.tt tt).start.isNone = true) := by
      rintro ⟨h1, h2, h3⟩
      rcases h with h | h | h
      · rw [h1] at h
        cases h
      · exact h h2
      · exact h (Option.isNone_iff_eq_none.mp h3)
    refine ⟨fun hold => ?_, fun hnew h => ?_, fun hnew hall hcause hstart => ?_, fun hnew h => ?_, fun hold => ?_⟩
    · rw [hreport, if_pos hold]
    · rw [hreport, if_neg (Nat.not_lt.mpr hnew), if_neg (hbusy h)]
    · rw [hreport, if_neg (Nat.not_lt.mpr hnew), if_pos ⟨hall, hcause, Option.isNone_iff_eq_none.mpr hstart⟩]
    · rw [hended, if_neg hnew, if_neg (hbusy h)]
    · rw [hended, if_pos hold]
  case up =>
    intro s tt t kids last b hlife hstaged hkids hnew
    exact ⟨fun p hp => State.reportUp_child hlife hstaged hkids hnew hp,
      fun hp hstride => State.reportUp_root hlife hstaged hkids hnew hp hstride⟩
  case down =>
    intro s link tt g b c t from_ around fails hlife hcause
    refine ⟨fun hnew hstart => ⟨fun hg hall => ?_, fun hlate => ?_⟩, fun hold => ?_, fun hfailed => ?_, ?_⟩
    · exact execBarrierMessage_start_inTime (link := link) hlife hcause hnew hstart hg hall
    · exact execBarrierMessage_start_late (link := link) hlife hcause hnew hstart hlate
    · exact execBarrierMessage_start_old (link := link) hlife hold
    · exact ⟨_, execBarrierMessage_fail hlife hcause hfailed, State.sendFail_failStep hcause _⟩
    · exact execBarrierMessage_stop hlife hcause

end

section
/-! SUPPORT. Writes that land (f03 R62, R63): each of them writes one D register, or bytes it names, or neither; and where a byte lies as a
strand sees it is settled by what no landing touches. -/
namespace Sys2Proof.Machine

variable {s t : State} {sid : Nat}

/-! ### What a landing may touch -/

/-- The D registers of a strand, what it has pending and its logical core. -/
def Strand.landPart (st : Strand) : SMap (BitVec 64) × List Pend × Nat := (st.d, st.pend, st.lcore)

theorem Strand.landPart_eq {x y : Strand} (hd : x.d = y.d) (hpend : x.pend = y.pend) (hlcore : x.lcore = y.lcore) :
    x.landPart = y.landPart := by
  simp only [Strand.landPart, hd, hpend, hlcore]

/-- What landings are told by: D registers and bytes of memory, and beside them what no landing touches. -/
structure LandView where
  strands : Nat → SMap (BitVec 64) × List Pend × Nat
  mem     : Memory
  links   : LinkView

def State.landView (s : State) : LandView := ⟨fun k => (s.strand k).landPart, s.mem, s.linkView⟩

/-- A D register in a view. -/
def LandView.rd (v : LandView) (k r : Nat) : BitVec 64 := if r = 0 then 0 else SMap.get 0 (v.strands k).1 r

theorem State.landView_rd (k r : Nat) : s.landView.rd k r = (s.strand k).rd r := rfl

/-- What no landing touches. -/
def LandView.frame (v : LandView) : (Nat → List Pend × Nat) × LinkView := (fun k => (v.strands k).2, v.links)

/-- A view with a D register written. -/
def LandView.withD (v : LandView) (sid r : Nat) (x : BitVec 64) : LandView :=
  { v with strands := fun k => if k = sid ∧ r ≠ 0 then (SMap.set 0 (v.strands k).1 r x, (v.strands k).2) else v.strands k }

/-- A view with bytes written. -/
def LandView.write (v : LandView) (l : List (Nat × Byte)) : LandView := { v with mem := v.mem.writeAll l }

theorem LandView.withD_frame (v : LandView) (r : Nat) (x : BitVec 64) : (v.withD sid r x).frame = v.frame := by
  have hstrands : (fun k => ((v.withD sid r x).strands k).2) = fun k => (v.strands k).2 := by
    funext k
    simp only [LandView.withD]
    split <;> rfl
  exact congrArg (·, v.links) hstrands

theorem LandView.withD_rd (v : LandView) (r : Nat) (x : BitVec 64) (k y : Nat) :
    (v.withD sid r x).rd k y = if k = sid ∧ y = r ∧ r ≠ 0 then x else v.rd k y := by
  simp only [LandView.rd, LandView.withD]
  by_cases hk : k = sid ∧ r ≠ 0
  · obtain ⟨rfl, hr⟩ := hk
    by_cases hy : y = r
    · subst hy
      simp [hr]
    · simp [hr, hy, SMap.get_set_ne hy]
  · have hno : ¬ (k = sid ∧ y = r ∧ r ≠ 0) := fun h => hk ⟨h.1, h.2.2⟩
    simp only [hk, hno, if_false]

theorem State.landView_eq (hstrands : t.strands = s.strands) (hmem : t.mem = s.mem) (hlinks : t.linkView = s.linkView) :
    t.landView = s.landView := by
  simp only [State.landView, State.strand, hstrands, hmem, hlinks]

theorem State.modStrand_landView {f : Strand → Strand} (h : (f (s.strand sid)).landPart = (s.strand sid).landPart) :
    (s.modStrand sid f).landView = s.landView := by
  have hstrands : (fun k => ((s.modStrand sid f).strand k).landPart) = fun k => (s.strand k).landPart := by
    funext k
    by_cases hk : k = sid
    · subst hk
      rw [State.strand_modStrand, h]
    · rw [State.strand_modStrand_ne hk]
  exact congrArg (LandView.mk · s.mem s.linkView) hstrands

theorem State.setStrand_landView {x : Strand} (h : x.landPart = (s.strand sid).landPart) : (s.setStrand sid x).landView = s.landView :=
  State.modStrand_landView (f := fun _ => x) h

theorem State.setTt_landView {k : Nat} {x : Timetable} (h : x.standing = (s.tt k).standing) : (s.setTt k x).landView = s.landView :=
  State.landView_eq rfl rfl (State.setTt_linkView h)

theorem State.meterTt_landView (k i n : Nat) : (s.meterTt k i n).landView = s.landView := by
  obtain ⟨x, y, heq, -⟩ := State.meterTt_frame (s := s) k i n
  exact State.landView_eq (by rw [heq]; rfl) (by rw [heq]; rfl) (State.meterTt_linkView ..)

theorem State.meterMove_landView (l : List Nat) (write timed : Bool) : (s.meterMove sid l write timed).landView = s.landView := by
  have hbytes : (s.meterBytes (ttOf sid) l write).landView = s.landView := foldl_keeps fun _ _ => State.meterTt_landView ..
  rw [State.meterMove, State.meterCross, State.meterTt_landView, State.meterTt_landView, hbytes]

theorem State.countTt_landView (tt src : Nat) : (s.countTt tt src).landView = s.landView :=
  foldl_keeps fun _ _ => State.modStrand_landView (Strand.landPart_eq rfl rfl rfl)

theorem State.keepMeters_landView (old : State) (tt : Nat) : (s.keepMeters old tt).landView = s.landView := State.setTt_landView rfl

theorem State.reachBoundary_landView (kind : Nat) : (s.reachBoundary sid kind).landView = s.landView := by
  have hhalt : (s.setStrand sid { s.strand sid with halt := true }).landView = s.landView := State.setStrand_landView (Strand.landPart_eq rfl rfl rfl)
  unfold State.reachBoundary
  dsimp only
  split
  · exact (State.setTt_landView (by rfl)).trans hhalt
  · exact hhalt

theorem Strand.takeFault_landPart {st : Strand} (code slot creg off : Nat) : (st.takeFault code slot creg off).landPart = st.landPart := by
  unfold Strand.takeFault
  split <;> exact Strand.landPart_eq rfl rfl rfl

theorem Strand.wp_landPart {st : Strand} (r : Nat) (m x : PReg) : (st.wp r m x).landPart = st.landPart := by
  unfold Strand.wp
  dsimp only
  split <;> exact Strand.landPart_eq rfl rfl rfl

theorem Strand.wv_landPart {st : Strand} (r : Nat) (m : PReg) (x : VReg) : (st.wv r m x).landPart = st.landPart :=
  Strand.landPart_eq (Strand.wv_d ..) (Strand.wv_pend ..) (Strand.wv_lcore ..)

theorem Strand.wvBits_landPart {st : Strand} (r : Nat) (m x : VReg) : (st.wvBits r m x).landPart = st.landPart := by
  unfold Strand.wvBits
  dsimp only
  generalize SMap.set [] st.v r _ = v
  exact Strand.landPart_eq rfl rfl rfl

theorem Strand.wc_landPart {st : Strand} (r : Nat) (x : Cap) : (st.wc r x).landPart = st.landPart := by
  unfold Strand.wc
  split <;> exact Strand.landPart_eq rfl rfl rfl

theorem Strand.landCsr_landPart {st : Strand} (n : Nat) (v : BitVec 64) : (st.landCsr n v).landPart = st.landPart := by
  unfold Strand.landCsr
  dsimp only
  split
  · exact Strand.landPart_eq rfl rfl rfl
  · split <;> exact Strand.landPart_eq rfl rfl rfl

theorem State.fault_landView (code slot creg off : Nat) : (s.fault sid code slot creg off).landView = s.landView := by
  have htaken : (s.setStrand sid ((s.strand sid).takeFault code slot creg off)).landView = s.landView :=
    State.setStrand_landView (Strand.takeFault_landPart ..)
  unfold State.fault
  extract_lets st u t' v
  have hv : v.landView = s.landView := by
    unfold v
    split
    · exact (State.setTt_landView (by rfl)).trans htaken
    · exact htaken
  split
  · rw [State.reachBoundary_landView, hv]
  · exact hv

theorem Strand.report_landPart {st : Strand} (resid : Option Nat) (clear : Bool) (lanes : List (Nat × Bool)) :
    (st.report resid clear lanes).landPart = st.landPart := by
  unfold Strand.report
  split
  · rfl
  · split <;> exact Strand.wp_landPart ..

theorem State.wd_landView (r : Nat) (v : BitVec 64) (x : Bool) :
    (s.modStrand sid fun st => st.wd r v x).landView = s.landView.withD sid r v := by
  have hstrands : (fun k => ((s.modStrand sid fun st => st.wd r v x).strand k).landPart) = (s.landView.withD sid r v).strands := by
    funext k
    by_cases hk : k = sid
    · subst hk
      rw [State.strand_modStrand]
      by_cases hr : r = 0
      · simp [Strand.wd, LandView.withD, State.landView, hr]
      · simp [Strand.wd, LandView.withD, State.landView, Strand.landPart, hr]
    · rw [State.strand_modStrand_ne hk]
      simp [LandView.withD, State.landView, hk]
  exact congrArg (LandView.mk · s.mem s.linkView) hstrands

/-! ### What each landing does -/

theorem State.landMma_landView (old : Timetable) (t : Nat) (e : BitVec 64) (a : VReg) (b : List VReg) (sc : VReg) (rs : Bool) :
    (s.landMma old sid t e a b sc rs).landView = s.landView := by
  unfold State.landMma
  obtain ⟨img, rows, fl⟩ := mmaResult e rs (old.tile t) (old.rowSums t) a b sc
  dsimp -zeta only
  extract_lets s1 s2 core s3
  have h1 : s1.landView = s.landView := by
    refine State.setTt_landView ?_
    dsimp only
    split <;> rfl
  have h2 : s2.landView = s1.landView := State.modStrand_landView (Strand.landPart_eq rfl rfl rfl)
  have h3 : s3.landView = s2.landView := foldl_keeps fun u k => by
    split
    · exact State.modStrand_landView (Strand.landPart_eq rfl rfl rfl)
    · rfl
  rw [State.meterTt_landView, h3, h2, h1]

theorem State.landLoad_cases (dst : LoadDst) (addrs : List (Option Nat)) (got : List Byte) :
    (s.landLoad sid dst addrs got).landView = s.landView ∨
      ∃ r k v, dst = .d r k ∧ (s.landLoad sid dst addrs got).landView = s.landView.withD sid r v := by
  unfold State.landLoad
  extract_lets u
  have hu : u.landView = s.landView := State.meterMove_landView ..
  split
  next r k =>
    right
    exact ⟨r, k, _, rfl, by rw [State.wd_landView, hu]⟩
  next r =>
    left
    refine (State.modStrand_landView ?_).trans hu
    exact Strand.wp_landPart ..
  next r act resid clear =>
    left
    refine (State.modStrand_landView ?_).trans hu
    rw [Strand.report_landPart, Strand.wv_landPart]
  next r creg off =>
    left
    split
    · exact (State.modStrand_landView (Strand.wc_landPart ..)).trans hu
    · split
      · exact (State.modStrand_landView (Strand.wc_landPart ..)).trans hu
      · exact ((State.fault_landView ..).trans (State.modStrand_landView (Strand.wc_landPart ..))).trans hu

/-- Cells written by a landing: the bytes that have a place, where the write reaches them. -/
def State.reached (s : State) (sid : Nat) (l : List (Option Nat × Byte)) : List (Nat × Byte) :=
  (l.filterMap fun x => x.1.map fun a => (a, x.2)).filter fun x => s.reaches sid x.1

theorem State.mem_reached {l : List (Option Nat × Byte)} {x : Nat × Byte} (h : x ∈ s.reached sid l) : (some x.1, x.2) ∈ l := by
  obtain ⟨y, hy, heq⟩ := List.mem_filterMap.mp (List.mem_filter.mp h).1
  obtain ⟨a, ha, rfl⟩ := Option.map_eq_some_iff.mp heq
  rw [← ha]
  exact hy

/-- The bytes written, counted on their way, their flits spent. -/
theorem State.landBytes_landView (l : List (Nat × Byte)) (moved spent : List Nat) (timed : Bool) :
    (((s.writeBytes l).meterMove sid moved true timed).spendLost sid spent).landView = s.landView.write l :=
  State.meterMove_landView (s := s.writeBytes l) moved true timed

theorem State.landStore_landView (bytes : List (Option Nat × Byte)) (resid : Option Nat) (clear : Bool) (lanes : List Nat) :
    ∃ kept, (∀ x ∈ kept, x ∈ bytes) ∧ (lanes = [] → kept = bytes) ∧
      (s.landStore sid bytes resid clear lanes).landView = s.landView.write (s.reached sid kept) := by
  unfold State.landStore
  extract_lets holes kept l u
  refine ⟨kept, fun x hx => ?_, fun hno => if_pos (by simp [hno]), ?_⟩
  · unfold kept at hx
    split at hx
    · exact hx
    · obtain ⟨y, hy, heq⟩ := List.mem_filterMap.mp hx
      split at heq
      · cases heq
      · cases heq
        exact List.fst_mem_of_mem_zipIdx hy
  · rw [State.modStrand_landView (Strand.report_landPart ..)]
    exact State.landBytes_landView ..

theorem State.landOx_landView (dst src : List (Option Nat)) (got : List Byte) (fixed : List (Option Byte)) (rpred : Option Nat) (line : Nat) :
    ∃ l, (∀ x ∈ l, some x.1 ∈ dst) ∧ (s.landOx sid dst src got fixed rpred line).landView = s.landView.write l := by
  unfold State.landOx
  extract_lets hole dropped vals l u w
  have hu : u.landView = s.landView.write l := State.landBytes_landView ..
  have hw : w.landView = u.landView := by
    unfold w
    split
    · rfl
    · exact State.meterMove_landView ..
  refine ⟨l, fun x hx => ?_, ?_⟩
  · unfold l at hx
    split at hx
    · cases hx
    · have hmem : (some x.1, x.2) ∈ dst.zip vals := State.mem_reached (s := s) (sid := sid) hx
      exact (List.of_mem_zip hmem).1
  · rw [← hu, ← hw]
    split
    · split
      · exact State.modStrand_landView (Strand.wp_landPart ..)
      · rfl
    · rfl

/-- What a landing is: a write to one D register, or to bytes it names, or to neither. -/
def LandView.Landed (v w : LandView) (sid : Nat) (e : Eff) : Prop :=
  w = v ∨ (∃ r x, LandsInD e r ∧ w = v.withD sid r x) ∨ ∃ l : List (Nat × Byte), (∀ x ∈ l, LandsAt e x.1) ∧ w = v.write l

theorem State.land_landed (old : Timetable) (e : Eff) : s.landView.Landed (s.land old sid e).landView sid e := by
  have quiet {u : State} (h : u.landView = s.landView) : s.landView.Landed u.landView sid e := .inl h
  cases e with
  | d r v k => exact .inr (.inl ⟨r, v, rfl, State.wd_landView ..⟩)
  | load dst addrs got =>
    obtain h | ⟨r, k, v, rfl, h⟩ := State.landLoad_cases (s := s) (sid := sid) dst addrs (got.getD (addrs.map s.peek))
    · exact quiet h
    · exact .inr (.inl ⟨r, v, rfl, h⟩)
  | store bytes resid clear lanes =>
    obtain ⟨kept, hkept, -, h⟩ := State.landStore_landView (s := s) (sid := sid) bytes resid clear lanes
    exact .inr (.inr ⟨_, fun x hx => ⟨x.2, hkept _ (State.mem_reached hx)⟩, h⟩)
  | ox dst src got fixed sync rp line =>
    obtain ⟨l, hl, h⟩ := State.landOx_landView (s := s) (sid := sid) dst src (got.getD (src.map s.peek)) fixed rp line
    exact .inr (.inr ⟨l, hl, h⟩)
  | c r v => exact quiet (State.modStrand_landView (Strand.wc_landPart ..))
  | p r m x => exact quiet (State.modStrand_landView (Strand.wp_landPart ..))
  | csr n v => exact quiet (State.modStrand_landView (Strand.landCsr_landPart ..))
  | mma t ft a b sc rs => exact quiet (State.landMma_landView ..)
  | mmas t ft a issue occ lines got sc rs => exact quiet ((State.landMma_landView ..).trans (State.meterMove_landView ..))
  | meter i n => exact quiet (State.meterTt_landView ..)
  | arm a n => exact quiet rfl
  | tile t x => exact quiet (State.setTt_landView rfl)
  | rowsum t x => exact quiet (State.setTt_landView rfl)
  | clrt m => exact quiet (State.modStrand_landView (Strand.landPart_eq rfl rfl rfl))
  | v r m x => exact quiet (State.modStrand_landView (Strand.wv_landPart ..))
  | vbits r m x => exact quiet (State.modStrand_landView (Strand.wvBits_landPart ..))
  | mq k x => exact quiet (State.modStrand_landView (Strand.landPart_eq rfl rfl rfl))
  | mb k x => exact quiet (State.modStrand_landView (Strand.landPart_eq rfl rfl rfl))
  | flags f => exact quiet (State.modStrand_landView (Strand.landPart_eq rfl rfl rfl))
  | qb h q => exact quiet (State.modStrand_landView (Strand.landPart_eq rfl rfl rfl))

/-- No landing touches what is pending, a strand's logical core or where the timetables stand. -/
theorem LandView.Landed.frame {v w : LandView} {e : Eff} (h : v.Landed w sid e) : w.frame = v.frame := by
  obtain rfl | ⟨r, x, -, rfl⟩ | ⟨l, -, rfl⟩ := h
  · rfl
  · exact LandView.withD_frame ..
  · rfl

theorem LandView.Landed.rd {v w : LandView} {e : Eff} {k r : Nat} (h : v.Landed w sid e) (hr : sid = k → ¬ LandsInD e r) :
    w.rd k r = v.rd k r := by
  obtain rfl | ⟨r', x, hlands, rfl⟩ | ⟨l, -, rfl⟩ := h
  · rfl
  · rw [LandView.withD_rd, if_neg]
    rintro ⟨rfl, rfl, -⟩
    exact hr rfl hlands
  · rfl

theorem LandView.Landed.read {v w : LandView} {e : Eff} {a : Nat} (h : v.Landed w sid e) (ha : ¬ LandsAt e a) :
    w.mem.read a = v.mem.read a := by
  obtain rfl | ⟨r, x, -, rfl⟩ | ⟨l, hl, rfl⟩ := h
  · rfl
  · rfl
  · exact Memory.read_writeAll_out fun x hx hxa => ha (hxa ▸ hl x hx)

end Sys2Proof.Machine
end

section
/-! SUPPORT. The writes of one gcy, landing one after another (f03 R62, R63). -/
namespace Sys2Proof.Machine

variable {s t : State} {tt : Nat}

/-- One write of the gcy: it is an event where it meets a location already written, and a replay's is metered no more. -/
def State.landStep (tt : Nat) (old : Timetable) (s : State) (x : Nat × Pend) : State :=
  let locs := s.locsOf x.1 x.2.eff
  let s := if meetLocs locs s.landed then s.countTt tt 1 else s
  let s' := State.land { s with landed := s.landed ++ locs } old x.1 x.2.eff
  if (s.strand x.1).replaying then s'.keepMeters s tt else s'

/-- What lands is no longer pending. -/
def State.unpend (s : State) (tt : Nat) : State := (s.sids tt).foldl (fun s sid => s.modStrand sid Strand.landed) s

theorem execTimedPerform_eq (h : s.landings tt ≠ []) :
    execTimedPerform tt s = .next ((s.landings tt).foldl (State.landStep tt (s.tt tt)) (s.unpend tt)) := by
  unfold execTimedPerform
  split
  next hnil => exact absurd hnil h
  · rfl

/-- Counting and meters aside, the step is its landing, in a state with the same view. -/
theorem State.landStep_land (old : Timetable) (x : Nat × Pend) :
    ∃ u : State, u.landView = s.landView ∧ (s.landStep tt old x).landView = (u.land old x.1 x.2.eff).landView := by
  unfold State.landStep
  extract_lets locs v w
  have hv : v.landView = s.landView := by
    unfold v
    split
    · exact State.countTt_landView ..
    · rfl
  refine ⟨{ v with landed := v.landed ++ locs }, hv, ?_⟩
  split
  · exact State.keepMeters_landView ..
  · rfl

theorem State.landStep_landed (old : Timetable) (x : Nat × Pend) : s.landView.Landed (s.landStep tt old x).landView x.1 x.2.eff := by
  obtain ⟨u, hu, hstep⟩ := State.landStep_land (s := s) (tt := tt) old x
  rw [hstep, ← hu]
  exact State.land_landed ..

/-! ### What a run of landings leaves -/

section
variable {old : Timetable} {l : List (Nat × Pend)}

theorem State.landAll_frame : (l.foldl (State.landStep tt old) s).landView.frame = s.landView.frame :=
  foldl_keeps (g := fun u => (State.landView u).frame) fun _ _ => (State.landStep_landed ..).frame

theorem State.landAll_pend (sid : Nat) : ((l.foldl (State.landStep tt old) s).strand sid).pend = (s.strand sid).pend :=
  congrArg Prod.fst (congrFun (congrArg Prod.fst State.landAll_frame) sid)

theorem State.landAll_rd {sid r : Nat} (h : ∀ x ∈ l, x.1 = sid → ¬ LandsInD x.2.eff r) :
    ((l.foldl (State.landStep tt old) s).strand sid).rd r = (s.strand sid).rd r :=
  List.foldlRecOn (motive := fun u => (State.strand u sid).rd r = (s.strand sid).rd r) l _ rfl
    fun _ hu x hx => ((State.landStep_landed ..).rd (h x hx)).trans hu

theorem State.landAll_read {a : Nat} (h : ∀ x ∈ l, ¬ LandsAt x.2.eff a) :
    (l.foldl (State.landStep tt old) s).mem.read a = s.mem.read a :=
  List.foldlRecOn (motive := fun u => (State.mem u).read a = s.mem.read a) l _ rfl
    fun _ hu x hx => ((State.landStep_landed ..).read (h x hx)).trans hu

end

/-! ### The value of the last write -/

/-- A D register that a landing writes reads its value. -/
theorem State.landStep_d {old : Timetable} {sid r : Nat} {p : Pend} {v : BitVec 64} {k : Bool} (h : p.eff = .d r v k) (hr : r ≠ 0) :
    ((s.landStep tt old (sid, p)).strand sid).rd r = v := by
  obtain ⟨u, -, hstep⟩ := State.landStep_land (s := s) (tt := tt) old (sid, p)
  dsimp only at hstep
  rw [h, State.land_d] at hstep
  rw [← State.landView_rd, hstep, State.landView_rd, State.strand_setStrand, Strand.rd_wd, if_pos ⟨rfl, hr⟩]

/-- Where a byte lies as a strand sees it is settled by the strand's logical core and where its timetable is placed. -/
theorem State.isRemote_of_linkView {sid : Nat} (hlcore : (t.strand sid).lcore = (s.strand sid).lcore) (hlinks : t.linkView = s.linkView)
    (a : Nat) : t.isRemote sid a = s.isRemote sid a := by
  have hplaces : (t.tt (ttOf sid)).place = (s.tt (ttOf sid)).place :=
    congrArg (fun x : Nat × Option Nat × Image × List Place => x.2.2.2) (congrFun (congrArg LinkView.standing hlinks) (ttOf sid))
  have hplace : t.placeOfStrand sid = s.placeOfStrand sid := by
    simp only [State.placeOfStrand, State.ttOfStrand, Timetable.placeOf, hlcore, hplaces]
  rw [State.isRemote, hplace, State.isRemote]

theorem State.isRemote_of_frame (h : t.landView.frame = s.landView.frame) (sid a : Nat) : t.isRemote sid a = s.isRemote sid a := by
  obtain ⟨hstrands, hlinks⟩ := Prod.mk.inj h
  exact State.isRemote_of_linkView (congrArg Prod.snd (congrFun hstrands sid)) hlinks a

/-- Of several bytes written one after another an address holds the last for it. -/
theorem Memory.read_writeAll_last {m : Memory} {l1 l2 : List (Nat × Byte)} {a : Nat} {v : Byte} (h : ∀ x ∈ l2, x.1 ≠ a) :
    (m.writeAll (l1 ++ (a, v) :: l2)).read a = v := by
  have hlast : m.writeAll (l1 ++ (a, v) :: l2) = ((m.writeAll l1).write a v).writeAll l2 := by
    rw [Memory.writeAll, List.foldl_append, List.foldl_cons]
    rfl
  rw [hlast, Memory.read_writeAll_out h, Memory.read_write_self]

/-- A near byte that a landing store writes reads the last value the store has for it. -/
theorem State.landStep_store {old : Timetable} {sid a : Nat} {p : Pend} {v : Byte} {b1 b2 : List (Option Nat × Byte)}
    (h : p.eff = .store (b1 ++ (some a, v) :: b2) none false []) (hnear : s.isRemote sid a = false) (hlast : ∀ x ∈ b2, x.1 ≠ some a) :
    (s.landStep tt old (sid, p)).mem.read a = v := by
  obtain ⟨u, hu, hstep⟩ := State.landStep_land (s := s) (tt := tt) old (sid, p)
  obtain ⟨kept, -, hkept, hland⟩ := State.landStore_landView (s := u) (sid := sid) (b1 ++ (some a, v) :: b2) none false []
  have hreach : u.reaches sid a = true := by
    rw [State.reaches, State.isRemote_of_frame (congrArg LandView.frame hu), hnear]
    rfl
  have hcells : u.reached sid kept = u.reached sid b1 ++ (a, v) :: u.reached sid b2 := by
    simp [hkept rfl, State.reached, List.filterMap_append, hreach]
  have hmem : (s.landStep tt old (sid, p)).mem = u.mem.writeAll (u.reached sid kept) := by
    dsimp only at hstep
    rw [h] at hstep
    exact congrArg LandView.mem (hstep.trans hland)
  rw [hmem, hcells]
  refine Memory.read_writeAll_last fun x hx hxa => ?_
  exact hlast _ (State.mem_reached hx) (congrArg some hxa)

/-! ### What stays pending -/

theorem State.unpend_keeps {β : Type} (g : State → β) (h : ∀ s k, g (State.modStrand s k Strand.landed) = g s) : g (s.unpend tt) = g s :=
  foldl_keeps fun _ _ => h ..

theorem State.unpend_strand_keeps {β : Type} (g : Strand → β) (h : ∀ st, g (Strand.landed st) = g st) (sid : Nat) :
    g ((s.unpend tt).strand sid) = g (s.strand sid) :=
  State.unpend_keeps (fun u => g (State.strand u sid)) fun u k => by
    by_cases hk : sid = k
    · subst hk
      rw [State.strand_modStrand, h]
    · rw [State.strand_modStrand_ne hk]

/-- A strand that ran its vcy of this gcy, `v`. -/
def State.ranVcy (s : State) (sid v : Nat) : Prop := (s.strand sid).ran = true ∧ (s.strand sid).vclk = v

/-- Nothing of a strand is pending that was due by `v`. -/
def State.noneDue (s : State) (sid v : Nat) : Prop := ∀ p ∈ (s.strand sid).pend, v < p.due

theorem Strand.landed_pend {st : Strand} (h : st.ran = true) : st.landed.pend = st.pend.filter fun p => decide (st.vclk < p.due) := by
  have hfrozen : st.frozenNow = false := by simp [Strand.frozenNow, h]
  simp only [Strand.landed, Strand.lands, hfrozen, h, Bool.true_and, Bool.false_and, Bool.or_false, Bool.false_eq_true, if_false]
  congr 1
  funext p
  rw [← decide_not]
  simp

theorem State.modStrand_landed_ranVcy {sid v k : Nat} (h : s.ranVcy sid v) : (s.modStrand k Strand.landed).ranVcy sid v := by
  by_cases hk : sid = k
  · subst hk
    rw [State.ranVcy, State.strand_modStrand]
    exact h
  · rwa [State.ranVcy, State.strand_modStrand_ne hk]

theorem State.modStrand_landed_noneDue {sid v k : Nat} (h : s.ranVcy sid v) (hk : sid = k ∨ s.noneDue sid v) :
    (s.modStrand k Strand.landed).noneDue sid v := by
  obtain ⟨hran, rfl⟩ := h
  by_cases heq : sid = k
  · subst heq
    intro p hp
    rw [State.strand_modStrand, Strand.landed_pend hran] at hp
    simpa using (List.mem_filter.mp hp).2
  · rw [State.noneDue, State.strand_modStrand_ne heq]
    exact hk.resolve_left heq

/-- Of a strand that ran its vcy nothing is left that was due by it. -/
theorem State.unpend_noneDue {sid v : Nat} (h : s.ranVcy sid v) (hsid : sid ∈ s.sids tt) : (s.unpend tt).noneDue sid v := by
  have hreach : (s.unpend tt).ranVcy sid v ∧ (s.unpend tt).noneDue sid v :=
    foldl_reaches (P := fun u : State => u.ranVcy sid v) (Q := fun u => u.ranVcy sid v ∧ u.noneDue sid v) hsid
      (fun _ _ hu => State.modStrand_landed_ranVcy hu)
      (fun _ _ hu => ⟨State.modStrand_landed_ranVcy hu.1, State.modStrand_landed_noneDue hu.1 (.inr hu.2)⟩)
      (fun _ hu => ⟨State.modStrand_landed_ranVcy hu, State.modStrand_landed_noneDue hu (.inl rfl)⟩) h
  exact hreach.2

end Sys2Proof.Machine
end

section
open Sys2Proof Sys2Proof.Machine

/-- Settles O43: each write of the gcy lands by itself (`State.land_landed`), so what no later one names stays as it left it. -/
theorem timedWritesPerform : Obligations.TimedWritesPerform := by
  intro s tt hsome
  have hrd (sid r : Nat) : ((s.unpend tt).strand sid).rd r = (s.strand sid).rd r :=
    State.unpend_strand_keeps (fun st => st.rd r) (fun _ => rfl) sid
  have hremote (sid a : Nat) : (s.unpend tt).isRemote sid a = s.isRemote sid a :=
    State.isRemote_of_linkView (State.unpend_strand_keeps Strand.lcore (fun _ => rfl) sid)
      (State.unpend_keeps State.linkView fun _ _ => rfl) a
  refine ⟨_, execTimedPerform_eq hsome, fun sid r hno => ?_, fun a hno => ?_, fun l1 l2 sid p r v k hl hp hr hno => ?_,
    fun l1 l2 sid p a v b1 b2 hl hp hnear hlast hno => ?_, fun sid p hran hsid hp => ?_⟩
  · rw [State.landAll_rd hno, hrd]
  · rw [State.landAll_read hno]
    exact congrArg (Memory.read · a) (State.unpend_keeps State.mem fun _ _ => rfl)
  · rw [hl, List.foldl_append, List.foldl_cons, State.landAll_rd hno, State.landStep_d hp hr]
  · rw [hl, List.foldl_append, List.foldl_cons, State.landAll_read hno, State.landStep_store hp ?_ hlast]
    rw [State.isRemote_of_frame State.landAll_frame, hremote, hnear]
  · rw [State.landAll_pend] at hp
    exact State.unpend_noneDue ⟨hran, rfl⟩ hsid p hp

end

section
/-! SUPPORT. The end of a strand (f18 R352), a machine check and an error nobody reads (f10 R263, R264). -/
namespace Sys2Proof.Machine

variable {s : State} {tt : Nat}

/-! ### A strand ends -/

/-- A part of the state that the end of a lease leaves as it is: one that the timetables' records do not touch. -/
theorem State.endLease_keeps {β : Type} (g : State → β) (sid : Nat) (htt : ∀ s k t, g (State.setTt s k t) = g s) :
    g (s.endLease sid) = g s := by
  unfold State.endLease
  dsimp only
  split
  · exact htt ..
  · rfl

theorem execStrandEnd_eq {sid : Nat} {node : Option Nat} (hwait : (s.strand sid).wait = .exit node) (hlife : (s.strand sid).life = 1)
    (hhalt : (s.strand sid).halt = false) (hdrained : (s.strand sid).drained = true) (hother : ∃ k ∈ s.alive (ttOf sid), k ≠ sid) :
    execStrandEnd sid s = .next (((s.endLease sid).modStrand sid fun st =>
      { st with life := 2, node := node, wait := .none, loops := [] }).modTt (ttOf sid) fun t => { t with last := s.gclk.toNat }) := by
  obtain ⟨k, hk, hne⟩ := hother
  have hlast : ¬ ((s.alive (ttOf sid)).all fun k => k == sid) = true := fun hall => hne (by simpa using List.all_eq_true.mp hall k hk)
  unfold execStrandEnd
  dsimp only
  rw [hwait]
  dsimp only
  rw [if_neg (by simp [hlife, hhalt, hdrained]), if_neg (fun h => hlast h.1), if_neg (fun h => hlast h.1)]

/-! ### Words that hold an error -/

theorem State.zeroWord_mem (a : Nat) : (s.zeroWord a).mem = s.mem.writeN (a / 32 * 32) (List.replicate 32 0) := by
  simp only [State.zeroWord]

theorem State.zeroWord_keeps {β : Type} (g : State → β) (a : Nat) (hmem : ∀ (s : State) m, g { s with mem := m } = g s) :
    g (s.zeroWord a) = g s := by
  simp only [State.zeroWord, hmem]

theorem State.zeroWord_read_out {a x : Nat} (h : x < a / 32 * 32 ∨ a / 32 * 32 + 32 ≤ x) : (s.zeroWord a).mem.read x = s.mem.read x := by
  rw [State.zeroWord_mem, Memory.read_writeN_out]
  rwa [List.length_replicate]

theorem State.zeroWord_read_in {a i : Nat} (h : i < 32) : (s.zeroWord a).mem.read (a / 32 * 32 + i) = 0 := by
  rw [State.zeroWord_mem, Memory.read_writeN_in (by rwa [List.length_replicate]), List.getElem_replicate]

/-- The word that holds the error of a machine check becomes 0, where the unit is a memory. -/
def State.checked (s : State) (unit addr : Nat) : State := if 6 ≤ unit ∧ unit ≤ 9 then s.zeroWord addr else s

theorem State.checked_keeps {β : Type} (g : State → β) (unit addr : Nat) (hmem : ∀ (s : State) m, g { s with mem := m } = g s) :
    g (s.checked unit addr) = g s := by
  unfold State.checked
  split
  · exact State.zeroWord_keeps g addr hmem
  · rfl

theorem State.checked_read {unit addr a : Nat} (h : a < addr / 32 * 32 ∨ addr / 32 * 32 + 32 ≤ a ∨ unit < 6 ∨ 9 < unit) :
    (s.checked unit addr).mem.read a = s.mem.read a := by
  unfold State.checked
  split
  · exact State.zeroWord_read_out (by omega)
  · rfl

theorem execMachineCheck_eq {unit addr : Nat} (hplaced : (s.tt tt).placed = true) (hcause : (s.tt tt).cause < 5) :
    execMachineCheck tt unit addr s = .next (((s.checked unit addr).setTt tt { s.tt tt with
      cause := 3, causeAux := unit, stopSid := none }).haltAll tt) := by
  have hgo : ¬ (¬ (s.tt tt).placed = true ∨ 5 ≤ (s.tt tt).cause) := by simp [hplaced, hcause]
  unfold execMachineCheck
  dsimp only
  rw [if_neg hgo]
  rfl

/-- A machine check of a placed timetable that is not stopping for a pre-emption or a teardown: cause 3 and the unit, every strand that runs
halted, and no byte changed outside the word that holds the error. -/
theorem execMachineCheck_spec {unit addr : Nat} (hplaced : (s.tt tt).placed = true) (hcause : (s.tt tt).cause < 5) :
    ∃ t, execMachineCheck tt unit addr s = .next t ∧ (t.tt tt).cause = 3 ∧ (t.tt tt).causeAux = unit ∧
      (∀ sid ∈ s.sids tt, (s.strand sid).life = 1 → (t.strand sid).halt = true) ∧
      ∀ a, a < addr / 32 * 32 ∨ addr / 32 * 32 + 32 ≤ a ∨ unit < 6 ∨ 9 < unit → t.mem.read a = s.mem.read a := by
  refine ⟨_, execMachineCheck_eq hplaced hcause, ?_⟩
  generalize hu : (s.checked unit addr).setTt tt { s.tt tt with cause := 3, causeAux := unit, stopSid := none } = u
  have htt : (u.haltAll tt).tt tt = { s.tt tt with cause := 3, causeAux := unit, stopSid := none } := by
    rw [State.haltAll_keeps (fun u => u.tt tt) fun _ _ _ => rfl, ← hu, State.tt_setTt]
  have hmem : (u.haltAll tt).mem = (s.checked unit addr).mem := by
    rw [State.haltAll_keeps State.mem fun _ _ _ => rfl, ← hu, State.setTt_mem]
  rw [htt, hmem]
  refine ⟨rfl, rfl, fun sid hsid hlife => ?_, fun a ha => State.checked_read ha⟩
  have hold : (s.checked unit addr).tt tt = s.tt tt := State.checked_keeps (fun u => u.tt tt) unit addr fun _ _ => rfl
  have hstrand : u.strand sid = s.strand sid := by
    rw [← hu, State.setTt_strand]
    exact State.checked_keeps (fun u => u.strand sid) unit addr fun _ _ => rfl
  have hsids : u.sids tt = s.sids tt := by
    rw [← hu, State.sids_setTt_of_img (by rw [hold])]
    simp only [State.sids, hold]
  rw [State.haltAll_strand (by rwa [hsids]), hstrand, Strand.halted, if_pos (.inl hlife)]

/-- The record of an error nobody reads. -/
def State.scrubRecord (s : State) (addr : Nat) : List Byte :=
  bytesOf 8 s.gclk.toNat ++ bytesOf 1 3 ++ bytesOf 31 0 ++ bytesOf 4 (unitOf addr) ++ bytesOf 20 0

theorem State.scrubRecord_length (addr : Nat) : (s.scrubRecord addr).length = 64 := by
  simp [State.scrubRecord, bytesOf_length]

theorem State.scrubRecord_take (addr : Nat) : (s.scrubRecord addr).take 8 = bytesOf 8 s.gclk.toNat := by
  simp only [State.scrubRecord, List.append_assoc]
  exact List.take_left' (bytesOf_length ..)

theorem execScrubError_eq (addr : Nat) :
    execScrubError addr s = .next ({ s with errlog := s.errlog ++ [s.scrubRecord addr] }.zeroWord addr) := rfl

end Sys2Proof.Machine
end

section
/-! SUPPORT. A timetable that stops (f10 R260, R261): its record is the one error it logs, its strands are gone, and what the stop does
beyond the timetable touches neither. -/
namespace Sys2Proof.Machine

variable {s : State} {tt : Nat}

/-! ### Up to the record -/

/-- The counter, the error log and the pre-emption under way. -/
def State.logView (s : State) : BitVec 64 × List (List Byte) × Option Preemption := (s.gclk, s.errlog, s.preempt)

theorem State.discardStaged_keeps {β : Type} (g : State → β) (hhen : ∀ s k h, g (State.setHen s k h) = g s)
    (hsend : ∀ s key sid hen op, g (State.sendHen s key sid hen op) = g s) (hfar : ∀ (s : State) l, g { s with farLines := l } = g s) :
    g (s.discardStaged tt) = g s := by
  unfold State.discardStaged
  extract_lets u v
  have hu : g u = g s := foldl_keeps fun _ _ => hhen ..
  have hv : g v = g u := foldl_keeps fun _ _ => hsend ..
  exact (hfar ..).trans (hv.trans hu)

theorem State.dropSave_logView : (s.dropSave tt).logView = s.logView := by
  unfold State.dropSave
  dsimp only
  split
  · rfl
  next v _ =>
    have hfree := State.freeExtents_sansMemory (s := s) (s.tt tt).tenant (s.obj (s.tt tt).tenant v.obj).entry 0
    exact (congrArg State.logView hfree :)

theorem State.dropSave_tenant : ((s.dropSave tt).tt tt).tenant = (s.tt tt).tenant := by
  unfold State.dropSave
  dsimp only
  split
  · rfl
  · rw [State.tt_setTt]

theorem State.sendFar_logView (key sid a : Nat) (op : RemoteOp) : (s.sendFar key sid a op).logView = s.logView := rfl

theorem State.withGates_logView (g : SMap Gate) (m : Memory) : ({ s with gates := g, mem := m } : State).logView = s.logView := rfl

theorem State.setGate_logView (a : Nat) (g : Gate) : (s.setGate a g).logView = s.logView := by
  unfold State.setGate
  exact State.withGates_logView ..

theorem State.scrubBanks_logView (t : Timetable) : (s.scrubBanks t).logView = s.logView := rfl

theorem State.releaseGate_logView (sid a : Nat) (poison : Bool) : (s.releaseGate sid a poison).logView = s.logView := by
  unfold State.releaseGate
  split
  · rw [State.sendFar_logView]
    rfl
  · exact State.setGate_logView ..

theorem State.poisonGates_logView : (s.poisonGates tt).logView = s.logView := by
  unfold State.poisonGates
  refine foldl_keeps fun u x => ?_
  extract_lets g mine v
  split
  · exact State.releaseGate_logView ..
  · rfl

theorem State.leave_logView : (s.leave tt false).logView = s.logView := by
  obtain ⟨x, hx⟩ := State.promote_eq (s := (s.freePairs tt).unpin tt false)
  have hunpin := State.unpin_keeps (s := s.freePairs tt) (key := tt) State.logView (fun _ _ _ => rfl) (fun _ _ _ => rfl) false
  rw [State.leave, hx]
  exact hunpin

theorem State.modTt_logView (k : Nat) (f : Timetable → Timetable) : (s.modTt k f).logView = s.logView := rfl
theorem State.dropOps_logView (who : Mover) : (s.dropOps who).logView = s.logView := rfl

/-- A stopping timetable up to its record: what it had queued, its open M-step's tables, its staged lines and its save area are dropped. -/
def State.unloaded (s : State) (tt : Nat) : State :=
  let dropped := ((s.sids tt).map s.queuedEntries).sum
  let staged := s.stagedLines tt
  let s1 := { s with jobs := s.jobs.filter fun j => ttOf j.2.sid != tt, colls := SMap.erase s.colls tt }.dropOps (.coll tt)
  let s2 := match (s.tt tt).mstep with
    | some m => s1.layStep tt m false
    | none => s1
  ((s2.discardStaged tt).dropSave tt).modTt tt fun t => { t with dropped := dropped, stagedDrop := staged }

theorem State.unloaded_logView : (s.unloaded tt).logView = s.logView := by
  unfold State.unloaded
  extract_lets dropped staged s1 s2
  have h2 : s2.logView = s1.logView := by
    unfold s2
    split
    · exact State.layStep_keeps State.logView _ _ fun _ _ _ _ _ => rfl
    · rfl
  have hdiscard : (s2.discardStaged tt).logView = s2.logView :=
    State.discardStaged_keeps State.logView (fun _ _ _ => rfl) (fun _ _ _ _ _ => rfl) fun _ _ => rfl
  rw [State.modTt_logView, State.dropSave_logView, hdiscard, h2, State.dropOps_logView]
  rfl

theorem State.unloaded_tenant : ((s.unloaded tt).tt tt).tenant = (s.tt tt).tenant := by
  unfold State.unloaded
  extract_lets dropped staged s1 s2
  have h2 : (s2.tt tt).tenant = (s1.tt tt).tenant := by
    unfold s2
    split
    · exact State.layStep_keeps (fun u => (u.tt tt).tenant) _ _ fun _ _ _ _ _ => rfl
    · rfl
  have hdiscard : ((s2.discardStaged tt).tt tt).tenant = (s2.tt tt).tenant :=
    State.discardStaged_keeps (fun u => (u.tt tt).tenant) (fun _ _ _ => rfl) (fun _ _ _ _ _ => rfl) fun _ _ => rfl
  rw [State.tt_modTt]
  exact State.dropSave_tenant.trans (hdiscard.trans h2)

/-- A record begins with the gcy, its KIND and the timetable's tenant. -/
theorem State.errorRecord_take (kind aux : Nat) :
    (s.errorRecord tt kind aux).take 10 = bytesOf 8 s.gclk.toNat ++ bytesOf 1 kind ++ bytesOf 1 (s.tt tt).tenant := by
  have hlen : (bytesOf 8 s.gclk.toNat ++ bytesOf 1 kind ++ bytesOf 1 (s.tt tt).tenant).length = 10 := by simp [bytesOf_length]
  unfold State.errorRecord
  extract_lets t l who st fault addr
  rw [← hlen]
  simp only [List.append_assoc]
  simp only [← List.append_assoc (bytesOf 8 s.gclk.toNat), ← List.append_assoc (bytesOf 8 s.gclk.toNat ++ bytesOf 1 kind)]
  exact List.take_left

/-! ### From the record on -/

/-- The strands, the timetables, the error log and the pre-emption under way. -/
def State.endView (s : State) : SMap Strand × SMap Timetable × List (List Byte) × Option Preemption :=
  (s.strands, s.tts, s.errlog, s.preempt)

theorem State.meter_endView (k i n : Nat) : (s.meter k i n).endView = s.endView := by
  obtain ⟨x, hx⟩ := State.meter_frame (s := s) k i n
  rw [hx]
  rfl

theorem State.flushOne_endView (fn q : Nat) : (s.flushOne fn q).endView = s.endView := by
  unfold State.flushOne
  dsimp only
  split
  · split
    · exact State.meter_endView ..
    · rfl
  · rfl

theorem State.flush_endView (fn q : Nat) : (s.flush fn q).endView = s.endView := by
  have hall : ((s.queue fn q).comps.foldl (fun s _ => s.flushOne fn q) s).endView = s.endView :=
    foldl_keeps fun _ _ => State.flushOne_endView ..
  unfold State.flush
  dsimp only
  split
  · exact hall
  · exact hall

theorem State.complete_endView (p : Pkt) (opc status seq : Nat) (prom : Bool) (data : BitVec 128) :
    (s.complete p opc status seq prom data).endView = s.endView := by
  unfold State.complete
  extract_lets x x1 c x2
  split
  · rfl
  · exact State.flush_endView ..

theorem State.advancePass_endView (lid : Nat) : (s.advancePass lid).endView = s.endView := by
  unfold State.advancePass
  refine foldl_keeps fun u x => ?_
  dsimp only
  repeat' split
  all_goals rfl

theorem State.advance_endView (lid : Nat) : (s.advance lid).endView = s.endView := by
  unfold State.advance
  extract_lets l u l' busy
  have hu : u.endView = s.endView := by
    unfold u
    split
    · exact foldl_keeps fun _ _ => State.advancePass_endView lid
    · rfl
  split
  · exact (State.complete_endView ..).trans hu
  · exact hu

theorem State.nodeFailed_endView (lid node status : Nat) (data : BitVec 128) : (s.nodeFailed lid node status data).endView = s.endView := by
  unfold State.nodeFailed
  extract_lets s1 l s2 gone s3 s4
  have h2 : s2.endView = s.endView := by
    unfold s2
    split <;> rfl
  have h4 : s4.endView = s3.endView := foldl_keeps fun _ _ => rfl
  exact (State.advance_endView lid).trans (h4.trans h2)

theorem State.finishTeardown_endView (n : Nat) : (s.finishTeardown n).endView = s.endView := by
  unfold State.finishTeardown
  dsimp only
  split
  · rfl
  · split <;> rfl

/-- A timetable that has gone, before the request it was a victim for is looked at again. -/
def State.wentAway (s : State) (tt : Nat) : State := (s.notify 3).finishTeardown (s.tt tt).tenant

theorem State.wentAway_endView : (s.wentAway tt).endView = s.endView := (State.finishTeardown_endView ..).trans rfl

theorem State.gone_eq : s.gone tt = match (s.wentAway tt).preempt with
    | some p => if p.victim = tt then (s.wentAway tt).rerunAdmit p.req else s.wentAway tt
    | none => s.wentAway tt := rfl

theorem State.dropStrands_strand {sid : Nat} (h : ttOf sid = tt) : (s.dropStrands tt).strand sid = Strand.blank := by
  refine SMap.get_of_notin fun e he hsid => ?_
  have hkept := (List.mem_filter.mp he).2
  rw [hsid, h] at hkept
  simp at hkept

/-- The record of a stop, written once what the timetable had is dropped. -/
def State.stopRecord (s : State) (tt : Nat) : List Byte :=
  (s.unloaded tt).errorRecord tt (s.tt tt).cause (if (s.tt tt).cause = 2 ∨ (s.tt tt).cause = 3 then (s.tt tt).causeAux else 0)

theorem State.stopRecord_take :
    (s.stopRecord tt).take 10 = bytesOf 8 s.gclk.toNat ++ bytesOf 1 (s.tt tt).cause ++ bytesOf 1 (s.tt tt).tenant := by
  have hgclk : (s.unloaded tt).gclk = s.gclk := congrArg Prod.fst State.unloaded_logView
  rw [State.stopRecord, State.errorRecord_take, hgclk, State.unloaded_tenant]

/-- The timetable has left the weaves, its record is written, and its strands are gone. -/
def State.departed (s : State) (tt : Nat) : State :=
  ((((((s.unloaded tt).poisonGates tt).leave tt false).scrubBanks (s.tt tt)).logError (s.stopRecord tt)).dropStrands tt).departTt tt

theorem State.departed_life : ((s.departed tt).tt tt).life = 4 := by
  unfold State.departed State.departTt
  dsimp only
  rw [State.tt_setTt]

theorem State.departTt_strand (sid : Nat) : (s.departTt tt).strand sid = s.strand sid := rfl

theorem State.departed_strand {sid : Nat} (h : ttOf sid = tt) : (s.departed tt).strand sid = Strand.blank := by
  rw [State.departed, State.departTt_strand, State.dropStrands_strand h]

theorem State.departed_logs : (s.departed tt).errlog = s.errlog ++ [s.stopRecord tt] ∧ (s.departed tt).preempt = s.preempt := by
  have hleft : ((((s.unloaded tt).poisonGates tt).leave tt false).scrubBanks (s.tt tt)).logView = s.logView := by
    rw [State.scrubBanks_logView, State.leave_logView, State.poisonGates_logView, State.unloaded_logView]
  unfold State.departed
  generalize (((s.unloaded tt).poisonGates tt).leave tt false).scrubBanks (s.tt tt) = v at hleft ⊢
  simp only [State.logView, Prod.mk.injEq] at hleft
  obtain ⟨-, herrlog, hpreempt⟩ := hleft
  rw [← herrlog, ← hpreempt]
  exact ⟨rfl, rfl⟩

/-- The launch of the timetable is told, unless a teardown or a pre-emption stopped it. -/
def State.toldLaunch (s : State) (tt : Nat) : State :=
  let t := s.tt tt
  let status := if t.cause = 2 then cStepFail else if t.cause = 3 then cMCheck else cFault
  if 5 ≤ t.cause then s.departed tt else (s.departed tt).nodeFailed t.launch t.node status ((s.unloaded tt).stopData tt)

theorem State.toldLaunch_endView : (s.toldLaunch tt).endView = (s.departed tt).endView := by
  unfold State.toldLaunch
  dsimp only
  split
  · rfl
  · exact State.nodeFailed_endView ..

theorem execTimetableStop_eq (hheld : (s.tt tt).placed = true ∨ (s.tt tt).life = 3) (hcause : (s.tt tt).cause ≠ 0)
    (hstopped : s.stopped tt = true) (hquiet : s.quiet tt = true) :
    execTimetableStop tt s = .next ((s.toldLaunch tt).gone tt) := by
  unfold execTimetableStop
  dsimp only
  rw [if_neg (by simp [hheld, hcause, hstopped, hquiet])]
  rfl

/-- A stopping timetable whose strands have stopped and whose jobs are over is gone, with one error record, and the request of a pre-emption
it was the victim of is looked at again. -/
theorem execTimetableStop_spec (hheld : (s.tt tt).placed = true ∨ (s.tt tt).life = 3) (hcause : (s.tt tt).cause ≠ 0)
    (hstopped : s.stopped tt = true) (hquiet : s.quiet tt = true) : let u := (s.toldLaunch tt).wentAway tt
    (u.tt tt).life = 4 ∧ (∀ sid, ttOf sid = tt → u.strand sid = Strand.blank) ∧ u.errlog = s.errlog ++ [s.stopRecord tt] ∧
      execTimetableStop tt s = .next (match s.preempt with
        | some p => if p.victim = tt then u.rerunAdmit p.req else u
        | none => u) := by
  intro u
  have hview : u.endView = (s.departed tt).endView := State.wentAway_endView.trans State.toldLaunch_endView
  simp only [State.endView, Prod.mk.injEq] at hview
  obtain ⟨hstrands, htts, herrlog, hpreempt⟩ := hview
  obtain ⟨hlogged, hkept⟩ := State.departed_logs (s := s) (tt := tt)
  have htt : u.tt tt = (s.departed tt).tt tt := congrArg (SMap.get Timetable.blank · tt) htts
  have hstrand (sid : Nat) : u.strand sid = (s.departed tt).strand sid := congrArg (SMap.get Strand.blank · sid) hstrands
  refine ⟨?_, fun sid hsid => ?_, herrlog.trans hlogged, ?_⟩
  · rw [htt, State.departed_life]
  · rw [hstrand, State.departed_strand hsid]
  · rw [execTimetableStop_eq hheld hcause hstopped hquiet, State.gone_eq, hpreempt.trans hkept]

end Sys2Proof.Machine
end

section
open Sys2Proof Sys2Proof.Machine

/-- Settles O46: the equations of the four events, with what they leave (`execTimetableStop_spec` for the stop). -/
theorem endsAndStops : Obligations.EndsAndStops := by
  refine ⟨?ends, ?stop, ?check, ?scrub⟩
  case ends =>
    intro s sid node st hwait hlife hhalt hdrained hother
    have hstrand (k : Nat) : (s.endLease sid).strand k = s.strand k := State.endLease_keeps (fun u => u.strand k) sid fun _ _ _ => rfl
    refine ⟨_, execStrandEnd_eq hwait hlife hhalt hdrained hother, ?_, ?_, fun k hk => ?_⟩
    · rw [State.modTt_strand, State.strand_modStrand, hstrand]
    · rw [State.modTt_mem, State.modStrand_mem]
      exact State.endLease_keeps State.mem sid fun _ _ _ => rfl
    · rw [State.modTt_strand, State.strand_modStrand_ne hk, hstrand]
  case stop =>
    intro s tt hheld hcause hstopped hquiet
    obtain ⟨hlife, hstrands, herrlog, hexec⟩ := execTimetableStop_spec hheld hcause hstopped hquiet
    refine ⟨_, s.stopRecord tt, hlife, hstrands, herrlog, State.errorRecord_length .., State.stopRecord_take,
      fun hother => hexec.trans ?_, fun p hp hvictim => hexec.trans ?_⟩
    · cases hp : s.preempt with
      | none => rfl
      | some p => exact congrArg Host.Outcome.next (if_neg (hother p hp))
    · rw [hp]
      exact congrArg Host.Outcome.next (if_pos hvictim)
  case check =>
    intro s tt unit addr hplaced hcause
    exact execMachineCheck_spec hplaced hcause
  case scrub =>
    intro s addr
    refine ⟨_, s.scrubRecord addr, execScrubError_eq addr, ?_, State.scrubRecord_length addr, State.scrubRecord_take addr, ?_, ?_,
      fun a ha => ?_, fun i hi => ?_⟩
    · rw [State.zeroWord_keeps State.errlog addr fun _ _ => rfl]
    · rw [State.zeroWord_keeps State.strands addr fun _ _ => rfl]
    · rw [State.zeroWord_keeps State.tts addr fun _ _ => rfl]
    · rw [State.zeroWord_read_out ha]
    · rw [State.zeroWord_read_in hi]

end

section
/-! SUPPORT. BIND and WSSEAL, and what the gate's Hen and the Mule answer them (f04 R113, f06 R162, f18 R345, f20 R431). -/
namespace Sys2Proof.Machine

variable {s : State} {sid : Nat}

/-! ### The words -/

/-- Outside an M-step a word that waits does its work. -/
theorem waitWord_outside_mstep {f : Nat → State} (hcur : s.cur = .strand sid) (hstep : s.inMStep sid = false) :
    waitWord s f = .next (f sid) := by
  rw [waitWord_strand hcur, State.noWait, hstep, if_neg Bool.false_ne_true]

/-- A strand that waits for nothing freezes in the wait alone. -/
theorem State.freeze_of_wait_none {w : Wait} (hwait : (s.strand sid).wait = .none) :
    s.freeze sid w = s.setStrand sid { s.strand sid with wait := w } := by
  simp only [State.freeze, State.modStrand, Strand.enter, hwait]

/-- A BIND at a gate that is resident waits for its Hen. -/
theorem State.bindWait_at {c : Cap} {a r : Nat} {w : Option (Nat × Nat × Nat × Nat)} (haddr : s.capAddr sid c 0 = .at_ a) :
    s.bindWait sid c r w = .bind r a w := by
  simp only [State.bindWait, State.addrOf, haddr]

section
variable {r : BitVec 6} {c k : BitVec 5} {a : Nat} (hcur : s.cur = .strand sid) (hstep : s.inMStep sid = false)
  (hwait : (s.strand sid).wait = .none)
include hcur hstep hwait

theorem execBind_window (hgate : s.capCheck sid ((s.strand sid).rc c.toNat) 0 64 rightG = none)
    (haddr : s.capAddr sid ((s.strand sid).rc c.toNat) 0 = .at_ a) (hk : k ≠ 0)
    (hwindow : s.capCheck sid ((s.strand sid).rc k.toNat) 0 (capLen ((s.strand sid).rc k.toNat).bits) rightG = none) :
    let w := ((s.strand sid).rc k.toNat).bits
    execBind r c k s = .next (s.setStrand sid { s.strand sid with
      wait := .bind r.toNat a (some (capTid w, capObj w, capBase w, capLen w)) }) := by
  rw [execBind, waitWord_outside_mstep hcur hstep]
  simp only [hgate, hwindow, if_neg hk, State.bindWait_at haddr, State.freeze_of_wait_none hwait]

theorem execBind_none (hgate : s.capCheck sid ((s.strand sid).rc c.toNat) 0 64 rightG = none)
    (haddr : s.capAddr sid ((s.strand sid).rc c.toNat) 0 = .at_ a) :
    execBind r c 0 s = .next (s.setStrand sid { s.strand sid with wait := .bind r.toNat a none }) := by
  rw [execBind, waitWord_outside_mstep hcur hstep]
  simp only [hgate, if_true, State.bindWait_at haddr, State.freeze_of_wait_none hwait]

theorem execWsseal_checked {z : BitVec 1}
    (hcheck : s.capCheck sid ((s.strand sid).rc c.toNat) 0 (capLen ((s.strand sid).rc c.toNat).bits) rightW = none) :
    let x := ((s.strand sid).rc c.toNat).bits
    execWsseal r c z s = .next (s.setStrand sid { s.strand sid with
      wait := .wsseal r.toNat (capTid x) (capObj x) (capBase x) (capLen x) (z == 1) }) := by
  rw [execWsseal, waitWord_outside_mstep hcur hstep]
  simp only [hcheck, State.freeze_of_wait_none hwait]

end

/-! ### The answer to a BIND (f06 R162) -/

/-- What a package sends to another's Hen is one request, with the next number of its source core (f07 R193, f08 R213). -/
theorem State.sendFar_asks (key a : Nat) (op : RemoteOp) : Asks s (s.sendFar key sid a op) sid a op :=
  ⟨_, _, rfl, rfl, rfl, rfl⟩

section
variable {r a : Nat} {w : Option (Nat × Nat × Nat × Nat)} (hwait : (s.strand sid).wait = .bind r a w)
include hwait

theorem execBindAnswer_far (hfar : s.farAway a = true) (hasked : s.awaiting (waitKey sid) = false) :
    execBindAnswer sid s = .next (s.sendFar (waitKey sid) sid a (.bind a sid w)) := by
  rw [execBindAnswer]
  simp only [hwait, if_pos hfar, hasked, Bool.false_eq_true, if_false]

/-- A BIND that reaches its Hen is answered with its status there, and the gate is changed where that is 0. -/
theorem execBindAnswer_near (hnear : s.farAway a = false) (hturn : s.turnAt (s.owner sid) a = true)
    (hfree : s.henFree (s.owner sid) a = true) :
    execBindAnswer sid s = .next ((s.bindAt sid a w).2.setStrand sid
      ((s.strand sid).answer [.d r (BitVec.ofNat 64 (s.bindAt sid a w).1) false])) := by
  rw [execBindAnswer]
  simp only [hwait, hnear, hturn, hfree, Bool.false_eq_true, Bool.true_eq_false, or_self, if_false]

end

section
variable {a : Nat} {w : Option (Nat × Nat × Nat × Nat)} {u : Nat × Nat × Nat × Nat}

theorem State.bindAt_not_holder (hholder : (s.gate a).holder ≠ some sid) : s.bindAt sid a w = (2, s) := by
  simp only [State.bindAt, Gate.bindTo, if_pos hholder, OfNat.ofNat_ne_zero, if_false]

theorem State.bindAt_full (hholder : (s.gate a).holder = some sid) (hfull : 8 ≤ (s.gate a).binds.length) :
    s.bindAt sid a (some u) = (1, s) := by
  simp only [State.bindAt, Gate.bindTo, if_neg (not_not.mpr hholder), if_pos hfull, one_ne_zero, if_false]

theorem State.bindAt_adds (hholder : (s.gate a).holder = some sid) (hroom : (s.gate a).binds.length < 8) :
    s.bindAt sid a (some u) = (0, s.setGate a { s.gate a with binds := (s.gate a).binds ++ [u], live := true }) := by
  simp only [State.bindAt, Gate.bindTo, if_neg (not_not.mpr hholder), if_neg hroom.not_ge, if_true]

theorem State.bindAt_removes (hholder : (s.gate a).holder = some sid) :
    s.bindAt sid a none = (0, s.setGate a { s.gate a with binds := [], live := true }) := by
  simp only [State.bindAt, Gate.bindTo, if_neg (not_not.mpr hholder), if_true]

end

/-! ### The answer to a WSSEAL (f20 R431) -/

/-- The status of a WSSEAL of a window of an object: 0 OK, 1 BUSY, 2 NOTWS, 3 NOTWHOLE. -/
def Obj.sealStatus (o : Obj) (base len : Nat) (want : Bool) : Nat :=
  if entHome o.entry ≠ 2 then 2
  else if base ≠ 0 ∨ len ≠ entLen o.entry then 3
  else if o.loading ≠ 0 ∨ (want = true ∧ entTp o.entry = 1) then 1
  else 0

section
variable {o : Obj} {base len : Nat} {want : Bool}

theorem Obj.sealStatus_notWs (hhome : entHome o.entry ≠ 2) : o.sealStatus base len want = 2 := if_pos hhome

theorem Obj.sealStatus_notWhole (hhome : entHome o.entry = 2) (hpart : base ≠ 0 ∨ len ≠ entLen o.entry) :
    o.sealStatus base len want = 3 := by
  rw [Obj.sealStatus, if_neg (not_not.mpr hhome), if_pos hpart]

theorem Obj.sealStatus_busy (hhome : entHome o.entry = 2) (hwhole : base = 0 ∧ len = entLen o.entry)
    (hbusy : o.loading ≠ 0 ∨ (want = true ∧ entTp o.entry = 1)) : o.sealStatus base len want = 1 := by
  rw [Obj.sealStatus, if_neg (not_not.mpr hhome), if_neg (by simp [hwhole]), if_pos hbusy]

theorem Obj.sealStatus_ok (hhome : entHome o.entry = 2) (hwhole : base = 0 ∧ len = entLen o.entry)
    (hidle : o.loading = 0) (hpins : want = true → entTp o.entry ≠ 1) : o.sealStatus base len want = 0 := by
  rw [Obj.sealStatus, if_neg (not_not.mpr hhome), if_neg (by simp [hwhole]), if_neg (by simpa [hidle] using hpins)]

end

section
variable {r tenant obj base len : Nat} {want : Bool} (hwait : (s.strand sid).wait = .wsseal r tenant obj base len want)
include hwait

/-- A WSSEAL is answered with its status, and WST is written where that is 0. -/
theorem execWssealAnswer_eq :
    execWssealAnswer sid s = .next ((if (s.obj tenant obj).sealStatus base len want = 0 then
      s.setObj tenant obj { s.obj tenant obj with entry := entSet (s.obj tenant obj).entry 244 1 (b2n want) } else s).setStrand sid
        ((s.strand sid).answer [.d r (BitVec.ofNat 64 ((s.obj tenant obj).sealStatus base len want)) false])) := by
  rw [execWssealAnswer, hwait]
  rfl

end

@[simp] theorem State.obj_setObj (tenant obj : Nat) (o : Obj) : (s.setObj tenant obj o).obj tenant obj = o := by
  rw [State.obj, State.setObj, State.tenant_setTenant]
  exact SMap.get_set_self

end Sys2Proof.Machine
end

section
/-! SUPPORT. The obligation on BIND and WSSEAL. -/

open Sys2Proof Sys2Proof.Machine

/-- Settles O37: the words freeze the strand (`execBind_window`, `execBind_none`, `execWsseal_checked`); a BIND's answer is what
`State.bindAt` says of its gate, a WSSEAL's what `Obj.sealStatus` says of its object. -/
theorem bindAndSeal : Obligations.BindAndSeal := by
  intro s sid r c k z
  refine ⟨fun hcur hstep hwait => ⟨fun a hgate haddr hk hwindow => ?_, fun a hgate haddr => ?_, fun hcheck => ?_⟩,
    fun d a v hwait hfar hasked => ?_, fun d a v hwait hnear hturn hfree => ?_, fun d t o base len want hwait => ?_⟩
  · exact execBind_window hcur hstep hwait hgate haddr hk hwindow
  · exact execBind_none hcur hstep hwait hgate haddr
  · exact execWsseal_checked hcur hstep hwait hcheck
  · exact ⟨_, execBindAnswer_far hwait hfar hasked, rfl, State.sendFar_asks ..⟩
  · have hexec := execBindAnswer_near hwait hnear hturn hfree
    refine ⟨fun hholder => ?_, fun u hv hholder => ⟨fun hfull => ?_, fun hroom => ?_⟩, fun hv hholder => ?_⟩
    · rwa [State.bindAt_not_holder hholder] at hexec
    · rwa [hv, State.bindAt_full hholder hfull] at hexec
    · rwa [hv, State.bindAt_adds hholder hroom] at hexec
    · rwa [hv, State.bindAt_removes hholder] at hexec
  · have hexec := execWssealAnswer_eq hwait
    refine ⟨fun hhome => ?_, fun hhome hpart => ?_, fun hhome hbase hlen hbusy => ?_, fun hhome hbase hlen hidle hpins => ?_⟩
    · rwa [Obj.sealStatus_notWs hhome] at hexec
    · rwa [Obj.sealStatus_notWhole hhome hpart] at hexec
    · rwa [Obj.sealStatus_busy hhome ⟨hbase, hlen⟩ hbusy] at hexec
    · rw [Obj.sealStatus_ok hhome ⟨hbase, hlen⟩ hidle hpins] at hexec
      refine ⟨_, hexec, State.strand_setStrand .., ?_⟩
      exact congrArg Obj.entry (State.obj_setObj t o _)

end

section
/-! SUPPORT. Fields of an object table entry after one of them is written (f04 R99), and legal places of an extent (f04 R101, R102). -/
namespace Sys2Proof.Machine

/-! ### Fields -/

section
variable {e : BitVec 256} {lo len v lo' len' : Nat}

/-- A field written stands between what was below it and what was above it. -/
theorem entSet_toNat (h : lo + len ≤ 256) :
    (entSet e lo len v).toNat = e.toNat % 2 ^ lo + 2 ^ lo * (v % 2 ^ len + 2 ^ len * (e.toNat / 2 ^ (lo + len))) := by
  have hsplit : e.toNat = e.toNat % 2 ^ lo + 2 ^ lo * (entField e lo len + 2 ^ len * (e.toNat / 2 ^ (lo + len))) := by
    rw [entField, Nat.pow_add, ← Nat.div_div_eq_div_mul, Nat.mod_add_div, Nat.mod_add_div]
  have habove : e.toNat / 2 ^ (lo + len) < 2 ^ (256 - (lo + len)) := by
    rw [Nat.div_lt_iff_lt_mul (by positivity), ← Nat.pow_add, Nat.sub_add_cancel h]
    exact e.isLt
  have hfits : e.toNat % 2 ^ lo + 2 ^ lo * (v % 2 ^ len + 2 ^ len * (e.toNat / 2 ^ (lo + len))) < 2 ^ 256 := by
    have hlow : e.toNat % 2 ^ lo < 2 ^ lo := Nat.mod_lt _ (by positivity)
    have hv : v % 2 ^ len < 2 ^ len := Nat.mod_lt _ (by positivity)
    have hbound := Nat.add_mul_lt_mul_of_lt_of_lt hlow (Nat.add_mul_lt_mul_of_lt_of_lt hv habove)
    rwa [← Nat.pow_add, ← Nat.pow_add, ← Nat.add_assoc, Nat.add_sub_cancel' h] at hbound
  have hdrop : e.toNat - entField e lo len * 2 ^ lo + v % 2 ^ len * 2 ^ lo =
      e.toNat % 2 ^ lo + 2 ^ lo * (v % 2 ^ len + 2 ^ len * (e.toNat / 2 ^ (lo + len))) := by
    conv_lhs => rw [hsplit]
    rw [Nat.mul_add, Nat.mul_add, Nat.mul_comm (entField e lo len), Nat.mul_comm (v % 2 ^ len)]
    omega
  rw [entSet, BitVec.toNat_ofNat, hdrop, Nat.mod_eq_of_lt hfits]

/-- A field written holds what was written. -/
theorem entField_entSet (h : lo + len ≤ 256) : entField (entSet e lo len v) lo len = v % 2 ^ len := by
  rw [entField, entSet_toNat h, Nat.add_mul_div_left _ _ (by positivity), Nat.div_eq_of_lt (Nat.mod_lt _ (by positivity)),
    Nat.zero_add, Nat.add_mul_mod_self_left, Nat.mod_mod]

/-- A field above the one written is left alone. -/
theorem entField_entSet_above (h : lo + len ≤ 256) (habove : lo + len ≤ lo') :
    entField (entSet e lo len v) lo' len' = entField e lo' len' := by
  have hrest : (entSet e lo len v).toNat / 2 ^ (lo + len) = e.toNat / 2 ^ (lo + len) := by
    rw [entSet_toNat h, Nat.pow_add, ← Nat.div_div_eq_div_mul, Nat.add_mul_div_left _ _ (by positivity),
      Nat.div_eq_of_lt (Nat.mod_lt _ (by positivity)), Nat.zero_add, Nat.add_mul_div_left _ _ (by positivity),
      Nat.div_eq_of_lt (Nat.mod_lt _ (by positivity)), Nat.zero_add]
  obtain ⟨d, rfl⟩ := Nat.exists_eq_add_of_le habove
  rw [entField, entField, Nat.pow_add 2 (lo + len), ← Nat.div_div_eq_div_mul, ← Nat.div_div_eq_div_mul, hrest]

/-- The bits below `lo` are all a field below `lo` is made of. -/
theorem entField_eq_of_mod_eq {e' : BitVec 256} (hmod : e'.toNat % 2 ^ lo = e.toNat % 2 ^ lo) (hbelow : lo' + len' ≤ lo) :
    entField e' lo' len' = entField e lo' len' := by
  have hdvd : 2 ^ (lo' + len') ∣ 2 ^ lo := Nat.pow_dvd_pow 2 hbelow
  rw [entField, entField, ← Nat.mod_mul_right_div_self, ← Nat.mod_mul_right_div_self, ← Nat.pow_add, ← Nat.mod_mod_of_dvd _ hdvd,
    hmod, Nat.mod_mod_of_dvd _ hdvd]

/-- A field below the one written is left alone. -/
theorem entField_entSet_below (h : lo + len ≤ 256) (hbelow : lo' + len' ≤ lo) :
    entField (entSet e lo len v) lo' len' = entField e lo' len' := by
  refine entField_eq_of_mod_eq ?_ hbelow
  rw [entSet_toNat h, Nat.add_mul_mod_self_left, Nat.mod_mod]

end

/-! ### Places -/

theorem levelCap_le (level : Nat) : levelCap level ≤ 2 ^ 35 := by
  unfold levelCap
  split <;> norm_num

theorem level_lt_of_levelCap_pos {level : Nat} (h : 0 < levelCap level) : level < 4 := by
  by_contra hge
  have hnone : levelCap level = 0 := by
    unfold levelCap
    split <;> omega
  omega

section
variable {s : State} {die level size j : Nat}

/-- A free place lies in its level. -/
theorem State.slotFree_within (hfree : s.slotFree die level size j = true) : level < 4 ∧ j * size + size ≤ 2 ^ 35 := by
  simp only [State.slotFree, Bool.and_eq_true, decide_eq_true_eq] at hfree
  have hslots : 0 < levelCap level / size := lt_of_le_of_lt (Nat.zero_le j) hfree.1
  have hend : (j + 1) * size ≤ levelCap level := le_trans (Nat.mul_le_mul_right size hfree.1) (Nat.div_mul_le_self ..)
  have hcap := levelCap_le level
  rw [Nat.add_one_mul] at hend
  exact ⟨level_lt_of_levelCap_pos (Nat.pos_of_div_pos hslots), by omega⟩

theorem homeOf_devAddr {pkg off : Nat} (hlevel : level < 4) (hoff : off < 2 ^ 41) : homeOf (devAddr pkg die level off) = level := by
  have hdev : addrDev (devAddr pkg die level off) = true := by
    simp only [addrDev, devAddr, beq_iff_eq]
    omega
  rw [homeOf, hdev, if_pos rfl]
  simp only [addrLevel, devAddr]
  omega

theorem devAddr_lt {pkg off : Nat} (hoff : off < 2 ^ 41) : devAddr pkg die level off < 2 ^ 57 := by
  simp only [devAddr]
  omega

/-- Where a level has room, the place found for an extent is free, aligned to the extent's size and of that level. -/
theorem State.freePlace_spec {k : Nat} (hroom : s.hasRoom die level (2 ^ k) = true) :
    ∃ a, s.freePlace die level (2 ^ k) = (some a, { s with choices := s.choices + 1 }) ∧
      a % 2 ^ k = 0 ∧ homeOf a = level ∧ a < 2 ^ 57 := by
  obtain ⟨a, hplace⟩ := State.freePlace_of_hasRoom hroom
  obtain ⟨j, hfree, rfl⟩ := State.freePlace_slotFree hplace
  obtain ⟨hlevel, hend⟩ := State.slotFree_within hfree
  have hk : k ≤ 41 := le_trans ((Nat.pow_le_pow_iff_right (by norm_num)).mp (le_trans (Nat.le_add_left ..) hend)) (by norm_num)
  have hoff : j * 2 ^ k < 2 ^ 41 := by have := Nat.two_pow_pos k; omega
  refine ⟨_, hplace, ?_, homeOf_devAddr hlevel hoff, devAddr_lt hoff⟩
  obtain ⟨q, hq⟩ := Nat.pow_dvd_pow 2 hk
  refine Nat.mod_eq_zero_of_dvd ⟨2 ^ 15 * q + s.pkg % 512 * (2 ^ 6 * q) + die % 8 * (2 ^ 3 * q) + level % 8 * q + j, ?_⟩
  have h56 : 2 ^ 56 = 2 ^ k * (2 ^ 15 * q) := by rw [Nat.mul_left_comm, ← hq]; norm_num
  have h47 : 2 ^ 47 = 2 ^ k * (2 ^ 6 * q) := by rw [Nat.mul_left_comm, ← hq]; norm_num
  have h44 : 2 ^ 44 = 2 ^ k * (2 ^ 3 * q) := by rw [Nat.mul_left_comm, ← hq]; norm_num
  rw [devAddr, h56, h47, h44, hq]
  ring

end

end Sys2Proof.Machine
end

section
/-! SUPPORT. The base of an extent, in its object's entry or in its extent table (f04 R99, R100), as it is read and as it is written. -/
namespace Sys2Proof.Machine

variable {s : State} {tenant obj ext base : Nat}

/-- Where an extent table holds the base of an extent (f04 R100). -/
def State.baseCell (s : State) (tenant : Nat) (e : BitVec 256) (ext : Nat) : Nat := s.spaceOf tenant (entX e 0 * 4096 + 8 * ext)

/-- An extent number has a base of its own: in a table, or inline as one of at most four (f04 R99). -/
def HasBase (e : BitVec 256) (ext : Nat) : Prop := entNx e = 7 ∨ (entNx e ≠ 7 ∧ ext < 4 ∧ ext < entNx e)

theorem hasBase_of_extentBase {e : BitVec 256} {b : Nat} (h : extentBase s tenant e ext = some b) (hnx : entNx e ≤ 4 ∨ entNx e = 7) :
    HasBase e ext := by
  by_cases htable : entNx e = 7
  · exact .inl htable
  · rw [extentBase, if_neg htable] at h
    by_cases hext : ext < entNx e
    · exact .inr ⟨htable, by omega, hext⟩
    · rw [if_neg hext] at h
      cases h

/-- Only an inline entry or a table can lie outside a stretch of memory. -/
theorem nx_of_tableOutside {e : BitVec 256} {a n : Nat} (h : TableOutside s tenant e ext a n) : entNx e ≤ 4 ∨ entNx e = 7 :=
  h.imp_right And.left

theorem baseCell_of_tableOutside {e : BitVec 256} {a n : Nat} (h : TableOutside s tenant e ext a n) (htable : entNx e = 7) :
    s.baseCell tenant e ext + 8 ≤ a ∨ a + n ≤ s.baseCell tenant e ext := by
  obtain hinline | ⟨-, hout⟩ := h
  · omega
  · exact hout

/-! ### Writing a base -/

/-- A part of the state that neither the object tables nor the memory is left as it is. -/
theorem State.setBase_keeps {β : Type} (g : State → β) (hmem : ∀ (s : State) m, g { s with mem := m } = g s)
    (hobj : ∀ s o, g (State.setObj s tenant obj o) = g s) : g (s.setBase tenant obj ext base) = g s := by
  simp only [State.setBase]
  split
  · exact hmem ..
  · exact hobj ..

theorem State.setBase_table (htable : entNx (s.obj tenant obj).entry = 7) : s.setBase tenant obj ext base =
    { s with mem := s.mem.writeN (s.baseCell tenant (s.obj tenant obj).entry ext) (bytesOf 8 base) } := by
  simp only [State.setBase, if_pos htable, State.baseCell]

theorem State.setBase_inline (hinline : entNx (s.obj tenant obj).entry ≠ 7) : s.setBase tenant obj ext base =
    s.setObj tenant obj { s.obj tenant obj with entry := entSet (s.obj tenant obj).entry (135 - 45 * ext) 45 base } := by
  simp only [State.setBase, if_neg hinline]

theorem State.setBase_obj_table (htable : entNx (s.obj tenant obj).entry = 7) :
    (s.setBase tenant obj ext base).obj tenant obj = s.obj tenant obj := by
  rw [State.setBase_table htable]
  rfl

/-- Of the object the entry alone is written. -/
theorem State.setBase_obj {β : Type} (g : Obj → β) (hentry : ∀ (o : Obj) e, g { o with entry := e } = g o) :
    g ((s.setBase tenant obj ext base).obj tenant obj) = g (s.obj tenant obj) := by
  by_cases htable : entNx (s.obj tenant obj).entry = 7
  · rw [State.setBase_obj_table htable]
  · rw [State.setBase_inline htable, State.obj_setObj, hentry]

theorem State.setBase_nx : entNx ((s.setBase tenant obj ext base).obj tenant obj).entry = entNx (s.obj tenant obj).entry := by
  by_cases htable : entNx (s.obj tenant obj).entry = 7
  · rw [State.setBase_obj_table htable]
  · rw [State.setBase_inline htable, State.obj_setObj]
    exact entField_entSet_above (by omega) (by omega)

/-- Of the memory only the extent's cell is written, and only where the entry has a table. -/
theorem State.setBase_read {x : Nat} (hx : entNx (s.obj tenant obj).entry = 7 →
    x < s.baseCell tenant (s.obj tenant obj).entry ext ∨ s.baseCell tenant (s.obj tenant obj).entry ext + 8 ≤ x) :
    (s.setBase tenant obj ext base).mem.read x = s.mem.read x := by
  by_cases htable : entNx (s.obj tenant obj).entry = 7
  · rw [State.setBase_table htable]
    exact Memory.read_writeN_out (by rw [bytesOf_length]; exact hx htable)
  · rw [State.setBase_inline htable, State.setObj_mem]

/-! ### Reading a base -/

/-- The base read is a matter of the entry and of the bytes in the extent's cell. -/
theorem extentBase_congr {t : State} {e : BitVec 256} (hcell : t.baseCell tenant e ext = s.baseCell tenant e ext)
    (hread : entNx e = 7 → ∀ i < 8, t.mem.read (s.baseCell tenant e ext + i) = s.mem.read (s.baseCell tenant e ext + i)) :
    extentBase t tenant e ext = extentBase s tenant e ext := by
  simp only [extentBase]
  split
  next htable =>
    have hbytes : t.mem.readN (t.baseCell tenant e ext) 8 = s.mem.readN (s.baseCell tenant e ext) 8 := by
      rw [hcell]
      exact List.map_congr_left fun i hi => hread htable i (List.mem_range.mp hi)
    exact congrArg (fun l => some (natOf l % 2 ^ 45)) hbytes
  · rfl

/-- A base written is the base read. -/
theorem State.extentBase_setBase (hbase : HasBase (s.obj tenant obj).entry ext) (hfits : base < 2 ^ 45) :
    extentBase (s.setBase tenant obj ext base) tenant ((s.setBase tenant obj ext base).obj tenant obj).entry ext = some base := by
  obtain htable | ⟨hinline, hfour, hext⟩ := hbase
  · have hbytes : natOf (bytesOf 8 base) % 2 ^ 45 = base := by
      rw [natOf_bytesOf]
      omega
    rw [State.setBase_table htable]
    refine (if_pos htable).trans (congrArg some (Eq.trans (congrArg (natOf · % 2 ^ 45) ?_) hbytes))
    exact bytesOf_length 8 base ▸ Memory.readN_writeN (a := s.baseCell tenant (s.obj tenant obj).entry ext) (l := bytesOf 8 base)
  · rw [extentBase, State.setBase_nx, State.setBase_inline hinline, State.obj_setObj, if_neg hinline, if_pos hext, entX,
      entField_entSet (by omega), Nat.mod_eq_of_lt hfits]

end Sys2Proof.Machine
end

section
/-! SUPPORT. Bytes that are kept, put back and moved with an extent. -/
namespace Sys2Proof.Machine

variable {m : Memory} {a n x : Nat}

/-- An entry of a canonical map is what its key reads. -/
theorem SMap.get_of_mem {α : Type} [DecidableEq α] {d : α} {m : SMap α} {e : Nat × α} (hwf : SMap.wf d m = true) (he : e ∈ m) :
    SMap.get d m e.1 = e.2 := by
  induction m with
  | nil => exact absurd he List.not_mem_nil
  | cons first later ih =>
    obtain ⟨-, habove, hlater⟩ := (SMap.wf_cons ..).mp hwf
    rw [SMap.get_cons]
    obtain rfl | hmem := List.mem_cons.mp he
    · rw [if_pos rfl]
    · rw [if_neg (habove e hmem).ne', ih hlater hmem]

theorem SMap.ne_default_of_mem {α : Type} [DecidableEq α] {d : α} {m : SMap α} {e : Nat × α} (hwf : SMap.wf d m = true)
    (he : e ∈ m) : e.2 ≠ d := by
  induction m with
  | nil => exact absurd he List.not_mem_nil
  | cons first later ih =>
    obtain ⟨hfirst, -, hlater⟩ := (SMap.wf_cons ..).mp hwf
    obtain rfl | hmem := List.mem_cons.mp he
    · exact hfirst
    · exact ih hlater hmem

/-- Cells written into a stretch that was cleared, each at its offset. -/
def Memory.refill (m : Memory) (a n : Nat) (cells : List (Nat × Byte)) : Memory :=
  Memory.writeAll (m.filter fun e => decide (e.1 < a) || decide (a + n ≤ e.1)) (cells.map fun c => (a + c.1, c.2))

section
variable {cells : List (Nat × Byte)}

theorem Memory.refill_read_cell {c : Nat × Byte} (hc : c ∈ cells) (hone : ∀ d ∈ cells, d.1 = c.1 → d.2 = c.2) :
    (m.refill a n cells).read (a + c.1) = c.2 := by
  refine Memory.read_writeAll (fun y hy hx => ?_) (.inl (List.mem_map_of_mem hc))
  obtain ⟨d, hd, rfl⟩ := List.mem_map.mp hy
  exact hone d hd (Nat.add_left_cancel hx)

theorem Memory.refill_read_no_cell {i : Nat} (hi : i < n) (hno : ∀ c ∈ cells, c.1 ≠ i) : (m.refill a n cells).read (a + i) = 0 := by
  refine (Memory.read_writeAll_out fun y hy hx => ?_).trans (Memory.read_zeroed_in (by omega) (by omega))
  obtain ⟨c, hc, rfl⟩ := List.mem_map.mp hy
  exact hno c hc (Nat.add_left_cancel hx)

theorem Memory.refill_read_outside (hcells : ∀ c ∈ cells, c.1 < n) (hx : x < a ∨ a + n ≤ x) :
    (m.refill a n cells).read x = m.read x := by
  refine (Memory.read_writeAll_out fun y hy hyx => ?_).trans (Memory.read_zeroed hx)
  obtain ⟨c, hc, rfl⟩ := List.mem_map.mp hy
  have := hcells c hc
  omega

end

/-- The bytes of a stretch of memory, each at its offset. -/
def Memory.cells (m : Memory) (a n : Nat) : List (Nat × Byte) :=
  (m.filter fun e => decide (a ≤ e.1) && decide (e.1 < a + n)).map fun e => (e.1 - a, e.2)

theorem Memory.mem_cells {c : Nat × Byte} : c ∈ m.cells a n ↔ c.1 < n ∧ (a + c.1, c.2) ∈ m := by
  simp only [Memory.cells, List.mem_map, List.mem_filter, Bool.and_eq_true, decide_eq_true_eq]
  constructor
  · rintro ⟨e, ⟨he, hlo, hhi⟩, rfl⟩
    exact ⟨by omega, by rwa [Nat.add_sub_cancel' hlo]⟩
  · rintro ⟨hn, hmem⟩
    exact ⟨_, ⟨hmem, by omega, by omega⟩, by rw [Nat.add_sub_cancel_left]⟩

end Sys2Proof.Machine
end

section
/-! SUPPORT. Extents that become resident (f04 R106, R111). -/
namespace Sys2Proof.Machine

variable {s : State} {tenant obj ext a : Nat}

/-- Residency of an extent of an object that is gone is no longer asked for. -/
theorem execExtentResident_gone (hwanted : (tenant, obj, ext) ∈ s.wanted) (hgone : entKind (s.obj tenant obj).entry = 0) :
    execExtentResident tenant obj ext s = .next { s with wanted := s.wanted.erase (tenant, obj, ext) } := by
  rw [execExtentResident]
  exact (if_pos (.inr hgone)).trans (if_pos (List.contains_iff_mem.mpr hwanted))

/-- An extent given the base of its new place; no backing copy of it is kept on. -/
def State.takePlace (s : State) (tenant obj ext a : Nat) : State :=
  (State.setObj { s with choices := s.choices + 1 } tenant obj
    { s.obj tenant obj with backing := SMap.set [] (s.obj tenant obj).backing ext [] }).setBase tenant obj ext (a / 4096)

/-- The place cleared and filled with the backing copy. -/
def State.madeResident (s : State) (tenant obj ext a : Nat) : State :=
  { (s.takePlace tenant obj ext a).freeRange a (2 ^ (12 + entXsz (s.obj tenant obj).entry)) with
    mem := (s.takePlace tenant obj ext a).mem.refill a (2 ^ (12 + entXsz (s.obj tenant obj).entry))
      (SMap.get [] (s.obj tenant obj).backing ext)
    wanted := (s.takePlace tenant obj ext a).wanted.erase (tenant, obj, ext) }

theorem execExtentResident_eq (habsent : extentBase s tenant (s.obj tenant obj).entry ext = some absentBase)
    (hkind : entKind (s.obj tenant obj).entry ≠ 0)
    (hplace : s.freePlace (entDie (s.obj tenant obj).entry) (entHome (s.obj tenant obj).entry) (2 ^ (12 + entXsz (s.obj tenant obj).entry)) =
      (some a, { s with choices := s.choices + 1 })) :
    execExtentResident tenant obj ext s = .next (s.madeResident tenant obj ext a) := by
  rw [execExtentResident]
  dsimp only
  rw [if_neg (by simp [habsent, hkind]), hplace]
  rfl

theorem State.takePlace_keeps {β : Type} (g : State → β) (hmem : ∀ (s : State) m, g { s with mem := m } = g s)
    (hobj : ∀ s o, g (State.setObj s tenant obj o) = g s) (hchoices : ∀ (s : State) n, g { s with choices := n } = g s) :
    g (s.takePlace tenant obj ext a) = g s := by
  rw [State.takePlace, State.setBase_keeps g hmem hobj, hobj, hchoices]

/-- Giving an extent a base writes no byte but those of its cell, where the entry has a table. -/
theorem State.takePlace_read {x : Nat} (hx : entNx (s.obj tenant obj).entry = 7 →
    x < s.baseCell tenant (s.obj tenant obj).entry ext ∨ s.baseCell tenant (s.obj tenant obj).entry ext + 8 ≤ x) :
    (s.takePlace tenant obj ext a).mem.read x = s.mem.read x := by
  rw [State.takePlace, State.setBase_read, State.setObj_mem]
  rw [State.obj_setObj]
  exact hx

/-- The base of an extent made resident is that of its place. -/
theorem State.madeResident_base {b : Nat} (hb : extentBase s tenant (s.obj tenant obj).entry ext = some b) (hplace : a < 2 ^ 57)
    (htable : TableOutside s tenant (s.obj tenant obj).entry ext a (2 ^ (12 + entXsz (s.obj tenant obj).entry)))
    (hkept : ∀ x ∈ SMap.get [] (s.obj tenant obj).backing ext, x.1 < 2 ^ (12 + entXsz (s.obj tenant obj).entry)) :
    extentBase (s.madeResident tenant obj ext a) tenant ((s.madeResident tenant obj ext a).obj tenant obj).entry ext =
      some (a / 4096) := by
  have hentry : ((State.setObj { s with choices := s.choices + 1 } tenant obj
      { s.obj tenant obj with backing := SMap.set [] (s.obj tenant obj).backing ext [] }).obj tenant obj).entry =
      (s.obj tenant obj).entry := by rw [State.obj_setObj]
  have hwritten : extentBase (s.takePlace tenant obj ext a) tenant ((s.takePlace tenant obj ext a).obj tenant obj).entry ext =
      some (a / 4096) :=
    State.extentBase_setBase (by rw [hentry]; exact hasBase_of_extentBase hb (nx_of_tableOutside htable)) (by omega)
  have hobj : (s.madeResident tenant obj ext a).obj tenant obj = (s.takePlace tenant obj ext a).obj tenant obj := rfl
  rw [hobj, extentBase_congr (s := s.takePlace tenant obj ext a) (t := s.madeResident tenant obj ext a) rfl, hwritten]
  intro hnx i hi
  have hnx' : entNx (s.obj tenant obj).entry = 7 := by rwa [← hentry, ← State.setBase_nx]
  have hcell : (s.takePlace tenant obj ext a).baseCell tenant ((s.takePlace tenant obj ext a).obj tenant obj).entry ext =
      s.baseCell tenant (s.obj tenant obj).entry ext := by
    rw [State.takePlace, State.setBase_obj_table (by rwa [hentry]), hentry]
    exact State.setBase_keeps (fun u => u.baseCell tenant (s.obj tenant obj).entry ext) (fun _ _ => rfl) fun _ _ => rfl
  rw [hcell]
  exact Memory.refill_read_outside hkept ((baseCell_of_tableOutside htable hnx').imp
    (fun hbelow => lt_of_lt_of_le (Nat.add_lt_add_left hi _) hbelow) fun habove => le_trans habove (Nat.le_add_right ..))

/-- Outside the place, and outside the extent's cell where the entry has a table, no byte changes. -/
theorem State.madeResident_elsewhere {x : Nat}
    (hkept : ∀ x ∈ SMap.get [] (s.obj tenant obj).backing ext, x.1 < 2 ^ (12 + entXsz (s.obj tenant obj).entry))
    (hx : Elsewhere s tenant (s.obj tenant obj).entry ext a (2 ^ (12 + entXsz (s.obj tenant obj).entry)) x) :
    (s.madeResident tenant obj ext a).mem.read x = s.mem.read x :=
  (Memory.refill_read_outside hkept hx.1).trans (State.takePlace_read hx.2)

/-- An extent made resident has a place of its size and its object's HOME, with its backing copy there and zeros beside it. -/
theorem execExtentResident_spec (habsent : extentBase s tenant (s.obj tenant obj).entry ext = some absentBase)
    (hkind : entKind (s.obj tenant obj).entry ≠ 0)
    (hroom : s.hasRoom (entDie (s.obj tenant obj).entry) (entHome (s.obj tenant obj).entry)
      (2 ^ (12 + entXsz (s.obj tenant obj).entry)) = true)
    (hkept : ∀ x ∈ SMap.get [] (s.obj tenant obj).backing ext, x.1 < 2 ^ (12 + entXsz (s.obj tenant obj).entry)) :
    let o := s.obj tenant obj
    let size := 2 ^ (12 + entXsz o.entry)
    let kept := SMap.get [] o.backing ext
    ∃ t a, execExtentResident tenant obj ext s = .next t ∧ t.strands = s.strands ∧ t.wanted = s.wanted.erase (tenant, obj, ext) ∧
      a % size = 0 ∧ homeOf a = entHome o.entry ∧
      (TableOutside s tenant o.entry ext a size → extentBase t tenant (t.obj tenant obj).entry ext = some (a / 4096)) ∧
      (∀ x ∈ kept, (∀ y ∈ kept, y.1 = x.1 → y.2 = x.2) → t.mem.read (a + x.1) = x.2) ∧
      (∀ i < size, (∀ x ∈ kept, x.1 ≠ i) → t.mem.read (a + i) = 0) ∧
      ∀ x, Elsewhere s tenant o.entry ext a size x → t.mem.read x = s.mem.read x := by
  obtain ⟨a, hplace, halign, hhome, hlt⟩ := State.freePlace_spec hroom
  refine ⟨_, a, execExtentResident_eq habsent hkind hplace, ?_, ?_, halign, hhome, fun htable => ?_, fun x hx hone => ?_,
    fun i hi hno => ?_, fun x hx => ?_⟩
  · exact State.takePlace_keeps State.strands (fun _ _ => rfl) (fun _ _ => rfl) fun _ _ => rfl
  · exact State.takePlace_keeps (fun u => u.wanted.erase (tenant, obj, ext)) (fun _ _ => rfl) (fun _ _ => rfl) fun _ _ => rfl
  · exact State.madeResident_base habsent hlt htable hkept
  · exact Memory.refill_read_cell hx hone
  · exact Memory.refill_read_no_cell hi hno
  · exact State.madeResident_elsewhere hkept hx

end Sys2Proof.Machine
end

section
/-! SUPPORT. Extents that migrate and extents that are evicted (f04 R106, R112). -/
namespace Sys2Proof.Machine

variable {s : State} {tenant obj ext b : Nat}

/-! ### Migration -/

/-- The state in which the bytes of an extent at `b` and the gates among them lie at `new`, and its migration is over; its base is not
written yet. -/
def State.moved (s : State) (tenant obj ext b new : Nat) : State :=
  let o := s.obj tenant obj
  let size := 2 ^ (12 + entXsz o.entry)
  let inside := fun (x : Nat) => decide (b * 4096 ≤ x) && decide (x < b * 4096 + size)
  let gates := s.gates.foldl (fun m x => SMap.set Gate.none m (if inside x.1 then new + (x.1 - b * 4096) else x.1) x.2) []
  let mem := Memory.refill (s.mem.filter fun x => decide (x.1 < b * 4096) || decide (b * 4096 + size ≤ x.1)) new size
    (s.mem.cells (b * 4096) size)
  (State.moveWaiting { s with mem := mem, gates := gates } fun x => if inside x then new + (x - b * 4096) else x).setObj tenant obj
    { o with mig := o.mig.filter (· != ext), entry := entSet o.entry 242 1 (b2n !(o.mig.filter (· != ext)).isEmpty) }

theorem State.moveExtent_eq {new : Nat} (hb : extentBase s tenant (s.obj tenant obj).entry ext = some b) :
    s.moveExtent tenant obj ext new = (s.moved tenant obj ext b new).setBase tenant obj ext (new / 4096) := by
  have hmem (m : Memory) (a size : Nat) : Memory.writeAll
      (m.filter fun x => (decide (x.1 < a) || decide (a + size ≤ x.1)) && (decide (x.1 < new) || decide (new + size ≤ x.1)))
      ((m.filter fun x => decide (a ≤ x.1) && decide (x.1 < a + size)).map fun x => (new + (x.1 - a), x.2)) =
      Memory.refill (m.filter fun x => decide (x.1 < a) || decide (a + size ≤ x.1)) new size (m.cells a size) := by
    rw [Memory.refill, Memory.cells, List.map_map, List.filter_filter]
    congr 1
    exact List.filter_congr fun x _ => Bool.and_comm ..
  simp only [State.moveExtent, hb, hmem, State.moved]

section
variable {new : Nat}

theorem State.moved_mig : ((s.moved tenant obj ext b new).obj tenant obj).mig = (s.obj tenant obj).mig.filter (· != ext) := by
  rw [State.moved, State.obj_setObj]

theorem State.moved_nx : entNx ((s.moved tenant obj ext b new).obj tenant obj).entry = entNx (s.obj tenant obj).entry := by
  rw [State.moved, State.obj_setObj]
  exact entField_entSet_below (by omega) (by omega)

/-- The extent's cell is where it was. -/
theorem State.moved_baseCell : (s.moved tenant obj ext b new).baseCell tenant ((s.moved tenant obj ext b new).obj tenant obj).entry ext =
    s.baseCell tenant (s.obj tenant obj).entry ext := by
  have htable : entX ((s.moved tenant obj ext b new).obj tenant obj).entry 0 = entX (s.obj tenant obj).entry 0 := by
    rw [State.moved, State.obj_setObj]
    exact entField_entSet_below (by omega) (by omega)
  rw [State.baseCell, htable]
  rfl

theorem hasBase_moved (h : HasBase (s.obj tenant obj).entry ext) :
    HasBase ((s.moved tenant obj ext b new).obj tenant obj).entry ext := by
  rwa [HasBase, State.moved_nx]

/-- The bytes of the extent lie at their offsets in the new place. -/
theorem State.moved_read_in (hwf : s.mem.wf = true) {i : Nat} (hi : i < 2 ^ (12 + entXsz (s.obj tenant obj).entry)) :
    (s.moved tenant obj ext b new).mem.read (new + i) = s.mem.read (b * 4096 + i) := by
  by_cases hzero : s.mem.read (b * 4096 + i) = 0
  · rw [hzero]
    refine Memory.refill_read_no_cell hi fun c hc hci => ?_
    obtain ⟨-, hmem⟩ := Memory.mem_cells.mp hc
    have hne : s.mem.read (b * 4096 + c.1) ≠ 0 := fun h =>
      SMap.ne_default_of_mem hwf hmem ((SMap.get_of_mem hwf hmem).symm.trans h)
    exact hne (hci ▸ hzero)
  · have hcell : (i, s.mem.read (b * 4096 + i)) ∈ s.mem.cells (b * 4096) (2 ^ (12 + entXsz (s.obj tenant obj).entry)) :=
      Memory.mem_cells.mpr ⟨hi, SMap.mem_of_get_ne hzero⟩
    refine Memory.refill_read_cell hcell fun d hd hdi => ?_
    obtain ⟨-, hmem⟩ := Memory.mem_cells.mp hd
    rw [hdi] at hmem
    exact (SMap.get_of_mem hwf hmem).symm

/-- Outside both places the memory is as before. -/
theorem State.moved_read_out {x : Nat} (hnew : x < new ∨ new + 2 ^ (12 + entXsz (s.obj tenant obj).entry) ≤ x)
    (hold : x < b * 4096 ∨ b * 4096 + 2 ^ (12 + entXsz (s.obj tenant obj).entry) ≤ x) :
    (s.moved tenant obj ext b new).mem.read x = s.mem.read x :=
  (Memory.refill_read_outside (fun _ hc => (Memory.mem_cells.mp hc).1) hnew).trans (Memory.read_zeroed hold)

end

section
variable {base : Nat} (hb : extentBase s tenant (s.obj tenant obj).entry ext = some b) (hresident : b ≠ absentBase)
  (hpin : entTp (s.obj tenant obj).entry ≠ 1) (hkind : entKind (s.obj tenant obj).entry ≠ 0) (hok : addrOk (base * 4096) = true)
  (halign : base * 4096 % 2 ^ (12 + entXsz (s.obj tenant obj).entry) = 0) (hhome : homeOf (base * 4096) = entHome (s.obj tenant obj).entry)
  (hfree : ∀ x ∈ s.extentsAt (addrDie (base * 4096)) (homeOf (base * 4096)),
    ¬ (base * 4096 < x.1 + x.2 ∧ x.1 < base * 4096 + 2 ^ (12 + entXsz (s.obj tenant obj).entry)))
include hb hresident hpin hkind hok halign hhome hfree

/-- A migration to a legal free place begins, or where it has begun, is completed. -/
theorem execExtentMigrate_eq : execExtentMigrate tenant obj ext base s =
    if (s.obj tenant obj).mig.contains ext = true then .next (s.moveExtent tenant obj ext (base * 4096))
    else .next (s.setObj tenant obj { s.obj tenant obj with
      mig := (s.obj tenant obj).mig ++ [ext], entry := entSet (s.obj tenant obj).entry 242 1 1 }) := by
  have hnone : ((s.extentsAt (addrDie (base * 4096)) (homeOf (base * 4096))).any fun x =>
      decide (base * 4096 < x.1 + x.2) && decide (x.1 < base * 4096 + 2 ^ (12 + entXsz (s.obj tenant obj).entry))) = false :=
    List.any_eq_false.mpr fun x hx => by simpa using hfree x hx
  rw [execExtentMigrate]
  simp only [hb]
  refine if_neg ?_
  rw [hnone]
  simp [hresident, hpin, hkind, hok, halign, hhome]

/-- A migration completed: its bytes are at the new base, and no byte elsewhere changes. -/
theorem execExtentMigrate_completes (hmig : ext ∈ (s.obj tenant obj).mig)
    (htable : TableOutside s tenant (s.obj tenant obj).entry ext (base * 4096) (2 ^ (12 + entXsz (s.obj tenant obj).entry)))
    (hmem : s.memOk = true) :
    let o := s.obj tenant obj
    let size := 2 ^ (12 + entXsz o.entry)
    ∃ t, execExtentMigrate tenant obj ext base s = .next t ∧ ext ∉ (t.obj tenant obj).mig ∧
      extentBase t tenant (t.obj tenant obj).entry ext = some base ∧
      (∀ i < size, t.mem.read (base * 4096 + i) = s.mem.read (b * 4096 + i)) ∧
      ∀ x, Elsewhere s tenant o.entry ext (base * 4096) size x → (x < b * 4096 ∨ b * 4096 + size ≤ x) →
        t.mem.read x = s.mem.read x := by
  have hwf : s.mem.wf = true := (Bool.and_eq_true_iff.mp hmem).1
  have hlt : base * 4096 < 2 ^ 57 := by
    simp only [addrOk, Bool.and_eq_true, decide_eq_true_eq] at hok
    exact hok.1
  have hexec := execExtentMigrate_eq hb hresident hpin hkind hok halign hhome hfree
  rw [if_pos (List.contains_iff_mem.mpr hmig), State.moveExtent_eq hb, Nat.mul_div_cancel base (by norm_num)] at hexec
  refine ⟨_, hexec, ?_, ?_, fun i hi => ?_, fun x hx hold => ?_⟩
  · rw [State.setBase_obj Obj.mig (fun _ _ => rfl), State.moved_mig]
    simp
  · exact State.extentBase_setBase (hasBase_moved (hasBase_of_extentBase hb (nx_of_tableOutside htable))) (by omega)
  · rw [State.setBase_read, State.moved_read_in hwf hi]
    intro hnx
    rw [State.moved_nx] at hnx
    rw [State.moved_baseCell]
    exact (baseCell_of_tableOutside htable hnx).symm.imp (fun habove => lt_of_lt_of_le (Nat.add_lt_add_left hi _) habove)
      fun hbelow => le_trans hbelow (Nat.le_add_right ..)
  · rw [State.setBase_read, State.moved_read_out hx.1 hold]
    intro hnx
    rw [State.moved_nx] at hnx
    rw [State.moved_baseCell]
    exact hx.2 hnx

end

/-! ### Eviction -/

/-- The state in which the bytes of an extent at `b` are kept as its backing copy and lie in memory no more. -/
def State.keptBack (s : State) (tenant obj ext b : Nat) : State :=
  let o := s.obj tenant obj
  let size := 2 ^ (12 + entXsz o.entry)
  State.setObj { s with mem := s.mem.filter fun x => decide (x.1 < b * 4096) || decide (b * 4096 + size ≤ x.1) } tenant obj
    { o with backing := SMap.set [] o.backing ext (s.mem.cells (b * 4096) size) }

theorem State.keptBack_obj : (s.keptBack tenant obj ext b).obj tenant obj = { s.obj tenant obj with
    backing := SMap.set [] (s.obj tenant obj).backing ext (s.mem.cells (b * 4096) (2 ^ (12 + entXsz (s.obj tenant obj).entry))) } := by
  rw [State.keptBack, State.obj_setObj]

section
variable (hb : extentBase s tenant (s.obj tenant obj).entry ext = some b) (hresident : b ≠ absentBase)
  (hpin : entTp (s.obj tenant obj).entry ≠ 1) (hkind : entKind (s.obj tenant obj).entry ≠ 0)
  (hhome : entHome (s.obj tenant obj).entry = 1 ∨ entHome (s.obj tenant obj).entry = 3)
  (hpart : ext * 2 ^ (12 + entXsz (s.obj tenant obj).entry) < entLen (s.obj tenant obj).entry)
  (hheld : s.heldAt (fun a => decide (b * 4096 ≤ a) && decide (a < b * 4096 + 2 ^ (12 + entXsz (s.obj tenant obj).entry))) = false)
include hb hresident hpin hkind hhome hpart hheld

theorem execEviction_eq :
    execEviction tenant obj ext s = .next ((s.keptBack tenant obj ext b).setBase tenant obj ext absentBase) := by
  rw [execEviction]
  simp only [hb]
  refine if_neg ?_
  simp only [hresident, hpin, hkind, hheld, false_or, or_false, Bool.false_eq_true, not_or, not_le]
  exact ⟨by omega, hpart⟩

/-- An extent evicted is not resident, its bytes are its backing copy, and no byte elsewhere changes. -/
theorem execEviction_spec :
    let o := s.obj tenant obj
    let size := 2 ^ (12 + entXsz o.entry)
    ∃ t, execEviction tenant obj ext s = .next t ∧
      (entNx o.entry ≤ 4 ∨ entNx o.entry = 7 → extentBase t tenant (t.obj tenant obj).entry ext = some absentBase) ∧
      (∀ x ∈ s.mem, b * 4096 ≤ x.1 → x.1 < b * 4096 + size → (x.1 - b * 4096, x.2) ∈ SMap.get [] (t.obj tenant obj).backing ext) ∧
      ∀ x, Elsewhere s tenant o.entry ext (b * 4096) size x → t.mem.read x = s.mem.read x := by
  refine ⟨_, execEviction_eq hb hresident hpin hkind hhome hpart hheld, fun hnx => ?_, fun x hx hlo hhi => ?_, fun x hx => ?_⟩
  · refine State.extentBase_setBase ?_ (by norm_num [absentBase])
    rw [State.keptBack_obj]
    exact hasBase_of_extentBase hb hnx
  · rw [State.setBase_obj (fun o => SMap.get [] o.backing ext) (fun _ _ => rfl), State.keptBack_obj, SMap.get_set_self]
    exact Memory.mem_cells.mpr ⟨by omega, by rwa [Nat.add_sub_cancel' hlo]⟩
  · rw [State.setBase_read]
    · exact Memory.read_zeroed hx.1
    · rw [State.keptBack_obj]
      exact hx.2

end

end Sys2Proof.Machine
end

section
/-! SUPPORT. The answer to a page request (f04 R103): what it gives, and what it ends. -/
namespace Sys2Proof.Machine

variable {s t : State} {fn page sid id : Nat}

/-! ### What decides which pages a strand waits for -/

/-- What the pages a strand's bytes need are a matter of. -/
def State.pageView (s : State) (sid : Nat) :=
  (s.tts, s.launches, s.tenants, s.mem, (s.strand sid).lcore, fun k => ((s.func k).pasid, (s.func k).ats))

theorem State.launchFn_of_pageView (h : t.pageView sid = s.pageView sid) (tt : Nat) : t.launchFn tt = s.launchFn tt := by
  simp only [State.pageView, Prod.mk.injEq] at h
  obtain ⟨htts, hlaunches, -⟩ := h
  simp only [State.launchFn, State.tt, htts, hlaunches]

theorem State.pagesOf_of_pageView (h : t.pageView sid = s.pageView sid) (l : List (Cap × Nat)) : t.pagesOf sid l = s.pagesOf sid l := by
  have hfn := State.launchFn_of_pageView h (ttOf sid)
  simp only [State.pageView, Prod.mk.injEq] at h
  obtain ⟨htts, -, htenants, hmem, hlcore, hfuncs⟩ := h
  have hpasid (k : Nat) : (t.func k).pasid = (s.func k).pasid := congrArg Prod.fst (congrFun hfuncs k)
  have hats (k : Nat) : (t.func k).ats = (s.func k).ats := congrArg Prod.snd (congrFun hfuncs k)
  have htt : t.ttOfStrand sid = s.ttOfStrand sid := congrArg (SMap.get Timetable.blank · (ttOf sid)) htts
  have hentry (c : Cap) : t.entryOf c = s.entryOf c := by
    rw [State.entryOf, State.obj, State.tenant, htenants]
    rfl
  have hspace (k a : Nat) : t.spaceOf k a = s.spaceOf k a := by rw [State.spaceOf, hpasid, ← State.spaceOf]
  have hbase (k : Nat) (e : BitVec 256) (x : Nat) : extentBase t k e x = extentBase s k e x :=
    extentBase_congr (hspace ..) fun _ _ _ => by rw [hmem]
  have htranslate (k : Nat) (e : BitVec 256) (x : Nat) : translate t k e x = translate s k e x := by
    simp only [translate, hbase, hspace]
  have haddr (c : Cap) (o : Nat) : t.capAddr sid c o = s.capAddr sid c o := by
    simp only [State.capAddr, htt, hlcore, hentry, htranslate]
  have hok (k a : Nat) : t.pageOk k a = s.pageOk k a := by rw [State.pageOk, hats, ← State.pageOk]
  simp only [State.pagesOf, haddr, hfn, hok]

/-! ### A strand whose page is refused -/

theorem State.refusedWait_keeps {β : Type} (g : State → β) (hchoices : ∀ (s : State) n, g { s with choices := n } = g s)
    (hstrand : ∀ s st, g (State.setStrand s sid st) = g s) : g (s.refusedWait fn page sid) = g s := by
  unfold State.refusedWait
  dsimp only
  split
  · rfl
  · split
    · split
      · exact (hstrand ..).trans (hchoices ..)
      · rfl
    · split
      · exact hstrand ..
      · rfl
    · rfl

theorem State.refusedWait_strand_ne {j : Nat} (h : j ≠ sid) : (s.refusedWait fn page sid).strand j = s.strand j :=
  State.refusedWait_keeps (fun u => u.strand j) (fun _ _ => rfl) fun _ _ => State.strand_setStrand_ne h

theorem State.refusedWait_pageView_ne {j : Nat} (h : j ≠ sid) : (s.refusedWait fn page sid).pageView j = s.pageView j := by
  refine State.refusedWait_keeps (fun u => u.pageView j) (fun _ _ => rfl) fun u st => ?_
  simp only [State.pageView, State.strand_setStrand_ne h]
  rfl

/-- An LDC one of whose bytes waits for the page. -/
def State.ldcNeeds (s : State) (fn page sid : Nat) (c : Cap) (o : Nat) : Prop :=
  s.launchFn (ttOf sid) = fn ∧ page ∈ s.pagesOf sid ((List.range 8).map fun i => (c, o + i))

theorem State.ldcNeeds_of_pageView {o : Nat} {c : Cap} (h : t.pageView sid = s.pageView sid) (hneeds : s.ldcNeeds fn page sid c o) :
    t.ldcNeeds fn page sid c o := by
  rwa [State.ldcNeeds, State.launchFn_of_pageView h, State.pagesOf_of_pageView h]

/-- Such an LDC is answered with a free value. -/
theorem State.refusedWait_ldc {r o : Nat} {c : Cap} {g : Option Nat} (hwait : (s.strand sid).wait = .ldc r c o g)
    (hneeds : s.ldcNeeds fn page sid c o) :
    s.refusedWait fn page sid = State.setStrand { s with choices := s.choices + 1 } sid
      ((s.strand sid).answer [.d r (Config.freeD s.choices) true]) := by
  rw [State.refusedWait]
  dsimp only
  rw [if_neg (not_not.mpr hneeds.1), hwait]
  exact if_pos (List.contains_iff_mem.mpr hneeds.2)

/-- Of strands listed once each, every one with such an LDC is answered, once. -/
theorem State.refusedWaits_ldc {l : List Nat} {r o : Nat} {c : Cap} {g : Option Nat} (hnodup : l.Nodup) (hsid : sid ∈ l)
    (hwait : (s.strand sid).wait = .ldc r c o g) (hneeds : s.ldcNeeds fn page sid c o) :
    ∃ n, (l.foldl (fun s k => s.refusedWait fn page k) s).strand sid = (s.strand sid).answer [.d r (Config.freeD n) true] := by
  obtain ⟨before, after, rfl⟩ := List.append_of_mem hsid
  obtain ⟨-, hafter, hdisj⟩ := List.nodup_append.mp hnodup
  have hbefore : (before.foldl (fun s k => s.refusedWait fn page k) s).strand sid = s.strand sid ∧
      (before.foldl (fun s k => s.refusedWait fn page k) s).pageView sid = s.pageView sid :=
    List.foldlRecOn (motive := fun u : State => u.strand sid = s.strand sid ∧ u.pageView sid = s.pageView sid) before _ ⟨rfl, rfl⟩
      fun u hu k hk => by
        have hne : sid ≠ k := fun h => hdisj k hk sid List.mem_cons_self h.symm
        exact ⟨(State.refusedWait_strand_ne hne).trans hu.1, (State.refusedWait_pageView_ne hne).trans hu.2⟩
  obtain ⟨hstrand, hview⟩ := hbefore
  rw [List.foldl_append, List.foldl_cons, State.refusedWait_ldc (hstrand ▸ hwait) (State.ldcNeeds_of_pageView hview hneeds)]
  refine ⟨_, Eq.trans (List.foldlRecOn (motive := fun u : State => u.strand sid = _) after _ rfl fun u hu k hk => ?_)
    ((State.strand_setStrand ..).trans (by rw [hstrand]))⟩
  · have hne : sid ≠ k := fun h => (List.nodup_cons.mp hafter).1 (h ▸ hk)
    exact (State.refusedWait_strand_ne hne).trans hu

/-! ### A job whose page is refused -/

/-- A job of the function that waits for the page is given up with HOSTPAGE. -/
def State.abandonWaiting (fn page : Nat) (s : State) (id : Nat) : State :=
  if s.launchFn (ttOf (s.job id).sid) = fn ∧ (s.job id).wait.contains page then s.abandonJob id 0x06 else s

/-- A job that is over with HOSTPAGE, nothing of it left to move. -/
def Job.hostPaged (j : Job) : Prop := j.status = 0x06 ∧ j.pieces = [] ∧ j.hens = 0

theorem State.abandonWaiting_keeps {β : Type} (g : State → β) (hports : ∀ (s : State) l, g { s with ports := l } = g s)
    (hjob : ∀ s j, g (State.setJob s id j) = g s) : g (s.abandonWaiting fn page id) = g s := by
  unfold State.abandonWaiting
  split
  · exact (hjob ..).trans (hports ..)
  · rfl

theorem State.abandonJob_hostPaged : ((s.abandonJob id 0x06).job id).hostPaged := by
  rw [State.abandonJob, State.job_setJob]
  exact ⟨rfl, rfl, rfl⟩

theorem State.abandonWaiting_job_ne {j : Nat} (h : id ≠ j) : (s.abandonWaiting fn page j).job id = s.job id :=
  State.abandonWaiting_keeps (fun u => u.job id) (fun _ _ => rfl) fun _ _ => State.job_setJob_ne h

theorem State.abandonWaiting_self (hfn : s.launchFn (ttOf (s.job id).sid) = fn) (hpage : page ∈ (s.job id).wait) :
    ((s.abandonWaiting fn page id).job id).hostPaged := by
  rw [State.abandonWaiting, if_pos ⟨hfn, List.contains_iff_mem.mpr hpage⟩]
  exact State.abandonJob_hostPaged

theorem State.abandonWaiting_hostPaged {j : Nat} (h : (s.job id).hostPaged) : ((s.abandonWaiting fn page j).job id).hostPaged := by
  by_cases hj : id = j
  · subst hj
    unfold State.abandonWaiting
    split
    · exact State.abandonJob_hostPaged
    · exact h
  · rwa [State.abandonWaiting_job_ne hj]

/-- Every job listed that waits for the page is given up. -/
theorem State.abandonWaitings_hostPaged {l : List Nat} (hid : id ∈ l) (hfn : s.launchFn (ttOf (s.job id).sid) = fn)
    (hpage : page ∈ (s.job id).wait) : ((l.foldl (State.abandonWaiting fn page) s).job id).hostPaged := by
  have hself {u : State} (hlaunch : ∀ tt, u.launchFn tt = s.launchFn tt) (hu : u.job id = s.job id ∨ (u.job id).hostPaged) :
      ((u.abandonWaiting fn page id).job id).hostPaged :=
    hu.elim (fun hjob => State.abandonWaiting_self (by rw [hjob, hlaunch, hfn]) (by rwa [hjob])) State.abandonWaiting_hostPaged
  refine foldl_reaches (P := fun u : State => (∀ tt, u.launchFn tt = s.launchFn tt) ∧ (u.job id = s.job id ∨ (u.job id).hostPaged))
    (Q := fun u => (u.job id).hostPaged) hid (fun u j hu => ⟨fun tt => ?_, ?_⟩) (fun u j => State.abandonWaiting_hostPaged)
    (fun u hu => hself hu.1 hu.2) ⟨fun _ => rfl, .inl rfl⟩
  · rw [State.abandonWaiting_keeps (fun u => u.launchFn tt) (fun _ _ => rfl) fun _ _ => rfl, hu.1]
  · by_cases hj : id = j
    · subst hj
      exact .inr (hself hu.1 hu.2)
    · rw [State.abandonWaiting_job_ne hj]
      exact hu.2

/-! ### The answer -/

/-- An answer to no request changes nothing. -/
theorem execPriResponse_unasked {ok : Bool} (h : (s.func fn).pri.contains page = false) : execPriResponse fn page ok s = .next s :=
  if_pos h

section
variable (hasked : (s.func fn).pri.contains page = true)
include hasked

/-- A success gives the function the page and leaves strands, jobs and memory alone. -/
theorem execPriResponse_granted : ∃ t, execPriResponse fn page true s = .next t ∧ t.mem = s.mem ∧ page ∉ (t.func fn).pri ∧
    page ∈ (t.func fn).ats ∧ t.strands = s.strands ∧ t.jobs = s.jobs := by
  refine ⟨_, (if_neg (ne_false_of_eq_true hasked)).trans (if_pos rfl), rfl, ?_, ?_, rfl, rfl⟩
  · rw [State.func_setFunc]
    simp
  · rw [State.func_setFunc]
    dsimp only
    split
    next h => exact List.contains_iff_mem.mp h
    · exact List.mem_append_right _ List.mem_cons_self

/-- The function after a refusal: the page is asked for no more, and is noted as refused to the device's own servers that asked. -/
def State.pageRefused (s : State) (fn page : Nat) : State :=
  s.setFunc fn { s.func fn with
    pri := (s.func fn).pri.filter (· != page)
    asked := (s.func fn).asked.filter (· != page)
    refused := if (s.func fn).asked.contains page ∨ (s.colls.any fun c => c.2.live && s.launchFn (ttOf c.2.sid) == fn)
      then (s.func fn).refused ++ [page] else (s.func fn).refused }

/-- The strands after a refusal. -/
def State.strandsRefused (s : State) (fn page : Nat) : State :=
  (SMap.keys s.strands).foldl (fun s sid => s.refusedWait fn page sid) (s.pageRefused fn page)

theorem execPriResponse_refused_eq : execPriResponse fn page false s =
    .next ((SMap.keys (s.strandsRefused fn page).jobs).foldl (State.abandonWaiting fn page) (s.strandsRefused fn page)) :=
  (if_neg (ne_false_of_eq_true hasked)).trans (if_neg Bool.false_ne_true)

end

theorem State.pageRefused_pageView : (s.pageRefused fn page).pageView sid = s.pageView sid := by
  have hfunc : (fun k => (((s.pageRefused fn page).func k).pasid, ((s.pageRefused fn page).func k).ats)) =
      fun k => ((s.func k).pasid, (s.func k).ats) := by
    funext k
    by_cases hk : k = fn
    · rw [hk, State.pageRefused, State.func_setFunc]
    · rw [State.pageRefused, State.func_setFunc_ne hk]
  rw [State.pageView, hfunc]
  rfl

theorem State.strandsRefused_keeps {β : Type} (g : State → β) (hchoices : ∀ (s : State) n, g { s with choices := n } = g s)
    (hstrand : ∀ s k st, g (State.setStrand s k st) = g s) : g (s.strandsRefused fn page) = g (s.pageRefused fn page) :=
  foldl_keeps fun _ k => State.refusedWait_keeps g hchoices (fun s st => hstrand s k st)

theorem abandonWaitings_keeps {β : Type} (g : State → β) {l : List Nat} (hports : ∀ (s : State) l, g { s with ports := l } = g s)
    (hjob : ∀ s k j, g (State.setJob s k j) = g s) : g (l.foldl (State.abandonWaiting fn page) s) = g s :=
  foldl_keeps fun _ k => State.abandonWaiting_keeps g hports (fun s j => hjob s k j)

/-- Any other answer ends the jobs that wait for the page with HOSTPAGE and, of strands listed once each, an LDC that needs it with a free
value; the memory is as before. -/
theorem execPriResponse_refused (hasked : (s.func fn).pri.contains page = true) : ∃ t, execPriResponse fn page false s = .next t ∧
    t.mem = s.mem ∧ page ∉ (t.func fn).pri ∧
    (∀ id ∈ SMap.keys s.jobs, s.launchFn (ttOf (s.job id).sid) = fn → page ∈ (s.job id).wait → (t.job id).hostPaged) ∧
    ((SMap.keys s.strands).Nodup → ∀ sid ∈ SMap.keys s.strands, ∀ r c o g, (s.strand sid).wait = .ldc r c o g →
      s.ldcNeeds fn page sid c o → ∃ n, t.strand sid = (s.strand sid).answer [.d r (Config.freeD n) true]) := by
  have hjobs : (s.strandsRefused fn page).jobs = s.jobs := State.strandsRefused_keeps State.jobs (fun _ _ => rfl) fun _ _ _ => rfl
  have hexec := execPriResponse_refused_eq hasked
  rw [hjobs] at hexec
  refine ⟨_, hexec, ?_, ?_, fun id hid hfn hpage => ?_, fun hnodup sid hsid r c o g hwait hneeds => ?_⟩
  · rw [abandonWaitings_keeps State.mem (fun _ _ => rfl) fun _ _ _ => rfl]
    exact State.strandsRefused_keeps State.mem (fun _ _ => rfl) fun _ _ _ => rfl
  · rw [abandonWaitings_keeps (fun u => u.func fn) (fun _ _ => rfl) fun _ _ _ => rfl,
      State.strandsRefused_keeps (fun u => u.func fn) (fun _ _ => rfl) fun _ _ _ => rfl, State.pageRefused, State.func_setFunc]
    simp
  · have hjob : (s.strandsRefused fn page).job id = s.job id :=
      State.strandsRefused_keeps (fun u => u.job id) (fun _ _ => rfl) fun _ _ _ => rfl
    have hlaunch (tt : Nat) : (s.strandsRefused fn page).launchFn tt = s.launchFn tt :=
      State.strandsRefused_keeps (fun u => u.launchFn tt) (fun _ _ => rfl) fun _ _ _ => rfl
    exact State.abandonWaitings_hostPaged hid (by rw [hjob, hlaunch, hfn]) (by rwa [hjob])
  · rw [abandonWaitings_keeps (fun u => u.strand sid) (fun _ _ => rfl) fun _ _ _ => rfl]
    exact State.refusedWaits_ldc hnodup hsid hwait (State.ldcNeeds_of_pageView State.pageRefused_pageView hneeds)

/-! ### A translation invalidated (f09 R228) -/

theorem execAtsInvalidation_spec : ∃ t, execAtsInvalidation fn page s = .next t ∧ page ∉ (t.func fn).ats ∧
    t.outbox = s.outbox ++ [.atsDone fn page] ∧ t.mem = s.mem := by
  refine ⟨_, rfl, ?_, rfl, rfl⟩
  show page ∉ ((s.setFunc fn { s.func fn with ats := (s.func fn).ats.filter (· != page) }).func fn).ats
  rw [State.func_setFunc]
  simp

end Sys2Proof.Machine
end

section
/-! SUPPORT. A strand listed twice whose bundle holds two LDCs of one host page: a refusal of the page answers both of them. -/
namespace Sys2Proof.Machine

/-- A capability for the first page of object 1 of tenant 0. -/
def pageCap : Cap := ⟨capMake 0 1 rightR 0 4096, false⟩

/-- That object: one extent of host memory, at host page 5, of which no translation is held. -/
def pageObj : Obj :=
  { Obj.free with entry := BitVec.ofNat 256 (2 ^ 252 + 4 * 2 ^ 249 + 2 ^ 239 + 4096 * 2 ^ 180 + 5 * 2 ^ 135) }

/-- A strand whose bundle waits for the page's first word and, after it, for its second. -/
def twoLdcs : Strand := { Strand.blank with wait := .ldc 3 pageCap 0 none, more := [.ldc 4 pageCap 8 none] }

/-- The state that lists this strand twice: its strands are not in the canonical form of a sparse map (`SMap.wf`). -/
def listedTwice : State :=
  { State.reset with
    tenants := [(0, { Tenant.none with live := true, objs := [(1, pageObj)] })]
    funcs := [(0, { Func.off with pri := [5] })]
    strands := [(0, twoLdcs), (0, twoLdcs)] }

theorem listedTwice_needs : listedTwice.ldcNeeds 0 5 0 pageCap 0 := ⟨rfl, by decide⟩

theorem execPriResponse_listedTwice : ∃ t, execPriResponse 0 5 false listedTwice = .next t ∧
    (t.strand 0).wait = .done [.d 3 (Config.freeD 0) true, .d 4 (Config.freeD 1) true] :=
  ⟨_, rfl, rfl⟩

end Sys2Proof.Machine
end

section
/-! SUPPORT. The obligation on residency. -/

open Sys2Proof Sys2Proof.Machine

/-- Refutes O47: the event of a refused page visits every listed key, so in a state that lists a strand twice (`listedTwice`) it also answers
the LDC the strand takes up next, and the strand is not as the first answer alone leaves it. Only that clause fails, and only for want of
the canonical form: with keys listed once it holds (`execPriResponse_refused`), and what is said of the other events holds of every state
(`execPriResponse_unasked`, `execPriResponse_granted`, `execExtentResident_gone`, `execExtentResident_spec`, `execExtentMigrate_eq`,
`execExtentMigrate_completes`, `execEviction_spec`, `execAtsInvalidation_spec`). -/
theorem not_residency : ¬ Obligations.Residency := by
  rintro ⟨hpri, -⟩
  obtain ⟨t, hexec, -, -, -, hrefused⟩ := (hpri listedTwice 0 5 false).2 rfl
  obtain ⟨n, hanswered⟩ := (hrefused rfl).2 0 (by decide) 3 pageCap 0 none rfl rfl listedTwice_needs.2
  obtain ⟨u, hexec', hdone⟩ := execPriResponse_listedTwice
  obtain rfl : t = u := Host.Outcome.next.inj (hexec.symm.trans hexec')
  have hnext : (t.strand 0).wait = .ldc 4 pageCap 8 none := congrArg Strand.wait hanswered
  exact Wait.noConfusion (hdone.symm.trans hnext)

end

section
/-! SUPPORT. Elements of a lane (f05 R126): the lane that is put together from elements, and the element read back out of it. -/
namespace Sys2Proof.Machine

theorem foldl_zipIdx_eq_ofDigits (w : Nat) (l : List Nat) (a i : Nat) :
    (l.zipIdx i).foldl (fun a e => a + e.1 % 2 ^ w * 2 ^ (w * e.2)) a =
      a + 2 ^ (w * i) * Nat.ofDigits (2 ^ w) (l.map (· % 2 ^ w)) := by
  induction l generalizing a i with
  | nil => simp
  | cons x xs ih =>
    rw [List.zipIdx_cons, List.foldl_cons, ih, List.map_cons, Nat.ofDigits_cons, Nat.mul_succ, Nat.pow_add]
    ring

/-- The elements are the digits of the lane in base 2^w. -/
theorem packElems_eq_ofDigits (w : Nat) (l : List Nat) :
    packElems w l = BitVec.ofNat 32 (Nat.ofDigits (2 ^ w) (l.map (· % 2 ^ w))) := by
  rw [packElems, foldl_zipIdx_eq_ofDigits, Nat.mul_zero, Nat.pow_zero, Nat.one_mul, Nat.zero_add]

theorem ofDigits_div_pow_mod {p k : Nat} {l : List Nat} (hp : 0 < p) (hl : ∀ x ∈ l, x < p) (hk : k < l.length) :
    Nat.ofDigits p l / p ^ k % p = l[k] := by
  rw [Nat.ofDigits_div_pow_eq_ofDigits_drop k hp l hl, List.drop_eq_getElem_cons hk, Nat.ofDigits_cons,
    Nat.add_mul_mod_self_left, Nat.mod_eq_of_lt (hl _ (List.getElem_mem hk))]

theorem elem_ofNat {w k : Nat} (hlane : w * k + w ≤ 32) (n : Nat) :
    elem w (BitVec.ofNat 32 n) k = n / (2 ^ w) ^ k % 2 ^ w := by
  have hsplit : 2 ^ 32 = 2 ^ (w * k) * 2 ^ (32 - w * k) := by rw [← Nat.pow_add]; congr 1; omega
  rw [elem, BitVec.toNat_ofNat, hsplit, Nat.mod_mul_right_div_self, Nat.mod_mod_of_dvd _ (Nat.pow_dvd_pow 2 (by omega)), Nat.pow_mul]

theorem elem_packElems {w k : Nat} {l : List Nat} (hlane : w * k + w ≤ 32) (hk : k < l.length) :
    elem w (packElems w l) k = l[k] % 2 ^ w := by
  rw [packElems_eq_ofDigits, elem_ofNat hlane, ofDigits_div_pow_mod (by positivity) ?_ (by simpa using hk), List.getElem_map]
  intro x hx
  obtain ⟨y, -, rfl⟩ := List.mem_map.mp hx
  exact Nat.mod_lt _ (by positivity)

theorem elem_eq_extractLsb' (w : Nat) (x : BitVec 32) (k : Nat) : elem w x k = (x.extractLsb' (w * k) w).toNat := by
  rw [BitVec.extractLsb'_toNat, Nat.shiftRight_eq_div_pow, elem]

theorem extractLsb'_byElems {w n k : Nat} (f : Nat → Nat × BitVec 8) (hk : k < n) (hlane : w * k + w ≤ 32) :
    (byElems w n f).1.extractLsb' (w * k) w = BitVec.ofNat w (f k).1 := by
  refine BitVec.eq_of_toNat_eq ?_
  rw [← elem_eq_extractLsb', byElems, elem_packElems hlane (by simpa using hk), BitVec.toNat_ofNat]
  simp

theorem orFlags_eq_zero {l : List (BitVec 8)} (hl : ∀ x ∈ l, x = 0) : orFlags l = 0 := by
  induction l with
  | nil => rfl
  | cons x xs ih =>
    obtain ⟨rfl, hxs⟩ := List.forall_mem_cons.mp hl
    exact ih hxs

theorem byElems_flags_eq_zero {w n : Nat} {f : Nat → Nat × BitVec 8} (hf : ∀ k, (f k).2 = 0) : (byElems w n f).2 = 0 := by
  refine orFlags_eq_zero fun x hx => ?_
  simp only [List.map_map, List.mem_map, Function.comp_apply] at hx
  obtain ⟨k, -, rfl⟩ := hx
  exact hf k

end Sys2Proof.Machine
end

section
/-! SUPPORT. Integer elements (f20 R409): each operation is that of words of the element's width. -/
namespace Sys2Proof.Machine

/-- What an operation of the element mould makes of integer elements, as words. -/
def VOp.onWords {w : Nat} (op : VOp) (a b d : BitVec w) : BitVec w :=
  match op with
  | .add => a + b
  | .sub => a - b
  | .mul => a * b
  | .fma => a * b + d
  | .min => if a.toInt ≤ b.toInt then a else b
  | .max => if a.toInt ≤ b.toInt then b else a

theorem ITy.value_toNat {w : Nat} (a : BitVec w) : (⟨w, true⟩ : ITy).value a.toNat = a.toInt := by
  have hlt := a.isLt
  have hhalf : 2 ^ (w - 1) ≤ a.toNat ↔ ¬ 2 * a.toNat < 2 ^ w := by
    cases w with
    | zero => omega
    | succ v => rw [Nat.add_sub_cancel, Nat.pow_succ]; omega
  simp only [ITy.value, true_and, Nat.mod_eq_of_lt hlt, hhalf, BitVec.toInt_eq_toNat_cond, ite_not]

theorem ITy.ofNat_code {w : Nat} (x : Int) : BitVec.ofNat w ((⟨w, true⟩ : ITy).code x) = BitVec.ofInt w x := by
  refine BitVec.eq_of_toNat_eq ?_
  rw [ITy.code, ← BitVec.toNat_ofInt, BitVec.ofNat_toNat, BitVec.setWidth_eq]

theorem ofNat_intElem {w : Nat} (op : VOp) (a b d : BitVec w) :
    BitVec.ofNat w (intElem w op a.toNat b.toNat d.toNat) = op.onWords a b d := by
  cases op with
  | add => exact BitVec.eq_of_toNat_eq (by simp [intElem, VOp.onWords])
  | sub =>
    simp only [intElem, VOp.onWords, ITy.ofNat_code, ITy.value_toNat]
    exact BitVec.eq_of_toInt_eq (by rw [BitVec.toInt_ofInt, BitVec.toInt_sub])
  | mul => exact BitVec.eq_of_toNat_eq (by simp [intElem, VOp.onWords])
  | fma => exact BitVec.eq_of_toNat_eq (by simp [intElem, VOp.onWords])
  | min =>
    simp only [intElem, VOp.onWords, ITy.value_toNat, ← Int.not_le, ite_not]
    split <;> simp
  | max =>
    simp only [intElem, VOp.onWords, ITy.value_toNat]
    rcases lt_trichotomy a.toInt b.toInt with hlt | heq | hgt
    · simp [hlt, hlt.le]
    · simp [BitVec.eq_of_toInt_eq heq]
    · simp [hgt.not_gt, hgt.not_ge]

section
variable {t : BitVec 2} (ht : t ≠ 0) (op : VOp) (a b d : BitVec 32)
include ht

theorem elemLane_int : elemLane t op a b d = byElems (tyWidth t) (32 / tyWidth t) fun k =>
    (intElem (tyWidth t) op (elem (tyWidth t) a k) (elem (tyWidth t) b k) (elem (tyWidth t) d k), 0) :=
  if_neg ht

theorem elemLane_int_flags : (elemLane t op a b d).2 = 0 := by
  rw [elemLane_int ht]
  exact byElems_flags_eq_zero fun _ => rfl

/-- Every element of an integer lane is computed by itself, as a word of its width. -/
theorem extractLsb'_elemLane {k : Nat} (hk : k < 32 / tyWidth t) :
    (elemLane t op a b d).1.extractLsb' (tyWidth t * k) (tyWidth t) =
      op.onWords (a.extractLsb' (tyWidth t * k) (tyWidth t)) (b.extractLsb' (tyWidth t * k) (tyWidth t))
        (d.extractLsb' (tyWidth t * k) (tyWidth t)) := by
  have hlane : tyWidth t * k + tyWidth t ≤ 32 := (Nat.mul_le_mul_left _ hk).trans (Nat.mul_div_le 32 _)
  rw [elemLane_int ht, extractLsb'_byElems _ hk hlane, elem_eq_extractLsb', elem_eq_extractLsb', elem_eq_extractLsb', ofNat_intElem]

end

theorem elemLane_i32 (op : VOp) (a b d : BitVec 32) : elemLane 1 op a b d = (op.onWords a b d, 0) := by
  have hwhole : (elemLane 1 op a b d).1.extractLsb' 0 32 =
      op.onWords (a.extractLsb' 0 32) (b.extractLsb' 0 32) (d.extractLsb' 0 32) :=
    extractLsb'_elemLane (t := 1) (by decide) op a b d (k := 0) (by decide)
  simp only [BitVec.extractLsb'_eq_self] at hwhole
  exact Prod.ext hwhole (elemLane_int_flags (by decide) op a b d)

theorem elemLane_x16 (op : VOp) (a b d : BitVec 32) {k : Nat} (hk : k < 2) : (elemLane 2 op a b d).1.extractLsb' (16 * k) 16 =
    op.onWords (a.extractLsb' (16 * k) 16) (b.extractLsb' (16 * k) 16) (d.extractLsb' (16 * k) 16) :=
  extractLsb'_elemLane (t := 2) (by decide) op a b d hk

theorem elemLane_x8 (op : VOp) (a b d : BitVec 32) {k : Nat} (hk : k < 4) : (elemLane 3 op a b d).1.extractLsb' (8 * k) 8 =
    op.onWords (a.extractLsb' (8 * k) 8) (b.extractLsb' (8 * k) 8) (d.extractLsb' (8 * k) 8) :=
  extractLsb'_elemLane (t := 3) (by decide) op a b d hk

end Sys2Proof.Machine
end

section
/-! SUPPORT. The obligation on integer elements. -/

open Sys2Proof Sys2Proof.Machine

/-- Settles O23: each element of an integer lane is the operation on words of its width (`extractLsb'_elemLane`), and no element has a
flag. -/
theorem integerElementsWrap : Obligations.IntegerElementsWrap := fun a b d =>
  ⟨⟨elemLane_i32 .add a b d, elemLane_i32 .sub a b d, elemLane_i32 .mul a b d, elemLane_i32 .fma a b d, elemLane_i32 .min a b d,
      elemLane_i32 .max a b d⟩,
    fun _ hk => ⟨elemLane_x16 .add a b d hk, elemLane_x16 .sub a b d hk, elemLane_x16 .mul a b d hk⟩,
    fun _ hk => ⟨elemLane_x8 .add a b d hk, elemLane_x8 .sub a b d hk, elemLane_x8 .mul a b d hk⟩,
    fun op => ⟨elemLane_int_flags (by decide) op a b d, elemLane_int_flags (by decide) op a b d⟩⟩

end

section
/-! SUPPORT. Observed loads: LDC and its arrival, here and from another package (f06 R157, f08 R213, f18 R363). -/
namespace Sys2Proof.Machine

variable {s : State} {sid : Nat}

/-! ### The word -/

section
variable {r k : BitVec 6} {c g : BitVec 5} (hcur : s.cur = .strand sid) (hstep : s.inMStep sid = false)
  (hwait : (s.strand sid).wait = .none)
  (haligned : (capBase ((s.strand sid).rc c.toNat).bits + ((s.strand sid).rd k.toNat).toNat) % 8 = 0)
  (hread : s.readCheck sid ((s.strand sid).rc c.toNat) ((s.strand sid).rd k.toNat).toNat 8 rightR = none)
include hcur hstep hwait haligned hread

theorem execLdc_no_gate : execLdc r c k 0 s = .next (s.setStrand sid { s.strand sid with
    wait := .ldc r.toNat ((s.strand sid).rc c.toNat) ((s.strand sid).rd k.toNat).toNat none }) := by
  rw [execLdc, waitWord_outside_mstep hcur hstep]
  simp only [haligned, hread, ne_eq, not_true, if_false, if_true, State.freeze_of_wait_none hwait]

theorem execLdc_gate {a : Nat} (hg : g ≠ 0) (hgate : s.capCheck sid ((s.strand sid).rc g.toNat) 0 64 rightG = none)
    (haddr : s.capAddr sid ((s.strand sid).rc g.toNat) 0 = .at_ a) :
    execLdc r c k g s = .next (s.setStrand sid { s.strand sid with
      wait := .ldc r.toNat ((s.strand sid).rc c.toNat) ((s.strand sid).rd k.toNat).toNat (some a) }) := by
  rw [execLdc, waitWord_outside_mstep hcur hstep]
  simp only [haligned, hread, ne_eq, not_true, if_false, if_neg hg, hgate, haddr, State.freeze_of_wait_none hwait]

end

/-! ### The arrival -/

theorem State.SameButTotals.mem_strand {t : State} (h : s.SameButTotals t) : t.mem = s.mem ∧ ∀ j, t.strand j = s.strand j := by
  obtain ⟨x, y, rfl, -⟩ := h
  exact ⟨rfl, fun _ => rfl⟩

section
variable {r o a : Nat} {cap : Cap} {gate : Option Nat} (hwait : (s.strand sid).wait = .ldc r cap o gate)
  (haddr : s.capAddr sid cap o = .at_ a)
include hwait haddr

theorem execLdcArrival_far (hfar : s.farAway a = true) (hasked : s.awaiting (waitKey sid) = false)
    (hstop : s.stopBit (s.owner sid) a = false) :
    execLdcArrival sid s = .next (s.sendFar (waitKey sid) sid a (.read a 8)) := by
  rw [execLdcArrival]
  simp only [hwait, haddr, hfar, hasked, hstop, if_true, Bool.false_eq_true, or_self, if_false]

theorem execLdcArrival_near (hnear : s.farAway a = false) (hready : s.byteReady sid cap o = true)
    (hturn : s.turnAt (s.owner sid) a = true) :
    execLdcArrival sid s = .next ((s.setStrand sid ((s.strand sid).answer
      [.d r (BitVec.ofNat 64 (natOf (s.mem.readN a 8))) true])).meterBytes (ttOf sid) ((List.range 8).map (a + ·)) false) := by
  rw [execLdcArrival]
  simp only [hwait, haddr, hnear, hready, hturn, Bool.false_eq_true, if_false, and_self, if_true]

end

end Sys2Proof.Machine
end

section
/-! SUPPORT. The obligation on observed loads. -/

open Sys2Proof Sys2Proof.Machine

/-- Settles O35: the word freezes the strand (`execLdc_no_gate`, `execLdc_gate`); the arrival answers the wait with the word at its
memory and else only counts its bytes (`execLdcArrival_near`), or sends one request (`execLdcArrival_far`). -/
theorem observedLoads : Obligations.ObservedLoads := by
  intro s sid r k c g
  refine ⟨fun hcur hstep hwait haligned hread => ⟨fun hg => ?_, fun a hg hgate haddr => ?_⟩, fun d w x gate a hwait haddr =>
    ⟨fun hnear hready hturn => ?_, fun hfar hasked hstop => ?_⟩⟩
  · subst hg
    exact execLdc_no_gate hcur hstep hwait haligned hread
  · exact execLdc_gate hcur hstep hwait haligned hread hg hgate haddr
  · obtain ⟨hmem, hstrand⟩ := (State.meterBytes_frame ..).mem_strand
    exact ⟨_, execLdcArrival_near hwait haddr hnear hready hturn, hmem, (hstrand sid).trans (State.strand_setStrand ..)⟩
  · exact ⟨_, execLdcArrival_far hwait haddr hfar hasked hstop, rfl, rfl, State.sendFar_asks ..⟩

end

section
/-! SUPPORT. Gates: ACQ, the grant, REL and the release (f06 R161..R164, f18 R340, f19 R392). -/
namespace Sys2Proof.Machine

variable {s : State} {sid a : Nat}

/-! ### The record of a gate -/

/-- The state with other records of its gates. -/
def State.withGates (s : State) (g : SMap Gate) : State := { s with gates := g }

theorem State.gate_withGates (g : Gate) : (s.withGates (SMap.set Gate.none s.gates a g)).gate a = g := SMap.get_set_self
@[simp] theorem State.gate_setGate (g : Gate) : (s.setGate a g).gate a = g := by
  rw [State.gate, State.setGate, SMap.get_set_self]
@[simp] theorem State.setGate_strand (g : Gate) (j : Nat) : (s.setGate a g).strand j = s.strand j := by
  rw [State.strand, State.setGate, State.strand]
@[simp] theorem State.setGate_ask (g : Gate) (w : Nat) : (s.setGate a g).ask w = s.ask w := by
  rw [State.ask, State.setGate, State.ask]
@[simp] theorem State.setStrand_gate (x : Strand) : (s.setStrand sid x).gate a = s.gate a := rfl

/-! ### ACQ (f18 R340) -/

/-- A gate of another package is asked for by a request to its Hen (f08 R213). -/
theorem State.joinGate_far (hfar : s.farAway a = true) : s.joinGate sid a = s.sendFar (waitKey sid) sid a (.acq a sid) := if_pos hfar

theorem State.joinGate_near (hnear : s.farAway a = false) : s.joinGate sid a =
    s.withGates (SMap.set Gate.none s.gates a { s.gate a with waiters := (s.gate a).waiters ++ [sid] }) :=
  if_neg (ne_true_of_eq_false hnear)

theorem State.joinGate_mem_strand : (s.joinGate sid a).mem = s.mem ∧ (s.joinGate sid a).strand sid = s.strand sid := by
  cases hfar : s.farAway a with
  | true => rw [State.joinGate_far hfar]; exact ⟨rfl, rfl⟩
  | false => rw [State.joinGate_near hfar]; exact ⟨rfl, rfl⟩

section
variable {c : BitVec 5} (hcur : s.cur = .strand sid) (hstep : s.inMStep sid = false)
include hcur hstep

/-- An ACQ at a gate that is not resident is held (f04 R111). -/
theorem execAcq_absent (hwait : (s.strand sid).wait = .none) (hgate : s.gateOf sid ((s.strand sid).rc c.toNat) = .ok none) :
    execAcq c s = .next (s.setStrand sid { s.strand sid with wait := .held ((s.strand sid).rc c.toNat) none }) := by
  rw [execAcq, waitWord_outside_mstep hcur hstep]
  simp only [hgate, State.freeze_of_wait_none hwait]

variable (hgate : s.gateOf sid ((s.strand sid).rc c.toNat) = .ok (some a))
include hgate

theorem execAcq_own (hholder : (s.gate a).holder = some sid) :
    execAcq c s = .next (s.suppressHere sid Code.gateState 3) := by
  rw [execAcq, waitWord_outside_mstep hcur hstep]
  simp only [hgate, if_pos hholder]

theorem execAcq_joins (hwait : (s.strand sid).wait = .none) (hholder : (s.gate a).holder ≠ some sid) :
    execAcq c s = .next ((s.joinGate sid a).setStrand sid { s.strand sid with wait := .acq a }) := by
  obtain ⟨-, hstrand⟩ := State.joinGate_mem_strand (s := s) (sid := sid) (a := a)
  rw [← hstrand] at hwait ⊢
  rw [← State.freeze_of_wait_none hwait, execAcq, waitWord_outside_mstep hcur hstep]
  simp only [hgate, if_neg hholder]

end

/-! ### The grant (f06 R163) -/

/-- A waiter of this package has its gate: it goes on. -/
theorem State.granted_own {w : Nat} (hown : s.ask w = none) (hwait : (s.strand w).wait = .acq a) :
    s.granted w = s.setStrand w ((s.strand w).answer []) := by
  rw [State.granted]
  simp only [hown, State.modStrand, hwait]

theorem execGateGrant_own {w : Nat} {rest : List Nat} (hholder : (s.gate a).holder = none) (hfreeing : (s.gate a).freeing = none)
    (hfirst : (s.gate a).waiters.filter (fun w => !s.abandons w) = w :: rest) (hown : s.ask w = none)
    (hturn : s.turnAt (s.owner w) a = true) (hfree : s.henFree (s.owner w) a = true) (hwait : (s.strand w).wait = .acq a) :
    execGateGrant a s = .next ((s.setGate a { s.gate a with holder := some w, waiters := rest }).setStrand w
      ((s.strand w).answer [])) := by
  have htenant : s.waiterTenant w = s.owner w := by rw [State.waiterTenant, hown]
  rw [execGateGrant]
  simp only [hholder, hfreeing, hfirst, htenant, hturn, hfree, and_self, if_true]
  rw [State.granted_own ((State.setGate_ask ..).trans hown) ((congrArg Strand.wait (State.setGate_strand ..)).trans hwait),
    State.setGate_strand]

/-! ### REL (f19 R392) -/

@[simp] theorem Strand.mark_rels (st : Strand) (queues : List Nat) : (st.mark queues).rels = st.rels := foldl_keeps fun _ _ => rfl
@[simp] theorem Strand.mark_d (st : Strand) (queues : List Nat) : (st.mark queues).d = st.d := foldl_keeps fun _ _ => rfl

/-- The strand after a REL of a gate: a marker on each of its queues, and the release owed. -/
def Strand.letGo (st : Strand) (a : Nat) : Strand :=
  let st' := st.mark [0, 1, 2, 3, 4]
  { st' with rels := st'.rels ++ [(a, st.markers, st.lastWrite)] }

theorem Strand.letGo_rels (st : Strand) (a : Nat) : (st.letGo a).rels = st.rels ++ [(a, st.markers, st.lastWrite)] :=
  congrArg (· ++ _) (Strand.mark_rels ..)

theorem Strand.letGo_d (st : Strand) (a : Nat) : (st.letGo a).d = st.d := Strand.mark_d ..

section
variable {c : BitVec 5} (hcur : s.cur = .strand sid) (hgate : s.gateOf sid ((s.strand sid).rc c.toNat) = .ok (some a))
include hcur hgate

theorem execRel_holder (hholder : (s.gate a).holder = some sid) : execRel c s =
    .next ((s.setGate a { s.gate a with holder := none, freeing := some sid }).setStrand sid ((s.strand sid).letGo a)) := by
  rw [execRel, strandOnly_strand hcur]
  simp only [hgate, if_neg (not_not.mpr hholder), State.modStrand, State.setGate_strand, Strand.letGo]

theorem execRel_not_holder (hholder : (s.gate a).holder ≠ some sid) :
    execRel c s = .next (s.suppressHere sid Code.gateState 3) := by
  rw [execRel, strandOnly_strand hcur]
  simp only [hgate, if_pos hholder]

end

/-! ### The release (f06 R164) -/

theorem Strand.holdsMarker_eq_false {st : Strand} {m : Nat} (h : ∀ q < 5, QEnt.marker m ∉ st.queue q) : st.holdsMarker m = false := by
  simp only [Strand.holdsMarker, List.any_eq_false, List.mem_range]
  intro q hq hany
  obtain ⟨e, he, hmarker⟩ := List.any_eq_true.mp hany
  cases e with
  | marker k => exact h q hq (beq_iff_eq.mp hmarker ▸ he)
  | _ => exact Bool.false_ne_true hmarker

/-- A release can be made once the strand has run past its last write before the REL and none of its five markers waits in a queue. -/
theorem Strand.canRelease_of_passed {st : Strand} {m v : Nat} (hwrite : v < st.vclk)
    (hmarkers : ∀ q < 5, ∀ k < 5, QEnt.marker (m + k) ∉ st.queue q) : st.canRelease (a, m, v) = true := by
  have hgone : ∀ k < 5, st.holdsMarker (m + k) = false := fun k hk => Strand.holdsMarker_eq_false fun q hq => hmarkers q hq k hk
  simp only [Strand.canRelease, Strand.passed, decide_eq_true hwrite, Bool.true_or, Bool.true_and, List.all_eq_true, List.mem_range]
  intro k hk
  rw [hgone k hk, Bool.not_false]

theorem execGateRelease_first {m v : Nat} {rest : List (Nat × Nat × Nat)} (hrels : (s.strand sid).rels = (a, m, v) :: rest)
    (hcan : (s.strand sid).canRelease (a, m, v) = true) (hfree : s.farAway a = true ∨ s.henFree (s.owner sid) a = true) :
    execGateRelease sid s = .next ((s.setStrand sid { s.strand sid with rels := rest }).releaseGate sid a false) := by
  have hfirst : (s.strand sid).rels.find? (s.strand sid).canRelease = some (a, m, v) := by rw [hrels, List.find?_cons_of_pos hcan]
  rw [execGateRelease]
  simp only [hfirst, if_pos hfree]
  rw [hrels, List.erase_cons_head]

theorem State.releaseGate_near {poison : Bool} (hnear : s.farAway a = false) :
    s.releaseGate sid a poison = s.setGate a ((s.gate a).release poison) :=
  if_neg (ne_true_of_eq_false hnear)

theorem State.releaseGate_far {poison : Bool} (hfar : s.farAway a = true) : ∃ g, s.releaseGate sid a poison =
    (s.withGates g).sendFar (relKey a) sid a (.rel a sid poison) :=
  ⟨_, if_pos hfar⟩

/-- A request says nothing of the gates' records, and of its strand only where it is placed. -/
theorem Asks.of_withGates_setStrand {t : State} {x : Strand} {g : SMap Gate} {op : RemoteOp}
    (h : Asks ((s.setStrand sid x).withGates g) t sid a op) (hlcore : x.lcore = (s.strand sid).lcore) : Asks s t sid a op := by
  have hplace : ((s.setStrand sid x).withGates g).placeOfStrand sid = s.placeOfStrand sid := by
    change (s.ttOfStrand sid).placeOf ((s.setStrand sid x).strand sid).lcore = _
    rw [State.strand_setStrand, hlcore, State.placeOfStrand]
  obtain ⟨y, seq, hpost, hdest, htenant, hmsg⟩ := h
  rw [hplace] at hmsg
  exact ⟨y, seq, hpost, hdest, htenant, hmsg⟩

end Sys2Proof.Machine
end

section
/-! SUPPORT. The obligation on gates. -/

open Sys2Proof Sys2Proof.Machine

/-- Settles O36: what the two words do (`execAcq_absent`, `execAcq_own`, `execAcq_joins`, `execRel_holder`, `execRel_not_holder`), what
the grant does for the first waiter (`execGateGrant_own`), and the release that a strand owes first (`execGateRelease_first`), made at
the gate's record or by a request. -/
theorem gates : Obligations.Gates := by
  intro s sid a c
  refine ⟨fun hcur hstep hwait hgate => ?_, fun hcur hgate => ⟨fun hstep hholder => ?_, fun hstep hwait hholder hfar => ?_,
    fun hstep hwait hholder hnear => ?_, fun hholder => ?_, fun hholder => ?_⟩,
    fun w rest hholder hfreeing hfirst hown hturn hfree hwait => ?_,
    fun m v rest hrels hwrite hmarkers => ⟨fun hnear hfree => ?_, fun hfar => ?_⟩⟩
  · exact execAcq_absent hcur hstep hwait hgate
  · exact execAcq_own hcur hstep hgate hholder
  · have hexec := execAcq_joins hcur hstep hgate hwait hholder
    rw [State.joinGate_far hfar] at hexec
    exact ⟨_, hexec, rfl, State.strand_setStrand .., State.sendFar_asks ..⟩
  · have hexec := execAcq_joins hcur hstep hgate hwait hholder
    rw [State.joinGate_near hnear] at hexec
    exact ⟨_, hexec, rfl, State.gate_withGates _, State.strand_setStrand ..⟩
  · refine ⟨_, execRel_holder hcur hgate hholder, ?_⟩
    rw [State.setStrand_gate, State.gate_setGate, State.strand_setStrand]
    exact ⟨rfl, Strand.letGo_rels .., Strand.letGo_d ..⟩
  · exact execRel_not_holder hcur hgate hholder
  · refine ⟨_, execGateGrant_own hholder hfreeing hfirst hown hturn hfree hwait, ?_⟩
    rw [State.setStrand_gate, State.gate_setGate, State.strand_setStrand]
    exact ⟨rfl, rfl⟩
  · refine ⟨_, execGateRelease_first hrels (Strand.canRelease_of_passed hwrite hmarkers) (.inr hfree), ?_⟩
    rw [State.releaseGate_near (s := s.setStrand sid _) hnear, State.setGate_strand, State.strand_setStrand, State.gate_setGate,
      State.setStrand_gate]
    exact ⟨rfl, rfl⟩
  · refine ⟨_, execGateRelease_first hrels (Strand.canRelease_of_passed hwrite hmarkers) (.inl hfar), ?_⟩
    obtain ⟨g, hsent⟩ := State.releaseGate_far (s := s.setStrand sid { s.strand sid with rels := rest }) (sid := sid) (poison := false) hfar
    rw [hsent]
    exact ⟨State.strand_setStrand .., .of_withGates_setStrand (State.sendFar_asks ..) rfl⟩

end

section
/-! SUPPORT. Semaphores: SEMWAIT and its two ends, SEMSIG and its application (f07 R182, R183, f19 R394, R395). -/
namespace Sys2Proof.Machine

variable {s : State} {sid : Nat}

/-! ### The allotment and the entries -/

theorem State.semKey_of_lt {idx : Nat} (h : idx < (s.ttOfStrand sid).img.sems) :
    s.semKey sid idx = some ((s.strand sid).lcore * 256 + idx) := if_pos h
theorem State.semKey_of_ge {idx : Nat} (h : (s.ttOfStrand sid).img.sems ≤ idx) : s.semKey sid idx = none := if_neg h.not_gt

@[simp] theorem Timetable.sem_setSem (t : Timetable) (k : Nat) (v : BitVec 32) : (t.setSem k v).sem k = v := SMap.get_set_self

/-- A count that fits moves by itself: the other fields stay. -/
theorem semWith_toNat (v : BitVec 32) (count : Nat) : (semWith v count).toNat = v.toNat / 2 ^ 16 * 2 ^ 16 + count % 2 ^ 16 := by
  have hlt := v.isLt
  rw [semWith, BitVec.toNat_ofNat]
  omega

theorem semSignal_fits {v : BitVec 32} {n : Nat} (h : semCount v + n ≤ 65535) :
    semSignal v n none = (semWith v (semCount v + n), false) := by
  have hfits : ¬ 65535 < semCount v + n := by omega
  simp only [semSignal, if_neg hfits, decide_eq_false hfits]

theorem semWith_add_toNat {v : BitVec 32} {n : Nat} (h : semCount v + n ≤ 65535) :
    (semWith v (semCount v + n)).toNat = v.toNat + n := by
  rw [semWith_toNat, Nat.mod_eq_of_lt (by omega), semCount]
  omega

/-- The mask leaves bits 31..24, where ERR and STAT stand. -/
theorem semStatus_eq (v : BitVec 32) : semStatus v = BitVec.ofNat 64 (v.toNat / 2 ^ 24 * 2 ^ 24) := by
  have hmask : v &&& 0xFF000000#32 = v >>> 24 <<< 24 := by
    rw [show 0xFF000000#32 = BitVec.allOnes 32 <<< 24 by decide]
    ext i hi
    simp only [BitVec.getElem_and, BitVec.getElem_shiftLeft, BitVec.getElem_allOnes, BitVec.getElem_ushiftRight]
    rcases Nat.lt_or_ge i 24 with hlow | hhigh
    · simp [hlow]
    · simp [hhigh.not_gt, hhigh, BitVec.getLsbD_eq_getElem hi]
  have hlt := v.isLt
  refine BitVec.eq_of_toNat_eq ?_
  rw [semStatus, hmask, BitVec.toNat_setWidth, BitVec.toNat_shiftLeft, BitVec.toNat_ushiftRight, BitVec.toNat_ofNat, Nat.shiftRight_eq_div_pow, Nat.shiftLeft_eq]
  omega

/-! ### SEMWAIT (f19 R395) -/

section
variable {r : BitVec 6} {m : BitVec 8} {t : BitVec 7} (hcur : s.cur = .strand sid) (hstep : s.inMStep sid = false)
include hcur hstep

theorem execSemwait_allotted (hm : m.toNat < (s.ttOfStrand sid).img.sems) (hwait : (s.strand sid).wait = .none) :
    execSemwait r m t s = .next (s.setStrand sid { s.strand sid with
      wait := .sem r.toNat m.toNat (if t = 0 then none else some (2 ^ (t.toNat + 9))) }) := by
  rw [execSemwait, waitWord_outside_mstep hcur hstep]
  simp only [State.semKey_of_lt hm, State.freeze_of_wait_none hwait]

theorem execSemwait_beyond (hm : (s.ttOfStrand sid).img.sems ≤ m.toNat) :
    execSemwait r m t s = .next (s.suppressHere sid Code.semRange 3) := by
  rw [execSemwait, waitWord_outside_mstep hcur hstep]
  simp only [State.semKey_of_ge hm]

end

section
variable {d idx : Nat} {left : Option Nat} (hwait : (s.strand sid).wait = .sem d idx left)
include hwait

theorem execSemwaitServed_eq (hidx : idx < (s.ttOfStrand sid).img.sems) :
    let k := (s.strand sid).lcore * 256 + idx
    let v := (s.ttOfStrand sid).sem k
    let u := s.setTt (ttOf sid) ((s.ttOfStrand sid).setSem k (BitVec.ofNat 32 (semCount v - 1)))
    semCount v ≠ 0 → execSemwaitServed sid s = .next (u.setStrand sid
      (if (s.strand sid).ran = true ∧ (s.strand sid).more = [] ∧ (s.strand sid).owed = []
        then { (s.strand sid).wd d (semStatus v) false with wait := .none }
        else (s.strand sid).answer [.d d (semStatus v) false])) := by
  intro k v u hcount
  rw [execSemwaitServed]
  simp only [hwait, State.semKey_of_lt hidx]
  rw [if_neg hcount]
  split <;> rfl

end

theorem execSemwaitTimeout_due {d idx : Nat} (hwait : (s.strand sid).wait = .sem d idx (some 0)) :
    execSemwaitTimeout sid s = .next (s.setStrand sid ((s.strand sid).answer [.d d (BitVec.twoPow 64 32) false])) := by
  rw [execSemwaitTimeout]
  simp only [hwait]

/-! ### SEMSIG (f19 R394) -/

section
variable {m : BitVec 8} {a : BitVec 7} (hcur : s.cur = .strand sid)
include hcur

theorem execSemsig_allotted (hm : m.toNat < (s.ttOfStrand sid).img.sems) : execSemsig m a s = .next (s.setStrand sid { s.strand sid with
    sigs := (s.strand sid).sigs ++ [(m.toNat, a.toNat, (s.strand sid).lastWrite, (s.strand sid).bundle)] }) := by
  rw [execSemsig, strandOnly_strand hcur]
  simp only [State.semKey_of_lt hm, State.modStrand]

theorem execSemsig_beyond (hm : (s.ttOfStrand sid).img.sems ≤ m.toNat) :
    execSemsig m a s = .next (s.suppressHere sid Code.semRange 3) := by
  rw [execSemsig, strandOnly_strand hcur]
  simp only [State.semKey_of_ge hm]

end

theorem Strand.passed_of_lt {st : Strand} {v : Nat} (h : v < st.vclk) : st.passed v = true := by
  rw [Strand.passed, decide_eq_true h, Bool.true_or]

/-- The signal of a strand's first SEMSIG, once its timed writes have performed. -/
theorem execSemsigApply_first {idx n v bundle : Nat} {rest : List (Nat × Nat × Nat × Nat)}
    (hsigs : (s.strand sid).sigs = (idx, n, v, bundle) :: rest) (hpassed : v < (s.strand sid).vclk) :
    execSemsigApply sid s = .next ((s.setStrand sid { s.strand sid with sigs := rest }).signal sid idx n none bundle) := by
  have hfirst : (s.strand sid).sigs.find? (fun x => (s.strand sid).passed x.2.2.1) = some (idx, n, v, bundle) := by
    rw [hsigs, List.find?_cons_of_pos]
    exact Strand.passed_of_lt hpassed
  rw [execSemsigApply]
  simp only [hfirst]
  rw [hsigs, List.erase_cons_head]

/-- A signal that does not clip adds its units and changes nothing else. -/
theorem State.signal_fits {idx n bundle k : Nat} (hidx : idx < (s.ttOfStrand sid).img.sems) (hk : (s.strand sid).lcore * 256 + idx = k)
    (hfits : semCount ((s.ttOfStrand sid).sem k) + n ≤ 65535) : s.signal sid idx n none bundle = s.setTt (ttOf sid)
      ((s.ttOfStrand sid).setSem k (semWith ((s.ttOfStrand sid).sem k) (semCount ((s.ttOfStrand sid).sem k) + n))) := by
  rw [State.signal, State.semKey_of_lt hidx, hk]
  simp only [semSignal_fits hfits, Bool.false_eq_true, if_false]

end Sys2Proof.Machine
end

section
/-! SUPPORT. The obligation on semaphores. -/

open Sys2Proof Sys2Proof.Machine

/-- Settles O29: SEMWAIT and SEMSIG by whether the entry is allotted (`execSemwait_allotted`, `execSemsig_allotted` and their `_beyond`), the
taker's two ends (`execSemwaitServed_eq`, `execSemwaitTimeout_due`), and the units of the strand's first SEMSIG, which arrive by a signal
that does not clip (`execSemsigApply_first`, `State.signal_fits`). -/
theorem semaphores : Obligations.Semaphores := by
  intro s sid r m t a st tt
  refine ⟨fun hcur hm => ⟨fun hstep hwait => execSemwait_allotted hcur hstep hm hwait, execSemsig_allotted hcur hm⟩,
    fun hcur hm hstep => ⟨execSemwait_beyond hcur hstep hm, execSemsig_beyond hcur hm⟩, ?served,
    fun d idx hwait => execSemwaitTimeout_due hwait, ?applied⟩
  case served =>
    intro d idx left hwait hidx k v status hcount
    refine ⟨_, execSemwaitServed_eq hwait hidx hcount, ?_⟩
    rw [State.setStrand_tt, State.tt_setTt, Timetable.sem_setSem, State.strand_setStrand, semStatus_eq]
    refine ⟨rfl, fun hran => if_neg fun h => ?_, fun hran hmore howed => if_pos ⟨hran, hmore, howed⟩⟩
    exact Bool.false_ne_true (hran.symm.trans h.1)
  case applied =>
    intro idx n at_ bundle rest hsigs hpassed hidx k hfits
    refine ⟨_, execSemsigApply_first hsigs hpassed, ?_⟩
    rw [State.signal_fits (s := s.setStrand sid { st with sigs := rest }) (k := k) hidx (by rw [State.strand_setStrand]) hfits, State.tt_setTt,
      Timetable.sem_setSem]
    exact ⟨semWith_add_toNat hfits, State.strand_setStrand .., rfl⟩

end

section
/-! SUPPORT. Asynchronous Ox jobs: what starts them, what their end takes away, and a request that stays unanswered (f07 R180, R186, R193,
f08 R213). -/
namespace Sys2Proof.Machine

variable {s : State} {sid : Nat}

/-! ### The start (f07 R180) -/

section
variable {q : Nat} {j : Job} (hwaiting : s.waitingJob sid q = some j) (hagain : j.again = false)
include hwaiting hagain

theorem execOxJobStart_unguarded (hlacks : s.startLacks j = []) (hwen : PBlk.wen j.blk = false) :
    execOxJobStart sid q s = .next (s.startJob j) := by
  rw [execOxJobStart]
  simp only [hwaiting, hwen, hlacks, hagain, List.isEmpty_nil, Bool.false_eq_true, if_false, if_true]

/-- A job with WEN takes one unit of its semaphore before it starts. -/
theorem execOxJobStart_guarded {k : Nat} (hwen : PBlk.wen j.blk = true) (hkey : s.semKey sid (PBlk.wsem j.blk) = some k)
    (hunit : semCount ((s.ttOfStrand sid).sem k) ≠ 0) :
    let v := (s.ttOfStrand sid).sem k
    let s' := s.setTt (ttOf sid) ((s.ttOfStrand sid).setSem k (semWith v (semCount v - 1)))
    s'.startLacks j = [] → execOxJobStart sid q s = .next (s'.startJob j) := by
  intro v s' hlacks
  rw [execOxJobStart]
  simp only [hwaiting, hwen, hkey, hagain, if_neg hunit, if_true]
  rw [hlacks]
  rfl

end

/-- An OXFILL reads nothing: its stream is laid out as it is, in pieces of the destination's units (f06 R150). -/
theorem State.startJob_fill {j : Job} (hop : j.op = 0x43) (hports : s.jobPorts j = none) : s.startJob j = s.setJob j.id { j with
    st := .started, whole := false, pieces := movePieces j.cd (s.streamOf j.sid 0x43 false j.blk j.cd j.cs j.c1) } := by
  have hverdict (b : PBlk) (cd cs : Cap) (str : List SByte) : overlapVerdict 0x43 b cd cs str = none := if_neg (by decide)
  rw [State.startJob]
  simp only [hports, hop, hverdict, opHen, opEnq, opCas, opChase, opPage, opGath, opScat, henOp, opAcc]
  simp

/-! ### What a signal leaves (f07 R182) -/

section
variable {β : Type}

theorem State.reachBoundary_keeps (g : State → β) (hstrand : ∀ s k x, g (State.setStrand s k x) = g s)
    (htt : ∀ s k x, g (State.setTt s k x) = g s) (cause : Nat) : g (s.reachBoundary sid cause) = g s := by
  unfold State.reachBoundary
  dsimp only
  split
  · rw [htt, hstrand]
  · rw [hstrand]

theorem State.fault_keeps (g : State → β) (hstrand : ∀ s k x, g (State.setStrand s k x) = g s)
    (htt : ∀ s k x, g (State.setTt s k x) = g s) (code slot creg off : Nat) : g (s.fault sid code slot creg off) = g s := by
  unfold State.fault
  dsimp only
  split <;> split <;> simp only [State.reachBoundary_keeps g hstrand htt, hstrand, htt]

theorem State.signal_keeps (g : State → β) (hstrand : ∀ s k x, g (State.setStrand s k x) = g s)
    (htt : ∀ s k x, g (State.setTt s k x) = g s) (idx n : Nat) (err : Option Nat) (bundle : Nat) : g (s.signal sid idx n err bundle) = g s := by
  unfold State.signal
  split
  · rfl
  · dsimp only
    split
    · rw [State.fault_keeps g hstrand htt, htt]
    · rw [htt]

/-- A fault of a strand is told by its FAULT and whether it halts. -/
theorem State.fault_strand_keeps (g : Strand → β) (hfault : ∀ st w, g { st with fault := w } = g st)
    (hhalt : ∀ st, g { st with halt := true } = g st) (code slot creg off : Nat) :
    g ((s.fault sid code slot creg off).strand sid) = g (s.strand sid) := by
  have htaken : g ((s.strand sid).takeFault code slot creg off) = g (s.strand sid) := by
    unfold Strand.takeFault
    split <;> exact hfault ..
  unfold State.fault
  dsimp only
  split <;> split <;> simp only [State.reachBoundary_strand, hhalt, State.setTt_strand, State.strand_setStrand, htaken]

theorem State.signal_strand_keeps (g : Strand → β) (hfault : ∀ st w, g { st with fault := w } = g st)
    (hhalt : ∀ st, g { st with halt := true } = g st) (idx n : Nat) (err : Option Nat) (bundle : Nat) :
    g ((s.signal sid idx n err bundle).strand sid) = g (s.strand sid) := by
  unfold State.signal
  split
  · rfl
  · dsimp only
    split
    · rw [State.fault_strand_keeps g hfault hhalt, State.setTt_strand]
    · rw [State.setTt_strand]

end

/-! ### The end (f07 R180) -/

theorem mem_of_mem_dropMarkers {e : QEnt} {l : List QEnt} (h : e ∈ dropMarkers l) : e ∈ l := by
  induction l with
  | nil => exact h
  | cons x rest ih =>
    cases x with
    | marker n => exact List.mem_cons_of_mem _ (ih h)
    | _ => exact h

theorem Strand.mem_queue_of_settleMarkers {st : Strand} {e : QEnt} {q : Nat} (h : e ∈ st.settleMarkers.queue q) : e ∈ st.queue q := by
  revert h
  refine List.foldlRecOn (motive := fun st' : Strand => e ∈ st'.queue q → e ∈ st.queue q) _ _ id fun st' ih k _ h => ih ?_
  rw [Strand.queue, Strand.setQueue, SMap.get_set] at h
  split at h
  next hk => exact hk ▸ mem_of_mem_dropMarkers h
  · exact h

theorem Strand.settleMarkers_d (st : Strand) : st.settleMarkers.d = st.d := foldl_keeps fun _ _ => rfl

/-- An entry of a queue that is not the job of that number. -/
def QEnt.notJob (jid : Nat) : QEnt → Bool
  | .job x => x.id != jid
  | _ => true

/-- The strand once a job has left its queue. -/
def Strand.without (st : Strand) (q jid : Nat) : Strand :=
  (st.setQueue q ((st.queue q).filter (QEnt.notJob jid))).settleMarkers.count 6 1

theorem Strand.without_d (st : Strand) (q jid : Nat) : (st.without q jid).d = st.d := by
  rw [Strand.without, Strand.count_d, Strand.settleMarkers_d, Strand.setQueue_d]

theorem Strand.id_ne_of_mem_without {st : Strand} {q jid : Nat} {x : Job} (h : .job x ∈ (st.without q jid).queue q) : x.id ≠ jid := by
  rw [Strand.without, Strand.queue, Strand.count_oq] at h
  have hkept := Strand.mem_queue_of_settleMarkers h
  rw [Strand.queue, Strand.setQueue, SMap.get_set_self] at hkept
  exact bne_iff_ne.mp (List.mem_filter.mp hkept).2

/-- The producer's pointers of a job's queue buffer go on where QBEN asks for it and a slot is free. -/
def State.fillsSlot (s : State) (j : Job) : State :=
  let b : PBlk := j.blk
  let q := (s.strand j.sid).qbuf b.qbh
  if b.qben = true ∧ ¬ (b.qben && q.free q.prod q.cons == 0) = true then
    s.modStrand j.sid fun st => st.setQb b.qbh { q with prod := q.prod + 1, vprod := q.vprod + 1 }
  else s

theorem State.fillsSlot_frame (j : Job) :
    (s.fillsSlot j).mem = s.mem ∧ (s.fillsSlot j).jobs = s.jobs ∧ ((s.fillsSlot j).strand j.sid).d = (s.strand j.sid).d := by
  unfold State.fillsSlot
  dsimp only
  split
  · rw [State.strand_modStrand]
    exact ⟨rfl, rfl, rfl⟩
  · exact ⟨rfl, rfl, rfl⟩

/-- The end of a job but for what it signals. -/
def State.jobGone (s : State) (jid : Nat) : State :=
  let j := s.job jid
  let u := (s.fillsSlot j).modStrand j.sid fun st => st.without j.q jid
  { u with jobs := SMap.erase u.jobs jid }

theorem State.jobGone_job (jid : Nat) : (s.jobGone jid).job jid = Job.none := SMap.get_erase_self

theorem State.jobGone_mem (jid : Nat) : (s.jobGone jid).mem = s.mem := (State.fillsSlot_frame _).1

theorem State.jobGone_strand (jid : Nat) : (s.jobGone jid).strand (s.job jid).sid =
    ((s.fillsSlot (s.job jid)).strand (s.job jid).sid).without (s.job jid).q jid :=
  State.strand_modStrand (s := s.fillsSlot (s.job jid)) _ fun st => st.without (s.job jid).q jid

/-- The end of a job is a signal, where SEN asks for one, after all else it does. -/
theorem execOxJobFinish_eq {jid : Nat} (hdone : s.jobDone (s.job jid) = true) : ∃ err, execOxJobFinish jid s = .next
    (if PBlk.sen (s.job jid).blk = true then (s.jobGone jid).signal (s.job jid).sid (PBlk.ssem (s.job jid).blk) 1 err (s.job jid).bundle
      else s.jobGone jid) := by
  rw [execOxJobFinish, if_neg (by rw [hdone]; decide)]
  exact ⟨_, rfl⟩

/-- What the end of a job leaves: no job of its number, and memory and the registers of its strand as they were. -/
theorem execOxJobFinish_spec {jid : Nat} (hdone : s.jobDone (s.job jid) = true) : ∃ t, execOxJobFinish jid s = .next t ∧
    t.job jid = Job.none ∧ (∀ x, QEnt.job x ∈ (t.strand (s.job jid).sid).queue (s.job jid).q → x.id ≠ jid) ∧ t.mem = s.mem ∧
    (t.strand (s.job jid).sid).d = (s.strand (s.job jid).sid).d := by
  have hgone (x : Job) : QEnt.job x ∈ ((s.jobGone jid).strand (s.job jid).sid).queue (s.job jid).q → x.id ≠ jid := by
    rw [State.jobGone_strand]
    exact Strand.id_ne_of_mem_without
  have hd : ((s.jobGone jid).strand (s.job jid).sid).d = (s.strand (s.job jid).sid).d := by
    rw [State.jobGone_strand, Strand.without_d, (State.fillsSlot_frame _).2.2]
  obtain ⟨err, hexec⟩ := execOxJobFinish_eq hdone
  refine ⟨_, hexec, ?_⟩
  split
  · rw [State.job, State.signal_keeps State.jobs (fun _ _ _ => rfl) (fun _ _ _ => rfl),
      State.signal_keeps State.mem (fun _ _ _ => rfl) (fun _ _ _ => rfl), Strand.queue,
      State.signal_strand_keeps Strand.oq (fun _ _ => rfl) (fun _ => rfl), State.signal_strand_keeps Strand.d (fun _ _ => rfl) (fun _ => rfl)]
    exact ⟨State.jobGone_job jid, hgone, State.jobGone_mem jid, hd⟩
  · exact ⟨State.jobGone_job jid, hgone, State.jobGone_mem jid, hd⟩

/-! ### Requests without a reply (f07 R193, f08 R213) -/

section
variable {key k : Nat} {r : Remote} (hasked : (s.remotes.find? fun x => x.1 == key) = some (k, r))
  (hdue : r.sent + 2 ^ 16 ≤ s.gclk.toNat) (hstop : s.stopFor (s.owner r.sid) (r.hen / 320) = false)
include hasked hdue hstop

theorem execRetransmitTimeout_gives_up (htries : 8 ≤ r.tries) (hkey : key < 2 ^ 64) : execRetransmitTimeout key s =
    .next ({ s with remotes := SMap.erase s.remotes key }.abandonJob key 0x15) := by
  rw [execRetransmitTimeout]
  simp only [hasked, hstop, hdue.not_gt, Bool.false_eq_true, or_self, if_false, htries, hkey, and_self, if_true]

theorem execRetransmitTimeout_sends_again (htries : r.tries < 8) : execRetransmitTimeout key s = .next
    (State.mail { s with remotes := SMap.set Remote.none s.remotes key { r with sent := s.gclk.toNat, tries := r.tries + 1 } } (r.hen / 320)
      (s.owner r.sid) ((s.placeOfStrand r.sid).die * 24 + (s.placeOfStrand r.sid).clu)
      (.request s.pkg (s.placeOfStrand r.sid).coreNo r.seq r.op)) := by
  rw [execRetransmitTimeout]
  simp only [hasked, hstop, hdue.not_gt, Bool.false_eq_true, or_self, if_false, htries.not_ge, false_and]

end

end Sys2Proof.Machine
end

section
/-! SUPPORT. The obligation on Ox jobs. -/

open Sys2Proof Sys2Proof.Machine

/-- Settles O38: the start (`execOxJobStart_unguarded`, `execOxJobStart_guarded`, `State.startJob_fill`), the end
(`execOxJobFinish_spec`), and a request whose reply is overdue (`execRetransmitTimeout_gives_up`, `execRetransmitTimeout_sends_again`). -/
theorem oxJobs : Obligations.OxJobs := by
  refine ⟨fun s sid q j hwaiting hlacks hagain => ⟨execOxJobStart_unguarded hwaiting hagain hlacks, fun hwen k hkey =>
      execOxJobStart_guarded hwaiting hagain hwen hkey⟩, fun s j => State.startJob_fill, fun s jid hdone _ => execOxJobFinish_spec hdone,
    fun s key k r hasked hdue hstop => ⟨fun htries hkey => ?_, fun htries => ?_⟩⟩
  · refine ⟨_, execRetransmitTimeout_gives_up hasked hdue hstop htries hkey, ?_⟩
    rw [State.abandonJob, State.job_setJob]
    exact ⟨rfl, rfl, rfl, rfl⟩
  · exact ⟨_, _, execRetransmitTimeout_sends_again hasked hdue hstop htries, rfl, rfl, rfl, SMap.get_set_self, rfl⟩

end

section
/-! SUPPORT. A timed copy within an object whose extents lie on two dies (f07 R177, R181): its sides overlap, it writes on its own die first
and reads from the other first. The model seats it with its bytes already read, so its latency is that of the table of R177; the statement
has it that of the stream as it is before, whose first source byte is remote and whose latency is therefore a free value (log entry 28). -/
namespace Sys2Proof.Machine

/-- OXCOPY in timed mode on engine 2, both sides through C2, with its block in D8..D15. -/
def copyWithin : Instr := .oxcopy 2 2 8 2 1

/-- An object of two extents of 4096 bytes in a memory level, the first on die 0 and the second on die 1. -/
def twoDieObj (home : Nat) : Obj :=
  { Obj.free with entry := BitVec.ofNat 256 (2 ^ 252 + home * 2 ^ 249 + 2 * 2 ^ 239 + 8192 * 2 ^ 180 +
      devAddr 0 0 home 0 / 4096 * 2 ^ 135 + devAddr 0 1 home 0 / 4096 * 2 ^ 90) }

/-- A strand of die 0 in an M-step, about to copy the object's bytes 4096 and 4097 to its bytes 4095 and 4096. -/
def twoDies (home : Nat) : State :=
  { State.reset with
    cur := .strand 0
    tenants := [(0, { Tenant.none with live := true, objs := [(1, twoDieObj home)] })]
    tts := [(0, { Timetable.blank with life := 1, mstep := some 0, pins := [(1, 1)] })]
    strands := [(0, { Strand.blank with
      life := 1
      c := [(2, ⟨capMake 0 1 127 0 8192, false⟩)]
      d := [(8, 4095), (9, 4096), (10, BitVec.ofNat 64 (2 + 2 ^ 16 + 2 ^ 32 + 2 ^ 48))] })] }

/-- The block and the stream of that copy. -/
def State.copyBlock (s : State) : PBlk := (List.range 8).map fun i => (s.strand 0).rd (8 + i)
def State.copyStream (s : State) : List SByte :=
  s.streamOf 0 0x40 true s.copyBlock ((s.strand 0).rc 2) ((s.strand 0).rc 2) ((s.strand 0).rc 1)

/-- The vcy at whose end the first pending write of strand 0 lands. -/
def firstDue : Result → Option Nat
  | .next t => (t.strand 0).pend.head?.map (·.due)
  | _ => none

/-- What R181 and R177 ask of the copy before it takes its seat. -/
def State.CopySeats (s : State) : Prop :=
  OxPasses s 0 0x40 true s.copyBlock 2 2 ∧
  overlapVerdict 0x40 s.copyBlock ((s.strand 0).rc 2) ((s.strand 0).rc 2) s.copyStream = some true ∧
  s.engineBusy 0 2 = false ∧ s.oxWaitsInM 0 0x40 ((s.strand 0).rc 2) ((s.strand 0).rc 2) s.copyStream = false

/-- The statement's first line of the copy: it lands after the latency of the stream as it is before its bytes are read. -/
theorem firstDue_of_timedOxWords (hrule : Rule.TimedOxWords) {s : State} (hcur : s.cur = .strand 0) (hseats : s.CopySeats)
    (hone : (s.copyStream.length + 127) / 128 = 1) (hidle : (s.strand 0).pend = []) : firstDue (exec copyWithin s) =
      some ((s.strand 0).vclk + (s.oxTiming 0 0x40 ((s.strand 0).rc 2) ((s.strand 0).rc 2) s.copyStream).1) := by
  obtain ⟨hpasses, hverdict, hfree, hstep⟩ := hseats
  have hruns : overlapVerdict 0x40 s.copyBlock ((s.strand 0).rc 2) ((s.strand 0).rc 2) s.copyStream ≠ some false := by
    rw [hverdict]; decide
  obtain ⟨-, -, hissue⟩ := hrule s 0 0x40 copyWithin 2 2 2 8 2 (by decide) hcur (by decide) (by decide)
  obtain ⟨-, -, hseat⟩ := (hissue hpasses).2 hruns
  obtain ⟨t, hexec, -, -, hpend⟩ := hseat hfree hstep fun h => absurd h (by decide)
  change _ = _ ++ (List.range ((s.copyStream.length + 127) / 128)).map _ at hpend
  rw [hone, hidle] at hpend
  rw [hexec, firstDue, hpend]
  change some ((s.strand 0).vclk + (s.oxTiming 0 0x40 ((s.strand 0).rc 2) ((s.strand 0).rc 2) s.copyStream).1 + 128 * 0 / _) = _
  rw [Nat.mul_zero, Nat.zero_div, Nat.add_zero]

/-- Where the first byte written lies on the strand's die and the first byte read does not, the latency is a free value. -/
theorem State.oxTiming_remote_source {s : State} {sid op o o' a x : Nat} {cd cs : Cap} {str : List SByte} (hop : op ≠ opFill)
    (hdst : (str.findSome? fun y => y.dst) = some o) (ha : s.capAddr sid cd o = .at_ a) (hnear : s.isRemote sid a = false)
    (hsrc : (str.findSome? fun y => y.src) = some o') (hx : s.capAddr sid cs o' = .at_ x) (hfar : s.isRemote sid x = true) :
    (s.oxTiming sid op cd cs str).1 = Config.oxRemoteSource ((s.ttOfStrand sid).hops (addrPkg x) (addrDie x)) := by
  simp only [State.oxTiming, hdst, hsrc, Option.bind_some, ha, hx, hnear, hfar, hop, Bool.false_eq_true, ne_eq, not_false_eq_true, and_self,
    if_false, if_true]

theorem twoDies_copySeats {home : Nat} (h : home = 1 ∨ home = 3) : (twoDies home).CopySeats := by
  unfold State.CopySeats OxPasses
  rcases h with rfl | rfl <;> decide +kernel

theorem twoDies_oxTiming {home : Nat} (h : home = 1 ∨ home = 3) : ((twoDies home).oxTiming 0 0x40 (((twoDies home).strand 0).rc 2)
    (((twoDies home).strand 0).rc 2) (twoDies home).copyStream).1 = Config.oxRemoteSource 0 := by
  have hfirst : ((twoDies home).copyStream.findSome? fun y => y.dst) = some 4095 ∧
      ((twoDies home).copyStream.findSome? fun y => y.src) = some 4096 ∧
      (twoDies home).capAddr 0 (((twoDies home).strand 0).rc 2) 4095 = .at_ (devAddr 0 0 home 4095) ∧
      (twoDies home).capAddr 0 (((twoDies home).strand 0).rc 2) 4096 = .at_ (devAddr 0 1 home 0) ∧
      (twoDies home).isRemote 0 (devAddr 0 0 home 4095) = false ∧ (twoDies home).isRemote 0 (devAddr 0 1 home 0) = true := by
    rcases h with rfl | rfl <;> decide +kernel
  obtain ⟨hdst, hsrc, ha, hx, hnear, hfar⟩ := hfirst
  exact State.oxTiming_remote_source (by decide) hdst ha hnear hsrc hx hfar

theorem firstDue_twoDies : firstDue (exec copyWithin (twoDies 1)) = some 84 ∧ firstDue (exec copyWithin (twoDies 3)) = some 324 := by
  decide +kernel

theorem oxRemoteSource_of_timedOxWords (hrule : Rule.TimedOxWords) {home : Nat} (h : home = 1 ∨ home = 3) :
    firstDue (exec copyWithin (twoDies home)) = some (Config.oxRemoteSource 0) := by
  rw [firstDue_of_timedOxWords hrule rfl (twoDies_copySeats h) (by rcases h with rfl | rfl <;> decide +kernel) rfl, twoDies_oxTiming h]
  exact congrArg some (Nat.zero_add _)

end Sys2Proof.Machine
end

section
/-! SUPPORT. The obligation on the Ox words. -/

open Sys2Proof Sys2Proof.Machine

/-- Refutes O41: of a timed dense copy whose sides overlap the model seats the stream with its bytes already read, so that L is that of R177's
table, while the statement takes L from `oxTiming` of the stream before. Where the first byte written lies on the strand's die and the first
byte read on another, that is the free value `Config.oxRemoteSource`, of the distance alone (log entry 28): the copies of `twoDies 1` and
`twoDies 3` land 84 and 324 vcy after issue, and that one number would have to be both. -/
theorem not_oxWords : ¬ Obligations.OxWords := by
  rintro ⟨-, hrule⟩
  obtain ⟨hdeep, hdram⟩ := firstDue_twoDies
  have h84 : 84 = Config.oxRemoteSource 0 := Option.some.inj (hdeep.symm.trans (oxRemoteSource_of_timedOxWords hrule (.inl rfl)))
  have h324 : 324 = Config.oxRemoteSource 0 := Option.some.inj (hdram.symm.trans (oxRemoteSource_of_timedOxWords hrule (.inr rfl)))
  omega

end

section
/-! SUPPORT. States that differ in counted meters alone (f09 R252): they translate every address alike, and count bytes into the same sync
words. -/
namespace Sys2Proof.Machine

variable {s t u : State}

/-- Two states differ in the meters of tenants and of timetables alone. -/
def State.SameButMeters (s t : State) : Prop := s.SameButTotals t ∧ ∀ n, ∃ m, t.tenant n = { s.tenant n with meters := m }

theorem State.SameButMeters.trans (h : s.SameButMeters t) (g : t.SameButMeters u) : s.SameButMeters u := by
  obtain ⟨htotals, htenant⟩ := h
  obtain ⟨htotals', htenant'⟩ := g
  refine ⟨htotals.trans htotals', fun n => ?_⟩
  obtain ⟨m, hm⟩ := htenant n
  obtain ⟨m', hm'⟩ := htenant' n
  exact ⟨m', by rw [hm', hm]⟩

/-! ### Counting -/

theorem State.meter_tenant (k i n j : Nat) : ∃ m, (s.meter k i n).tenant j = { s.tenant j with meters := m } := by
  rw [State.meter]
  dsimp only
  split
  · exact ⟨_, rfl⟩
  · by_cases hj : j = k
    · subst hj
      exact ⟨_, State.tenant_setTenant ..⟩
    · exact ⟨_, State.tenant_setTenant_ne hj⟩

theorem State.meter_sameButMeters (k i n : Nat) : s.SameButMeters (s.meter k i n) := by
  obtain ⟨x, hx⟩ := State.meter_frame (s := s) k i n
  exact ⟨⟨x, s.tts, hx, fun j => ⟨(s.tt j).meters, by rw [hx]; rfl⟩⟩, State.meter_tenant k i n⟩

theorem State.meterTt_sameButMeters (k i n : Nat) : s.SameButMeters (s.meterTt k i n) := by
  refine ⟨State.meterTt_frame k i n, fun j => ?_⟩
  obtain ⟨m, hm⟩ := State.meter_tenant (s := s) (s.tt k).tenant i n j
  rw [State.meterTt]
  dsimp only
  split
  · exact ⟨m, hm⟩
  · exact ⟨m, hm⟩

theorem State.meterBytes_sameButMeters (k : Nat) (l : List Nat) (w : Bool) : s.SameButMeters (s.meterBytes k l w) :=
  List.foldlRecOn (motive := s.SameButMeters) _ _ ⟨.rfl', fun n => ⟨(s.tenant n).meters, rfl⟩⟩ fun _ h _ _ =>
    h.trans (State.meterTt_sameButMeters ..)

theorem State.meterMove_sameButMeters (sid : Nat) (l : List Nat) (w timed : Bool) : s.SameButMeters (s.meterMove sid l w timed) :=
  (State.meterBytes_sameButMeters ..).trans ((State.meterTt_sameButMeters ..).trans (State.meterTt_sameButMeters ..))

/-! ### What is the same -/

/-- A part of the state that is neither in the tenants nor in the timetables. -/
theorem State.SameButMeters.keeps {β : Type} (h : s.SameButMeters t) (g : State → β) (hg : ∀ s x y, g (State.withTotals s x y) = g s) :
    g t = g s := by
  obtain ⟨⟨x, y, rfl, -⟩, -⟩ := h
  exact hg s x y

theorem State.SameButMeters.owner (h : s.SameButMeters t) (sid : Nat) : t.owner sid = s.owner sid := by
  obtain ⟨⟨x, y, -, htt⟩, -⟩ := h
  obtain ⟨m, hm⟩ := htt (ttOf sid)
  rw [State.owner, State.ttOfStrand, hm]
  rfl

theorem State.SameButMeters.entryOf (h : s.SameButMeters t) (c : Cap) : t.entryOf c = s.entryOf c := by
  obtain ⟨m, hm⟩ := h.2 (capTid c.bits)
  rw [State.entryOf, State.obj, hm]
  rfl

theorem State.SameButMeters.capAddr (h : s.SameButMeters t) (sid : Nat) (c : Cap) (o : Nat) : t.capAddr sid c o = s.capAddr sid c o := by
  have hentry := h.entryOf c
  obtain ⟨⟨x, y, rfl, htt⟩, -⟩ := h
  obtain ⟨m, hm⟩ := htt (ttOf sid)
  rw [State.capAddr, hentry, State.ttOfStrand, hm]
  rfl

theorem State.SameButMeters.homeOpt (h : s.SameButMeters t) (c : Cap) : t.homeOpt c = s.homeOpt c := by
  rw [State.homeOpt, State.homeOpt, h.entryOf]

theorem State.SameButMeters.addrOf (h : s.SameButMeters t) (sid : Nat) (c : Cap) (o : Nat) : t.addrOf sid c o = s.addrOf sid c o := by
  rw [State.addrOf, State.addrOf, h.capAddr]

theorem State.SameButMeters.jobSync (h : s.SameButMeters t) (j : Job) : t.jobSync j = s.jobSync j := by
  simp only [State.jobSync, State.syncSpec, h.homeOpt, h.addrOf]

theorem State.SameButMeters.untimedWrite (h : s.SameButMeters t) (n : Nat) (l : List (Nat × Byte)) :
    (s.untimedWrite n l).SameButMeters (t.untimedWrite n l) := by
  obtain ⟨⟨x, y, rfl, htt⟩, htenant⟩ := h
  exact ⟨⟨x, y, rfl, htt⟩, htenant⟩

end Sys2Proof.Machine
end

section
/-! SUPPORT. Bytes that a Hen's routine writes for its request: where they stand, and the sync word they count into (f07 R198, R199, f19
R403). -/
namespace Sys2Proof.Machine

variable {s t : State}

/-! ### A run of bytes -/

theorem mem_runAt {a : Nat} {bytes : List Byte} {e : Nat × Byte} : e ∈ runAt a bytes ↔ ∃ i, bytes[i]? = some e.2 ∧ e.1 = a + i := by
  simp only [runAt, List.mem_map]
  constructor
  · rintro ⟨⟨b, i⟩, hb, rfl⟩
    exact ⟨i, List.mem_zipIdx_iff_getElem?.mp hb, rfl⟩
  · rintro ⟨i, hb, he⟩
    exact ⟨(e.2, i), List.mem_zipIdx_iff_getElem?.mpr hb, Prod.ext he.symm rfl⟩

theorem State.untimedWrite_runAt_in {n x i : Nat} {bytes : List Byte} (hclear : ∀ w ∈ s.arming, w.1 + 32 ≤ x ∨ x + bytes.length ≤ w.1)
    (hi : i < bytes.length) : (s.untimedWrite n (runAt x bytes)).mem.read (x + i) = bytes.getD i 0 := by
  refine Memory.read_writeAll (fun e he hx => ?_) (.inl (List.mem_filter.mpr ⟨mem_runAt.mpr ⟨i, ?_, rfl⟩, ?_⟩))
  · obtain ⟨k, hk, hat⟩ := mem_runAt.mp (List.mem_filter.mp he).1
    obtain rfl : k = i := by omega
    rw [List.getD_eq_getElem?_getD, hk, Option.getD_some]
  · rw [List.getD_eq_getElem _ _ hi, List.getElem?_eq_getElem hi]
  · simp only [Bool.not_eq_true', List.any_eq_false, Bool.and_eq_true, decide_eq_true_eq, not_and]
    intro w hw
    have := hclear w hw
    omega

theorem State.untimedWrite_runAt_out {n x y : Nat} {bytes : List Byte} (hy : y < x ∨ x + bytes.length ≤ y) :
    (s.untimedWrite n (runAt x bytes)).mem.read y = s.mem.read y := by
  refine Memory.read_writeAll_out fun e he hx => ?_
  obtain ⟨k, hk, hat⟩ := mem_runAt.mp (List.mem_filter.mp he).1
  have := (List.getElem?_eq_some_iff.mp hk).1
  omega

/-! ### The count at a sync word -/

theorem State.syncArrive_mem (a m : Nat) : ∃ word, (s.syncArrive a m).mem = s.mem.writeN a (bytesOf 32 word) := by
  unfold State.syncArrive
  dsimp only
  split <;> exact ⟨_, rfl⟩

theorem State.syncArrive_hens (a m : Nat) : (s.syncArrive a m).hens = s.hens := by
  unfold State.syncArrive
  dsimp only
  split <;> rfl

theorem State.countAt_hens (sid : Nat) (a : Option Nat) (n : Nat) : (s.countAt sid a n).hens = s.hens := by
  unfold State.countAt
  split
  · rfl
  · split
    · rfl
    · split
      · rfl
      · exact State.syncArrive_hens ..

theorem State.countAt_read {sid n y : Nat} {a : Option Nat} (hy : ∀ w, a = some w → y < w ∨ w + 32 ≤ y) :
    (s.countAt sid a n).mem.read y = s.mem.read y := by
  unfold State.countAt
  split
  · rfl
  next w =>
    split
    · rfl
    · split
      · rfl
      · obtain ⟨word, hmem⟩ := State.syncArrive_mem (s := s) w n
        rw [hmem, Memory.read_writeN_out (by rw [bytesOf_length]; exact hy w rfl)]

end Sys2Proof.Machine
end

section
/-! SUPPORT. What a Hen's routine writes and reads, and the end of its request (f07 R199, f18 R359, R360). -/
namespace Sys2Proof.Machine

variable {s t u : State} {port x : Nat} {r : HenReq} {bytes : List Byte}

/-! ### Writing -/

theorem State.SameButMeters.mem (h : s.SameButMeters t) : t.mem = s.mem := h.keeps State.mem fun _ _ _ => rfl

theorem State.SameButMeters.hen (h : s.SameButMeters t) (k : Nat) : t.hen k = s.hen k := h.keeps (State.hen · k) fun _ _ _ => rfl

theorem State.SameButMeters.job (h : s.SameButMeters t) (k : Nat) : t.job k = s.job k := h.keeps (State.job · k) fun _ _ _ => rfl

theorem State.SameButMeters.arming (h : s.SameButMeters t) : t.arming = s.arming := h.keeps State.arming fun _ _ _ => rfl

/-- Bytes written after others were counted are written all the same. -/
theorem State.SameButMeters.henStores (h : s.SameButMeters u) : HenStores u t x r bytes = HenStores s t x r bytes := by
  simp only [HenStores, h.job, h.owner, h.arming, h.mem, (h.untimedWrite _ _).jobSync]

theorem State.jobWrite_henStores (hfrom : r.from_ = none) : HenStores s (s.jobWrite r.job (runAt x bytes)) x r bytes := by
  have hm := State.meterMove_sameButMeters (s := s.untimedWrite (s.owner (s.job r.job).sid) (runAt x bytes)) (s.job r.job).sid
    ((runAt x bytes).map (·.1)) true false
  have hjob : (s.untimedWrite (s.owner (s.job r.job).sid) (runAt x bytes)).job r.job = s.job r.job := rfl
  simp only [HenStores, State.jobWrite, State.countJob, hm.job, hm.jobSync, hjob, hfrom, Option.isSome_none, Bool.false_eq_true, if_false]
  refine ⟨fun ⟨hclear, hsync⟩ i hi => ?_, fun y hy hsync => ?_⟩
  · rw [State.countAt_read fun w hw => by have := hsync w hw; omega, hm.mem, State.untimedWrite_runAt_in hclear hi]
  · rw [State.countAt_read hsync, hm.mem, State.untimedWrite_runAt_out hy]

theorem State.farWrite_henStores {n k i m : Nat} (hfrom : r.from_.isSome = true) (hmem : u.mem = s.mem) (harming : u.arming = s.arming) :
    HenStores s ((u.untimedWrite n (runAt x bytes)).meter k i m) x r bytes := by
  simp only [HenStores, hfrom, if_true, (State.meter_sameButMeters k i m).mem]
  refine ⟨fun ⟨hclear, _⟩ i hi => ?_, fun y hy _ => ?_⟩
  · exact State.untimedWrite_runAt_in (by rw [harming]; exact hclear) hi
  · rw [State.untimedWrite_runAt_out hy, hmem]

theorem State.henWrite_henStores (hcur : (s.hen port).cur = some r) : HenStores s (s.henWrite port x bytes) x r bytes := by
  simp only [State.henWrite, hcur]
  split
  next hfrom => exact State.farWrite_henStores hfrom rfl rfl
  next hfrom => exact State.jobWrite_henStores (by simpa using hfrom)

theorem State.jobWrite_hen (jid k : Nat) (l : List (Nat × Byte)) : (s.jobWrite jid l).hen k = s.hen k := by
  rw [State.hen, State.jobWrite, State.countJob, State.countAt_hens]
  exact (State.meterMove_sameButMeters ..).hen k

/-- A write leaves its Hen alone but for what it counts for another package's request. -/
theorem State.henWrite_hen (hcur : (s.hen port).cur = some r) :
    ((s.henWrite port x bytes).hen port).d = (s.hen port).d ∧ ((s.henWrite port x bytes).hen port).rb = (s.hen port).rb ∧
      (r.from_ = none → (s.henWrite port x bytes).hen port = s.hen port) := by
  simp only [State.henWrite, hcur]
  split
  next hfrom =>
    have hhen (u : State) (n k i m : Nat) (l : List (Nat × Byte)) : ((u.untimedWrite n l).meter k i m).hen port = u.hen port :=
      (State.meter_sameButMeters k i m).hen port
    rw [hhen, State.hen_setHen]
    exact ⟨rfl, rfl, fun hnone => by simp [hnone] at hfrom⟩
  next => simp only [State.jobWrite_hen, and_self, implies_true]

/-! ### Reading -/

theorem State.henCountRead_sameButMeters (n : Nat) : s.SameButMeters (s.henCountRead port x n) := by
  unfold State.henCountRead
  split
  · split
    · exact State.meter_sameButMeters ..
    · exact State.meterBytes_sameButMeters ..
  · exact ⟨.rfl', fun n => ⟨(s.tenant n).meters, rfl⟩⟩

/-- A word whose register names an address that its request covers works on that address. -/
theorem State.henLine_eq {a : BitVec 6} {n : Nat} {f : Nat → State} (ha : a.toNat < 32) (hcur : (s.hen port).cur = some r)
    (haddr : s.henAddr port ((s.hen port).rd a.toNat) = some x) (hx : x % n = 0) (hcovers : r.covers x = true) :
    s.henLine port a n f = f x := by
  simp only [State.henLine, if_neg (Nat.not_le.mpr ha), haddr, hcur, hx, hcovers, and_self, if_true]

/-! ### The end of a request -/

theorem State.henEnd_frame (hcur : (s.hen port).cur = some r) (status : Nat) :
    ((s.henEnd port status).hen port).cur = none ∧ ((s.henEnd port status).hen port).replied = none ∧ (s.henEnd port status).mem = s.mem ∧
      (r.from_ = none → ((s.henEnd port status).job r.job).hens = (s.job r.job).hens - 1) := by
  simp only [State.henEnd, hcur]
  split
  next from_ hfrom =>
    have hhen (u : State) (y st data) : (u.henReply port y st data).hen port = u.hen port := rfl
    have hmem (u : State) (y st data) : (u.henReply port y st data).mem = u.mem := rfl
    simp [hhen, hmem, hfrom]
  next => simp

theorem bufBytes_length (rb : List (BitVec 64)) : (bufBytes rb).length = 128 := by
  simp [bufBytes, bytesOf_length]

end Sys2Proof.Machine
end

section
/-! SUPPORT. What HCMP leaves in its Hen (f18 R356). -/
namespace Sys2Proof.Machine

theorem Hen.rd_wd_self {h : Hen} {r : Nat} {v : BitVec 64} (hr : r ≠ 0) : (h.wd r v).rd r = v := by
  simp [Hen.wd, Hen.rd, hr]

theorem Hen.wd_buf {h : Hen} (r : Nat) (v : BitVec 64) (i : Nat) : (h.wd r v).buf i = h.buf i := by
  unfold Hen.wd
  split <;> rfl

/-- The buffer of `h` with words k, k + 1, … k + n - 1 those of `old`. -/
def Hen.bufRead (h : Hen) (n k : Nat) (old : List (BitVec 64)) : List (BitVec 64) :=
  (List.range 16).map fun i => if k ≤ i ∧ i < k + n then old.getD (i - k) 0 else h.buf i

/-- What HCMP leaves at its Hen: the words read in the buffer `h` had, and its verdict in register d. -/
def State.compared (s : State) (port n k : Nat) (old : List (BitVec 64)) (h : Hen) (d : Nat) (v : BitVec 64) : State :=
  s.setHen port ({ s.hen port with rb := h.bufRead n k old }.wd d v)

variable {s : State} {port n k d : Nat} {old : List (BitVec 64)} {h : Hen} {v : BitVec 64}

theorem State.compared_rd (hd : d ≠ 0) : ((s.compared port n k old h d v).hen port).rd d = v := by
  rw [State.compared, State.hen_setHen, Hen.rd_wd_self hd]

theorem State.compared_buf {i : Nat} (hi : i < n) (hk : k + n ≤ 16) :
    ((s.compared port n k old h d v).hen port).buf (k + i) = old.getD i 0 := by
  rw [State.compared, State.hen_setHen, Hen.wd_buf]
  have hin : k + i < 16 := by omega
  simp [Hen.buf, Hen.bufRead, hin, hi]

end Sys2Proof.Machine
end

section
/-! PROOF. What each word of a Hen alone does, and the taking of a request (f07 R188, R189, R196, f18 R355..R361). -/
namespace Sys2Proof.Machine

variable {s : State} {port x : Nat} {r : HenReq} {a b d k : BitVec 6}

/-- HEN_REQUEST (R196). -/
theorem exec_henRequest {tenant : Nat} {rest : List HenReq} (hturn : s.turn (henServer port) = some tenant)
    (hcur : (s.hen (port * 256 + tenant)).cur = none) (hqueue : (s.hen (port * 256 + tenant)).queue = r :: rest)
    (hready : ∀ x ∈ s.reqBytes r, s.byteReady (s.job r.job).sid x.1 x.2 = true)
    (hstay : ∀ x ∈ s.reqAddrs (port * 256 + tenant) r, s.migratingAt x = false) :
    exec (.henRequest port) s =
      .next ((s.setHen (port * 256 + tenant) { s.hen (port * 256 + tenant) with queue := rest }).serve (port * 256 + tenant) r) := by
  have hmigrating : (s.reqAddrs (port * 256 + tenant) r).any s.migratingAt = false := List.any_eq_false.mpr fun x hx => by simp [hstay x hx]
  have hall : ((s.reqBytes r).all fun x => s.byteReady (s.job r.job).sid x.1 x.2) = true := List.all_eq_true.mpr hready
  change execHenRequest port s = _
  simp only [execHenRequest, hturn, hcur, hqueue, hmigrating, hall, Bool.false_eq_true, if_false, if_true]

/-- HREPLY (R360). -/
theorem exec_hreply (hagent : s.cur = .hen port) (ha : a.toNat < 32) (hb : b.toNat < 32) : let h := s.hen port
    (h.replied = none → exec (.hreply a b) s = .next (s.setHen port { h with
      replied := some ((h.rd a.toNat).toNat % 128, [h.buf 0, h.buf 1, h.buf 2, h.buf 3, h.rd b.toNat]) })) ∧
    (h.replied ≠ none → exec (.hreply a b) s = .next s) := by
  have hregs : ¬ (32 ≤ a.toNat ∨ 32 ≤ b.toNat) := by omega
  change (_ → execHreply a b s = _) ∧ (_ → execHreply a b s = _)
  simp only [execHreply, henOnly_hen hagent, if_neg hregs]
  refine ⟨fun hnone => by rw [hnone], fun hsome => ?_⟩
  obtain ⟨y, hy⟩ := Option.ne_none_iff_exists'.mp hsome
  rw [hy]

/-- HNEXT (R359). -/
theorem exec_hnext (hagent : s.cur = .hen port) (hcur : (s.hen port).cur = some r) : ∃ t, exec .hnext s = .next t ∧
    (t.hen port).cur = none ∧ (t.hen port).replied = none ∧ t.mem = s.mem ∧
    (r.from_ = none → (t.job r.job).hens = (s.job r.job).hens - 1) :=
  ⟨s.henEnd port 0, henOnly_hen hagent, State.henEnd_frame hcur 0⟩

/-- HCOMMIT (R357). -/
theorem exec_hcommit (hagent : s.cur = .hen port) (hcur : (s.hen port).cur = some r) (ha : a.toNat < 32) :
    let v := ((s.hen port).rd a.toNat).toNat % 2 ^ 32
    exec (.hcommit a) s = .next (s.commitAt port (if r.tt % 2 ^ 32 = v then r.tt else v)) := by
  change execHcommit a s = _
  simp only [execHcommit, henOnly_hen hagent, if_neg (Nat.not_le.mpr ha), hcur]

section
variable (hagent : s.cur = .hen port) (hcur : (s.hen port).cur = some r) (ha : a.toNat < 32)
  (haddr : s.henAddr port ((s.hen port).rd a.toNat) = some x) (hcovers : r.covers x = true)
include hagent hcur ha haddr hcovers

/-- HSTL (R358). -/
theorem exec_hstl (hx : x % 128 = 0) : exec (.hstl a) s = .next (s.henWrite port x (bufBytes (s.hen port).rb)) := by
  change execHstl a s = _
  rw [execHstl, henOnly_hen hagent, State.henLine_eq ha hcur haddr hx hcovers]

/-- HADDL of a type that there is (R355). -/
theorem exec_haddl {ty : BitVec 12} (hty : ty.toNat ≤ 2) (hx : x % 128 = 0) : exec (.haddl a ty) s =
    .next (s.henWrite port x (accBytes ty.toNat 128 (s.mem.readN x 128) (bufBytes (s.hen port).rb))) := by
  change execHaddl a ty s = _
  rw [execHaddl, henOnly_hen hagent, if_neg (Nat.not_lt.mpr hty), State.henLine_eq ha hcur haddr hx hcovers]

/-- HLDL (R358). -/
theorem exec_hldl (hx : x % 128 = 0) : ∃ t, exec (.hldl a) s = .next t ∧ t.mem = s.mem ∧
    (t.hen port).rb = wordsOf (s.mem.readN x 128) ∧ (t.hen port).d = (s.hen port).d := by
  have hread := State.henCountRead_sameButMeters (s := s) (port := port) (x := x) 128
  let u := s.henCountRead port x 128
  refine ⟨u.setHen port { u.hen port with rb := wordsOf (u.mem.readN x 128) }, ?_, hread.mem, ?_, ?_⟩
  · change execHldl a s = _
    rw [execHldl, henOnly_hen hagent, State.henLine_eq ha hcur haddr hx hcovers]
  · rw [State.hen_setHen, hread.mem]
  · rw [State.hen_setHen, hread.hen]

/-- HSTAGE (R361). -/
theorem exec_hstage (hx : x % 128 = 0) (hb : b.toNat < 32) (hk : k.toNat ≤ 2)
    (hroom : (s.hen port).stagedBytes r.tenant + 160 ≤ (s.tenant r.tenant).stagePart) : let h := s.hen port
    ∃ t e, exec (.hstage a b k) s = .next t ∧ (t.hen port).staged = h.staged ++ [e] ∧ e.at_ = (List.range 128).map (x + ·) ∧
      (t.hen port).cur = some { r with lines := r.lines + 1 } ∧ e.ty = k.toNat ∧ e.tt = r.tt ∧
      e.strand = (h.rd b.toNat).toNat % 2 ^ 32 ∧ e.order = (h.rd b.toNat).toNat / 2 ^ 32 ∧ e.bytes = bufBytes h.rb ∧ t.mem = s.mem := by
  intro h
  let e : Staged := ⟨(List.range 128).map (x + ·), k.toNat, r.tt, (h.rd b.toNat).toNat % 2 ^ 32, (h.rd b.toNat).toNat / 2 ^ 32, r.tenant,
    bufBytes h.rb, if r.from_.isSome then none else s.jobSync (s.job r.job)⟩
  have hstage : s.stageLine port e = some (s.setHen port { h with staged := h.staged ++ [e] }) := if_neg (Nat.not_lt.mpr hroom)
  have hregs : ¬ (2 < k.toNat ∨ 32 ≤ b.toNat) := by omega
  refine ⟨(s.setHen port { h with staged := h.staged ++ [e] }).setHen port
    { h with staged := h.staged ++ [e], cur := some { r with lines := r.lines + 1 } }, e, ?_, ?_, rfl, ?_, rfl, rfl, rfl, rfl, rfl, rfl⟩
  · change execHstage a b k s = _
    simp only [execHstage, henOnly_hen hagent, if_neg hregs]
    rw [State.henLine_eq ha hcur haddr hx hcovers]
    simp only [hcur]
    rw [hstage]
    simp [h]
  · simp
  · simp

/-- HCMP (R356), up to what is left in the Hen: it writes where the words agree, and leaves the words it read in the buffer. -/
theorem exec_hcmp_eq : let h := s.hen port
    let n := (h.rd b.toNat).toNat
    let old := wordsOf (s.mem.readN x (8 * n))
    let new := (List.range n).flatMap fun i => bytesOf 8 (h.buf (k.toNat + n + i)).toNat
    let u := s.henCountRead port x (8 * n)
    b.toNat < 32 → d.toNat < 32 → 0 < n → n ≤ 8 → (h.rd a.toNat).toNat % 8 = 0 → (h.rd a.toNat).toNat % 128 + 8 * n ≤ 128 →
    k.toNat + 2 * n ≤ 16 → x % 8 = 0 →
    ((∀ i < n, old.getD i 0 = h.buf (k.toNat + i)) →
      exec (.hcmp d a b k) s = .next ((u.henWrite port x new).compared port n k.toNat old h d.toNat 1)) ∧
    (¬ (∀ i < n, old.getD i 0 = h.buf (k.toNat + i)) →
      exec (.hcmp d a b k) s = .next (u.compared port n k.toNat old h d.toNat 0)) := by
  intro h n old new u hb hd hpos hn halign hline hbuf hx
  have hregs : ¬ (32 ≤ d.toNat ∨ 32 ≤ a.toNat ∨ 32 ≤ b.toNat) := by omega
  have hcount : ¬ (n = 0 ∨ 8 < n ∨ (h.rd a.toNat).toNat % 8 ≠ 0 ∨ 128 < (h.rd a.toNat).toNat % 128 + 8 * n ∨ 16 < k.toNat + 2 * n) := by omega
  have heq : ((List.range n).all fun i => old.getD i 0 == h.buf (k.toNat + i)) = true ↔ ∀ i < n, old.getD i 0 = h.buf (k.toNat + i) := by
    simp
  change (_ → execHcmp d a b k s = _) ∧ (_ → execHcmp d a b k s = _)
  rw [execHcmp, henOnly_hen hagent]
  dsimp only
  rw [if_neg hregs, if_neg hcount, State.henLine_eq ha hcur haddr hx hcovers]
  refine ⟨fun hsame => ?_, fun hdiffer => ?_⟩
  · rw [if_pos (heq.mpr hsame), if_pos (heq.mpr hsame)]
    rfl
  · rw [if_neg (mt heq.mp hdiffer), if_neg (mt heq.mp hdiffer)]
    rfl

/-- HCMP (R356). -/
theorem exec_hcmp : let h := s.hen port
    let n := (h.rd b.toNat).toNat
    let old := wordsOf (s.mem.readN x (8 * n))
    b.toNat < 32 → d.toNat < 32 → 0 < n → n ≤ 8 → (h.rd a.toNat).toNat % 8 = 0 → (h.rd a.toNat).toNat % 128 + 8 * n ≤ 128 →
    k.toNat + 2 * n ≤ 16 → x % 8 = 0 →
    ((∀ i < n, old.getD i 0 = h.buf (k.toNat + i)) → ∃ t, exec (.hcmp d a b k) s = .next t ∧
      (d ≠ 0 → (t.hen port).rd d.toNat = 1) ∧ (∀ i < n, (t.hen port).buf (k.toNat + i) = old.getD i 0) ∧
      HenStores s t x r ((List.range n).flatMap fun i => bytesOf 8 (h.buf (k.toNat + n + i)).toNat)) ∧
    (¬ (∀ i < n, old.getD i 0 = h.buf (k.toNat + i)) → ∃ t, exec (.hcmp d a b k) s = .next t ∧
      (d ≠ 0 → (t.hen port).rd d.toNat = 0) ∧ t.mem = s.mem ∧ ∀ i < n, (t.hen port).buf (k.toNat + i) = old.getD i 0) := by
  intro h n old hb hd hpos hn halign hline hbuf hx
  obtain ⟨hsame, hdiffer⟩ := exec_hcmp_eq hagent hcur ha haddr hcovers hb hd hpos hn halign hline hbuf hx
  have hread := State.henCountRead_sameButMeters (s := s) (port := port) (x := x) (8 * n)
  have hfits : k.toNat + n ≤ 16 := by omega
  have hd0 (h0 : d ≠ 0) : d.toNat ≠ 0 := fun h => h0 (BitVec.eq_of_toNat_eq h)
  refine ⟨fun heq => ⟨_, hsame heq, fun h0 => State.compared_rd (hd0 h0), fun i hi => State.compared_buf hi hfits, ?_⟩,
    fun hne => ⟨_, hdiffer hne, fun h0 => State.compared_rd (hd0 h0), hread.mem, fun i hi => State.compared_buf hi hfits⟩⟩
  rw [← hread.henStores]
  exact State.henWrite_henStores (by rw [hread.hen]; exact hcur)

end

end Sys2Proof.Machine
end

section
open Sys2Proof Sys2Proof.Machine

/-- The words of a Hen on whole lines, its reply and the end of its request (R188, R196, R355, R358..R360). -/
theorem henWords : Rule.HenWords := by
  refine ⟨fun s port tenant r hturn rest hcur hqueue hready hstay => exec_henRequest hturn hcur hqueue hready hstay, ?_⟩
  intro s port x r a b ty h hagent hcur ha kept
  refine ⟨fun haddr hx hcovers => ⟨exec_hldl hagent hcur ha haddr hcovers hx, ?_, fun hty => ?_, fun hty => ?_⟩,
    fun hb => exec_hreply hagent ha hb, exec_hnext hagent hcur⟩
  · exact ⟨_, exec_hstl hagent hcur ha haddr hcovers hx, State.henWrite_hen hcur, bufBytes_length _, State.henWrite_henStores hcur⟩
  · exact ⟨_, exec_haddl hagent hcur ha haddr hcovers hty hx, State.henWrite_hen hcur, State.henWrite_henStores hcur⟩
  · change execHaddl a ty s = _
    rw [execHaddl, henOnly_hen hagent]
    exact congrArg _ (if_pos hty)

/-- HCMP, HSTAGE and HCOMMIT (R189, R356, R357, R361). -/
theorem henAtomicWords : Rule.HenAtomicWords := by
  intro s port x r d a b k h n old hagent hcur ha hb haddr
  exact ⟨fun hd hpos hn halign hline hbuf hx hcovers =>
      exec_hcmp hagent hcur ha haddr hcovers hb hd hpos hn halign hline hbuf hx,
    fun hk hx hcovers hroom => exec_hstage hagent hcur ha haddr hcovers hx hb hk hroom, exec_hcommit hagent hcur ha⟩

/-- Settles O42: HEN_REQUEST and each word of a Hen by the equation of its execution; what a write does to memory is `State.henWrite_henStores`:
the bytes perform first, then those of this package's own request count into its sync word, whose address the counting of meters does not
change (`State.SameButMeters.jobSync`). -/
theorem henRoutines : Obligations.HenRoutines := ⟨henWords, henAtomicWords⟩

end

section
/-! SUPPORT. What a router and a bridge make of a flit (f08 R206..R208). -/
namespace Sys2Proof.Machine

variable {s : State} {f : Flit} {x : Seated}

/-- The state without a flit that has left a seat. -/
def State.unseat (s : State) (station : Nat) (x : Seated) : State :=
  { s with flits := SMap.set [] s.flits station ((SMap.get [] s.flits station).erase x) }

/-! ### Routers -/

section
variable {router port lane : Nat}
  (hfind : ((SMap.get [] s.flits router).find? fun y =>
    y.port == port && y.lane == lane && decide (y.at_ < s.gclk.toNat) && s.holds 0x08 router y.flit) = some x)
  (hreserved : ∀ o < 8, ¬ (8 ≤ selOf (s.entryNow s.routers router) o ∧ selOf (s.entryNow s.routers router) o < 15))
include hfind hreserved

/-- A flit in turn that finds room leaves its seat: for the outputs its entry connects, or, with none, dropped and counted. -/
theorem execRouterFlit_eq : let outs := (List.range 8).filter fun o => selOf (s.entryNow s.routers router) o == port
    (∀ o ∈ outs, s.outRoom router o x.flit = true) → execRouterFlit router port lane s = .next
      (if outs.isEmpty then (s.unseat router x).routerError router
      else outs.foldl (fun s o => s.flitOut router o x.flit) (s.unseat router x)) := by
  intro outs hroom
  have hfull : (outs.any fun o => !s.outRoom router o x.flit) = false :=
    List.any_eq_false.mpr fun o ho => by simp [hroom o ho]
  have hnone : ((List.range 8).any fun o => decide (8 ≤ selOf (s.entryNow s.routers router) o ∧
      selOf (s.entryNow s.routers router) o < 15)) = false :=
    List.any_eq_false.mpr fun o ho => by simpa using hreserved o (List.mem_range.mp ho)
  unfold execRouterFlit
  dsimp only
  rw [hfind]
  dsimp only
  rw [hfull, hnone]
  exact (apply_ite Host.Outcome.next ..).symm

end

/-! ### Bridges -/

section
variable {src dst lane : Nat}
  (hfind : ((SMap.get [] s.flits (bridgeStage src dst)).find? fun y => y.lane == lane && y.flit == f) = some x)
include hfind

/-- Two wrong bits of a circuit's flit: its bytes are lost. -/
theorem execBridgeFlit_lost {errs : Nat} (herrs : 2 ≤ errs) (howner : f.owner ≠ 0) :
    execBridgeFlit src dst lane f errs s = .next ((s.unseat (bridgeStage src dst) x).loseFlit f) := by
  unfold execBridgeFlit
  dsimp only
  rw [hfind, if_pos herrs, if_pos howner, if_neg (by omega)]
  rfl

/-- At most one wrong bit: counted where there is one, and the flit stands behind the bridge where its owner's entry carries it. -/
theorem execBridgeFlit_carried {errs : Nat} (herrs : errs ≤ 1) :
    let t := if errs = 1 then (s.unseat (bridgeStage src dst) x).countError 10 (src * 8 + dst) else s.unseat (bridgeStage src dst) x
    execBridgeFlit src dst lane f errs s = .next
      (if s.holds 0x09 (bridgeNo src dst) f = true ∧ connects (s.entryNow s.bridges (bridgeNo src dst)) = true then
        t.seat (bridgeSeat dst src).1 (bridgeSeat dst src).2 1 f else t) := by
  intro t
  have hholds : t.holds 0x09 (bridgeNo src dst) f = s.holds 0x09 (bridgeNo src dst) f := by
    unfold t; split <;> rfl
  have hentry : t.entryNow t.bridges (bridgeNo src dst) = s.entryNow s.bridges (bridgeNo src dst) := by
    unfold t; split <;> rfl
  have hexec : execBridgeFlit src dst lane f errs s =
      if t.holds 0x09 (bridgeNo src dst) f = false ∨ connects (t.entryNow t.bridges (bridgeNo src dst)) = false then .next t
      else .next (t.seat (bridgeSeat dst src).1 (bridgeSeat dst src).2 1 f) := by
    unfold execBridgeFlit
    dsimp only
    rw [hfind, if_neg (show ¬ 2 ≤ errs by omega)]
    rfl
  rw [hexec, hholds, hentry, ← apply_ite Host.Outcome.next]
  by_cases hon : s.holds 0x09 (bridgeNo src dst) f = true ∧ connects (s.entryNow s.bridges (bridgeNo src dst)) = true
  · obtain ⟨hturn, hconnects⟩ := hon
    simp [hturn, hconnects]
  · rw [if_neg hon, if_pos (by simpa [Classical.or_iff_not_imp_left] using hon)]

end

end Sys2Proof.Machine
end

section
/-! SUPPORT. What a link makes of a frame, and links that are lost or trained (f08 R210..R215). -/
namespace Sys2Proof.Machine

variable {s t u : State} {n : Nat} {fr : Frame}

@[simp] theorem State.setLink_strands (n : Nat) (l : Link) : (s.setLink n l).strands = s.strands := rfl
@[simp] theorem State.setLink_mem (n : Nat) (l : Link) : (s.setLink n l).mem = s.mem := rfl
@[simp] theorem State.setLink_trained (n : Nat) (l : Link) : (s.setLink n l).trained = s.trained := rfl

/-! ### Frames -/

/-- What a link tells of its neighbour: OREF, the timestamp, the stop bits, and the counters' flit last noted. -/
def Link.told (l : Link) : Int × Nat × List Nat × (Nat × Nat) := (l.oref, l.sentAt, l.stops, l.exch)

/-- The state after a good frame has the sender's control flit, with its strands and memory as they were. -/
def FrameTaken (s : State) (n : Nat) (fr : Frame) (t : State) : Prop :=
  t.strands = s.strands ∧ t.mem = s.mem ∧ (t.link n).oref = fr.oref ∧ (t.link n).sentAt = fr.sentAt ∧ (t.link n).stops = fr.stop ∧
    (t.link n).exch = if fr.sentAt % 2 ^ 20 = 0 then (fr.sentAt, s.gclk.toNat) else (s.link n).exch

/-- A later change keeps what a frame brought where it keeps the strands, memory and what the link was told. -/
theorem FrameTaken.of_told (h : FrameTaken s n fr t) (hstrands : u.strands = t.strands) (hmem : u.mem = t.mem)
    (htold : (u.link n).told = (t.link n).told) : FrameTaken s n fr u := by
  simp only [Link.told, Prod.mk.injEq] at htold
  obtain ⟨horef, hsent, hstops, hexch⟩ := htold
  simpa only [FrameTaken, hstrands, hmem, horef, hsent, hstops, hexch] using h

/-- No flit dropped, and no more than 2^10 before: only the count of the interval changes. -/
theorem State.linkDrops_zero (h : (s.link n).drops ≤ 2 ^ 10) : s.linkDrops n 0 = s.setLink n ((s.link n).drop s.gclk.toNat 0) := by
  have hfew : ¬ 2 ^ 10 < ((s.link n).drop s.gclk.toNat 0).drops := by
    unfold Link.drop
    split
    · exact Nat.not_lt.mpr h
    · exact Nat.not_lt_zero _
  exact if_neg hfew

theorem Link.drop_told (l : Link) (g k : Nat) : (l.drop g k).told = l.told := by
  unfold Link.drop
  split <;> rfl

/-- A good frame without a barrier message whose flits are all good: its control flit is taken, and its untimed messages are left to take. -/
theorem execLinkFrame_good (htrained : (s.link n).trained = true) (hcrc : fr.crcOk = true) (hbarrier : fr.barrier = none)
    (hbad : fr.bad = []) (hlanes : ∀ x ∈ fr.lanes, x.1 < 12) (hdrops : (s.link n).drops ≤ 2 ^ 10) : ∃ t,
    execLinkFrame n fr s = .next (fr.posts.foldl (fun s f => s.postFlit n false f) t) ∧ FrameTaken s n fr t ∧
      t.post = s.post ∧ t.pkg = s.pkg := by
  have hgood : (fr.lanes.filter fun x => !fr.bad.contains x.1 && decide (x.1 < 12)) = fr.lanes :=
    List.filter_eq_self.mpr fun x hx => by simp [hbad, hlanes x hx]
  have hlost : (fr.posts.countP fun f => fr.bad.contains f.lane) = 0 := by simp [hbad]
  unfold execLinkFrame
  rw [if_neg (by simp [htrained]), if_neg (by simp [hcrc])]
  simp only [hgood, hlost, hbarrier, Nat.sub_self, Nat.add_zero]
  simp only [hbad, List.contains_nil]
  generalize hs1 : s.setLink n _ = s1
  have htaken : FrameTaken s n fr s1 := by
    subst hs1
    simp [FrameTaken, State.link_setLink]
  have hdrop : s1.linkDrops n 0 = s1.setLink n ((s1.link n).drop s1.gclk.toNat 0) :=
    State.linkDrops_zero (by rw [← hs1, State.link_setLink]; exact hdrops)
  rw [hdrop]
  have hseated := foldl_keeps (g := fun u : State => (u.strands, u.mem, u.links, u.post, u.pkg)) (l := fr.lanes)
    (s := (s1.setLink n ((s1.link n).drop s1.gclk.toNat 0)).hearLoss fr.losses)
    (f := fun s x => s.seat (linkStage n) 0 (s.linkLeft x.2 fr.sentAt) x.2) fun _ _ => rfl
  simp only [Prod.mk.injEq] at hseated
  obtain ⟨hstrands, hmem, hlinks, hpost, hpkg⟩ := hseated
  refine ⟨_, rfl, htaken.of_told hstrands hmem ?_, hpost.trans (by subst hs1; rfl), hpkg.trans (by subst hs1; rfl)⟩
  rw [State.link, hlinks]
  exact (congrArg Link.told (State.link_setLink ..)).trans (Link.drop_told ..)

/-- An untimed message of one flit for another package goes on from the link's router. -/
theorem State.postFlit_passes {f : PostFlit} (hno : f.no = 0) (hlast : f.last = true) (hdest : f.dest ≠ s.pkg) :
    s.postFlit n false f = (s.setLink n { s.link n with got := SMap.set 0 (s.link n).got f.tenant 0 }).mail f.dest f.tenant
      (linkSeat n).1 f.msg := by
  have hpasses : ∀ l, (s.setLink n l).delivered n f = (s.setLink n l).mail f.dest f.tenant (linkSeat n).1 f.msg :=
    fun l => if_pos hdest
  simp [State.postFlit, hno, hlast, hpasses]

/-- A message sent on, and the count of a tenant's flits, keep what the frame brought. -/
theorem FrameTaken.mail_setLink (h : FrameTaken s n fr t) (dest tenant router : Nat) (m : Msg) (got : SMap Nat) :
    FrameTaken s n fr ((t.setLink n { t.link n with got := got }).mail dest tenant router m) :=
  h.of_told rfl rfl ((congrArg Link.told (State.link_setLink (s := t) n { t.link n with got := got })).trans rfl)

/-! ### Loss and training -/

theorem State.enterLink_link (key : LinkKey) (transit k : Nat) : (s.enterLink key transit).link k = s.link k := by
  unfold State.enterLink
  split <;> rfl

theorem State.enterLink_trained (key : LinkKey) (transit : Nat) : (s.enterLink key transit).trained = s.trained := by
  unfold State.enterLink
  split <;> rfl

/-- A link lost is no longer trained, neither in the list of links nor at this package's end. -/
theorem execLinkLoss_untrains (key : LinkKey) : ∃ t, execLinkLoss key s = .next t ∧ t.trained = s.trained.erase key ∧
    (key.touches s.pkg = true → (t.link (key.linkAt s.pkg)).trained = false) := by
  have hview := State.dropLink_linkView (s := s) key
  have hpkg : (s.dropLink key).pkg = s.pkg := congrArg LinkView.pkg hview
  have htrained : (s.dropLink key).trained = s.trained := congrArg LinkView.trained hview
  refine ⟨_, rfl, ?_, fun htouches => ?_⟩
  · rw [← htrained]
    split <;> rfl
  · simp only [hpkg, htouches, if_true, State.link_setLink]

/-- A link of this package trained has the transit measured, and is among the trained ones. -/
theorem execLinkTraining_trains {key : LinkKey} (transit : Nat) (hkey : key.a < key.b) (htouches : key.touches s.pkg = true) :
    ∃ t, execLinkTraining key transit s = .next t ∧ key ∈ t.trained ∧ (t.link (key.linkAt s.pkg)).trained = true ∧
      (t.link (key.linkAt s.pkg)).transit = transit := by
  have hexec : execLinkTraining key transit s = .next ((State.setLink
      { s with trained := if s.trained.contains key then s.trained else s.trained ++ [key] } (key.linkAt s.pkg)
      { Link.down with trained := true, transit := transit, since := s.gclk.toNat / 2 ^ 20 }).enterLink key transit) := by
    unfold execLinkTraining
    rw [if_neg (Nat.not_le.mpr hkey)]
    dsimp only
    rw [if_pos htouches]
  refine ⟨_, hexec, ?_, ?_, ?_⟩
  · rw [State.enterLink_trained, State.setLink_trained]
    dsimp only
    split
    next hin => exact List.contains_iff_mem.mp hin
    · exact List.mem_append_right _ List.mem_cons_self
  · rw [State.enterLink_link, State.link_setLink]
  · rw [State.enterLink_link, State.link_setLink]

end Sys2Proof.Machine
end

section
/-! SUPPORT. The obligation on the events of the fabric. -/

open Sys2Proof Sys2Proof.Machine

/-- Settles O48: each clause is what its event does (`execRouterFlit_eq`, `execBridgeFlit_lost`, `execBridgeFlit_carried`,
`execLinkFrame_good` with `State.postFlit_passes`, `execLinkLoss_untrains`, `execLinkTraining_trains`). That a bridge carries a flit where its
entry connects anything is the model's choice (log entry 152). -/
theorem fabricEvents : Obligations.FabricEvents := by
  refine ⟨?router, ?lost, ?carried, ?frame, fun s key => execLinkLoss_untrains key,
    fun s key transit => ⟨fun hkey => if_pos hkey, execLinkTraining_trains transit⟩⟩
  case router =>
    intro s router port lane x hfind s1 e outs hreserved
    have heq := execRouterFlit_eq hfind hreserved
    refine ⟨fun hnone => ?_, fun hsome hroom => ?_⟩
    · refine (heq ?_).trans (congrArg _ (if_pos (List.isEmpty_iff.mpr hnone)))
      exact fun o ho => absurd ho (List.eq_nil_iff_forall_not_mem.mp hnone o)
    · exact (heq hroom).trans (congrArg _ (if_neg (mt List.isEmpty_iff.mp hsome)))
  case lost =>
    intro s src dst lane errs f x herrs howner l hfind
    exact execBridgeFlit_lost hfind herrs howner
  case carried =>
    intro s src dst lane f x l hfind s1 k counted on t
    have hclean := execBridgeFlit_carried hfind (errs := 0) (by decide)
    have hcorrected := execBridgeFlit_carried hfind (errs := 1) (by decide)
    exact ⟨fun hon => ⟨hclean.trans (congrArg _ (if_pos hon)), hcorrected.trans (congrArg _ (if_pos hon))⟩,
      fun hoff => ⟨hclean.trans (congrArg _ (if_neg hoff)), hcorrected.trans (congrArg _ (if_neg hoff))⟩⟩
  case frame =>
    intro s n fr
    refine ⟨fun hdown => if_pos hdown, fun htrained hcrc => ?_, fun htrained hcrc hbarrier hbad hlanes hdrops => ?_⟩
    · exact (if_neg (by simp [htrained])).trans (if_pos hcrc)
    obtain ⟨t, hexec, htaken, hpost, hpkg⟩ := execLinkFrame_good htrained hcrc hbarrier hbad hlanes hdrops
    refine ⟨fun hposts => ⟨t, ?_, htaken, hpost⟩, fun f hposts hno hlast hdest => ?_⟩
    · rw [hposts] at hexec
      exact hexec
    · rw [hposts, List.foldl_cons, List.foldl_nil, State.postFlit_passes hno hlast (by rwa [hpkg])] at hexec
      exact ⟨_, _, hexec, htaken.mail_setLink .., congrArg (· ++ _) hpost, rfl, rfl, rfl⟩

end

section
/-! SUPPORT. The Virbel words of a Mule hart (f09 R244, R245), case by case, and the wake of a sleeping hart. -/
namespace Sys2Proof.Machine

/-! ### What a word leaves in its hart -/

section
variable {h : Hart} {r : Nat} {v : BitVec 64}

@[simp] theorem Hart.wx_pc : (h.wx r v).pc = h.pc := by unfold Hart.wx; split <;> rfl
@[simp] theorem Hart.wx_sleep : (h.wx r v).sleep = h.sleep := by unfold Hart.wx; split <;> rfl

theorem Hart.rx_wx (hr : r ≠ 0) : (h.wx r v).rx r = v := by
  rw [Hart.wx, if_neg hr, Hart.rx, if_neg hr]
  exact SMap.get_set_self

@[simp] theorem Hart.done_pc : (h.done r v).pc = h.pc + 4 := congrArg (· + 4) Hart.wx_pc
@[simp] theorem Hart.done_sleep : (h.done r v).sleep = h.sleep := Hart.wx_sleep
theorem Hart.rx_done (hr : r ≠ 0) : (h.done r v).rx r = v := Hart.rx_wx hr

end

/-! ### The words -/

section
variable {s : State} {n : Fin 32} {r2 r1 rd : BitVec 5} (hcur : s.cur = .hart n)
include hcur

/-- Out of machine mode a Virbel word is illegal. -/
theorem virbel_illegal {f : Fin 32 → State} (hmode : (s.hart n).mode ≠ 3) : virbel s f = .next (s.setHart n ((s.hart n).trap 2 0)) :=
  (hartOnly_hart hcur).trans (congrArg _ (if_neg hmode))

variable (hmode : (s.hart n).mode = 3)
include hmode

theorem virbel_machine {f : Fin 32 → State} : virbel s f = .next (f n) := (hartOnly_hart hcur).trans (congrArg _ (if_pos hmode))

theorem execVbBfx_takes : let h := s.hart n
    let b := h.rx r2.toNat
    bits b 7 6 = 0 → bits b 63 14 = 0 → bits b 5 0 + bits b 13 8 + 1 ≤ 64 → execVbBfx r2 r1 rd s = .next (s.setHart n (h.done rd.toNat
      (BitVec.ofNat 64 ((h.rx r1.toNat).toNat / 2 ^ bits b 5 0 % 2 ^ (bits b 13 8 + 1))))) := by
  intro h b hreserved hreserved' hfits
  have hwell : ¬ (bits b 7 6 ≠ 0 ∨ bits b 63 14 ≠ 0 ∨ 64 < bits b 5 0 + bits b 13 8 + 1) := by omega
  exact (virbel_machine hcur hmode).trans (congrArg _ (if_neg hwell))

theorem execVbBfx_beyond : let h := s.hart n
    let b := h.rx r2.toNat
    64 < bits b 5 0 + bits b 13 8 + 1 → execVbBfx r2 r1 rd s = .next (s.setHart n (h.trap 25 b)) :=
  fun hbeyond => (virbel_machine hcur hmode).trans (congrArg _ (if_pos (.inr (.inr hbeyond))))

theorem execVbSigwait_badMask : let h := s.hart n
    let m := h.rx r1.toNat
    bits m 63 8 ≠ 0 → execVbSigwait r2 r1 rd s = .next (s.setHart n (h.trap 26 m)) :=
  fun hmask => (virbel_machine hcur hmode).trans (congrArg _ (if_pos hmask))

/-- A signal is there, or the word does not wait. -/
theorem execVbSigwait_now : let h := s.hart n
    let m := h.rx r1.toNat
    bits m 63 8 = 0 → s.signals n &&& m ≠ 0 ∨ h.rx r2.toNat = 0 →
      execVbSigwait r2 r1 rd s = .next (s.setHart n (h.done rd.toNat (s.signals n &&& m))) := by
  intro h m hmask hnow
  have hnow' : s.signals n &&& m ≠ 0 ∨ (h.rx r2.toNat).toNat = 0 := hnow.imp_right fun hzero => congrArg BitVec.toNat hzero
  exact (virbel_machine hcur hmode).trans (congrArg _ ((if_neg (not_not_intro hmask)).trans (if_pos hnow')))

theorem execVbSigwait_sleeps : let h := s.hart n
    let m := h.rx r1.toNat
    let b := h.rx r2.toNat
    bits m 63 8 = 0 → s.signals n &&& m = 0 → b ≠ 0 → execVbSigwait r2 r1 rd s = .next (s.setHart n { h with
      sleep := some (rd.toNat, m, s.gclk.toNat + (b.toNat + 1) / 2) }) := by
  intro h m b hmask hnone htime
  have hwaits : ¬ (s.signals n &&& m ≠ 0 ∨ b.toNat = 0) :=
    not_or.mpr ⟨not_not_intro hnone, fun hzero => htime (BitVec.eq_of_toNat_eq hzero)⟩
  exact (virbel_machine hcur hmode).trans (congrArg _ ((if_neg (not_not_intro hmask)).trans (if_neg hwaits)))

theorem execVbRfetch_notServed : let h := s.hart n
    let a := h.rx r1.toNat
    (s.queue (bits a 11 4) (bits a 3 0)).st = 0 ∨ s.servedBy (bits a 11 4) (bits a 3 0) ≠ n.val →
      execVbRfetch r2 r1 rd s = .next (s.setHart n (h.trap 24 a)) :=
  fun hring => (virbel_machine hcur hmode).trans (congrArg _ (if_pos hring))

/-- With RETIRE clear nothing is committed: the word fetches, or with bit 1 does nothing else. -/
theorem execVbRfetch_uncommitted : let h := s.hart n
    let a := h.rx r1.toNat
    let b := h.rx r2.toNat
    let buf := bits b 63 6 * 64
    (s.queue (bits a 11 4) (bits a 3 0)).st ≠ 0 → s.servedBy (bits a 11 4) (bits a 3 0) = n.val → bits b 5 2 = 0 →
    s.inSram buf = true → b.getLsbD 0 = false → execVbRfetch r2 r1 rd s = .next
      (if b.getLsbD 1 then s.setHart n (h.done rd.toNat 0) else s.rfetch n rd.toNat (bits a 11 4) (bits a 3 0) buf false) := by
  intro h a b buf hst hserved hreserved hsram hclear
  refine (virbel_machine hcur hmode).trans (congrArg _ ?_)
  have hretire : (b.getLsbD 0 && !h.retired) = false := by rw [hclear, Bool.false_and]
  have hwell : ¬ (bits b 5 2 ≠ 0 ∨ s.inSram buf = false ∨
      ((b.getLsbD 0 && !h.retired) = true ∧ (s.queue (bits a 11 4) (bits a 3 0)).fetched.isNone = true)) := by
    rw [hretire, hreserved, hsram]
    simp
  refine (if_neg (not_or.mpr ⟨hst, not_not_intro hserved⟩)).trans ((if_neg hwell).trans ?_)
  dsimp only
  cases (s.queue (bits a 11 4) (bits a 3 0)).fetched with
  | none => rw [hclear]
  | some x => rw [hretire, hclear]; rfl

theorem execVbDispatch_misaligned (ha : ((s.hart n).rx r1.toNat).toNat % 64 ≠ 0) :
    execVbDispatch r2 r1 rd s = .next (s.setHart n ((s.hart n).trap 27 ((s.hart n).rx r1.toNat))) :=
  (virbel_machine hcur hmode).trans (congrArg _ (if_pos ha))

/-- A request by itself: handed on, or turned away where the admission order is full. -/
theorem execVbDispatch_alone : let h := s.hart n
    let a := h.rx r1.toNat
    let b := h.rx r2.toNat
    let handed := State.handRequest { s with muleDown := false } (BitVec.ofNat 512 (natOf (s.sram.readN a.toNat 64)))
    a.toNat % 64 = 0 → bits b 63 14 = 0 → b.getLsbD 13 = true → execVbDispatch r2 r1 rd s = .next
      (if Config.orderRoom s.requests.length then handed.setHart n ((handed.hart n).done rd.toNat 0) else s.setHart n (h.done rd.toNat 1)) := by
  intro h a b handed ha hreserved halone
  refine (virbel_machine hcur hmode).trans (congrArg _ ?_)
  have hwell : ¬ (bits b 63 14 ≠ 0 ∨ ¬ b.getLsbD 13 = true ∧ (if b.getLsbD 12 then (s.func (bits b 7 0)).fifo.isEmpty
      else (s.queue (bits b 7 0) (bits b 11 8)).fetched.isNone) = true) :=
    not_or.mpr ⟨not_not_intro hreserved, fun hcommand => hcommand.1 halone⟩
  refine (if_neg (not_not_intro ha)).trans ((if_neg hwell).trans ?_)
  cases Config.orderRoom s.requests.length with
  | false => rfl
  | true =>
    dsimp only
    rw [halone]
    rfl

end

/-- A request handed on by itself leaves memory and harts, and a Mule that is up stays up. -/
theorem State.handRequest_frame {s : State} (b : BitVec 512) (hup : s.muleDown = false) :
    (s.handRequest b).mem = s.mem ∧ (s.handRequest b).harts = s.harts ∧ (s.handRequest b).muleDown = false := by
  unfold State.handRequest
  split
  split
  · exact ⟨rfl, rfl, by simp [State.dispatch]⟩
  · exact ⟨rfl, rfl, hup⟩

/-! ### The wake -/

/-- A hart whose signal or time has come goes on past its word, with the masked signals in its register. -/
theorem execSigwaitWake_wakes {s : State} {n : Fin 32} {d t : Nat} {m : BitVec 64} (hsleep : (s.hart n).sleep = some (d, m, t))
    (hdue : s.signals n &&& m ≠ 0 ∨ t ≤ s.gclk.toNat) : execSigwaitWake n s =
      .next (s.setHart n (({ s.hart n with sleep := none } : Hart).done d (s.signals n &&& m))) := by
  unfold execSigwaitWake
  rw [dif_pos n.isLt]
  dsimp only
  rw [hsleep]
  exact if_pos hdue

end Sys2Proof.Machine
end

section
/-! SUPPORT. The obligation on the Virbel words. -/

open Sys2Proof Sys2Proof.Machine

/-- Settles O39: each clause is its word's equation for the case at hand, with what a request handed on leaves (`State.handRequest_frame`); the
hart woken is read by `Hart.done_pc` and `Hart.rx_done`. The trap registers, the layout of a request and the queues a hart serves are the
model's (log entries 9, 57 and 58). -/
theorem virbelWords : Obligations.VirbelWords := by
  intro s n r2 r1 rd hcur h a b fn q
  refine ⟨fun hmode i hi => ?illegal, fun hmode => ⟨execVbBfx_takes hcur hmode, execVbBfx_beyond hcur hmode, execVbSigwait_now hcur hmode,
    execVbSigwait_sleeps hcur hmode, execVbSigwait_badMask hcur hmode, ?stays, execVbRfetch_notServed hcur hmode, ?fetches, ?dispatches,
    execVbDispatch_misaligned hcur hmode⟩, fun d m t hsleep hdue => ?wakes⟩
  case illegal =>
    simp only [List.mem_cons, List.not_mem_nil, or_false] at hi
    obtain rfl | rfl | rfl | rfl := hi <;> exact virbel_illegal hcur hmode
  case stays =>
    intro hst hserved hreserved hsram hclear hstays
    exact (execVbRfetch_uncommitted hcur hmode hst hserved hreserved hsram hclear).trans (congrArg _ (if_pos hstays))
  case fetches =>
    intro hst hserved hreserved hsram hclear hfetches
    exact (execVbRfetch_uncommitted hcur hmode hst hserved hreserved hsram hclear).trans (congrArg _ (if_neg (by rw [hfetches]; decide)))
  case dispatches =>
    intro ha hreserved halone
    refine ⟨_, execVbDispatch_alone hcur hmode ha hreserved halone, ?_⟩
    obtain ⟨hmem, hharts, hup⟩ := State.handRequest_frame (s := { s with muleDown := false })
      (BitVec.ofNat 512 (natOf (s.sram.readN a.toNat 64))) rfl
    split
    · refine ⟨hmem, hup, ?_⟩
      rw [State.hart_setHart]
      exact congrArg (fun harts : Vector Hart 32 => harts[n].done rd.toNat 0) hharts
    · exact ⟨rfl, rfl⟩
  case wakes =>
    refine ⟨_, execSigwaitWake_wakes hsleep hdue, ?_⟩
    rw [State.hart_setHart]
    exact ⟨Hart.done_sleep, Hart.done_pc, Hart.rx_done⟩

end

section
/-! SUPPORT. The host's queue registers (f09 R229..R237): a write case by case, and what a flush leaves of its queue and function. -/
namespace Sys2Proof.Machine

variable {s : State} {fn q : Nat} {v : BitVec 64}

/-! ### What a flush leaves -/

/-- A queue but for the completion records it holds and the count of those written. -/
def Queue.butComps (x : Queue) : Queue := { x with comps := [], cidx := 0 }

theorem State.flushOne_butComps : ((s.flushOne fn q).queue fn q).butComps = (s.queue fn q).butComps := by
  unfold State.flushOne
  dsimp only
  split
  · split
    · rw [State.queue_setQueue]
      rfl
    · rfl
  · rfl

/-- A flush changes its queue's records alone, but where the reset the queue waits for is over. -/
theorem State.flush_butComps : ((s.flush fn q).queue fn q).butComps = (s.queue fn q).butComps ∨
    (s.queue fn q).fetched = none ∧ ((s.flush fn q).queue fn q).butComps = ({ (s.queue fn q).disable with ecode := 0 } : Queue).butComps := by
  have hall : (((s.queue fn q).comps.foldl (fun s _ => s.flushOne fn q) s).queue fn q).butComps = (s.queue fn q).butComps :=
    foldl_keeps (g := fun s => (State.queue s fn q).butComps) fun _ _ => State.flushOne_butComps
  unfold State.flush
  dsimp only
  split
  next hover =>
    obtain ⟨-, -, -, hfetched⟩ := hover
    refine .inr ⟨?_, ?_⟩
    · exact (congrArg Queue.fetched hall).symm.trans (Option.isNone_iff_eq_none.mp hfetched)
    · rw [State.queue_setQueue]
      exact congrArg (fun x : Queue => ({ x.disable with ecode := 0 } : Queue)) hall
  · exact .inl hall

/-- What was fetched, and a reset that waits for it, stay through a flush. -/
theorem State.flush_pending (hfetched : (s.queue fn q).fetched ≠ none) :
    ((s.flush fn q).queue fn q).fetched = (s.queue fn q).fetched ∧ ((s.flush fn q).queue fn q).resetting = (s.queue fn q).resetting := by
  obtain hkept | ⟨hnone, -⟩ := State.flush_butComps (s := s) (fn := fn) (q := q)
  · exact ⟨(congrArg Queue.fetched hkept :), (congrArg Queue.resetting hkept :)⟩
  · exact absurd hnone hfetched

theorem State.flush_cqhead : ((s.flush fn q).queue fn q).cqhead = (s.queue fn q).cqhead := by
  obtain hkept | ⟨-, hover⟩ := State.flush_butComps (s := s) (fn := fn) (q := q)
  · exact (congrArg Queue.cqhead hkept :)
  · exact (congrArg Queue.cqhead hover :)

/-- The launch counters of a function (f09 R229). -/
def Func.lost (f : Func) : BitVec 64 × BitVec 64 := (f.drop, f.bad)

theorem State.setQueue_lost (x : Queue) : ((s.setQueue fn q x).func fn).lost = (s.func fn).lost := by
  rw [State.setQueue, State.func_setFunc]
  rfl

theorem State.flush_lost : ((s.flush fn q).func fn).lost = (s.func fn).lost :=
  State.flush_keeps (fun s => (s.func fn).lost) (fun _ _ _ => rfl) (fun _ _ => rfl) fun _ _ => State.setQueue_lost _

/-! ### RESET -/

/-- A queue whose reset has begun, the launch counters cleared with queue 0. -/
def State.beginReset (s : State) (fn q : Nat) : State :=
  let f := s.func fn
  let s := if q = 0 then s.setFunc fn { f with drop := 0, bad := 0 } else s
  s.setQueue fn q { s.queue fn q with resetting := true }

theorem State.resetQueue_eq : s.resetQueue fn q = (s.beginReset fn q).flush fn q := rfl

theorem State.beginReset_queue : (s.beginReset fn q).queue fn q = { s.queue fn q with resetting := true } := by
  unfold State.beginReset
  dsimp only
  rw [State.queue_setQueue]
  split
  · simp [State.queue, Func.queue]
  · rfl

theorem State.beginReset_lost (hq : q = 0) : ((s.beginReset fn q).func fn).lost = (0, 0) := by
  unfold State.beginReset
  dsimp only
  rw [if_pos hq, State.setQueue_lost, State.func_setFunc]
  rfl

/-- A reset waits for what was fetched, is over at once where nothing is left, and clears the launch counters with queue 0. -/
theorem execReset_spec : ∃ t, execReset fn q s = .next t ∧
    ((s.queue fn q).fetched ≠ none → (t.queue fn q).fetched = (s.queue fn q).fetched ∧ (t.queue fn q).resetting = true) ∧
    ((s.queue fn q).fetched = none → (s.queue fn q).running = 0 → (s.queue fn q).comps = [] → (t.queue fn q).st = 0) ∧
    (q = 0 → (t.func fn).drop = 0 ∧ (t.func fn).bad = 0) := by
  refine ⟨_, rfl, fun hfetched => ?_, fun hfetched hrunning hcomps => ?_, fun hq => ?_⟩
  · have hpending := State.flush_pending (s := s.beginReset fn q) (fn := fn) (q := q) (by rwa [State.beginReset_queue])
    rwa [State.beginReset_queue] at hpending
  · rw [State.resetQueue_eq, State.flush_disables (by rw [State.beginReset_queue]) (by rwa [State.beginReset_queue])
      (by rwa [State.beginReset_queue]) (by rwa [State.beginReset_queue])]
    rfl
  · exact Prod.mk.inj (State.flush_lost.trans (State.beginReset_lost hq))

/-! ### KICK, LAUNCH and ENABLE -/

theorem execKick_laps (hst : (s.queue fn q).st = 1 ∨ (s.queue fn q).st = 2)
    (hlaps : (s.queue fn q).slots < (v.setWidth 32 - (s.queue fn q).ridx).toNat) :
    execKick fn q v s = .next (s.setQueue fn q { s.queue fn q with st := 4 }) :=
  (if_neg (by omega)).trans (if_pos hlaps)

theorem execKick_latches (hst : (s.queue fn q).st = 1 ∨ (s.queue fn q).st = 2)
    (hfits : (v.setWidth 32 - (s.queue fn q).ridx).toNat ≤ (s.queue fn q).slots)
    (hlater : (v.setWidth 32 - (s.queue fn q).latch).toNat < 2 ^ 31) :
    execKick fn q v s = .next (s.setQueue fn q { s.queue fn q with latch := v.setWidth 32 }) :=
  (if_neg (by omega)).trans ((if_neg (Nat.not_lt.mpr hfits)).trans (if_pos hlater))

theorem execLaunchWrite_full (hreserved : bits v 47 34 = 0) (hfull : 64 ≤ (s.func fn).fifo.length) :
    execLaunchWrite fn q v s = .next (s.setFunc fn { s.func fn with drop := (s.func fn).drop + 1 }) :=
  (if_neg (not_not_intro hreserved)).trans (if_pos hfull)

theorem execLaunchWrite_enters (hreserved : bits v 47 34 = 0) (hroom : (s.func fn).fifo.length < 64) :
    execLaunchWrite fn q v s = .next (s.setFunc fn { s.func fn with fifo := (s.func fn).fifo ++ [(q, v)] }) :=
  (if_neg (not_not_intro hreserved)).trans (if_neg (Nat.not_le.mpr hroom))

theorem execEnable_runs (hst : (s.queue fn q).st = 0) (hring : ringOk (s.queue fn q).qcfg = true) (hcomp : ringOk (s.queue fn q).cqcfg = true) :
    execEnable fn q s = .next (s.setQueue fn q { s.queue fn q with
      st := 1, ecode := 0, ridx := 0, latch := 0, cidx := 0, cqhead := 0 }) :=
  (if_neg (not_not_intro hst)).trans (if_pos ⟨hring, hcomp⟩)

theorem execEnable_badCfg (hst : (s.queue fn q).st = 0)
    (hbad : ringOk (s.queue fn q).qcfg = false ∨ ringOk (s.queue fn q).cqcfg = false) :
    execEnable fn q s = .next (s.setQueue fn q { s.queue fn q with ecode := eBadCfg }) :=
  (if_neg (not_not_intro hst)).trans (if_neg fun hgood => by simp [hgood] at hbad)

/-! ### ARGCFG -/

theorem execRegisterWrite_own_argcfg :
    execRegisterWrite fn fn (.at_ 0x008) v s = .next (s.setFunc fn { s.func fn with argcfg := v }) := if_pos rfl

/-- A virtual function writes no page but its own. -/
theorem execRegisterWrite_other {k off : Nat} (hother : k ≠ fn) (hvirtual : k ≠ 0) : execRegisterWrite k fn (.at_ off) v s = .next s :=
  (if_neg hother).trans (if_neg fun hpf => hvirtual hpf.1)

end Sys2Proof.Machine
end

section
/-! SUPPORT. The obligation on the host's registers. -/

open Sys2Proof Sys2Proof.Machine

/-- Settles O54: each clause is the equation of its write for the case at hand; RESET is `execReset_spec`, and the records CQHEAD makes room
for leave it as written (`State.flush_cqhead`). -/
theorem hostRegisters : Obligations.HostRegisters := by
  intro s fn q v x f w
  refine ⟨fun hst => ⟨execKick_laps hst, execKick_latches hst⟩, fun hrun hpause => if_pos ⟨hrun, hpause⟩, fun hbad => if_pos hbad,
    execLaunchWrite_full, execLaunchWrite_enters, execEnable_runs, execEnable_badCfg, fun hst => if_pos hst, rfl, rfl, execReset_spec,
    ⟨_, rfl, ?cqhead⟩, execRegisterWrite_own_argcfg, fun k => execRegisterWrite_other⟩
  case cqhead => rw [State.flush_cqhead, State.queue_setQueue]

end

section
/-! SUPPORT. REG_GRAPH, DEREG_GRAPH, LAUNCH and FEED (f09 R240..R242), case by case. -/
namespace Sys2Proof.Machine

variable {s : State} {p : Pkt}

/-! ### Graphs -/

/-- A descriptor whose nodes are read, that has no cycle and whose successors are right is registered under the lowest free handle. -/
theorem execRegGraph_registers {desc : BitVec 64} {count h : Nat} {g : List Node} {s' : State} (haligned : hostAddr desc % 64 = 0)
    (hsome : 0 < count) (hmost : count ≤ 64) (hpages : s.pagesRefused p.fn (pagesFrom (hostAddr desc) (64 * count)) = false)
    (hread : (s.meterHost p.fn (64 * count) false).readNodes p.fn (hostAddr desc) count = (.ok g, s')) (hacyclic : cycleAt g = none)
    (hsucc : succBad g = none) (hfree : (s'.func p.fn).freeGraph = some h) :
    execRegGraph p desc count s = .next (((s'.setFunc p.fn { s'.func p.fn with
      graphs := SMap.set [] (s'.func p.fn).graphs h g }).planNodes p.fn h).complete p 0x01 0x00 0 false (BitVec.ofNat 128 h)) := by
  refine (if_neg (by omega)).trans ((if_neg (by simp [hpages])).trans ?_)
  dsimp only
  rw [hread]
  dsimp only
  rw [hacyclic, hsucc, hfree]
  rfl

variable {graph : Nat}

theorem execDeregGraph_unknown (hunknown : s.graph p.fn graph = []) : execDeregGraph p graph s = .next (s.ends p 0x0B 0x05) :=
  if_pos (List.isEmpty_iff.mpr hunknown)

theorem execDeregGraph_busy (hknown : s.graph p.fn graph ≠ [])
    (hlive : ∃ l ∈ s.launches, l.2.live = true ∧ l.2.fn = p.fn ∧ l.2.req.graph = graph) :
    execDeregGraph p graph s = .next (s.ends p 0x0B 0x06) :=
  (if_neg (mt List.isEmpty_iff.mp hknown)).trans (if_pos (List.any_eq_true.mpr (by simpa [and_assoc] using hlive)))

theorem execDeregGraph_frees (hknown : s.graph p.fn graph ≠ [])
    (hidle : ∀ l ∈ s.launches, ¬ (l.2.live = true ∧ l.2.fn = p.fn ∧ l.2.req.graph = graph)) :
    execDeregGraph p graph s = .next ((s.setFunc p.fn { s.func p.fn with
      graphs := SMap.set [] (s.func p.fn).graphs graph [] }).ends p 0x0B 0x00) := by
  refine (if_neg (mt List.isEmpty_iff.mp hknown)).trans (if_neg fun hany => ?_)
  obtain ⟨l, hl, hlive⟩ := List.any_eq_true.mp hany
  exact hidle l hl (by simpa [and_assoc] using hlive)

/-! ### Launches -/

variable {r : LaunchReq}

theorem execLaunch_refused (hpages : s.pagesRefused p.fn (s.argPages p.fn r.argidx) = true) :
    execLaunch p r s = .next (((s.dropPages p.fn (s.argPages p.fn r.argidx)).meterHost p.fn p.slotBytes false).complete p 0x02 0x08 r.seq
      true 0) := if_pos hpages

theorem execLaunch_starts (hpages : s.pagesRefused p.fn (s.argPages p.fn r.argidx) = false) :
    execLaunch p r s = .next (s.startLaunch p r) := if_neg (by simp [hpages])

theorem State.startLaunch_noBlock (hblock : s.argBlock p.fn r.argidx = none) :
    s.startLaunch p r = (s.meterHost p.fn (p.slotBytes + 0) false).complete p 0x02 0x05 r.seq true 0 := by
  unfold State.startLaunch
  rw [hblock]
  exact if_pos (.inr rfl)

variable {b : List Byte} (hblock : s.argBlock p.fn r.argidx = some b)
include hblock

theorem State.startLaunch_bad (hbad : s.graph p.fn r.graph = [] ∨ s.blockCaps p.fn b = none) :
    s.startLaunch p r = (s.meterHost p.fn (p.slotBytes + 1024) false).complete p 0x02 0x05 r.seq true 0 := by
  unfold State.startLaunch
  rw [hblock]
  exact if_pos (hbad.imp List.isEmpty_iff.mpr fun hnone => by rw [hnone]; rfl)

theorem State.startLaunch_good (hgraph : s.graph p.fn r.graph ≠ []) (hcaps : s.blockCaps p.fn b ≠ none) :
    s.startLaunch p r = State.advance
      { s.setLaunch s.nextLaunch ⟨true, p.fn, p, r, (s.graph p.fn r.graph).map fun _ => 0, true, 0, 0, p.slotBytes⟩ with
        nextLaunch := s.nextLaunch + 1 } s.nextLaunch := by
  unfold State.startLaunch
  rw [hblock]
  refine if_neg (not_or.mpr ⟨mt List.isEmpty_iff.mp hgraph, fun hnone => hcaps ?_⟩)
  simpa using hnone

omit hblock

/-! ### FEED -/

variable {seq node wq k : Nat} {recs : List Slot}

theorem execFeed_notResident (hnone : s.residentNode p.fn graph seq node = none) :
    execFeed p graph seq node wq recs s = .next (s.ends p 0x03 0x0C) := by
  unfold execFeed
  rw [hnone]
  rfl

theorem execFeed_resident (hnode : s.residentNode p.fn graph seq node = some k) : execFeed p graph seq node wq recs s =
    if 256 < (s.tt k).wqLen wq + recs.length then .next (s.ends p 0x03 0x07) else .next ((s.setTt k { s.tt k with
      wq := SMap.set [] (s.tt k).wq wq (SMap.get [] (s.tt k).wq wq ++ recs.map fun r => (s.gclk.toNat, r)) }).ends p 0x03 0x00) := by
  unfold execFeed
  rw [hnode]
  rfl

end Sys2Proof.Machine
end

section
/-! SUPPORT. The obligation on the graph commands. -/

open Sys2Proof Sys2Proof.Machine

/-- Settles O55: each clause is the equation of its command for the case at hand. That a launch of a graph nobody registered is BADARG is log
entry 103's; the argument block is R242's and HOSTERR R238's. -/
theorem graphCommands : Obligations.GraphCommands := by
  refine ⟨fun s p desc count => ⟨fun hbad => if_pos hbad, ?register⟩,
    fun s p graph => ⟨execDeregGraph_unknown, execDeregGraph_busy, execDeregGraph_frees⟩,
    fun s p r => ⟨execLaunch_refused, fun hpages =>
      ⟨fun hblock => ?noBlock, fun b hblock => ⟨fun hbad => ?bad, fun hgraph hcaps => ?good⟩⟩⟩,
    fun s p graph seq node wq recs => ⟨execFeed_notResident, fun k hnode => ⟨fun hfull => ?full, fun hroom => ?room⟩⟩⟩
  case register =>
    intro haligned hsome hmost hpages g s' h hread hacyclic hsucc hfree
    exact execRegGraph_registers haligned hsome hmost hpages hread hacyclic hsucc hfree
  case noBlock => exact (execLaunch_starts hpages).trans (congrArg _ (State.startLaunch_noBlock hblock))
  case bad => exact (execLaunch_starts hpages).trans (congrArg _ (State.startLaunch_bad hblock hbad))
  case good => exact (execLaunch_starts hpages).trans (congrArg _ (State.startLaunch_good hblock hgraph hcaps))
  case full => exact (execFeed_resident hnode).trans (if_pos hfull)
  case room => exact (execFeed_resident hnode).trans (if_neg (Nat.not_lt.mpr hroom))

end

section
/-! SUPPORT. SIGNAL, WAIT, METER and RESET_Q (f09 R235, R240, R254), case by case. -/
namespace Sys2Proof.Machine

variable {s : State} {p : Pkt}

/-! ### SIGNAL -/

section
variable {event idx graph node seq k : Nat} {amount : BitVec 32}

theorem execSignalHostEvent_bad (hbad : 64 ≤ event ∨ amount = 0 ∨ 2 ^ 31 < amount.toNat) :
    execSignalHostEvent p event amount s = .next (s.ends p 0x07 0x05) := if_pos hbad

variable (hamount : amount ≠ 0) (hmost : amount.toNat ≤ 2 ^ 31)
include hamount hmost

theorem execSignalHostEvent_adds (hevent : event < 64) :
    execSignalHostEvent p event amount s = .next ((s.hostEvent p.fn event amount.toNat).ends p 0x07 0x00) :=
  if_neg (not_or.mpr ⟨Nat.not_le.mpr hevent, not_or.mpr ⟨hamount, Nat.not_lt.mpr hmost⟩⟩)

theorem execSignalSemaphore_notResident (hnone : s.residentNode p.fn graph seq node = none) :
    execSignalSemaphore p idx graph node seq amount s = .next (s.ends p 0x07 0x0C) := by
  refine (if_neg (not_or.mpr ⟨hamount, Nat.not_lt.mpr hmost⟩)).trans ?_
  rw [hnone]
  rfl

theorem execSignalSemaphore_adds (hnode : s.residentNode p.fn graph seq node = some k) (hidx : idx < (s.tt k).img.sems) :
    execSignalSemaphore p idx graph node seq amount s =
      .next ((((s.tt k).place.zipIdx.filter fun x => x.1.pkg == s.pkg).foldl (fun s x => s.hostSignal k x.2 idx amount.toNat) s).ends
        p 0x07 0x00) := by
  refine (if_neg (not_or.mpr ⟨hamount, Nat.not_lt.mpr hmost⟩)).trans ?_
  rw [hnode]
  exact if_neg (Nat.not_le.mpr hidx)

end

/-! ### WAIT -/

section
variable {event fn q : Nat} {value timeout : BitVec 64}

theorem execWait_at_once (hevent : event < 64) (hreached : value ≤ SMap.get 0 (s.func p.fn).he event) :
    execWait p event value timeout s = .next (s.ends p 0x08 0x00) :=
  (if_neg (Nat.not_le.mpr hevent)).trans (if_pos hreached)

theorem execWait_holds (hevent : event < 64) (hbelow : SMap.get 0 (s.func p.fn).he event < value) :
    execWait p event value timeout s = .next (s.setQueue p.fn p.q { s.queue p.fn p.q with
      wait := some (p, event, value, if timeout = 0 then none else some (s.gclk.toNat + 1024 * timeout.toNat)) }) :=
  (if_neg (Nat.not_le.mpr hevent)).trans (if_neg (BitVec.not_le.mpr hbelow))

theorem execWaitRelease_completes {d : Option Nat} (hwait : (s.queue fn q).wait = some (p, event, value, d))
    (hreached : value ≤ SMap.get 0 (s.func fn).he event) :
    execWaitRelease fn q s = .next ((s.setQueue fn q { s.queue fn q with wait := none }).ends p 0x08 0x00) := by
  unfold execWaitRelease
  dsimp only
  rw [hwait]
  exact if_pos hreached

theorem execWaitTimeout_completes {d : Nat} (hwait : (s.queue fn q).wait = some (p, event, value, some d)) (hdue : d ≤ s.gclk.toNat) :
    execWaitTimeout fn q s = .next ((s.setQueue fn q { s.queue fn q with wait := none }).ends p 0x08 0x0A) := by
  unfold execWaitTimeout
  dsimp only
  rw [hwait]
  exact if_pos hdue

end

/-! ### METER -/

/-- A snapshot's signed part (f09 R254). -/
theorem State.snapBody_length (tenant : Nat) : (s.snapBody tenant).length = 384 := by
  simp [State.snapBody, bytesOf_length]

/-- The 480 bytes of a snapshot: what is signed, and its signature. -/
def State.snapBytes (s : State) (tenant : Nat) : List Byte :=
  s.snapBody tenant ++ s.signed (bytesOf 48 (Config.sha384 (s.snapBody tenant)).toNat)

theorem State.snapBytes_length (tenant : Nat) : (s.snapBytes tenant).length = 480 := by
  simp [State.snapBytes, State.snapBody_length, State.signed, bytesOf_length]

theorem State.snapshot_tenant (tenant : Nat) : (s.snapshot tenant).2.2.tenant tenant = { s.tenant tenant with
    snaps := (s.tenant tenant).snaps + 1, prev := Config.sha384 (s.snapBody tenant), last := s.snapBytes tenant } :=
  State.tenant_setTenant ..

/-- A snapshot written to host memory, the tenant's chain moved on by it; timetables, strands and functions as they were. -/
theorem execMeter_writes {addr : BitVec 64} (haligned : hostAddr addr % 64 = 0)
    (hpages : s.pagesRefused p.fn (pagesFrom (hostAddr addr) 480) = false) : ∃ u : State,
    execMeter p addr s = .next (u.ends p 0x09 0x00) ∧
      u.mem = s.mem.writeN (s.spaceOf p.fn (hostAddr addr)) (s.snapBytes p.fn) ∧
      (u.tenant p.fn).snaps = (s.tenant p.fn).snaps + 1 ∧ (u.tenant p.fn).prev = Config.sha384 (s.snapBody p.fn) ∧
      u.funcs = s.funcs ∧ u.strands = s.strands ∧ u.tts = s.tts := by
  generalize hlength : (s.snapBytes p.fn).length = n
  have hexec : execMeter p addr s = .next (State.ends { (s.snapshot p.fn).2.2.meterHost p.fn n true with
      mem := s.mem.writeN (s.spaceOf p.fn (hostAddr addr)) (s.snapBytes p.fn) } p 0x09 0x00) := by
    subst hlength
    exact (if_neg (not_not_intro haligned)).trans (if_neg (by simp [hpages]))
  generalize s.mem.writeN (s.spaceOf p.fn (hostAddr addr)) (s.snapBytes p.fn) = mem at hexec ⊢
  obtain ⟨x, hx⟩ := State.meter_frame (s := (s.snapshot p.fn).2.2) p.fn 20 n
  obtain ⟨m, hm⟩ := State.meter_tenant (s := (s.snapshot p.fn).2.2) p.fn 20 n p.fn
  rw [State.snapshot_tenant] at hm
  exact ⟨_, hexec, rfl, congrArg Tenant.snaps hm, congrArg Tenant.prev hm, (congrArg State.funcs hx :), (congrArg State.strands hx :),
    (congrArg State.tts hx :)⟩

end Sys2Proof.Machine
end

section
/-! SUPPORT. The obligation on SIGNAL, WAIT, METER and RESET_Q. -/

open Sys2Proof Sys2Proof.Machine

/-- Settles O57: each clause is the equation of its command for the case at hand; METER is `execMeter_writes`, whose bytes are read back out of
the run written (`Memory.read_writeN_in`, `Memory.read_writeN_out`). -/
theorem signalCommands : Obligations.SignalCommands := by
  intro s p event idx graph node seq target amount value timeout addr he
  refine ⟨fun hevent hamount hmost => execSignalHostEvent_adds hamount hmost hevent, execSignalHostEvent_bad,
    fun hamount hmost => ⟨execSignalSemaphore_notResident hamount hmost, fun k => execSignalSemaphore_adds hamount hmost⟩,
    fun hevent => if_pos hevent, fun hevent => ⟨execWait_at_once hevent, execWait_holds hevent⟩,
    fun fn q d hwait => ⟨execWaitRelease_completes hwait, fun g hd => execWaitTimeout_completes (hd ▸ hwait)⟩,
    fun hmisaligned => if_pos hmisaligned, ?meter, fun hown => if_pos hown, fun hother => if_neg hother⟩
  case meter =>
    intro haligned hpages x a body b
    obtain ⟨u, hexec, hmem, hsnaps, hprev, hframe⟩ := execMeter_writes haligned hpages
    have hlength : b.length = 480 := s.snapBytes_length p.fn
    refine ⟨s.snapBody_length p.fn, hlength, u, hexec, fun i hi => ?_, fun k hk => ?_, hsnaps, hprev, hframe⟩
    · rw [hmem]
      have hin : i < b.length := hlength.symm ▸ hi
      exact (Memory.read_writeN_in hin).trans (List.getD_eq_getElem _ _ hin).symm
    · rw [hmem]
      exact Memory.read_writeN_out (hk.imp_right fun h => by rwa [s.snapBytes_length p.fn])

end

section
/-! SUPPORT. The SPDM responder (f09 R231, R255): a response adds one message to what is sent out and touches no memory, strand or timetable. -/
namespace Sys2Proof.Machine

variable {s t : State} {fn code : Nat}

/-- One message of this code has been sent to a function's requester; memory, strands and timetables stand as they stood. -/
def State.Answered (s : State) (fn code : Nat) (t : State) : Prop :=
  ∃ bytes, t.outbox = s.outbox ++ [.spdm fn code bytes] ∧ t.mem = s.mem ∧ t.strands = s.strands ∧ t.tts = s.tts

theorem State.answers_answered (bytes : List Byte) : s.Answered fn code (s.answers fn code bytes) := ⟨bytes, rfl, rfl, rfl, rfl⟩
theorem State.answersFree_answered (more : List Byte) : s.Answered fn code (s.answersFree fn code more) := ⟨_, rfl, rfl, rfl, rfl⟩
theorem State.signedAnswer_answered (nonce : Sealed) : s.Answered fn code (s.signedAnswer fn code nonce) := State.answersFree_answered _

/-- A function's session set beside the answer. -/
theorem State.Answered.of_setFunc {k : Nat} {f : Func} (h : (s.setFunc k f).Answered fn code t) : s.Answered fn code t := h

@[simp] theorem State.answers_func (bytes : List Byte) (k : Nat) : (s.answers fn code bytes).func k = s.func k := rfl
@[simp] theorem State.signedAnswer_func (nonce : Sealed) (k : Nat) : (s.signedAnswer fn code nonce).func k = s.func k := rfl

theorem execNegotiateAlgorithms_agreed : ∃ t, execNegotiateAlgorithms fn true true s = .next t ∧ s.Answered fn 0x63 t :=
  ⟨_, rfl, State.answersFree_answered []⟩

theorem execNegotiateAlgorithms_other {p384 sha384 : Bool} (hother : p384 = false ∨ sha384 = false) :
    execNegotiateAlgorithms fn p384 sha384 s = .next (s.answers fn 0x7F [0x01]) :=
  congrArg _ (if_neg fun hboth => by simp [hboth] at hother)

/-- A session opens with tenant 0 selected. -/
theorem execKeyExchange_opens (nonce : Sealed) : ∃ t, execKeyExchange fn nonce s = .next t ∧ s.Answered fn 0x64 t ∧
    (t.func fn).session = true ∧ (t.func fn).sel = 0 := by
  refine ⟨_, rfl, (State.signedAnswer_answered nonce).of_setFunc, ?_⟩
  rw [State.signedAnswer_func, State.func_setFunc]
  exact ⟨rfl, rfl⟩

/-- A session message outside a session is refused. -/
theorem execSpdmSessionMessage_outside (hsession : (s.func fn).session = false) (m : SessMsg) :
    execSpdmSessionMessage fn m s = .next (s.answers fn 0x7F [0x01]) := if_pos hsession

section
variable (hsession : (s.func fn).session = true)
include hsession

theorem execSpdmSessionMessage_heartbeat : execSpdmSessionMessage fn .heartbeat s = .next (s.answers fn 0x68 []) :=
  if_neg (by simp [hsession])

theorem execSpdmSessionMessage_keyUpdate : execSpdmSessionMessage fn .keyUpdate s = .next (s.answers fn 0x69 []) :=
  if_neg (by simp [hsession])

theorem execSpdmSessionMessage_finish : ∃ t, execSpdmSessionMessage fn .finish s = .next t ∧ s.Answered fn 0x65 t :=
  ⟨_, if_neg (by simp [hsession]), State.answersFree_answered []⟩

theorem execSpdmSessionMessage_endSession : ∃ t, execSpdmSessionMessage fn .endSession s = .next t ∧ s.Answered fn 0x6C t ∧
    (t.func fn).session = false := by
  refine ⟨_, if_neg (by simp [hsession]), (State.answers_answered []).of_setFunc, ?_⟩
  rw [State.answers_func, State.func_setFunc]

end

section
variable {tenant : Nat}

theorem execSelectTenant_selects (hown : ownFn fn = true) (htenant : tenant < 256) :
    ∃ t, execSelectTenant fn tenant s = .next t ∧ s.Answered fn 0x7E t ∧ (t.func fn).sel = tenant := by
  refine ⟨_, congrArg Host.Outcome.next (if_pos ⟨hown, htenant⟩), (State.answers_answered []).of_setFunc, ?_⟩
  rw [State.answers_func, State.func_setFunc]

theorem execSelectTenant_refused (hother : ownFn fn = false ∨ 256 ≤ tenant) :
    execSelectTenant fn tenant s = .next (s.answers fn 0x7F [0x01]) := by
  refine congrArg _ (if_neg fun ⟨hown, htenant⟩ => ?_)
  obtain hnot | hbeyond := hother
  · exact absurd hown (by simp [hnot])
  · exact absurd htenant (Nat.not_lt.mpr hbeyond)

end

end Sys2Proof.Machine
end

section
/-! SUPPORT. The obligation on the SPDM responder. -/

open Sys2Proof Sys2Proof.Machine

/-- Settles O59: each clause is what its request is answered with; that nothing else changes is `State.Answered` of the response. -/
theorem securitySession : Obligations.SecuritySession := by
  intro s fn off len tenant p384 sha384 nonce f answered bad
  refine ⟨rfl, ⟨_, rfl, State.answersFree_answered []⟩, ?agreed, execNegotiateAlgorithms_other, rfl, rfl,
    ⟨_, rfl, State.signedAnswer_answered nonce⟩, execKeyExchange_opens nonce, execSpdmSessionMessage_outside,
    fun hsession => ⟨execSpdmSessionMessage_finish hsession, execSpdmSessionMessage_heartbeat hsession,
      execSpdmSessionMessage_keyUpdate hsession, execSpdmSessionMessage_endSession hsession⟩,
    execSelectTenant_selects, execSelectTenant_refused, rfl, rfl, rfl⟩
  case agreed =>
    rintro rfl rfl
    exact execNegotiateAlgorithms_agreed

end

section
/-! SUPPORT. The life cycle and the cold reset (f09 R256, R257). -/
namespace Sys2Proof.Machine

variable {s : State}

/-- Of memory cleared in its device half, the host's half reads as before. -/
theorem Memory.read_hostHalf (m : Memory) (a : Nat) : Memory.read (m.filter fun x => !addrDev x.1) a = if addrDev a then 0 else m.read a := by
  simp only [Memory.read]
  induction m with
  | nil => exact (ite_self _).symm
  | cons e m ih =>
    by_cases ha : a = e.1
    · subst ha
      cases hdev : addrDev e.1 with
      | false => simp [hdev, SMap.get_cons]
      | true => simpa [hdev] using ih
    · cases hdev : addrDev e.1 with
      | false => simpa [hdev, SMap.get_cons, ha] using ih
      | true => simpa [hdev, SMap.get_cons, ha] using ih

/-! ### From one state of the life cycle to the next -/

theorem execProvision_done (h : s.lifecycle = 0) : ∃ t, execProvision s = .next t ∧ t.lifecycle = 1 :=
  ⟨_, congrArg Host.Outcome.next (if_pos h), rfl⟩

theorem execProvision_otherwise (h : s.lifecycle ≠ 0) : execProvision s = .next s := congrArg _ (if_neg h)

theorem execClaim_done {byFn : Nat} (h : s.lifecycle = 1) (hpf : byFn = 0) : ∃ t, execClaim byFn s = .next t ∧ t.lifecycle = 2 :=
  ⟨_, congrArg Host.Outcome.next (if_pos ⟨h, hpf⟩), rfl⟩

theorem execClaim_otherwise {byFn : Nat} (h : s.lifecycle ≠ 1 ∨ byFn ≠ 0) : execClaim byFn s = .next s :=
  congrArg _ (if_neg fun hclaim => h.elim (· hclaim.1) (· hclaim.2))

variable {auth sig : List Byte}

/-- A return is done where its authorisation verifies. -/
theorem execReturn_authorised (h : s.lifecycle = 2) :
    ∃ t, execReturn auth sig s = .next t ∧ if Config.verify auth sig then t.lifecycle = 3 else t = s := by
  by_cases hverified : Config.verify auth sig = true
  · refine ⟨_, congrArg Host.Outcome.next (if_pos ⟨h, hverified⟩), ?_⟩
    rw [if_pos hverified]
  · refine ⟨s, congrArg Host.Outcome.next (if_neg fun hboth => hverified hboth.2), ?_⟩
    rw [if_neg hverified]

theorem execReturn_otherwise (h : s.lifecycle ≠ 2) : execReturn auth sig s = .next s := congrArg _ (if_neg fun hreturn => h hreturn.1)

/-! ### Before bring-up is complete -/

theorem execConfigRequest_retries (h : s.bringup < 5) : execConfigRequest s = .next { s with outbox := s.outbox ++ [.retry] } :=
  congrArg Host.Outcome.next (if_pos h)

theorem execConfigRequest_passes (h : 5 ≤ s.bringup) : execConfigRequest s = .next s := congrArg _ (if_neg (Nat.not_lt.mpr h))

end Sys2Proof.Machine
end

section
/-! SUPPORT. The obligation on the life cycle. -/

open Sys2Proof Sys2Proof.Machine

/-- Settles O60: each request in the state it belongs to and in any other, and the state a cold reset starts from, whose memory is the host's
half of what was there (`Memory.read_hostHalf`). That tenant 0 exists after the reset is log entry 3's. -/
theorem lifeCycle : Obligations.LifeCycle := by
  intro s byFn auth sig
  exact ⟨rfl, execProvision_done, execProvision_otherwise, execClaim_done, execClaim_otherwise, execReturn_authorised, execReturn_otherwise,
    ⟨_, rfl, Memory.read_hostHalf s.mem, rfl, rfl⟩, execConfigRequest_retries, execConfigRequest_passes⟩

end

section
/-! SUPPORT. Faults of a strand that has not ended (f10 R258, R259), and the exception of a Mule hart with its return (f09 R244). -/
namespace Sys2Proof.Machine

/-! ### The word of a fault -/

/-- CODE is the top byte. -/
theorem bits_code (v : BitVec 64) : bits v 63 56 = v.toNat / 2 ^ 56 := Nat.mod_eq_of_lt (by have := v.isLt; omega)

/-- Each field of FAULT reads back what it was made of. -/
theorem bits_faultWord {code slot creg off : Nat} (hcode : code < 256) (hslot : slot < 4) (hcreg : creg < 32) (hoff : off < 2 ^ 48) :
    let f := faultWord code slot creg off
    bits f 63 56 = code ∧ bits f 55 54 = slot ∧ bits f 53 53 = 0 ∧ bits f 52 48 = creg ∧ bits f 47 0 = off := by
  simp only [bits, faultWord, BitVec.toNat_ofNat]
  omega

/-- MORE, bit 53, set in a word leaves its other bits. -/
theorem getLsbD_or_more (v : BitVec 64) (k : Nat) :
    (v ||| BitVec.twoPow 64 53).getLsbD k = (v.getLsbD k || decide (k = 53)) := by
  rw [BitVec.getLsbD_or, BitVec.getLsbD_twoPow]
  simp [eq_comm]

/-! ### Taking a fault -/

theorem Strand.takeFault_frame (st : Strand) (code slot creg off : Nat) :
    st.takeFault code slot creg off = { st with fault := (st.takeFault code slot creg off).fault } := by
  unfold Strand.takeFault
  split <;> rfl

section
variable {s : State} {sid : Nat} {code slot creg off : Nat} (hrunning : (s.strand sid).ending = false)
include hrunning

/-- A strand that has not ended takes the fault, and its timetable remembers the first strand with one. -/
theorem State.fault_of_not_ending : s.fault sid code slot creg off =
    let u := s.setStrand sid ((s.strand sid).takeFault code slot creg off)
    match (s.tt (ttOf sid)).firstFault with
    | none => u.setTt (ttOf sid) { s.tt (ttOf sid) with firstFault := some sid }
    | some _ => u := if_neg (by rw [hrunning]; exact Bool.false_ne_true)

theorem State.fault_strand : (s.fault sid code slot creg off).strand sid = (s.strand sid).takeFault code slot creg off := by
  rw [State.fault_of_not_ending hrunning]
  dsimp only
  split
  · rw [State.setTt_strand, State.strand_setStrand]
  · rw [State.strand_setStrand]

theorem State.fault_firstFault :
    ((s.fault sid code slot creg off).tt (ttOf sid)).firstFault = some (((s.tt (ttOf sid)).firstFault).getD sid) := by
  rw [State.fault_of_not_ending hrunning]
  dsimp only
  split
  case h_1 hnone => rw [State.tt_setTt, hnone, Option.getD_none]
  case h_2 first hfirst => rw [State.setStrand_tt, hfirst, Option.getD_some]

end

/-! ### The exception of a hart -/

/-- A hart has no word of the other maps. -/
theorem exec_illegal_in_hart {s : State} {n : Fin 32} (hcur : s.cur = .hart n) {i : Instr} {k : MapKind} (hmap : i.mapKind = some k)
    (hother : k ≠ .virbel) : exec i s = .next (s.hartIllegal n) := by
  cases i
  all_goals cases hmap
  case vbRfetch | vbBfx | vbSigwait | vbDispatch => exact absurd rfl hother
  all_goals exact byAgent_hart hcur

section
variable (h : Hart) (c : Nat) (v : BitVec 64)

/-- MSTATUS after an exception, bit by bit: MPIE (7) has the old MIE (3), MPP (12..11) the old mode, MIE is clear. -/
theorem Hart.trap_mstatus_getLsbD {k : Nat} (hk : k < 64) : (h.trap c v).mstatus.getLsbD k =
    (h.mstatus.getLsbD k && !(0x1888#64).getLsbD k || h.mstatus.getLsbD 3 && decide (k = 7) ||
      decide (11 ≤ k) && h.mode.testBit (k - 11)) := by
  have hmpie : (if h.mstatus.getLsbD 3 then 0x80#64 else 0).getLsbD k = (h.mstatus.getLsbD 3 && decide (k = 7)) := by
    rw [show 0x80#64 = BitVec.twoPow 64 7 from rfl]
    cases h.mstatus.getLsbD 3 with
    | false => simp
    | true => simp [eq_comm]
  have hmpp : (BitVec.ofNat 64 (h.mode * 2 ^ 11)).getLsbD k = (decide (11 ≤ k) && h.mode.testBit (k - 11)) := by
    rw [BitVec.getLsbD_ofNat, decide_eq_true hk, Bool.true_and, Nat.testBit_mul_two_pow]
  simp only [Hart.trap, BitVec.getLsbD_or, BitVec.getLsbD_and, BitVec.getLsbD_not, hmpie, hmpp, decide_eq_true hk, Bool.true_and]

theorem Hart.trap_mie : (h.trap c v).mstatus.getLsbD 3 = false := by
  rw [h.trap_mstatus_getLsbD c v (by decide)]
  simp

theorem Hart.trap_mpie : (h.trap c v).mstatus.getLsbD 7 = h.mstatus.getLsbD 3 := by
  rw [h.trap_mstatus_getLsbD c v (by decide)]
  simp

theorem Hart.trap_mpp (hmode : h.mode < 4) : (h.trap c v).mstatus.toNat / 2 ^ 11 % 2 ^ 2 = h.mode := by
  refine Nat.eq_of_testBit_eq fun i => ?_
  rw [Nat.testBit_mod_two_pow, Nat.testBit_div_two_pow, BitVec.testBit_toNat]
  match i with
  | 0 | 1 =>
    rw [h.trap_mstatus_getLsbD c v (by decide)]
    simp
  | i + 2 =>
    have hbeyond : h.mode < 2 ^ (i + 2) := hmode.trans_le (Nat.pow_le_pow_right Nat.two_pos (Nat.le_add_left 2 i))
    simp [Nat.testBit_eq_false_of_lt hbeyond]

/-- The return takes MIE from MPIE. -/
theorem Hart.mret_mie : h.mret.mstatus.getLsbD 3 = h.mstatus.getLsbD 7 := by
  rw [Hart.mret]
  dsimp only
  cases h.mstatus.getLsbD 7 with
  | false => simp
  | true => simp

end

end Sys2Proof.Machine
end

section
/-! SUPPORT. The obligation on faults and traps. -/

open Sys2Proof Sys2Proof.Machine

/-- Settles O19: FAULT read by its fields (`bits_faultWord`), what else a fault leaves (`State.fault_strand`, `State.fault_firstFault`), the
words a hart does not have (`exec_illegal_in_hart`, `virbel_illegal`), and the bits of MSTATUS over an exception and its return. The trap
registers are the model's (log entry 9), and the decoder hands a hart no word of another map (log entry 52). -/
theorem faultsAndTraps : Obligations.FaultsAndTraps := by
  refine ⟨fun s sid code slot creg off _ hcode hslot hcreg hoff hrunning => ?fault,
    fun s n hcur => ⟨fun i k hmap hother => exec_illegal_in_hart hcur hmap hother, fun x y z hmode => ?virbel⟩, fun h c v hmode => ?trap⟩
  case fault =>
    refine ⟨_, (State.fault_strand hrunning).trans (Strand.takeFault_frame ..), fun hfree => ?_, fun htaken k _ => ?_,
      State.fault_firstFault hrunning,
      State.fault_mem .., fun j hj => State.fault_strand_ne hj ..⟩
    · rw [bits_code] at hfree
      rw [Strand.takeFault_first hfree]
      exact bits_faultWord hcode hslot hcreg hoff
    · rw [bits_code] at htaken
      rw [Strand.takeFault_further htaken, getLsbD_or_more]
  case virbel =>
    exact ⟨virbel_illegal hcur hmode, virbel_illegal hcur hmode, virbel_illegal hcur hmode, virbel_illegal hcur hmode⟩
  case trap =>
    exact ⟨rfl, rfl, rfl, rfl, rfl, h.trap_mie c v, rfl, h.trap_mpp c v hmode,
      (h.trap c v).mret_mie.trans (h.trap_mpie c v)⟩

end

section
/-! SUPPORT. Bytes written through a window whose offsets may share an address: where several do, the last is what is read. -/
namespace Sys2Proof.Machine

variable {s : State}

/-- The addresses of a window, each with its byte; an offset without an address has none. -/
def windowCells (window : List (Option Nat)) (bytes : List Byte) : List (Nat × Byte) :=
  (window.zip bytes).filterMap fun y => y.1.map fun a => (a, y.2)

section
variable {window : List (Option Nat)} {bytes : List Byte}

theorem mem_of_mem_windowCells {e : Nat × Byte} (h : e ∈ windowCells window bytes) : some e.1 ∈ window := by
  obtain ⟨x, hx, he⟩ := List.mem_filterMap.mp h
  obtain ⟨a, ha, rfl⟩ := Option.map_eq_some_iff.mp he
  exact ha ▸ (List.of_mem_zip hx).1

/-- The cells are those before an offset, that of the offset, and those after it. -/
theorem windowCells_split {i y : Nat} {b : Byte} (hy : window[i]? = some (some y)) (hb : bytes[i]? = some b) :
    windowCells window bytes = windowCells (window.take i) (bytes.take i) ++
      (y, b) :: windowCells (window.drop (i + 1)) (bytes.drop (i + 1)) := by
  have hat : (window.zip bytes)[i]? = some (some y, b) := List.getElem?_zip_eq_some.mpr ⟨hy, hb⟩
  obtain ⟨hi, hget⟩ := List.getElem?_eq_some_iff.mp hat
  have hsplit : window.zip bytes = (window.take i).zip (bytes.take i) ++
      (some y, b) :: (window.drop (i + 1)).zip (bytes.drop (i + 1)) := by
    simp only [← hget, List.zip, ← List.take_zipWith, ← List.drop_zipWith, List.getElem_cons_drop, List.take_append_drop]
  simp only [windowCells, hsplit, List.filterMap_append, List.filterMap_cons, Option.map_some]

theorem State.untimedWrite_window_last {n i y : Nat} (hy : window[i]? = some (some y)) (hi : i < bytes.length)
    (hlast : ∀ j, i < j → window[j]? ≠ some (some y)) (hclear : ∀ w ∈ s.arming, y < w.1 ∨ w.1 + 32 ≤ y) :
    (s.untimedWrite n (windowCells window bytes)).mem.read y = bytes.getD i 0 := by
  have hnow : (s.arming.any fun w => decide (w.1 ≤ y) && decide (y < w.1 + 32)) = false := by
    simp only [List.any_eq_false, Bool.and_eq_true, decide_eq_true_eq, not_and]
    intro w hw
    have := hclear w hw
    omega
  rw [State.untimedWrite, windowCells_split hy (List.getElem?_eq_getElem hi), List.getD_eq_getElem _ _ hi]
  simp only [State.writeBytes_mem, List.filter_append, List.filter_cons, hnow, Bool.not_false, if_true]
  refine Memory.read_writeAll_last fun e he hey => ?_
  obtain ⟨j, hj⟩ := List.mem_iff_getElem?.mp (mem_of_mem_windowCells (List.mem_filter.mp he).1)
  rw [List.getElem?_drop, hey] at hj
  exact hlast _ (by omega) hj

theorem State.untimedWrite_window_out {n y : Nat} (hy : some y ∉ window) :
    (s.untimedWrite n (windowCells window bytes)).mem.read y = s.mem.read y :=
  Memory.read_writeAll_out fun _ he hey => hy (hey ▸ mem_of_mem_windowCells (List.mem_filter.mp he).1)

end

end Sys2Proof.Machine
end

section
/-! SUPPORT. Firmware services: SVC and its completion (f10 R266, f19 R401). -/
namespace Sys2Proof.Machine

variable {s : State} {sid : Nat}

/-! ### The word -/

theorem svcCall_in_mstep {n : Nat} (hcur : s.cur = .strand sid) (hstep : s.inMStep sid = true) :
    svcCall s n = .next (s.suppressHere sid Code.illop 0) := (strandOnly_strand hcur).trans (congrArg _ (if_pos hstep))

theorem svcCall_freezes {n : Nat} (hcur : s.cur = .strand sid) (hstep : s.inMStep sid = false) (hwait : (s.strand sid).wait = .none) :
    let st := s.strand sid
    svcCall s n = .next (s.setStrand sid { st with wait := .svc n (st.rd 61) (st.rd 62) ([60, 61, 62, 63].any fun r => st.rt r) }) := by
  refine (strandOnly_strand hcur).trans (congrArg _ ((if_neg ?_).trans (State.freeze_of_wait_none hwait)))
  rw [State.noWait, hstep]
  exact Bool.false_ne_true

/-! ### Addresses once a snapshot is taken -/

/-- A tenant whose objects stay translates as before. -/
theorem State.capAddr_setTenant {n : Nat} {t : Tenant} (hobjs : t.objs = (s.tenant n).objs) (c : Cap) (o : Nat) :
    (s.setTenant n t).capAddr sid c o = s.capAddr sid c o := by
  have hentry : (s.setTenant n t).entryOf c = s.entryOf c := by
    by_cases hn : capTid c.bits = n
    · rw [State.entryOf, State.obj, hn, State.tenant_setTenant, Tenant.obj, hobjs, State.entryOf, State.obj, hn, Tenant.obj]
    · rw [State.entryOf, State.obj, State.tenant_setTenant_ne hn, State.entryOf, State.obj]
  rw [State.capAddr, hentry]
  rfl

theorem State.capBytes_length (c : Cap) (o k : Nat) : (s.capBytes sid c o k).length = k := by simp [State.capBytes]

theorem State.capBytes_snapshot (n : Nat) (c : Cap) (o k : Nat) :
    (s.snapshot n).2.2.capBytes sid c o k = s.capBytes sid c o k := by
  simp only [State.capBytes, State.snapshot, State.capAddr_setTenant]

/-! ### The completion -/

section
variable {a b : BitVec 64} {x : Bool}

theorem execSvcComplete_null (hwait : (s.strand sid).wait = .svc 0 a b x) :
    execSvcComplete sid s = .next (s.setStrand sid ((s.strand sid).answer (svcAnswer 0 0))) := by
  rw [execSvcComplete]
  simp only [hwait]
  rfl

section
variable (hwait : (s.strand sid).wait = .svc 1 a b x)
include hwait

theorem execSvcComplete_hostev (hsome : a ≠ 0) (hmost : a.toNat ≤ 2 ^ 31) : execSvcComplete sid s =
    .next ((s.hostEvent (s.launchFn (ttOf sid)) (bits b 5 0) a.toNat).modStrand sid fun st => st.answer (svcAnswer 0 0)) := by
  rw [execSvcComplete]
  simp only [hwait]
  exact if_neg (not_or.mpr ⟨hsome, Nat.not_lt.mpr hmost⟩)

theorem execSvcComplete_hostev_refused (hbad : a = 0 ∨ 2 ^ 31 < a.toNat) :
    execSvcComplete sid s = .next (s.setStrand sid ((s.strand sid).answer (svcAnswer 2 0))) := by
  rw [execSvcComplete]
  simp only [hwait]
  exact if_pos hbad

end

/-- The count of an event of a function goes up by the amount. -/
theorem State.hostEvent_he (fn n : Nat) (amount : BitVec 64) :
    SMap.get 0 ((s.hostEvent fn n amount.toNat).func fn).he n = SMap.get 0 (s.func fn).he n + amount := by
  rw [State.hostEvent, State.func_setFunc, SMap.get_set_self, BitVec.ofNat_toNat, BitVec.setWidth_eq]

section
variable (hwait : (s.strand sid).wait = .svc 2 a b x)
include hwait

theorem execSvcComplete_snapshot_refused
    (hbad : a.toNat % 64 ≠ 0 ∨ s.writeCheck sid ((s.strand sid).rc 1) a.toNat 480 (rightR + rightW) ≠ none) :
    execSvcComplete sid s = .next (s.setStrand sid ((s.strand sid).answer (svcAnswer 2 0))) := by
  rw [execSvcComplete]
  simp only [hwait]
  exact if_pos (hbad.imp_right Option.isSome_iff_ne_none.mpr)

theorem execSvcComplete_snapshot (haligned : a.toNat % 64 = 0)
    (hcheck : s.writeCheck sid ((s.strand sid).rc 1) a.toNat 480 (rightR + rightW) = none)
    (hready : ∀ i < 480, s.byteReady sid ((s.strand sid).rc 1) (a.toNat + i) = true) :
    let n := s.owner sid
    let taken := (s.snapshot n).2.2
    let cells := windowCells (s.capBytes sid ((s.strand sid).rc 1) a.toNat 480) (s.snapBytes n)
    execSvcComplete sid s = .next (((taken.untimedWrite n cells).meterBytes (ttOf sid) (cells.map (·.1)) true).modStrand sid fun st =>
      st.answer (svcAnswer 0 (BitVec.ofNat 64 (s.tenant n).snaps))) := by
  intro n taken cells
  have hpasses : ¬ (a.toNat % 64 ≠ 0 ∨ (s.writeCheck sid ((s.strand sid).rc 1) a.toNat 480 (rightR + rightW)).isSome = true) := by
    rw [hcheck]
    simp [haligned]
  have hthere : ((List.range 480).all fun i => s.byteReady sid ((s.strand sid).rc 1) (a.toNat + i)) = true :=
    List.all_eq_true.mpr fun i hi => hready i (List.mem_range.mp hi)
  have hcells : cells = windowCells (taken.capBytes sid ((s.strand sid).rc 1) a.toNat 480) (s.snapBytes n) := by
    rw [State.capBytes_snapshot]
  rw [execSvcComplete, hcells]
  simp only [hwait]
  exact (if_neg hpasses).trans (if_pos hthere)

end

theorem execSvcComplete_linkgen {g : Group} (hwait : (s.strand sid).wait = .svc 3 a b x) (hgroup : (s.ttOfStrand sid).group = some g) :
    execSvcComplete sid s = .next (s.setStrand sid ((s.strand sid).answer
      (svcAnswer 0 (BitVec.ofNat 64 s.lgen) ++ [.d 62 (BitVec.ofNat 64 g.mgen) x]))) := by
  rw [execSvcComplete]
  simp only [hwait, hgroup]
  rfl

end

/-! ### The snapshot -/

/-- A SNAPSHOT to a window that is there: what it writes, answers and counts. -/
theorem execSvcComplete_snapshot_writes {a b : BitVec 64} {x : Bool} {n : Nat} {window : List (Option Nat)}
    (hwait : (s.strand sid).wait = .svc 2 a b x) (hn : s.owner sid = n)
    (hwindow : s.capBytes sid ((s.strand sid).rc 1) a.toNat 480 = window) (haligned : a.toNat % 64 = 0)
    (hcheck : s.writeCheck sid ((s.strand sid).rc 1) a.toNat 480 (rightR + rightW) = none)
    (hready : ∀ i < 480, s.byteReady sid ((s.strand sid).rc 1) (a.toNat + i) = true) :
    ∃ t, execSvcComplete sid s = .next t ∧ (t.tenant n).snaps = (s.tenant n).snaps + 1 ∧
      t.strand sid = (s.strand sid).answer (svcAnswer 0 (BitVec.ofNat 64 (s.tenant n).snaps)) ∧
      t.mem = ((s.snapshot n).2.2.untimedWrite n (windowCells window (s.snapBytes n))).mem := by
  have hexec := execSvcComplete_snapshot hwait haligned hcheck hready
  simp only [hn, hwindow] at hexec
  generalize windowCells window (s.snapBytes n) = cells at hexec ⊢
  have hmeters := State.meterBytes_sameButMeters (s := (s.snapshot n).2.2.untimedWrite n cells) (ttOf sid) (cells.map (·.1)) true
  refine ⟨_, hexec, ?_, ?_, hmeters.mem⟩
  · obtain ⟨m, hm⟩ := hmeters.2 n
    exact (congrArg Tenant.snaps hm).trans (congrArg Tenant.snaps (State.snapshot_tenant n))
  · rw [State.strand_modStrand, hmeters.1.mem_strand.2]
    rfl

end Sys2Proof.Machine
end

section
/-! SUPPORT. Work queues: WQPOP, WQWAIT and its completion (f03 R84, f20 R428, R429). -/
namespace Sys2Proof.Machine

variable {s : State} {sid : Nat} {d a : BitVec 6} {q : BitVec 2}

section
variable (hcur : s.cur = .strand sid)
include hcur

theorem execWqpop_none (hnone : (s.wqReady (ttOf sid) q.toNat).length ≤ SMap.get 0 (s.ttOfStrand sid).wqTaken q.toNat) :
    execWqpop d a q s = .next (s.setStrand sid ((s.strand sid).push 0 0 (.d a.toNat 0 false))) := by
  rw [execWqpop, strandOnly_strand hcur]
  simp only [List.drop_eq_nil_of_le hnone]
  rfl

/-- The record comes in eight words, and is taken for the strands after this one. -/
theorem execWqpop_takes {r : Slot} (hr : (s.wqReady (ttOf sid) q.toNat)[SMap.get 0 (s.ttOfStrand sid).wqTaken q.toNat]? = some r) :
    let t := s.ttOfStrand sid
    execWqpop d a q s = .next ((s.setTt (ttOf sid) { t with
        wqTaken := SMap.set 0 t.wqTaken q.toNat (SMap.get 0 t.wqTaken q.toNat + 1) }).modStrand sid fun st =>
      (st.pushAll 0 0 ((List.range 8).map fun i => .d (d.toNat + i) (r.extractLsb' (64 * i) 64) false)).push 0 0 (.d a.toNat 1 false)) := by
  obtain ⟨hlt, hget⟩ := List.getElem?_eq_some_iff.mp hr
  rw [execWqpop, strandOnly_strand hcur]
  simp only [List.drop_eq_getElem_cons hlt, hget, Strand.pushAll, List.foldl_map, BitVec.extractLsb', Nat.shiftRight_eq_div_pow]

section
variable (hstep : s.inMStep sid = false)
include hstep

theorem execWqwait_ready (hready : s.wqReady (ttOf sid) q.toNat ≠ []) : execWqwait q s = .next s := by
  rw [execWqwait, strandOnly_strand hcur, State.noWait, hstep, if_neg Bool.false_ne_true, if_neg (by simpa using hready)]

theorem execWqwait_freezes (hwait : (s.strand sid).wait = .none) (hnone : s.wqReady (ttOf sid) q.toNat = []) :
    execWqwait q s = .next (s.setStrand sid { s.strand sid with wait := .wq q.toNat }) := by
  rw [execWqwait, strandOnly_strand hcur, State.noWait, hstep, if_neg Bool.false_ne_true, if_pos (by rw [hnone]; rfl),
    State.freeze_of_wait_none hwait]

end
end

theorem execWqwaitComplete_ready {k : Nat} (hwait : (s.strand sid).wait = .wq k) (hready : s.wqReady (ttOf sid) k ≠ []) :
    execWqwaitComplete sid s = .next (s.setStrand sid ((s.strand sid).answer [])) := by
  rw [execWqwaitComplete]
  simp only [hwait]
  exact if_neg (by simpa using hready)

end Sys2Proof.Machine
end

section
/-! SUPPORT. The obligation on services and work queues. -/

open Sys2Proof Sys2Proof.Machine

theorem firmwareServices : Rule.FirmwareServices := by
  intro s sid a b x st fn window snap
  refine ⟨fun hcur hstep => ?mstep, fun hcur hstep hwait => ?cstep, execSvcComplete_null, fun hwait hsome hmost => ?hostev,
    execSvcComplete_hostev_refused, fun hwait haligned hcheck hready => ?snapshot, execSvcComplete_snapshot_refused,
    fun hwait g hgroup => execSvcComplete_linkgen hwait hgroup⟩
  case mstep =>
    simp only [List.forall_mem_cons, List.not_mem_nil, false_implies, implies_true, and_true]
    exact ⟨svcCall_in_mstep hcur hstep, svcCall_in_mstep hcur hstep, svcCall_in_mstep hcur hstep, svcCall_in_mstep hcur hstep⟩
  case cstep =>
    exact ⟨svcCall_freezes hcur hstep hwait, svcCall_freezes hcur hstep hwait, svcCall_freezes hcur hstep hwait,
      svcCall_freezes hcur hstep hwait⟩
  case hostev => exact ⟨_, execSvcComplete_hostev hwait hsome hmost, State.strand_modStrand .., rfl, State.hostEvent_he ..⟩
  case snapshot =>
    obtain ⟨t, hexec, hsnaps, hstrand, hmem⟩ := execSvcComplete_snapshot_writes hwait rfl rfl haligned hcheck hready
    have hlength : snap.length = 480 := s.snapBytes_length _
    refine ⟨t, hexec, hsnaps, hstrand, hlength, fun i y hy hlast hclear => ?_, fun y hy => ?_⟩
    · have hi : i < snap.length :=
        (List.getElem?_eq_some_iff.mp hy).1.trans_eq ((State.capBytes_length ..).trans hlength.symm)
      rw [hmem]
      exact State.untimedWrite_window_last hy hi hlast hclear
    · rw [hmem]
      exact State.untimedWrite_window_out hy

theorem workQueueWords : Rule.WorkQueueWords := by
  intro s sid d a q st ready taken
  refine ⟨fun hcur => ⟨execWqpop_none hcur, fun r hr => ?takes, fun hstep hwait =>
    ⟨execWqwait_ready hcur hstep, execWqwait_freezes hcur hstep hwait⟩⟩, fun k => execWqwaitComplete_ready⟩
  case takes =>
    refine ⟨_, execWqpop_takes hcur hr, rfl, ?_, State.strand_modStrand ..⟩
    rw [State.modStrand_tt, State.tt_setTt]
    dsimp only
    rw [SMap.get_set_self]

/-- Settles O40: each clause is its word's or its completion's equation for the case at hand; the bytes of a snapshot are read back out of the
window by `State.untimedWrite_window_last` and `State.untimedWrite_window_out`. -/
theorem servicesAndWorkQueues : Obligations.ServicesAndWorkQueues := ⟨firmwareServices, workQueueWords⟩

end

section
/-! SUPPORT. The words of the encoding tables and the maps that read them (f12 R302..R312, R316): fields that stand side by side are read back
one by one, and the fields a map reads off a word are the whole of the word. -/
namespace Sys2Proof

/-! ### Fields of a word -/

/-- Two fields of a word that lie side by side are one field. -/
theorem append_eq_fld {w : Word} {lo m n : Nat} {x : BitVec m} {y : BitVec n} (hx : x = fld w (lo + n) m) (hy : y = fld w lo n) :
    x ++ y = fld w lo (m + n) := by
  rw [hx, hy]
  exact BitVec.extractLsb'_append_extractLsb'_eq_extractLsb' rfl

/-- The field of all 32 bits is the word. -/
theorem fld_whole (w : Word) : fld w 0 32 = w := ext_all w

theorem toNat_fld (w : Word) (lo len : Nat) : (fld w lo len).toNat = w.toNat / 2 ^ lo % 2 ^ len := by
  rw [fld, BitVec.extractLsb'_toNat, Nat.shiftRight_eq_div_pow]

/-- SSTEP.M is no SSTEP: bit 11 of its word is set. -/
theorem sstepM_ne_sstep (n : BitVec 11) : (0x142001#21 ++ n).extractLsb' 0 24 ≠ 0#24 := by
  intro hzero
  have hbits := congrArg (BitVec.extractLsb' 11 13) hzero
  rw [BitVec.extractLsb'_extractLsb'_of_le (by decide), ext_hi _ _ (by decide)] at hbits
  exact absurd hbits (by decide)

/-! ### A map without its check -/

/-- What a map reads off a word, before the check that the instruction is well formed. -/
def raw (k : MapKind) (w : Word) : Option Instr :=
  match k with
  | .common => rawCommon w
  | .sPriv => rawS w
  | .vMap => rawV w
  | .xMap => rawX w
  | .tMap => rawT w
  | .hMap => rawH w
  | .virbel => rawVirbel w

theorem decode_eq_checked (k : MapKind) (w : Word) : decode k w = checked (raw k w) := by
  cases k <;> rfl

theorem checked_eq_some_iff {o : Option Instr} {i : Instr} : checked o = some i ↔ o = some i ∧ i.wellFormed = true := by
  cases o with
  | none => simp [checked]
  | some j =>
    by_cases hwf : j.wellFormed = true
    · rw [checked, if_pos hwf]
      exact ⟨fun h => ⟨h, Option.some.inj h ▸ hwf⟩, And.left⟩
    · rw [checked, if_neg hwf]
      exact ⟨nofun, fun ⟨h, hi⟩ => absurd (Option.some.inj h ▸ hi) hwf⟩

section
variable {i : Instr} {k : MapKind} {w : Word}

/-! ### Reading an encoded word

Row by row: the opcode picks the row of the map, a reserved field reads as encoded, and each operand is read back (`ext_hi`, `ext_lo`, `ext_all`).
The V map is the longest and is gone through in two halves of its opcodes. -/

theorem exists_encode (hmap : i.mapKind = some k) : ∃ w, encode i = some w := by
  cases i <;> cases hmap <;> exact ⟨_, rfl⟩

theorem raw_encode_of_ne_vMap (hk : k ≠ .vMap) (hmap : i.mapKind = some k) (hw : encode i = some w) : raw k w = some i := by
  cases i <;> cases hmap <;> cases hw
  -- no row of the V map
  all_goals try exact absurd rfl hk
  all_goals
    simp (disch := decide) only [raw, rawCommon, rawS, rawX, rawT, rawH, rawVirbel, fld, ext_hi, ext_lo, ext_all, Nat.reduceSub,
      BitVec.reduceExtractLsb', BitVec.reduceToNat, BitVec.ofNat_eq_ofNat, BitVec.reduceEq, sstepM_ne_sstep, and_true, and_self,
      if_true, if_false]

theorem rawV_encode_low (hop : (fld w 25 7).toNat < 0x6A) (hmap : i.mapKind = some .vMap) (hw : encode i = some w) : rawV w = some i := by
  cases i <;> cases hmap <;> cases hw
  all_goals
    simp (disch := decide) only [fld, ext_hi, ext_all, Nat.reduceSub, BitVec.reduceExtractLsb', BitVec.reduceToNat, Nat.reduceLT] at hop
  all_goals
    simp (disch := decide) only [rawV, fld, ext_hi, ext_lo, ext_all, Nat.reduceSub, BitVec.reduceExtractLsb', BitVec.reduceToNat,
      BitVec.ofNat_eq_ofNat, BitVec.reduceEq, and_self, if_true, if_false]

theorem rawV_encode_high (hop : 0x6A ≤ (fld w 25 7).toNat) (hmap : i.mapKind = some .vMap) (hw : encode i = some w) : rawV w = some i := by
  cases i <;> cases hmap <;> cases hw
  all_goals
    simp (disch := decide) only [fld, ext_hi, ext_all, Nat.reduceSub, BitVec.reduceExtractLsb', BitVec.reduceToNat, Nat.reduceLeDiff] at hop
  all_goals
    simp (disch := decide) only [rawV, fld, ext_hi, ext_lo, ext_all, Nat.reduceSub, BitVec.reduceExtractLsb', BitVec.reduceToNat,
      BitVec.ofNat_eq_ofNat, BitVec.reduceEq, and_true, and_self, if_true, if_false]

theorem raw_encode (hmap : i.mapKind = some k) (hw : encode i = some w) : raw k w = some i := by
  by_cases hk : k = .vMap
  · subst hk
    rcases Nat.lt_or_ge (fld w 25 7).toNat 0x6A with hop | hop
    · exact rawV_encode_low hop hmap hw
    · exact rawV_encode_high hop hmap hw
  · exact raw_encode_of_ne_vMap hk hmap hw

/-! ### Encoding what was read -/

/-- Row by row: opcode, operands and reserved fields, side by side, are all of the word (`append_eq_fld`). -/
theorem encode_raw (h : raw k w = some i) : encode i = some w ∧ i.mapKind = some k := by
  cases k
  all_goals
    simp only [raw, rawCommon, rawS, rawV, rawX, rawT, rawH, rawVirbel] at h
    (repeat' split at h) <;> cases h
  all_goals
    refine ⟨congrArg some ((?_ : _ = fld w 0 32).trans (fld_whole w)), rfl⟩
    (repeat' apply append_eq_fld) <;> apply BitVec.eq_of_toNat_eq
  all_goals simp_all only [← BitVec.toNat_inj, toNat_fld, BitVec.ofNat_eq_ofNat, BitVec.toNat_ofNat]
  all_goals omega

/-- The decoder of a map reads exactly the words of the well-formed instructions of that map. -/
theorem decode_eq_some_iff : decode k w = some i ↔ encode i = some w ∧ i.mapKind = some k ∧ i.wellFormed = true := by
  rw [decode_eq_checked, checked_eq_some_iff, ← and_assoc]
  exact and_congr_left' ⟨encode_raw, fun ⟨hw, hmap⟩ => raw_encode hmap hw⟩

end

end Sys2Proof
end

section
/-! SUPPORT. The obligations on the encodings and the maps. -/

open Sys2Proof

/-- Settles O2: an instruction of a map has a word, and the map reads it back (`decode_eq_some_iff`). -/
theorem decodeEncodeAgree : Obligations.DecodeEncodeAgree := by
  intro i k hmap hwf
  obtain ⟨w, hw⟩ := exists_encode hmap
  exact ⟨w, hw, decode_eq_some_iff.mpr ⟨hw, hmap, hwf⟩⟩

/-- Settles O3: what a map reads off a word is the whole of the word (`decode_eq_some_iff`). -/
theorem decodedWordIsTheEncoding : Obligations.DecodedWordIsTheEncoding := fun _ _ _ => decode_eq_some_iff.mp

end

section
/-! SUPPORT. Guarded vector words (f20 R405): the unit taken, the lanes written and what each reads, the flags together; and which guarded word each
lane-by-lane instruction is (f20 R408..R410, R420, R422, R424, R426, R427). -/
namespace Sys2Proof.Machine

/-! ### Images of lanes -/

section
variable {act : List Nat} {f : Nat → BitVec 32 × BitVec 8}

@[simp] theorem get_allLanes (l : Nat) : SMap.get false allLanes l = decide (l < 1024) := by
  simp [allLanes, SMap.get_ofFn]

/-- The mask over a list of lanes holds at the lanes listed. -/
theorem get_mapTrue {l : Nat} : SMap.get false (act.map fun k => (k, true)) l = true ↔ l ∈ act := by
  induction act with
  | nil => simp
  | cons k rest ih =>
    rw [List.map_cons, SMap.get_cons, List.mem_cons]
    by_cases hl : l = k <;> simp [hl, ih]

theorem get_writtenLanes {z : BitVec 1} {l : Nat} (hl : l < 1024) : SMap.get false (writtenLanes z act) l = true ↔ l ∈ act ∨ z = 1 := by
  unfold writtenLanes
  split
  next hz => simp [hz, hl]
  next hz => exact get_mapTrue.trans (or_iff_left hz).symm

/-- The image of the results of lanes reads each lane's value, and 0 elsewhere. -/
theorem get_laneImage (l : Nat) : SMap.get 0 (laneImage (act.map fun k => (k, f k))).1 l = if l ∈ act then (f l).1 else 0 := by
  unfold laneImage
  dsimp only
  induction act with
  | nil => rfl
  | cons k rest ih =>
    rw [List.map_cons]
    by_cases hzero : (f k).1 = 0
    · rw [List.filterMap_cons_none (by simp [hzero]), ih]
      by_cases hl : l = k <;> simp [hl, hzero]
    · rw [List.filterMap_cons_some (b := (k, (f k).1)) (by exact if_neg hzero), SMap.get_cons, ih]
      by_cases hl : l = k <;> simp [hl]

theorem laneImage_flags : (laneImage (act.map fun k => (k, f k))).2 = orFlags (act.map fun k => (f k).2) := by
  simp [laneImage, Function.comp_def]

end

/-! ### The mould in a strand -/

section
variable {s : State} {sid occ lat : Nat} {z : BitVec 1} {d : BitVec 6} {g : BitVec 4} {F : Strand → Nat → BitVec 32 × BitVec 8}

theorem vUnit_busy {f : Strand → Strand} (hcur : s.cur = .strand sid) (hbusy : (s.strand sid).vclk < (s.strand sid).occV) :
    vUnit s occ f = .next (s.suppressHere sid Code.illop 1) := by
  refine (strandOnly_strand hcur).trans ?_
  rw [if_pos hbusy]
  rfl

theorem vUnit_free {f : Strand → Strand} (hcur : s.cur = .strand sid) (hfree : (s.strand sid).occV ≤ (s.strand sid).vclk) :
    vUnit s occ f = .next (s.setStrand sid (f { s.strand sid with occV := (s.strand sid).vclk + occ })) := by
  refine (strandOnly_strand hcur).trans ?_
  rw [if_neg (Nat.not_lt.mpr hfree)]

/-- With no lane active a guarded word only occupies the unit. -/
theorem vGuarded_idle (hcur : s.cur = .strand sid) (hfree : (s.strand sid).occV ≤ (s.strand sid).vclk) (hidle : (s.strand sid).active g = []) :
    vGuarded s occ lat z d g F = .next (s.setStrand sid { s.strand sid with occV := (s.strand sid).vclk + occ }) := by
  have hactive : ({ s.strand sid with occV := (s.strand sid).vclk + occ } : Strand).active g = [] := hidle
  rw [vGuarded, vUnit_free hcur hfree, hactive]
  rfl

/-- With lanes active their values, flags and count are pending at issue + `lat`. -/
theorem vGuarded_active (hcur : s.cur = .strand sid) (hfree : (s.strand sid).occV ≤ (s.strand sid).vclk)
    (hactive : (s.strand sid).active g ≠ []) {f : Nat → BitVec 32 × BitVec 8}
    (hf : F { s.strand sid with occV := (s.strand sid).vclk + occ } = f) :
    vGuarded s occ lat z d g F = .next (s.setStrand sid (((({ s.strand sid with occV := (s.strand sid).vclk + occ }.push 1 lat
      (.v d.toNat (writtenLanes z ((s.strand sid).active g)) (laneImage (((s.strand sid).active g).map fun l => (l, f l))).1)).pushFlags 1 lat
      (orFlags (((s.strand sid).active g).map fun l => (f l).2))).push 1 lat (.meter 9 ((s.strand sid).active g).length)))) := by
  have hsame : ({ s.strand sid with occV := (s.strand sid).vclk + occ } : Strand).active g = (s.strand sid).active g := rfl
  have hsome : ¬ ((s.strand sid).active g).isEmpty = true := by simpa using hactive
  rw [vGuarded, vUnit_free hcur hfree, hsame, if_neg hsome, hf, ← laneImage_flags]

/-! ### The lane-by-lane words -/

/-- What the rule of a lane-by-lane word gives each lane. -/
def laneValue (sid : Nat) (i : Instr) (st : Strand) : Nat → BitVec 32 × BitVec 8 :=
  ((laneSpec sid st i).map fun spec => spec.2.2.2.2.2).getD fun _ => (0, 0)

/-- The unit's occupation is nothing a rule reads. -/
theorem laneValue_occV {i : Instr} {f : Nat → BitVec 32 × BitVec 8} {st : Strand} {x : Nat} (h : laneSpec sid st i = some (d, z, g, occ, lat, f)) :
    laneValue sid i { st with occV := x } = f := by
  have hsame : laneSpec sid { st with occV := x } i = laneSpec sid st i := rfl
  rw [laneValue, hsame, h]
  rfl

/-- A lane-by-lane word is a guarded word whose lanes take what its rule gives: its mould unfolds to that, the row and column of a moved lane
with their factor on the other side. -/
theorem exec_eq_vGuarded {i : Instr} {f : Nat → BitVec 32 × BitVec 8} (hcur : s.cur = .strand sid)
    (h : laneSpec sid (s.strand sid) i = some (d, z, g, occ, lat, f)) : exec i s = vGuarded s occ lat z d g (laneValue sid i) := by
  cases i <;> cases h
  all_goals dsimp only [exec]
  case vrotr | vrotc | vbcr | vbcc => simp only [execVrotr, execVrotc, execVbcr, execVbcc, Nat.mul_comm _ 64]; rfl
  case vrng => rw [execVrng, hcur]; rfl
  all_goals rfl

end
end Sys2Proof.Machine
end

section
/-! SUPPORT. The obligations on the lane-by-lane vector words. -/

open Sys2Proof Sys2Proof.Machine

/-- Settles O21: the word is a guarded word (`exec_eq_vGuarded`), and its image and mask read lane by lane. -/
theorem vectorWordsPerformByLanes : Obligations.VectorWordsPerformByLanes := by
  intro s sid i d z g occ lat f hcur hfree hspec hactive
  exact ⟨_, _, (exec_eq_vGuarded hcur hspec).trans (vGuarded_active hcur hfree hactive (laneValue_occV hspec)),
    fun l hl => ⟨get_writtenLanes hl, get_laneImage l⟩⟩

/-- Settles O22: the word is a guarded word, which a busy unit suppresses and which without an active lane only takes the unit. -/
theorem vectorUnitBusyOrIdle : Obligations.VectorUnitBusyOrIdle := by
  intro s sid i d z g occ lat f hcur hspec
  rw [exec_eq_vGuarded hcur hspec]
  exact ⟨vUnit_busy hcur, fun hfree hidle => vGuarded_idle hcur hfree hidle⟩

end

section
/-! SUPPORT. Steps with no decoded word: a word suppressed in its slot (f12 R317), a hart's word that is not Virbel's (f09 R244), turns and
stages, and what the last stage of a gcy leaves of the counter. -/
namespace Sys2Proof.Machine

variable {s : State}

/-! ### Words and turns -/

/-- A word that decodes to nothing and is no SVC is suppressed with ILLOP. -/
theorem State.slotRun_of_decodeSlot_none {sid slot : Nat} {w : Word} (h : decodeSlot slot w = none)
    (hsvc : w.extractLsb' 12 20 ≠ 0xA2000#20) : s.slotRun sid slot w = .next (s.suppressHere sid Code.illop slot) := by
  simp only [State.slotRun, h, hsvc, and_false, if_false]
  rfl

theorem State.hartStep_of_decodeMule_none {n : Fin 32} (hawake : (s.hart n).sleep = none) (h : decodeMule (s.hartWord n) = none) :
    s.hartStep n = .next (s.rvStep n).idle := by
  simp [State.hartStep, hawake, h]

theorem step_turn {a : Agent} {rest : List Agent} (hcur : s.cur = .none) (htodo : s.todo = a :: rest) :
    step s = .next { s with cur := a, todo := rest } := by
  simp only [step, hcur, htodo]

theorem step_stage (hcur : s.cur = .none) (htodo : s.todo = []) : step s = .next s.stageStep := by
  simp only [step, hcur, htodo]

/-! ### The counter in the last stage of a gcy -/

@[simp] theorem State.meterTt_gclk (k i n : Nat) : (s.meterTt k i n).gclk = s.gclk := by
  obtain ⟨x, y, h, -⟩ := State.meterTt_frame (s := s) k i n
  rw [h]
  rfl

@[simp] theorem State.tickStrand_gclk (sid : Nat) : (s.tickStrand sid).gclk = s.gclk := by
  unfold State.tickStrand
  dsimp only
  repeat' split
  all_goals simp

@[simp] theorem State.sendFrames_gclk : s.sendFrames.gclk = s.gclk := foldl_keeps fun _ _ => rfl

theorem State.tickStage_gclk : s.tickStage.gclk = s.gclk + 1 := by
  have hstrands : ((SMap.keys s.strands).foldl State.tickStrand s).gclk = s.gclk := foldl_keeps fun _ => State.tickStrand_gclk
  simp only [State.tickStage, State.sendFrames_gclk, hstrands]

end Sys2Proof.Machine
end

section
/-! SUPPORT. The obligation on steps that run no decoded word. -/

open Sys2Proof Sys2Proof.Machine

theorem stepSuppressesIllegalWord : Rule.StepSuppressesIllegalWord := by
  intro s sid slot rest hcur hslots hnone hsvc
  rw [step_strand hcur, State.strandStep_slot hslots, State.slotRun_of_decodeSlot_none hnone hsvc, thenDo]

theorem stepTakesTurnsThenStages : Rule.StepTakesTurnsThenStages := by
  refine ⟨fun s a rest => step_turn, fun s => step_stage, fun s hstage => ?tick, fun s n hcur hawake hnone => ?hart⟩
  case tick =>
    have htick : s.stageStep = s.tickStage := by simp only [State.stageStep, hstage]
    rw [htick]
    exact ⟨State.tickStage_gclk, rfl⟩
  case hart => rw [step_hart hcur, State.hartStep_of_decodeMule_none hawake hnone]

/-- Settles O11: whose turn it is decides the part of the step, and the last stage of a gcy counts GCLK once. -/
theorem stepsWithoutADecodedWord : Obligations.StepsWithoutADecodedWord := ⟨stepSuppressesIllegalWord, stepTakesTurnsThenStages⟩

end

section
/-! SUPPORT. GETCYC VCLK, RDCSR, WRCSR, CLRT and NOP, and what the numbered registers read (f12 R313, f18 R349, R354, f19 R378, R391, f20 R430). -/
namespace Sys2Proof.Machine

variable {s : State} {sid : Nat} {st : Strand}

/-! ### What a register reads -/

/-- The writable numbers are read out of the register file. -/
theorem State.readCsr_of_isRwCsr {c : BitVec 12} (h : isRwCsr c = true) :
    s.readCsr sid c.toNat = (s.strand sid).getCsr c.toNat &&& readMask c.toNat := by
  simp only [isRwCsr, Bool.or_eq_true, decide_eq_true_eq] at h
  unfold State.readCsr
  split
  case h_13 => rfl
  all_goals omega

theorem and_readMask (v : BitVec 64) (n : Nat) :
    v &&& readMask n = if 0x040 ≤ n ∧ n ≤ 0x04F then v &&& 0xFF000003FF else v := by
  unfold readMask
  by_cases hentry : 0x040 ≤ n ∧ n < 0x050
  · rw [if_pos hentry, if_pos (by omega)]
  · rw [if_neg hentry, if_neg (by omega), BitVec.and_allOnes]

/-- TAINT reads the taint bits, that of D0 as 0. -/
theorem getLsbD_readTaint (n : Nat) (h : n < 64) : (st.taint &&& ~~~ 1#64).getLsbD n = (st.taint.getLsbD n && decide (n ≠ 0)) := by
  rw [BitVec.getLsbD_and, BitVec.getLsbD_not, BitVec.getLsbD_one]
  simp [h]

/-! ### Taint bits cleared -/

/-- The taint bits CLRT clears. -/
def clrtMask (d a b x : BitVec 6) : BitVec 64 := [d, a, b, x].foldl (fun m r => m ||| BitVec.twoPow 64 r.toNat) 0

theorem getLsbD_clrtMask (d a b x : BitVec 6) (n : Nat) :
    (clrtMask d a b x).getLsbD n = !decide (n ≠ d.toNat ∧ n ≠ a.toNat ∧ n ≠ b.toNat ∧ n ≠ x.toNat) := by
  have hbit (r : BitVec 6) : (BitVec.twoPow 64 r.toNat).getLsbD n = decide (n = r.toNat) := by
    rw [BitVec.getLsbD_twoPow, decide_eq_true r.isLt, Bool.true_and, decide_eq_decide, eq_comm]
  simp [clrtMask, hbit, BitVec.getLsbD_or, Bool.or_assoc]

/-! ### The words -/

theorem execClrt_strand {d a b x : BitVec 6} (h : s.cur = .strand sid) :
    exec (.clrt d a b x) s = .next (s.setStrand sid ((s.strand sid).push 0 0 (.clrt (clrtMask d a b x)))) := strandOnly_strand h

theorem execWrcsr_rw {a : BitVec 6} {c : BitVec 12} (h : s.cur = .strand sid) (hc : isRwCsr c = true) :
    exec (.wrcsr a c) s = .next (s.setStrand sid ((s.strand sid).push 0 1 (.csr c.toNat ((s.strand sid).rd a.toNat)))) := by
  refine (strandOnly_strand h).trans ?_
  rw [if_pos hc]
  rfl

theorem execWrcsr_readOnly {a : BitVec 6} {c : BitVec 12} (h : s.cur = .strand sid) (hc : isRwCsr c = false) :
    exec (.wrcsr a c) s = .next (s.suppressHere sid Code.illop 0) := by
  refine (strandOnly_strand h).trans ?_
  rw [if_neg (by simp [hc])]
  rfl

/-- A word whose one effect is a write to Dd performs it. -/
theorem performsD_of_exec {i : Instr} {slot lat : Nat} {d : BitVec 6} {v : BitVec 64} {tn : Bool}
    (h : exec i s = .next (s.setStrand sid ((s.strand sid).push slot lat (.d d.toNat v tn)))) : PerformsD s sid i slot lat d v tn :=
  ⟨⟨(s.strand sid).vclk + lat, none, slot, (s.strand sid).seq, .d d.toNat v tn⟩, rfl, rfl, rfl, rfl, h, fun _ _ => State.land_d⟩

end Sys2Proof.Machine
end

section
/-! SUPPORT. The obligation on the CSR words, CLRT and NOP. -/

open Sys2Proof Sys2Proof.Machine

theorem csrAndTaintWords : Rule.CsrAndTaintWords := by
  intro s sid d a b x c hcur st
  refine ⟨performsD_of_exec (byAgent_strand hcur), performsD_of_exec (strandOnly_strand hcur), execWrcsr_rw hcur,
    clrtMask d a b x, execClrt_strand hcur, fun u old => ⟨_, State.land_clrt, rfl, fun n hn => ?_⟩⟩
  rw [BitVec.getLsbD_and, BitVec.getLsbD_not, getLsbD_clrtMask, Bool.not_not, decide_eq_true hn, Bool.true_and]

theorem csrValues : Rule.CsrValues := by
  intro s sid st
  refine ⟨rfl, rfl, rfl, rfl, rfl, ?_, fun n hpos hn => ?_, fun c hc => ?_⟩
  · exact (getLsbD_readTaint 0 (by decide)).trans (by simp)
  · exact (getLsbD_readTaint n hn).trans (by rw [decide_eq_true (Nat.pos_iff_ne_zero.mp hpos), Bool.and_true])
  · rw [State.readCsr_of_isRwCsr hc, and_readMask]

theorem wrcsrOfReadOnlyIsSuppressed : Rule.WrcsrOfReadOnlyIsSuppressed := fun _ _ _ _ => execWrcsr_readOnly

theorem nopChangesNothing : Rule.NopChangesNothing := by
  rintro s (⟨sid, hcur⟩ | ⟨p, hcur⟩)
  · exact byAgent_strand hcur
  · exact byAgent_hen hcur

/-- Settles O18: each word by its equation in a strand, each number by the case of `readCsr` it falls in. -/
theorem csrWords : Obligations.CsrWords := ⟨csrAndTaintWords, csrValues, wrcsrOfReadOnlyIsSuppressed, nopChangesNothing⟩

end

section
/-! SUPPORT. The integer words of the common map (f18 R341..R344, R354, f19 R375): each is the D mould over the value its rule gives. -/
namespace Sys2Proof.Machine

/-! ### The values -/

section
variable (a b : BitVec 64)

theorem add_eq_ofNat : a + b = BitVec.ofNat 64 (a.toNat + b.toNat) := by
  rw [BitVec.ofNat_add, BitVec.ofNat_toNat, BitVec.ofNat_toNat, BitVec.setWidth_eq, BitVec.setWidth_eq]

theorem sub_eq_ofInt : a - b = BitVec.ofInt 64 (a.toInt - b.toInt) := by
  rw [Int.sub_eq_add_neg, BitVec.ofInt_add, BitVec.ofInt_neg, BitVec.ofInt_toInt, BitVec.ofInt_toInt, BitVec.sub_eq_add_neg]

theorem mul_eq_ofNat : a * b = BitVec.ofNat 64 (a.toNat * b.toNat) := by
  rw [BitVec.ofNat_mul, BitVec.ofNat_toNat, BitVec.ofNat_toNat, BitVec.setWidth_eq, BitVec.setWidth_eq]

theorem remVal_eq : remVal a b = if b = 0 then a else BitVec.ofInt 64 (a.toInt - b.toInt * a.toInt.tdiv b.toInt) := by
  rw [remVal, sgn, sgn, Int.tmod_def]
  rfl

theorem shiftLeft_eq_ofNat (n : Nat) : a <<< n = BitVec.ofNat 64 (a.toNat * 2 ^ n) := by
  refine BitVec.eq_of_toNat_eq ?_
  rw [BitVec.toNat_shiftLeft, Nat.shiftLeft_eq, BitVec.toNat_ofNat]

theorem ushiftRight_eq_ofNat (n : Nat) : a >>> n = BitVec.ofNat 64 (a.toNat / 2 ^ n) := by
  refine BitVec.eq_of_toNat_eq ?_
  rw [BitVec.toNat_ushiftRight, Nat.shiftRight_eq_div_pow, BitVec.toNat_ofNat,
    Nat.mod_eq_of_lt ((Nat.div_le_self ..).trans_lt a.isLt)]

theorem sshiftRight_eq_ofInt (n : Nat) : a.sshiftRight n = BitVec.ofInt 64 (a.toInt / 2 ^ n) := by
  refine BitVec.eq_of_toInt_eq ?_
  rw [← BitVec.ofInt_toInt (x := a.sshiftRight n), BitVec.toInt_sshiftRight, Int.shiftRight_eq_div_pow]
  norm_cast

theorem ite_slt {α : Type} (x y : α) : (if a.slt b = true then x else y) = if a.toInt < b.toInt then x else y := by
  simp only [BitVec.slt, decide_eq_true_eq]

theorem ite_slt_not {α : Type} (x y : α) : (if b.slt a = true then x else y) = if a.toInt ≤ b.toInt then y else x := by
  rw [ite_slt, ← ite_not]
  simp only [Int.not_lt]

/-- Of two equal words it is one which MAX takes. -/
theorem ite_slt_max : (if a.slt b = true then b else a) = if a.toInt ≤ b.toInt then b else a := by
  rw [ite_slt]
  rcases lt_trichotomy a.toInt b.toInt with hless | hsame | hmore
  · rw [if_pos hless, if_pos hless.le]
  · rw [BitVec.eq_of_toInt_eq hsame, ite_self, ite_self]
  · rw [if_neg hmore.not_gt, if_neg hmore.not_ge]

theorem agen_eq_ofNat (n : Nat) : a + b <<< n = BitVec.ofNat 64 (a.toNat + b.toNat * 2 ^ n) := by
  rw [shiftLeft_eq_ofNat, BitVec.ofNat_add, BitVec.ofNat_toNat, BitVec.setWidth_eq]

theorem addi_eq_ofInt (i : BitVec 12) : a + i.signExtend 64 = BitVec.ofInt 64 (a.toInt + i.toInt) := by
  rw [BitVec.ofInt_add, BitVec.ofInt_toInt]
  rfl

theorem bfx_eq_ofNat (lo w : BitVec 6) : (a >>> lo.toNat) &&& fieldMask w = BitVec.ofNat 64 (a.toNat / 2 ^ lo.toNat % 2 ^ (w.toNat + 1)) := by
  have hw : 2 ^ (w.toNat + 1) ≤ 2 ^ 64 := Nat.pow_le_pow_right Nat.two_pos w.isLt
  have hmask : (fieldMask w).toNat = 2 ^ (w.toNat + 1) - 1 := by
    rw [fieldMask, BitVec.toNat_ofNat]
    exact Nat.mod_eq_of_lt (by omega)
  refine BitVec.eq_of_toNat_eq ?_
  rw [BitVec.toNat_and, hmask, Nat.and_two_pow_sub_one_eq_mod, BitVec.toNat_ushiftRight, Nat.shiftRight_eq_div_pow, BitVec.toNat_ofNat]
  exact (Nat.mod_eq_of_lt ((Nat.mod_lt _ (by positivity)).trans_le hw)).symm

theorem movi_eq_ofInt (i : BitVec 16) (n : Nat) : i.signExtend 64 <<< n = BitVec.ofInt 64 (i.toInt * 2 ^ n) := by
  rw [BitVec.shiftLeft_eq_mul_twoPow, BitVec.ofInt_mul]
  refine congrArg (i.signExtend 64 * ·) (BitVec.eq_of_toNat_eq ?_)
  rw [BitVec.toNat_twoPow, BitVec.toNat_ofInt]
  norm_cast

end

/-! ### The words -/

section
variable {s : State} {i : Instr} {r : Nat → BitVec 64} {d : BitVec 6} {srcs : List (BitVec 6)} {lat : Nat} {tn : Bool} {v : BitVec 64}

/-- What the rule of an integer word gives of the registers it reads. -/
def intValue (g : BitVec 64) (i : Instr) (r : Nat → BitVec 64) : BitVec 64 :=
  ((intSpec g r i).map fun spec => spec.2.2.2.2).getD 0

theorem intValue_eq {g : BitVec 64} (h : intSpec g r i = some (d, srcs, lat, tn, v)) : intValue g i r = v := by
  rw [intValue, h]
  rfl

/-- An integer word is the D mould over the value of its rule. -/
theorem exec_eq_dResult (h : intSpec s.gclk r i = some (d, srcs, lat, tn, v)) :
    exec i s = dResult s lat d srcs tn (intValue s.gclk i) := by
  cases i <;> cases h
  all_goals
    dsimp only [exec]
    refine congrArg (dResult s _ _ _ _) (funext fun r => ?_)
    rw [intValue, intSpec, Option.map_some, Option.getD_some]
  case add => exact add_eq_ofNat ..
  case sub => exact sub_eq_ofInt ..
  case mul => exact mul_eq_ofNat ..
  case mulh | div => rfl
  case rem => exact remVal_eq ..
  case shl => exact shiftLeft_eq_ofNat ..
  case shr => exact ushiftRight_eq_ofNat ..
  case sar => exact sshiftRight_eq_ofInt ..
  case min => exact ite_slt_not ..
  case max => exact ite_slt_max ..
  case slt => exact ite_slt ..
  case sel => exact ite_not ..
  case agen => exact agen_eq_ofNat ..
  case addi => exact addi_eq_ofInt ..
  case bfx => exact bfx_eq_ofNat ..
  case movi => exact movi_eq_ofInt ..

theorem Strand.taints_map (st : Strand) (srcs : List (BitVec 6)) :
    st.taints (srcs.map (·.toNat)) = srcs.any fun x => st.rt x.toNat := List.any_map

/-- A Hen's register written reads the value; D0 keeps reading 0. -/
theorem Hen.rd_wd (h : Hen) (r : Nat) (v : BitVec 64) (x : Nat) : (h.wd r v).rd x = if x = r ∧ x ≠ 0 then v else h.rd x := by
  unfold Hen.wd
  split
  case isTrue hr => simp +contextual [hr]
  case isFalse hr =>
    unfold Hen.rd
    by_cases hx : x = r
    · simp [hx, hr]
    · simp [hx, SMap.get_set_ne hx]

/-- The D mould in a Hen refuses a register above D31. -/
theorem dResult_hen_beyond {p : Nat} {val : (Nat → BitVec 64) → BitVec 64} (hcur : s.cur = .hen p)
    (h : 32 ≤ d.toNat ∨ ∃ x ∈ srcs, 32 ≤ x.toNat) : dResult s lat d srcs tn val = .next (s.henEnd p 0x09) := by
  have hregs : ¬ (d.toNat < 32 ∧ (srcs.all fun r => decide (r.toNat < 32)) = true) := by
    simp only [List.all_eq_true, decide_eq_true_eq, not_and_or, not_forall, Nat.not_lt, exists_prop]
    exact h
  rw [dResult, byAgent_hen hcur]
  exact congrArg Host.Outcome.next (if_neg hregs)

end

end Sys2Proof.Machine
end

section
/-! SUPPORT. The obligations on the integer words. -/

open Sys2Proof Sys2Proof.Machine

/-- Settles O8: an integer word is the D mould over the value of its rule (`exec_eq_dResult`). -/
theorem integerWordsInAStrand : Obligations.IntegerWordsInAStrand := by
  intro s sid i d srcs lat tn v hcur _ hspec
  rw [exec_eq_dResult hspec, dResult_strand hcur, intValue_eq hspec, Strand.taints_map]

/-- Settles O9: the D mould in a Hen writes the register at once (`dResult_hen`), and refuses one above D31 (`dResult_hen_beyond`). -/
theorem integerWordsInAHen : Obligations.IntegerWordsInAHen := by
  refine ⟨fun s p i d srcs lat tn v hcur _ hspec hd hsrcs => ?write, fun s p i d srcs lat tn v hcur hspec hbeyond => ?refused⟩
  case write =>
    rw [exec_eq_dResult hspec, dResult_hen hcur hd hsrcs, intValue_eq hspec]
    refine ⟨_, rfl, fun j hj => State.hen_setHen_ne hj, ?_, fun x => ?_⟩
    · rw [State.hen_setHen]
    · rw [State.hen_setHen, Hen.rd_wd]
  case refused => rw [exec_eq_dResult hspec, dResult_hen_beyond hcur hbeyond]

end

section
/-! SUPPORT. CLZ, POPC, BFI and MOVHI by the bits of their results (f18 R341, R344, f19 R375). -/
namespace Sys2Proof.Machine

theorem clzVal_spec (a : BitVec 64) :
    ∃ n, clzVal a = BitVec.ofNat 64 n ∧ n ≤ 64 ∧ a.toNat < 2 ^ (64 - n) ∧ (n < 64 → 2 ^ (63 - n) ≤ a.toNat) := by
  unfold clzVal
  by_cases hzero : a = 0
  · refine ⟨64, if_pos hzero, le_rfl, ?_, fun h => absurd h (Nat.lt_irrefl _)⟩
    rw [hzero]
    decide
  · have hnat : a.toNat ≠ 0 := fun h => hzero (BitVec.eq_of_toNat_eq h)
    have htop : Nat.log2 a.toNat < 64 := (Nat.log2_lt hnat).mpr a.isLt
    refine ⟨63 - Nat.log2 a.toNat, if_neg hzero, by omega, ?_, fun _ => ?_⟩
    · rw [show 64 - (63 - Nat.log2 a.toNat) = Nat.log2 a.toNat + 1 by omega]
      exact Nat.lt_log2_self
    · rw [show 63 - (63 - Nat.log2 a.toNat) = Nat.log2 a.toNat by omega]
      exact Nat.log2_self_le hnat

theorem popcVal_eq (a : BitVec 64) : popcVal a = BitVec.ofNat 64 ((List.range 64).filter fun k => a.getLsbD k).length := by
  rw [popcVal, List.countP_eq_length_filter]

/-- A mask of w + 1 bits, bit by bit. -/
theorem getLsbD_fieldMask (w : BitVec 6) (k : Nat) : (fieldMask w).getLsbD k = decide (k ≤ w.toNat) := by
  have hw := w.isLt
  rw [fieldMask, BitVec.getLsbD_ofNat, Nat.testBit_two_pow_sub_one, ← Bool.decide_and, decide_eq_decide]
  omega

/-- The low bits of a word that a mask names, put `lo` bits up into another word. -/
theorem getLsbD_insert {x y m : BitVec 64} {lo k : Nat} (hk : k < 64) :
    ((x &&& ~~~ (m <<< lo)) ||| ((y &&& m) <<< lo)).getLsbD k =
      if lo ≤ k ∧ m.getLsbD (k - lo) = true then y.getLsbD (k - lo) else x.getLsbD k := by
  simp only [BitVec.getLsbD_or, BitVec.getLsbD_and, BitVec.getLsbD_not, BitVec.getLsbD_shiftLeft, hk, decide_true, Bool.true_and]
  by_cases hlo : lo ≤ k
  · cases hbit : m.getLsbD (k - lo) <;> simp [hlo, Nat.not_lt.mpr hlo]
  · simp [hlo, Nat.lt_of_not_le hlo]

theorem getLsbD_bfi {x y : BitVec 64} {lo w : BitVec 6} {k : Nat} (hk : k < 64) :
    ((x &&& ~~~ (fieldMask w <<< lo.toNat)) ||| ((y &&& fieldMask w) <<< lo.toNat)).getLsbD k =
      if lo.toNat ≤ k ∧ k ≤ lo.toNat + w.toNat then y.getLsbD (k - lo.toNat) else x.getLsbD k := by
  rw [getLsbD_insert hk, getLsbD_fieldMask]
  refine if_congr ?_ rfl rfl
  rw [decide_eq_true_eq]
  omega

theorem getLsbD_movhi {x : BitVec 64} {i : BitVec 16} {lo k : Nat} (hk : k < 64) :
    ((x &&& ~~~ (0xFFFF#64 <<< lo)) ||| (i.setWidth 64 <<< lo)).getLsbD k =
      if lo ≤ k ∧ k ≤ lo + 15 then i.getLsbD (k - lo) else x.getLsbD k := by
  have hmask (n : Nat) : (0xFFFF#64).getLsbD n = decide (n ≤ 15) := getLsbD_fieldMask 15 n
  have hwhole : i.setWidth 64 &&& 0xFFFF#64 = i.setWidth 64 := by
    refine BitVec.eq_of_getLsbD_eq fun n hn => ?_
    rw [BitVec.getLsbD_and, hmask, BitVec.getLsbD_setWidth]
    by_cases h : n ≤ 15
    · simp [h]
    · rw [i.getLsbD_of_ge n (by omega), Bool.and_false, Bool.false_and]
  rw [← hwhole, getLsbD_insert hk, hmask, BitVec.getLsbD_setWidth, decide_eq_true (by omega : k - lo < 64), Bool.true_and]
  refine if_congr ?_ rfl rfl
  rw [decide_eq_true_eq]
  omega

/-! ### The words -/

theorem Strand.taints_one (st : Strand) (a : Nat) : st.taints [a] = st.rt a := Bool.or_false _

theorem Strand.taints_two (st : Strand) (a b : Nat) : st.taints [a, b] = (st.rt a || st.rt b) := by
  simp only [Strand.taints, List.any_cons, List.any_nil, Bool.or_false]

section
variable {s : State} {sid : Nat} {d a : BitVec 6} (hcur : s.cur = .strand sid)
include hcur

theorem execClz_strand : exec (.clz d a) s = .next (s.setStrand sid ((s.strand sid).push 0 1
    (.d d.toNat (clzVal ((s.strand sid).rd a.toNat)) ((s.strand sid).rt a.toNat)))) := by
  rw [← Strand.taints_one]
  exact byAgent_strand hcur

theorem execPopc_strand : exec (.popc d a) s = .next (s.setStrand sid ((s.strand sid).push 0 1
    (.d d.toNat (popcVal ((s.strand sid).rd a.toNat)) ((s.strand sid).rt a.toNat)))) := by
  rw [← Strand.taints_one]
  exact byAgent_strand hcur

theorem execBfi_strand (lo w : BitVec 6) : exec (.bfi d a lo w) s = .next (s.setStrand sid ((s.strand sid).push 0 1
    (.d d.toNat (((s.strand sid).rd d.toNat &&& ~~~ (fieldMask w <<< lo.toNat)) |||
      (((s.strand sid).rd a.toNat &&& fieldMask w) <<< lo.toNat)) ((s.strand sid).rt d.toNat || (s.strand sid).rt a.toNat)))) := by
  rw [← Strand.taints_two]
  exact byAgent_strand hcur

theorem execMovhi_strand (h : BitVec 2) (i : BitVec 16) : exec (.movhi d h i) s = .next (s.setStrand sid ((s.strand sid).push 0 1
    (.d d.toNat (((s.strand sid).rd d.toNat &&& ~~~ (0xFFFF#64 <<< (16 * h.toNat))) ||| (i.setWidth 64 <<< (16 * h.toNat))) false))) :=
  byAgent_strand hcur

end

end Sys2Proof.Machine
end

section
/-! SUPPORT. The obligation on CLZ, POPC, BFI and MOVHI. -/

open Sys2Proof Sys2Proof.Machine

/-- Settles O10: each word by its equation in a strand, its value read bit by bit. -/
theorem bitWordsInAStrand : Obligations.BitWordsInAStrand := by
  intro s sid d a hcur st pends
  refine ⟨?clz, ?popc, fun lo wm _ => ⟨_, execBfi_strand hcur lo wm, fun k hk => getLsbD_bfi hk⟩,
    fun h i => ⟨_, execMovhi_strand hcur h i, fun k hk => getLsbD_movhi hk⟩⟩
  case clz =>
    obtain ⟨n, hn, hspec⟩ := clzVal_spec (st.rd a.toNat)
    exact ⟨n, hn ▸ execClz_strand hcur, hspec⟩
  case popc => exact popcVal_eq (st.rd a.toNat) ▸ execPopc_strand hcur

end

section
/-! SUPPORT. ADDI and AGEN by the value their rules give (f18 R342, R343). -/
namespace Sys2Proof.Machine

variable (a : BitVec 64)

/-- The unsigned reading of a word does as well as the signed one where the sum is wrapped. -/
theorem ofInt_toNat_add (i : Int) : BitVec.ofInt 64 (a.toNat + i) = BitVec.ofInt 64 (a.toInt + i) := by
  rw [BitVec.ofInt_add, BitVec.ofInt_add, BitVec.ofInt_toInt, BitVec.ofInt_natCast, BitVec.ofNat_toNat, BitVec.setWidth_eq]

end Sys2Proof.Machine
end

section
/-! SUPPORT. The obligation on ADDI and AGEN. -/

open Sys2Proof Sys2Proof.Machine

/-- Settles O12: both are integer words (`integerWordsInAStrand`), whose one effect is a write to Dd (`performsD_of_exec`). -/
theorem addiAndAgenPerform : Obligations.AddiAndAgenPerform := by
  intro s sid d a b x i hcur
  refine ⟨performsD_of_exec ?addi, performsD_of_exec ?agen⟩
  case addi =>
    rw [exec_eq_dResult (r := (s.strand sid).rd) rfl, dResult_strand hcur, intValue_eq rfl, ofInt_toNat_add, Strand.taints_map]
    simp
  case agen =>
    rw [exec_eq_dResult (r := (s.strand sid).rd) rfl, dResult_strand hcur, intValue_eq rfl, Strand.taints_map]
    simp

end

section
/-! SUPPORT. Derivation of capabilities: a window narrowed, or null and CAPDERIVE (f18 R347). -/
namespace Sys2Proof.Machine

section
variable {s : State} {sid : Nat} {d a b : BitVec 6} {f : Nat → Nat → Nat → Nat → Option (Nat × Nat × Nat)} (hcur : s.cur = .strand sid)
include hcur

/-- With right D and a window inside the old one, Cd takes the capability over that window. -/
theorem derive_gives {base len rights : Nat} (hmay : hasRights (capRights ((s.strand sid).rc a.toNat).bits) rightD = true)
    (hf : f (capBase ((s.strand sid).rc a.toNat).bits) (capLen ((s.strand sid).rc a.toNat).bits)
      (capRights ((s.strand sid).rc a.toNat).bits) ((s.strand sid).rd b.toNat).toNat = some (base, len, rights)) :
    derive s d a b f = .next (s.setStrand sid ((s.strand sid).push 0 2 (.c d.toNat ⟨capMake (capTid ((s.strand sid).rc a.toNat).bits)
      (capObj ((s.strand sid).rc a.toNat).bits) rights base len, ((s.strand sid).rc a.toNat).win⟩))) := by
  rw [derive, strandOnly_strand hcur]
  simp only [hmay, if_true, hf]

/-- Without right D, or with a window that is not inside the old one, Cd takes null and CAPDERIVE is recorded. -/
theorem derive_fails (h : hasRights (capRights ((s.strand sid).rc a.toNat).bits) rightD = true →
      f (capBase ((s.strand sid).rc a.toNat).bits) (capLen ((s.strand sid).rc a.toNat).bits)
        (capRights ((s.strand sid).rc a.toNat).bits) ((s.strand sid).rd b.toNat).toNat = none) :
    derive s d a b f = .next ((s.setStrand sid ((s.strand sid).push 0 2 (.c d.toNat Cap.null))).suppressHere sid Code.capDerive 0) := by
  rw [derive, strandOnly_strand hcur]
  dsimp only
  by_cases hmay : hasRights (capRights ((s.strand sid).rc a.toNat).bits) rightD = true
  · rw [if_pos hmay, h hmay]
  · rw [if_neg hmay]

end

end Sys2Proof.Machine
end

section
/-! SUPPORT. The obligation on the derivation of capabilities. -/

open Sys2Proof Sys2Proof.Machine

/-- Settles O13: the three words are one derivation (`derive_gives`, `derive_fails`), each with its own new window. -/
theorem capabilitiesNarrow : Obligations.CapabilitiesNarrow := by
  intro s sid d a b hcur st c v x gives fails may
  dsimp only [gives, fails, exec]
  refine ⟨?cinc, ?csetb, ?crestr, ?cincFails, ?csetbFails, ?crestrFails⟩
  case cinc => exact fun ⟨hmay, hlen, hbase⟩ => derive_gives hcur hmay (if_neg (not_or.mpr ⟨hlen.not_gt, hbase.not_ge⟩))
  case csetb => exact fun ⟨hmay, hlen⟩ => derive_gives hcur hmay (if_neg hlen.not_gt)
  case crestr => exact fun hmay => derive_gives hcur hmay rfl
  case cincFails => exact fun h => derive_fails hcur fun hmay => if_pos (h.resolve_left (not_not_intro hmay))
  case csetbFails => exact fun h => derive_fails hcur fun hmay => if_pos (h.resolve_left (not_not_intro hmay))
  case crestrFails => exact fun h => derive_fails hcur fun hmay => absurd hmay h

end

section
/-! SUPPORT. The scalar floating-point words and SDOT4 (f19 R393, R396..R398): a value to Dd and its flags, together. -/
namespace Sys2Proof.Machine

section
variable {s : State} {sid lat : Nat} {d : BitVec 6} {srcs : List (BitVec 6)} {val : (Nat → BitVec 64) → BitVec 64 × BitVec 8}

/-- A scalar result: the value to Dd and its flags are pending together. -/
theorem sResult_strand (hcur : s.cur = .strand sid) : sResult s lat d srcs val = .next (s.setStrand sid (((s.strand sid).push 0 lat
    (.d d.toNat (val (s.strand sid).rd).1 ((s.strand sid).taints (srcs.map (·.toNat))))).pushFlags 0 lat (val (s.strand sid).rd).2)) :=
  strandOnly_strand hcur

end

/-- The products of SDOT4 summed from the left. -/
theorem sdot4Sum_eq (a b : BitVec 64) : sdot4Sum a b =
    ((List.range 4).map fun k => (a.extractLsb' (8 * k) 8).toInt * (b.extractLsb' (8 * k) 8).toInt).sum := by
  rw [sdot4Sum, List.sum_eq_foldl]

theorem ofNat_b2n (c : Bool) : BitVec.ofNat 64 (b2n c) = if c then 1 else 0 := by
  cases c <;> rfl

end Sys2Proof.Machine
end

section
/-! SUPPORT. The obligation on the scalar floating-point words. -/

open Sys2Proof Sys2Proof.Machine

/-- Settles O14: each word is a scalar result (`sResult_strand`) over the operation of its rule. -/
theorem scalarFloatWords : Obligations.ScalarFloatWords := by
  intro s sid d a b x hcur st f gives
  dsimp only [gives, exec]
  refine ⟨sResult_strand hcur, sResult_strand hcur, sResult_strand hcur, ⟨_, rfl, ?sfcmp⟩, sResult_strand hcur, ?sdot4⟩
  case sfcmp =>
    rw [← ofNat_b2n]
    exact sResult_strand hcur
  case sdot4 =>
    rw [← sdot4Sum_eq]
    exact sResult_strand hcur

end

section
/-! SUPPORT. Timed loads, and LDS and STS (f18 R364, f19 R400): aligned and checked, or suppressed. -/
namespace Sys2Proof.Machine

variable {s : State} {sid : Nat}

/-! ### A checked timed load -/

section
variable {slot lat : Nat} {dst : LoadDst} {addrs : List (Option Nat)}

theorem State.timedLoad_open (h : s.refreshInM sid lat addrs = false) :
    s.timedLoad sid slot lat dst addrs = s.setStrand sid ((s.strand sid).pushLoad slot lat (.load dst addrs none)) :=
  if_neg (by rw [h]; exact Bool.false_ne_true)

theorem State.timedLoad_refreshed (h : s.refreshInM sid lat addrs = true) :
    s.timedLoad sid slot lat dst addrs = s.suppressHere sid Code.illop slot := if_pos h

end

/-! ### LDS and STS -/

section
variable {d a b x : BitVec 6} {c : Cap} {o code : Nat}

/-- A failed LDS: 0 is pending for Dd, and the word is suppressed. -/
def State.ldsFails (s : State) (sid : Nat) (d a b : BitVec 6) (c : Cap) (o code : Nat) : State :=
  (s.setStrand sid ((s.strand sid).push 0 (s.accLat sid c o ldsLat true) (.d d.toNat 0 ((s.strand sid).rt b.toNat)))).suppress
    sid code 0 a.toNat o

variable (hcur : s.cur = .strand sid) (hc : (s.strand sid).rc a.toNat = c) (ho : ldsOff (s.strand sid) b x = o)
include hcur hc ho

section
variable (haligned : (capBase c.bits + o) % 8 = 0)
include haligned

theorem execLds_checked (hok : s.readCheck sid c o 8 (rightR + rightT) = none) :
    execLds d a b x s = .next (s.timedLoad sid 0 (s.accLat sid c o ldsLat true) (.d d.toNat ((s.strand sid).rt b.toNat))
      (s.capBytes sid c o 8)) := by
  rw [execLds, strandOnly_strand hcur]
  simp only [hc, ho, haligned, hok, ne_eq, not_true_eq_false, if_false]

theorem execLds_refused (hbad : s.readCheck sid c o 8 (rightR + rightT) = some code) :
    execLds d a b x s = .next (s.ldsFails sid d a b c o code) := by
  rw [execLds, strandOnly_strand hcur]
  simp only [hc, ho, haligned, hbad, ne_eq, not_true_eq_false, if_false, State.ldsFails]

theorem execSts_checked (hok : s.writeCheck sid c o 8 (rightW + rightT) = none) :
    execSts d a b x s = .next (s.setStrand sid ((s.strand sid).push 0 (s.accLat sid c o ldsLat false)
      (.store ((s.capBytes sid c o 8).zip (bytesOf 8 ((s.strand sid).rd d.toNat).toNat)) none false []))) := by
  rw [execSts, strandOnly_strand hcur]
  simp only [hc, ho, haligned, hok, ne_eq, not_true_eq_false, if_false]

theorem execSts_refused (hbad : s.writeCheck sid c o 8 (rightW + rightT) = some code) :
    execSts d a b x s = .next (s.suppress sid code 0 a.toNat o) := by
  rw [execSts, strandOnly_strand hcur]
  simp only [hc, ho, haligned, hbad, ne_eq, not_true_eq_false, if_false]

end

section
variable (hodd : (capBase c.bits + o) % 8 ≠ 0)
include hodd

theorem execLds_unaligned : execLds d a b x s = .next (s.ldsFails sid d a b c o Code.capBound) := by
  rw [execLds, strandOnly_strand hcur]
  simp only [hc, ho, if_pos hodd, State.ldsFails]

theorem execSts_unaligned : execSts d a b x s = .next (s.suppress sid Code.capBound 0 a.toNat o) := by
  rw [execSts, strandOnly_strand hcur]
  simp only [hc, ho, if_pos hodd]

end

end

end Sys2Proof.Machine
end

section
/-! SUPPORT. The obligation on LDS and STS. -/

open Sys2Proof Sys2Proof.Machine

/-- Settles O15: each clause is the equation of its word for the case at hand; a checked LDS is a timed load. -/
theorem ldsAndSts : Obligations.LdsAndSts := by
  intro s sid d a b x hcur st c o zero
  have hloads (haligned : (capBase c.bits + o) % 8 = 0) (hok : s.readCheck sid c o 8 (rightR + rightT) = none) :=
    execLds_checked (d := d) hcur rfl rfl haligned hok
  exact ⟨fun haligned hok => ⟨fun hopen => (hloads haligned hok).trans (congrArg _ (State.timedLoad_open hopen)),
      fun hrefresh => (hloads haligned hok).trans (congrArg _ (State.timedLoad_refreshed hrefresh))⟩,
    fun code haligned => execLds_refused hcur rfl rfl haligned, fun code haligned => execSts_refused hcur rfl rfl haligned,
    fun haligned => execSts_checked hcur rfl rfl haligned,
    fun hodd => ⟨execLds_unaligned hcur rfl rfl hodd, execSts_unaligned hcur rfl rfl hodd⟩⟩

end

section
/-! SUPPORT. The drain an EXIT begins (f03 R82, f18 R352): what becomes of the strand's loops. -/
namespace Sys2Proof.Machine

@[simp] theorem Strand.mark_loops (st : Strand) (queues : List Nat) : (st.mark queues).loops = st.loops := foldl_keeps fun _ _ => rfl
@[simp] theorem Strand.mark_fault (st : Strand) (queues : List Nat) : (st.mark queues).fault = st.fault := foldl_keeps fun _ _ => rfl
@[simp] theorem Strand.mark_wait (st : Strand) (queues : List Nat) : (st.mark queues).wait = st.wait := foldl_keeps fun _ _ => rfl

section
variable {s : State} {sid : Nat} {n : BitVec 12}

/-- An EXIT of a strand that does not stop: its queues are marked and it drains. -/
theorem execExit_drains (hcur : s.cur = .strand sid) (hstep : s.inMStep sid = false) (hn : n.toNat < 64 ∨ n.toNat = 0xFFF)
    (hfault : (s.strand sid).fault = 0) (hcause : (s.ttOfStrand sid).cause = 0) : execExit n s = .next (s.modStrand sid fun st =>
      { (st.mark [0, 1, 2, 3, 4]).enter (.exit (if n.toNat = 0xFFF then none else some n.toNat)) with redir := none }) := by
  have hlegal : ¬ ((s.noWait sid = true) ∨ (64 ≤ n.toNat ∧ n.toNat ≠ 0xFFF)) := by
    rw [State.noWait, hstep, not_or]
    exact ⟨Bool.false_ne_true, by omega⟩
  have hentered (st : Strand) (w : Wait) : (st.enter w).fault = st.fault := by
    unfold Strand.enter
    split <;> rfl
  have hgoes (f : Strand → Strand) (hf : (f (s.strand sid)).fault = 0) : (s.modStrand sid f).stopDue sid = false := by
    have hcause' : ((s.modStrand sid f).ttOfStrand sid).cause = 0 := hcause
    rw [State.stopDue, State.strand_modStrand, hf, hcause']
    rfl
  rw [execExit, strandOnly_strand hcur]
  simp only [if_neg hlegal]
  rw [hgoes _ ((hentered ..).trans ((Strand.mark_fault ..).trans hfault))]
  exact congrArg Host.Outcome.next (if_neg Bool.false_ne_true)

/-- The drain leaves the loops standing: they end with it (`execStrandEnd`), not before. -/
theorem execExit_loops (hcur : s.cur = .strand sid) (hstep : s.inMStep sid = false) (hn : n.toNat < 64 ∨ n.toNat = 0xFFF)
    (hwait : (s.strand sid).wait = .none) (hfault : (s.strand sid).fault = 0) (hcause : (s.ttOfStrand sid).cause = 0) :
    ∃ t, execExit n s = .next t ∧ (t.strand sid).loops = (s.strand sid).loops := by
  refine ⟨_, execExit_drains hcur hstep hn hfault hcause, ?_⟩
  rw [State.strand_modStrand, Strand.enter, Strand.mark_wait, hwait]
  exact Strand.mark_loops ..

end

/-- A strand within the first pass of a loop over two bundles, at its turn. -/
def midLoop : State :=
  { State.reset with
    cur := .strand 0
    strands := [(0, { Strand.blank with life := 1, loops := [⟨0, 2, 6, 5, 1⟩] })] }

end Sys2Proof.Machine
end

section
/-! SUPPORT. The obligation on the ends of steps and strands. -/

open Sys2Proof Sys2Proof.Machine

/-- Refutes O17: an EXIT within a loop (`midLoop`) begins the drain with the loop still listed (`execExit_loops`); the statement has the loops
gone when the word has run. -/
theorem not_endsOfStepsAndStrands : ¬ Obligations.EndsOfStepsAndStrands := by
  intro h
  obtain ⟨hexit, -⟩ := h midLoop 0 rfl rfl rfl rfl rfl rfl rfl
  obtain ⟨t, hexec, -, hnone, -⟩ := hexit 0xFFF (.inr rfl)
  obtain ⟨u, hexec', hloops⟩ := execExit_loops (s := midLoop) (sid := 0) (n := 0xFFF) rfl rfl (.inr rfl) rfl rfl rfl
  obtain rfl : t = u := Host.Outcome.next.inj (hexec.symm.trans hexec')
  have hlisted : (midLoop.strand 0).loops = [⟨0, 2, 6, 5, 1⟩] := rfl
  exact List.cons_ne_nil _ _ (hlisted.symm.trans (hloops.symm.trans hnone))

end

section
/-! SUPPORT. Branches, calls and returns of a strand (f18 R346, f03 R60, R74), and hardware loops (f03 R72..R75, f18 R365). -/
namespace Sys2Proof.Machine

variable {s : State} {sid : Nat}

/-! ### Transfers -/

/-- A strand that takes a transfer to the bundle at `pc`. -/
def Strand.jumped (st : Strand) (pc : Nat) : Strand :=
  { st with redir := some pc, minGap := 2, loops := st.loops.dropWhile fun l => decide (pc < l.first) || decide (l.after ≤ pc) }

section
variable {target : Int}

theorem State.branchTo_inside (h : 0 ≤ target ∧ target < s.codeLen sid) :
    s.branchTo sid target = s.setStrand sid ((s.strand sid).jumped target.toNat) := if_pos h

theorem State.branchTo_outside (h : ¬ (0 ≤ target ∧ target < s.codeLen sid)) :
    s.branchTo sid target = s.fault sid Code.illop 0 0 (s.strand sid).bundle := if_neg h

end

/-- The section does not depend on what a strand writes. -/
theorem State.codeLen_setStrand_of_cls {x : Strand} (h : x.cls = (s.strand sid).cls) : (s.setStrand sid x).codeLen sid = s.codeLen sid := by
  rw [State.codeLen, State.strand_setStrand, h]
  rfl

/-! ### The conditions of BR (f12 R306) -/

theorem brCond_iff (c : BitVec 3) (v : BitVec 64) : brCond c v = true ↔
    (c = 0 ∧ v.toInt = 0) ∨ (c = 1 ∧ v.toInt ≠ 0) ∨ (c = 2 ∧ v.toInt < 0) ∨ (c = 3 ∧ 0 ≤ v.toInt) ∨
      (c = 4 ∧ 0 < v.toInt) ∨ (c = 5 ∧ v.toInt ≤ 0) := by
  have hzero : v = 0#64 ↔ v.toInt = 0 := ⟨fun h => h ▸ rfl, fun h => BitVec.eq_of_toInt_eq h⟩
  have hneg : v.slt 0#64 = true ↔ v.toInt < 0 := by rw [BitVec.slt, decide_eq_true_eq]; rfl
  have hpos : (0#64).slt v = true ↔ 0 < v.toInt := by rw [BitVec.slt, decide_eq_true_eq]; rfl
  have hcases : c = 0 ∨ c = 1 ∨ c = 2 ∨ c = 3 ∨ c = 4 ∨ c = 5 ∨ c = 6 ∨ c = 7 := by
    revert c
    decide
  rcases hcases with rfl | rfl | rfl | rfl | rfl | rfl | rfl | rfl
  all_goals simp [brCond, hzero, hneg, hpos, ← Bool.not_eq_true]

section
variable {a : BitVec 6} {c : BitVec 3} {o : BitVec 15} (hcur : s.cur = .strand sid)
include hcur

theorem execBr_taken (h : brCond c ((s.strand sid).rd a.toNat) = true) :
    execBr a c o s = .next (s.branchTo sid ((s.strand sid).bundle + o.toInt)) :=
  (byAgent_strand hcur).trans (congrArg _ (if_pos h))

theorem execBr_passed (h : ¬ brCond c ((s.strand sid).rd a.toNat) = true) : execBr a c o s = .next s :=
  (byAgent_strand hcur).trans (congrArg _ (if_neg h))

theorem execJmp_strand : execJmp o s = .next (s.branchTo sid ((s.strand sid).bundle + o.toInt)) := byAgent_strand hcur

theorem execCall_strand : execCall a o s = .next ((s.setStrand sid ((s.strand sid).push 0 1
    (.d a.toNat (BitVec.ofNat 64 (s.strand sid).pc) false))).branchTo sid ((s.strand sid).bundle + o.toInt)) := byAgent_strand hcur

theorem execRet_strand : execRet a s = .next (s.branchTo sid ((s.strand sid).rd a.toNat).toNat) := byAgent_strand hcur

end

/-! ### LOOP -/

section
variable {level len : Nat} {count : BitVec 64}

/-- What a LOOP pends: its counter takes the start value of its kind. -/
def State.loopStarts (s : State) (sid level : Nat) : Strand :=
  (s.strand sid).push 0 0 (.csr (0x030 + level) (s.loopKind sid ((s.strand sid).slotPc - 1)).1)

theorem State.openLoop_fits (h : (s.skipBundles sid len (s.strand sid).pc).2 ≤ 256) : s.openLoop sid level len count =
    s.setStrand sid (if (s.loopKind sid ((s.strand sid).slotPc - 1)).1.toNat < count.toNat then
        { s.loopStarts sid level with loops := ⟨level, (s.strand sid).pc, (s.skipBundles sid len (s.strand sid).pc).1, count,
          (s.loopKind sid ((s.strand sid).slotPc - 1)).2⟩ :: (s.strand sid).loops }
      else { s.loopStarts sid level with pc := (s.skipBundles sid len (s.strand sid).pc).1 }) := if_neg h.not_gt

theorem State.openLoop_tooLarge (h : 256 < (s.skipBundles sid len (s.strand sid).pc).2) : s.openLoop sid level len count =
    (s.setStrand sid { s.loopStarts sid level with pc := (s.skipBundles sid len (s.strand sid).pc).1 }).fault sid Code.illop 0 0
      (s.strand sid).bundle := if_pos h

variable {l : BitVec 2} {n : BitVec 8} (hcur : s.cur = .strand sid)
include hcur

theorem execLoopImm_strand (c : BitVec 13) :
    execLoopImm l n c s = .next (s.openLoop sid l.toNat n.toNat (BitVec.ofNat 64 c.toNat)) := by
  rw [BitVec.ofNat_toNat]
  exact strandOnly_strand hcur

theorem execLoopReg_strand (r : BitVec 6) :
    execLoopReg l n r s = .next (s.openLoop sid l.toNat n.toNat ((s.strand sid).rd r.toNat)) := strandOnly_strand hcur

end

end Sys2Proof.Machine
end

section
/-! SUPPORT. The obligation on branches and loops. -/

open Sys2Proof Sys2Proof.Machine

theorem branchesInAStrand : Rule.BranchesInAStrand := by
  intro s sid a c o hcur st target jumped v meets linked
  have hret : 0 ≤ (v.toNat : Int) := Int.natCast_nonneg _
  have hlen : (s.setStrand sid linked).codeLen sid = s.codeLen sid := State.codeLen_setStrand_of_cls rfl
  have hlinked : (s.setStrand sid linked).strand sid = linked := State.strand_setStrand ..
  refine ⟨fun hno => execBr_passed hcur fun h => hno ((brCond_iff ..).mp h), fun hin => ⟨fun hmeets => ?brIn, ?jmpIn, ?callIn⟩,
    fun hin => ?retIn, fun hout => ⟨fun hmeets => ?brOut, ?jmpOut, ?callOut⟩, fun hout => ?retOut⟩
  case brIn => exact (execBr_taken hcur ((brCond_iff ..).mpr hmeets)).trans (congrArg _ (State.branchTo_inside hin))
  case jmpIn => exact (execJmp_strand hcur).trans (congrArg _ (State.branchTo_inside hin))
  case callIn =>
    refine (execCall_strand hcur).trans (congrArg _ ((State.branchTo_inside (by rwa [hlen])).trans ?_))
    rw [hlinked]
    rfl
  case retIn => exact (execRet_strand hcur).trans (congrArg _ (State.branchTo_inside ⟨hret, Int.ofNat_lt.mpr hin⟩))
  case brOut => exact (execBr_taken hcur ((brCond_iff ..).mpr hmeets)).trans (congrArg _ (State.branchTo_outside hout))
  case jmpOut => exact (execJmp_strand hcur).trans (congrArg _ (State.branchTo_outside hout))
  case callOut =>
    refine (execCall_strand hcur).trans (congrArg _ ((State.branchTo_outside (by rwa [hlen])).trans ?_))
    rw [hlinked]
    rfl
  case retOut =>
    exact (execRet_strand hcur).trans (congrArg _ (State.branchTo_outside fun h => absurd (Int.ofNat_lt.mp h.2) hout.not_gt))

theorem loopOpens : Rule.LoopOpens := by
  intro s sid l n hcur st k body opened skipped
  have hopened (count : BitVec 64) (hfits : body.2 ≤ 256) : s.openLoop sid l.toNat n.toNat count = s.setStrand sid (opened count) :=
    State.openLoop_fits hfits
  have hskipped (count : BitVec 64) (hlarge : 256 < body.2) : s.openLoop sid l.toNat n.toNat count = skipped :=
    State.openLoop_tooLarge hlarge
  exact ⟨fun hfits => ⟨fun c => (execLoopImm_strand hcur c).trans (congrArg _ (hopened _ hfits)),
      fun r => (execLoopReg_strand hcur r).trans (congrArg _ (hopened _ hfits))⟩,
    fun hlarge => ⟨fun c => (execLoopImm_strand hcur c).trans (congrArg _ (hskipped _ hlarge)),
      fun r => (execLoopReg_strand hcur r).trans (congrArg _ (hskipped _ hlarge))⟩⟩

/-- Settles O20: a transfer goes by whether its target lies in the section, a LOOP by whether its body fits. -/
theorem branchesAndLoops : Obligations.BranchesAndLoops := ⟨branchesInAStrand, loopOpens⟩

end

section
/-! SUPPORT. Markers on the queues of a strand, FENCE and JOIN (f06 R164, f18 R353, R362). -/
namespace Sys2Proof.Machine

/-! ### Markers -/

section
variable {st : Strand} {queues : List Nat} {q : Nat}

theorem Strand.queue_setQueue (st : Strand) (q k : Nat) (l : List QEnt) :
    (st.setQueue q l).queue k = if k = q then l else st.queue k := SMap.get_set

theorem Strand.mark_cons (st : Strand) (k : Nat) (rest : List Nat) : st.mark (k :: rest) =
    Strand.mark { st.setQueue k (st.queue k ++ [.marker st.markers]) with markers := st.markers + 1 } rest := rfl

theorem Strand.mark_queue_of_notin (h : q ∉ queues) : (st.mark queues).queue q = st.queue q := by
  induction queues generalizing st with
  | nil => rfl
  | cons k rest ih =>
    obtain ⟨hk, hrest⟩ := not_or.mp (List.mem_cons.not.mp h)
    rw [Strand.mark_cons, ih hrest]
    exact (Strand.queue_setQueue ..).trans (if_neg hk)

/-- A queue named once has one marker behind what it held. -/
theorem Strand.mark_queue_of_mem (hnodup : queues.Nodup) (h : q ∈ queues) :
    ∃ m, (st.mark queues).queue q = st.queue q ++ [.marker m] := by
  induction queues generalizing st with
  | nil => exact absurd h List.not_mem_nil
  | cons k rest ih =>
    obtain ⟨hk, hrest⟩ := List.nodup_cons.mp hnodup
    rw [Strand.mark_cons]
    rcases List.mem_cons.mp h with rfl | hq
    · exact ⟨st.markers, (Strand.mark_queue_of_notin hk).trans ((Strand.queue_setQueue ..).trans (if_pos rfl))⟩
    · obtain ⟨m, hm⟩ := ih hrest hq
      have hother : q ≠ k := fun heq => hk (heq ▸ hq)
      exact ⟨m, hm.trans (congrArg (· ++ _) ((Strand.queue_setQueue ..).trans (if_neg hother)))⟩

end

/-! ### FENCE and JOIN -/

/-- The queues a FENCE names: bit k of q names OQk, g names GQ. -/
def fenceQueues (g : BitVec 1) (q : BitVec 4) : List Nat := (List.range 4).filter (fun k => q.getLsbD k) ++ if g = 1 then [4] else []

theorem fenceQueues_nodup (g : BitVec 1) (q : BitVec 4) : (fenceQueues g q).Nodup := by
  revert g q
  decide

theorem mem_fenceQueues_of_lt {g : BitVec 1} {q : BitVec 4} {k : Nat} (hk : k < 4) : k ∈ fenceQueues g q ↔ q.getLsbD k = true := by
  have hgq : k ∉ if g = 1 then [4] else [] := by split <;> simp [hk.ne]
  rw [fenceQueues, List.mem_append, or_iff_left hgq, List.mem_filter, List.mem_range, and_iff_right hk]

theorem four_mem_fenceQueues {g : BitVec 1} {q : BitVec 4} : 4 ∈ fenceQueues g q ↔ g = 1 := by
  revert g q
  decide

section
variable {s : State} {sid : Nat}

theorem execFence_strand {g : BitVec 1} {q : BitVec 4} (hcur : s.cur = .strand sid) :
    execFence g q s = .next (s.setStrand sid ((s.strand sid).mark (fenceQueues g q))) := strandOnly_strand hcur

section
variable (hcur : s.cur = .strand sid) (hstep : s.inMStep sid = false)
include hcur hstep

theorem execJoin_unmarked (h : (s.strand sid).marked = false) : execJoin s = .next s := by
  rw [execJoin, waitWord_outside_mstep hcur hstep, h, if_neg Bool.false_ne_true]

theorem execJoin_marked (hwait : (s.strand sid).wait = .none) (h : (s.strand sid).marked = true) :
    execJoin s = .next (s.setStrand sid { s.strand sid with wait := .join }) := by
  rw [execJoin, waitWord_outside_mstep hcur hstep, h, if_pos rfl, State.freeze_of_wait_none hwait]

end

theorem execJoinComplete_unmarked (hwait : (s.strand sid).wait = .join) (h : (s.strand sid).marked = false) :
    execJoinComplete sid s = .next (s.setStrand sid ((s.strand sid).answer [])) := by
  simp only [execJoinComplete, hwait, h, Bool.false_eq_true, if_false]

end

end Sys2Proof.Machine
end

section
/-! SUPPORT. The obligation on fences and joins. -/

open Sys2Proof Sys2Proof.Machine

/-- Settles O30: a FENCE marks the queues it names once each (`Strand.mark_queue_of_mem`) and no other; JOIN and its completion go by whether a
marker is left. -/
theorem fencesAndJoins : Obligations.FencesAndJoins := by
  intro s sid g q st
  refine ⟨fun hcur => ⟨_, execFence_strand hcur, ?fence⟩, fun hcur hstep hwait =>
    ⟨execJoin_unmarked hcur hstep, execJoin_marked hcur hstep hwait⟩, execJoinComplete_unmarked⟩
  case fence =>
    rw [State.strand_setStrand]
    have hmarks {k : Nat} (h : k ∈ fenceQueues g q) := Strand.mark_queue_of_mem (st := st) (fenceQueues_nodup g q) h
    have hkeeps {k : Nat} (h : k ∉ fenceQueues g q) : (st.mark (fenceQueues g q)).queue k = st.queue k := Strand.mark_queue_of_notin h
    refine ⟨Strand.mark_d .., Strand.mark_wait .., rfl, fun k hk hbit => hmarks ((mem_fenceQueues_of_lt hk).mpr hbit),
      fun k hk hbit => hkeeps ?_, fun hg => hmarks (four_mem_fenceQueues.mpr hg), fun hg => hkeeps ?_⟩
    · rw [mem_fenceQueues_of_lt hk, hbit]
      exact Bool.false_ne_true
    · rw [four_mem_fenceQueues, hg]
      decide

end

section
/-! SUPPORT. The lease of the matrix array (f03 R78..R81, f18 R370) and the commands of its holder (f18 R366..R376). -/
namespace Sys2Proof.Machine

variable {s : State} {sid : Nat}

/-! ### The lease of a strand's core -/

section
variable {l : Lease}

theorem State.lease_setLease : (s.setLease sid l).lease sid = l := by
  simp only [State.setLease, State.lease, State.ttOfStrand, State.placeOfStrand, State.tt_modTt, State.modTt_strand]
  exact SMap.get_set_self

theorem State.setLease_keeps {β : Type} (g : State → β) (htt : ∀ s k t, g (State.setTt s k t) = g s) : g (s.setLease sid l) = g s := htt ..

/-- The lease of a strand's core is told by its timetable and its logical core. -/
theorem State.lease_setStrand {x : Strand} (h : x.lcore = (s.strand sid).lcore) : (s.setStrand sid x).lease sid = s.lease sid := by
  simp only [State.lease, State.ttOfStrand, State.placeOfStrand, State.setStrand_tt, State.strand_setStrand, h]

theorem State.img_setLease : ((s.setLease sid l).ttOfStrand sid).img = (s.ttOfStrand sid).img := by
  simp only [State.setLease, State.ttOfStrand, State.tt_modTt]

theorem State.endLease_holder (h : s.holdsLease sid = true) : ((s.endLease sid).lease sid).holder = none := by
  rw [State.endLease, if_pos (by simpa [State.holdsLease] using h), State.lease_setLease]

theorem State.img_endLease : ((s.endLease sid).ttOfStrand sid).img = (s.ttOfStrand sid).img := by
  unfold State.endLease
  dsimp only
  split
  · exact State.img_setLease
  · rfl

theorem State.grantLease_lease : (s.grantLease sid).lease sid =
    { s.lease sid with holder := some sid, left := 64, window := s.gclk.toNat / 1024 } := State.lease_setLease

theorem State.grantLease_strand : (s.grantLease sid).strand sid = s.strand sid := rfl

end

/-! ### Occupying the array -/

section
variable {n : Nat}

theorem State.occupy_keeps {β : Type} (g : State → β) (htt : ∀ s k t, g (State.setTt s k t) = g s) : g (s.occupy sid n) = g s := by
  unfold State.occupy
  dsimp only
  split
  · rw [State.endLease_keeps g sid htt, State.setLease_keeps g htt]
  · exact State.setLease_keeps g htt

theorem State.occupy_strand (j : Nat) : (s.occupy sid n).strand j = s.strand j :=
  congrArg (SMap.get Strand.blank · j) (State.occupy_keeps State.strands fun _ _ _ => rfl)

theorem State.occupy_mem : (s.occupy sid n).mem = s.mem := State.occupy_keeps State.mem fun _ _ _ => rfl

theorem State.img_occupy : ((s.occupy sid n).ttOfStrand sid).img = (s.ttOfStrand sid).img := by
  unfold State.occupy
  dsimp only
  split
  · rw [State.img_endLease, State.img_setLease]
  · exact State.img_setLease

section
variable (hholds : s.holdsLease sid = true)
include hholds

/-- A command that is not the last one counted leaves the holder one less. -/
theorem State.occupy_lease_counts (h : 1 < (s.lease sid).left) :
    ((s.occupy sid n).lease sid).holder = some sid ∧ ((s.occupy sid n).lease sid).left = (s.lease sid).left - 1 := by
  rw [State.occupy]
  simp only [if_neg h.not_ge, State.lease_setLease, and_true]
  simpa [State.holdsLease] using hholds

/-- The last command counted ends the lease. -/
theorem State.occupy_lease_ends (h : (s.lease sid).left ≤ 1) : ((s.occupy sid n).lease sid).holder = none := by
  rw [State.occupy]
  simp only [if_pos h]
  refine State.endLease_holder ?_
  rw [State.holdsLease, State.lease_setLease]
  exact hholds

/-- A command of the holder that occupies the array and gives its strand the registers and pending writes `x` does what `XDoes` says. -/
theorem xDoes_of_exec {i : Instr} {x : Strand} (hexec : exec i s = .next ((s.occupy sid n).setStrand sid x))
    (hcore : x.lcore = (s.strand sid).lcore) : XDoes s sid i x := by
  have hlease : ((s.occupy sid n).setStrand sid x).lease sid = (s.occupy sid n).lease sid :=
    State.lease_setStrand (by rw [State.occupy_strand, hcore])
  refine ⟨_, hexec, State.strand_setStrand .., fun j hj => (State.strand_setStrand_ne hj).trans (State.occupy_strand j), State.occupy_mem, ?_⟩
  rw [hlease]
  exact ⟨State.occupy_lease_counts hholds, State.occupy_lease_ends hholds⟩

end

end

/-! ### The commands -/

section
variable {c : BitVec 8} {a b : BitVec 6} {f df : BitVec 4} (hcur : s.cur = .strand sid) (hholds : s.holdsLease sid = true)
  (htile : c.toNat < (s.ttOfStrand sid).img.tiles)
  (hidle : ((s.lease sid).busy.any fun x => x.1 == sid && decide ((s.strand sid).vclk < x.2)) = false)
include hcur hholds htile hidle

/-- An MMA of the holder under a legal entry occupies the array for the entry's vcy and does its work. -/
theorem mmaWord_holder {rs : Bool} {work : State → Nat → BitVec 64 → State} {e : BitVec 64} (he : (s.strand sid).ftEntry f = e)
    (hlegal : ftCheck e rs ((s.ttOfStrand sid).img.emulates e) = none) :
    mmaWord s c f rs work = .next (work (s.occupy sid ((s.ttOfStrand sid).img.occFt e)) sid e) := by
  rw [mmaWord, xCommand_holder hcur hholds htile hidle, he]
  simp only [State.occupy_strand, State.img_occupy, he, hlegal]

theorem mmaReg_holder {rs : Bool} {e : BitVec 64} (he : (s.strand sid).ftEntry f = e)
    (hlegal : ftCheck e rs ((s.ttOfStrand sid).img.emulates e) = none) : mmaReg s c a b f rs =
    .next ((s.occupy sid ((s.ttOfStrand sid).img.occFt e)).setStrand sid ((s.strand sid).push 2 24
      (.mma ((s.strand sid).lcore * 256 + c.toNat) e ((s.strand sid).rv a.toNat) [(s.strand sid).rv b.toNat, (s.strand sid).rv (b.toNat + 1),
        (s.strand sid).rv (b.toNat + 2), (s.strand sid).rv (b.toNat + 3)] ((s.strand sid).scales e) rs))) := by
  rw [mmaReg, mmaWord_holder hcur hholds htile hidle he hlegal, State.modStrand, State.occupy_strand]
  rfl

theorem execMzero_holder : execMzero c s = .next ((s.occupy sid 1).setStrand sid (((s.strand sid).push 2 2
    (.tile ((s.strand sid).lcore * 256 + c.toNat) [])).push 2 2 (.rowsum ((s.strand sid).lcore * 256 + c.toNat) []))) := by
  rw [execMzero, xCommand_holder hcur hholds htile hidle, State.modStrand, State.occupy_strand]
  rfl

theorem execMload_holder : execMload c a s = .next ((s.occupy sid 4).setStrand sid ((s.strand sid).push 2 8
    (.tile ((s.strand sid).lcore * 256 + c.toNat) ((s.strand sid).rv a.toNat)))) := by
  rw [execMload, xCommand_holder hcur hholds htile hidle, State.modStrand, State.occupy_strand]
  rfl

theorem execMdrain_holder (hlegal : drainBad ((s.strand sid).rd df.toNat) = false) : execMdrain c a b df s =
    .next ((s.occupy sid 4).setStrand sid (((s.strand sid).push 2 20 (.v a.toNat allLanes
      ((s.occupy sid 4).drain sid c b ((s.strand sid).rd df.toNat)).1)).pushFlags 2 20
      ((s.occupy sid 4).drain sid c b ((s.strand sid).rd df.toNat)).2)) := by
  rw [execMdrain, xCommand_holder hcur hholds htile hidle]
  simp only [State.occupy_strand, hlegal, Bool.false_eq_true, if_false]

end

/-! ### MLEASE, MFREE and LEASE_GRANT -/

section
variable (hcur : s.cur = .strand sid)
include hcur

theorem execMfree_busy (hbusy : s.ownBusy sid = true) : execMfree s = .next (s.suppressHere sid Code.mxBusy 2) := by
  rw [execMfree, strandOnly_strand hcur, if_pos hbusy]

theorem execMfree_idle (hidle : s.ownBusy sid = false) : execMfree s = .next (s.endLease sid) := by
  rw [execMfree, strandOnly_strand hcur, hidle, if_neg Bool.false_ne_true]

section
variable (hstep : s.inMStep sid = false)
include hstep

theorem execMlease_busy (hbusy : s.ownBusy sid = true) : execMlease s = .next (s.suppressHere sid Code.mxBusy 2) := by
  simp only [execMlease, strandOnly_strand hcur, State.noWait, hstep, hbusy, Bool.false_eq_true, if_false, if_true]

theorem execMlease_idle (hidle : s.ownBusy sid = false) : execMlease s = .next (if s.holdsLease sid then s
    else if s.leaseFree sid then s.grantLease sid else s.freeze sid .mlease) := by
  simp only [execMlease, strandOnly_strand hcur, State.noWait, hstep, hidle, Bool.false_eq_true, if_false]

end

end

section
variable (hfree : s.leaseFree sid = true)
include hfree

theorem execLeaseGrant_lease (hwait : (s.strand sid).wait = .lease) (hheld : s.refreshHeld sid (s.strand sid).vclk = false) :
    execLeaseGrant sid s = .next ((s.grantLease sid).setStrand sid { s.strand sid with wait := .none, ran := true }) := by
  simp only [execLeaseGrant, hwait, hfree, hheld, and_self, if_true]
  rfl

theorem execLeaseGrant_mlease (hwait : (s.strand sid).wait = .mlease) :
    execLeaseGrant sid s = .next ((s.grantLease sid).setStrand sid ((s.strand sid).answer [])) := by
  simp only [execLeaseGrant, hwait, hfree, if_true]
  rfl

end

theorem Strand.answer_lcore (st : Strand) (effs : List Eff) : (st.answer effs).lcore = st.lcore := by
  unfold Strand.answer
  split <;> rfl

end Sys2Proof.Machine
end

section
/-! SUPPORT. The obligation on the matrix array. -/

open Sys2Proof Sys2Proof.Machine

theorem matrixWords : Rule.MatrixWords := by
  intro s sid c a b f df hcur hholds htile hidle st e key product
  exact ⟨fun hlegal => xDoes_of_exec hholds (mmaReg_holder hcur hholds htile hidle rfl hlegal) rfl,
    fun hlegal => xDoes_of_exec hholds (mmaReg_holder hcur hholds htile hidle rfl hlegal) rfl,
    xDoes_of_exec hholds (execMzero_holder hcur hholds htile hidle) rfl,
    xDoes_of_exec hholds (execMload_holder hcur hholds htile hidle) rfl,
    fun hlegal => xDoes_of_exec hholds (execMdrain_holder hcur hholds htile hidle hlegal) (Strand.pushFlags_lcore ..)⟩

theorem matrixLeases : Rule.MatrixLeases := by
  intro s sid st granted
  have hgranted (x : Strand) (hcore : x.lcore = st.lcore) : granted ((s.grantLease sid).setStrand sid x) := by
    have hlease := (State.lease_setStrand (s := s.grantLease sid) hcore).trans State.grantLease_lease
    exact ⟨congrArg Lease.holder hlease, congrArg Lease.left hlease, congrArg Lease.window hlease, rfl⟩
  refine ⟨fun hcur hstep hwait hidle => ⟨fun hholds => ?own, fun hnot hfree => ?takes, fun hnot htaken => ?waits⟩,
    fun hcur hbusy => ⟨execMfree_busy hcur hbusy, fun hstep => execMlease_busy hcur hstep hbusy⟩,
    fun hcur hidle hholds => ⟨_, execMfree_idle hcur hidle, State.endLease_holder hholds, ?_, ?_⟩,
    fun hfree => ⟨fun hwait hheld => ⟨_, execLeaseGrant_lease hfree hwait hheld, State.strand_setStrand .., hgranted _ rfl⟩,
      fun hwait => ⟨_, execLeaseGrant_mlease hfree hwait, State.strand_setStrand .., hgranted _ (Strand.answer_lcore ..)⟩⟩⟩
  case own => rw [show exec .mlease s = _ from execMlease_idle hcur hstep hidle, if_pos hholds]
  case takes =>
    refine ⟨_, execMlease_idle hcur hstep hidle, ?_⟩
    rw [hnot, if_neg Bool.false_ne_true, if_pos hfree]
    have hlease := State.grantLease_lease (s := s) (sid := sid)
    exact ⟨rfl, congrArg Lease.holder hlease, congrArg Lease.left hlease, congrArg Lease.window hlease, rfl⟩
  case waits =>
    rw [show exec .mlease s = _ from execMlease_idle hcur hstep hidle, hnot, htaken, if_neg Bool.false_ne_true, if_neg Bool.false_ne_true,
      State.freeze_of_wait_none hwait]
  · exact State.endLease_keeps State.strands sid fun _ _ _ => rfl
  · exact State.endLease_keeps State.mem sid fun _ _ _ => rfl

/-- Settles O31: a command of the holder occupies the array (`xDoes_of_exec`); a lease is taken, waited for, ended and granted as it stands. -/
theorem matrixArray : Obligations.MatrixArray := ⟨matrixWords, matrixLeases⟩

end

section
/-! SUPPORT. The matrix commands against window C1: MMAS, MMAS.RS and MDRAINS of the lease's holder (f18 R369, R374). -/
namespace Sys2Proof.Machine

section
variable {s : State} {sid : Nat} {c : BitVec 8} {a b : BitVec 6} {f df : BitVec 4} {e x y : BitVec 64} {o : Nat}

/-- The window offset of a line of an MMAS with address registers `x` and `y`. -/
def mmasOff (x y : BitVec 64) (n : Nat) : Nat := mmasLine (bits x 31 0) (bits x 47 32) (bits y 31 0) (bits y 33 32) n

/-- What R374 and R91 ask of the address registers of an MMAS: no bit outside the fields, 128-byte steps, and lines that pass their checks. -/
def State.mmasLegal (s : State) (sid : Nat) (x y : BitVec 64) : Prop :=
  bits x 63 48 = 0 ∧ bits y 63 34 = 0 ∧ bits x 31 0 % 128 = 0 ∧ bits x 47 32 % 128 = 0 ∧ bits y 31 0 % 128 = 0 ∧
    ∀ n < 128, s.readCheck sid ((s.strand sid).rc 1) (mmasOff x y n) 128 (rightR + rightT) = none

theorem mmasLines_checked (h : s.mmasLegal sid x y) :
    ((List.range 128).map (mmasOff x y)).findSome? (fun o =>
      (s.readCheck sid ((s.strand sid).rc 1) o 128 (rightR + rightT)).map fun code => (code, o)) = none := by
  obtain ⟨-, -, -, -, -, hlines⟩ := h
  refine List.findSome?_eq_none_iff.mpr fun o ho => ?_
  obtain ⟨n, hn, rfl⟩ := List.mem_map.mp ho
  rw [hlines n (List.mem_range.mp hn), Option.map_none]

variable (hcur : s.cur = .strand sid) (hholds : s.holdsLease sid = true) (htile : c.toNat < (s.ttOfStrand sid).img.tiles)
  (hidle : ((s.lease sid).busy.any fun x => x.1 == sid && decide ((s.strand sid).vclk < x.2)) = false)
include hcur hholds htile hidle

theorem mmaMem_holder {rs : Bool} (he : (s.strand sid).ftEntry f = e) (hx : (s.strand sid).rd a.toNat = x) (hy : (s.strand sid).rd b.toNat = y)
    (hlines : (s.occupy sid ((s.ttOfStrand sid).img.occFt e)).mmasLegal sid x y)
    (hlegal : ftCheck e rs ((s.ttOfStrand sid).img.emulates e) = none) : mmaMem s c a b f rs =
    .next ((s.occupy sid ((s.ttOfStrand sid).img.occFt e)).setStrand sid ((s.strand sid).push 2 24
      (.mmas ((s.strand sid).lcore * 256 + c.toNat) e ((s.strand sid).rv a.toNat) (s.strand sid).vclk ((s.ttOfStrand sid).img.occFt e)
        ((List.range 128).map fun n => (s.occupy sid ((s.ttOfStrand sid).img.occFt e)).capBytes sid ((s.strand sid).rc 1) (mmasOff x y n) 128)
        [] ((s.strand sid).scales e) rs))) := by
  have hchecked := mmasLines_checked hlines
  obtain ⟨hx63, hy63, hbase, hrow, htilePitch, -⟩ := hlines
  rw [mmaMem, mmaWord_holder hcur hholds htile hidle he hlegal]
  simp only [State.occupy_strand, State.img_occupy] at hchecked ⊢
  simp only [hx, hy, hx63, hy63, hbase, hrow, htilePitch, ne_eq, not_true_eq_false, or_self, if_false]
  rw [show mmasLine (bits x 31 0) (bits x 47 32) (bits y 31 0) (bits y 33 32) = mmasOff x y from rfl, hchecked]
  simp only [List.map_map]
  rfl

theorem execMdrains_holder (ho : ((s.strand sid).rd a.toNat).toNat = o) (hlegal : drainBad ((s.strand sid).rd df.toNat) = false)
    (haligned : o % 128 = 0) (hok : (s.occupy sid 4).writeCheck sid ((s.strand sid).rc 1) o 4096 (rightW + rightT) = none) :
    execMdrains c a b df s = .next ((s.occupy sid 4).setStrand sid (((s.strand sid).push 2 24
      (.store (((s.occupy sid 4).capBytes sid ((s.strand sid).rc 1) o 4096).zip
        (imageBytes ((s.occupy sid 4).drain sid c b ((s.strand sid).rd df.toNat)).1)) none false [])).pushFlags 2 24
      ((s.occupy sid 4).drain sid c b ((s.strand sid).rd df.toNat)).2)) := by
  rw [execMdrains, xCommand_holder hcur hholds htile hidle]
  simp only [State.occupy_strand, ho, hlegal, haligned, hok, ne_eq, not_true_eq_false, Bool.false_eq_true, if_false]

end

end Sys2Proof.Machine
end

section
/-! SUPPORT. The obligation on the matrix commands against memory. -/

open Sys2Proof Sys2Proof.Machine

/-- Settles O28: a legal command of the holder occupies the array (`xDoes_of_exec`) and pends its lines, or its drained image. -/
theorem matrixMemoryWords : Obligations.MatrixMemoryWords := by
  intro s sid c a b f df hcur hholds htile hidle st e key occ s1 s4 x y line streams legal o
  have hlines (h : legal) : s1.mmasLegal sid x y := by
    obtain ⟨hx, hy, hbase, hrow, htilePitch, hchecks⟩ := h
    exact ⟨hx, hy, hbase, hrow, htilePitch, fun n hn => by rw [State.occupy_strand]; exact hchecks n hn⟩
  exact ⟨fun h hlegal => xDoes_of_exec hholds (mmaMem_holder hcur hholds htile hidle rfl rfl rfl (hlines h) hlegal) rfl,
    fun h hlegal => xDoes_of_exec hholds (mmaMem_holder hcur hholds htile hidle rfl rfl rfl (hlines h) hlegal) rfl,
    fun hlegal haligned hok => xDoes_of_exec hholds (execMdrains_holder hcur hholds htile hidle rfl hlegal haligned hok)
      (Strand.pushFlags_lcore ..)⟩

end

section
/-! SUPPORT. The obligation on the example words. -/

open Sys2Proof Sys2Proof.Machine

/-- Settles O1: each example word, and each word with a reserved field set, is decoded by evaluation, map by map. -/
theorem exampleWordsDecode : Obligations.ExampleWordsDecode := by
  refine ⟨?common, ?private_, ?refused⟩
  case common => decide
  case private_ => decide
  case refused => decide

end

section
/-! SUPPORT. The predicate words of the vector unit (f12 R309, f19 R384, R385, R387): whole predicates, and counts of a predicate. -/
namespace Sys2Proof.Machine

section
variable {s : State} {sid d : Nat} {F : Strand → Nat → Bool} {v : Nat → Bool} (hcur : s.cur = .strand sid)
  (hfree : (s.strand sid).occV ≤ (s.strand sid).vclk)
include hcur hfree

/-- A word that writes a whole predicate pends each bit's value. -/
theorem pWhole_free (hv : ∀ l, F { s.strand sid with occV := (s.strand sid).vclk + 1 } l = v l) : ∃ mask val : PReg,
    pWhole s d F = .next (s.setStrand sid (({ s.strand sid with occV := (s.strand sid).vclk + 1 }.push 1 2 (.p d mask val)).push 1 2
      (.meter 9 1024))) ∧ ∀ l < 1024, SMap.get false mask l = true ∧ SMap.get false val l = v l := by
  refine ⟨_, _, vUnit_free hcur hfree, fun l hl => ⟨?_, ?_⟩⟩
  · rw [get_allLanes, decide_eq_true hl]
  · rw [SMap.get_ofFn, if_pos hl, hv]

theorem pCount_free {d : BitVec 6} {f : Strand → Nat} : pCount s d f = .next (s.setStrand sid
    (({ s.strand sid with occV := (s.strand sid).vclk + 1 }.push 1 4 (.d d.toNat
      (BitVec.ofNat 64 (f { s.strand sid with occV := (s.strand sid).vclk + 1 })) false)).push 1 4 (.meter 9 1024))) :=
  vUnit_free hcur hfree

end

/-- The first number below `n` that satisfies `p`, or `n`. -/
theorem find?_range_getD_spec (p : Nat → Bool) (n : Nat) : let k := ((List.range n).find? p).getD n
    k ≤ n ∧ (∀ l < k, p l = false) ∧ (k < n → p k = true) := by
  cases hfind : (List.range n).find? p with
  | none =>
    have hnone := List.find?_eq_none.mp hfind
    exact ⟨le_rfl, fun l hl => Bool.eq_false_iff.mpr (hnone l (List.mem_range.mpr hl)), fun h => absurd h (Nat.lt_irrefl _)⟩
  | some k =>
    obtain ⟨hk, hmem, hbelow⟩ := List.find?_range_eq_some.mp hfind
    refine ⟨(List.mem_range.mp hmem).le, fun l hl => ?_, fun _ => hk⟩
    simpa using hbelow l hl

end Sys2Proof.Machine
end

section
/-! SUPPORT. The obligation on predicate words. -/

open Sys2Proof Sys2Proof.Machine

/-- Settles O24: a predicate is written whole (`pWhole_free`), a count goes to Dd (`pCount_free`). -/
theorem predicateWords : Obligations.PredicateWords := by
  intro s sid d a b e f h n hcur hfree st no gives counts
  dsimp only [gives, counts, exec]
  refine ⟨pWhole_free hcur hfree fun _ => rfl, pWhole_free hcur hfree fun _ => rfl,
    pWhole_free hcur hfree fun _ => congrFun (congrFun Bool.bne_eq_xor _) _, pWhole_free hcur hfree fun _ => rfl,
    pWhole_free hcur hfree fun _ => rfl, ?pcnt, _, pCount_free hcur hfree, find?_range_getD_spec (st.pb (no a f)) 1024⟩
  case pcnt =>
    rw [← List.countP_eq_length_filter]
    exact pCount_free hcur hfree

end

section
/-! SUPPORT. The queue buffer words (f07 R200..R203, f19 R388..R390): binding, claims, their visible updates, and waits. -/
namespace Sys2Proof.Machine

variable {s : State} {sid n : Nat} {r k : BitVec 6} {h : BitVec 4} {give e : Bool} {q : QB}

/-! ### QBBIND -/

/-- What f19 R388 asks of the descriptor in D[r] for the handle: what is wrong with it. -/
def State.qbRefused (s : State) (sid : Nat) (r : BitVec 6) (h : BitVec 4) : Prop :=
  let v := (s.strand sid).rd r.toNat
  bits v 63 44 ≠ 0 ∨ bits v 31 29 ≠ 0 ∨ v.getLsbD 23 = true ∨ bits v 28 24 < 6 ∨ 20 < bits v 28 24 ∨
    bits v 22 0 % 2 ^ bits v 28 24 ≠ 0 ∨ capLen ((s.strand sid).rc 1).bits < bits v 22 0 + (bits v 43 32 + 1) * 2 ^ bits v 28 24 ∨
    (s.strand sid).qbBusy h.toNat = true

/-- What QBBIND pends for the handle. -/
def qbBound (v : BitVec 64) (h : BitVec 4) : Eff :=
  .qb h.toNat ⟨0, 0, 0, 0, BitVec.ofNat 12 (bits v 43 32 + 1 - 1), BitVec.ofNat 5 (bits v 28 24), true, BitVec.ofNat 23 (bits v 22 0)⟩

theorem execQbbind_refused (hcur : s.cur = .strand sid) (hbad : s.qbRefused sid r h) :
    execQbbind r h s = .next (s.suppressHere sid Code.qbState 3) :=
  (strandOnly_strand hcur).trans (congrArg _ (if_pos hbad))

theorem execQbbind_bound (hcur : s.cur = .strand sid) (hgood : ¬ s.qbRefused sid r h) :
    execQbbind r h s = .next (s.setStrand sid ((s.strand sid).push 3 0 (qbBound ((s.strand sid).rd r.toNat) h))) :=
  (strandOnly_strand hcur).trans (congrArg _ (if_neg hgood))

/-! ### QBGIVE and QBTAKE -/

/-- The slots a claim may take: the free ones for a give, the filled ones for a take. -/
def QB.room (q : QB) (give : Bool) : Nat := if give then q.free q.prod q.cons else filled q.prod q.cons

/-- The strand after a claim, which holds its visible update. -/
def Strand.claimed (st : Strand) (give : Bool) (h n : Nat) : Strand :=
  { st.setQb h ((st.qbuf h).claim give n) with qbheld := st.qbheld ++ [(h, give, n, if give then st.lastWrite else st.lastRead)] }

section
variable (hcur : s.cur = .strand sid) (hq : (s.strand sid).qbuf h.toNat = q) (hn : ((s.strand sid).rd k.toNat).toNat = n)
include hcur hq hn

theorem qbClaim_refused (hbad : q.v = false ∨ q.room give < n) : qbClaim s give k h = .next (s.suppressHere sid Code.qbState 3) := by
  subst hq hn
  exact (strandOnly_strand hcur).trans (congrArg _ (if_pos hbad))

theorem qbClaim_none (hbound : q.v = true) (hzero : n = 0) : qbClaim s give k h = .next s := by
  have hgood : ¬ (q.v = false ∨ q.room give < n) := by simp [hbound, hzero]
  subst hq hn
  exact (strandOnly_strand hcur).trans (congrArg _ ((if_neg hgood).trans (if_pos hzero)))

theorem qbClaim_claimed (hbound : q.v = true) (hpos : 0 < n) (hroom : n ≤ q.room give) :
    qbClaim s give k h = .next (s.setStrand sid ((s.strand sid).claimed give h.toNat n)) := by
  have hgood : ¬ (q.v = false ∨ q.room give < n) := by simp [hbound, hroom]
  subst hq hn
  exact (strandOnly_strand hcur).trans (congrArg _ ((if_neg hgood).trans (if_neg hpos.ne')))

end

/-- The oldest held update becomes visible once its accesses have performed. -/
theorem execQbVisibleUpdate_oldest {b m at_ : Nat} {rest : List (Nat × Bool × Nat × Nat)}
    (hheld : (s.strand sid).qbheld = (b, give, m, at_) :: rest) (hpassed : at_ < (s.strand sid).vclk) :
    execQbVisibleUpdate sid s = .next (s.setStrand sid
      { (s.strand sid).setQb b (((s.strand sid).qbuf b).show_ give m) with qbheld := rest }) := by
  have hfirst : (s.strand sid).qbheld.find? (fun u => (s.strand sid).passed u.2.2.2) = some (b, give, m, at_) := by
    rw [hheld, List.find?_cons_of_pos]
    exact Strand.passed_of_lt hpassed
  simp only [execQbVisibleUpdate, hfirst, Strand.setQb_qbheld]
  rw [hheld, List.erase_cons_head]

/-! ### QBWAIT -/

theorem QB.holds_iff : q.holds e n = true ↔
    if e then n ≤ q.nm1.toNat + 1 - (q.vprod - q.vcons).toNat else n ≤ (q.vprod - q.vcons).toNat := by
  cases e <;> exact decide_eq_true_iff

section
variable (hcur : s.cur = .strand sid)
include hcur

theorem qbWait_mstep (hstep : s.inMStep sid = true) : qbWait s e k h = .next (s.suppressHere sid Code.illop 3) :=
  (waitWord_strand hcur).trans (congrArg _ (if_pos hstep))

variable (hstep : s.inMStep sid = false) (hq : (s.strand sid).qbuf h.toNat = q) (hn : ((s.strand sid).rd k.toNat).toNat = n)
include hstep hq hn

theorem qbWait_refused (hbad : q.v = false ∨ q.nm1.toNat + 1 < n) :
    qbWait s e k h = .next (s.suppressHere sid Code.qbState 3) := by
  subst hq hn
  exact (waitWord_outside_mstep hcur hstep).trans (congrArg _ (if_pos hbad))

variable (hgood : ¬ (q.v = false ∨ q.nm1.toNat + 1 < n))
include hgood

theorem qbWait_there (hthere : n = 0 ∨ q.holds e n = true) : qbWait s e k h = .next s := by
  subst hq hn
  exact (waitWord_outside_mstep hcur hstep).trans (congrArg _ ((if_neg hgood).trans (if_pos hthere)))

theorem qbWait_freezes (hwait : (s.strand sid).wait = .none) (hmissing : ¬ (n = 0 ∨ q.holds e n = true)) :
    qbWait s e k h = .next (s.setStrand sid { s.strand sid with wait := .qb h.toNat e n }) := by
  subst hq hn
  exact (waitWord_outside_mstep hcur hstep).trans
    (congrArg _ ((if_neg hgood).trans ((if_neg hmissing).trans (State.freeze_of_wait_none hwait))))

end

theorem execQbwaitComplete_there {b : Nat} (hwait : (s.strand sid).wait = .qb b e n)
    (hthere : ((s.strand sid).qbuf b).holds e n = true) :
    execQbwaitComplete sid s = .next (s.setStrand sid ((s.strand sid).answer [])) := by
  simp only [execQbwaitComplete, hwait]
  exact if_pos hthere

end Sys2Proof.Machine
end

section
/-! SUPPORT. The obligation on queue buffers. -/

open Sys2Proof Sys2Proof.Machine

/-- The words of f19 R388, R389: a legal descriptor is one with no reason to refuse it, a claim is `qbClaim` of either kind. -/
theorem queueBufferWords : Rule.QueueBufferWords := by
  intro s sid r k h st v n q size free filled
  refine ⟨fun hcur => ⟨fun hbad => execQbbind_refused hcur hbad, ?bound, fun hbound hpos =>
    ⟨fun hroom => qbClaim_claimed (give := true) hcur rfl rfl hbound hpos hroom,
      fun hroom => qbClaim_claimed (give := false) hcur rfl rfl hbound hpos hroom⟩,
    fun hbound hzero => ⟨qbClaim_none hcur rfl rfl hbound hzero, qbClaim_none hcur rfl rfl hbound hzero⟩,
    fun hbad => qbClaim_refused (give := true) hcur rfl rfl hbad, fun hbad => qbClaim_refused (give := false) hcur rfl rfl hbad⟩,
    fun b give m at_ rest hheld hpassed => ?visible⟩
  case bound =>
    rintro ⟨hhigh, hmid, hbit, hmin, hmax, haligned, hfits, hidle⟩
    refine execQbbind_bound hcur fun hbad => ?_
    rcases hbad with hbad | hbad | hbad | hbad | hbad | hbad | hbad | hbad
    · exact hbad hhigh
    · exact hbad hmid
    · exact Bool.false_ne_true (hbit.symm.trans hbad)
    · exact absurd hbad (Nat.not_lt.mpr hmin)
    · exact absurd hbad (Nat.not_lt.mpr hmax)
    · exact hbad haligned
    · exact absurd hbad (Nat.not_lt.mpr hfits)
    · exact Bool.false_ne_true (hidle.symm.trans hbad)
  case visible => exact execQbVisibleUpdate_oldest hheld hpassed

/-- The waits of f19 R390: QBWAIT and QBWAIT.E are `qbWait` of either kind. -/
theorem queueBufferWaits : Rule.QueueBufferWaits := by
  intro s sid k h e st n q i there
  have hexec : exec i s = qbWait s e k h := by cases e <;> rfl
  rw [hexec]
  refine ⟨fun hcur hstep hwait hbound hslots => ?bound, fun hcur hstep hbad => qbWait_refused hcur hstep rfl rfl hbad, qbWait_mstep,
    fun b m hwait hthere => execQbwaitComplete_there hwait (QB.holds_iff.mpr hthere)⟩
  case bound =>
    have hgood : ¬ (q.v = false ∨ q.nm1.toNat + 1 < n) := by simp [hbound, hslots]
    exact ⟨fun hthere => qbWait_there hcur hstep rfl rfl hgood (hthere.imp_right QB.holds_iff.mpr), fun hsome hmissing =>
      qbWait_freezes hcur hstep rfl rfl hgood hwait (not_or.mpr ⟨hsome, fun hholds => hmissing (QB.holds_iff.mp hholds)⟩)⟩

/-- Settles O33, by its two rules. -/
theorem queueBuffers : Obligations.QueueBuffers := ⟨queueBufferWords, queueBufferWaits⟩

end

section
/-! SUPPORT. Sync words (f07 R197, R198, f19 R402, R404): how they count, are armed and are waited for. -/
namespace Sys2Proof.Machine

variable {s : State} {sid a m : Nat}

/-! ### The fields of a sync word -/

theorem b2n_le_one (b : Bool) : b2n b ≤ 1 := by cases b <;> decide

section
variable {target count : Nat} {gen : BitVec 64} {armed multi : Bool}

/-- A sync word's number: its fields do not meet. -/
theorem syncPut_toNat : (syncPut target count gen armed multi).toNat =
    target % 2 ^ 64 + count % 2 ^ 64 * 2 ^ 64 + gen.toNat * 2 ^ 128 + b2n armed * 2 ^ 192 + b2n multi * 2 ^ 193 := by
  have hgen := gen.isLt
  have harmed := b2n_le_one armed
  have hmulti := b2n_le_one multi
  rw [syncPut, BitVec.toNat_ofNat]
  apply Nat.mod_eq_of_lt
  omega

theorem syncTarget_syncPut (h : target < 2 ^ 64) : syncTarget (syncPut target count gen armed multi) = target := by
  rw [syncTarget, BitVec.extractLsb'_toNat, syncPut_toNat, Nat.shiftRight_eq_div_pow]
  omega

theorem syncCount_syncPut (h : count < 2 ^ 64) : syncCount (syncPut target count gen armed multi) = count := by
  have hgen := gen.isLt
  rw [syncCount, BitVec.extractLsb'_toNat, syncPut_toNat, Nat.shiftRight_eq_div_pow]
  omega

theorem syncGen_syncPut : syncGen (syncPut target count gen armed multi) = gen := by
  have hgen := gen.isLt
  apply BitVec.eq_of_toNat_eq
  rw [syncGen, BitVec.extractLsb'_toNat, syncPut_toNat, Nat.shiftRight_eq_div_pow]
  omega

theorem syncArmed_syncPut : (syncPut target count gen armed multi).getLsbD 192 = armed := by
  have hgen := gen.isLt
  rw [BitVec.getLsbD, Nat.testBit_eq_decide_div_mod_eq, syncPut_toNat]
  have hbit : (target % 2 ^ 64 + count % 2 ^ 64 * 2 ^ 64 + gen.toNat * 2 ^ 128 + b2n armed * 2 ^ 192 + b2n multi * 2 ^ 193) /
      2 ^ 192 % 2 = b2n armed := by
    have harmed := b2n_le_one armed
    omega
  rw [hbit]
  cases armed <;> rfl

end

/-! ### Counting -/

theorem syncTarget_lt (w : BitVec 256) : syncTarget w < 2 ^ 64 := (w.extractLsb' 0 64).isLt

/-- The targets a count takes off leave its remainder. -/
theorem sub_syncSteps {target count : Nat} (h : target ≠ 0) : count - syncSteps target count * target = count % target := by
  rw [syncSteps, if_neg h, Nat.mul_comm, ← Nat.mod_eq_sub_mul_div]

theorem syncSteps_zero {count : Nat} : syncSteps 0 count = 0 := if_pos rfl

theorem State.syncArrive_mem_eq : ∃ multi, (s.syncArrive a m).mem = s.mem.writeN a (bytesOf 32 (syncPut (syncTarget (s.syncWord a))
    (syncCount (s.syncWord a) + m - syncSteps (syncTarget (s.syncWord a)) (syncCount (s.syncWord a) + m) * syncTarget (s.syncWord a))
    (syncGen (s.syncWord a) + BitVec.ofNat 64 (syncSteps (syncTarget (s.syncWord a)) (syncCount (s.syncWord a) + m)))
    ((s.syncWord a).getLsbD 192) multi).toNat) := by
  unfold State.syncArrive
  dsimp only
  split <;> exact ⟨_, rfl⟩

/-- A sync word reads back what was written to its 32 bytes. -/
theorem State.syncWord_of_mem {t : State} {w : BitVec 256} (h : t.mem = s.mem.writeN a (bytesOf 32 w.toNat)) : t.syncWord a = w := by
  have hread : t.mem.readN a 32 = bytesOf 32 w.toNat := by
    have := Memory.readN_writeN (m := s.mem) (a := a) (l := bytesOf 32 w.toNat)
    rwa [bytesOf_length, ← h] at this
  rw [State.syncWord, hread, natOf_bytesOf]
  apply BitVec.eq_of_toNat_eq
  rw [BitVec.toNat_ofNat, show (256 : Nat) ^ 32 = 2 ^ 256 by norm_num, Nat.mod_mod, Nat.mod_eq_of_lt w.isLt]

/-! ### SYNCARM and SYNCWAIT -/

section
variable {r k : BitVec 6} {c : BitVec 5} {i : BitVec 7} (hcur : s.cur = .strand sid)
include hcur

theorem execSyncarm_ok (haddr : s.syncAddr sid ((s.strand sid).rc c.toNat) (offImm ((s.strand sid).rd k.toNat) 32 i) rightW = .ok a) :
    execSyncarm r c k i s = .next (s.setStrand sid ((s.strand sid).push 3 0 (.arm a ((s.strand sid).rd r.toNat)))) := by
  refine (strandOnly_strand hcur).trans (congrArg _ ?_)
  simp only [haddr]

variable (hstep : s.inMStep sid = false)
  (haddr : s.syncAddr sid ((s.strand sid).rc c.toNat) (offImm ((s.strand sid).rd k.toNat) 32 i) rightR = .ok a)
include hstep haddr

theorem execSyncwait_past (hpast : ((s.strand sid).rd r.toNat).toNat < (syncGen (s.syncWord a)).toNat) :
    execSyncwait r c k i s = .next s := by
  refine (waitWord_outside_mstep hcur hstep).trans (congrArg _ ?_)
  simp only [haddr]
  exact if_pos hpast

theorem execSyncwait_freezes (hwait : (s.strand sid).wait = .none)
    (hnot : (syncGen (s.syncWord a)).toNat ≤ ((s.strand sid).rd r.toNat).toNat) :
    execSyncwait r c k i s = .next (s.setStrand sid { s.strand sid with wait := .sync a ((s.strand sid).rd r.toNat) }) := by
  refine (waitWord_outside_mstep hcur hstep).trans (congrArg _ ?_)
  simp only [haddr]
  exact (if_neg (Nat.not_lt.mpr hnot)).trans (State.freeze_of_wait_none hwait)

end

theorem execSyncwaitComplete_past {g : BitVec 64} (hwait : (s.strand sid).wait = .sync a g)
    (hpast : g.toNat < (syncGen (s.syncWord a)).toNat) :
    execSyncwaitComplete sid s = .next (s.setStrand sid ((s.strand sid).answer [])) := by
  simp only [execSyncwaitComplete, hwait]
  exact if_pos hpast

end Sys2Proof.Machine
end

section
/-! SUPPORT. The obligation on sync words. -/

open Sys2Proof Sys2Proof.Machine

theorem syncWords : Rule.SyncWords := by
  intro s sid r k c i st o gen
  exact ⟨fun a hcur haddr => execSyncarm_ok hcur haddr, fun a hcur hstep hwait haddr =>
    ⟨execSyncwait_past hcur hstep haddr, execSyncwait_freezes hcur hstep haddr hwait⟩, fun a g => execSyncwaitComplete_past⟩

/-- The count of f07 R198, read off the word that was written. -/
theorem syncWordCounts : Rule.SyncWordCounts := by
  intro s a m w target count hcount hgen w'
  obtain ⟨multi, hmem⟩ := State.syncArrive_mem_eq (s := s) (a := a) (m := m)
  have hword : w' = syncPut target (count - syncSteps target count * target) (syncGen w + BitVec.ofNat 64 (syncSteps target count))
      (w.getLsbD 192) multi := State.syncWord_of_mem hmem
  have hleft : syncCount w' = count - syncSteps target count * target := by
    rw [hword, syncCount_syncPut (Nat.lt_of_le_of_lt (Nat.sub_le ..) hcount)]
  have hgen' : syncGen w' = syncGen w + BitVec.ofNat 64 (syncSteps target count) := by rw [hword, syncGen_syncPut]
  refine ⟨?target, ?armed, fun hzero => ⟨?kept, ?same⟩, fun hsome => ⟨hleft.trans (sub_syncSteps hsome), ?raised⟩, fun x hx => ?frame⟩
  case target => rw [hword, syncTarget_syncPut (syncTarget_lt w)]
  case armed => rw [hword, syncArmed_syncPut]
  case kept => rw [hleft, hzero, Nat.mul_zero, Nat.sub_zero]
  case same => rw [hgen', hzero, syncSteps_zero, BitVec.add_zero]
  case raised =>
    have hsteps : syncSteps target count = count / target := if_neg hsome
    have hbound : count / target ≤ count := Nat.div_le_self ..
    rw [hgen', BitVec.toNat_add, BitVec.toNat_ofNat, hsteps, Nat.add_mod_mod, Nat.mod_eq_of_lt (by omega)]
  case frame =>
    rw [hmem]
    exact Memory.read_writeN_out (hx.imp_right (by rw [bytesOf_length]; exact id))

/-- Settles O34, by its two rules. -/
theorem syncWordsAndTheirWaits : Obligations.SyncWordsAndTheirWaits := ⟨syncWords, syncWordCounts⟩

end

section
/-! SUPPORT. Vector words that do nothing without an active lane (f20 R405). -/
namespace Sys2Proof.Machine

section
variable {s : State} {sid : Nat} (hcur : s.cur = .strand sid) (hfree : (s.strand sid).occV ≤ (s.strand sid).vclk)
include hcur hfree

/-- A word of the unit that does nothing without an active lane, with one. -/
theorem vUnit_active {occ : Nat} {g : BitVec 4} {F : Strand → Strand} {st : Strand} (hactive : (s.strand sid).active g ≠ [])
    (hF : F { s.strand sid with occV := (s.strand sid).vclk + occ } = st) :
    vUnit s occ (fun st => if (st.active g).isEmpty then st else F st) = .next (s.setStrand sid st) := by
  have hsome : ¬ ((s.strand sid).active g).isEmpty = true := by simpa using hactive
  subst hF
  exact (vUnit_free hcur hfree).trans (congrArg (fun st => Host.Outcome.next (s.setStrand sid st)) (if_neg hsome))

end

end Sys2Proof.Machine
end

section
/-! SUPPORT. Words over single lanes, over the order of lanes and over rows and columns of lanes (f20 R413, R417, R423, f05 R138). -/
namespace Sys2Proof.Machine

section
variable {s : State} {sid : Nat} (hcur : s.cur = .strand sid) (hfree : (s.strand sid).occV ≤ (s.strand sid).vclk)
include hcur hfree

/-! ### Single lanes -/

theorem execVput_free {d a b : BitVec 6} {l : Nat} (hl : ((s.strand sid).rd b.toNat).toNat % 1024 = l) :
    ∃ img, execVput d a b s = .next (s.setStrand sid (({ s.strand sid with occV := (s.strand sid).vclk + 1 }.push 1 6
      (.v d.toNat [(l, true)] img)).push 1 6 (.meter 9 1))) ∧ SMap.get 0 img l = ((s.strand sid).rd a.toNat).setWidth 32 := by
  subst hl
  refine ⟨_, vUnit_free hcur hfree, ?_⟩
  exact (get_laneImage (act := [_]) (f := fun _ => (((s.strand sid).rd a.toNat).setWidth 32, 0)) _).trans (if_pos List.mem_cons_self)

/-! ### VCOMP and VEXPD -/

omit hcur hfree in
/-- VCOMP sends the k-th masked lane to lane k. -/
theorem compress_pairs (act : List Nat) :
    (act.zipIdx.map fun x => (x.2, x.1)) = (List.range act.length).map fun k => (k, act.getD k 0) := by
  refine List.ext_getElem (by simp) fun k hk _ => ?_
  simp only [List.length_map, List.length_zipIdx] at hk
  simp [hk]

omit hcur hfree in
/-- VEXPD sends lane k to the k-th masked lane. -/
theorem expand_pairs {act : List Nat} (hnodup : act.Nodup) : act.zipIdx = act.map fun l => (l, act.idxOf l) := by
  refine List.ext_getElem (by simp) fun k _ hk => ?_
  simp only [List.length_map] at hk
  simp [hnodup.idxOf_getElem k hk]

omit hcur hfree in
theorem getElem?_eq_range {act : List Nat} {l : Nat} :
    act[l]? = if l ∈ List.range act.length then some (act.getD l 0) else none := by
  by_cases hl : l < act.length <;> simp [hl]

/-- The lanes a VCOMP or VEXPD writes, each with the lane it takes. -/
theorem vMask_active {z : BitVec 1} {d a : BitVec 6} {m : BitVec 4} {pairs : List Nat → List (Nat × Nat)} {act lanes : List Nat}
    {src : Nat → Nat} {goes : Nat → Option Nat} (hact : (s.strand sid).active m = act) (hactive : act ≠ [])
    (hpairs : pairs act = lanes.map fun k => (k, src k)) (hgoes : ∀ l, goes l = if l ∈ lanes then some (src l) else none) :
    ∃ (mask : PReg) (img : VReg),
    vMask s z d a m pairs = .next (s.setStrand sid (({ s.strand sid with occV := (s.strand sid).vclk + 4 }.push 1 10
      (.v d.toNat mask img)).push 1 10 (.meter 9 act.length))) ∧
    ∀ l < 1024, (SMap.get false mask l = true ↔ (goes l).isSome ∨ z = 1) ∧
      SMap.get 0 img l = match goes l with | some k => (s.strand sid).lane a.toNat k | none => 0 := by
  subst hact
  have hsome : ¬ (((s.strand sid).active m).isEmpty = true ∧ z = 0) := fun h => hactive (List.isEmpty_iff.mp h.1)
  refine ⟨_, _, (vUnit_free hcur hfree).trans (congrArg (fun st => Host.Outcome.next (s.setStrand sid st)) (if_neg hsome)), fun l hl => ?_⟩
  have hsame : ({ s.strand sid with occV := (s.strand sid).vclk + 4 } : Strand).active m = (s.strand sid).active m := rfl
  rw [hsame, hpairs, List.map_map, List.map_map]
  have hlanes : (Prod.fst ∘ fun k => (k, src k)) = (id : Nat → Nat) := rfl
  rw [hlanes, List.map_id, hgoes]
  refine ⟨(get_writtenLanes hl).trans (or_congr_left ?_), (get_laneImage l).trans ?_⟩
  · by_cases hmem : l ∈ lanes <;> simp [hmem]
  · by_cases hmem : l ∈ lanes
    · rw [if_pos hmem, if_pos hmem]
      rfl
    · rw [if_neg hmem, if_neg hmem]

/-! ### VREDR and VREDC -/

/-- Each active lane takes the reduction of its group. -/
theorem vReduce'_active {lat q groups : Nat} {z : BitVec 1} {d a o : BitVec 6} {g : BitVec 4} {t : BitVec 2} {groupOf : Nat → Nat}
    {members : Nat → List Nat} (hactive : (s.strand sid).active g ≠ []) (hgroup : ∀ l < 1024, groupOf l < groups)
    {f : Nat → BitVec 32 × BitVec 8}
    (hf : ∀ l, redLane (s.strand sid) a g t o.toNat q (members (groupOf l)) = f l) :
    ∃ (img : VReg) (mask : PReg), vReduce' s lat q z d a o g t groups groupOf members = .next (s.setStrand sid
      (((({ s.strand sid with occV := (s.strand sid).vclk + 4 }.push 1 lat (.v d.toNat mask img)).pushFlags 1 lat
        (orFlags (((s.strand sid).active g).map fun l => (f l).2))).push 1 lat (.meter 9 ((s.strand sid).active g).length)))) ∧
      ∀ l < 1024, (SMap.get false mask l = true ↔ l ∈ (s.strand sid).active g ∨ z = 1) ∧
        SMap.get 0 img l = if l ∈ (s.strand sid).active g then (f l).1 else 0 := by
  refine ⟨_, _, vUnit_active hcur hfree hactive ?_, fun l hl => ⟨get_writtenLanes hl, get_laneImage l⟩⟩
  have hact : ({ s.strand sid with occV := (s.strand sid).vclk + 4 } : Strand).active g = (s.strand sid).active g := rfl
  dsimp only
  rw [hact]
  have hlanes : ((s.strand sid).active g).map (fun l => (l, ((List.range groups).map fun k =>
      if ((s.strand sid).active g).any fun l => groupOf l == k then
        redLane { s.strand sid with occV := (s.strand sid).vclk + 4 } a g t o.toNat q (members k) else (0, 0)).getD (groupOf l) (0, 0))) =
      ((s.strand sid).active g).map fun l => (l, f l) := by
    refine List.map_congr_left fun l hl => congrArg (Prod.mk l) ?_
    have hlt : groupOf l < groups := hgroup l (List.mem_range.mp (List.mem_filter.mp hl).1)
    have hany : ((s.strand sid).active g).any (fun k => groupOf k == groupOf l) = true := List.any_eq_true.mpr ⟨l, hl, beq_self_eq_true _⟩
    rw [List.getD_eq_getElem _ _ (by simpa using hlt), List.getElem_map, List.getElem_range, if_pos hany]
    exact hf l
  rw [hlanes, ← laneImage_flags]

end

end Sys2Proof.Machine
end

section
/-! SUPPORT. The obligation on words over single lanes, the order of lanes and all lanes. -/

open Sys2Proof Sys2Proof.Machine

theorem singleLanes : Rule.SingleLanes := by
  intro s sid d a b hcur hfree st l
  dsimp only [exec]
  exact ⟨vUnit_free hcur hfree, execVput_free hcur hfree rfl⟩

theorem compressAndExpand : Rule.CompressAndExpand := by
  intro s sid z d a m hcur hfree st act gives hactive
  have hact : (s.strand sid).active m = act := rfl
  have hexpand : act.zipIdx = act.map fun l => (l, act.idxOf l) := expand_pairs (List.nodup_range.filter _)
  clear_value act
  have hcomp := vMask_active (z := z) (d := d) (a := a) (pairs := fun act => act.zipIdx.map fun x => (x.2, x.1))
    (goes := fun l => act[l]?) hcur hfree hact hactive (compress_pairs act) fun l => getElem?_eq_range
  have hexpd := vMask_active (z := z) (d := d) (a := a) (pairs := fun act => act.zipIdx)
    (goes := fun l => if l ∈ act then some (act.idxOf l) else none) hcur hfree hact hactive hexpand fun l => rfl
  exact ⟨hcomp, hexpd⟩

theorem reductions : Rule.Reductions := by
  intro s sid z d a o g t hcur hfree st act red hactive
  dsimp only [PerformsLanes, exec]
  exact ⟨vReduce'_active hcur hfree hactive (fun l hl => (Nat.div_lt_iff_lt_mul (by decide)).mpr hl) fun l => rfl,
    vReduce'_active hcur hfree hactive (fun l _ => Nat.mod_lt l (by decide)) fun l => rfl⟩

/-- Settles O25, by its three rules. -/
theorem laneWords : Obligations.LaneWords := ⟨singleLanes, compressAndExpand, reductions⟩

end

section
/-! SUPPORT. Modular arithmetic (f05 R145, R146): exact for a modulus with its constant. -/
namespace Sys2Proof.Machine

/-! ### MulMod, AddMod and SubMod -/

section
variable {a b q p k : Nat}

/-- The quotient by the constant is the quotient or one less. -/
theorem barrett_bounds (hq : 0 < q) (hp : p < 2 ^ 64) :
    p * (2 ^ 64 / q) / 2 ^ 64 * q ≤ p ∧ p < p * (2 ^ 64 / q) / 2 ^ 64 * q + 2 * q := by
  generalize hmu : 2 ^ 64 / q = mu
  generalize hest : p * mu / 2 ^ 64 = est
  have hmuLe : mu * q ≤ 2 ^ 64 := hmu ▸ Nat.div_mul_le_self ..
  have hmuLt : 2 ^ 64 < q * (mu + 1) := hmu ▸ Nat.lt_mul_div_succ _ hq
  have hestLe : est * 2 ^ 64 ≤ p * mu := hest ▸ Nat.div_mul_le_self ..
  have hestLt : p * mu < 2 ^ 64 * (est + 1) := hest ▸ Nat.lt_mul_div_succ _ (by decide)
  constructor
  · refine Nat.le_of_mul_le_mul_right (c := 2 ^ 64) ?_ (by decide)
    calc est * q * 2 ^ 64 = est * 2 ^ 64 * q := Nat.mul_right_comm ..
      _ ≤ p * mu * q := Nat.mul_le_mul_right q hestLe
      _ = p * (mu * q) := Nat.mul_assoc ..
      _ ≤ p * 2 ^ 64 := Nat.mul_le_mul_left p hmuLe
  · refine Nat.lt_of_mul_lt_mul_left (a := 2 ^ 64) ?_
    calc 2 ^ 64 * p ≤ q * (mu + 1) * p := Nat.mul_le_mul_right p hmuLt.le
      _ = q * (p * mu) + q * p := by ring
      _ < q * (2 ^ 64 * (est + 1)) + q * 2 ^ 64 :=
        Nat.add_lt_add (Nat.mul_lt_mul_of_pos_left hestLt hq) (Nat.mul_lt_mul_of_pos_left hp hq)
      _ = 2 ^ 64 * (est * q + 2 * q) := by ring

theorem mod_eq_sub_mul (hk : k * q ≤ p) (h : p < k * q + q) : p % q = p - k * q :=
  calc p % q = (p - k * q + k * q) % q := by rw [Nat.sub_add_cancel hk]
    _ = (p - k * q) % q := Nat.add_mul_mod_self_right ..
    _ = p - k * q := Nat.mod_eq_of_lt (by omega)

/-- From less than two moduli, one taken off where it goes in leaves the remainder. -/
theorem sub_once_eq_mod (hk : k * q ≤ p) (h : p < k * q + 2 * q) :
    (if (q : Int) ≤ (p : Int) - (k * q : Nat) then (p : Int) - (k * q : Nat) - q else (p : Int) - (k * q : Nat)) = (p % q : Nat) := by
  by_cases hfit : k * q + q ≤ p
  · rw [if_pos (by omega), mod_eq_sub_mul (k := k + 1) (by rwa [Nat.succ_mul]) (by rw [Nat.succ_mul]; omega), Nat.succ_mul]
    omega
  · rw [if_neg (by omega), mod_eq_sub_mul hk (by omega)]
    omega

theorem mulMod_exact (hq : 2 ≤ q) (hq' : q < 2 ^ 31) (ha : a < q) (hb : b < q) : mulMod a b q (2 ^ 64 / q) = (a * b % q, 0) := by
  have hprod : a * b < 2 ^ 64 := by nlinarith
  obtain ⟨hle, hlt⟩ := barrett_bounds (q := q) (by omega) hprod
  have hmod : a * b % q < q := Nat.mod_lt _ (by omega)
  unfold mulMod
  dsimp only
  rw [if_neg (by omega), sub_once_eq_mod hle hlt, if_neg (by omega), if_neg (by omega), Int.toNat_natCast]

/-- The last check of AddMod and SubMod finds nothing below the modulus. -/
theorem modFinish_natCast (hq : 2 ≤ q) (hp : p < q) : modFinish (p : Int) q = (p, 0) := by
  rw [modFinish, if_neg (by omega), Int.toNat_natCast]

theorem addMod_exact (hq : 2 ≤ q) (ha : a < q) (hb : b < q) : addMod a b q = ((a + b) % q, 0) := by
  have hsum := sub_once_eq_mod (k := 0) (p := a + b) (q := q) (by omega) (by omega)
  simp only [Nat.zero_mul, Nat.cast_zero, sub_zero] at hsum
  rw [addMod, hsum, modFinish_natCast hq (Nat.mod_lt _ (by omega))]

theorem subMod_exact (hq : 2 ≤ q) (ha : a < q) (hb : b < q) : subMod a b q = ((a + q - b) % q, 0) := by
  rw [← modFinish_natCast hq (Nat.mod_lt (a + q - b) (by omega : 0 < q)), subMod]
  congr 1
  by_cases hlt : a < b
  · rw [if_pos (by omega), Nat.mod_eq_of_lt (by omega)]
    omega
  · rw [if_neg (by omega), Nat.add_comm, Nat.add_sub_assoc (by omega), Nat.add_mod_left, Nat.mod_eq_of_lt (by omega)]
    omega

end

/-! ### The modular words -/

/-- Two lanes as one constant. -/
theorem toNat_append_lanes (x y : BitVec 32) : (x ++ y).toNat = x.toNat * 2 ^ 32 + y.toNat := by
  rw [BitVec.toNat_append, ← Nat.shiftLeft_add_eq_or_of_lt y.isLt, Nat.shiftLeft_eq]

section
variable {s : State} {sid : Nat} (hcur : s.cur = .strand sid) (hfree : (s.strand sid).occV ≤ (s.strand sid).vclk)
include hcur hfree

theorem vModular_active {lat muls : Nat} {z : BitVec 1} {d : BitVec 6} {g : BitVec 4} {F : Strand → Nat → Nat × BitVec 8}
    {act : List Nat} {f : Nat → Nat × BitVec 8} (hact : (s.strand sid).active g = act) (hactive : act ≠ [])
    (hf : ∀ l, F { s.strand sid with occV := (s.strand sid).vclk + 4 } l = f l) : ∃ (img : VReg) (mask : PReg),
    vModular s lat muls z d g F = .next (s.setStrand sid (((({ s.strand sid with occV := (s.strand sid).vclk + 4 }.push 1 lat
      (.v d.toNat mask img)).pushFlags 1 lat (orFlags (act.map fun l => (f l).2))).push 1 lat (.meter 9 act.length)).push 1 lat
      (.meter 10 (muls * act.length)))) ∧
    ∀ l < 1024, (SMap.get false mask l = true ↔ l ∈ act ∨ z = 1) ∧ SMap.get 0 img l = if l ∈ act then BitVec.ofNat 32 (f l).1 else 0 := by
  subst hact
  obtain rfl : F { s.strand sid with occV := (s.strand sid).vclk + 4 } = f := funext hf
  refine ⟨_, _, vUnit_active hcur hfree hactive ?_, fun l hl => ⟨get_writtenLanes hl,
    get_laneImage (f := fun l => (BitVec.ofNat 32 (F { s.strand sid with occV := (s.strand sid).vclk + 4 } l).1,
      (F { s.strand sid with occV := (s.strand sid).vclk + 4 } l).2)) l⟩⟩
  dsimp only
  rw [laneImage_flags]
  rfl

theorem execVmqset_free {a b : BitVec 6} {k : BitVec 2} : ∃ mb : SMap (BitVec 64), execVmqset a b k s = .next (s.setStrand sid
    ((({ s.strand sid with occV := (s.strand sid).vclk + 4 }.push 1 8 (.mq k.toNat ((s.strand sid).rv a.toNat))).push 1 8
      (.mb k.toNat mb)).push 1 8 (.meter 9 1024))) ∧ ∀ l < 1024, (SMap.get 0 mb l).toNat =
        ((s.strand sid).lane (b.toNat + 1) l).toNat * 2 ^ 32 + ((s.strand sid).lane b.toNat l).toNat := by
  refine ⟨_, vUnit_free hcur hfree, fun l hl => ?_⟩
  rw [SMap.get_ofFn, if_pos hl, toNat_append_lanes]
  rfl

end

/-! ### The butterflies -/

/-- The lanes of the pairs listed, and the pairs' outputs on them. -/
def pairLanes (pairs : List Nat) : List Nat := pairs.flatMap fun i => [2 * i, 2 * i + 1]
def pairOut (out : Nat → (Nat × BitVec 8) × (Nat × BitVec 8)) (l : Nat) : Nat × BitVec 8 :=
  if l % 2 = 0 then (out (l / 2)).1 else (out (l / 2)).2

section
variable {pairs : List Nat} {out : Nat → (Nat × BitVec 8) × (Nat × BitVec 8)} {i : Nat}

theorem even_mem_pairLanes : 2 * i ∈ pairLanes pairs ↔ i ∈ pairs := by
  simp only [pairLanes, List.mem_flatMap, List.mem_cons, List.not_mem_nil, or_false]
  exact ⟨fun ⟨k, hk, h⟩ => (show k = i by omega) ▸ hk, fun h => ⟨i, h, .inl rfl⟩⟩

theorem odd_mem_pairLanes : 2 * i + 1 ∈ pairLanes pairs ↔ i ∈ pairs := by
  simp only [pairLanes, List.mem_flatMap, List.mem_cons, List.not_mem_nil, or_false]
  exact ⟨fun ⟨k, hk, h⟩ => (show k = i by omega) ▸ hk, fun h => ⟨i, h, .inr rfl⟩⟩

theorem pairOut_even : pairOut out (2 * i) = (out i).1 := by
  rw [pairOut, if_pos (by omega), Nat.mul_div_cancel_left _ (by decide)]

theorem pairOut_odd : pairOut out (2 * i + 1) = (out i).2 := by
  rw [pairOut, if_neg (by omega), show (2 * i + 1) / 2 = i by omega]

theorem length_pairLanes : (pairLanes pairs).length = 2 * pairs.length := by
  simp [pairLanes, List.length_flatMap, Nat.mul_comm]

/-- The outputs of pairs, lane by lane. -/
theorem flatMap_pairs {α : Type} (f : Nat → Nat × BitVec 8 → α) :
    (pairs.flatMap fun i => [f (2 * i) (out i).1, f (2 * i + 1) (out i).2]) = (pairLanes pairs).map fun l => f l (pairOut out l) := by
  rw [pairLanes, List.map_flatMap]
  refine congrArg (List.flatMap · pairs) (funext fun i => ?_)
  simp only [List.map_cons, List.map_nil, pairOut_even, pairOut_odd]

theorem orFlags_cons (x : BitVec 8) (l : List (BitVec 8)) : orFlags (x :: l) = x ||| orFlags l := by
  rw [orFlags, List.foldl_cons, BitVec.or_comm]
  exact List.foldl_assoc

/-- The flags of pairs are those of their lanes. -/
theorem orFlags_pairs : orFlags ((pairLanes pairs).map fun l => (pairOut out l).2) =
    orFlags (pairs.map fun i => (out i).1.2 ||| (out i).2.2) := by
  rw [← flatMap_pairs fun _ x => x.2]
  induction pairs with
  | nil => rfl
  | cons i rest ih =>
    rw [List.flatMap_cons, List.map_cons, List.cons_append, List.cons_append, List.nil_append, orFlags_cons, orFlags_cons, orFlags_cons, ih,
      BitVec.or_assoc]

/-- The lanes of pairs with what a butterfly word writes to each. -/
def pairResults (pairs : List Nat) (out : Nat → (Nat × BitVec 8) × (Nat × BitVec 8)) : List (Nat × BitVec 32 × BitVec 8) :=
  (pairLanes pairs).map fun l => (l, BitVec.ofNat 32 (pairOut out l).1, (pairOut out l).2)

/-- The writes of a butterfly word. -/
def Strand.butterflyWrites (st : Strand) (z : BitVec 1) (d : BitVec 6) (r : List (Nat × BitVec 32 × BitVec 8)) (n : Nat) : Strand :=
  (((st.push 1 12 (.v d.toNat (writtenLanes z (r.map (·.1))) (laneImage r).1)).pushFlags 1 12 (laneImage r).2).push 1 12
    (.meter 9 r.length)).push 1 12 (.meter 10 n)

/-- The butterfly of a pair of lanes. -/
def Strand.butterflyOut (st : Strand) (gs : Bool) (a b : BitVec 6) (k : BitVec 2) (i : Nat) : (Nat × BitVec 8) × (Nat × BitVec 8) :=
  butterfly gs (st.lane a.toNat (2 * i)).toNat (st.lane a.toNat (2 * i + 1)).toNat (st.lane b.toNat (2 * i)).toNat
    (st.modOf k.toNat (2 * i)) (st.muOf k.toNat (2 * i))

theorem vButterfly_eq (s : State) (gs : Bool) (z : BitVec 1) (d a b : BitVec 6) (g : BitVec 4) (k : BitVec 2) :
    vButterfly s gs z d a b g k = vUnit s 4 fun st => if (st.active g).isEmpty then st else
      st.butterflyWrites z d (pairResults ((List.range 512).filter fun i => st.guard g (2 * i)) (st.butterflyOut gs a b k))
        ((List.range 512).filter fun i => st.guard g (2 * i)).length := by
  refine congrArg (vUnit s 4) (funext fun st => if_congr Iff.rfl rfl ?_)
  rw [pairResults, ← flatMap_pairs (out := st.butterflyOut gs a b k) fun l x => (l, BitVec.ofNat 32 x.1, x.2)]
  dsimp only [Strand.butterflyWrites, Strand.butterflyOut]

theorem butterflyWrites_pairResults {st : Strand} {z : BitVec 1} {d : BitVec 6} {pairs : List Nat}
    {out : Nat → (Nat × BitVec 8) × (Nat × BitVec 8)} : st.butterflyWrites z d (pairResults pairs out) pairs.length =
      (((st.push 1 12 (.v d.toNat (writtenLanes z (pairLanes pairs)) (laneImage (pairResults pairs out)).1)).pushFlags 1 12
        (orFlags (pairs.map fun i => (out i).1.2 ||| (out i).2.2))).push 1 12 (.meter 9 (2 * pairs.length))).push 1 12
        (.meter 10 pairs.length) := by
  have hlanes : (pairResults pairs out).map (·.1) = pairLanes pairs := by rw [pairResults, List.map_map]; exact List.map_id _
  have hflags : (laneImage (pairResults pairs out)).2 = orFlags (pairs.map fun i => (out i).1.2 ||| (out i).2.2) :=
    laneImage_flags.trans orFlags_pairs
  have hlength : (pairResults pairs out).length = 2 * pairs.length := (List.length_map ..).trans length_pairLanes
  rw [Strand.butterflyWrites, hlanes, hflags, hlength]

theorem get_pairResults (l : Nat) : SMap.get 0 (laneImage (pairResults pairs out)).1 l =
    if l ∈ pairLanes pairs then BitVec.ofNat 32 (pairOut out l).1 else 0 := get_laneImage l

end

/-- A butterfly word with an active lane: what is pending, and both lanes of each pair. -/
theorem vButterfly_active {s : State} {sid : Nat} {gs : Bool} {z : BitVec 1} {d a b : BitVec 6} {g : BitVec 4} {k : BitVec 2}
    {pairs : List Nat} {out : Nat → (Nat × BitVec 8) × (Nat × BitVec 8)} (hcur : s.cur = .strand sid)
    (hfree : (s.strand sid).occV ≤ (s.strand sid).vclk) (hactive : (s.strand sid).active g ≠ [])
    (hpairs : (List.range 512).filter (fun i => (s.strand sid).guard g (2 * i)) = pairs)
    (hout : (s.strand sid).butterflyOut gs a b k = out) :
    ∃ (img : VReg) (mask : PReg) (fl : BitVec 8), vButterfly s gs z d a b g k = .next (s.setStrand sid
      (((({ s.strand sid with occV := (s.strand sid).vclk + 4 }.push 1 12 (.v d.toNat mask img)).pushFlags 1 12
        fl).push 1 12 (.meter 9 (2 * pairs.length))).push 1 12 (.meter 10 pairs.length))) ∧
      (fl = orFlags (pairs.map fun i => (out i).1.2 ||| (out i).2.2)) ∧
      ∀ i < 512, (SMap.get false mask (2 * i) = true ↔ i ∈ pairs ∨ z = 1) ∧ (SMap.get false mask (2 * i + 1) = true ↔ i ∈ pairs ∨ z = 1) ∧
        SMap.get 0 img (2 * i) = (if i ∈ pairs then BitVec.ofNat 32 (out i).1.1 else 0) ∧
          SMap.get 0 img (2 * i + 1) = if i ∈ pairs then BitVec.ofNat 32 (out i).2.1 else 0 := by
  subst hpairs hout
  refine ⟨_, _, _, (vButterfly_eq ..).trans (vUnit_active hcur hfree hactive butterflyWrites_pairResults), rfl,
    fun i hi => ⟨?even, ?odd, ?evenImage, ?oddImage⟩⟩
  case even => exact (get_writtenLanes (by omega)).trans (or_congr_left even_mem_pairLanes)
  case odd => exact (get_writtenLanes (by omega)).trans (or_congr_left odd_mem_pairLanes)
  case evenImage =>
    rw [get_pairResults, pairOut_even]
    exact if_congr even_mem_pairLanes rfl rfl
  case oddImage =>
    rw [get_pairResults, pairOut_odd]
    exact if_congr odd_mem_pairLanes rfl rfl

end Sys2Proof.Machine
end

section
/-! SUPPORT. The obligation on modular words. -/

open Sys2Proof Sys2Proof.Machine

theorem modularLanes : Rule.ModularLanes := by
  intro s sid z d a b g k hcur hfree st act q mu x y gives
  dsimp only [gives, exec]
  exact ⟨fun hactive => ⟨vModular_active hcur hfree rfl hactive fun _ => rfl, vModular_active hcur hfree rfl hactive fun _ => rfl,
    vModular_active hcur hfree rfl hactive fun _ => rfl, vModular_active hcur hfree rfl hactive fun _ => rfl⟩,
    execVmqset_free hcur hfree⟩

theorem modularArithmeticExact : Rule.ModularArithmeticExact := fun _ _ _ hq hq' ha hb =>
  ⟨mulMod_exact hq hq' ha hb, addMod_exact hq ha hb, subMod_exact hq ha hb⟩

theorem butterflies : Rule.Butterflies := by
  intro s sid z d a b g k hcur hfree st act out gives hactive
  exact ⟨vButterfly_active hcur hfree hactive rfl rfl, vButterfly_active hcur hfree hactive rfl rfl⟩

/-- Settles O26, by its three rules. -/
theorem modularWords : Obligations.ModularWords := ⟨modularLanes, modularArithmeticExact, butterflies⟩

end

section
/-! SUPPORT. VCVT's issue, the compares and VSEL (f20 R412, R415, R425). -/
namespace Sys2Proof.Machine

section
variable {s : State} {sid : Nat} (hcur : s.cur = .strand sid) (hfree : (s.strand sid).occV ≤ (s.strand sid).vclk)
include hcur hfree

/-! ### VCVT -/

section
variable {z : BitVec 1} {d a x : BitVec 6} {g : BitVec 4} (hactive : (s.strand sid).active g ≠ [])
include hactive

theorem execVcvt_active : execVcvt z d a x g s = .next
    (match cvtCtl ((s.strand sid).rd x.toNat) d a g with
    | none => (s.setStrand sid { s.strand sid with occV := (s.strand sid).vclk + 4 }).suppressHere sid Code.pbFmt 1
    | some c => s.setStrand sid (cvtWrites c (strandNo sid) z d a ((s.strand sid).active g)
      { s.strand sid with occV := (s.strand sid).vclk + 4 })) := by
  have hsome : ¬ ((s.strand sid).active g).isEmpty = true := by simpa using hactive
  exact (strandOnly_strand hcur).trans (congrArg _ ((if_neg (Nat.not_lt.mpr hfree)).trans (if_neg hsome)))

end

/-! ### The compares, and words over a whole register -/

/-- The bits a compare sets, of the results of its active lanes. -/
def cmpBits (r : List (Nat × Bool × BitVec 8)) : PReg := r.filterMap fun x => if x.2.1 then some (x.1, true) else none

omit hcur hfree in
theorem get_cmpBits {act : List Nat} {f : Nat → Bool × BitVec 8} {l : Nat} :
    SMap.get false (cmpBits (act.map fun k => (k, f k))) l = true ↔ l ∈ act ∧ (f l).1 = true := by
  have hbits : cmpBits (act.map fun k => (k, f k)) = (act.filter fun k => (f k).1).map fun k => (k, true) := by
    induction act with
    | nil => rfl
    | cons k rest ih => cases hk : (f k).1 <;> simp_all [cmpBits]
  rw [hbits, get_mapTrue, List.mem_filter]

theorem vCompare_active {cond : Nat} {p a b : BitVec 6} {g : BitVec 4} {t : BitVec 2} (hactive : (s.strand sid).active g ≠ []) :
    ∃ mask val : PReg, vCompare s cond p a b g t = .next (s.setStrand sid
      ((({ s.strand sid with occV := (s.strand sid).vclk + 4 }.push 1 6 (.p p.toNat mask val)).pushFlags 1 6
        (orFlags (((s.strand sid).active g).map fun l =>
          (cmpLane t cond ((s.strand sid).lane a.toNat l) ((s.strand sid).lane b.toNat l)).2))).push 1 6
        (.meter 9 ((s.strand sid).active g).length))) ∧
      ∀ l < 1024, (SMap.get false mask l = true ↔ l ∈ (s.strand sid).active g) ∧ (SMap.get false val l = true ↔
        l ∈ (s.strand sid).active g ∧ (cmpLane t cond ((s.strand sid).lane a.toNat l) ((s.strand sid).lane b.toNat l)).1 = true) := by
  refine ⟨_, _, vUnit_active hcur hfree hactive ?_, fun l _ => ⟨get_mapTrue, get_cmpBits⟩⟩
  dsimp only
  rw [List.map_map]
  rfl

/-- A word that writes a whole V register pends each lane's value. -/
theorem vWhole_free {lat : Nat} {d : BitVec 6} {F : Strand → Nat → BitVec 32} {v : Nat → BitVec 32}
    (hv : ∀ l, F { s.strand sid with occV := (s.strand sid).vclk + 4 } l = v l) : ∃ mask img, vWhole s lat d F = .next (s.setStrand sid
      (({ s.strand sid with occV := (s.strand sid).vclk + 4 }.push 1 lat (.v d.toNat mask img)).push 1 lat (.meter 9 1024))) ∧
      ∀ l < 1024, SMap.get false mask l = true ∧ SMap.get 0 img l = v l := by
  refine ⟨_, _, vUnit_free hcur hfree, fun l hl => ⟨?_, ?_⟩⟩
  · rw [get_allLanes, decide_eq_true hl]
  · rw [SMap.get_ofFn, if_pos hl, hv]

end

end Sys2Proof.Machine
end

section
/-! SUPPORT. The obligation on conversions and compares. -/

open Sys2Proof Sys2Proof.Machine

/-- A VCVT with an active lane is decided by its control word. -/
theorem conversionIssues : Rule.ConversionIssues := by
  intro s sid z d a x g hcur hfree st act hactive
  have hissue := execVcvt_active (z := z) (d := d) (a := a) (x := x) hcur hfree hactive
  refine ⟨fun c hctl => hissue.trans ?_, fun hctl => hissue.trans ?_⟩
  · rw [show cvtCtl ((s.strand sid).rd x.toNat) d a g = some c from hctl]
    rfl
  · rw [show cvtCtl ((s.strand sid).rd x.toNat) d a g = none from hctl]

theorem compareAndSelect : Rule.CompareAndSelect := by
  intro s sid p a b g q t hcur hfree st act r gives
  dsimp only [gives, exec]
  exact ⟨fun hactive => ⟨vCompare_active hcur hfree hactive, vCompare_active hcur hfree hactive, vCompare_active hcur hfree hactive,
    vCompare_active hcur hfree hactive⟩, vWhole_free hcur hfree fun _ => rfl⟩

/-- Settles O27, by its two rules. -/
theorem conversionsAndCompares : Obligations.ConversionsAndCompares := ⟨conversionIssues, compareAndSelect⟩

end

section
/-! SUPPORT. Timed loads and stores of vectors, predicates and capabilities (f18 R348, f19 R386, f20 R418, R419). -/
namespace Sys2Proof.Machine

/-! ### The port taken: an access reads of the strand its logical core alone -/

section
variable {s : State} {sid occ : Nat}

/-- The state in which the unit of a timed memory word works: the port is taken for `occ` vcy. -/
def State.portTaken (s : State) (sid occ : Nat) : State := s.setStrand sid { s.strand sid with occT := (s.strand sid).vclk + occ }

theorem State.strand_portTaken : (s.portTaken sid occ).strand sid = { s.strand sid with occT := (s.strand sid).vclk + occ } :=
  State.strand_setStrand ..

theorem tPort_free {f : State → Nat → State} (hcur : s.cur = .strand sid) (hfree : (s.strand sid).occT ≤ (s.strand sid).vclk) :
    tPort s occ f = .next (f (s.portTaken sid occ) sid) :=
  (tPort_strand hcur).trans (congrArg _ (if_neg (Nat.not_lt.mpr hfree)))

theorem State.rc_portTaken (n : Nat) : ((s.portTaken sid occ).strand sid).rc n = (s.strand sid).rc n := by
  rw [State.strand_portTaken]
  rfl

theorem State.rd_portTaken (n : Nat) : ((s.portTaken sid occ).strand sid).rd n = (s.strand sid).rd n := by
  rw [State.strand_portTaken]
  rfl

theorem State.pb_portTaken (n : Nat) : ((s.portTaken sid occ).strand sid).pb n = (s.strand sid).pb n := by
  rw [State.strand_portTaken]
  rfl

theorem State.lane_portTaken (n : Nat) : ((s.portTaken sid occ).strand sid).lane n = (s.strand sid).lane n := by
  rw [State.strand_portTaken]
  rfl

theorem State.capAddr_portTaken (c : Cap) (o : Nat) : (s.portTaken sid occ).capAddr sid c o = s.capAddr sid c o := by
  rw [State.capAddr, State.strand_portTaken]
  rfl

theorem State.capBytes_portTaken (c : Cap) (o n : Nat) : (s.portTaken sid occ).capBytes sid c o n = s.capBytes sid c o n := by
  simp only [State.capBytes, State.capAddr_portTaken]

theorem State.probeAddrs_portTaken (c : Cap) (o n : Nat) : (s.portTaken sid occ).probeAddrs sid c o n = s.probeAddrs sid c o n :=
  List.map_congr_left fun _ _ => State.capAddr_portTaken c _

theorem State.isRemote_portTaken (a : Nat) : (s.portTaken sid occ).isRemote sid a = s.isRemote sid a := by
  rw [State.isRemote, State.placeOfStrand, State.strand_portTaken]
  rfl

theorem State.accLat_portTaken (c : Cap) (o : Nat) (row : Nat → Nat) (load : Bool) :
    (s.portTaken sid occ).accLat sid c o row load = s.accLat sid c o row load := by
  simp only [State.accLat, State.capAddr_portTaken, State.isRemote_portTaken]
  rfl

theorem State.capCheck_portTaken (c : Cap) (o n need : Nat) :
    (s.portTaken sid occ).capCheck sid c o n need = s.capCheck sid c o n need := by
  simp only [State.capCheck, State.capIssue, State.capPort, State.outOfReach, State.probeAddrs_portTaken, State.isRemote_portTaken]
  rfl

theorem State.readCheck_portTaken (c : Cap) (o n need : Nat) :
    (s.portTaken sid occ).readCheck sid c o n need = s.readCheck sid c o n need := by
  rw [State.readCheck, State.capCheck_portTaken]
  rfl

theorem State.writeCheck_portTaken (c : Cap) (o n need : Nat) :
    (s.portTaken sid occ).writeCheck sid c o n need = s.writeCheck sid c o n need := by
  rw [State.writeCheck, State.capCheck_portTaken, State.capBytes_portTaken]
  rfl

end

/-! ### The checks of a word that R91, R113 and R161 allow -/

section
variable {s : State} {sid : Nat} {c : Cap} {o n need : Nat} {write : Bool}

theorem capCheck_of_accessOk (h : AccessOk s sid c o n need write) : s.capCheck sid c o n (need + rightT) = none := by
  obtain ⟨hobj, htid, hrights, hlen, hreach, hpin, hkind, hbound, haddr, -, -⟩ := h
  have hissue : s.capIssue sid c o n (need + rightT) = none := by
    simp [State.capIssue, hobj, htid, hrights, hreach, hpin, Nat.not_lt.mpr hlen]
  have hport : s.capPort sid c o n = none := by
    have hnone : ¬ ((s.probeAddrs sid c o n).any (· == .bad)) = true := by simpa using fun h => haddr _ h rfl
    have hlive : ¬ (¬ c.win = true ∧ entKind (s.entryOf c) = 0) := fun h => hkind (Bool.eq_false_iff.mpr h.1) h.2
    rw [State.capPort, if_neg hlive, if_neg (Nat.not_lt.mpr hbound), if_neg hnone]
  rw [State.capCheck, hissue]
  exact hport

theorem readCheck_of_accessOk (h : AccessOk s sid c o n need false) : s.readCheck sid c o n (need + rightT) = none := by
  obtain ⟨-, -, -, -, -, -, -, -, -, hstate, -⟩ := id h
  simp [State.readCheck, capCheck_of_accessOk h, hstate]

theorem writeCheck_of_accessOk (h : AccessOk s sid c o n need true) : s.writeCheck sid c o n (need + rightT) = none := by
  obtain ⟨-, -, -, -, -, -, -, -, -, hstate, hgate⟩ := id h
  have hfree : ¬ ((s.capBytes sid c o n).any fun a => match a with | some a => s.inGate a | none => false) = true := by
    rw [List.any_eq_true]
    rintro ⟨_ | a, hmem, hin⟩
    · exact Bool.false_ne_true hin
    · exact Bool.false_ne_true ((hgate rfl a hmem).symm.trans hin)
  simp only [State.writeCheck, capCheck_of_accessOk h, hstate, Bool.false_eq_true, if_false]
  exact if_neg hfree

end

/-! ### The words, on a free port with their checks passed -/

section
variable {s : State} {sid occ : Nat} {r k : BitVec 6} {c : BitVec 5} {i : BitVec 7} {h : BitVec 1} {cap : Cap} {o : Nat}

section
variable {x : VMem} {resid : Option Nat} {clear : Bool} (hcap : (s.strand sid).rc c.toNat = cap)
include hcap

theorem State.vload_checked (hok : s.vmemCheck sid cap x false = none) : s.vload sid r c x resid clear =
    s.timedLoad sid 3 (s.accLat sid cap (x.offs.headD 0) vldLat true + x.extra)
      (.v r.toNat (x.lanes.map fun l => (l, true)) resid clear) (x.offs.flatMap fun o => s.capBytes sid cap o 4) := by
  simp only [State.vload, hcap, hok]

theorem State.vstore_checked (hok : s.vmemCheck sid cap x true = none) : s.vstore sid r c x resid clear =
    s.setStrand sid ((s.strand sid).push 3 (s.accLat sid cap (x.offs.headD 0) vldLat false + x.extra)
      (.store ((x.lanes.zip x.offs).flatMap fun y => (s.capBytes sid cap y.2 4).zip (bytesOf 4 ((s.strand sid).lane r.toNat y.1).toNat))
        resid clear x.lanes)) := by
  simp only [State.vstore, hcap, hok]

end

section
variable (hcur : s.cur = .strand sid) (hfree : (s.strand sid).occT ≤ (s.strand sid).vclk)
include hcur hfree

section
variable {p : BitVec 7}

theorem execVld_free : execVld r c k p s =
    .next ((s.portTaken sid 4).vload sid r c (((s.portTaken sid 4).strand sid).wholeMem k) (residPred p) false) := tPort_free hcur hfree

theorem execVst_free : execVst r c k p s =
    .next ((s.portTaken sid 4).vstore sid r c (((s.portTaken sid 4).strand sid).wholeMem k) (residPred p) false) := tPort_free hcur hfree

theorem execVldx_free : execVldx r c k p s =
    .next ((s.portTaken sid 4).vload sid r c (((s.portTaken sid 4).strand sid).indexedMem k p.toNat) (some p.toNat) true) :=
  tPort_free hcur hfree

theorem execVstx_free : execVstx r c k p s =
    .next ((s.portTaken sid 4).vstore sid r c (((s.portTaken sid 4).strand sid).indexedMem k p.toNat) (some p.toNat) true) :=
  tPort_free hcur hfree

end

section
variable {t : State} (ht : s.portTaken sid 1 = t) (hcap : (s.strand sid).rc c.toNat = cap) (ho : ((s.strand sid).rd k.toNat).toNat = o)
  (haligned : (capBase cap.bits + o) % 128 = 0)
include ht hcap ho haligned

theorem execPld_checked (hok : t.readCheck sid cap o 128 (rightR + rightT) = none) : execPld r c k h s = .next
    (t.timedLoad sid 3 (t.accLat sid cap o vldLat true) (.p (pNo r h)) (t.capBytes sid cap o 128)) := by
  subst ht
  rw [execPld, tPort_free hcur hfree]
  simp only [State.rc_portTaken, State.rd_portTaken, hcap, ho, haligned, hok, ne_eq, not_true_eq_false, if_false]

theorem execPst_checked {bit : Nat → Bool} (hbit : (s.strand sid).pb (pNo r h) = bit)
    (hok : t.writeCheck sid cap o 128 (rightW + rightT) = none) : execPst r c k h s = .next
    (t.setStrand sid ((t.strand sid).push 3 (t.accLat sid cap o vldLat false)
      (.store ((t.capBytes sid cap o 128).zip (predBytes bit)) none false []))) := by
  subst ht
  rw [execPst, tPort_free hcur hfree]
  simp only [State.rc_portTaken, State.rd_portTaken, hcap, ho, haligned, hok, State.pb_portTaken, hbit, ne_eq, not_true_eq_false, if_false]

end

section
variable {t : State} (ht : s.portTaken sid 4 = t) (hcap : (s.strand sid).rc c.toNat = cap)
  (ho : offImm ((s.strand sid).rd k.toNat) 32 i = o) (haligned : (capBase cap.bits + o) % 32 = 0)
include ht hcap ho haligned

theorem execCld_checked (hok : t.readCheck sid cap o 32 (rightR + rightT) = none) : execCld r c k i s = .next
    (t.timedLoad sid 3 (t.accLat sid cap o vldLat true) (.c r.toNat c.toNat o) (t.capBytes sid cap o 32)) := by
  subst ht
  rw [execCld, tPort_free hcur hfree]
  simp only [State.rc_portTaken, State.rd_portTaken, hcap, ho, haligned, hok, ne_eq, not_true_eq_false, if_false]

/-- What CST stores of a capability's bits. -/
def State.cstStored (t : State) (sid : Nat) (cap : Cap) (o key : Nat) (v : BitVec 128) : State :=
  t.setStrand sid ((t.strand sid).push 3 (t.accLat sid cap o vldLat false)
    (.store ((t.capBytes sid cap o 32).zip (bytesOf 32 (sealCap key v).toNat)) none false []))

section
variable {v : BitVec 128} (hv : ((s.strand sid).rc r.toNat).bits = v) (hok : t.writeCheck sid cap o 32 (rightW + rightT) = none)
include hv hok

theorem execCst_storable (hright : hasRights (capRights v) rightS = true) :
    execCst r c k i s = .next (t.cstStored sid cap o (t.tenant (t.owner sid)).key v) := by
  subst ht
  rw [execCst, tPort_free hcur hfree]
  simp only [State.rc_portTaken, State.rd_portTaken, hcap, ho, haligned, hok, hv, hright, ne_eq, not_true_eq_false, if_false, if_true,
    State.cstStored]

theorem execCst_null (hright : hasRights (capRights v) rightS = false) :
    execCst r c k i s = .next ((t.cstStored sid cap o (t.tenant (t.owner sid)).key 0).fault sid Code.capRights 3 r.toNat o) := by
  subst ht
  rw [execCst, tPort_free hcur hfree]
  simp only [State.rc_portTaken, State.rd_portTaken, hcap, ho, haligned, hok, hv, hright, ne_eq, not_true_eq_false, if_false,
    Bool.false_eq_true, State.cstStored]

end

end

end

end

/-! ### The footprints of the vector mould -/

/-- The check of one access of a load or a store. -/
def State.oneCheck (s : State) (sid : Nat) (c : Cap) (store : Bool) (o n : Nat) : Option Nat :=
  if store then s.writeCheck sid c o n (rightW + rightT) else s.readCheck sid c o n (rightR + rightT)

/-- All 1024 lanes from an offset. -/
def wholeFrom (o : Nat) : VMem := ⟨List.range 1024, (List.range 1024).map fun l => o + 4 * l, true, 0⟩

theorem headD_map_range {n : Nat} (hn : 0 < n) (f : Nat → Nat) : ((List.range n).map f).headD 0 = f 0 := by
  obtain ⟨m, rfl⟩ := Nat.exists_eq_succ_of_ne_zero hn.ne'
  rw [List.range_succ_eq_map]
  rfl

theorem wholeFrom_headD (o : Nat) : ((List.range 1024).map fun l => o + 4 * l).headD 0 = o :=
  headD_map_range (n := 1024) (by decide) fun l => o + 4 * l

section
variable {s : State} {sid : Nat} {c : Cap} {store : Bool}

theorem State.oneCheck_portTaken {occ o n : Nat} : (s.portTaken sid occ).oneCheck sid c store o n = s.oneCheck sid c store o n := by
  simp only [State.oneCheck, State.readCheck_portTaken, State.writeCheck_portTaken]

theorem vmemCheck_wholeFrom {o : Nat} (haligned : (capBase c.bits + o) % 4 = 0) (hok : s.oneCheck sid c store o 4096 = none) :
    s.vmemCheck sid c (wholeFrom o) store = none := by
  have hone : (if store then s.writeCheck sid c o 4096 (rightW + rightT) else s.readCheck sid c o 4096 (rightR + rightT)) = none := hok
  rw [State.vmemCheck, wholeFrom]
  dsimp only
  rw [wholeFrom_headD, if_pos rfl, if_neg (not_not.mpr haligned), hone]
  rfl

theorem vmemCheck_lanes {lanes : List Nat} {off : Nat → Nat} {extra : Nat} (haligned : ∀ l ∈ lanes, (capBase c.bits + off l) % 4 = 0)
    (hok : ∀ l ∈ lanes, s.oneCheck sid c store (off l) 4 = none) :
    s.vmemCheck sid c ⟨lanes, lanes.map off, false, extra⟩ store = none := by
  have hall : ¬ ((lanes.map off).any fun o => (capBase c.bits + o) % 4 ≠ 0) = true := by simpa using haligned
  have hnone : ((lanes.map off).filterMap fun o => (if store then s.writeCheck sid c o 4 (rightW + rightT) else
      s.readCheck sid c o 4 (rightR + rightT)).map fun code => (s.checkRank sid c o 4 ((if store then rightW else rightR) + rightT) store,
        code, o)) = [] := by
    rw [List.filterMap_eq_nil_iff, List.forall_mem_map]
    exact fun l hl => Option.map_eq_none_iff.mpr (hok l hl)
  rw [State.vmemCheck]
  dsimp only
  rw [if_neg Bool.false_ne_true, laneCheck, if_neg hall]
  dsimp only
  rw [hnone]
  rfl

end

/-! ### Completed accesses -/

section
variable {s : State} {sid occ lat : Nat} {i : Instr}

theorem timedAccess_of_push {eff : Eff} (hexec : exec i s = .next ((s.portTaken sid occ).setStrand sid
    (((s.portTaken sid occ).strand sid).push 3 lat eff))) : TimedAccess s sid i occ lat false eff := by
  refine ⟨_, hexec, fun j hj => ?_, rfl, rfl, ?_⟩
  · exact (State.strand_setStrand_ne hj).trans (State.strand_setStrand_ne hj)
  · rw [State.strand_setStrand, State.strand_portTaken]
    rfl

theorem timedAccess_of_timedLoad {dst : LoadDst} {addrs : List (Option Nat)}
    (hexec : exec i s = .next ((s.portTaken sid occ).timedLoad sid 3 lat dst addrs)) (hopen : s.refreshInM sid lat addrs = false) :
    TimedAccess s sid i occ lat true (.load dst addrs none) := by
  refine ⟨_, hexec.trans (congrArg _ (State.timedLoad_open hopen)), fun j hj => ?_, rfl, rfl, ?_⟩
  · exact (State.strand_setStrand_ne hj).trans (State.strand_setStrand_ne hj)
  · rw [State.strand_setStrand, State.strand_portTaken]
    rfl

section
variable {r : BitVec 6} {c : BitVec 5} {cap : Cap} {lanes : List Nat} {off : Nat → Nat} {whole : Bool} {extra : Nat} {resid : Option Nat}
  {clear : Bool} (hcap : (s.strand sid).rc c.toNat = cap)
include hcap

theorem timedAccess_of_vload
    (hexec : exec i s = .next ((s.portTaken sid 4).vload sid r c ⟨lanes, lanes.map off, whole, extra⟩ resid clear))
    (hok : (s.portTaken sid 4).vmemCheck sid cap ⟨lanes, lanes.map off, whole, extra⟩ false = none)
    (hlat : s.accLat sid cap ((lanes.map off).headD 0) vldLat true + extra = lat)
    (hopen : s.refreshInM sid lat (lanes.flatMap fun l => s.capBytes sid cap (off l) 4) = false) :
    TimedAccess s sid i 4 lat true (.load (.v r.toNat (lanes.map fun l => (l, true)) resid clear)
      (lanes.flatMap fun l => s.capBytes sid cap (off l) 4) none) := by
  have hcap' : ((s.portTaken sid 4).strand sid).rc c.toNat = cap := (State.rc_portTaken _).trans hcap
  rw [State.vload_checked hcap' hok, List.flatMap_map, State.accLat_portTaken, hlat] at hexec
  simp only [State.capBytes_portTaken] at hexec
  exact timedAccess_of_timedLoad hexec hopen

theorem timedAccess_of_vstore
    (hexec : exec i s = .next ((s.portTaken sid 4).vstore sid r c ⟨lanes, lanes.map off, whole, extra⟩ resid clear))
    (hok : (s.portTaken sid 4).vmemCheck sid cap ⟨lanes, lanes.map off, whole, extra⟩ true = none)
    (hlat : s.accLat sid cap ((lanes.map off).headD 0) vldLat false + extra = lat) :
    TimedAccess s sid i 4 lat false (.store (lanes.flatMap fun l =>
      (s.capBytes sid cap (off l) 4).zip (bytesOf 4 ((s.strand sid).lane r.toNat l).toNat)) resid clear lanes) := by
  have hcap' : ((s.portTaken sid 4).strand sid).rc c.toNat = cap := (State.rc_portTaken _).trans hcap
  rw [State.vstore_checked hcap' hok, ← List.map_prod_left_eq_zip, List.flatMap_map, State.accLat_portTaken, hlat] at hexec
  simp only [State.capBytes_portTaken, State.lane_portTaken] at hexec
  exact timedAccess_of_push hexec

end

end

end Sys2Proof.Machine
end

section
/-! SUPPORT. The obligation on timed memory words. -/

open Sys2Proof Sys2Proof.Machine

/-- A word of the vector mould goes by its checked access: a load opens or meets a refresh window, a store is pending. -/
theorem vectorMemoryWords : Rule.VectorMemoryWords := by
  intro s sid r k c p hcur hfree s1 st cap o lanes off whole some_ loads stores resid
  have hload (x : VMem) (y : Option Nat) (clear : Bool) (i : Instr) (hi : exec i s = .next (s1.vload sid r c x y clear))
      (hok : s1.vmemCheck sid cap x false = none) : loads i x y clear := by
    have hissue := hi.trans (congrArg _ (State.vload_checked rfl hok))
    exact ⟨fun hopen => ⟨_, hissue.trans (congrArg _ (State.timedLoad_open hopen)), fun l => get_mapTrue⟩,
      fun hrefresh => hissue.trans (congrArg _ (State.timedLoad_refreshed hrefresh))⟩
  have hstore (x : VMem) (y : Option Nat) (clear : Bool) (i : Instr) (hi : exec i s = .next (s1.vstore sid r c x y clear))
      (hok : s1.vmemCheck sid cap x true = none) : stores i x y clear := hi.trans (congrArg _ (State.vstore_checked rfl hok))
  exact ⟨hload whole resid false _ (execVld_free hcur hfree), hstore whole resid false _ (execVst_free hcur hfree),
    hload some_ (some p.toNat) true _ (execVldx_free hcur hfree), hstore some_ (some p.toNat) true _ (execVstx_free hcur hfree)⟩

theorem predicateAndCapabilityMemoryWords : Rule.PredicateAndCapabilityMemoryWords := by
  intro s sid r k c h i hcur hfree st0 cap o oc s1 s4
  exact ⟨fun haligned => ⟨execPld_checked hcur hfree rfl rfl rfl haligned, execPst_checked hcur hfree rfl rfl rfl haligned rfl⟩,
    fun haligned => ⟨execCld_checked hcur hfree rfl rfl rfl haligned, fun hok =>
      ⟨execCst_storable hcur hfree rfl rfl rfl haligned rfl hok, execCst_null hcur hfree rfl rfl rfl haligned rfl hok⟩⟩⟩

/-- The accesses of f04 R91, R113 and R161, each through the check its word makes of it. -/
theorem timedMemoryWordsComplete : Rule.TimedMemoryWordsComplete := by
  intro s sid r k c p h i hcur hfree st cap base o oc resid active off first on lat stored pred opens
  have hread {o n : Nat} (hok : AccessOk s sid cap o n rightR false) : s.oneCheck sid cap false o n = none := readCheck_of_accessOk hok
  have hwrite {o n : Nat} (hok : AccessOk s sid cap o n rightW true) : s.oneCheck sid cap true o n = none := writeCheck_of_accessOk hok
  have hchecks {occ o n : Nat} {store : Bool} (hok : s.oneCheck sid cap store o n = none) :
      (s.portTaken sid occ).oneCheck sid cap store o n = none := State.oneCheck_portTaken.trans hok
  have hwhole : ((s.portTaken sid 4).strand sid).wholeMem k = wholeFrom o := by
    rw [State.strand_portTaken]
    rfl
  have hindexed : ((s.portTaken sid 4).strand sid).indexedMem k p.toNat = ⟨active, active.map off, false, 4⟩ := by
    rw [State.strand_portTaken]
    rfl
  refine ⟨fun haligned => ⟨fun hok hopen => ?vld, fun hok => ?vst⟩, fun haligned => ⟨fun hok hopen => ?vldx, fun hok => ?vstx⟩,
    fun haligned => ⟨fun hok hopen => ?pld, fun hok => ?pst⟩, fun haligned => ⟨fun hok hopen => ?cld, fun hok hright => ?cst⟩⟩
  case vld =>
    exact timedAccess_of_vload rfl ((execVld_free hcur hfree).trans (by rw [hwhole]; rfl))
      (vmemCheck_wholeFrom haligned (hchecks (hread hok))) (congrArg (fun o => s.accLat sid cap o vldLat true + 0) (wholeFrom_headD o)) hopen
  case vst =>
    exact timedAccess_of_vstore rfl ((execVst_free hcur hfree).trans (by rw [hwhole]; rfl))
      (vmemCheck_wholeFrom haligned (hchecks (hwrite hok))) (congrArg (fun o => s.accLat sid cap o vldLat false + 0) (wholeFrom_headD o))
  case vldx =>
    exact timedAccess_of_vload rfl ((execVldx_free hcur hfree).trans (by rw [hindexed]))
      (vmemCheck_lanes haligned fun l hl => hchecks (hread (hok l hl))) rfl hopen
  case vstx =>
    exact timedAccess_of_vstore rfl ((execVstx_free hcur hfree).trans (by rw [hindexed]))
      (vmemCheck_lanes haligned fun l hl => hchecks (hwrite (hok l hl))) rfl
  case pld =>
    have hexec := execPld_checked (r := r) (h := h) hcur hfree rfl rfl rfl haligned (hchecks (hread hok))
    rw [State.accLat_portTaken, State.capBytes_portTaken] at hexec
    exact timedAccess_of_timedLoad hexec hopen
  case pst =>
    have hexec := execPst_checked (r := r) (h := h) hcur hfree rfl rfl rfl haligned rfl (hchecks (hwrite hok))
    rw [State.accLat_portTaken, State.capBytes_portTaken] at hexec
    exact timedAccess_of_push hexec
  case cld =>
    have hexec := execCld_checked (r := r) (i := i) hcur hfree rfl rfl rfl haligned (hchecks (hread hok))
    rw [State.accLat_portTaken, State.capBytes_portTaken] at hexec
    exact timedAccess_of_timedLoad hexec hopen
  case cst =>
    have hexec := execCst_storable (r := r) (i := i) hcur hfree rfl rfl rfl haligned rfl (hchecks (hwrite hok)) hright
    rw [State.cstStored, State.accLat_portTaken, State.capBytes_portTaken] at hexec
    exact timedAccess_of_push hexec

/-- Settles O32, by its three rules. -/
theorem timedMemoryWords : Obligations.TimedMemoryWords :=
  ⟨vectorMemoryWords, predicateAndCapabilityMemoryWords, timedMemoryWordsComplete⟩

end
